-- ==== Sys2Proof/Word.lean ====
section
/-! DEFINITION. The word types of the device and the plain-data containers State is built of. -/

namespace Sys2Proof

/-- A 32-bit register word or vector lane. -/
abbrev Word := BitVec 32

/-- A 64-bit value: an A register, a device time, a long counter. -/
abbrev Long := BitVec 64

/-- One byte. -/
abbrev Byte := BitVec 8

/-- A byte string, first byte first. -/
abbrev Bytes := List Byte

/-- Byte memory: (address, byte) pairs, addresses strictly rising, no entry 0 (an unlisted byte reads 0). -/
abbrev Mem := List Host.Cell

/-- A sparse table: (key, value) pairs, keys strictly rising, no entry equal to the table's default. -/
abbrev Tab (α : Type) := List (Nat × α)

end Sys2Proof
end

