-- ==== Sys2Proof/Syntax.lean ====
section
/-! DEFINITION. The commands of the block: one constructor of `Instr` for each row of the opcode table, and the
operand types they name. The table gives no bits to any row, so an operand is what the spec's rule says the step is
given from outside: a register write's value, a slot's operand field, a measured quantity, bytes fetched from host
memory, the unit the step happens in. -/

namespace Sys2Proof

/-- A physical core: physical region `r = 32·py + px` (R471) and physical core index `k`, 0 to 16 (R12). -/
structure CoreId where
  r : Nat
  k : Nat
  deriving DecidableEq, Repr

/-- A temperature sensor of Table 15-1. -/
inductive Sensor where
  | coreDiode (c : CoreId)
  | coreRing (c : CoreId)
  | regulator (r i : Nat)
  | welt (i : Nat)
  | converter (i : Nat)
  | flash
  deriving DecidableEq, Repr

/-- A tray coolant sensor of Table 15-3. -/
inductive CoolantSensor where
  | inlet
  | outlet
  | flow
  deriving DecidableEq, Repr

/-- What the codeword check of a read finds (R58, R242, R246): nothing, one or two bits corrected in a codeword, or an
uncorrectable codeword. -/
inductive CodeCheck where
  | clean
  | corrected (bits : Nat)
  | uncorrectable
  deriving DecidableEq, Repr

/-- A local memory a scrub or an injected error can lie in. -/
inductive Store where
  | am
  | wsb
  | psm
  | im
  | seqSram
  | keeper
  deriving DecidableEq, Repr

/-- What one region shows in ST5 (R383): the causes of Table 01-3 it fails with, its failed cores, and its failed
regulator phases. `cause` 0 means it passes. -/
structure SelfTest where
  r : Nat
  cause : Nat
  failedCores : List Nat
  coreFail : BitVec 8
  memFail : BitVec 4
  deriving DecidableEq, Repr

/-- What ST1 reads from one flash bank (R436, R437): the image's header bytes 0 to 511 and its payload, or a read error. -/
inductive BankRead where
  | empty
  | readError
  | image (header payload : List Byte)
  deriving DecidableEq, Repr

/-- What ST2 reads from the fuses (R6, R17, R18, R22, R248, R355, R437, R455, R485). -/
structure Fuses where
  serial : Long
  /-- 0 W1-A, 1 W1-B. -/
  grade : Nat
  /-- 0 A0, 1 B0. -/
  stepping : Nat
  /-- 0 standard, 1 sealed. -/
  option : Nat
  /-- Physical columns a grade fuse names. -/
  removed : List Nat
  /-- Physical regions marked dead, cause 1. -/
  dead : List Nat
  /-- Cores marked bad. -/
  badCores : List CoreId
  /-- Core rail setpoint in mV at (4·region + step code). -/
  rail : Tab Nat
  /-- Spare rows already used at manufacture, by slice number 17·r + k. -/
  rowsUsed : Tab Nat
  /-- Anti-rollback counters: fuses blown, 0 to 64. -/
  cntM : Nat
  cntS : Nat
  /-- Debug fused off by FUSE kind 3 (option S fuses it off too). -/
  debugOff : Bool
  deriving DecidableEq, Repr

/-- One memory-test outcome of ST7 (R384): a region whose memory is not repairable, a repair slice beyond its spares, or
spare rows taken by repairs of slice (r, k). -/
inductive MemTest where
  | regionDead (r : Nat)
  | repairSliceBad (r : Nat)
  | rowsRepaired (r k n : Nat)
  deriving DecidableEq, Repr

/-- How an edge port's training ends (R388): the lane set in use, empty for down. -/
structure TrainResult where
  width : Nat
  lanes : BitVec 8
  deriving DecidableEq, Repr


/-- The commands: one constructor per row of the opcode table, in the table's order.
`port` is the host port (0 H0, 1 H1); `r` a physical region 32·py + px; `p` a partition; `v` a register write's value;
`o` the operand field of an instruction slot (R103); `i` the place of a flit, request or round in its queue. -/
inductive Instr where
  | distIdxWrite (v : Word)
  | bundleIssue (c : CoreId)
  | waitTimeout (c : CoreId)
  | sensorSample (sn : Sensor) (code : Option Nat)
  | sensorPairSuspect (c : CoreId)
  | dmm (c : CoreId) (o : BitVec 46)
  | dmmt (c : CoreId) (o : BitVec 46)
  | dout (c : CoreId) (o : BitVec 46)
  | dadn (c : CoreId) (o : BitVec 46)
  | daup (c : CoreId) (o : BitVec 46)
  | drsc (c : CoreId) (o : BitVec 46)
  | vfma (c : CoreId) (o : BitVec 46)
  | vadd (c : CoreId) (o : BitVec 46)
  | vmul (c : CoreId) (o : BitVec 46)
  | vmin (c : CoreId) (o : BitVec 46)
  | vmax (c : CoreId) (o : BitVec 46)
  | vcmp (c : CoreId) (o : BitVec 46)
  | vsel (c : CoreId) (o : BitVec 46)
  | vbrl (c : CoreId) (o : BitVec 46)
  | vcvt (c : CoreId) (o : BitVec 46)
  | vacc (c : CoreId) (o : BitVec 46)
  | vrot (c : CoreId) (o : BitVec 46)
  | vrmax (c : CoreId) (o : BitVec 46)
  | vrsum (c : CoreId) (o : BitVec 46)
  | vexp (c : CoreId) (o : BitVec 46)
  | vrcp (c : CoreId) (o : BitVec 46)
  | vrsq (c : CoreId) (o : BitVec 46)
  | vact (c : CoreId) (o : BitVec 46)
  | vqnt (c : CoreId) (o : BitVec 46)
  | asmx (c : CoreId) (o : BitVec 46)
  | aend (c : CoreId) (o : BitVec 46)
  | arec (c : CoreId) (o : BitVec 46)
  | aop (c : CoreId) (o : BitVec 30)
  | aopi (c : CoreId) (o : BitVec 30)
  | cmp (c : CoreId) (o : BitVec 30)
  | plg (c : CoreId) (o : BitVec 30)
  | csr (c : CoreId) (o : BitVec 30)
  | cctl (c : CoreId) (o : BitVec 30)
  | wait (c : CoreId) (o : BitVec 30)
  | br (c : CoreId) (o : BitVec 30)
  | loop (c : CoreId) (o : BitVec 30)
  | tset (c : CoreId) (o : BitVec 30)
  | tadj (c : CoreId) (o : BitVec 30)
  | stl (c : CoreId) (o : BitVec 30)
  | halt (c : CoreId)
  | trc (c : CoreId) (o : BitVec 30)
  | lda (c : CoreId) (o : BitVec 38)
  | sta (c : CoreId) (o : BitVec 38)
  | ldv (c : CoreId) (o : BitVec 38)
  | stv (c : CoreId) (o : BitVec 38)
  | tld (c : CoreId) (o : BitVec 38)
  | mcp (c : CoreId) (o : BitVec 38)
  | vrd (c : CoreId) (o : BitVec 38)
  | vwr (c : CoreId) (o : BitVec 38)
  | spr (c : CoreId) (o : BitVec 38)
  | spw (c : CoreId) (o : BitVec 38)
  | snd (c : CoreId) (o : BitVec 38)
  | mcs (c : CoreId) (o : BitVec 38)
  | rds (c : CoreId) (o : BitVec 38)
  | sig (c : CoreId) (o : BitVec 38)
  | spoolCompletion (c : CoreId) (sp : Nat) (chk : CodeCheck)
  | flitDelivery (i : Nat)
  | flitHop (i : Nat) (singleBitError : Bool)
  | linkReplay (r q : Nat)
  | linkFailure (r q : Nat)
  | hubLinkTest (r q : Nat) (receiverFails senderFails : Bool)
  | multicastReplicate (i : Nat)
  | multicastStallTimeout (i branch : Nat)
  | reduceContribution (i : Nat)
  | reductionRoundForward (i : Nat)
  | reductionStallTimeout (i : Nat)
  | cmapPeriodTick (cycles : Nat)
  | fabCfgWrite (v : Word)
  | fabViolLogClear (v : Word)
  | fabStallLogClear (v : Word)
  | fabCmapData0Read (port : Nat)
  | seqInstruction (r : Nat) (chk : CodeCheck)
  | seqArrival (i : Nat)
  | sqRingConfig (r off : Nat) (v : Word)
  | sqEmit (r : Nat) (v : Word)
  | emissionDelivery (r : Nat)
  | sqMov (r : Nat) (v : Word)
  | moverCompletion (r : Nat) (chk : CodeCheck)
  | dueItemLateStall (p i : Nat)
  | dueItemLand (p i : Nat)
  | detourStart (p : Nat)
  | stopEpochReached (p : Nat)
  | ingestSegment (seg : Option Bytes) (last : Bool)
  | ingestHoldTimeout
  | ldrIngCfgWrite (v : Word)
  | ldrIngBytesLoRead (port : Nat)
  | heldWeightReleaseDone (r : Nat)
  | scrubRow (r : Nat) (chk : CodeCheck)
  | correctionWriteback (r k row : Nat)
  | rowRepairSwitch (r k row : Nat)
  | rimScrub (stack granule : Nat) (chk : CodeCheck)
  | rimChannelFail (stack channel : Nat)
  | alloc (r grp : Nat) (tent : Bool)
  | ref (r page : Nat)
  | deref (r page : Nat)
  | pin (r page : Nat)
  | unpin (r page : Nat)
  | copy (r page : Nat)
  | commit (r page : Nat)
  | evict (r page : Nat)
  | warm (r page : Nat)
  | query (r page : Nat)
  | copyCompletion (r page : Nat)
  | moveCompletion (r page : Nat)
  | pageZeroReported (r i : Nat)
  | pkCmdPresent (r : Nat) (v : Word)
  | leCmdStart (r : Nat) (v : Word)
  | listWalkDone (r : Nat)
  | prefixCreate (p : Nat) (handle : Long) (seq lh token : Nat)
  | admitSeq (p : Nat) (e : Bytes)
  | promptFetched (seq : Nat) (toks : Option (List Nat))
  | abort (p : Nat) (e : Bytes)
  | mask (p : Nat) (e : Bytes) (bitmap : Option Bytes)
  | adapterLoad (p : Nat) (e : Bytes) (manifest : Option Bytes)
  | adapterLoadDequeue (p : Nat)
  | adapterIngestDone (slot status : Nat)
  | adapterDrop (p : Nat) (e : Bytes)
  | hcreate (p : Nat) (e : Bytes)
  | hdelete (p : Nat) (e : Bytes)
  | choose (p : Nat) (e : Bytes)
  | batchRequest (p : Nat) (g : Bytes)
  | fallbackReport (p : Nat) (g : Bytes)
  | sampleCandidateFlit (u key src dsp raddr : Nat) (data : Bytes) (ce : Bool)
  | sampledRowTimeout (u b : Nat)
  | passCommit (p pass : Nat)
  | accountRefill
  | acctGrant (v : Word)
  | acctIdxWrite (v : Word)
  | snapshotLand
  | energyMeterTick (feedMicroJ : Nat)
  | srvInexactClear (v : Word)
  | outCiWrite (p : Nat) (v : Word)
  | outCfgWrite (p off : Nat) (v : Word)
  | srvPidleLoRead (port p : Nat)
  | precisionCfgWrite (p : Nat) (v : Word)
  | glbLockEpochLoRead (port p : Nat)
  | load (v : Word) (image : Option Bytes)
  | jobStart
  | kill (v : Word)
  | release (v : Word)
  | ldrPwrLimitWrite (v : Word)
  | stopTimeout (p : Nat)
  | allCoresHalted (p : Nat)
  | zeroizeDone (p : Nat) (verifyFailed : List Nat)
  | rimClearDone
  | activityWindowEnd (r sum : Nat)
  | powerOverrunCheck (r milliwatt coreMilliamp : Nat)
  | feedValid (f centivolt : Nat)
  | feedInvalid (f centivolt : Nat)
  | feedPresentOpen (f : Nat)
  | holdupStart
  | holdupEnd
  | converterFail (i : Nat)
  | fieldCapAdjust (f amps : Nat)
  | phaseFail (r : Nat) (memRail : Bool) (i : Nat)
  | regionPowerDown (r : Nat)
  | powerDownProceed (r : Nat)
  | currentLimiterTrip (r : Nat)
  | wakeStageRequest (r : Nat)
  | wakeStageGrant (f : Nat)
  | wakeComplete (r : Nat)
  | rushPriorityRaise (f : Nat)
  | rushPriorityLift (f : Nat)
  | ballastWindow (r activity : Nat)
  | clockStepChange (v : Word)
  | glideDone
  | pwrBallastWrite (v : Word)
  | pwrEnergyLoRead (port : Nat)
  | rgnwPwrELoRead (port r : Nat)
  | rgnwVminTcLoRead (port r : Nat)
  | rgnwVminTmLoRead (port r : Nat)
  | vminValidClear (r : Nat) (memRail : Bool) (v : Word)
  | rgnwTrcIdxWrite (r : Nat) (v : Word)
  | postedWriteApply (r : Nat)
  | coldStart
  | st0FeedsPresent
  | st1ManagementBoot (ref0 ref1 selfTest : Bool) (bankA bankB : BankRead) (portsUp : BitVec 2)
  | st2FuseRead (fuses : Option Fuses)
  | st3StackRailRamp (failedConverters : List Nat)
  | coolantWaitTimeout
  | st4MeshLock (decoupled : List Nat)
  | meshLockTimeout
  | st5RegionSelfTest (results : List SelfTest) (skipFailed : List Nat)
  | st6BuildLast
  | st7MemoryTest (results : List MemTest)
  | st8RimTraining (live : List (BitVec 32))
  | st9MeshRoutes (failedLinks : List (Nat × Nat))
  | st10EdgeTraining
  | st10Record
  | st11Readiness
  | edgeTrainRetry (k : Nat)
  | restartByHost (v : Word)
  | restartByContact
  | restartPowerDown (selfTest : Bool)
  | hostPortReset (port : Nat)
  | nodeDecouple (r : Nat)
  | refSwitchover
  | refReturn (ref : Nat)
  | clkTimeLoRead (port : Nat)
  | stgLocData0Read (port : Nat)
  | aliveOutToggle
  | throttleGraceExpire (r : Nat)
  | thermalStretchAdjust (r : Nat)
  | converterOvertemp (i : Nat)
  | coolantPoll (sn : CoolantSensor) (raw : Option (BitVec 16))
  | flowClampTimeout
  | coolantSensorReaddress (sn : CoolantSensor)
  | governorLimitUpdate (meanWatts : Nat)
  | governorHoldAdjust (watts : Nat)
  | thmCfgWrite (v : Word)
  | flashWriteResume
  | mgmtWatchdogExpire
  | recoveryQuietExpire
  | rearm (v : Word)
  | recover (v : Word)
  | resumeRepair (v : Word)
  | endRepair (v : Word)
  | fltCfgWrite (v : Word)
  | fltLogData0Read (port : Nat)
  | coreFailure (c : CoreId)
  | spareProcedureStep (shipped : Bool)
  | spareShipmentTimeout
  | jobResume
  | istWindow (r : Nat) (pass : Bool) (uncore : Bool) (sensorsAgree : Bool)
  | faultInjectArm (v : Word)
  | logCopy (block : Option Bytes)
  | stage (block : Option Bytes) (image : Option Bytes)
  | select
  | svcClear (block : Option Bytes)
  | pcr (block : Option Bytes) (request : Option Bytes)
  | debugAccess (block : Option Bytes) (buffer : Option Bytes)
  | mctpMessage (msgType : Nat) (body : Bytes)
  | getVersion (req : Bytes)
  | getCapabilities (req : Bytes)
  | negotiateAlgorithms (req : Bytes)
  | getDigests (req : Bytes)
  | getCertificate (req : Bytes)
  | challenge (req : Bytes)
  | getMeasurements (req : Bytes)
  | keyExchange (req : Bytes)
  | finish (session : Nat) (req : Bytes)
  | heartbeat (session : Nat) (req : Bytes)
  | keyUpdate (session : Nat) (req : Bytes)
  | endSession (session : Nat) (req : Bytes)
  | setKey (req : Bytes)
  | setPolicy (req : Bytes)
  | debug (req : Bytes)
  | updatePolicy (req : Bytes)
  | enrol (req : Bytes)
  | remove (req : Bytes)
  | fuse (req : Bytes)
  | approve (req : Bytes)
  | rollbackCounterAdvance
  | secSelfTestPeriodic (pass : Bool)
  | entropyHealthFail
  | mgtLogLoRead (port : Nat)
  | secCtrLoRead (port : Nat)
  | secDbgLoRead (port : Nat)
  | glbSerialLoRead (port : Nat)
  | cmdPi (p : Nat) (v : Word)
  | assPi (p : Nat) (v : Word)
  | cplCi (p : Nat) (v : Word)
  | outCi (p : Nat) (v : Word)
  | xferPi (n : Nat) (v : Word)
  | ringCfgWrite (p : Nat) (v : Word)
  | xferCfgWrite (n : Nat) (v : Word)
  | ringEntryFetch (p : Nat) (assist : Bool) (e : Option Bytes)
  | keeper (p : Nat) (e : Bytes)
  | walk (p : Nat) (e : Bytes) (list : Option Bytes)
  | mover (p : Nat) (e : Bytes)
  | xferEntryFetch (n : Nat) (e : Option Bytes) (data : Option Bytes)
  | msixHoldoffExpire (port vector : Nat)
  | pmodeWrite (p : Nat) (v : Word)
  | glbModeWrite (v : Word)
  | registerWrite (port addr : Nat) (enables : BitVec 4) (v : Word)
  | edgeSend (k : Nat) (key src raddr : Nat) (data : Bytes) (isSnd : Bool)
  | edgeFrameRx (k : Nat) (frame : Bytes)
  | edgeControlFrame (k : Nat) (frame : Bytes)
  | edgeControlTimer (k : Nat)
  | edgeReplay (k : Nat) (fromLseq : Option Nat)
  | edgeLinkLoss (k : Nat)
  | edgeIngestFrame (k : Nat) (frame : Bytes)
  | retrain (v : Word)
  | disable (v : Word)
  | enable (v : Word)
  | modResetNRelease
  | hostPortLinkUp (port speed width : Nat)
  | edgeTrainingSettled (k : Nat) (result : TrainResult)
  | stageFlashGateTimeout
  | recentRecoveryExpire
  | scratchpadScrub (c : CoreId) (st : Store) (addr : Nat) (chk : CodeCheck)
  | railVoltageSample (r : Nat) (memRail : Bool) (mv : Nat)
  deriving DecidableEq, Repr

end Sys2Proof
end

