-- ==== Sys2Proof/Decode.lean ====
section
/-! DEFINITION. The command a table word spells. The opcode table gives no row any bits, so no word spells a command. -/

namespace Sys2Proof

/-- Rows of the opcode table that give bits: none. -/
def tableRows : List (Nat × Nat × Nat × Instr) := []

/-- Rows are (bits, mask, pattern, command); a word spells the first row it matches. -/
def matchRows (rows : List (Nat × Nat × Nat × Instr)) (nbits w : Nat) : Option Instr :=
  match rows with
  | [] => none
  | (n, mask, pat, i) :: t => if n = nbits ∧ w &&& mask = pat then some i else matchRows t nbits w

def decodeTableWord (nbits w : Nat) : Option Instr := matchRows tableRows nbits w

end Sys2Proof
end

