-- ==== Sys2Proof/Config.lean ====
section
/-! DEFINITION. The free values: constants without a body, one for each value the spec leaves open and the machine goes on
with. Nothing can be proved about a value of any of them, so a claim that holds, holds whatever it is. Each is named in the
assumption log. -/

namespace Sys2Proof

/-- Reference-score mode (R96): the result of transcendental function `fn` at an operand. -/
opaque Config.referenceFn (fn : Nat) (x : Word) : Word

/-- Bounded mode (R99): the result the hardware would choose inside the bound of Table 03-10. -/
opaque Config.boundedFn (fn : Nat) (x : Word) : Word

/-- AEND (R152): the row log-sum-exp of a row with maximum m and sum l. -/
opaque Config.logSumExp (m l : Word) : Word

/-- Sampling (R314): the unit's ln of the sum that the shard statistics give; used where it lies within 2 ulp, else the nearest value is. -/
opaque Config.rowLog (stats : List (Word × Word)) : Word

/-- A choice between two contents that the spec allows (R174, R221), the n-th drawn. -/
opaque Config.choice (n : Nat) : Bool

/-- A number the spec leaves to the hardware (which free record or slot ALLOC takes, R274), the n-th drawn. -/
opaque Config.pick (n : Nat) : Nat

/-- The content of a Zstandard frame inside the limits of R255; `none` for a frame the engine refuses. RFC 8878 is named by the
spec and not restated in it. -/
opaque Config.zstd (frame : Bytes) : Option Bytes

/-- A result the spec does not state, at an operand; `site` numbers the places, each named in the assumption log. -/
opaque Config.unstated (site x : Nat) : Nat

/-- The release public key in the boot ROM (R434, R436). -/
opaque Config.releaseKey : List Byte

/-- The public identity key of the device (R446), derived from the physically unclonable function and the fuse seed. -/
opaque Config.identityKey : List Byte

/-- What an SPDM response carries that the spec does not state (random numbers, certificates, key-exchange data, signatures), by the
request, the n-th drawn (R447). -/
opaque Config.spdm (n : Nat) (request : List Byte) : List Byte

/-- Bytes measured by R448 whose content or composition the spec does not give (ROM; the layout of measurements 3 to 6). -/
opaque Config.measured (index : Nat) (content : List Byte) : List Byte

end Sys2Proof
end

