-- ==== Sys2Proof/Machine/State.lean ====
section
/-! DEFINITION. The whole state of the block as plain data, and the state after reset.

Every software-visible register with a BAR0 address has ONE home, the table `State.regs` (address, word): an address it
does not list reads the reset value that `Sys2Proof.Machine.regReset` (Machine/Regs.lean) gives it from the spec's
register tables. The structures below hold what no register shows. -/

namespace Sys2Proof.Machine

/-! ### The core (chapters 02, 04, 05, 06) -/

/-- RGNW_CORE_STATk.STATE (Table 02-8), in code order. -/
inductive CorePhase where
  | off
  | idle
  | running
  | haltedTB
  | zeroizing
  | failed
  | ended
  | stopped
  deriving DecidableEq, Repr

/-- One accumulator (R46): the signed 64-bit integer, and the saturated state of R48. -/
structure Acc where
  val : Int
  sat : Bool
  deriving DecidableEq, Repr

/-- One level of the loop stack (R164). -/
structure LoopLevel where
  start : Nat
  last : Nat
  remaining : Nat
  deriving DecidableEq, Repr

/-- The per-row state of the online softmax (R52, R151): running maximum and running sum, binary32. -/
structure AttnRow where
  m : Word
  l : Word
  deriving DecidableEq, Repr

/-- A dot-slot operation under way: the descriptors, index word and fields it read at issue (R131). -/
structure DotJob where
  tp : BitVec 128
  tw : BitVec 128
  tx : BitVec 128
  tm : BitVec 128
  idx : Long
  nb : Nat
  kt : Nat
  acc : Bool
  fbs : Nat
  msk : Bool
  /-- T register numbers of TW and TX, for INFO of a late detection. -/
  nw : Nat
  nx : Nat
  deriving DecidableEq, Repr

/-- An ASMX or AREC under way: what it read at issue (R150, R151, R154). -/
structure AttnJob where
  ts : BitVec 128
  tp : BitVec 128
  tm : BitVec 128
  tst : BitVec 128
  scale : Long
  va : Nat
  q0 : Nat
  nr : Nat
  msk : Bool
  start : Bool
  deriving DecidableEq, Repr

/-- A later cycle's work of an instruction already issued: it samples its operands in the cycle it is due. -/
inductive Micro where
  | dmmPair (job : DotJob) (j v o : Nat) (tile : Bytes)
  | dmmtPair (job : DotJob) (j v : Nat)
  | doutPair (job : DotJob) (i : Nat)
  | dadnRow (job : DotJob) (v : Nat)
  | daupRow (job : DotJob) (v : Nat)
  | ldvHalf (vd space addr : Nat)
  | mcpFlit (srcSpace src dstSpace dst : Nat)
  | vrdRow (toFill : Bool) (row dst : Nat)
  | vwrQuarter (space src row quarter : Nat)
  | asmxRow (job : AttnJob) (k : Nat)
  | arecRow (job : AttnJob) (k : Nat)
  deriving DecidableEq, Repr

/-- What an operation in flight does in the cycle its result becomes readable (R59, R109, R113). -/
inductive Eff where
  | regA (i : Nat) (v : Long)
  | regP (i : Nat) (b : Bool)
  | lanes (vd : Nat) (vals : Tab Word)
  | desc (i : Nat) (v : BitVec 128)
  | descBase (i : Nat) (base : BitVec 26)
  | ctrSet (n : Nat) (v : Word)
  | ctrAdd (n : Nat) (v : Word) (arrival : Bool)
  | ctrSub (n : Nat) (v : Word)
  | bytes (space addr : Nat) (data : Bytes)
  | imSeen (addr : Nat) (data : Bytes)
  | fill (addr : Nat) (data : Bytes)
  | accWrite (idx : Nat) (vals : List Acc)
  | accScale (idx count : Nat) (alpha : Word)
  | accAdd (idx : Nat) (vals : List Int)
  | accMark (idx : Nat) (positive : Bool)
  | slice (addr : Nat) (data : Bytes)
  | satSet
  | satClear
  | attnSet (q : Nat) (row : AttnRow)
  | attnEmpty (q : Nat)
  | spoolFree (sp : Nat)
  | detect (code slot info : Nat)
  | micro (m : Micro)
  deriving DecidableEq, Repr

/-- An effect in flight: the cycle it is due, and the slot that orders it among effects of one cycle
(0 CTL, 1 MOV, 2 DOT, 3 VEC, 4 NET). -/
structure Flight where
  due : Nat
  slot : Nat
  eff : Eff
  deriving DecidableEq, Repr

/-- A spool entry (R173, R197): a request under way. `refused` marks one outside the allocation, which keeps its entry. -/
structure SpoolReq where
  sp : Nat
  write : Bool
  space : Nat
  localAddr : Nat
  rim : Nat
  kib : Nat
  ctr : Option Nat
  refused : Bool
  /-- SPW: the source as it stood at issue (R174). -/
  data : Bytes
  /-- SPR: former content of rim bytes that writes through other spools have replaced since issue (R174). -/
  old : Tab Byte
  deriving DecidableEq, Repr

/-- Where a flit stands (R210, R216): in a core's injection queue, in an input buffer of a hub, or at the welt. -/
inductive FlitLoc where
  | inject (r k : Nat)
  | hub (r q : Nat)
  | welt (r q : Nat)
  | eject (r : Nat)
  deriving DecidableEq, Repr

/-- What a flit carries (R177, R179, R180, R181). -/
inductive FlitKind where
  | send
  | multicast
  | signal
  | signalMulti
  | contribution
  | reduced
  deriving DecidableEq, Repr

/-- A branch of a bridle entry (R226): a ring direction 0 to 3, a stub 8 or 9, a logical core, or the sequencer. -/
inductive Branch where
  | dir (q : Nat)
  | stub (q : Nat)
  | core (n : Nat)
  | seq
  deriving DecidableEq, Repr

/-- A flit in the fabric or at a core's injection queue (R211). -/
structure Flit where
  kind : FlitKind
  src : Nat
  dest : Nat
  key : Nat
  loc : FlitLoc
  data : Bytes
  accs : List Acc
  space : Nat
  raddr : Nat
  cn : Nat
  ce : Bool
  index : Nat
  /-- Branches of a multicast that have not taken their copy at this hub; `none` before the entry is looked up. -/
  left : Option (List Branch)
  /-- Device time at which the flit came to the head of its buffer with its entry found (R228). -/
  headSince : Option Long
  /-- R201: cycle of the source core (of a sum, its first contributor's) at which the flit issued, with the cycles its hops and
  its combining have added; `none` outside stall mode. -/
  landing : Option Nat
  /-- Its one multicast-stall fault has been raised (R228). -/
  stalled : Bool
  /-- Epoch of the partition at the issue (R204). -/
  sentAt : Nat
  deriving DecidableEq, Repr

/-- One physical core. `now` counts its unstretched cycles; `flight` holds what is due. -/
structure Core where
  phase : CorePhase
  powered : Bool
  logical : Option Nat
  part : Option Nat
  pc : Nat
  lastPc : Nat
  imLen : Nat
  now : Nat
  nextIssue : Nat
  hold : Nat
  a : Tab Long
  preds : BitVec 8
  ctrs : Tab Word
  v : Tab Word
  t : Tab (BitVec 128)
  sat : Bool
  ovl : BitVec 16
  det : Word
  loops : List LoopLevel
  am : Mem
  wsb : Mem
  im : Mem
  imSeen : Mem
  psm : Tab Acc
  fillBuf : Mem
  slice : Mem
  attn : Tab AttnRow
  busyMov : Nat
  busyDot : Nat
  busyVec : Nat
  busyPort : Nat
  flight : List Flight
  spools : List SpoolReq
  /-- Latest valid readings (R63) and the times the pair began to disagree by 10 °C or to lack a reading (R397). -/
  tempD : Option Nat
  tempR : Option Nat
  suspect : Bool
  suspectSince : Option Long
  missingSince : Option Long
  lastDisagreeLog : Option Long
  deriving DecidableEq, Repr

/-- A core as reset and zeroization leave it: every register 0, P0 read 1 by its accessor, memories 0. -/
def Core.zero : Core where
  phase := .off
  powered := false
  logical := none
  part := none
  pc := 0
  lastPc := 0
  imLen := 0
  now := 0
  nextIssue := 0
  hold := 0
  a := []
  preds := 0
  ctrs := []
  v := []
  t := []
  sat := false
  ovl := 0
  det := 0
  loops := []
  am := []
  wsb := []
  im := []
  imSeen := []
  psm := []
  fillBuf := []
  slice := []
  attn := []
  busyMov := 0
  busyDot := 0
  busyVec := 0
  busyPort := 0
  flight := []
  spools := []
  tempD := none
  tempR := none
  suspect := false
  suspectSince := none
  missingSince := none
  lastDisagreeLog := none

/-! ### The region (chapters 07, 08, 09, 10, 13, 15, 16) -/

/-- The region sequencer (R186 to R191). -/
structure Sequencer where
  x : Tab Word
  pc : Word
  sram : Mem
  sc : Tab Word
  /-- 0 off, 1 service program, 2 job program, 3 held in WFI, 4 faulted (Table 07-7). -/
  state : Nat
  fcode : Nat
  lastRetired : Word
  /-- SC values when WFI began; it ends when one changes. -/
  wfiSnap : Tab Word
  deriving DecidableEq, Repr

/-- An emission presented and not yet held in every target (R193): its bytes and the ring configuration it was presented
under. -/
structure Emission where
  data : Bytes
  mask : BitVec 16
  cn : Nat
  base : Nat
  log2 : Nat
  slot : Nat
  due : Option Nat
  ring : Nat
  fromList : Bool
  deriving DecidableEq, Repr

/-- A mover descriptor in the mover queue (Table 07-3). `done`: every KiB is in place and its landing is still to come.
`assist` is the partition and tag of the assist entry that presented it (R479). -/
structure Move where
  src : Nat
  dst : Nat
  kib : Nat
  srcRim : Bool
  dstRim : Bool
  scn : Nat
  cn : Nat
  mask : BitVec 16
  due : Option Nat
  done : Bool
  assist : Option (Nat × Nat)
  deriving DecidableEq, Repr

/-- A page record of the keeper (R273). `state` is STATE 0 to 6. -/
structure PageRec where
  grp : Nat
  state : Nat
  ref : Nat
  pin : Nat
  handles : Nat
  slot : Nat
  rslot : Nat
  deriving DecidableEq, Repr

/-- Where a keeper operation came from (R274), so that its result goes back there. -/
inductive KeeperSrc where
  | sequencer (sramAddr scn : Nat)
  | serving
  | prefixTable
  | assist (p tag : Nat)
  deriving DecidableEq, Repr

/-- A keeper operation waiting in the queue (R274, Table 10-4). -/
structure KeeperOp where
  code : Nat
  tent : Bool
  grp : Nat
  page : Nat
  src : KeeperSrc
  deriving DecidableEq, Repr

/-- A copy or move under way (R276, R277): `kind` 6 COPY, 8 EVICT, 9 WARM; `page` its record, `other` the new record of a COPY;
`tent`: the source of a COPY was tentative. -/
structure PageMove where
  kind : Nat
  page : Nat
  other : Nat
  src : KeeperSrc
  tent : Bool
  deriving DecidableEq, Repr

/-- A slot or rim slot awaiting its zeroing (R275). `index` is the record whose identifier waits with it, for a reclaimed
page. -/
structure ZeroOrder where
  rim : Bool
  grp : Nat
  slot : Nat
  index : Option Nat
  deriving DecidableEq, Repr

/-- The page keeper of a region (R273 to R278). Records, slots and rim slots not listed are free. -/
structure Keeper where
  owner : Bool
  model : Nat
  rsel : Nat
  csplit : Nat
  slots : Nat
  rslots : Nat
  recs : Tab PageRec
  zeroing : List ZeroOrder
  queue : List KeeperOp
  moves : List PageMove
  heldPins : List (Nat × KeeperSrc)
  deriving DecidableEq, Repr

/-- The list engine (R282): the walk under way. -/
structure ListEngine where
  busy : Bool
  ring : Nat
  bonded : Bool
  addr : Nat
  k : Nat
  assist : Option (Nat × Nat)
  deriving DecidableEq, Repr

/-- A posted window write not yet applied (R472). -/
inductive Posted where
  | trcIdx (v : Word)
  | vmin (memRail : Bool)
  /-- A write that clears no VALID bit. -/
  | none_
  deriving DecidableEq, Repr

/-- One physical region, beside its cores and its window registers. -/
structure Region where
  /-- Cause of death, Table 01-3; 0 alive. -/
  cause : Nat
  failed : BitVec 17
  hubOn : Bool
  hubStopped : Bool
  spareFor : Option Nat
  part : Option Nat
  zeroizing : Bool
  poweringDown : Bool
  downSince : Option Long
  limiterOpen : Bool
  /-- 0 off, 1 uncore, 2 active (R360). -/
  pstate : Nat
  seq : Sequencer
  ringSlot : Tab Nat
  ringHigh : Tab Nat
  emissions : List Emission
  moves : List Move
  trace : Mem
  traceWr : Nat
  keeper : Keeper
  le : ListEngine
  posted : Option Posted
  /-- Held weights (R240): full weight identity, placement, model identity, key, and an uncorrectable row recorded. -/
  heldId : Bytes
  heldX : Nat
  heldY : Nat
  heldModel : Bytes
  heldKey : Nat
  heldBad : Bool
  /-- Spare rows used by slice, rows marked for repair, rows remapped, rows corrected in the last scrub pass, pending
  write-backs; keys 65536·k + row. -/
  rowsUsed : Tab Nat
  marked : List Nat
  remapped : List Nat
  lastPass : List Nat
  thisPass : List Nat
  writeBacks : List Nat
  /-- The one fault of R249 for a marked row without a spare has been raised. -/
  exhausted : Bool
  /-- Codewords holding injected errors (R431): checker class of Table 16-8 and word number. -/
  injected : List (Nat × Nat)
  /-- Stretch level asked by each source: overrun, field cap, rush priority, thermal, announcement, governor g. -/
  overrun : Bool
  cleanWindows : Nat
  /-- A power overrun fell within the activity window under way (R344). -/
  windowDirty : Bool
  ballastLast : Nat
  /-- Junction level by the region's own temperature (R399), beside the welt's. -/
  ownLevel : Nat
  kTherm : Nat
  capTherm : Nat
  throttleSince : Option Long
  leftThrottle : Option Long
  hotSince : Option Long
  coolSince : Option Long
  regulators : Tab Nat
  regulatorsLost : List Nat
  regMissing : Tab Long
  lastThermEvent : Option Long
  energy : Nat
  energyMs : Nat
  vminCoreTime : Long
  vminMemTime : Long
  /-- Wake in progress: cores to switch (17 bits, bit 17 uncore), next stage 0 to 4, asked at, stage waiting since. -/
  wake : Option (BitVec 18 × Nat × Long × Option Long)
  /-- In-service test (R428, R429): a slice waiting for its repeat (1 a core's, 2 one outside the cores), and the start of the pass. -/
  istFailed : Nat
  istStart : Option Long
  dotmax : Nat
  pw : Nat
  dgroup : Nat
  ridx : Nat
  deriving DecidableEq, Repr

def Sequencer.zero : Sequencer :=
  { x := [], pc := 0, sram := [], sc := [], state := 0, fcode := 0, lastRetired := 0, wfiSnap := [] }

def Keeper.zero : Keeper :=
  { owner := false, model := 0, rsel := 0, csplit := 1, slots := 0, rslots := 0, recs := [],
    zeroing := [], queue := [], moves := [], heldPins := [] }

def ListEngine.idle : ListEngine :=
  { busy := false, ring := 0, bonded := false, addr := 0, k := 0, assist := none }

/-- A region before bring-up: alive, unpowered, holding nothing. -/
def Region.zero : Region where
  cause := 0
  failed := 0
  hubOn := false
  hubStopped := false
  spareFor := none
  part := none
  zeroizing := false
  poweringDown := false
  downSince := none
  limiterOpen := false
  pstate := 0
  seq := Sequencer.zero
  ringSlot := []
  ringHigh := []
  emissions := []
  moves := []
  trace := []
  traceWr := 0
  keeper := Keeper.zero
  le := ListEngine.idle
  posted := none
  heldId := []
  heldX := 0
  heldY := 0
  heldModel := []
  heldKey := 0
  heldBad := false
  rowsUsed := []
  marked := []
  remapped := []
  lastPass := []
  thisPass := []
  writeBacks := []
  exhausted := false
  injected := []
  overrun := false
  cleanWindows := 0
  windowDirty := false
  ballastLast := 0
  ownLevel := 0
  kTherm := 0
  capTherm := 0
  throttleSince := none
  leftThrottle := none
  hotSince := none
  coolSince := none
  regulators := []
  regulatorsLost := []
  regMissing := []
  lastThermEvent := none
  energy := 0
  energyMs := 0
  vminCoreTime := 0
  vminMemTime := 0
  wake := none
  istFailed := 0
  istStart := none
  dotmax := 0
  pw := 0
  dgroup := 0
  ridx := 0

/-! ### The last (chapter 01) -/

/-- One physical column of a last (Table 01-8): removed by (0 no, 1 grade fuse, 2 dead regions or skip links), the
left-out row, and whether the left-out region is dead. -/
structure LastCol where
  removed : Nat
  leftOut : Nat
  spareUsed : Bool
  deriving DecidableEq, Repr

/-- The logical-grid map (R16, R19, R22): 32 columns, west to east; `noGrid` when R23 is broken. -/
structure Last where
  cols : List LastCol
  noGrid : Bool
  deriving DecidableEq, Repr

/-! ### Fabric (chapter 08) -/

/-- A welt endpoint (R13, R222). -/
inductive WeltEp where
  | serving
  | sampling (u : Nat)
  | edge (k : Nat)
  | rim (s : Nat)
  | host (n : Nat)
  | ingest
  | mgmt
  | faultCtl
  deriving DecidableEq, Repr

/-- The local port of an endpoint's hub-table entry (R220). -/
inductive EpPort where
  | core (n : Nat)
  | seq
  | welt (w : WeltEp)
  deriving DecidableEq, Repr

/-- An endpoint-table entry (R220). Directions: 0 shortest, 1 +, 2 −. -/
structure Endpoint where
  tag : Nat
  key : Nat
  shared : Bool
  x : Nat
  y : Nat
  port : EpPort
  rowDir : Nat
  colDir : Nat
  part : Option Nat
  deriving DecidableEq, Repr

/-- A bridle-store entry of one hub (R226). -/
structure BridleEntry where
  r : Nat
  key : Nat
  index : Nat
  branches : List Branch
  deriving DecidableEq, Repr

/-- A reduction-tree entry of one hub (R229): contributing inputs, and the single output. -/
structure TreeEntry where
  r : Nat
  key : Nat
  index : Nat
  inputs : List Branch
  out : Branch
  dest : Nat
  deriving DecidableEq, Repr

/-- An open reduction round (R229). -/
structure Round where
  r : Nat
  key : Nat
  index : Nat
  d : Nat
  got : List Branch
  /-- The contributions so far, each of sixteen accumulators. -/
  parts : List (List Acc)
  cn : Nat
  ce : Bool
  opened : Long
  landing : Option Nat
  src : Nat
  faulted : Bool
  deriving DecidableEq, Repr

structure Fabric where
  flits : List Flit
  endpoints : Tab Endpoint
  bridles : List BridleEntry
  trees : List TreeEntry
  rounds : List Round
  /-- Consecutive failed replays at (10·r + q). -/
  replays : Tab Nat
  /-- Failed links, as receiver-side (10·r + q). -/
  failedLinks : List Nat
  cmap : Tab (Nat × Nat)
  cmapGen : Nat
  prevFlits : Tab Nat
  prevHold : Tab Nat
  deriving DecidableEq, Repr

/-! ### Rim memory and ingest (chapter 09) -/

/-- A granted rim extent (R243). -/
structure Extent where
  stack : Nat
  base : Nat
  len : Nat
  write : Bool
  shared : Bool
  identity : Bytes
  model : Bytes
  key : Nat
  deriving DecidableEq, Repr

structure Rim where
  mem : Mem
  /-- Extents being cleared (R459), oldest first. -/
  clearing : List Extent
  /-- Shared extents still named (R243). -/
  sharedExts : List Extent
  deriving DecidableEq, Repr

/-- Progress of one tensor of the load's manifest (R255). `acc` holds its decompressed rows so far. -/
structure TensorProg where
  next : Nat
  done : Bool
  acc : Bytes
  deriving DecidableEq, Repr

/-- The ingest engine (R254 to R260). -/
structure Ingest where
  /-- The partition served, none when idle. -/
  part : Option Nat
  /-- 0 weights of a load, 1 an adapter generation (slot), 2 the spare procedure. -/
  purpose : Nat
  slot : Nat
  image : Bytes
  manifestAt : Nat
  tensors : Tab TensorProg
  heldSince : Option Long
  /-- Bytes not yet cut into segments, by source: 0 and 1 the host rings, 2 the edge ports, 3 segments given whole. -/
  bufs : Tab Bytes
  closed : Bool
  deriving DecidableEq, Repr

/-! ### Jobs (chapters 07, 12) -/

/-- A cache geometry record of the image (Table 10-2, R336). Layers: for each, the regions' RIDX and RIMBASE in KiB. -/
structure Geometry where
  model : Nat
  creg : Nat
  csplit : Nat
  efmt : Nat
  elayout : Nat
  train : Bool
  qrows : Nat
  escale : Nat
  elem : Nat
  trows : Nat
  rslots : Nat
  layers : List (List (Nat × Nat))
  deriving DecidableEq, Repr

/-- A stop rule (R316). -/
structure StopRule where
  kind : Nat
  incl : Bool
  toks : List Nat
  deriving DecidableEq, Repr

/-- The serving record of the image (Table 11-3, R336). -/
structure ServingRec where
  vocab : Nat
  nshard : Nat
  maxrows : Nat
  pchunk : Nat
  ctxmax : Nat
  fbk : Word
  fbkAddr : Nat
  fbkCn : Nat
  commitRidx : Nat
  commitBase : Nat
  commitLog2 : Nat
  commitCn : Nat
  trees : List (List Nat)
  rules : List (List StopRule)
  deriving DecidableEq, Repr

/-- A due item of stall mode (Table 07-4). -/
inductive DueKind where
  | spool (r k : Nat) (req : SpoolReq)
  | emission (r : Nat) (e : Emission)
  | mover (r : Nat) (m : Move)
  | feedback (pass row : Nat) (cores seqs : List Nat) (addr cn : Nat) (data : Bytes)
  deriving DecidableEq, Repr

structure DueItem where
  kind : DueKind
  due : Nat
  ready : Bool
  late : Bool
  deriving DecidableEq, Repr

/-- A region placed by a load: physical region and its shape entry (R328). -/
structure Placed where
  r : Nat
  x : Nat
  y : Nat
  roles : List Nat
  prog : Nat
  wres : Nat
  wpage : Nat
  cache : Nat
  adpt : Nat
  dotmax : Nat
  pw : Nat
  dgroup : Nat
  deriving DecidableEq, Repr

/-- A pass in flight (R297, R91). Each row: sequence, role, node, position, token sent. -/
structure PassRow where
  seq : Nat
  role : Nat
  node : Nat
  pos : Nat
  tok : Nat
  deriving DecidableEq, Repr

/-- What a sampled row yields (R312, R318): the chosen token, its log-probability, or no candidate. -/
structure RowResult where
  row : Nat
  tok : Option Nat
  /-- The final candidates with their weights w, in sorted order (R312). -/
  weights : List (Nat × Word)
  /-- Tokens drawn for the children of a draft row (R317). -/
  draws : List Nat
  /-- Logits as sent, and the shard statistics, for R314. -/
  sent : List (Nat × Word)
  stats : List (Word × Word)
  deriving DecidableEq, Repr

/-- One draft row of a sequence (R317): its node, its final distribution as weights (empty when the draft store was full), the unit whose store
holds it, and the drawn token of each child. -/
structure Draft where
  node : Nat
  weights : List (Nat × Word)
  unit : Option Nat
  kids : List (Nat × Nat)
  deriving DecidableEq, Repr

structure Pass where
  number : Nat
  model : Nat
  rows : List PassRow
  unit : Option (Nat × Nat)
  results : List RowResult
  /-- Layers reported fallen back, and a failed report (R90, R91). -/
  fallbacks : Nat
  failed : Bool
  /-- Rows whose CHOOSE is still awaited (R484). -/
  awaiting : List Nat
  deriving DecidableEq, Repr

/-- One partition's job. -/
structure Part where
  key : Nat
  isa : Nat
  qmode : Nat
  stall : Bool
  traceOn : Bool
  waitLimit : Nat
  rimDue : Nat
  smpDue : Nat
  stopTmo : Nat
  seqmax : Nat
  serving : Option ServingRec
  geoms : List Geometry
  placed : List Placed
  image : Bytes
  identity : Bytes
  modelId : Bytes
  nBridles : Nat
  nTrees : Nat
  extents : Tab Extent
  started : List Nat
  stopPending : Bool
  stopEpoch : Option Nat
  /-- Time at which the stop became pending, then at which zeroization began (R346, R460). -/
  stopTime : Option Long
  heldReason : Option Nat
  uncorrectable : Bool
  /-- Lockstep state (R200 to R207). -/
  epoch : Nat
  wall : Nat
  stalls : List (Nat × Nat)
  detours : List (Nat × Nat × Nat)
  detourNow : Option (Nat × Nat)
  /-- Cores that have passed the wall cycle under way. -/
  walked : List Nat
  /-- The last wall cycle stalled under R205. -/
  lateRun : Option Nat
  /-- Stretching announced: from this wall cycle on, level k of R365 (8 holds every cycle) and governor value g of R413. -/
  stretch : List (Nat × Nat × Nat)
  due : List DueItem
  /-- Serving state of the partition. -/
  passes : List Pass
  nextPass : Nat
  lastTaken : Tab Nat
  smpRound : Nat
  adDir : Tab Nat
  adQueue : List (Bytes × Bytes)
  heldCreates : List (Long × Nat × Nat × Nat × Nat)
  hostRecords : List (Nat × Bytes)
  lastDeferred : Option Long
  commitNext : Nat
  /-- Output records held while OUT_CFG.EN is 0 (R323). -/
  outHeld : List Bytes
  deriving DecidableEq, Repr

def Part.zero : Part where
  key := 0
  isa := 1
  qmode := 0
  stall := false
  traceOn := false
  waitLimit := 4194304
  rimDue := 0
  smpDue := 0
  stopTmo := 1000
  seqmax := 0
  serving := none
  geoms := []
  placed := []
  image := []
  identity := []
  modelId := []
  nBridles := 0
  nTrees := 0
  extents := []
  started := []
  stopPending := false
  stopEpoch := none
  stopTime := none
  heldReason := none
  uncorrectable := false
  epoch := 0
  wall := 0
  stalls := []
  detours := []
  detourNow := none
  walked := []
  lateRun := none
  stretch := []
  due := []
  passes := []
  nextPass := 0
  lastTaken := []
  smpRound := 0
  adDir := []
  adQueue := []
  heldCreates := []
  hostRecords := []
  lastDeferred := none
  commitNext := 0
  outHeld := []

/-- The load under way (R337). -/
structure LoadJob where
  p : Nat
  port : Nat
  image : Bytes
  placed : List Placed
  stopAsked : Bool
  waitingIngest : Bool
  deriving DecidableEq, Repr

/-! ### Serving (chapter 11) -/

/-- Sampling parameters of an ADMIT (Table 11-2). -/
structure SampParams where
  seed : Long
  temp : Word
  topp : Word
  minp : Word
  repp : Word
  presp : Word
  freqp : Word
  topk : Nat
  pwin : Nat
  maxnew : Nat
  ruleset : Nat
  mask : Bool
  logprob : Bool
  train : Bool
  spec : Nat
  draftn : Nat
  deriving DecidableEq, Repr

/-- One page entry of a sequence's list for a model (R279). -/
structure ListEntry where
  page : Nat
  tent : Bool
  deriving DecidableEq, Repr

/-- A live entry of the sequence table (R292, R293). -/
structure Seq where
  /-- Table 11-1; 0 while the prompt of its ADMIT is being fetched. -/
  state : Nat
  wait : Nat
  part : Nat
  account : Nat
  tag : Word
  model : Nat
  dmodel : Nat
  rsel : Nat
  grp : Nat
  adapter : Option (Nat × Nat)
  prm : SampParams
  len : Nat
  tlen : Nat
  dlen : Nat
  dtlen : Nat
  pending : Nat
  /-- Prompt tokens that its ADMIT fetches (PLEN), and those not yet processed. -/
  plen : Nat
  prompt : List Nat
  hist : List Nat
  committed : Nat
  heldPrefill : Nat
  heldPass : Nat
  budgeted : Bool
  list : List ListEntry
  dlist : List ListEntry
  drafts : List Draft
  /-- Depths drafted in the speculation cycle under way, and the drafts it has reserved for (R302, R317); none between cycles. -/
  draftDepth : Nat
  cycle : Option Nat
  /-- Pass the sequence is in (STATE 3). -/
  pass : Option Nat
  run : Nat
  /-- Masks held: position, the unit that stores it, bitmap (R315). -/
  masks : List (Nat × Nat × Bytes)
  /-- Status the sequence ends with at the commit of its pass (R299). -/
  aborting : Option Nat
  ringHeld : Nat
  deriving DecidableEq, Repr

/-- An account's ledger (Table 11-6). -/
structure Ledger where
  mint : Nat
  bal : Nat
  held : Nat
  spent : Nat
  retired : Nat
  tokIn : Nat
  tokOut : Nat
  unbudgeted : Nat
  energy : Nat
  deriving DecidableEq, Repr

def Ledger.zero : Ledger :=
  { mint := 0, bal := 0, held := 0, spent := 0, retired := 0, tokIn := 0, tokOut := 0, unbudgeted := 0, energy := 0 }

structure Acct where
  en : Bool
  key : Nat
  rate : Nat
  cap : Nat
  led : Ledger
  /-- Rows issued in the current millisecond, by partition (R304). -/
  rowsMs : Tab Nat
  deriving DecidableEq, Repr

def Acct.zero : Acct := { en := false, key := 0, rate := 0, cap := 0, led := Ledger.zero, rowsMs := [] }

/-- An adapter slot (R306, R309). -/
structure Adapter where
  state : Nat
  part : Nat
  adid : Nat
  gen : Nat
  rank : Nat
  refs : Nat
  base : Nat
  tag : Word
  manifest : Bytes
  deriving DecidableEq, Repr

def Adapter.zero : Adapter :=
  { state := 0, part := 0, adid := 0, gen := 0, rank := 0, refs := 0, base := 0, tag := 0, manifest := [] }

structure Serving where
  seqs : Tab Seq
  accts : Tab Acct
  totals : Ledger
  idle : Tab Nat
  overhead : Nat
  measured : Nat
  frozen : Bool
  adapters : Tab Adapter
  snapshot : Option Nat
  deriving DecidableEq, Repr

/-- A row area of a pass buffer (R310): candidates by byte offset, statistics by shard, CE flits received. -/
structure SampRow where
  cands : Tab (Nat × Word)
  stats : Tab (Word × Word)
  ceCount : Nat
  sampled : Bool
  deriving DecidableEq, Repr

structure PassBuf where
  part : Nat
  pass : Nat
  rows : Tab SampRow
  firstFlit : Option Long
  /-- Latest epoch at which a flit to the buffer was sent (R204). -/
  lastSent : Nat
  timedOut : Bool
  deriving DecidableEq, Repr

/-- One sampling unit (R310, R317): its pass buffers held. -/
structure SampUnit where
  bufs : Tab PassBuf
  draftRows : Nat
  deriving DecidableEq, Repr

/-- A prefix-table entry (R283), at the table index it was placed at. -/
structure Prefix where
  handle : Long
  part : Nat
  model : Nat
  rsel : Nat
  grp : Nat
  lh : Nat
  list : List ListEntry
  listAddr : Nat
  token : Nat
  deriving DecidableEq, Repr

/-! ### Power, start, thermal (chapters 13, 14, 15) -/

structure Power where
  /-- Feed contacts: PRESENT closed; voltage last told in 10 mV. -/
  present : List Bool
  volts : List Nat
  valid : List Bool
  holdUp : Bool
  converters : BitVec 168
  wakeQueue : Tab (List Nat)
  rush : Tab Nat
  prioList : Tab (List Nat)
  lastCapUp : Tab Long
  belowSince : Tab Long
  energy : Nat
  ballastOff : Bool
  deriving DecidableEq, Repr

/-- Bring-up (R379 to R390). -/
structure Boot where
  alwaysOn : Bool
  fuses : Option Fuses
  /-- The stage under way, none before the first start, after ST11, and while waiting in a restart. -/
  stage : Option Nat
  st10Open : Bool
  launched : Option Long
  stageStart : Tab Long
  /-- A restart accepted and waiting: (kind, asked by contact). -/
  restarting : Option Nat
  resetLow : Bool
  /-- The power-down of the restart under way has been done (Table 14-3). -/
  downDone : Bool
  railsDown : Bool
  haltedIn : Option Nat
  conditionsLost : List Nat
  loci : List (Nat × Word)
  referenceOk : List Bool
  aliveOut : Bool
  aliveOn : Bool
  skipFailed : List Nat
  /-- Nodes decoupled in ST4, whose regions die in ST5 (R373). -/
  decoupled : List Nat
  deriving DecidableEq, Repr

structure Thermal where
  welt : Tab Nat
  converters : Tab Nat
  weltLevel : Tab Nat
  pollsLow : Nat
  pollsOk : Nat
  failedPolls : Tab Nat
  clampSince : Option Long
  /-- Sensors whose last sample reached 120.0 °C (R399). -/
  hotSensors : List Sensor
  hotConverter : Tab Long
  ceiling : Nat
  floor : Nat
  governed : Bool
  inletBadSince : Option Long
  flowLowSince : Option Long
  implausSince : Option Long
  lastCoolLog : Tab Long
  /-- Coolant standard conditions lost (R410): 0 inlet, 1 flow. -/
  condLost : List Nat
  /-- Rows of Table 15-4 in force: 1 flow low for the load, 2 heat balance. -/
  rowsOn : List Nat
  /-- Flow, outlet minus inlet (0.01 units) and input power at the valid flow polls of the last second, newest first. -/
  hist : List (Nat × Int × Nat)
  /-- Last SETDASA sent to each tray sensor (R409). -/
  readdressed : Tab Long
  /-- Last time a ballast demand of R414 was in force, and last event of code 13. -/
  demandLast : Option Long
  lastFall : Option Long
  deriving DecidableEq, Repr

/-! ### Faults, management, security (chapters 16, 17) -/

/-- A sequence kept over a device-fatal fault (R423): partition, identifier, tag, position. -/
structure KeptSeq where
  part : Nat
  seq : Nat
  tag : Word
  pos : Nat
  deriving DecidableEq, Repr

structure Faults where
  ring : Tab Bytes
  kept : List KeptSeq
  lastFatal : Option Long
  recoverAsked : Bool
  recent : List Long
  lastCorrected : Tab Long
  lastDeferred : Tab Long
  lastFatalSource : Nat
  /-- Spare procedure (R427): failures waiting (region, physical core); the one under way as (partition, 17·region + core, 1 when the
  partition ends instead of resuming); since when the host's shipment is awaited. -/
  queue : List (Nat × Nat)
  current : Option (Nat × Nat × Nat)
  shipSince : Option Long
  deriving DecidableEq, Repr

/-- An event log entry (Table 17-3). -/
structure LogEntry where
  code : Nat
  cold : Nat
  arg : Word
  body : Bytes
  deriving DecidableEq, Repr

/-- One flash bank: header and payload, or nothing. -/
structure Bank where
  header : Bytes
  payload : Bytes
  deriving DecidableEq, Repr

/-- A management command accepted (R444, R445): its OP, the host port whose memory it uses, the mailbox's SEQ or none for MCTP, and the
inline block of MCTP. -/
structure MgtCmd where
  op : Nat
  port : Nat
  seq : Option Nat
  block : Option Bytes
  deriving DecidableEq, Repr

structure Mgmt where
  /-- NUMBER of the next event log entry, entries held in SRAM or flash, the first not yet in flash. -/
  nextNumber : Nat
  entries : Tab LogEntry
  flashed : Nat
  /-- Entries lost and not yet stated by an entry of code 15 (R405). -/
  lostPending : Nat
  coldStarts : Nat
  /-- Service record (R443): deaths (region, cause) and repaired rows (17·r + k, row). -/
  deaths : Tab Nat
  repairs : List (Nat × Nat)
  banks : List Bank
  preferred : Nat
  booted : Nat
  flashTemp : Option Nat
  /-- A STAGE or SELECT waiting at the flash gate: OP, since, image. -/
  gateWait : Option (Nat × Long × Bytes)
  /-- Commands accepted and not complete, in arrival order; the head is under way (R444, R445). -/
  cmds : List MgtCmd
  deriving DecidableEq, Repr

/-- Tenancy policy entry (Table 17-8). -/
structure PolicyModel where
  id : Bytes
  tgroup : Nat
  share : Bool
  deriving DecidableEq, Repr

/-- One SPDM session (R447). -/
structure Session where
  id : Nat
  established : Bool
  keyGen : Nat
  deriving DecidableEq, Repr

/-- The security core's last answer over SPDM (R447, R451). -/
inductive Answer where
  | silent
  | response (data : Bytes)
  | versionMismatch
  | unsupportedRequest
  | busy
  | errorState
  deriving DecidableEq, Repr

structure Security where
  setupOk : Bool
  /-- Officer roster: slot, public key bytes (133, starting 0x04). -/
  roster : Tab Bytes
  keys : Tab (Nat × Nat)
  listed : Bool
  models : List PolicyModel
  stageOpen : Bool
  rbAuto : Bool
  minM : Nat
  minS : Nat
  ctr : Long
  debugMask : Long
  testMode : Bool
  error : Bool
  approved : Option Bytes
  /-- Requests queued (R454), oldest first, each with the mailbox SEQ that waits for it. -/
  queue : List (Bytes × Option Nat)
  cntM : Nat
  cntS : Nat
  debugOff : Bool
  fusedDead : List Nat
  sessions : List Session
  answer : Answer
  deriving DecidableEq, Repr

/-! ### Host interface and edge (chapters 18, 19) -/

/-- Ring state of one partition that no register shows (R476, R477): producer indices and completions reserved. -/
structure Rings where
  cmdPi : Nat
  assPi : Nat
  cplCi : Nat
  reserved : Nat
  /-- The producer index was written while EN was 0 (R476). -/
  cmdEarly : Bool
  assEarly : Bool
  /-- Entries fetched and not yet performed, in the order of the fetches: assist ring, and the entry. -/
  taken : List (Bool × Bytes)
  /-- Assist entries performed and not yet complete: OP and TAG. -/
  busy : List (Nat × Nat)
  deriving DecidableEq, Repr

def Rings.zero : Rings :=
  { cmdPi := 0, assPi := 0, cplCi := 0, reserved := 0, cmdEarly := false, assEarly := false, taken := [], busy := [] }

/-- One MSI-X vector of one port (R466, R481): its table entry, its bit of the Pending Bit Array, the end of its hold-off, whether causes wait
for that end, and how many messages it has sent. -/
structure Vector where
  addr : Long
  data : Word
  masked : Bool
  pendingBit : Bool
  until_ : Option Long
  waiting : Bool
  sent : Nat
  deriving DecidableEq, Repr

/-- A vector after a reset of its port: masked, as PCIe resets it (PRESUMED, assumption 28). -/
def Vector.zero : Vector := { addr := 0, data := 0, masked := true, pendingBit := false, until_ := none, waiting := false, sent := 0 }

/-- A write to host memory the device still owes: home port, address, bytes, and what follows it: 1 + p an advance of the completion ring's index
of p, 100 + p of the output ring's, 200 + p a sample-area slot of p is complete. -/
structure HostWrite where
  port : Nat
  addr : Nat
  data : Bytes
  adv : Nat
  deriving DecidableEq, Repr

structure HostIf where
  rings : Tab Rings
  msix : Tab Vector
  held : List HostWrite
  /-- By transfer ring: a buffer with END has been read, and the producer index was written while EN was 0. -/
  xferEnd : List Bool
  xferEarly : List Bool
  deriving DecidableEq, Repr

/-- One edge port (R490): frames queued with their channels, frames sent and not acknowledged with their LSEQ (bytes 4 on, without the link
CRC), sequence numbers and credits. `wasWidth` is its width before its link was last lost, `retryAt` when it trains again. -/
structure EdgePort where
  txq : List (Nat × Bytes)
  replay : List (Nat × Bytes)
  nextSeq : Nat
  lastIn : Nat
  credits : Nat
  owed : Nat
  ackOwed : Bool
  lastControl : Long
  wasWidth : Nat
  retryAt : Option Long
  deriving DecidableEq, Repr

def EdgePort.zero : EdgePort :=
  { txq := [], replay := [], nextSeq := 0, lastIn := 4095, credits := 0, owed := 0, ackOwed := false, lastControl := 0,
    wasWidth := 0, retryAt := none }

structure Edge where
  ports : Tab EdgePort
  chanA : Tab Word
  chanB : Tab Word
  /-- Channels whose current port is their alternate (R494). -/
  onAlt : List Nat
  ingest : Tab Bytes
  ingestEnd : Option Nat
  deriving DecidableEq, Repr

/-! ### The whole state -/

structure State where
  /-- Commands waiting, first in first out. -/
  pending : List Instr
  /-- The MODEL's own field, not the spec's: how many free values have been drawn. -/
  fresh : Nat
  /-- Device time counter, ns (R378). -/
  time : Long
  regs : Tab Word
  /-- Captured high halves, by host port and register address (R469). -/
  capt : Tab Word
  cores : Tab Core
  regions : Tab Region
  parts : Tab Part
  last : Last
  pendLast : Option Last
  load : Option LoadJob
  fab : Fabric
  rim : Rim
  ing : Ingest
  srv : Serving
  smp : Tab SampUnit
  kvc : Tab Prefix
  pwr : Power
  boot : Boot
  thm : Thermal
  flt : Faults
  mgt : Mgmt
  sec : Security
  hif : HostIf
  edg : Edge
  /-- Host memory as far as the device has written it. -/
  hostMem : Mem
  deriving DecidableEq, Repr

/-! ### Reset

The module before its first cold start (R2, R379): both feeds absent, nothing powered, every volatile store empty. The
registers of `State.regs` are unlisted, so each reads the reset value its table states. -/

/-- The 32 columns with nothing removed, the bottom row left out of each (Table 01-5's reset of GLB_LAST_COLn is shown
by the register; this is the map the device holds before ST6 builds one: none). -/
def Last.unbuilt : Last := { cols := [], noGrid := true }

def Fabric.zero : Fabric :=
  { flits := [], endpoints := [], bridles := [], trees := [], rounds := [], replays := [], failedLinks := [], cmap := [], cmapGen := 0, prevFlits := [], prevHold := [] }

def Ingest.idle : Ingest :=
  { part := .none, purpose := 0, slot := 0, image := [], manifestAt := 0, tensors := [], heldSince := .none, bufs := [],
    closed := false }

def Serving.zero : Serving :=
  { seqs := [], accts := [], totals := Ledger.zero, idle := [], overhead := 0, measured := 0, frozen := false,
    adapters := [], snapshot := .none }

def Power.zero : Power :=
  { present := [false, false], volts := [0, 0], valid := [false, false], holdUp := false, 
    converters := 0, wakeQueue := [], rush := [], prioList := [], lastCapUp := [], belowSince := [], energy := 0,
    ballastOff := false }

def Boot.zero : Boot :=
  { alwaysOn := false, fuses := .none, stage := .none, st10Open := false, launched := .none, stageStart := [],
    restarting := .none, resetLow := false, downDone := false, railsDown := true, haltedIn := .none, conditionsLost := [], loci := [],
    referenceOk := [false, false], aliveOut := false, aliveOn := false, skipFailed := [], decoupled := [] }

def Thermal.zero : Thermal :=
  { welt := [], converters := [], weltLevel := [], pollsLow := 0, pollsOk := 0, failedPolls := [], clampSince := .none,
    hotSensors := [], hotConverter := [], ceiling := 0, floor := 0, governed := false,
    inletBadSince := .none, flowLowSince := .none, implausSince := .none, lastCoolLog := [], condLost := [], rowsOn := [], hist := [], readdressed := [], demandLast := .none, lastFall := .none }

def Faults.zero : Faults :=
  { ring := [], kept := [], lastFatal := .none, recoverAsked := false, recent := [], lastCorrected := [],
    lastDeferred := [], lastFatalSource := 0, queue := [], current := .none, shipSince := .none }

def Mgmt.zero : Mgmt :=
  { nextNumber := 0, entries := [], flashed := 0, lostPending := 0, coldStarts := 0, deaths := [], repairs := [], banks := [],
    preferred := 0, booted := 0, flashTemp := .none, gateWait := .none, cmds := [] }

def Security.zero : Security :=
  { setupOk := true, roster := [], keys := [], listed := false, models := [], stageOpen := true, rbAuto := false,
    minM := 0, minS := 0, ctr := 0, debugMask := 0, testMode := false, error := false, approved := .none, queue := [],
    cntM := 0, cntS := 0, debugOff := false, fusedDead := [], sessions := [], answer := .silent }

def HostIf.zero : HostIf := { rings := [], msix := [], held := [], xferEnd := [false, false], xferEarly := [false, false] }

def Edge.zero : Edge := { ports := [], chanA := [], chanB := [], onAlt := [], ingest := [], ingestEnd := .none }

/-- The machine right after reset. -/
def State.reset : State :=
  { pending := [], fresh := 0, time := 0, regs := [], capt := [], cores := [], regions := [], parts := [],
    last := Last.unbuilt, pendLast := .none, load := .none, fab := Fabric.zero,
    rim := { mem := [], clearing := [], sharedExts := [] }, ing := Ingest.idle, srv := Serving.zero, smp := [], kvc := [],
    pwr := Power.zero, boot := Boot.zero, thm := Thermal.zero, flt := Faults.zero, mgt := Mgmt.zero,
    sec := Security.zero, hif := HostIf.zero, edg := Edge.zero, hostMem := [] }

/-! ### Stops -/

/-- Nothing in the spec stops the block with no state after it: faults of the device are its own state (records, stopped
cores, dead regions), so no command raises a model fault and the type has no constructor. Safe. -/
inductive Fault where
  deriving DecidableEq, Repr

/-- Why a command has no meaning here. -/
inductive Refusal where
  /-- Raised by an arm of `exec` whose command has no meaning yet; safe. -/
  | notModelled (mnemonic : String)
  deriving DecidableEq, Repr

end Sys2Proof.Machine
end

