-- ==== Sys2Proof/Machine/Bits.lean ====
section
/-! DEFINITION. Bit fields of register words, little-endian byte strings, saturating and wrapping field arithmetic.
Fields are named as the spec lists them, most significant bit first. -/

namespace Sys2Proof.Machine

/-- Bits [hi:lo] of a word as a number. -/
def field {w : Nat} (x : BitVec w) (hi lo : Nat) : Nat := (x.toNat >>> lo) % 2 ^ (hi + 1 - lo)

/-- Bit i of a word. -/
def flag {w : Nat} (x : BitVec w) (i : Nat) : Bool := x.getLsbD i

/-- Replace bits [hi:lo]; a value too wide for the field keeps its low bits. -/
def setField {w : Nat} (x : BitVec w) (hi lo v : Nat) : BitVec w :=
  let m : BitVec w := BitVec.ofNat w ((2 ^ (hi + 1 - lo) - 1) <<< lo)
  (x &&& ~~~m) ||| (BitVec.ofNat w (v <<< lo) &&& m)

def setFlag {w : Nat} (x : BitVec w) (i : Nat) (b : Bool) : BitVec w := setField x i i (if b then 1 else 0)

/-- A counter field that wraps within its width. -/
def bumpField {w : Nat} (x : BitVec w) (hi lo n : Nat) : BitVec w := setField x hi lo (field x hi lo + n)

/-- A counter field that stays at its largest value. -/
def bumpSat {w : Nat} (x : BitVec w) (hi lo n : Nat) : BitVec w :=
  setField x hi lo (min (field x hi lo + n) (2 ^ (hi + 1 - lo) - 1))

/-- Signed value of an n-bit field. -/
def signed (n v : Nat) : Int := if 2 * v < 2 ^ n then (v : Int) else (v : Int) - (2 ^ n : Nat)

/-- Two's-complement n-bit code of an integer. -/
def twos (n : Nat) (v : Int) : Nat := (v % ((2 ^ n : Nat) : Int)).toNat

/-- n bytes of a number, least significant first. -/
def leBytes (n v : Nat) : Bytes := (List.range n).map fun i => BitVec.ofNat 8 (v >>> (8 * i))

/-- The number a byte string holds, least significant byte first. -/
def leNat : Bytes → Nat
  | [] => 0
  | b :: t => b.toNat + 256 * leNat t

/-- n bytes of a number, most significant first. -/
def beBytes (n v : Nat) : Bytes := (leBytes n v).reverse

/-- The number a byte string holds, most significant byte first. -/
def beNat (bs : Bytes) : Nat := leNat bs.reverse

/-- The n bytes from offset o on; bytes past the end read 0. -/
def slice (bs : Bytes) (o n : Nat) : Bytes := (List.range n).map fun i => (bs.drop (o + i)).headD 0

/-- Little-endian field of n bytes at offset o. -/
def leAt (bs : Bytes) (o n : Nat) : Nat := leNat (slice bs o n)

def byteAt (bs : Bytes) (o : Nat) : Nat := leAt bs o 1

def zeros (n : Nat) : Bytes := List.replicate n 0

/-- Overwrite bs from offset o with d (bs is extended with zeros when shorter). -/
def splice (bs : Bytes) (o : Nat) (d : Bytes) : Bytes :=
  slice bs 0 o ++ d ++ bs.drop (o + d.length)

/-- Numbers of the set bits of a word, lowest first. -/
def bitsOf {w : Nat} (x : BitVec w) : List Nat := (List.range w).filter fun i => x.getLsbD i

def ceilDiv (a b : Nat) : Nat := (a + b - 1) / b

/-- Least n with x ≤ 2^n. -/
def ceilLog2 (x : Nat) : Nat := if x ≤ 1 then 0 else Nat.log2 (x - 1) + 1

/-- The element at i and the list without it. -/
def takeAt {α : Type} : List α → Nat → Option (α × List α)
  | [], _ => none
  | a :: t, 0 => some (a, t)
  | a :: t, i + 1 => (takeAt t i).map fun p => (p.1, a :: p.2)

/-- Cut a byte string into n-byte pieces. -/
def pieces (n : Nat) (bs : Bytes) : List Bytes :=
  (List.range (bs.length / n)).map fun i => slice bs (n * i) n

end Sys2Proof.Machine
end

