-- ==== Sys2Proof/Machine/Tab.lean ====
section
/-! DEFINITION. Sparse tables and byte memories: the one place their canonical form (keys strictly rising, no entry at the
default) is made. -/

namespace Sys2Proof.Machine

def tabFind {α : Type} (t : Tab α) (k : Nat) : Option α :=
  match t with
  | [] => none
  | (j, v) :: r => if j = k then some v else tabFind r k

/-- Store (`some`) or remove (`none`) the entry at k, keeping the keys strictly rising. -/
def tabPut {α : Type} (t : Tab α) (k : Nat) (v : Option α) : Tab α :=
  match t with
  | [] => match v with
    | some x => [(k, x)]
    | none => []
  | (j, w) :: r =>
    if k < j then
      match v with
      | some x => (k, x) :: (j, w) :: r
      | none => (j, w) :: r
    else if k = j then
      match v with
      | some x => (k, x) :: r
      | none => r
    else (j, w) :: tabPut r k v

/-- Read with default d. -/
def tabGet {α : Type} (d : α) (t : Tab α) (k : Nat) : α := (tabFind t k).getD d

/-- Write; a value equal to the default removes the entry. -/
def tabSet {α : Type} [DecidableEq α] (d : α) (t : Tab α) (k : Nat) (v : α) : Tab α :=
  tabPut t k (if v = d then none else some v)

def tabDrop {α : Type} (t : Tab α) (k : Nat) : Tab α := tabPut t k none

def tabAdd {α : Type} (t : Tab α) (k : Nat) (v : α) : Tab α := tabPut t k (some v)

/-- Change every entry; one that becomes the default leaves the table. -/
def tabMap {α : Type} [DecidableEq α] (d : α) (f : α → α) (t : Tab α) : Tab α := (t.map fun e => (e.1, f e.2)).filter fun e => decide (e.2 ≠ d)

/-- Keys strictly rising. -/
def tabSorted {α : Type} : Tab α → Bool
  | [] => true
  | [_] => true
  | (j, _) :: (k, w) :: r => decide (j < k) && tabSorted ((k, w) :: r)

/-- The canonical form of a table with default d. -/
def tabWf {α : Type} [DecidableEq α] (d : α) (t : Tab α) : Bool :=
  tabSorted t && t.all fun e => decide (e.2 ≠ d)

def tabKeys {α : Type} (t : Tab α) : List Nat := t.map (·.1)

/-! Byte memories: an unlisted byte reads 0. -/

def memGet (m : Mem) (a : Nat) : Byte := tabGet 0 m a

def memSet (m : Mem) (a : Nat) (b : Byte) : Mem := tabSet 0 m a b

def memRead (m : Mem) (a n : Nat) : Bytes := (List.range n).map fun i => memGet m (a + i)

def memWrite (m : Mem) (a : Nat) : Bytes → Mem
  | [] => m
  | b :: r => memWrite (memSet m a b) (a + 1) r

/-- Remove every byte of [a, a + n): they read 0. -/
def memClear (m : Mem) (a n : Nat) : Mem := m.filter fun c => decide (c.1 < a) || decide (a + n ≤ c.1)

/-- Copy [a, a + n) of m over [b, b + n) of d. -/
def memCopy (m : Mem) (a n : Nat) (d : Mem) (b : Nat) : Mem :=
  (m.filter fun c => decide (a ≤ c.1) && decide (c.1 < a + n)).foldl (fun d c => memSet d (c.1 - a + b) c.2) (memClear d b n)

/-- The canonical form of a byte memory. -/
def memWf (m : Mem) : Bool := tabWf (0 : Byte) m

end Sys2Proof.Machine
end

