-- ==== Sys2Proof/Machine/Regs.lean ====
section
/-! DEFINITION. The BAR0 registers (Table 18-2 and each chapter's register table): their addresses, reset values and access
classes, and reading and writing the one table that holds them. `r` is a physical region, `p` a partition; the other index
letters are the tables' own. -/

namespace Sys2Proof.Machine

/-- Base of the register window of physical region r (R471). -/
def winBase (r : Nat) : Nat := 0x1000000 + 0x1000 * r

namespace Reg

def GLB_LAST_SHAPE : Nat := 0x100
def GLB_LAST_STAT : Nat := 0x104
def GLB_LAST_PEND_SHAPE : Nat := 0x108
def GLB_LAST_COL (i : Nat) : Nat := 0x140 + 4 * i
def GLB_DIST_IDX : Nat := 0x200
def GLB_DIST_DATA : Nat := 0x204
def RGNW_LAST_ENTRY (r : Nat) : Nat := winBase r + 0x10
def RGNW_CORE_FAIL (r : Nat) : Nat := winBase r + 0x14
def RGNW_CORE_TEMP (r i : Nat) : Nat := winBase r + 0x400 + 4 * i
def RGNW_CORE_STAT (r i : Nat) : Nat := winBase r + 0x480 + 4 * i
def GLB_PRECISION_CFG (i : Nat) : Nat := 0x1000 + 4 * i
def GLB_PRECISION_STAT (i : Nat) : Nat := 0x1100 + 4 * i
def RGNW_CORE_DET (r i : Nat) : Nat := winBase r + 0x500 + 4 * i
def RGNW_CORE_CSW (r i : Nat) : Nat := winBase r + 0x580 + 4 * i
def RGNW_TRC_STAT (r : Nat) : Nat := winBase r + 0x600
def RGNW_TRC_IDX (r : Nat) : Nat := winBase r + 0x604
def RGNW_TRC_DATA (r i : Nat) : Nat := winBase r + 0x608 + 4 * i
def RGNW_SEQ_STAT (r : Nat) : Nat := winBase r + 0x700
def RGNW_SEQ_PC (r : Nat) : Nat := winBase r + 0x704
def RGNW_SQ_RING_A (r i : Nat) : Nat := winBase r + 0x710 + 8 * i
def RGNW_SQ_RING_B (r i : Nat) : Nat := winBase r + 0x714 + 8 * i
def RGNW_SQ_RING_DUE (r i : Nat) : Nat := winBase r + 0x730 + 4 * i
def RGNW_SQ_EMIT (r : Nat) : Nat := winBase r + 0x740
def RGNW_SQ_MOV (r : Nat) : Nat := winBase r + 0x744
def RGNW_SQ_ESTAT (r : Nat) : Nat := winBase r + 0x748
def RGNW_SQ_EPOCH (r : Nat) : Nat := winBase r + 0x74C
def RGNW_SQ_SC (r i : Nat) : Nat := winBase r + 0x780 + 4 * i
def GLB_LOCK_EPOCH_LO (i : Nat) : Nat := 0x1200 + 16 * i
def GLB_LOCK_EPOCH_HI (i : Nat) : Nat := 0x1204 + 16 * i
def GLB_LOCK_STALL (i : Nat) : Nat := 0x1208 + 16 * i
def GLB_LOCK_EVT (i : Nat) : Nat := 0x120C + 16 * i
def FAB_CFG : Nat := 0xD0000
def FAB_STAT : Nat := 0xD0004
def FAB_VIOL_LOG0 : Nat := 0xD0010
def FAB_VIOL_LOG1 : Nat := 0xD0014
def FAB_VIOL_LOG2 : Nat := 0xD0018
def FAB_VIOL_LOG3 : Nat := 0xD001C
def FAB_VIOL_DEV : Nat := 0xD0020
def FAB_STALL_LOG0 : Nat := 0xD0030
def FAB_STALL_LOG1 : Nat := 0xD0034
def FAB_STALL_LOG2 : Nat := 0xD0038
def FAB_CMAP_IDX : Nat := 0xD0040
def FAB_CMAP_DATA0 : Nat := 0xD0044
def FAB_CMAP_DATA1 : Nat := 0xD0048
def FAB_VIOL_CNT (i : Nat) : Nat := 0xD0100 + 4 * i
def RGNW_HUB_LINK (r : Nat) : Nat := winBase r + 0x800
def RGNW_HUB_ERR (r : Nat) : Nat := winBase r + 0x804
def RGNW_HUB_FLITS (r i : Nat) : Nat := winBase r + 0x810 + 8 * i
def RGNW_HUB_HOLD (r i : Nat) : Nat := winBase r + 0x814 + 8 * i
def RGNW_POOL (r : Nat) : Nat := winBase r + 0x900
def RGNW_POOL_ID (r : Nat) : Nat := winBase r + 0x904
def RGNW_MEM_ERR (r : Nat) : Nat := winBase r + 0x908
def RGNW_MEM_REPAIR (r : Nat) : Nat := winBase r + 0x90C
def RGNW_MEM_LAST (r : Nat) : Nat := winBase r + 0x910
def RGNW_SCRUB (r : Nat) : Nat := winBase r + 0x914
def RIM_STACK (i : Nat) : Nat := 0xE0000 + 16 * i
def RIM_CHAN (i : Nat) : Nat := 0xE0004 + 16 * i
def RIM_FAIL (i : Nat) : Nat := 0xE0008 + 16 * i
def RIM_ERR (i : Nat) : Nat := 0xE000C + 16 * i
def RIM_TOTAL : Nat := 0xE0100
def RIM_XT_IDX : Nat := 0xE0110
def RIM_XT_DATA : Nat := 0xE0114
def LDR_ING_CFG : Nat := 0x90400
def LDR_ING_STAT : Nat := 0x90404
def LDR_ING_BYTES_LO : Nat := 0x90408
def LDR_ING_BYTES_HI : Nat := 0x9040C
def RGNW_CACHE_CFG (r : Nat) : Nat := winBase r + 0xA00
def RGNW_CACHE_ROWS (r : Nat) : Nat := winBase r + 0xA04
def RGNW_CACHE_SLOTS (r : Nat) : Nat := winBase r + 0xA08
def RGNW_PK_CMD (r : Nat) : Nat := winBase r + 0xA0C
def RGNW_PK_STAT (r : Nat) : Nat := winBase r + 0xA10
def RGNW_PK_FREE (r : Nat) : Nat := winBase r + 0xA14
def RGNW_PK_SFREE (r : Nat) : Nat := winBase r + 0xA18
def RGNW_PK_RFREE (r : Nat) : Nat := winBase r + 0xA1C
def RGNW_LE_CMD (r : Nat) : Nat := winBase r + 0xA20
def RGNW_LE_STAT (r : Nat) : Nat := winBase r + 0xA24
def KVC_PFX_STAT : Nat := 0xC0000
def KVC_INV_LOG : Nat := 0xC0010
def KVC_PFX (i : Nat) : Nat := 0xC0100 + 4 * i
def KVC_PG (i : Nat) : Nat := 0xC0200 + 4 * i
def SRV_CFG : Nat := 0xA0000
def SRV_STAT : Nat := 0xA0004
def SRV_INV_LOG : Nat := 0xA0008
def SRV_ACCT_IDX : Nat := 0xA0010
def SRV_ACCT_CFG : Nat := 0xA0014
def SRV_ACCT_RATE : Nat := 0xA0018
def SRV_ACCT_CAP : Nat := 0xA001C
def SRV_ACCT_GRANT : Nat := 0xA0020
def SRV_SNAP_SEQ : Nat := 0xA0024
def SRV_SNAP_D (i : Nat) : Nat := 0xA0040 + 4 * i
def SRV_SEQ_IDX : Nat := 0xA0080
def SRV_SEQ_STAT : Nat := 0xA0084
def SRV_SEQ_LEN : Nat := 0xA0088
def SRV_OUT_BASE_LO (i : Nat) : Nat := 0xA1000 + 32 * i
def SRV_OUT_BASE_HI (i : Nat) : Nat := 0xA1004 + 32 * i
def SRV_OUT_CFG (i : Nat) : Nat := 0xA1008 + 32 * i
def SRV_OUT_PI (i : Nat) : Nat := 0xA100C + 32 * i
def SRV_OUT_CI (i : Nat) : Nat := 0xA1010 + 32 * i
def SRV_PARTSTAT (i : Nat) : Nat := 0xA1014 + 32 * i
def SRV_PIDLE_LO (i : Nat) : Nat := 0xA1018 + 32 * i
def SRV_PIDLE_HI (i : Nat) : Nat := 0xA101C + 32 * i
def SMP_STAT (i : Nat) : Nat := 0xB0000 + 16 * i
def SMP_ERR (i : Nat) : Nat := 0xB0004 + 16 * i
def SMP_STORE (i : Nat) : Nat := 0xB0008 + 16 * i
def LDR_CMD : Nat := 0x90000
def LDR_IMG_LO : Nat := 0x90004
def LDR_IMG_HI : Nat := 0x90008
def LDR_IMG_LEN : Nat := 0x9000C
def LDR_STAT : Nat := 0x90010
def LDR_PWR_LIMIT : Nat := 0x90014
def LDR_PWR_STAT : Nat := 0x90018
def LDR_PART (i : Nat) : Nat := 0x90800 + 16 * i
def LDR_PART_SHAPE (i : Nat) : Nat := 0x90804 + 16 * i
def LDR_PART_PWR (i : Nat) : Nat := 0x90808 + 16 * i
def LDR_PART_BUDGET (i : Nat) : Nat := 0x9080C + 16 * i
def PWR_FEED_A : Nat := 0x70000
def PWR_FEED_B : Nat := 0x70004
def PWR_FEED_EVT : Nat := 0x70008
def PWR_STAT : Nat := 0x7000C
def PWR_ENERGY_LO : Nat := 0x70010
def PWR_ENERGY_HI : Nat := 0x70014
def PWR_CLK : Nat := 0x70020
def PWR_BALLAST : Nat := 0x70024
def PWR_FIELD (i : Nat) : Nat := 0x70100 + 4 * i
def PWR_FIELD_GRANT (i : Nat) : Nat := 0x70200 + 4 * i
def RGNW_PWR_STAT (r : Nat) : Nat := winBase r + 0xB00
def RGNW_PWR_PHASE (r : Nat) : Nat := winBase r + 0xB04
def RGNW_PWR_RAIL (r : Nat) : Nat := winBase r + 0xB08
def RGNW_PWR_MEAS (r : Nat) : Nat := winBase r + 0xB0C
def RGNW_PWR_LIMIT (r : Nat) : Nat := winBase r + 0xB10
def RGNW_PWR_E_LO (r : Nat) : Nat := winBase r + 0xB14
def RGNW_PWR_E_HI (r : Nat) : Nat := winBase r + 0xB18
def RGNW_WAKE (r : Nat) : Nat := winBase r + 0xB1C
def RGNW_VMIN_CORE (r : Nat) : Nat := winBase r + 0xB20
def RGNW_VMIN_MEM (r : Nat) : Nat := winBase r + 0xB24
def RGNW_VMIN_TC_LO (r : Nat) : Nat := winBase r + 0xB28
def RGNW_VMIN_TC_HI (r : Nat) : Nat := winBase r + 0xB2C
def RGNW_VMIN_TM_LO (r : Nat) : Nat := winBase r + 0xB30
def RGNW_VMIN_TM_HI (r : Nat) : Nat := winBase r + 0xB34
def CLK_STAT : Nat := 0x30000
def CLK_SKEW : Nat := 0x30004
def CLK_TIME_LO : Nat := 0x30008
def CLK_TIME_HI : Nat := 0x3000C
def STG_STAT : Nat := 0x20000
def STG_CMD : Nat := 0x20004
def STG_REC_A (i : Nat) : Nat := 0x20100 + 16 * i
def STG_REC_B (i : Nat) : Nat := 0x20104 + 16 * i
def STG_REC_C (i : Nat) : Nat := 0x20108 + 16 * i
def STG_REC_D (i : Nat) : Nat := 0x2010C + 16 * i
def STG_LOC_IDX : Nat := 0x20200
def STG_LOC_DATA0 : Nat := 0x20204
def STG_LOC_DATA1 : Nat := 0x20208
def RGNW_CLK (r : Nat) : Nat := winBase r + 0xC00
def THM_CFG : Nat := 0x80000
def THM_STAT : Nat := 0x80004
def THM_COUNT : Nat := 0x80008
def THM_HOT : Nat := 0x8000C
def THM_EVT : Nat := 0x80010
def THM_COOL_IN : Nat := 0x80020
def THM_COOL_OUT : Nat := 0x80024
def THM_FLOW : Nat := 0x80028
def THM_COOL_EVT : Nat := 0x8002C
def THM_GOV : Nat := 0x80030
def THM_GATE : Nat := 0x80034
def THM_COOL_EVT2 : Nat := 0x80038
def RGNW_THM_STAT (r : Nat) : Nat := winBase r + 0xD00
def RGNW_THM_REGA (r : Nat) : Nat := winBase r + 0xD04
def RGNW_THM_REGB (r : Nat) : Nat := winBase r + 0xD08
def FLT_CFG : Nat := 0x60000
def FLT_STAT : Nat := 0x60004
def FLT_CMD : Nat := 0x60008
def FLT_FATAL : Nat := 0x6000C
def FLT_FATAL_LOC : Nat := 0x60010
def FLT_CNT (i : Nat) : Nat := 0x60020 + 4 * i
def FLT_LOG_IDX : Nat := 0x60030
def FLT_LOG_DATA (i : Nat) : Nat := 0x60034 + 4 * i
def FLT_LOG_WR : Nat := 0x60044
def FLT_INJ_CFG : Nat := 0x60050
def FLT_INJ_MASK : Nat := 0x60054
def FLT_INJ_STAT : Nat := 0x60058
def FLT_IST : Nat := 0x60060
def FLT_REPAIR : Nat := 0x60070
def RGNW_IST (r : Nat) : Nat := winBase r + 0xE00
def MGT_STAT : Nat := 0x40000
def MGT_FW : Nat := 0x40004
def MGT_SVN : Nat := 0x40008
def MGT_CMD_LO : Nat := 0x40010
def MGT_CMD_HI : Nat := 0x40014
def MGT_CMD : Nat := 0x40018
def MGT_RES : Nat := 0x4001C
def MGT_RES_DATA : Nat := 0x40020
def MGT_LOG_LO : Nat := 0x40030
def MGT_LOG_HI : Nat := 0x40034
def MGT_LOG_STAT : Nat := 0x40038
def SEC_STAT : Nat := 0x50000
def SEC_CTR_LO : Nat := 0x50004
def SEC_CTR_HI : Nat := 0x50008
def SEC_DBG_LO : Nat := 0x5000C
def SEC_DBG_HI : Nat := 0x50010
def SEC_POLICY : Nat := 0x50014
def SEC_LAST : Nat := 0x50018
def SEC_KEY (i : Nat) : Nat := 0x50100 + 4 * i
def GLB_ID : Nat := 0x0
def GLB_SERIAL_LO : Nat := 0x4
def GLB_SERIAL_HI : Nat := 0x8
def GLB_MODE : Nat := 0x10
def GLB_PMODE (i : Nat) : Nat := 0x400 + 4 * i
def HIF_STAT : Nat := 0x10000
def HIF_ICFG : Nat := 0x10004
def HIF_XFER_CFG : Nat := 0x10008
def HIF_PORT (i : Nat) : Nat := 0x10010 + 4 * i
def HIF_XFERn_LO (i : Nat) : Nat := 0x10020 + 16 * i
def HIF_XFERn_HI (i : Nat) : Nat := 0x10024 + 16 * i
def HIF_XFERn_CFG (i : Nat) : Nat := 0x10028 + 16 * i
def HIF_XFERn_STAT (i : Nat) : Nat := 0x1002C + 16 * i
def HIF_CMD_LO (i : Nat) : Nat := 0x11000 + 64 * i
def HIF_CMD_HI (i : Nat) : Nat := 0x11004 + 64 * i
def HIF_ASS_LO (i : Nat) : Nat := 0x11008 + 64 * i
def HIF_ASS_HI (i : Nat) : Nat := 0x1100C + 64 * i
def HIF_CPL_LO (i : Nat) : Nat := 0x11010 + 64 * i
def HIF_CPL_HI (i : Nat) : Nat := 0x11014 + 64 * i
def HIF_SMPA_LO (i : Nat) : Nat := 0x11018 + 64 * i
def HIF_SMPA_HI (i : Nat) : Nat := 0x1101C + 64 * i
def HIF_RCFG (i : Nat) : Nat := 0x11020 + 64 * i
def HIF_RSTAT (i : Nat) : Nat := 0x11024 + 64 * i
def HIF_CSTAT (i : Nat) : Nat := 0x11028 + 64 * i
def RGNW_BUSY (r : Nat) : Nat := winBase r + 0x0
def EDG_CFG : Nat := 0xF0000
def EDG_ING : Nat := 0xF0004
def EDG_ING_SEQ : Nat := 0xF0008
def EDG_CH_IDX : Nat := 0xF0010
def EDG_CH_A : Nat := 0xF0014
def EDG_CH_B : Nat := 0xF0018
def EDG_DROP : Nat := 0xF001C
def EDG_CMD : Nat := 0xF0020
def EDG_PORT (i : Nat) : Nat := 0xF0100 + 16 * i
def EDG_ERR (i : Nat) : Nat := 0xF0104 + 16 * i
def EDG_TX (i : Nat) : Nat := 0xF0108 + 16 * i
def EDG_RX (i : Nat) : Nat := 0xF010C + 16 * i

end Reg

/-- The reset values that are not 0: (base, stride, count, value); `window` rows are offsets in every region window. -/
def resetRows : List (Nat × Nat × Nat × Word) :=
  [(0x100, 0, 1, 0x3000000),
   (0x108, 0, 1, 0x3000000),
   (0x140, 4, 32, 0x3FD80000),
   (0x1000, 4, 64, 0x108),
   (0xD0000, 0, 1, 0x66003E8),
   (0x90400, 0, 1, 0x3E8),
   (0xA0000, 0, 1, 0x1),
   (0xA1008, 32, 64, 0x6),
   (0x90014, 0, 1, 0x7530),
   (0x90018, 0, 1, 0x9C4),
   (0x70024, 0, 1, 0x8),
   (0x80000, 0, 1, 0x1E00C8),
   (0x60000, 0, 1, 0x3C0A00),
   (0x60004, 0, 1, 0x40000000),
   (0x10028, 16, 2, 0x4),
   (0x11020, 64, 64, 0x544)]

def resetWinRows : List (Nat × Nat × Nat × Word) :=
  [(0x10, 0, 1, 0x3FF9F000),
   (0x480, 4, 17, 0x1FFF0000),
   (0x900, 0, 1, 0xFF000000)]

/-- Does the row (base, stride, count, …) hold this address? -/
def rowHolds (base stride count a : Nat) : Bool :=
  if stride = 0 then decide (a = base)
  else decide (base ≤ a) && decide ((a - base) % stride = 0) && decide ((a - base) / stride < count)

def rowReset (rows : List (Nat × Nat × Nat × Word)) (a : Nat) : Word :=
  match rows with
  | [] => 0
  | (b, st, n, v) :: t => if rowHolds b st n a then v else rowReset t a

/-- Is the address in a region window, and at which offset? -/
def inWindow (a : Nat) : Bool := decide (0x1000000 ≤ a) && decide (a < winBase 896)

def winRegion (a : Nat) : Nat := (a - 0x1000000) / 0x1000
def winOffset (a : Nat) : Nat := (a - 0x1000000) % 0x1000

/-- The reset value of the register at a BAR0 address. -/
def regReset (a : Nat) : Word :=
  if inWindow a then rowReset resetWinRows (winOffset a) else rowReset resetRows a

/-- The word a register holds. -/
def State.rd (s : State) (a : Nat) : Word := (tabFind s.regs a).getD (regReset a)

/-- Write a register's word; the table stays canonical (a value equal to the reset value is not listed). -/
def State.wr (s : State) (a : Nat) (v : Word) : State :=
  { s with regs := tabPut s.regs a (if v = regReset a then none else some v) }

/-- Are the stack rails down, and with them the welt blocks outside the always-on group (R370)? Their registers read their reset values,
and writes to them are ignored (R386, assumption 25). -/
def State.weltDown (s : State) : Bool := s.boot.railsDown

/-- Registers of those blocks: SMP, KVC, FAB, RIM, EDG, and of SRV what is not in the store of accounts and ledgers. -/
def onRail (a : Nat) : Bool :=
  (decide (0xB0000 ≤ a) && decide (a < 0x100000)) || decide (a = Reg.SRV_CFG) || decide (a = Reg.SRV_SEQ_IDX)

/-- A field of a register. -/
def State.fld (s : State) (a hi lo : Nat) : Nat := field (s.rd a) hi lo

def State.setFld (s : State) (a hi lo v : Nat) : State := s.wr a (setField (s.rd a) hi lo v)

def State.bump (s : State) (a hi lo : Nat) : State := s.wr a (bumpField (s.rd a) hi lo 1)

def State.bumpSat (s : State) (a hi lo : Nat) : State := s.wr a (Sys2Proof.Machine.bumpSat (s.rd a) hi lo 1)

def State.bumpBy (s : State) (a hi lo n : Nat) : State := s.wr a (bumpField (s.rd a) hi lo n)

/-- A register pair holding a 64-bit value, low half at a. -/
def State.rd64 (s : State) (lo hi : Nat) : Nat := (s.rd lo).toNat + 2 ^ 32 * (s.rd hi).toNat

def State.wr64 (s : State) (lo hi v : Nat) : State := (s.wr lo (BitVec.ofNat 32 v)).wr hi (BitVec.ofNat 32 (v >>> 32))

/-- A read of a _LO register captures the high half for the next read from the same port (R469). -/
def State.capture (s : State) (port hiAddr : Nat) (v : Word) : State :=
  { s with capt := tabSet 0 s.capt (2 * hiAddr + port % 2) v }

/-! Accessors of the sparse structures. -/

/-- Key of a core. -/
def CoreId_key (c : CoreId) : Nat := 17 * c.r + c.k

def State.coreAt (s : State) (key : Nat) : Core := tabGet Core.zero s.cores key
def State.core (s : State) (c : CoreId) : Core := s.coreAt (CoreId_key c)
def State.setCoreAt (s : State) (key : Nat) (x : Core) : State := { s with cores := tabSet Core.zero s.cores key x }
def State.setCore (s : State) (c : CoreId) (x : Core) : State := s.setCoreAt (CoreId_key c) x
def State.modCoreAt (s : State) (key : Nat) (f : Core → Core) : State := s.setCoreAt key (f (s.coreAt key))
def State.modCore (s : State) (c : CoreId) (f : Core → Core) : State := s.modCoreAt (CoreId_key c) f

def State.region (s : State) (r : Nat) : Region := tabGet Region.zero s.regions r
def State.setRegion (s : State) (r : Nat) (x : Region) : State := { s with regions := tabSet Region.zero s.regions r x }
def State.modRegion (s : State) (r : Nat) (f : Region → Region) : State := s.setRegion r (f (s.region r))

def State.part (s : State) (p : Nat) : Part := tabGet Part.zero s.parts p
def State.setPart (s : State) (p : Nat) (x : Part) : State := { s with parts := tabSet Part.zero s.parts p x }
def State.modPart (s : State) (p : Nat) (f : Part → Part) : State := s.setPart p (f (s.part p))

end Sys2Proof.Machine
end

