-- ==== Sys2Proof/Machine/Last.lean ====
section
/-! DEFINITION. The last (chapter 01): the map from the physical wafer to the logical grid, a pure function of the grade
fuses, the dead regions and the skip-link tests, and the registers that show it. -/

namespace Sys2Proof.Machine

/-- The physical rows of column px whose region is dead. -/
def deadRows (dead : Nat → Bool) (px : Nat) : List Nat := (List.range 28).filter fun py => dead (32 * py + px)

/-- R21: leaving out row b joins physical rows through skip links for b from 2 to 25. -/
def needsSkip (b : Nat) : Bool := decide (2 ≤ b) && decide (b ≤ 25)

/-- One column (R19, R20, R22). A column with two or more dead regions shows its standby row; DESIGN CHOICE, assumption 5. -/
def buildCol (fused : List Nat) (skipFailed : List Nat) (dead : Nat → Bool) (px : Nat) : LastCol :=
  let d := deadRows dead px
  let b := match d with
    | [b] => b
    | _ => 27
  let removed :=
    if fused.contains px then 1
    else if decide (2 ≤ d.length) then 2
    else if d.length = 1 && needsSkip b && skipFailed.contains px then 2
    else 0
  { removed := removed, leftOut := b, spareUsed := d.contains b }

/-- Lengths of the alternating runs of removed (true) and kept (false) columns, west to east. -/
def colRuns (l : List Bool) : List (Bool × Nat) :=
  match l with
  | [] => []
  | b :: t =>
    match colRuns t with
    | [] => [(b, 1)]
    | (c, n) :: r => if b = c then (c, n + 1) :: r else (b, 1) :: (c, n) :: r

/-- R23 read along the runs: `edge` says the run at the front touches the wafer edge. -/
def runsLegal (edge : Bool) (l : List (Bool × Nat)) : Bool :=
  match l with
  | [] => true
  | [(true, n)] => decide (n ≤ 2) && !edge
  | [(false, _)] => true
  | (true, n) :: r => decide (n ≤ (if edge then 2 else 1)) && runsLegal false r
  | (false, n) :: r => (edge || decide (2 ≤ n)) && runsLegal false r

/-- The last of these inputs (R16 to R23). -/
def buildLast (fused : List Nat) (skipFailed : List Nat) (dead : Nat → Bool) : Last :=
  let cols := (List.range 32).map (buildCol fused skipFailed dead)
  { cols := cols, noGrid := !(runsLegal true (colRuns (cols.map fun c => decide (c.removed ≠ 0)))) }

def Last.col (l : Last) (px : Nat) : LastCol := (l.cols[px]?).getD { removed := 0, leftOut := 27, spareUsed := false }

/-- Logical columns (R22). -/
def Last.lcols (l : Last) : Nat := if l.noGrid then 0 else (l.cols.filter fun c => decide (c.removed = 0)).length

def Last.lregions (l : Last) : Nat := 27 * l.lcols

/-- Effective grade (R24). -/
def Last.grade (l : Last) : Nat :=
  if l.noGrid then 3 else if l.lcols = 32 then 0 else if 30 ≤ l.lcols then 1 else 2

/-- lx = px − removed columns west of px (R22). -/
def Last.lx (l : Last) (px : Nat) : Nat := ((l.cols.take px).filter fun c => decide (c.removed = 0)).length

def Last.inGrid (l : Last) (r : Nat) : Bool :=
  !l.noGrid && decide ((l.col (r % 32)).removed = 0) && decide ((l.col (r % 32)).leftOut ≠ r / 32) && decide (r < 896)
    && decide (l.cols.length = 32)

/-- Logical place of a physical region (R19, R22). -/
def Last.logical (l : Last) (r : Nat) : Option (Nat × Nat) :=
  if l.inGrid r then
    let b := (l.col (r % 32)).leftOut
    let py := r / 32
    some (l.lx (r % 32), if py < b then py else py - 1)
  else none

/-- Physical column of a logical column. -/
def Last.physCol (l : Last) (x : Nat) : Option Nat :=
  (List.range 32).find? fun px => decide ((l.col px).removed = 0) && decide (l.lx px = x) && decide (l.cols.length = 32)

/-- Physical region of a logical region (R19, R22). -/
def Last.phys (l : Last) (x y : Nat) : Option Nat :=
  if l.noGrid || decide (27 ≤ y) then none
  else (l.physCol x).map fun px => 32 * (if y < (l.col px).leftOut then y else y + 1) + px

/-- Columns in the grid whose standby is unused. -/
def Last.sparesLeft (l : Last) : Nat :=
  if l.noGrid then 0 else (l.cols.filter fun c => decide (c.removed = 0) && !c.spareUsed).length

/-- GLB_LAST_SHAPE of a last (Table 01-6). -/
def Last.shapeWord (l : Last) : Word :=
  BitVec.ofNat 32 (l.grade * 2 ^ 24 + l.lcols * 2 ^ 18 + (if l.noGrid then 0 else 27) * 2 ^ 13 + l.lregions)

/-- R27: the pending last touches column px. -/
def touched (cur pend : Last) (px : Nat) : Bool :=
  let a := cur.col px
  let b := pend.col px
  decide (a.leftOut ≠ b.leftOut) || decide (a.removed ≠ b.removed)
    || decide ((if cur.noGrid || a.removed ≠ 0 then 63 else cur.lx px) ≠ (if pend.noGrid || b.removed ≠ 0 then 63 else pend.lx px))

def State.colTouched (s : State) (px : Nat) : Bool :=
  match s.pendLast with
  | none => false
  | some l => touched s.last l px

/-- FINAL of GLB_LAST_STAT. -/
def State.lastFinal (s : State) : Bool := flag (s.rd Reg.GLB_LAST_STAT) 0

/-- GLB_LAST_COLn (Table 01-8): the reset value until FINAL (R16). -/
def State.lastColWord (s : State) (n : Nat) : Word :=
  if !s.lastFinal then 0x3FD80000
  else
    let c := s.last.col n
    let pendRemoval := match s.pendLast with
      | none => false
      | some l => decide ((l.col n).removed ≠ 0)
    let st := if c.removed ≠ 0 then c.removed else if !s.last.noGrid && pendRemoval then 3 else 0
    let lx := if s.last.noGrid || c.removed ≠ 0 then 63 else s.last.lx n
    BitVec.ofNat 32 (st * 2 ^ 30 + lx * 2 ^ 24 + c.leftOut * 2 ^ 19 + (if c.spareUsed then 2 ^ 18 else 0)
      + (if s.colTouched n then 2 ^ 17 else 0) + 2 ^ 16)

/-- RGNW_LAST_ENTRY (Table 01-10): the reset value until FINAL; from a death in service RSTATE reads 2 and CAUSE the cause,
while the place is kept (R26). -/
def State.lastEntryWord (s : State) (r : Nat) : Word :=
  if !s.lastFinal then 0x3FF9F000
  else
    let g := s.region r
    let c := s.last.col (r % 32)
    let st := if g.cause ≠ 0 then 2 else if c.removed ≠ 0 then 3 else if c.leftOut = r / 32 then 1 else 0
    let (x, y) := (s.last.logical r).getD (63, 31)
    BitVec.ofNat 32 (st * 2 ^ 30 + x * 2 ^ 24 + y * 2 ^ 19 + 2 ^ 17 + (g.spareFor.getD 31) * 2 ^ 12 + g.cause * 2 ^ 8)

/-- Is physical region r dead? -/
def State.dead (s : State) (r : Nat) : Bool := decide ((s.region r).cause ≠ 0)

/-- The fuse columns of ST2. -/
def State.fusedCols (s : State) : List Nat :=
  match s.boot.fuses with
  | none => []
  | some f => f.removed

/-- The last of the present inputs. -/
def State.computeLast (s : State) : Last := buildLast s.fusedCols s.boot.skipFailed fun r => s.dead r

/-! ### Distance (R32, R33) -/

/-- Folded-ring position. -/
def ringPos (n i : Nat) : Nat := if i % 2 = 0 then i / 2 else n - (i + 1) / 2

/-- Hop distance along a ring of n. -/
def ringDist (n i j : Nat) : Nat :=
  let a := ringPos n i
  let b := ringPos n j
  let d := max a b - min a b
  min d (n - d)

def hopDist (lcols : Nat) (a b : Nat × Nat) : Nat := ringDist lcols a.1 b.1 + ringDist 27 a.2 b.2

/-- The welt-facing hubs rim stack s attaches to (R33), as logical regions. -/
def rimHubs (lcols s : Nat) : List (Nat × Nat) :=
  let cols := fun q => (List.range lcols).filter fun x => decide (4 * x / lcols = q)
  let rows := fun q => (List.range 27).filter fun y => decide (4 * y / 27 = q)
  if s < 4 then (cols s).map fun x => (x, 0)
  else if s < 8 then (rows (s - 4)).map fun y => (lcols - 1, y)
  else if s < 12 then (cols (11 - s)).map fun x => (x, 26)
  else (rows (15 - s)).map fun y => (0, y)

/-- HOPS from logical region (x, y) to rim stack s. -/
def rimHops (lcols x y s : Nat) : Nat :=
  match (rimHubs lcols s).map fun h => hopDist lcols (x, y) h with
  | [] => 1
  | d :: t => 1 + t.foldl min d

/-- GLB_DIST_DATA for the index selected (R35, Table 01-9). -/
def State.distWord (s : State) : Word :=
  let ix := s.rd Reg.GLB_DIST_IDX
  let gen := s.fld Reg.GLB_LAST_STAT 31 16
  let x := field ix 15 10
  let y := field ix 9 5
  if s.lastFinal && !s.last.noGrid && decide (x < s.last.lcols) && decide (y < 27) then
    BitVec.ofNat 32 (gen * 2 ^ 16 + 2 ^ 15 + rimHops s.last.lcols x y (field ix 19 16))
  else BitVec.ofNat 32 (gen * 2 ^ 16)

/-! ### Putting a last in force, and the pending last -/

/-- Write the shape and state registers for the last in force and the pending one. -/
def State.publishLast (s : State) : State :=
  let p := s.pendLast.getD s.last
  let s := (s.wr Reg.GLB_LAST_SHAPE s.last.shapeWord).wr Reg.GLB_LAST_PEND_SHAPE p.shapeWord
  let s := s.setFld Reg.GLB_LAST_STAT 15 8 s.last.sparesLeft
  let s := s.setFld Reg.GLB_LAST_STAT 2 2 (if s.last.noGrid || p.noGrid then 1 else 0)
  s.setFld Reg.GLB_LAST_STAT 1 1 (if s.pendLast.isSome then 1 else 0)

/-- GEN after a change: it wraps from 0xFFFF to 1 (R28). -/
def nextGen (g : Nat) : Nat := if g = 0xFFFF then 1 else g + 1

end Sys2Proof.Machine
end

