-- ==== Sys2Proof/Machine/Ops.lean ====
section
/-! DEFINITION. Operations that many commands share: register writes under the reserved-bit rule, interrupts, host memory,
the event log, fault records and their reactions, stops of a partition, and the death of a region. -/

namespace Sys2Proof.Machine

/-! ### Register writes (R473) -/

/-- A software write to a register: `m` are the bits software may change, `ro` the read-only ones; the rest are reserved.
A write that changes a reserved bit counts RSVD, or sets TESTRSV while TESTMODE is 1. -/
def State.writeRW (s : State) (a : Nat) (m ro v : Word) : State :=
  let old := s.rd a
  let changed := (v ^^^ old) &&& ~~~(m ||| ro)
  let s :=
    if changed = 0 then s
    else if s.sec.testMode then s.setFld Reg.HIF_STAT 7 7 1
    else s.bump Reg.HIF_STAT 23 16
  s.wr a ((v &&& m) ||| (old &&& ~~~m))

/-- A write of v changes reserved bits of a word that reads `old` (R473). A write-only register reads 0, and its "write 0" fields are reserved. -/
def State.reservedBits (s : State) (old v reserved : Word) : State :=
  if (old ^^^ v) &&& reserved = 0 then s
  else if s.sec.testMode then s.setFld Reg.HIF_STAT 7 7 1
  else s.bump Reg.HIF_STAT 23 16

/-! ### Time -/

def State.now (s : State) : Nat := s.time.toNat

/-- At least n nanoseconds since t? -/
def State.elapsed (s : State) (t : Long) (n : Nat) : Bool := decide (t.toNat + n ≤ s.now)

/-! ### Host memory and interrupts (R467, R481) -/

/-- Home port of a partition (R475). -/
def State.homePort (s : State) (p : Nat) : Nat := s.fld (Reg.HIF_RCFG p) 30 30

def State.portUp (s : State) (n : Nat) : Bool := flag (s.rd (Reg.HIF_PORT n)) 31

/-- A write to host memory, and the advance that follows it (HostWrite). -/
def State.issueWrite (s : State) (addr : Nat) (d : Bytes) (adv : Nat) : State :=
  let s := { s with hostMem := memWrite s.hostMem addr d }
  if adv = 0 ∨ 200 ≤ adv then s
  else if adv < 100 then s.bump (Reg.HIF_CSTAT (adv - 1)) 31 16
  else s.bump (Reg.SRV_OUT_PI (adv - 100)) 31 0

/-- A posted write to host memory: held, with its advance, while the port's link is down (R467). -/
def State.hostWriteAdv (s : State) (port addr : Nat) (d : Bytes) (adv : Nat) : State :=
  if s.portUp port then s.issueWrite addr d adv
  else { s with hif := { s.hif with held := s.hif.held ++ [{ port := port, addr := addr, data := d, adv := adv }] } }

def State.hostWrite (s : State) (port addr : Nat) (d : Bytes) : State := s.hostWriteAdv port addr d 0

/-- Advances of an index that wait with held writes. -/
def State.heldAdvances (s : State) (adv : Nat) : Nat := (s.hif.held.filter fun h => decide (h.adv = adv)).length

/-- A vector's message at time `now`: sent, with a hold-off of HOLDOFF µs from it, or left pending by its mask (R481, R486). -/
def Vector.message (x : Vector) (now holdoff : Nat) : Vector :=
  if x.masked then { x with pendingBit := true, waiting := false }
  else { x with sent := x.sent + 1, pendingBit := false, waiting := false, until_ := some (BitVec.ofNat 64 (now + 1000 * holdoff)) }

/-- One port's vector: sent, left pending by its mask, or waiting for the hold-off (R481). -/
def State.signalPort (s : State) (port v : Nat) : State :=
  let key := 256 * port + v
  let x := tabGet Vector.zero s.hif.msix key
  let holding := match x.until_ with
    | none => false
    | some t => decide (s.now < t.toNat)
  let x := if holding then { x with waiting := true } else x.message s.now (s.fld Reg.HIF_ICFG 15 0)
  if s.portUp port then { s with hif := { s.hif with msix := tabSet Vector.zero s.hif.msix key x } } else s

/-- Signal a vector of Table 18-7: below 128 on the partition's home port, else on both. -/
def State.signal (s : State) (v : Nat) : State :=
  if v < 128 then s.signalPort (s.homePort (v % 64)) v else (s.signalPort 0 v).signalPort 1 v

/-! ### Partition state -/

/-- LDR_PARTp.STATE: 0 free, 1 loading, 2 running, 3 stopping, 4 zeroizing. -/
def State.pstate (s : State) (p : Nat) : Nat := s.fld (Reg.LDR_PART p) 31 29

def State.setPState (s : State) (p v : Nat) : State := s.setFld (Reg.LDR_PART p) 31 29 v

def State.ersn (s : State) (p : Nat) : Nat := s.fld (Reg.LDR_PART p) 19 16

/-- The partitions that are not in STATE 0. -/
def State.liveParts (s : State) : List Nat := (List.range 64).filter fun p => decide (s.pstate p ≠ 0)

/-- Owner of a region: the partition placed on it, while it is loaded. -/
def State.owner (s : State) (r : Nat) : Option Nat :=
  match (s.region r).part with
  | none => none
  | some p => if s.pstate p = 0 then none else some p

/-! ### The event log (R440, R441, R405) -/

/-- Is the flash temperature gate open? Codes are 4·(T + 64). -/
def State.flashOpen (s : State) : Bool :=
  match s.mgt.flashTemp with
  | none => true
  | some c => decide (256 ≤ c) && decide (c ≤ 596)

/-- Append an entry; when the gate is open everything waiting goes to flash in order, otherwise entries wait in the SRAM
ring of 32,768 and the oldest are lost when it is full (R405). -/
def State.logRaw (s : State) (code : Nat) (arg : Word) (body : Bytes) : State :=
  let m := s.mgt
  let n := m.nextNumber + 1
  let e : LogEntry := { code := code, cold := m.coldStarts % 65536, arg := arg, body := body }
  let m := { m with nextNumber := n, entries := tabAdd m.entries n e }
  let m := if s.flashOpen then { m with flashed := n } else m
  let s := if s.flashOpen then s else s.bump Reg.THM_GATE 23 16
  let lost := n - m.flashed - 32768
  let m := if 0 < lost then { m with flashed := m.flashed + lost, lostPending := m.lostPending + lost, entries := tabDrop m.entries (m.flashed + 1) } else m
  let s := { s with mgt := m }
  let s := s.bumpBy Reg.MGT_LOG_STAT 31 16 lost
  let s := s.wr64 Reg.MGT_LOG_LO Reg.MGT_LOG_HI (n + 1)
  s.setFld Reg.MGT_LOG_STAT 15 0 (n - m.flashed)

/-- An event of Table 17-4: device time in BODY bytes 0–7, its data in bytes 8–15. -/
def State.logEvent (s : State) (code arg : Nat) (data : Bytes) : State :=
  s.logRaw code (BitVec.ofNat 32 arg) (leBytes 8 s.now ++ slice data 0 8)

/-! ### Fault records (R419, R421) -/

/-- A locus word (R391). -/
def locus (kind cause place : Nat) : Word := BitVec.ofNat 32 (kind * 2 ^ 28 + (cause % 256) * 2 ^ 20 + place % 2 ^ 20)

def regionPlace (r : Nat) : Nat := (r / 32) * 2 ^ 5 + r % 32

def regionLocus (r : Nat) : Word := locus 3 0 (regionPlace r)

def coreLocus (key : Nat) : Word := locus 4 0 ((key % 17) * 2 ^ 10 + regionPlace (key / 17))

def linkLocus (r q : Nat) : Word := locus 13 0 (q * 2 ^ 10 + regionPlace r)

def State.hostReact (s : State) : Bool := flag (s.rd Reg.GLB_MODE) 1

/-- The 16 bytes of Table 16-3. -/
def faultBytes (time : Nat) (inj react : Bool) (cls src part detail : Nat) (loc : Word) : Bytes :=
  leBytes 8 time ++ leBytes 1 ((if inj then 128 else 0) + (if react then 64 else 0) + cls) ++ leBytes 1 src ++ leBytes 1 part
    ++ leBytes 1 detail ++ leBytes 4 loc.toNat

/-- Write one record: ring entry w mod 256, event code 1, and the interrupt for classes 1 to 3. -/
def State.writeRecord (s : State) (inj : Bool) (cls src part detail : Nat) (loc : Word) : State :=
  let b := faultBytes s.now inj s.hostReact cls src part detail loc
  let w := (s.rd Reg.FLT_LOG_WR).toNat
  let s := { s with flt := { s.flt with ring := tabAdd s.flt.ring (w % 256) b } }
  let s := s.wr Reg.FLT_LOG_WR (BitVec.ofNat 32 (w + 1))
  let s := s.logRaw 1 0 b
  if cls = 0 then s else s.signal 129

def State.countClass (s : State) (cls : Nat) : State := s.bump (Reg.FLT_CNT cls) 31 0

/-- At most one record per key within n ns. -/
def rateOk (t : Tab Long) (key n : Nat) (now : Nat) : Bool :=
  match tabFind t key with
  | none => true
  | some u => decide (u.toNat + n ≤ now)

/-- A corrected fault (class 0): one record per region and source per second. -/
def State.corrected (s : State) (src : Nat) (loc : Word) (inj : Bool) : State :=
  let s := s.countClass 0
  let key := 256 * loc.toNat + src
  if rateOk s.flt.lastCorrected key 1000000000 s.now then
    let s := { s with flt := { s.flt with lastCorrected := tabAdd s.flt.lastCorrected key s.time } }
    s.writeRecord inj 0 src 255 0 loc
  else s

/-- A deferred fault (class 1): one record per partition per millisecond, or per place when none is concerned. -/
def State.deferredD (s : State) (src : Nat) (part : Option Nat) (detail : Nat) (loc : Word) (inj : Bool) : State :=
  let s := s.countClass 1
  let key := match part with
    | some p => p
    | none => 64 + loc.toNat
  if rateOk s.flt.lastDeferred key 1000000 s.now then
    let s := { s with flt := { s.flt with lastDeferred := tabAdd s.flt.lastDeferred key s.time } }
    s.writeRecord inj 1 src (part.getD 255) detail loc
  else s

def State.deferred (s : State) (src : Nat) (part : Option Nat) (loc : Word) : State := s.deferredD src part 0 loc false

/-! ### Stops (R345, R346, R207) -/

/-- A stop other than the spare procedure's own ends the procedure under way for p (R427). -/
def State.interruptSpare (s : State) (p reason : Nat) : State :=
  match s.flt.current with
  | some (q, key, _) => if q = p ∧ reason ≠ 9 then { s with flt := { s.flt with current := some (q, key, 1) } } else s
  | none => s

/-- A stop with an end reason reaches partition p. Running: it becomes pending, in stall mode at epoch E + 64 (R207).
Loading: a kill or a device-fatal fault stops the load, any other cause is held until the job starts (R345). Stopping: a
second cause changes nothing, but it ends a spare procedure under way (R427). -/
def State.stopPart (s : State) (p reason : Nat) : State :=
  let x := s.part p
  match s.pstate p with
  | 1 =>
    if reason = 2 || reason = 8 then
      match s.load with
      | some l => { s with load := some { l with stopAsked := true } }
      | none => s
    else s.setPart p { x with heldReason := some (x.heldReason.getD reason) }
  | 2 =>
    if x.stopEpoch.isSome then s.interruptSpare p reason
    else
      let s := s.setFld (Reg.LDR_PART p) 19 16 reason
      if x.stall then
        s.setPart p { x with stopEpoch := some (x.epoch + 64), due := x.due.map fun d => { d with ready := true } }
      else (s.setPart p { x with stopPending := true, stopTime := some s.time }).setPState p 3
  | 3 => s.interruptSpare p reason
  | _ => s

/-- A job-fatal fault (class 2): recorded with its end reason and stopping its owner; with no owner, source 23 and class 1
(R419). -/
def State.jobFatalD (s : State) (part : Option Nat) (src reason : Nat) (loc : Word) (inj : Bool) : State :=
  match part with
  | none => s.deferredD 23 none src loc inj
  | some p => ((s.countClass 2).writeRecord inj 2 src p reason loc).stopPart p reason

def State.jobFatal (s : State) (part : Option Nat) (src reason : Nat) (loc : Word) : State :=
  s.jobFatalD part src reason loc false

/-- Write DURATION and STATUS of the record of stage n (R390). -/
def State.closeRecord (s : State) (n status : Nat) : State :=
  let t0 := (tabGet 0 s.boot.stageStart n).toNat
  let s := s.setFld (Reg.STG_REC_A n) 27 24 status
  s.wr (Reg.STG_REC_B n) (BitVec.ofNat 32 ((s.now - t0) / 1000))

/-- The stage under way is abandoned with STATUS 4 (R381, R424). -/
def State.abandonStage (s : State) : State :=
  match s.boot.stage with
  | some n => { s.closeRecord n 4 with boot := { s.boot with stage := none } }
  | none => s

/-- A device-fatal fault (R423): record, frozen ledgers, a stop with reason 8 for every partition, the live sequences kept; a stage
under way ends with STATUS 4 (R424).
While FATAL is already 1 it is recorded and restarts the quiet period only. -/
def State.deviceFatalD (s : State) (src : Nat) (loc : Word) (inj : Bool) : State :=
  let was := flag (s.rd Reg.FLT_STAT) 31
  let s := (s.countClass 3).writeRecord inj 3 src 255 0 loc
  let s := { s with flt := { s.flt with lastFatal := some s.time, lastFatalSource := src } }
  let s := (s.setFld Reg.FLT_FATAL 31 24 src).wr Reg.FLT_FATAL_LOC loc
  if was then s
  else
    let s := s.setFld Reg.FLT_STAT 31 31 1
    let four := decide (4 ≤ s.fld Reg.FLT_STAT 29 27)
    let s := if four then s.setFld Reg.FLT_STAT 30 30 0 else s
    let s := (s.setFld Reg.SRV_STAT 31 31 1).abandonStage
    let s := { s with boot := { s.boot with aliveOut := false } }
    let keep := (s.srv.seqs.filter fun e => decide (e.2.state ≠ 0)).map fun e =>
      ({ part := e.2.part, seq := e.1, tag := e.2.tag, pos := e.2.len } : KeptSeq)
    let s := { s with srv := { s.srv with frozen := true }, flt := { s.flt with kept := keep } }
    (List.range 64).foldl (fun s p => s.stopPart p 8) s

def State.deviceFatal (s : State) (src : Nat) (loc : Word) : State := s.deviceFatalD src loc false

/-! ### Death of a region in service (R18, R26) -/

/-- What a region loses with its power: its cores, sequencer, engines, keeper and memory contents. -/
def Region.unpowered (g : Region) : Region :=
  { g with pstate := 0, seq := Sequencer.zero, emissions := [], moves := [], keeper := Keeper.zero, le := ListEngine.idle,
           posted := none, heldId := [], heldModel := [], heldKey := 0, wake := none, poweringDown := false, downSince := none, trace := [], traceWr := 0 }

/-- A core without power: its contents are lost; a failed core stays failed (Table 02-8). -/
def Core.unpowered (c : Core) : Core :=
  { Core.zero with phase := if c.phase = .failed then .failed else .off, logical := c.logical, part := c.part,
                   suspect := c.suspect, suspectSince := c.suspectSince, missingSince := c.missingSince,
                   lastDisagreeLog := c.lastDisagreeLog }

/-- A core whose header switches open while its region keeps its power: its slice of bonded memory stays (R360). -/
def Core.switchedOff (c : Core) : Core := { c.unpowered with slice := c.slice }

/-- Apply f to the 17 cores of a region. -/
def State.mapCores (s : State) (r : Nat) (f : Nat → Core → Core) : State :=
  (List.range 17).foldl (fun s k => s.modCoreAt (17 * r + k) (f k)) s

def State.cutPower (s : State) (r : Nat) : State :=
  (s.mapCores r fun _ c => c.unpowered).modRegion r Region.unpowered

/-- Compute the pending last again (R26) and log it (code 4, vector 133). -/
def State.lastPending (s : State) : State :=
  if s.lastFinal then
    let l := s.computeLast
    let s := { s with pendLast := some l }
    let s := s.publishLast
    (s.logEvent 4 l.lregions [BitVec.ofNat 8 l.lcols]).signal 133
  else s

/-- Region r dies in service with a cause of Table 01-3. `record` gives the fault's owner: none forces source 23. -/
def State.regionDies (s : State) (r cause : Nat) (owner : Option Nat) : State :=
  if (s.region r).cause ≠ 0 then s
  else
    let s := s.cutPower r
    let s := s.modRegion r fun g =>
      { g with cause := cause, hubOn := g.hubOn && decide (cause ≠ 8), hubStopped := g.hubStopped || decide (cause = 8) }
    let s := { s with mgt := { s.mgt with deaths := tabAdd s.mgt.deaths r cause } }
    let s := s.lastPending
    s.jobFatal owner 33 5 (if owner.isSome then locus 3 cause (regionPlace r) else regionLocus r)

/-! ### Fault injection (R430, R431) -/

/-- Is an injection for checker class c armed, in a scope that takes in region r? Without a region only the whole device does. -/
def State.injArmed (s : State) (c : Nat) (r : Option Nat) : Bool :=
  let w := s.rd Reg.FLT_INJ_CFG
  flag w 31 && decide (field w 29 26 = c) && (flag w 30 || (match r with
    | some r => decide (field w 25 21 = r % 32) && decide (field w 20 16 = r / 32)
    | none => false))

/-- Words still to inject: COUNT 0 acts as 1. -/
def State.injLeft (s : State) : Nat := max 1 (s.fld Reg.FLT_INJ_CFG 15 0) - s.fld Reg.FLT_INJ_STAT 15 0

/-- n words have been injected; ARM clears when COUNT words have been. -/
def State.injCount (s : State) (n : Nat) : State :=
  let s' := s.bumpBy Reg.FLT_INJ_STAT 15 0 (min n s.injLeft)
  if s.injLeft ≤ n then s'.setFld Reg.FLT_INJ_CFG 31 31 0 else s'

/-- A word of class c that keeps no record in a region is sent or stored. -/
def State.injSend (s : State) (c : Nat) (r : Option Nat) (n : Nat) : State := if s.injArmed c r && decide (0 < n) then s.injCount n else s

/-- Codewords of 16 bytes that [a, a + n) touches, in a store whose numbers begin at `base`. -/
def codewords (base a n : Nat) : List Nat := if n = 0 then [] else (List.range ((a + n - 1) / 16 + 1 - a / 16)).map fun i => base + a / 16 + i

/-- Words of class c stored in region r: they leave the region's record, and enter it again when they are injected. A full record of 64 stops
the injection early. -/
def State.injStore (s : State) (c r : Nat) (ws : List Nat) : State :=
  let g := s.region r
  if g.injected = [] ∧ !(flag (s.rd Reg.FLT_INJ_CFG) 31) then s
  else
    let old := g.injected.filter fun e => !(decide (e.1 = c) && ws.contains e.2)
    let n := if s.injArmed c (some r) then min ws.length (min s.injLeft (64 - old.length)) else 0
    let s := s.modRegion r fun g => { g with injected := old ++ (ws.take n).map fun w => (c, w) }
    let s := if 0 < n then s.injCount n else s
    if s.injArmed c (some r) && decide (64 ≤ (s.region r).injected.length) then s.setFld Reg.FLT_INJ_CFG 31 31 0 else s

/-- Does a codeword of [base + a/16, …) of class c in region r hold an injected error? -/
def State.injHit (s : State) (c r : Nat) (ws : List Nat) : Bool := (s.region r).injected.any fun e => decide (e.1 = c) && ws.contains e.2

/-- Numbers of the codewords of a slice (class 0), of a scratchpad (class 1; space as Table 06-4), and of sequencer SRAM (class 3). -/
def sliceWords (k a n : Nat) : List Nat := codewords (k * 2 ^ 22) a n
def scratchWords (k space a n : Nat) : List Nat := codewords ((4 * k + space) * 2 ^ 16) a n

/-- A job-fatal fault of source 35, whose partition's sequences end as R420 states. -/
def State.memFatalD (s : State) (part : Option Nat) (loc : Word) (inj : Bool) : State :=
  let s := match part with
    | some p => s.modPart p fun x => { x with uncorrectable := true }
    | none => s
  s.jobFatalD part 35 7 loc inj

def State.memFatal (s : State) (part : Option Nat) (loc : Word) : State := s.memFatalD part loc false

end Sys2Proof.Machine
end

