-- ==== Sys2Proof/Machine/Accounts.lean ====
section
/-! DEFINITION. Accounts, their ledgers and the energy meters (R300 to R305, R324). Every quantity is moved in its account and in the device
totals by one operation; while the ledgers are frozen nothing moves. -/

namespace Sys2Proof.Machine

def State.acct (s : State) (a : Nat) : Acct := tabGet Acct.zero s.srv.accts a

def State.setAcct (s : State) (a : Nat) (x : Acct) : State := { s with srv := { s.srv with accts := tabSet Acct.zero s.srv.accts a x } }

/-- A sum in a 32-bit quantity: beyond its width the spec states no result. -/
def sum32 (a n : Nat) : Nat := if a + n < 2 ^ 32 then a + n else Config.unstated 6 (a + n) % 2 ^ 32

/-- Capture a violation of R305 and raise source 41. -/
def State.ledgerViolation (s : State) (kind a : Nat) (inj : Bool) : State :=
  let s := if flag (s.rd Reg.SRV_INV_LOG) 31 then s else s.wr Reg.SRV_INV_LOG (BitVec.ofNat 32 (2 ^ 31 + kind * 2 ^ 28 + a % 4096))
  s.deviceFatalD 41 0 inj

/-- MINT = BAL + HELD + SPENT + RETIRED. -/
def Ledger.balanced (l : Ledger) : Bool := decide (l.mint = l.bal + l.held + l.spent + l.retired)

/-- Change the ledger of account a and the totals alike. -/
def State.ledger (s : State) (a : Nat) (f : Ledger → Ledger) : State :=
  if s.srv.frozen then s
  else
    let x := s.acct a
    let l := f x.led
    let s := s.setAcct a { x with led := l }
    let s := { s with srv := { s.srv with totals := f s.srv.totals } }
    if l.balanced then s else s.ledgerViolation 1 a false

/-- Totals are sums over accounts: they keep every bit. -/
def Ledger.mintBy (n : Nat) (l : Ledger) : Ledger := { l with mint := l.mint + n, bal := l.bal + n }
def Ledger.revoke (n : Nat) (l : Ledger) : Ledger := { l with bal := l.bal - n, retired := l.retired + n }
def Ledger.reserve (n : Nat) (l : Ledger) : Ledger := { l with bal := l.bal - n, held := l.held + n }
def Ledger.return_ (n : Nat) (l : Ledger) : Ledger := { l with held := l.held - n, bal := l.bal + n }
def Ledger.spend (n : Nat) (l : Ledger) : Ledger := { l with held := l.held - n, spent := l.spent + n }

/-- Credits into an account: beyond BAL's width the account's balance is the open value. -/
def State.mint (s : State) (a n : Nat) : State :=
  if s.srv.frozen then s
  else
    let b := sum32 (s.acct a).led.bal n
    let s := s.ledger a (Ledger.mintBy n)
    if (s.acct a).led.bal = b then s
    else (s.setAcct a { s.acct a with led := { (s.acct a).led with bal := b } }).ledgerViolation 1 a false

/-- After a restart no sequence lives: every reservation has returned (R299, R305). -/
def State.returnAll (s : State) : State :=
  (tabKeys s.srv.accts).foldl (fun (s : State) a => s.ledger a (Ledger.return_ (s.acct a).led.held)) s

/-! ### Refill, grant, selection (R301, R324) -/

/-- One interval's refill of one account. -/
def State.refill (s : State) (a : Nat) : State :=
  let x := s.acct a
  if x.en && decide (x.led.bal < x.cap) then s.mint a (min x.rate (x.cap - x.led.bal)) else s

def State.selAcct (s : State) : Nat := s.fld Reg.SRV_ACCT_IDX 11 0

/-- ACCT_GRANT (R301): nothing while the ledgers are frozen. -/
def State.grant (s : State) (v : Word) : State :=
  let a := s.selAcct
  let n := field v 30 0
  if s.srv.frozen then s
  else if flag v 31 then s.ledger a (Ledger.revoke (min n (s.acct a).led.bal)) else s.mint a n

/-- ACCT_IDX_WRITE (R324): select, and start a snapshot. -/
def execAcctIdxWrite (v : Word) (s : State) : Host.Outcome State Fault Refusal :=
  .next (
    let s := s.writeRW Reg.SRV_ACCT_IDX 0x1FFF 0 v
    { s with srv := { s.srv with snapshot := some (field v 12 0) } })

/-- The sixteen words of a snapshot (Table 11-10): `e` the energy shown. -/
def Ledger.words (l : Ledger) (e : Nat) : List Word :=
  let pair := fun (n : Nat) => [BitVec.ofNat 32 n, BitVec.ofNat 32 (n >>> 32)]
  pair l.mint ++ pair l.spent ++ pair l.retired ++ pair l.tokIn ++ pair l.tokOut ++ pair e ++ [BitVec.ofNat 32 l.bal, BitVec.ofNat 32 l.held]
    ++ pair l.unbudgeted

/-- Energy of the idle meters. -/
def State.idleEnergy (s : State) : Nat := (s.srv.idle.map (·.2)).foldl (· + ·) 0

/-- SNAPSHOT_LAND (R324): the snapshot of what the last index write selected lands, and SEQ increments. -/
def execSnapshotLand (s : State) : Host.Outcome State Fault Refusal :=
  .next (match s.srv.snapshot with
    | none => s
    | some v =>
      let ws := if v / 4096 % 2 = 1 then s.srv.totals.words (s.srv.totals.energy + s.idleEnergy + s.srv.overhead)
        else (s.acct (v % 4096)).led.words (s.acct (v % 4096)).led.energy
      let s := ((List.range 16).zip ws).foldl (fun (s : State) e => s.wr (Reg.SRV_SNAP_D e.1) e.2) s
      let s := (s.bump Reg.SRV_SNAP_SEQ 31 16).setFld Reg.SRV_SNAP_SEQ 12 0 v
      { s with srv := { s.srv with snapshot := none } })

/-! ### Energy (R304) -/

/-- Energy of region r since the last tick, in whole µJ; the rest stays for the next. -/
def State.regionJoules (s : State) (r : Nat) : Nat := ((s.region r).energy - (s.region r).energyMs) / 1000

/-- Divide E over the accounts' rows: floor(E·n/N), and the leftover one each by largest remainder, ties to the lower account. -/
def shares (e : Nat) (rows : List (Nat × Nat)) : List (Nat × Nat) :=
  let n := (rows.map (·.2)).foldl (· + ·) 0
  let given := rows.map fun x => (x.1, e * x.2 / n)
  let left := e - (given.map (·.2)).foldl (· + ·) 0
  let rank := fun (a x : Nat) => (rows.filter fun y => decide (x < e * y.2 % n) || (decide (e * y.2 % n = x) && decide (y.1 < a))).length
  (rows.zip given).map fun p => (p.2.1, p.2.2 + (if rank p.1.1 (e * p.1.2 % n) < left then 1 else 0))

/-- The energy of partition p in this millisecond, to its accounts or its idle meter. -/
def State.meterPart (s : State) (p e : Nat) : State :=
  let rows := s.srv.accts.filterMap fun x => match tabFind x.2.rowsMs p with
    | some n => if n = 0 then none else some (x.1, n)
    | none => none
  let s :=
    if rows.isEmpty then { s with srv := { s.srv with idle := tabSet 0 s.srv.idle p (tabGet 0 s.srv.idle p + e) } }
    else (shares e rows).foldl (fun (s : State) x => s.ledger x.1 fun l => { l with energy := l.energy + x.2 }) s
  { s with srv := { s.srv with measured := s.srv.measured + e } }

/-- ENERGY_METER_TICK (R304): one millisecond. `feedMicroJ` is the energy the feeds delivered in it; what the regions of partitions did not use
is the overhead meter's. -/
def State.meterTick (s : State) (feedMicroJ : Nat) : State :=
  if s.srv.frozen then s
  else
    let used := s.liveParts.map fun p => (p, ((s.part p).placed.map fun g => s.regionJoules g.r).foldl (· + ·) 0)
    let sum := (used.map (·.2)).foldl (· + ·) 0
    let s := used.foldl (fun (s : State) (u : Nat × Nat) => s.meterPart u.1 u.2) s
    let s := (List.range 896).foldl (fun (s : State) r =>
      let n := s.regionJoules r
      if n = 0 then s else s.modRegion r fun g => { g with energyMs := g.energyMs + 1000 * n }) s
    { s with srv := { s.srv with overhead := s.srv.overhead + (feedMicroJ - sum), measured := s.srv.measured + (feedMicroJ - sum),
                                 accts := s.srv.accts.filterMap fun x =>
                                   let y := { x.2 with rowsMs := [] }
                                   if y = Acct.zero then none else some (x.1, y) } }

def execEnergyMeterTick (feedMicroJ : Nat) (s : State) : Host.Outcome State Fault Refusal := .next (s.meterTick feedMicroJ)

/-- SRV_INEXACT_CLEAR (R305): W1C. -/
def execSrvInexactClear (v : Word) (s : State) : Host.Outcome State Fault Refusal :=
  .next (
    let s := s.reservedBits (s.rd Reg.SRV_STAT) v 0x7FFF8000
    if flag v 31 then s.setFld Reg.SRV_STAT 31 31 0 else s)

/-- SRV_PIDLE_LO_READ (R324). -/
def execSrvPidleLoRead (port p : Nat) (s : State) : Host.Outcome State Fault Refusal :=
  .next (s.capture port (Reg.SRV_PIDLE_HI p) (BitVec.ofNat 32 (tabGet 0 s.srv.idle p >>> 32)))

end Sys2Proof.Machine
end

