-- ==== Sys2Proof/Machine/Dyadic.lean ====
section
/-! DEFINITION. Exact arithmetic: dyadic numbers m · 2^e, floor and nearest-even roundings, and binary floating values with
signed zeros, infinities and NaN (R66, R100, R126, R127). -/

namespace Sys2Proof.Machine

/-- An exact number m · 2^e. -/
structure Dy where
  m : Int
  e : Int
  deriving DecidableEq, Repr

def Dy.zero : Dy := { m := 0, e := 0 }

/-- m · 2^k for k ≥ 0, as an integer. -/
def shl (m : Int) (k : Int) : Int := m * ((2 ^ k.toNat : Nat) : Int)

def Dy.mul (a b : Dy) : Dy := { m := a.m * b.m, e := a.e + b.e }

def Dy.neg (a : Dy) : Dy := { a with m := -a.m }

def Dy.add (a b : Dy) : Dy :=
  if a.m = 0 then b else if b.m = 0 then a
  else
    let e := min a.e b.e
    { m := shl a.m (a.e - e) + shl b.m (b.e - e), e := e }

def Dy.sum (l : List Dy) : Dy := l.foldl Dy.add Dy.zero

/-- floor(v · 2^−L): truncation toward negative infinity below 2^L (R47). -/
def Dy.floorAt (v : Dy) (l : Int) : Int :=
  if l ≤ v.e then shl v.m (v.e - l) else v.m / ((2 ^ (l - v.e).toNat : Nat) : Int)

/-- The integer nearest v, ties to even (R127). -/
def Dy.rne (v : Dy) : Int :=
  if 0 ≤ v.e then shl v.m v.e
  else
    let d : Int := ((2 ^ (-v.e).toNat : Nat) : Int)
    let q := v.m / d
    let r := v.m % d
    if 2 * r < d then q else if d < 2 * r then q + 1 else if q % 2 = 0 then q else q + 1

/-- a ≤ b. -/
def Dy.le (a b : Dy) : Bool := decide ((a.add b.neg).m ≤ 0)
def Dy.lt (a b : Dy) : Bool := decide ((a.add b.neg).m < 0)
def Dy.abs (a : Dy) : Dy := { a with m := a.m.natAbs }

/-- floor(log2 v) for v > 0. -/
def Dy.log2 (v : Dy) : Int := (v.m.natAbs.log2 : Int) + v.e

/-- A floating value. `fin neg m e` is ± m · 2^e; zero keeps its sign. -/
inductive FV where
  | nan
  | inf (neg : Bool)
  | fin (neg : Bool) (m : Nat) (e : Int)
  deriving DecidableEq, Repr

/-- A binary format: significand bits, exponent of the least subnormal, largest finite code. `ieee` formats have an infinity
one code above the largest finite one. -/
structure Fmt where
  prec : Nat
  lsb : Int
  maxCode : Nat
  bits : Nat
  ieee : Bool
  nan : Nat
  deriving DecidableEq, Repr

def binary32 : Fmt := { prec := 24, lsb := -149, maxCode := 0x7F7FFFFF, bits := 32, ieee := true, nan := 0x7FC00000 }
def bf16 : Fmt := { prec := 8, lsb := -133, maxCode := 0x7F7F, bits := 16, ieee := true, nan := 0x7FC0 }
def binary16 : Fmt := { prec := 11, lsb := -24, maxCode := 0x7BFF, bits := 16, ieee := true, nan := 0x7E00 }
def e4m3 : Fmt := { prec := 4, lsb := -9, maxCode := 0x7E, bits := 8, ieee := false, nan := 0x7F }
def e5m2 : Fmt := { prec := 3, lsb := -16, maxCode := 0x7B, bits := 8, ieee := false, nan := 0x7E }

/-- Code of the magnitude m · 2^e rounded to nearest, ties to even, before overflow is treated. -/
def roundMag (f : Fmt) (m : Nat) (e : Int) : Nat :=
  if m = 0 then 0
  else
    let n : Int := (m.log2 : Int) + 1
    let l := max (n + e - f.prec) f.lsb
    let q := (Dy.rne { m := m, e := e - l }).toNat
    ((l - f.lsb).toNat <<< (f.prec - 1)) + q

/-- The code of a value in a format. IEEE formats overflow to infinity; FP8 saturates, infinities too (R100). -/
def encode (f : Fmt) (v : FV) : Nat :=
  let sign := fun (neg : Bool) => if neg then 2 ^ (f.bits - 1) else 0
  match v with
  | .nan => f.nan
  | .inf neg => sign neg + (if f.ieee then f.maxCode + 1 else f.maxCode)
  | .fin neg m e =>
    let c := roundMag f m e
    sign neg + (if c ≤ f.maxCode then c else if f.ieee then f.maxCode + 1 else f.maxCode)

/-- The value of a code. In FP8 E4M3 only the all-ones magnitude is NaN; in E5M2 the top exponent is infinity or NaN. -/
def decode (f : Fmt) (c : Nat) : FV :=
  let neg := decide (2 ^ (f.bits - 1) ≤ c % 2 ^ f.bits)
  let a := c % 2 ^ (f.bits - 1)
  if f.maxCode < a then
    if a = f.maxCode + 1 && (f.ieee || f.prec = 3) then .inf neg else .nan
  else
    let ex := a >>> (f.prec - 1)
    let fr := a % 2 ^ (f.prec - 1)
    if ex = 0 then .fin neg fr f.lsb else .fin neg (fr + 2 ^ (f.prec - 1)) (f.lsb + (ex : Int) - 1)

def FV.isNan : FV → Bool
  | .nan => true
  | _ => false

def FV.isFinite : FV → Bool
  | .fin _ _ _ => true
  | _ => false

def FV.neg : FV → FV
  | .nan => .nan
  | .inf n => .inf !n
  | .fin n m e => .fin (!n) m e

/-- Exact value of a finite one; 0 for the others. -/
def FV.dy : FV → Dy
  | .fin n m e => { m := if n then -(m : Int) else m, e := e }
  | _ => Dy.zero

/-- Exact product. -/
def FV.mul (a b : FV) : FV :=
  match a, b with
  | .nan, _ => .nan
  | _, .nan => .nan
  | .inf n, .inf k => .inf (xor n k)
  | .inf n, .fin k m _ => if m = 0 then .nan else .inf (xor n k)
  | .fin k m _, .inf n => if m = 0 then .nan else .inf (xor n k)
  | .fin n m e, .fin k p d => .fin (xor n k) (m * p) (e + d)

/-- Exact sum under round-to-nearest's sign of zero: x + (−x) is +0, two zeros of one sign keep it. -/
def FV.add (a b : FV) : FV :=
  match a, b with
  | .nan, _ => .nan
  | _, .nan => .nan
  | .inf n, .inf k => if n = k then .inf n else .nan
  | .inf n, _ => .inf n
  | _, .inf n => .inf n
  | .fin n m e, .fin k p d =>
    if m = 0 ∧ p = 0 then .fin (n && k) 0 0
    else
      let s := (FV.dy (.fin n m e)).add (FV.dy (.fin k p d))
      .fin (decide (s.m < 0)) s.m.natAbs s.e

def FV.ofDy (v : Dy) : FV := .fin (decide (v.m < 0)) v.m.natAbs v.e

/-- a < b, for two values that are not NaN; −0 and +0 are equal here. -/
def FV.lt (a b : FV) : Bool :=
  match a, b with
  | .nan, _ => false
  | _, .nan => false
  | .inf n, .inf k => n && !k
  | .inf n, _ => n
  | _, .inf n => !n
  | x, y => x.dy.lt y.dy

def FV.signBit : FV → Bool
  | .nan => false
  | .inf n => n
  | .fin n _ _ => n

/-! binary32 words -/

def f32 (w : Word) : FV := decode binary32 w.toNat
def toF32 (v : FV) : Word := BitVec.ofNat 32 (encode binary32 v)

def f32Add (a b : Word) : Word := toF32 ((f32 a).add (f32 b))
def f32Sub (a b : Word) : Word := toF32 ((f32 a).add (f32 b).neg)
def f32Mul (a b : Word) : Word := toF32 ((f32 a).mul (f32 b))
def f32Fma (a b c : Word) : Word := toF32 (((f32 a).mul (f32 b)).add (f32 c))

/-- The greater (VMAX rule of R142): the other operand when one is NaN; +0 above −0. -/
def f32Max (a b : Word) : Word :=
  let x := f32 a
  let y := f32 b
  if x.isNan then (if y.isNan then 0x7FC00000 else b)
  else if y.isNan then a
  else if x.lt y then b
  else if y.lt x then a
  else if x.signBit then b else a

def f32Min (a b : Word) : Word :=
  let x := f32 a
  let y := f32 b
  if x.isNan then (if y.isNan then 0x7FC00000 else b)
  else if y.isNan then a
  else if x.lt y then a
  else if y.lt x then b
  else if x.signBit then a else b

/-- round_to(binary32, x / y) for finite y > 0: exact quotient, one rounding (64 guard bits and a sticky bit). -/
def f32Div (a b : Word) : Word :=
  match f32 a, f32 b with
  | .nan, _ => 0x7FC00000
  | _, .nan => 0x7FC00000
  | .inf _, .inf _ => 0x7FC00000
  | .inf n, .fin k _ _ => toF32 (.inf (xor n k))
  | .fin n _ _, .inf k => toF32 (.fin (xor n k) 0 0)
  | .fin n m e, .fin k p d =>
    if p = 0 then (if m = 0 then 0x7FC00000 else toF32 (.inf (xor n k)))
    else
      let q := (m <<< 64) / p
      let st := if (m <<< 64) % p = 0 then 0 else 1
      toF32 (.fin (xor n k) (2 * q + st) (e - d - 65))

/-- Largest finite binary32. -/
def f32Big : Word := 0x7F7FFFFF

def f32NegInf : Word := 0xFF800000
def f32NaN : Word := 0x7FC00000
def f32One : Word := 0x3F800000

/-- round_to of an exact value. -/
def roundDy (f : Fmt) (v : Dy) : Nat := encode f (FV.ofDy v)

end Sys2Proof.Machine
end

