-- ==== Sys2Proof/Machine/Operands.lean ====
section
/-! DEFINITION. Operands of the core's instructions: register files (R108), tile descriptors and their checks (R111, R112,
R130), element codes (R65, R68), block records (R71 to R79), and the exact block contribution (R81). -/

namespace Sys2Proof.Machine

/-! ### Register files (Table 04-4) -/

def Core.rA (c : Core) (i : Nat) : Long := if i = 0 then 0 else tabGet 0 c.a i

def Core.rP (c : Core) (i : Nat) : Bool := decide (i = 0) || flag c.preds i

def Core.rC (c : Core) (i : Nat) : Word := tabGet 0 c.ctrs i

def Core.rV (c : Core) (i j : Nat) : Word := tabGet 0 c.v (64 * i + j)

def Core.rT (c : Core) (i : Nat) : BitVec 128 := tabGet 0 c.t i

def Core.wA (c : Core) (i : Nat) (v : Long) : Core := if i = 0 then c else { c with a := tabSet 0 c.a i v }

def Core.wP (c : Core) (i : Nat) (b : Bool) : Core := if i = 0 then c else { c with preds := setFlag c.preds i b }

def Core.wC (c : Core) (i : Nat) (v : Word) : Core := { c with ctrs := tabSet 0 c.ctrs i v }

def Core.wV (c : Core) (i j : Nat) (v : Word) : Core := { c with v := tabSet 0 c.v (64 * i + j) v }

def Core.wT (c : Core) (i : Nat) (v : BitVec 128) : Core := { c with t := tabSet 0 c.t i v }

def Acc.zero : Acc := { val := 0, sat := false }

def Core.acc (c : Core) (i : Nat) : Acc := tabGet Acc.zero c.psm i

def Core.wAcc (c : Core) (i : Nat) (x : Acc) : Core := { c with psm := tabSet Acc.zero c.psm i x }

/-- Empty attention row: m = −∞ and l = +0 (R150). -/
def AttnRow.empty : AttnRow := { m := f32NegInf, l := 0 }

def Core.attnRow (c : Core) (q : Nat) : AttnRow := tabGet AttnRow.empty c.attn q

/-- 64 lanes of a V register. -/
def Core.lanes (c : Core) (i : Nat) : List Word := (List.range 64).map fun j => c.rV i j

/-- CSW in the layout of RGNW_CORE_CSWk (Table 04-12). -/
def Core.csw (c : Core) : Word := BitVec.ofNat 32 ((if c.sat then 2 ^ 31 else 0) + c.ovl.toNat)

/-! ### Address spaces (Table 06-4) -/

/-- Size of a space: 0 AM, 1 WSB, 2 PSM in bytes, 3 IM. -/
def spaceSize (sp : Nat) : Nat :=
  match sp with
  | 0 => 1048576
  | 1 => 524288
  | 2 => 262144
  | _ => 131072

/-- The eight bytes of an accumulator: its integer, little-endian; a saturated one reads its end of the range. -/
def accBytes (x : Acc) : Bytes := leBytes 8 (twos 64 x.val)

/-- n bytes of a space from address a on. PSM addresses are accumulator bytes. -/
def Core.readSpace (c : Core) (sp a n : Nat) : Bytes :=
  match sp with
  | 0 => memRead c.am a n
  | 1 => memRead c.wsb a n
  | 2 => ((List.range (n / 8)).map fun i => accBytes (c.acc (a / 8 + i))).flatten
  | _ => memRead c.im a n

/-- Plain writes of accumulators from bytes, which clear their saturated state (R177). -/
def Core.writeAccs (c : Core) (i : Nat) : List Bytes → Core
  | [] => c
  | b :: t => (c.wAcc i { val := signed 64 (leNat b), sat := false }).writeAccs (i + 1) t

/-- Write bytes to AM, WSB or IM, or accumulators to PSM. -/
def Core.writeSpace (c : Core) (sp a : Nat) (d : Bytes) : Core :=
  match sp with
  | 0 => { c with am := memWrite c.am a d }
  | 1 => { c with wsb := memWrite c.wsb a d }
  | 2 => c.writeAccs (a / 8) (pieces 8 d)
  | _ => { c with im := memWrite c.im a d }

/-- The address check of R156, for one space: INFO of the failure. -/
def addrBad (a n align size : Nat) : Bool := decide (a % align ≠ 0) || decide (size < a + n)

/-! ### Tile descriptors (Table 04-6) -/

def dSpad (d : BitVec 128) : Nat := field d 127 125
def dBase (d : BitVec 128) : Nat := field d 124 99
def dStride (d : BitVec 128) : Nat := field d 98 73
def dCols (d : BitVec 128) : Nat := field d 72 57
def dRows (d : BitVec 128) : Nat := field d 56 45
def dFmt (d : BitVec 128) : Nat := field d 44 41
def dLayout (d : BitVec 128) : Nat := field d 40 39
def dBsz (d : BitVec 128) : Nat := field d 38 37
def dFine (d : BitVec 128) : Bool := flag d 36
def dScale (d : BitVec 128) : Nat := field d 35 28
def dAnchor (d : BitVec 128) : Int := signed 10 (field d 27 18)

/-- Block size B. -/
def dB (d : BitVec 128) : Nat := 16 * 2 ^ dBsz d

/-- Width in bits of an element of a format (Table 03-2). -/
def fmtWidth (f : Nat) : Nat :=
  if f < 8 then f + 1
  else match f with
    | 8 => 4
    | 9 => 6
    | 10 => 8
    | 11 => 8
    | 12 => 16
    | 13 => 16
    | _ => 32

/-- BF16, binary16 and binary32 tiles are read as unblocked (R74). -/
def dLay (d : BitVec 128) : Nat := if 12 ≤ dFmt d then 0 else dLayout d

/-- Cells per weight (Table 02-2). -/
def cells (f : Nat) : Nat := if f ≤ 1 then 1 else if f ≤ 3 ∨ f = 8 then 2 else 4

/-- Reduction length per cycle of a weight format. -/
def kappa (f : Nat) : Nat := 128 / cells f

/-- Bytes from a row's start to its end (R112); accumulators in PSM. -/
def dRowLen (d : BitVec 128) : Nat :=
  if dSpad d = 3 then dCols d + 1
  else match dLay d with
    | 0 => (dCols d + 1) * fmtWidth (dFmt d) / 8
    | 1 => (dCols d + 1) / dB d * (1 + (if dFine d then 2 else 0) + dB d * fmtWidth (dFmt d) / 8)
    | _ => dStride d

/-- Size and alignment of BASE and STRIDE by SPAD code (Table 04-5), in its unit. -/
def spadSize (sp : Nat) : Nat :=
  match sp with
  | 1 => 1048576
  | 2 => 524288
  | 3 => 32768
  | _ => 67108864

def spadAlign (sp : Nat) : Nat := if sp = 4 then 1024 else 64

/-- The footprint test of R112, BASE shifted by `shift`. -/
def dBoundBad (d : BitVec 128) (shift : Nat) : Bool :=
  decide (dBase d % spadAlign (dSpad d) ≠ 0) || decide (dStride d % spadAlign (dSpad d) ≠ 0)
    || decide (spadSize (dSpad d) < dBase d + shift + dRows d * dStride d + dRowLen d)

/-- One operand of an instruction as Table 05-3 places it, with what of the table's conditions it breaks. `t` is its T
register; `psm` an accumulator tile, whose FMT, LAYOUT and SCALE are ignored; `place` its formats and layouts hold;
`shape` and `pair` its shape rules hold; `bound` its row and element bounds hold. -/
structure Operand where
  t : Nat
  d : BitVec 128
  spads : List Nat
  psm : Bool
  place : Bool
  shape : Bool
  whole : Bool
  pair : Bool
  shift : Nat
  bound : Bool
  deriving DecidableEq, Repr

/-- The first refused INFO field of a descriptor, 0 when none (R112, R130). -/
def Operand.refused (o : Operand) : Nat :=
  if !o.spads.contains (dSpad o.d) then 1
  else if !o.psm && decide (dFmt o.d = 15) then 2
  else if !o.psm && decide (dLayout o.d = 3) then 3
  else if decide (dBsz o.d = 3) then 4
  else if !o.place || !o.shape || (o.psm && decide (63 < dCols o.d))
      || (!o.psm && decide (dLay o.d = 0) && decide ((dCols o.d + 1) * fmtWidth (dFmt o.d) % 8 ≠ 0)) then 5
  else if (o.whole && decide ((dCols o.d + 1) % dB o.d ≠ 0)) || !o.pair then 6
  else 0

def Operand.boundBad (o : Operand) : Bool := dBoundBad o.d o.shift || !o.bound

/-- A detection: its code in Table 04-10 and its INFO. -/
structure Det where
  code : Nat
  info : Nat
  deriving DecidableEq, Repr

/-- The operand with the least refused field, the earlier one on a tie. -/
def leastRefused : List Operand → Option (Nat × Nat)
  | [] => none
  | o :: r =>
    let rest := leastRefused r
    if o.refused = 0 then rest
    else match rest with
      | some (f, t) => if f < o.refused then some (f, t) else some (o.refused, o.t)
      | none => some (o.refused, o.t)

/-- The checks of an instruction over its descriptors, in the order of R112: refusals by field and then by operand, bounds by
operand; operands are listed from the most significant field on. -/
def checkOperands (os : List Operand) : Option Det :=
  match leastRefused os with
  | some (f, t) => some { code := 2, info := 16 * f + t }
  | none =>
    match os.find? Operand.boundBad with
    | some o => some { code := 1, info := o.t }
    | none => none

/-! ### Element codes (R65, R66, R68) -/

/-- The exact value of a format's finite code as an integer form (m, s), and `none` when the code is not finite. -/
def intForm (f code : Nat) : Option (Int × Nat) :=
  let sgn := fun (neg : Bool) (m : Nat) => if neg then -(m : Int) else (m : Int)
  if f = 0 then some (if code % 2 = 0 then 1 else -1, 0)
  else if f < 8 then some (signed (f + 1) code, 0)
  else
    let (eb, mb) : Nat × Nat := match f with
      | 8 => (2, 1)
      | 9 => (3, 2)
      | 10 => (4, 3)
      | 11 => (5, 2)
      | 12 => (8, 7)
      | _ => (5, 10)
    let m := code % 2 ^ mb
    let e := code / 2 ^ mb % 2 ^ eb
    let neg := decide (code / 2 ^ (eb + mb) % 2 = 1)
    let bad := (decide (f = 10) && decide (e = 15) && decide (m = 7))
      || (decide (11 ≤ f) && decide (e = 2 ^ eb - 1))
    if bad then none
    else some (sgn neg (if e = 0 then m else 2 ^ mb + m), e - 1)

/-- Format offset o of Table 03-3. -/
def fmtOffset (f : Nat) : Int :=
  match f with
  | 8 => -1
  | 9 => -4
  | 10 => -9
  | 11 => -16
  | 12 => -133
  | 13 => -24
  | _ => 0

/-- A fine scale's integer form, sign ignored; 0x7F decodes as 480 (R73). -/
def fineForm (code : Nat) : Int × Nat :=
  let e := code % 128 / 8
  let m := code % 8
  (((if e = 0 then m else 8 + m : Nat) : Int), e - 1)

/-- A decoded block record. -/
structure Blk where
  zero : Bool
  e : Int
  o : Int
  els : List (Option (Int × Nat))
  fine : List (Int × Nat)
  outl : List (Nat × Nat)
  deriving DecidableEq, Repr

def noFine : List (Int × Nat) := [(8, 6), (8, 6)]

def Blk.blank (n : Nat) : Blk :=
  { zero := true, e := 0, o := 0, els := List.replicate n none, fine := noFine, outl := [] }

/-- n codes of w bits from bit position b of a byte string (R76). -/
def codesAt (bs : Bytes) (b w n : Nat) : List Nat :=
  let x := leNat (slice bs (b / 8) ((b % 8 + n * w + 7) / 8)) >>> (b % 8)
  (List.range n).map fun i => (x >>> (w * i)) % 2 ^ w

def mkBlk (f : Nat) (scale : Int) (zero : Bool) (codes : List Nat) (fine : List (Int × Nat)) (outl : List (Nat × Nat)) : Blk :=
  { zero := zero, e := scale, o := fmtOffset f, els := codes.map (intForm f), fine := fine, outl := outl }

/-- Length of a per-block record from its header (R76). -/
def recLen (hdr b : Nat) : Nat :=
  let f := hdr / 16 % 16
  if 12 ≤ f then 2 else 2 + 2 * (hdr / 8 % 2) + b * fmtWidth f / 8 + 3 * min (hdr % 4) 2

/-- A per-block record at offset p (R75, R76, R77). -/
def perBlockRec (bs : Bytes) (p b : Nat) : Blk :=
  let hdr := leAt bs p 2
  let f := hdr / 16 % 16
  let sc := hdr / 256
  if 12 ≤ f then Blk.blank b
  else
    let fine := hdr / 8 % 2
    let q := p + 2 + 2 * fine
    let r := q + b * fmtWidth f / 8
    mkBlk f ((sc : Int) - 126) (decide (sc = 255)) (codesAt bs (8 * q) (fmtWidth f) b)
      (if fine = 1 then [fineForm (byteAt bs (p + 2)), fineForm (byteAt bs (p + 3))] else noFine)
      ((List.range (min (hdr % 4) 2)).map fun i => (byteAt bs (r + 3 * i) % 64, leAt bs (r + 3 * i + 1) 2))

/-- Walk the records of a per-block row: the blocks decoded, and whether a record ran past the row (R112). -/
def perBlockWalk (bs : Bytes) (b : Nat) : Nat → Nat → List Blk × Bool
  | 0, _ => ([], false)
  | n + 1, p =>
    if bs.length < p + 2 then ([], true)
    else
      let l := recLen (leAt bs p 2) b
      if bs.length < p + l then ([], true)
      else
        let (r, bad) := perBlockWalk bs b n (p + l)
        (perBlockRec bs p b :: r, bad)

/-- n elements from block boundary e0 of a row whose bytes are `bs`; `lim` bytes hold a per-block row. Blocks past an overrun
contribute nothing. -/
def rowBlocks (d : BitVec 128) (bs : Bytes) (lim e0 n : Nat) : List Blk × Bool :=
  let b := dB d
  let f := dFmt d
  let w := fmtWidth f
  let first := e0 / b
  let nb := ceilDiv n b
  match dLay d with
  | 0 =>
    let zero := decide (f < 12) && decide (dScale d = 255)
    let e : Int := if 12 ≤ f then 0 else (dScale d : Int) - 126
    ((List.range nb).map fun k => mkBlk f e zero (codesAt bs ((e0 + k * b) * w) w b) noFine [], false)
  | 1 =>
    let fine := if dFine d then 2 else 0
    let len := 1 + fine + b * w / 8
    ((List.range nb).map fun k =>
      let p := (first + k) * len
      let sc := byteAt bs p
      mkBlk f ((sc : Int) - 126) (decide (sc = 255)) (codesAt bs (8 * (p + 1 + fine)) w b)
        (if dFine d then [fineForm (byteAt bs (p + 1)), fineForm (byteAt bs (p + 2))] else noFine) [], false)
  | _ =>
    let (l, bad) := perBlockWalk (slice bs 0 lim) b (first + nb) 0
    let got := l.drop first
    (got ++ List.replicate (nb - got.length) (Blk.blank b), bad)

/-- The bytes of row y of a tile in AM or WSB that its elements 0 to last may occupy. -/
def Core.tileRow (c : Core) (d : BitVec 128) (y : Nat) : Bytes :=
  let a := dBase d + y * dStride d
  let n := if dLay d = 2 then dStride d else dRowLen d
  if dSpad d = 1 then memRead c.am a n else memRead c.wsb a n

/-- Blocks of row y of a tile from element e0 on. -/
def Core.rowBlocks (c : Core) (d : BitVec 128) (y e0 n : Nat) : List Blk × Bool :=
  Sys2Proof.Machine.rowBlocks d (c.tileRow d y) (dStride d) e0 n

/-- Raw codes of n elements of an unblocked row. -/
def Core.rowCodes (c : Core) (d : BitVec 128) (y e0 n : Nat) : List Nat :=
  codesAt (c.tileRow d y) (e0 * fmtWidth (dFmt d)) (fmtWidth (dFmt d)) n

/-- A mask tile's bits i of row y (R130). -/
def Core.maskBit (c : Core) (msk : Bool) (d : BitVec 128) (y i : Nat) : Bool :=
  msk && decide (memGet c.am (dBase d + y * dStride d + i / 8) >>> (i % 8) &&& 1 = 1)

/-! ### Contributions (R77 to R81, R47) -/

/-- Exact value of element i of a block, with its block scale but no fine scale; `none` when its code is not finite. -/
def Blk.value (b : Blk) (i : Nat) : Option Dy :=
  match (b.els[i]?).getD none with
  | some (m, s) => some { m := m, e := (s : Int) + b.e + b.o }
  | none => none

/-- Exact value with the element's fine scale (R136). -/
def Blk.fineValue (b : Blk) (i : Nat) : Option Dy :=
  let (fm, fs) := (b.fine[i / (b.els.length / 2)]?).getD (8, 6)
  (b.value i).map fun v => { m := v.m * fm, e := v.e + (fs : Int) - 9 }

/-- The contribution of a block pair to one lane, and whether it set the saturation flag (R81). `skip i` marks an outlier
channel. -/
def blockContrib (w x : Blk) (skip : Nat → Bool) : Dy × Bool :=
  if w.zero || x.zero then (Dy.zero, false)
  else
    let half := w.els.length / 2
    let step := fun (acc : Int × Bool) (i : Nat) =>
      if skip i || w.outl.any (fun o => decide (o.1 = i)) then acc
      else
        match (w.els[i]?).getD none, (x.els[i]?).getD none with
        | some (wm, ws), some (xm, xs) =>
          let (fm, fs) := (w.fine[i / half]?).getD (8, 6)
          (acc.1 + wm * xm * fm * ((2 ^ (ws + xs + fs) : Nat) : Int), acc.2)
        | _, _ => (acc.1, true)
    let (a, bad) := (List.range w.els.length).foldl step (0, false)
    ({ m := a, e := w.e + w.o + x.e + x.o - 9 }, bad)

/-- The exact value of a BF16 code, `none` when it is not finite. -/
def bf16Value (code : Nat) : Option Dy := (intForm 12 code).map fun p => { m := p.1, e := (p.2 : Int) - 133 }

/-- The outlier records of a block pair on the side path (R79). -/
def outlierContribs (w x : Blk) : List Dy × Bool :=
  if w.zero || x.zero then ([], false)
  else
    w.outl.foldl (fun acc o =>
      match bf16Value o.2, x.value o.1 with
      | some a, some b => (acc.1 ++ [a.mul b], acc.2)
      | _, _ => (acc.1, true)) ([], false)

/-! ### Slot instructions -/

/-- An executed slot of a bundle: 0 CTL, 1 MOV, 2 DOT, 3 VEC, 4 NET, its opcode, and its operand bits zero-extended. -/
structure SlotIns where
  slot : Nat
  op : Nat
  o : BitVec 46
  deriving DecidableEq, Repr

/-- The index word's fields (Table 05-2). -/
def ixC0 (x : Long) : Nat := field x 55 48
def ixP0 (x : Long) : Nat := field x 40 32
def ixV0 (x : Long) : Nat := field x 24 16
def ixJ0 (x : Long) : Nat := field x 15 0

end Sys2Proof.Machine
end

