-- ==== Sys2Proof/Machine/Flags.lean ====
section
/-! DEFINITION. Every flag the core's operations compute: saturation of an accumulator and the saturation flag (R48, R66, R85 to
R87, R138), the overlap count (R120), and counters that would leave their range (R115, R116). -/

namespace Sys2Proof.Machine

def accTop : Int := 9223372036854775807
def accBot : Int := -9223372036854775808

def accIn (v : Int) : Bool := decide (accBot ≤ v) && decide (v ≤ accTop)

/-- A saturated accumulator, at the end of the range in the stated direction. -/
def accSat (positive : Bool) : Acc := { val := if positive then accTop else accBot, sat := true }

/-- All contributions of one cycle to one accumulator (R47, R48). A contribution is a value and whether it carries a saturation
mark, which overflows on its own (R85). The Bool answered sets the saturation flag. -/
def accumulate (a : Acc) (adds : List (Int × Bool)) : Acc × Bool :=
  let marked := adds.any (·.2)
  if a.sat then (a, marked)
  else
    let v := adds.foldl (fun x y => x + y.1) a.val
    let lone := adds.filter fun y => y.2 || !accIn y.1
    if lone.isEmpty && accIn v then ({ val := v, sat := false }, false)
    else
      let alone : Int := lone.foldl (fun x y => x + y.1) 0
      (accSat (decide (0 < v) || (decide (v = 0) && decide (0 ≤ alone))), true)

/-- DRSC of one accumulator (R138). -/
def accRescale (alpha : Word) (a : Acc) : Acc × Bool :=
  if a.sat then (a, false)
  else if !(f32 alpha).isFinite then (a, true)
  else
    let v := (({ m := a.val, e := 0 } : Dy).mul (f32 alpha).dy).rne
    if accIn v then ({ val := v, sat := false }, false) else (accSat (decide (0 < v)), true)

/-- The exact value of a contribution as an integer at anchor L (R47): floor(v · 2^−L). -/
def atAnchor (l : Int) (v : Dy) : Int := v.floorAt l

/-- A value leaving an accumulator, to binary32 or, held as binary32, to BF16 (R49, R100, R147). -/
def accLeaves (toBf16 : Bool) (l : Int) (a : Acc) : Word :=
  if a.sat then
    if toBf16 then (if a.val < 0 then 0xFF7F0000 else 0x7F7F0000) else (if a.val < 0 then 0xFF7FFFFF else f32Big)
  else if toBf16 then BitVec.ofNat 32 (roundDy bf16 { m := a.val, e := l } * 65536)
  else BitVec.ofNat 32 (roundDy binary32 { m := a.val, e := l })

/-- CSW.OVL + 1, wrapping (R120). -/
def Core.overlap (c : Core) : Core := { c with ovl := c.ovl + 1 }

/-- A counter after the changes of one cycle (R115, R116): set, then the sum of additions and subtractions; the slot to report
when the sum passes 0xFFFF_FFFF, 0 when the CTL addition alone does, else 4. -/
def ctrResult (old : Word) (set : Option Word) (ctlAdd arrivals sub : Nat) : Word × Option Nat :=
  let b := match set with
    | some v => v.toNat
    | none => old.toNat
  let v := b + ctlAdd + arrivals - sub
  if v < 2 ^ 32 then (BitVec.ofNat 32 v, none)
  else (0xFFFFFFFF, some (if 2 ^ 32 ≤ b + ctlAdd - sub then 0 else 4))

end Sys2Proof.Machine
end

