-- ==== Sys2Proof/Machine/Landing.lean ====
section
/-! DEFINITION. What becomes visible in a cycle of a core: the effects in flight that are due, in the orders of R61, R87, R109,
R115 and R153. -/

namespace Sys2Proof.Machine

/-- Put an effect in flight, readable from cycle `due`. -/
def Core.push (c : Core) (due slot : Nat) (e : Eff) : Core :=
  { c with flight := c.flight ++ [{ due := due, slot := slot, eff := e }] }

def Core.pushAll (c : Core) (due slot : Nat) (es : List Eff) : Core :=
  { c with flight := c.flight ++ es.map fun e => { due := due, slot := slot, eff := e } }

def Core.putLanes (c : Core) (vd : Nat) : Tab Word → Core
  | [] => c
  | (j, w) :: t => (c.wV vd j w).putLanes vd t

def Core.putAccs (c : Core) (i : Nat) : List Acc → Core
  | [] => c
  | x :: t => (c.wAcc i x).putAccs (i + 1) t

/-- Remove the oldest entry of spool sp (R197). -/
def dropSpool (sp : Nat) : List SpoolReq → List SpoolReq
  | [] => []
  | q :: t => if q.sp = sp && !q.refused then t else q :: dropSpool sp t

/-- Registers, plain writes and the fetch view. -/
def Core.landPlain (c : Core) (e : Eff) : Core :=
  match e with
  | .regA i v => c.wA i v
  | .regP i b => c.wP i b
  | .lanes vd vals => c.putLanes vd vals
  | .desc i v => c.wT i v
  | .descBase i b => c.wT i (setField (c.rT i) 124 99 b.toNat)
  | .bytes sp a d =>
    let c := c.writeSpace sp a d
    if sp = 3 then c.push (c.now + 4) 0 (.imSeen a d) else c
  | .imSeen a d => { c with imSeen := memWrite c.imSeen a d }
  | .fill a d => { c with fillBuf := memWrite c.fillBuf a d }
  | .accWrite i vals => c.putAccs i vals
  | .slice a d => { c with slice := memWrite c.slice a d }
  | .spoolFree sp => { c with spools := dropSpool sp c.spools }
  | _ => c

def Core.rescaleRow (c : Core) (i : Nat) (alpha : Word) : Nat → Core × Bool
  | 0 => (c, false)
  | n + 1 =>
    let (x, f) := accRescale alpha (c.acc i)
    let (c, g) := (c.wAcc i x).rescaleRow (i + 1) alpha n
    (c, f || g)

/-- The contributions of an effect: (accumulator, value, carries a saturation mark). -/
def contribsOf (e : Eff) : List (Nat × Int × Bool) :=
  match e with
  | .accAdd i vals => (List.range vals.length).zip vals |>.map fun p => (i + p.1, p.2, false)
  | .accMark i pos => [(i, (accSat pos).val, true)]
  | _ => []

/-- Gather the contributions of one cycle by accumulator. -/
def gather (t : Tab (List (Int × Bool))) (x : Nat × Int × Bool) : Tab (List (Int × Bool)) :=
  tabPut t x.1 (some (((tabFind t x.1).getD []) ++ [x.2]))

def Core.accumulateAll (c : Core) : Tab (List (Int × Bool)) → Core × Bool
  | [] => (c, false)
  | (i, l) :: t =>
    let (x, f) := accumulate (c.acc i) l
    let (c, g) := (c.wAcc i x).accumulateAll t
    (c, f || g)

def sumWords (l : List Word) : Nat := (l.map fun w => w.toNat).foldl (· + ·) 0

/-- The changes of counter n that land in this cycle. -/
def Core.landCtr (c : Core) (es : List Eff) (n : Nat) : Core × Option (Nat × Nat) :=
  let sets := es.filterMap fun e => match e with
    | .ctrSet i v => if i = n then some v else none
    | _ => none
  let adds := fun (arr : Bool) => sumWords (es.filterMap fun e => match e with
    | .ctrAdd i v a => if i = n && a == arr then some v else none
    | _ => none)
  let subs := sumWords (es.filterMap fun e => match e with
    | .ctrSub i v => if i = n then some v else none
    | _ => none)
  let (v, bad) := ctrResult (c.rC n) sets.getLast? (adds false) (adds true) subs
  (c.wC n v, bad.map fun slot => (slot, n))

/-- The counters named by the effects of a cycle, each once. -/
def ctrsOf (es : List Eff) : List Nat :=
  (List.range 16).filter fun n => es.any fun e => match e with
    | .ctrSet i _ => decide (i = n)
    | .ctrAdd i _ _ => decide (i = n)
    | .ctrSub i _ => decide (i = n)
    | _ => false

def Core.landCtrs (c : Core) (es : List Eff) : List Nat → Core × List (Nat × Nat)
  | [] => (c, [])
  | n :: t =>
    let (c, b) := c.landCtr es n
    let (c, r) := c.landCtrs es t
    (c, b.toList ++ r)

/-- The effects due by now that are not later work, in slot order; what is left stays in flight. -/
def Core.due (c : Core) : List Eff :=
  (List.range 5).flatMap fun s => (c.flight.filter fun f =>
    decide (f.due ≤ c.now) && decide (f.slot = s) && (match f.eff with
      | .micro _ => false
      | _ => true)).map (·.eff)

def Core.keep (c : Core) : Core :=
  { c with flight := c.flight.filter fun f => decide (c.now < f.due) || (match f.eff with
      | .micro _ => true
      | _ => false) }

/-- Land the effects of this cycle; counters that overflowed are answered as (slot to report, counter). -/
def Core.land (c : Core) : Core × List (Nat × Nat) :=
  let es := c.due
  let c := es.foldl Core.landPlain c.keep
  let (c, f1) := es.foldl (fun (p : Core × Bool) e => match e with
    | .accScale i n alpha =>
      let (c, f) := p.1.rescaleRow i alpha n
      (c, p.2 || f)
    | _ => p) (c, false)
  let (c, f2) := c.accumulateAll ((es.flatMap contribsOf).foldl gather [])
  let (c, bad) := c.landCtrs es (ctrsOf es)
  let clear := es.any fun e => decide (e = .satClear)
  let set := f1 || f2 || es.any fun e => decide (e = .satSet)
  let c := { c with sat := set || (c.sat && !clear) }
  let c := es.foldl (fun c e => match e with
    | .attnSet q row => { c with attn := tabSet AttnRow.empty c.attn q row }
    | _ => c) c
  let c := es.foldl (fun c e => match e with
    | .attnEmpty q => { c with attn := tabDrop c.attn q }
    | _ => c) c
  (c, bad)

/-- Record a detection, the first of the job only (R124). -/
def Core.record (c : Core) (slot code pc info : Nat) : Core :=
  if flag c.det 31 then c
  else { c with det := BitVec.ofNat 32 (2 ^ 31 + slot % 8 * 2 ^ 28 + code * 2 ^ 24 + pc % 4096 * 2 ^ 12 + info % 4096) }

end Sys2Proof.Machine
end

