-- ==== Sys2Proof/Machine/Dot.lean ====
section
/-! DEFINITION. The DOT slot (R128 to R140): checks at issue, the start of each instruction, and the cycle of each pair or row. -/

namespace Sys2Proof.Machine

/-! ### Operand places of Table 05-3 -/

/-- A PSM operand, its BASE shifted by p0 rows. -/
def opTp (c : Core) (t p0 : Nat) (bound : Bool) : Operand :=
  { t := t, d := c.rT t, spads := [3], psm := true, place := true, shape := true, whole := false, pair := true,
    shift := 64 * p0, bound := bound }

/-- A mask tile: BSI-1, unblocked, in AM. -/
def opTm (c : Core) (t : Nat) (bound : Bool) : Operand :=
  let d := c.rT t
  { t := t, d := d, spads := [1], psm := false, place := decide (dFmt d = 0) && decide (dLay d = 0), shape := true,
    whole := false, pair := true, shift := 0, bound := bound }

/-- A BF16 operand of the side paths. -/
def opBf (c : Core) (t : Nat) (spads : List Nat) (shape pair bound : Bool) : Operand :=
  let d := c.rT t
  { t := t, d := d, spads := spads, psm := false, place := decide (dFmt d = 12), shape := shape, whole := false, pair := pair,
    shift := 0, bound := bound }

/-- Formats of an activation operand: codes 0 to 7, 10, 11, 12. -/
def actFmt (f : Nat) : Bool := decide (f ≤ 7) || (decide (10 ≤ f) && decide (f ≤ 12))

/-! ### Landing of rows -/

/-- PSM index of lane 0 of row v (R129). -/
def psmRow (tp : BitVec 128) (p0 v : Nat) : Nat := dBase tp + 64 * p0 + v * dStride tp

/-- land(): contributions of one pair to a run of lanes from index i, after a plain write of zero when first (R135). -/
def landEffs (i n : Nat) (l : Int) (first : Bool) (groups : List (List Dy)) (singles : List (Nat × Dy)) (flag : Bool) : List Eff :=
  (if first then [.accWrite i (List.replicate n Acc.zero)] else [])
    ++ groups.map (fun g => .accAdd i (g.map (atAnchor l)))
    ++ singles.map (fun x => .accAdd (i + x.1) [atAnchor l x.2])
    ++ (if flag then [.satSet] else [])

/-- A late detection: slot, code, INFO. -/
abbrev Late := List (Nat × Nat × Nat)

def lateBound (bad : Bool) (t : Nat) : Late := if bad then [(2, 1, t)] else []

/-! ### DMM (R132 to R135) -/

def dmmJob (c : Core) (o : BitVec 46) : DotJob :=
  { tp := c.rT (field o 45 42), tw := c.rT (field o 41 38), tx := c.rT (field o 37 34), tm := c.rT (field o 9 6),
    idx := c.rA (field o 33 29), nb := field o 28 23 + 1, kt := field o 22 13 + 1, acc := flag o 12, fbs := field o 11 10,
    msk := flag o 5, nw := field o 41 38, nx := field o 37 34 }

def checkDmm (c : Core) (o : BitVec 46) : Option Det :=
  let j := dmmJob c o
  let k := kappa (dFmt j.tw)
  let last := (ixJ0 j.idx + j.kt) * k - 1
  let tw : Operand :=
    { t := j.nw, d := j.tw, spads := [2, 4], psm := false, place := decide (dFmt j.tw ≤ 11),
      shape := decide (dRows j.tw ≤ 63) && (decide (dSpad j.tw ≠ 4) || decide (dRows j.tw = 63)), whole := true,
      pair := decide (k % dB j.tw = 0), shift := 0, bound := decide (last ≤ dCols j.tw) }
  let tx : Operand :=
    { t := j.nx, d := j.tx, spads := [1], psm := false, place := actFmt (dFmt j.tx), shape := true, whole := true,
      pair := decide (dBsz j.tx = dBsz j.tw), shift := 0,
      bound := decide (last ≤ dCols j.tx) && decide (ixV0 j.idx + j.nb - 1 ≤ dRows j.tx) }
  checkOperands ([opTp c (field o 45 42) (ixP0 j.idx) (decide (j.nb - 1 ≤ dRows j.tp)), tw, tx]
    ++ (if j.msk then [opTm c (field o 9 6) (decide (last ≤ dCols j.tm))] else []))

/-- Cycles an activation vector takes (R42, R70). -/
def vecCycles (tx : BitVec 128) : Nat := if dFmt tx = 12 then 2 else 1

def startDmm (c : Core) (o : BitVec 46) : Core :=
  let j := dmmJob c o
  { (c.push c.now 2 (.micro (.dmmPair j 0 0 0 []))) with busyDot := c.now + j.nb * j.kt * vecCycles j.tx }

/-- The weight tile of chunk j0 + j, by row: blocks, and whether a row overran. -/
def weightTile (c : Core) (job : DotJob) (j : Nat) (tile : Bytes) : List (List Blk × Bool) :=
  let k := kappa (dFmt job.tw)
  (List.range (dRows job.tw + 1)).map fun r =>
    if dSpad job.tw = 4 then rowBlocks job.tw (slice tile (32 * r) 32) 32 0 k
    else c.rowBlocks job.tw r ((ixJ0 job.idx + j) * k) k

/-- Outlier records in a weight tile. -/
def outlierCount (w : List (List Blk × Bool)) : Nat :=
  (w.map fun r => (r.1.map fun b => b.outl.length).foldl (· + ·) 0).foldl (· + ·) 0

/-- Pair (j, v) of a DMM: samples the weights and row v0 + v of TX, lands its contributions, and starts the next pair. -/
def runDmmPair (c : Core) (job : DotJob) (j v o : Nat) (tile : Bytes) : Core × Late :=
  let t := c.now
  let k := kappa (dFmt job.tw)
  let slot := (job.fbs + j) % 4
  let tile := if dSpad job.tw = 4 && decide (v = 0) then memRead c.fillBuf (2048 * slot) 2048 else tile
  let w := weightTile c job j tile
  let o := if v = 0 then outlierCount w else o
  let sh := ceilDiv o 16
  let vc := vecCycles job.tx
  let e0 := (ixJ0 job.idx + j) * k
  let (x, xbad) := c.rowBlocks job.tx (ixV0 job.idx + v) e0 k
  let nl := dCols job.tp + 1
  let b := dB job.tw
  let lanes := (w.take nl).map (·.1)
  let per := lanes.map fun wl => (List.range x.length).map fun bi =>
    blockContrib ((wl[bi]?).getD (Blk.blank b)) ((x[bi]?).getD (Blk.blank b)) fun i => c.maskBit job.msk job.tm 0 (e0 + bi * b + i)
  let groups := (List.range x.length).map fun bi =>
    (List.range nl).map fun lane => (((per[lane]?).getD [])[bi]?.getD (Dy.zero, false)).1
  let outl := lanes.map fun wl => (List.range x.length).map fun bi =>
    outlierContribs ((wl[bi]?).getD (Blk.blank b)) ((x[bi]?).getD (Blk.blank b))
  let singles := (List.range outl.length).flatMap fun lane =>
    ((outl[lane]?).getD []).flatMap fun r => r.1.map fun d => (lane, d)
  let bad := per.any (fun l => l.any (·.2)) || outl.any (fun l => l.any (·.2))
  let i := psmRow job.tp (ixP0 job.idx) v
  let effs := landEffs i nl (dAnchor job.tp) (decide (j = 0) && !job.acc) groups singles bad
  let c := c.pushAll (t + 14 + sh) 2 effs
  let next := t + vc + sh
  let more := (job.kt - j - 1) * job.nb * vc + (job.nb - v - 1) * (vc + sh)
  let c := { c with busyDot := next + more }
  let c :=
    if v + 1 < job.nb then c.push next 2 (.micro (.dmmPair job j (v + 1) o tile))
    else if j + 1 < job.kt then c.push next 2 (.micro (.dmmPair job (j + 1) 0 0 []))
    else c
  (c, lateBound (w.any (·.2)) job.nw ++ lateBound xbad job.nx)

/-! ### DMMT (R136) -/

def checkDmmt (c : Core) (o : BitVec 46) : Option Det :=
  let j := dmmJob c o
  let last := (ixJ0 j.idx + j.kt) * kappa (dFmt j.tw) - 1
  let tw : Operand :=
    { t := j.nw, d := j.tw, spads := [2], psm := false, place := decide (dFmt j.tw ≤ 11) && decide (dLay j.tw ≤ 1), shape := true,
      whole := true, pair := decide (64 * (ixC0 j.idx + 1) ≤ dCols j.tw + 1), shift := 0, bound := decide (last ≤ dRows j.tw) }
  let tx : Operand :=
    { t := j.nx, d := j.tx, spads := [1], psm := false, place := actFmt (dFmt j.tx) && decide (dLay j.tx = 0), shape := true,
      whole := true, pair := decide (dBsz j.tx = dBsz j.tw), shift := 0,
      bound := decide (last ≤ dCols j.tx) && decide (ixV0 j.idx + j.nb - 1 ≤ dRows j.tx) }
  checkOperands [opTp c (field o 45 42) (ixP0 j.idx) (decide (j.nb - 1 ≤ dRows j.tp)), tw, tx]

def startDmmt (c : Core) (o : BitVec 46) : Core :=
  let j := dmmJob c o
  { (c.push c.now 2 (.micro (.dmmtPair j 0 0))) with busyDot := c.now + j.nb * j.kt * vecCycles j.tx }

def runDmmtPair (c : Core) (job : DotJob) (j v : Nat) : Core × Late :=
  let t := c.now
  let k := kappa (dFmt job.tw)
  let e0 := (ixJ0 job.idx + j) * k
  let b := dB job.tw
  let (x, _) := c.rowBlocks job.tx (ixV0 job.idx + v) e0 k
  let nl := dCols job.tp + 1
  let xv := fun (i : Nat) =>
    let xb := (x[i / b]?).getD (Blk.blank b)
    (xb.zero, xb.value (i % b))
  let rows := (List.range k).map fun i => (c.rowBlocks job.tw (e0 + i) (64 * ixC0 job.idx) 64).1
  let lane := fun (l : Nat) =>
    (List.range k).foldl (fun (acc : Dy × Bool) i =>
      let wb := (((rows[i]?).getD [])[l / b]?).getD (Blk.blank b)
      let (xz, xval) := xv i
      if wb.zero || xz then acc
      else match wb.fineValue (l % b), xval with
        | some a, some y => (acc.1.add (a.mul y), acc.2)
        | _, _ => (acc.1, true)) (Dy.zero, false)
  let sums := (List.range nl).map lane
  let effs := landEffs (psmRow job.tp (ixP0 job.idx) v) nl (dAnchor job.tp) (decide (j = 0) && !job.acc) [sums.map (·.1)] []
    (sums.any (·.2))
  let c := c.pushAll (t + 14) 2 effs
  let next := t + vecCycles job.tx
  let c :=
    if v + 1 < job.nb then c.push next 2 (.micro (.dmmtPair job j (v + 1)))
    else if j + 1 < job.kt then c.push next 2 (.micro (.dmmtPair job (j + 1) 0))
    else c
  (c, [])

/-! ### DOUT (R137) -/

def checkDout (c : Core) (o : BitVec 46) : Option Det :=
  let j := dmmJob c o
  let last := ixJ0 j.idx + j.kt - 1
  checkOperands [opTp c (field o 45 42) (ixP0 j.idx) (decide (j.nb - 1 ≤ dRows j.tp)),
    opBf c j.nw [1] (decide (dCols j.tw ≤ 63)) true (decide (last ≤ dRows j.tw)),
    opBf c j.nx [1] true true (decide (last ≤ dCols j.tx) && decide (ixV0 j.idx + j.nb - 1 ≤ dRows j.tx))]

def startDout (c : Core) (o : BitVec 46) : Core :=
  let j := dmmJob c o
  { (c.push c.now 2 (.micro (.doutPair j 0))) with busyDot := c.now + 4 * j.nb * j.kt }

/-- A product of two BF16 codes: contributes zero when either is not finite. -/
def bfProduct (a b : Nat) : Dy × Bool :=
  match bf16Value a, bf16Value b with
  | some x, some y => (x.mul y, false)
  | _, _ => (Dy.zero, true)

/-- Pair i = v · NCH + c: four groups of 16 lanes, group g landing at 14 + g after the pair's first cycle. -/
def runDoutPair (c : Core) (job : DotJob) (i : Nat) : Core × Late :=
  let t := c.now
  let v := i / job.kt
  let ch := i % job.kt
  let nl := dCols job.tp + 1
  let ws := c.rowCodes job.tw (ixJ0 job.idx + ch) 0 (dCols job.tw + 1)
  let src := ((c.rowCodes job.tx (ixV0 job.idx + v) (ixJ0 job.idx + ch) 1).head?).getD 0
  let idx := psmRow job.tp (ixP0 job.idx) v
  let group := fun (c : Core) (g : Nat) =>
    let lanes := (List.range 16).map (16 * g + ·) |>.filter fun l => decide (l < nl)
    let prods := lanes.map fun l => match ws[l]? with
      | some w => bfProduct w src
      | none => (Dy.zero, false)
    if lanes.isEmpty then c
    else c.pushAll (t + 14 + g) 2 (landEffs (idx + 16 * g) lanes.length (dAnchor job.tp) (decide (ch = 0) && !job.acc)
      [prods.map (·.1)] [] (prods.any (·.2)))
  let c := (List.range 4).foldl group c
  let c := if i + 1 < job.nb * job.kt then c.push (t + 4) 2 (.micro (.doutPair job (i + 1))) else c
  (c, [])

/-! ### DADN and DAUP (R139, R140) -/

def checkDadn (c : Core) (o : BitVec 46) : Option Det :=
  let j := dmmJob c o
  checkOperands [
    opBf c (field o 45 42) [1] true (decide (dCols j.tp ≤ dCols j.tw) && decide (dCols j.tp ≤ 255))
      (decide (ixP0 j.idx + j.nb - 1 ≤ dRows j.tp)),
    opBf c j.nw [1, 2] true true true,
    opBf c j.nx [1] true (decide (dCols j.tx = dRows j.tw)) (decide (ixV0 j.idx + j.nb - 1 ≤ dRows j.tx))]

/-- Cycles per vector: ceil(K / 16) · ceil(r / 16). -/
def dadnCycles (j : DotJob) : Nat := ceilDiv (dCols j.tx + 1) 16 * ceilDiv (dCols j.tp + 1) 16

def startDadn (c : Core) (o : BitVec 46) : Core :=
  let j := dmmJob c o
  { (c.push c.now 2 (.micro (.dadnRow j 0))) with busyDot := c.now + j.nb * dadnCycles j }

/-- Exact sum of the products of two code lists, and whether one was not finite. -/
def bfDot : List Nat → List Nat → Dy × Bool
  | a :: s, b :: t =>
    let (p, f) := bfProduct a b
    let (r, g) := bfDot s t
    (p.add r, f || g)
  | _, _ => (Dy.zero, false)

def runDadnRow (c : Core) (job : DotJob) (v : Nat) : Core × Late :=
  let t := c.now
  let p := dadnCycles job
  let xs := c.rowCodes job.tx (ixV0 job.idx + v) 0 (dCols job.tx + 1)
  let r := dCols job.tp + 1
  let rows := (List.range xs.length).map fun k => c.rowCodes job.tw k 0 r
  let sums := (List.range r).map fun col => bfDot xs (rows.map fun l => (l[col]?).getD 0)
  let data := sums.flatMap fun s => leBytes 2 (roundDy bf16 s.1)
  let c := c.pushAll (t + 13 + p) 2
    (.bytes 0 (dBase job.tp + (ixP0 job.idx + v) * dStride job.tp) data :: (if sums.any (·.2) then [.satSet] else []))
  let c := if v + 1 < job.nb then c.push (t + p) 2 (.micro (.dadnRow job (v + 1))) else c
  (c, [])

def checkDaup (c : Core) (o : BitVec 46) : Option Det :=
  let j := dmmJob c o
  checkOperands [opTp c (field o 45 42) (ixP0 j.idx) (decide (j.nb - 1 ≤ dRows j.tp)),
    opBf c j.nw [1, 2] (decide (dCols j.tw ≤ 63)) true true,
    opBf c j.nx [1] true (decide (dCols j.tx = dRows j.tw)) (decide (ixV0 j.idx + j.nb - 1 ≤ dRows j.tx))]

/-- Cycles per vector: 4 · ceil(r / 16). -/
def daupCycles (j : DotJob) : Nat := 4 * ceilDiv (dCols j.tx + 1) 16

def startDaup (c : Core) (o : BitVec 46) : Core :=
  let j := dmmJob c o
  { (c.push c.now 2 (.micro (.daupRow j 0))) with busyDot := c.now + j.nb * daupCycles j }

def runDaupRow (c : Core) (job : DotJob) (v : Nat) : Core × Late :=
  let t := c.now
  let p := daupCycles job
  let nl := dCols job.tp + 1
  let r := dCols job.tx + 1
  let xs := c.rowCodes job.tx (ixV0 job.idx + v) 0 r
  let rows := (List.range r).map fun k => c.rowCodes job.tw k 0 (dCols job.tw + 1)
  let group := fun (g : Nat) => (List.range nl).map fun lane =>
    if dCols job.tw < lane then (Dy.zero, false)
    else bfDot ((xs.drop (16 * g)).take 16) (((rows.drop (16 * g)).take 16).map fun l => (l[lane]?).getD 0)
  let groups := (List.range (ceilDiv r 16)).map group
  let c := c.pushAll (t + 6 + p) 2 (landEffs (psmRow job.tp (ixP0 job.idx) v) nl (dAnchor job.tp) (!job.acc)
    (groups.map fun g => g.map (·.1)) [] (groups.any fun g => g.any (·.2)))
  let c := if v + 1 < job.nb then c.push (t + p) 2 (.micro (.daupRow job (v + 1))) else c
  (c, [])

/-! ### DRSC (R138) -/

def checkDrsc (c : Core) (o : BitVec 46) : Option Det :=
  let t := field o 45 42
  checkOperands [opTp c t (ixP0 (c.rA (field o 15 11))) (decide (field o 30 22 ≤ dRows (c.rT t)))]

/-- Row k uses α = V[VA][(Q0 + k div G) mod 64], read at issue, and holds from t + 14 + k. -/
def startDrsc (c : Core) (o : BitVec 46) : Core :=
  let tp := c.rT (field o 45 42)
  let p0 := ixP0 (c.rA (field o 15 11))
  let nr := field o 30 22 + 1
  let g := field o 21 16 + 1
  let row := fun (x : Core) (k : Nat) =>
    x.push (c.now + 14 + k) 2 (.accScale (psmRow tp p0 k) (dCols tp + 1) (c.rV (field o 41 37) ((field o 36 31 + k / g) % 64)))
  { ((List.range nr).foldl row c) with busyDot := c.now + nr }

end Sys2Proof.Machine
end

