-- ==== Sys2Proof/Machine/Quant.lean ====
section
/-! DEFINITION. Quantizing a block (R82, R83, R98) and writing its record (R76, R77, R149). -/

namespace Sys2Proof.Machine

/-- A quantized block: its scale code and element codes; `none` is a zero block. -/
abbrev QBlock := Option (Nat × List Nat)

def isBsi (f : Nat) : Bool := decide (f ≤ 7)

/-- Two to the power e, times v. -/
def Dy.scale (v : Dy) (e : Int) : Dy := { v with e := v.e + e }

/-- The greatest magnitude of a list. -/
def maxAbs (l : List Dy) : Dy := l.foldl (fun m v => if m.lt v.abs then v.abs else m) Dy.zero

/-- The scale exponent of R82 for maximum mx > 0 in format f. -/
def quantExp (f : Nat) (mx : Dy) : Int :=
  let k := mx.log2
  let n : Int := (f : Int) + 1
  let e := if isBsi f then k - (n - 2) else if f = 10 then k - 7 else k - 14
  let e := max e (-126)
  if isBsi f && decide (((2 ^ f : Nat) : Int) - 1 < (mx.scale (-e)).rne) then e + 1 else e

/-- The element code of v · 2^−e in format f. -/
def quantCode (f : Nat) (e : Int) (v : Dy) : Nat :=
  if isBsi f then twos (f + 1) (v.scale (-e)).rne
  else roundDy (if f = 10 then e4m3 else e5m2) (v.scale (-e))

/-- A code whose magnitude is zero. -/
def zeroCode (f c : Nat) : Bool := if isBsi f then decide (c = 0) else decide (c % 128 = 0)

/-- quantize_block of R82. `src` pairs each value with whether it is an outlier channel. The Bool answered sets the saturation
flag. -/
def quantBlock (f : Nat) (src : List (FV × Bool)) : QBlock × Bool :=
  let used := src.filter fun x => !x.2
  if used.any fun x => !x.1.isFinite then (none, true)
  else
    let mx := maxAbs (used.map fun x => x.1.dy)
    if mx.m = 0 then (none, false)
    else
      let e := quantExp f mx
      let codes := src.map fun x => if x.2 then 0 else quantCode f e x.1.dy
      if codes.all (zeroCode f) then (none, false) else (some ((e + 126).toNat, codes), false)

/-- BSI-1 of ingest (R83): signs, and the scale from the mean magnitude a. -/
def quantBsi1 (src : List FV) : QBlock :=
  let sum := Dy.sum (src.map fun x => x.dy.abs)
  if sum.m = 0 then none
  else
    let n := src.length
    let a := sum.scale (-(n.log2 : Int))
    let k := a.log2
    let e := if ({ m := 3, e := k - 1 } : Dy).le a then k + 1 else k
    let e := max (-126) (min 128 e)
    some ((e + 126).toNat, src.map fun x => if x.dy.m < 0 then 1 else 0)

/-- Pack element codes of w bits, least significant first (R76). -/
def packCodes (w : Nat) (codes : List Nat) : Bytes :=
  leBytes (codes.length * w / 8) (codes.foldr (fun c acc => acc * 2 ^ w + c % 2 ^ w) 0)

/-- A record of n elements as VQNT writes it (R149). -/
def quantRecord (perBlock : Bool) (f n : Nat) (q : QBlock) : Bytes :=
  let (sc, codes) := q.getD (255, List.replicate n 0)
  let hdr := if perBlock then leBytes 2 (sc * 256 + f * 16) else leBytes 1 sc
  hdr ++ packCodes (fmtWidth f) codes

end Sys2Proof.Machine
end

