-- ==== Sys2Proof/Machine/Transc.lean ====
section
/-! DEFINITION. The transcendental functions of the vector unit (R96, R99, R144): their special inputs, their exact values to
about 2^−190, and the bounds of Table 03-10 in bounded mode. Functions are numbered 0 exponential, 1 reciprocal,
2 reciprocal square root, 3 SiLU, 4 GELU, 5 sigmoid, 6 tanh. -/

namespace Sys2Proof.Machine

/-! ### Values in fixed point with 256 fraction bits -/

def fxOne : Int := ((2 ^ 256 : Nat) : Int)

def fxMul (a b : Int) : Int := a * b / fxOne

/-- A dyadic in fixed point, rounded down. -/
def fxOf (v : Dy) : Int := v.floorAt (-256)

/-- Σ r^k / k!, by `fuel` further terms after `term` = r^(k−1) / (k−1)!. -/
def expTerms (r : Int) : Nat → Nat → Int → Int → Int
  | 0, _, _, acc => acc
  | fuel + 1, k, term, acc =>
    let t := fxMul term r / (k : Int)
    expTerms r fuel (k + 1) t (acc + t)

/-- ln 2 = Σ 1 / (k · 2^k). -/
def ln2Fx : Int := ((List.range 264).map fun k => fxOne / (((k + 1) * 2 ^ (k + 1) : Nat) : Int)).foldl (· + ·) 0

/-- e^v, to a relative error near 2^−240, for |v| up to 400; beyond, where binary32 holds infinity or 0, the value at ±400. -/
def dyExp (v : Dy) : Dy :=
  let x := max (-400 * fxOne) (min (400 * fxOne) (fxOf v))
  let n := (x + ln2Fx / 2) / ln2Fx
  let r := x - n * ln2Fx
  { m := expTerms r 70 1 fxOne fxOne, e := n - 256 }

/-- 1 / v for v ≠ 0, 256 significant bits. -/
def dyInv (v : Dy) : Dy :=
  if v.m = 0 then Dy.zero
  else
    let n := v.m.natAbs.log2 + 256
    let q : Int := ((2 ^ n / v.m.natAbs : Nat) : Int)
    { m := if v.m < 0 then -q else q, e := -v.e - n }

/-- Integer square root by Newton's steps from above. -/
def isqrtStep : Nat → Nat → Nat → Nat
  | 0, _, r => r
  | fuel + 1, n, r =>
    let r' := (r + n / r) / 2
    if r' < r then isqrtStep fuel n r' else r

def isqrt (n : Nat) : Nat := if n = 0 then 0 else isqrtStep (n.log2 + 8) n (2 ^ (n.log2 / 2 + 1))

/-- 1 / √v for v > 0. -/
def dyRsqrt (v : Dy) : Dy :=
  let i := dyInv v
  let sh := 200 + (if (i.e - 200) % 2 = 0 then 0 else 1)
  { m := ((isqrt (i.m.natAbs <<< sh) : Nat) : Int), e := (i.e - sh) / 2 }

/-- 1 / (1 + e^−v). -/
def dySigmoid (v : Dy) : Dy := dyInv ((dyExp v.neg).add { m := 1, e := 0 })

/-- (e^2v − 1) / (e^2v + 1); v itself below 2^−100. -/
def dyTanh (v : Dy) : Dy :=
  if v.abs.lt { m := 1, e := -100 } then v
  else
    let t := dyExp { v with e := v.e + 1 }
    (t.add { m := -1, e := 0 }).mul (dyInv (t.add { m := 1, e := 0 }))

/-- erf terms: Σ (−1)^k z^(2k+1) / (k! (2k+1)). -/
def erfTerms (z2 : Int) : Nat → Nat → Int → Int → Int
  | 0, _, _, acc => acc
  | fuel + 1, k, term, acc =>
    let t := -(fxMul term z2 / (k : Int))
    erfTerms z2 fuel (k + 1) t (acc + t / ((2 * k + 1 : Nat) : Int))

/-- 1 / √2 and 2 / √π = √(4/π), from √2 and Machin's π. -/
def invSqrt2Fx : Int := ((isqrt (2 ^ 511) : Nat) : Int)

def atanInv (q : Nat) : Int :=
  ((List.range 190).map fun k =>
    let t := fxOne / (((2 * k + 1) * q ^ (2 * k + 1) : Nat) : Int)
    if k % 2 = 0 then t else -t).foldl (· + ·) 0

def piFx : Int := 16 * atanInv 5 - 4 * atanInv 239

def twoOverSqrtPiFx : Int := ((isqrt ((4 * 2 ^ 768) / piFx.natAbs) : Nat) : Int)

/-- GELU, erf form: x/2 · (1 + erf(x/√2)). Beyond |x| = 14 the erf is ±1 to 2^−140. -/
def dyGelu (v : Dy) : Dy :=
  if ({ m := 14, e := 0 } : Dy).lt v.abs then (if v.m < 0 then Dy.zero else v)
  else
    let z := fxMul (fxOf v) invSqrt2Fx
    let erf := fxMul (erfTerms (fxMul z z) 420 1 z z) twoOverSqrtPiFx
    ({ v with e := v.e - 1 } : Dy).mul { m := fxOne + erf, e := -256 }

def exactFn (fn : Nat) (v : Dy) : Dy :=
  match fn with
  | 0 => dyExp v
  | 1 => dyInv v
  | 2 => dyRsqrt v
  | 3 => v.mul (dySigmoid v)
  | 4 => dyGelu v
  | 5 => dySigmoid v
  | _ => dyTanh v

/-! ### Table 05-6 -/

/-- The special inputs, in both quality modes; `none` for the inputs Table 03-10 covers. -/
def specialFn (fn : Nat) (x : FV) : Option Word :=
  match x with
  | .nan => some f32NaN
  | .inf false => some (match fn with
    | 0 => 0x7F800000
    | 1 => 0
    | 2 => 0
    | 3 => 0x7F800000
    | 4 => 0x7F800000
    | _ => f32One)
  | .inf true => some (match fn with
    | 0 => 0
    | 1 => 0x80000000
    | 2 => f32NaN
    | 3 => 0x80000000
    | 4 => 0x80000000
    | 5 => 0
    | _ => 0xBF800000)
  | .fin n m _ =>
    if m = 0 then
      some (match fn with
        | 0 => f32One
        | 1 => if n then 0xFF800000 else 0x7F800000
        | 2 => if n then 0xFF800000 else 0x7F800000
        | 5 => 0x3F000000
        | _ => if n then 0x80000000 else 0)
    else if n && decide (fn = 2) then some f32NaN
    else none

/-! ### Table 03-10, bounded mode -/

/-- One unit in the last place of binary32 at a value. -/
def ulpExp (y : Dy) : Int := if y.m = 0 then -149 else max (y.log2 - 23) (-149)

/-- Is the word within k ulp of y? Where y rounds to an infinity it must be that infinity. -/
def withinUlp (k : Nat) (w : Word) (y : Dy) : Bool :=
  let r := toF32 (FV.ofDy y)
  match f32 w with
  | .nan => false
  | .inf _ => decide (w = r)
  | x => (f32 r).isFinite && (x.dy.add y.neg).abs.le { m := k, e := ulpExp y }

/-- The bound of a function at a finite operand outside Table 05-6, given its exact value y. -/
def withinBound (fn : Nat) (v y : Dy) (w : Word) : Bool :=
  match fn with
  | 0 =>
    if ({ m := 887228, e := 0 } : Dy).lt (v.mul { m := 10000, e := 0 }) then decide (w = 0x7F800000)
    else if (v.mul { m := 10000, e := 0 }).lt { m := -873365, e := 0 } then
      decide (w = 0) || (decide (w.toNat < 0x00800000) && withinUlp 2 w y)
    else (f32 w).isFinite && withinUlp 2 w y
  | 1 => withinUlp 1 w y
  | 2 => withinUlp 1 w y
  | _ =>
    if ({ m := 1, e := -100 } : Dy).le y.abs then withinUlp 4 w y
    else (f32 w).isFinite && ((f32 w).dy.add y.neg).abs.le { m := 1, e := -124 }

/-- A value inside the bound: the exact one rounded to nearest, infinity above 88.7228 for the exponential. -/
def nearestFn (fn : Nat) (v y : Dy) : Word :=
  if fn = 0 ∧ ({ m := 887228, e := 0 } : Dy).lt (v.mul { m := 10000, e := 0 }) = true then 0x7F800000
  else toF32 (FV.ofDy y)

/-- Bounded mode: the hardware's own choice when it lies inside the bound (it does, R99), else the nearest value. -/
def boundedFn (fn : Nat) (x : Word) : Word :=
  let v := (f32 x).dy
  let y := exactFn fn v
  let w := Config.boundedFn fn x
  if withinBound fn v y w then w else nearestFn fn v y

/-- The result of transcendental function fn at x in quality mode q (1 reference-score, 2 bounded). -/
def transc (q fn : Nat) (x : Word) : Word :=
  match specialFn fn (f32 x) with
  | some w => w
  | none => if q = 1 then Config.referenceFn fn x else boundedFn fn x

end Sys2Proof.Machine
end

