-- ==== Sys2Proof/Machine/Vec.lean ====
section
/-! DEFINITION. The VEC slot's vector instructions (R141 to R149). Each reads its registers at issue; `q` is the partition's
quality mode. -/

namespace Sys2Proof.Machine

/-- All 64 lanes of VD, readable n cycles after issue. -/
def Core.setLanes (c : Core) (n vd : Nat) (f : Nat → Word) : Core :=
  c.push (c.now + n) 3 (.lanes vd ((List.range 64).map fun j => (j, f j)))

def Core.vecBusy (c : Core) (n : Nat) : Core := { c with busyVec := c.now + n }

/-- Operand VB: a register's lane, or A[VB][31:0] in every lane when BB = 1 (R141). -/
def Core.laneB (c : Core) (o : BitVec 46) (j : Nat) : Word :=
  let b := field o 35 31
  if flag o 25 then (c.rA b).setWidth 32 else c.rV b j

def negIf (b : Bool) (v : FV) : FV := if b then v.neg else v

def startVfma (c : Core) (o : BitVec 46) : Core :=
  (c.setLanes 4 (field o 45 41) fun j =>
    toF32 ((negIf (flag o 24) ((f32 (c.rV (field o 40 36) j)).mul (f32 (c.laneB o j)))).add
      (negIf (flag o 23) (f32 (c.rV (field o 30 26) j))))).vecBusy 1

def startVadd (c : Core) (o : BitVec 46) : Core :=
  (c.setLanes 4 (field o 45 41) fun j =>
    toF32 ((negIf (flag o 24) (f32 (c.rV (field o 40 36) j))).add (negIf (flag o 23) (f32 (c.laneB o j))))).vecBusy 1

def startVmul (c : Core) (o : BitVec 46) : Core :=
  (c.setLanes 4 (field o 45 41) fun j =>
    toF32 (negIf (flag o 24) ((f32 (c.rV (field o 40 36) j)).mul (f32 (c.laneB o j))))).vecBusy 1

def startVmin (c : Core) (o : BitVec 46) : Core :=
  (c.setLanes 4 (field o 45 41) fun j => f32Min (c.rV (field o 40 36) j) (c.laneB o j)).vecBusy 1

def startVmax (c : Core) (o : BitVec 46) : Core :=
  (c.setLanes 4 (field o 45 41) fun j => f32Max (c.rV (field o 40 36) j) (c.laneB o j)).vecBusy 1

/-- The conditions of VCMP (R142). -/
def vcmpCond (cc : Nat) (a b : Word) : Bool :=
  let x := f32 a
  let y := f32 b
  let nan := x.isNan || y.isNan
  let lt := x.lt y
  let gt := y.lt x
  match cc with
  | 0 => !nan && !lt && !gt
  | 1 => nan || lt || gt
  | 2 => !nan && lt
  | 3 => !nan && !gt
  | 4 => !nan && gt
  | 5 => !nan && !lt
  | 6 => nan
  | _ => !nan

def startVcmp (c : Core) (o : BitVec 46) : Core :=
  (c.setLanes 4 (field o 45 41) fun j =>
    if vcmpCond (field o 30 28) (c.rV (field o 40 36) j) (c.laneB o j) then 0xFFFFFFFF else 0).vecBusy 1

def startVsel (c : Core) (o : BitVec 46) : Core :=
  (c.setLanes 4 (field o 45 41) fun j =>
    if c.rV (field o 30 26) j = 0 then c.laneB o j else c.rV (field o 40 36) j).vecBusy 1

def startVbrl (c : Core) (o : BitVec 46) : Core :=
  (c.setLanes 4 (field o 45 41) fun _ => c.rV (field o 40 36) (field o 35 30)).vecBusy 1

/-- A binary32 word rounded to a format and held as its binary32 value (R146, MODE 0). -/
def convertWord (f : Nat) (w : Word) : Word :=
  let via := fun (g : Fmt) => if (f32 w).isNan then f32NaN else toF32 (decode g (encode g (f32 w)))
  match f with
  | 10 => via e4m3
  | 11 => via e5m2
  | 12 => via bf16
  | 13 => via binary16
  | _ => w

/-- binary32 to a signed 32-bit integer (R146, MODE 1). -/
def toInt32 (w : Word) : Word :=
  let lo : Int := -2147483648
  let hi : Int := 2147483647
  match f32 w with
  | .nan => 0
  | .inf n => if n then 0x80000000 else 0x7FFFFFFF
  | x => BitVec.ofInt 32 (max lo (min hi x.dy.rne))

def vcvtLane (mode f : Nat) (w : Word) : Word :=
  match mode with
  | 0 => convertWord f w
  | 1 => toInt32 w
  | 2 => BitVec.ofNat 32 (roundDy binary32 { m := w.toInt, e := 0 })
  | _ => w

def startVcvt (c : Core) (o : BitVec 46) : Core :=
  (c.setLanes 4 (field o 45 41) fun j => vcvtLane (field o 31 30) (field o 35 32) (c.rV (field o 40 36) j)).vecBusy 1

/-! VACC (R147) -/

def vaccRow (c : Core) (o : BitVec 46) : Nat := field (c.rA (field o 36 32)) 8 0

def checkVacc (c : Core) (o : BitVec 46) : Option Det :=
  let t := field o 40 37
  checkOperands [opTp c t 0 (decide (vaccRow c o ≤ dRows (c.rT t)))]

def startVacc (c : Core) (o : BitVec 46) : Core :=
  let tp := c.rT (field o 40 37)
  let i := psmRow tp 0 (vaccRow c o)
  let n := dCols tp + 1
  let c := (c.setLanes 4 (field o 45 41) fun j => if j < n then accLeaves (flag o 31) (dAnchor tp) (c.acc (i + j)) else 0).vecBusy 1
  if flag o 30 then c.push (c.now + 3) 3 (.accWrite i (List.replicate n Acc.zero)) else c

/-! VROT (R145) -/

def rotPair (inv first : Bool) (x0 x1 cs sn : Word) : Word :=
  let s := negIf inv (f32 sn)
  if first then toF32 (((f32 x0).mul (f32 cs)).add ((f32 x1).mul s).neg) else toF32 (((f32 x1).mul (f32 cs)).add ((f32 x0).mul s))

def startVrot (c : Core) (o : BitVec 46) : Core :=
  let va := field o 40 36
  let lane := fun (j : Nat) =>
    let (i0, i1, ix, first) :=
      if flag o 25 then (j % 32, j % 32 + 32, j % 32, decide (j < 32)) else (j / 2 * 2, j / 2 * 2 + 1, j / 2 * 2, decide (j % 2 = 0))
    rotPair (flag o 24) first (c.rV va i0) (c.rV va i1) (c.rV (field o 35 31) ix) (c.rV (field o 30 26) ix)
  (c.setLanes 4 (field o 45 41) lane).vecBusy 1

/-! Reductions (R143) -/

/-- One level: element j with element j + half. -/
def foldHalf (f : Word → Word → Word) (l : List Word) : List Word :=
  let h := l.length / 2
  List.zipWith f (l.take h) (l.drop h)

/-- The six levels over 64 values. -/
def reduce64 (f : Word → Word → Word) (l : List Word) : Word :=
  ((foldHalf f (foldHalf f (foldHalf f (foldHalf f (foldHalf f (foldHalf f l)))))).head?).getD 0

/-- The reduction's result to lane LANE, or to all lanes when BC = 1. -/
def startReduce (f : Word → Word → Word) (c : Core) (o : BitVec 46) : Core :=
  let r := reduce64 f (c.lanes (field o 40 36))
  let lanes := if flag o 29 then (List.range 64).map fun j => (j, r) else [(field o 35 30, r)]
  (c.push (c.now + 8) 3 (.lanes (field o 45 41) lanes)).vecBusy 1

def startVrmax (c : Core) (o : BitVec 46) : Core := startReduce f32Max c o
def startVrsum (c : Core) (o : BitVec 46) : Core := startReduce f32Add c o

/-! Transcendentals (R144) -/

/-- All lanes read at issue; VD readable at t + 12; four issue cycles. -/
def startTransc (q fn : Nat) (c : Core) (o : BitVec 46) : Core :=
  (c.setLanes 12 (field o 45 41) fun j => transc q fn (c.rV (field o 40 36) j)).vecBusy 4

def startVexp (q : Nat) (c : Core) (o : BitVec 46) : Core := startTransc q 0 c o
def startVrcp (q : Nat) (c : Core) (o : BitVec 46) : Core := startTransc q 1 c o
def startVrsq (q : Nat) (c : Core) (o : BitVec 46) : Core := startTransc q 2 c o
def startVact (q : Nat) (c : Core) (o : BitVec 46) : Core := startTransc q (3 + field o 35 34) c o

/-! VQNT (R148, R149) -/

def checkVqnt (c : Core) (o : BitVec 46) : Option Det :=
  let t := field o 40 37
  let d := c.rT t
  let e0 := field (c.rA (field o 36 32)) 15 0
  let y := field (c.rA (field o 36 32)) 31 16
  let w := fmtWidth (dFmt d)
  let f := dFmt d
  let td : Operand :=
    { t := t, d := d, spads := [1], psm := false,
      place := ((decide (1 ≤ f) && decide (f ≤ 7)) || decide (f = 10) || decide (f = 11)) && decide (dLay d ≠ 0), shape := !dFine d,
      whole := true, pair := decide (64 % dB d = 0), shift := 0,
      bound := decide (e0 % dB d = 0) && decide (e0 + 63 ≤ dCols d) && decide (y ≤ dRows d)
        && (decide (dLay d ≠ 2) || decide ((e0 + 64) / dB d * (2 + dB d * w / 8) ≤ dStride d)) }
  checkOperands (td :: (if flag o 27 then [opTm c (field o 31 28) (decide (e0 + 63 ≤ dCols (c.rT (field o 31 28))))] else []))

def startVqnt (c : Core) (o : BitVec 46) : Core :=
  let d := c.rT (field o 40 37)
  let e0 := field (c.rA (field o 36 32)) 15 0
  let y := field (c.rA (field o 36 32)) 31 16
  let b := dB d
  let per := decide (dLay d = 2)
  let src := (List.range 64).map fun i =>
    (f32 (c.rV (field o 45 41) i), c.maskBit (flag o 27) (c.rT (field o 31 28)) 0 (e0 + i))
  let blocks := (List.range (64 / b)).map fun k => quantBlock (dFmt d) ((src.drop (k * b)).take b)
  let data := blocks.flatMap fun q => quantRecord per (dFmt d) b q.1
  let recLen := (if per then 2 else 1) + b * fmtWidth (dFmt d) / 8
  (c.pushAll (c.now + 6) 3 (.bytes 0 (dBase d + y * dStride d + e0 / b * recLen) data
    :: (if blocks.any (·.2) then [.satSet] else []))).vecBusy 1

end Sys2Proof.Machine
end

