-- ==== Sys2Proof/Machine/Attn.lean ====
section
/-! DEFINITION. The attention functions (R150 to R154). -/

namespace Sys2Proof.Machine

/-- A PSM operand of scores. -/
def attnTp (c : Core) (t : Nat) (tsCols : Nat) (bound : Bool) : Operand :=
  let d := c.rT t
  { t := t, d := d, spads := [1], psm := false, place := decide (10 ≤ dFmt d) && decide (dFmt d ≤ 12) && decide (dLay d = 0),
    shape := true, whole := false, pair := decide (dCols d = tsCols), shift := 0, bound := bound }

/-- A statistics tile: binary32, unblocked, COLS ≥ 1. -/
def attnTst (c : Core) (t : Nat) (bound : Bool) : Operand :=
  let d := c.rT t
  { t := t, d := d, spads := [1], psm := false, place := decide (dFmt d = 14), shape := decide (1 ≤ dCols d), whole := false,
    pair := true, shift := 0, bound := bound }

def asmxJob (c : Core) (o : BitVec 46) : AttnJob :=
  { ts := c.rT (field o 45 42), tp := c.rT (field o 41 38), tm := c.rT (field o 15 12), tst := 0, scale := c.rA (field o 37 33),
    va := field o 32 28, q0 := field o 27 22, nr := field o 21 16 + 1, msk := flag o 11, start := flag o 10 }

def arecJob (c : Core) (o : BitVec 46) : AttnJob :=
  { ts := c.rT (field o 45 42), tp := c.rT (field o 41 38), tm := c.rT (field o 16 13), tst := c.rT (field o 32 29),
    scale := c.rA (field o 37 33), va := 0, q0 := field o 28 23, nr := field o 22 17 + 1, msk := flag o 12, start := false }

/-- The checks ASMX and AREC share; `more` are the operands between TP and TM. -/
def checkScores (c : Core) (j : AttnJob) (ts tp tm : Nat) (more : List Operand) : Option Det :=
  checkOperands ([opTp c ts 0 (decide (j.nr - 1 ≤ dRows j.ts)), attnTp c tp (dCols j.ts) (decide (j.nr - 1 ≤ dRows j.tp))] ++ more
    ++ (if j.msk then [opTm c tm (decide (j.nr - 1 ≤ dRows j.tm) && decide (dCols j.ts ≤ dCols j.tm))] else []))

def checkAsmx (c : Core) (o : BitVec 46) : Option Det :=
  checkScores c (asmxJob c o) (field o 45 42) (field o 41 38) (field o 15 12) []

def checkArec (c : Core) (o : BitVec 46) : Option Det :=
  let j := arecJob c o
  checkScores c j (field o 45 42) (field o 41 38) (field o 16 13) [attnTst c (field o 32 29) (decide (j.nr - 1 ≤ dRows j.tst))]

def startAsmx (c : Core) (o : BitVec 46) : Core :=
  let j := asmxJob c o
  (c.push c.now 3 (.micro (.asmxRow j 0))).vecBusy (4 * j.nr)

def startArec (c : Core) (o : BitVec 46) : Core :=
  let j := arecJob c o
  (c.push c.now 3 (.micro (.arecRow j 0))).vecBusy (4 * j.nr)

/-- NV of A[AS] (R150). -/
def attnValid (j : AttnJob) : Nat := min (field j.scale 38 32) 64

/-- The score of position i in row k: `none` when masked; clamped to finite (R150). -/
def score (c : Core) (j : AttnJob) (k i : Nat) : Option Word :=
  if dCols j.ts < i || attnValid j ≤ i || c.maskBit j.msk j.tm k i then none
  else
    let x := accLeaves false (dAnchor j.ts) (c.acc (psmRow j.ts 0 k + i))
    let s := f32Mul (j.scale.setWidth 32) x
    match f32 s with
    | .nan => none
    | .inf n => some (if n then 0xFF7FFFFF else f32Big)
    | _ => some s

/-- out(p): a probability in TP's format (R151). -/
def probCode (tp : BitVec 128) (p : Word) : Nat :=
  let e : Int := (dScale tp : Int) - 126
  match dFmt tp with
  | 12 => encode bf16 (f32 p)
  | f => match f32 p with
    | .fin n m x => encode (if f = 10 then e4m3 else e5m2) (.fin n m (x - e))
    | v => encode (if f = 10 then e4m3 else e5m2) v

/-- Bytes of a row of probabilities; a masked position gives code 0. -/
def probRow (j : AttnJob) (ps : List (Option Word)) : Bytes :=
  (ps.take (dCols j.tp + 1)).flatMap fun p => leBytes (fmtWidth (dFmt j.tp) / 8) (match p with
    | some w => probCode j.tp w
    | none => 0)

/-- Row k of an ASMX (R151). -/
def runAsmxRow (q : Nat) (c : Core) (j : AttnJob) (k : Nat) : Core × Late :=
  let t := c.now
  let row := (j.q0 + k) % 64
  let st := if j.start then AttnRow.empty else c.attnRow row
  let s := (List.range 64).map fun i => score c j k i
  let mb := s.foldl (fun m x => match x with
    | some w => f32Max m w
    | none => m) f32NegInf
  let mn := f32Max st.m mb
  let alpha := if mn = f32NegInf then f32One else transc q 0 (f32Sub st.m mn)
  let ps := s.map fun x => x.map fun w => transc q 0 (f32Sub w mn)
  let l := f32Fma alpha st.l (reduce64 f32Add (ps.map fun p => p.getD 0))
  let c := c.push (t + 24) 3 (.bytes 0 (dBase j.tp + k * dStride j.tp) (probRow j ps))
  let c := c.push (t + 24) 3 (.lanes j.va [(row, alpha)])
  let c := c.push (t + 32) 3 (.attnSet row { m := mn, l := l })
  let c := if k + 1 < j.nr then c.push (t + 4) 3 (.micro (.asmxRow j (k + 1))) else c
  (c, [])

/-- Row k of an AREC (R154). -/
def runArecRow (q : Nat) (c : Core) (j : AttnJob) (k : Nat) : Core × Late :=
  let t := c.now
  let lse := BitVec.ofNat 32 (leNat (memRead c.am (dBase j.tst + k * dStride j.tst + 4) 4))
  let ps := (List.range 64).map fun i => (score c j k i).map fun w =>
    if lse = f32NegInf || (f32 lse).isNan then 0 else transc q 0 (f32Sub w lse)
  let c := c.push (t + 24) 3 (.bytes 0 (dBase j.tp + k * dStride j.tp) (probRow j ps))
  let c := if k + 1 < j.nr then c.push (t + 4) 3 (.micro (.arecRow j (k + 1))) else c
  (c, [])

/-! AEND (R152) -/

def checkAend (c : Core) (o : BitVec 46) : Option Det :=
  let t := field o 45 42
  checkOperands [attnTst c t (decide (field o 30 25 ≤ dRows (c.rT t)))]

/-- Row maximum, log-sum-exp and reciprocal of a row's state. -/
def attnStats (q : Nat) (r : AttnRow) : Word × Word × Word :=
  if (f32 r.l).dy.m = 0 && (f32 r.l).isFinite then (f32NegInf, f32NegInf, 0) else (r.m, Config.logSumExp r.m r.l, transc q 1 r.l)

def startAend (q : Nat) (c : Core) (o : BitVec 46) : Core :=
  let tst := c.rT (field o 45 42)
  let nr := field o 30 25 + 1
  let row := fun (x : Core) (k : Nat) =>
    let r := (field o 36 31 + k) % 64
    let (mx, lse, inv) := attnStats q (c.attnRow r)
    ((x.push (c.now + 1) 3 (.attnEmpty r)).push (c.now + 16) 3
      (.bytes 0 (dBase tst + k * dStride tst) (leBytes 4 mx.toNat ++ leBytes 4 lse.toNat))).push (c.now + 16) 3
      (.lanes (field o 41 37) [(r, inv)])
  ((List.range nr).foldl row c).vecBusy 4

end Sys2Proof.Machine
end

