-- ==== Sys2Proof/Machine/FabricOps.lean ====
section
/-! DEFINITION. Endpoints, routes and partition-key violations of the fabric (R214, R220, R222, R224, R225). -/

namespace Sys2Proof.Machine

/-- The welt endpoints in identifier order, after 32·27·17 places for cores and sequencers. -/
def State.endpoint (s : State) (i : Nat) : Option Endpoint := tabFind s.fab.endpoints i

/-- R220: an identifier finds its endpoint when the entry is valid and its tag agrees. -/
def State.lookup (s : State) (id : Nat) : Option Endpoint :=
  match s.endpoint (id % 16384) with
  | some e => if e.tag = id / 16384 % 1024 then some e else none
  | none => none

/-- The identifier of entry i. -/
def endpointId (i : Nat) (e : Endpoint) : Nat := e.tag * 16384 + i

/-- The live endpoint with a given place and port: its identifier, 0 when there is none. -/
def State.idOf (s : State) (x y : Nat) (port : EpPort) : Nat :=
  match s.fab.endpoints.find? fun e => decide (e.2.x = x) && decide (e.2.y = y) && decide (e.2.port = port) with
  | some (i, e) => endpointId i e
  | none => 0

/-- Identifier of a welt endpoint. -/
def State.weltId (s : State) (w : WeltEp) : Nat :=
  match s.fab.endpoints.find? fun e => decide (e.2.port = .welt w) with
  | some (i, e) => endpointId i e
  | none => 0

/-- Identifier of a physical core that serves a logical core. -/
def State.coreId (s : State) (key : Nat) : Nat :=
  match s.last.logical (key / 17), (s.coreAt key).logical with
  | some (x, y), some n => s.idOf x y (.core n)
  | _, _ => 0

def State.seqId (s : State) (r : Nat) : Nat :=
  match s.last.logical r with
  | some (x, y) => s.idOf x y .seq
  | none => 0

/-- The physical core serving logical core n of region r. -/
def State.physCore (s : State) (r n : Nat) : Option Nat :=
  (List.range 17).find? fun k => decide ((s.coreAt (17 * r + k)).logical = some n)

/-- Hops along a ring of n from position index a to b: 0 shortest, 1 the + direction, 2 the − direction (R214). -/
def ringHops (n a b dir : Nat) : Nat :=
  let d := (ringPos n b + n - ringPos n a) % n
  match dir with
  | 1 => d
  | 2 => (n - d) % n
  | _ => min d (n - d)

/-- The direction a flit takes on a ring: true is + (R214; a tie takes +). -/
def ringPlus (n a b dir : Nat) : Bool :=
  let d := (ringPos n b + n - ringPos n a) % n
  match dir with
  | 1 => true
  | 2 => false
  | _ => decide (d ≤ n - d)

/-- Hop count of the route from hub a to an endpoint. -/
def State.routeHops (s : State) (a : Nat × Nat) (e : Endpoint) : Nat :=
  ringHops s.last.lcols a.1 e.x e.rowDir + ringHops 27 a.2 e.y e.colDir

/-- The partition whose key this is. -/
def State.keyOwner (s : State) (key : Nat) : Option Nat :=
  s.liveParts.find? fun p => decide ((s.part p).key = key) && decide (key ≠ 0)

/-- R225: count, capture and log one dropped flit. `port` is q of Table 08-1, 10 for the core port, 11 for the sequencer's. -/
def State.violation (s : State) (reason key src dest ekey r port : Nat) : State :=
  let s := match s.keyOwner key with
    | some p => s.bump (Reg.FAB_VIOL_CNT p) 31 0
    | none => s.bump Reg.FAB_VIOL_DEV 31 0
  let s :=
    if flag (s.rd Reg.FAB_VIOL_LOG0) 31 then s
    else
      let s := s.wr Reg.FAB_VIOL_LOG0 (BitVec.ofNat 32 (2 ^ 31 + reason * 2 ^ 27 + src % 2 ^ 24))
      let s := s.wr Reg.FAB_VIOL_LOG1 (BitVec.ofNat 32 (dest % 2 ^ 24))
      let s := s.wr Reg.FAB_VIOL_LOG2 (BitVec.ofNat 32 (key * 65536 + ekey))
      s.wr Reg.FAB_VIOL_LOG3 (BitVec.ofNat 32 (r % 32 * 2 ^ 27 + r / 32 * 2 ^ 22 + port * 2 ^ 18))
  s.deferred 14 (s.keyOwner key) (linkLocus r port)

/-- Is [a, a + n) of rim memory inside one extent of a partition, writable when it is written (R243)? -/
def extentHolds (a n : Nat) (write : Bool) (e : Extent) : Bool :=
  let b := (96 * e.stack + e.base) * 2 ^ 30
  decide (b ≤ a) && decide (a + n ≤ b + e.len * 2 ^ 30) && (!write || e.write)

def State.rimAllowed (s : State) (p a n : Nat) (write : Bool) : Bool :=
  (s.part p).extents.any fun e => extentHolds a n write e.2

/-- The stub of a welt endpoint's attachment hub (Table 08-4): 8 north or south, 9 west or east. -/
def weltStub (w : WeltEp) : Nat :=
  match w with
  | .rim st => if st < 4 ∨ (8 ≤ st ∧ st < 12) then 8 else 9
  | .edge _ => 9
  | .sampling _ => 9
  | _ => 8

/-- Logical index at a ring position (R32). -/
def ringIdx (n pos : Nat) : Nat := if 2 * pos < n then 2 * pos else 2 * (n - pos) - 1

/-- Indices passed along a ring of n from a to b, both ends included; `k` bounds the walk. -/
def ringWalk (n a b : Nat) (plus : Bool) : Nat → List Nat
  | 0 => [b]
  | k + 1 => if a = b then [b] else a :: ringWalk n (ringIdx n ((ringPos n a + (if plus then 1 else n - 1)) % n)) b plus k

/-- Logical hubs of the route from a to b with the directions stored for the destination. -/
def routeHubs (lcols : Nat) (a b : Nat × Nat) (rowDir colDir : Nat) : List (Nat × Nat) :=
  let row := (ringWalk lcols a.1 b.1 (ringPlus lcols a.1 b.1 rowDir) 32).map fun x => (x, a.2)
  let col := (ringWalk 27 a.2 b.2 (ringPlus 27 a.2 b.2 colDir) 27).map fun y => (b.1, y)
  row ++ col.drop 1

/-- Physical hubs of a route. -/
def State.routePath (s : State) (a b : Nat × Nat) (rowDir colDir : Nat) : List Nat :=
  (routeHubs s.last.lcols a b rowDir colDir).filterMap fun h => s.last.phys h.1 h.2

/-- Logical places of the stopped hubs that are still on their rings (R212). -/
def State.stops (s : State) : List (Nat × Nat) :=
  (s.regions.filter fun e => e.2.hubStopped).filterMap fun e => s.last.logical e.1

/-- Does a path pass a stopped hub? -/
def State.passesStop (s : State) (path : List Nat) : Bool := path.any fun r => (s.region r).hubStopped

/-- The direction code for a route to or from a welt endpoint: the other way round the ring when the stored one meets a stopped
hub and the other meets none (R212). `on` lists the stopped hubs of that ring. -/
def aroundStop (on : List Nat) (n a b dir : Nat) : Nat :=
  let meets := fun (plus : Bool) => (ringWalk n a b plus n).tail.any on.contains
  let p := ringPlus n a b dir
  if meets p && !meets (!p) then (if p then 2 else 1) else dir

/-- The direction codes of a route to or from a welt endpoint, from logical hub a to b with the codes d stored (R212, R214). -/
def State.weltDirs (s : State) (a b d : Nat × Nat) : Nat × Nat :=
  (aroundStop ((s.stops.filter fun h => decide (h.2 = a.2)).map (·.1)) s.last.lcols a.1 b.1 d.1,
   aroundStop ((s.stops.filter fun h => decide (h.1 = b.1)).map (·.2)) 27 a.2 b.2 d.2)

/-- Physical hubs of a route to or from a welt endpoint. -/
def State.weltPath (s : State) (a b d : Nat × Nat) : List Nat := s.routePath a b (s.weltDirs a b d).1 (s.weltDirs a b d).2

/-- May this attachment hub be chosen: its stub is up and its route with (x, y) meets no stopped hub (R212)? `out`: the route from
the endpoint. -/
def State.attachOk (s : State) (a h : Nat × Nat) (q : Nat) (out : Bool) : Bool :=
  !s.fab.failedLinks.contains (10 * ((s.last.phys h.1 h.2).getD 0) + q)
    && !s.passesStop (if out then s.weltPath h a (0, 0) else s.weltPath a h (0, 0))

/-- Of two attachment hubs, the one with less H, then the lower x, then the lower y (R222). -/
def nearerHub (lcols : Nat) (a g h : Nat × Nat) : Nat × Nat :=
  let dh := hopDist lcols a h
  let dg := hopDist lcols a g
  if dh < dg || (decide (dh = dg) && (decide (h.1 < g.1) || (decide (h.1 = g.1) && decide (h.2 < g.2)))) then h else g

/-- The logical attachment hub of rim stack st for region a (R222), of those R212 lets the fabric manager choose. -/
def State.rimHub (s : State) (a : Nat × Nat) (st : Nat) (out : Bool) : Nat × Nat :=
  let hubs := rimHubs s.last.lcols st
  let clear := hubs.filter fun h => s.attachOk a h (weltStub (.rim st)) out
  match (if clear.isEmpty then hubs else clear) with
  | [] => (0, 0)
  | h :: t => t.foldl (nearerHub s.last.lcols a) h

/-- The hub and stub of the rim stack of address a nearest to logical region (x, y) (R222). -/
def State.rimPlace (s : State) (x y a : Nat) : Nat × Nat :=
  let st := a / (96 * 2 ^ 30)
  let h := s.rimHub (x, y) st false
  ((s.last.phys h.1 h.2).getD 0, weltStub (.rim st))

/-- R175: a rim request outside the allocation is refused and logged with reason 5; EKEY reads 0xFFFF, the welt's own key. -/
def State.rimRefused (s : State) (key src x y a : Nat) : State :=
  let st := a / (96 * 2 ^ 30)
  let (r, q) := s.rimPlace x y a
  s.violation 5 key src (s.weltId (.rim st)) 0xFFFF r q

end Sys2Proof.Machine
end

