-- ==== Sys2Proof/Machine/Mov.lean ====
section
/-! DEFINITION. The MOV slot (R156, R157, R166 to R175). -/

namespace Sys2Proof.Machine

/-- A failed address check: INFO 0x01F for a local address, 0x03F for a remote or rim one (R156). -/
def boundLocal (bad : Bool) : Option Det := if bad then some { code := 1, info := 0x01F } else none
def boundRemote (bad : Bool) : Option Det := if bad then some { code := 1, info := 0x03F } else none

/-- The first failure of a list of checks. -/
def firstDet (l : List (Option Det)) : Option Det := l.findSome? id

/-- A[AB] + sext(OFF, 16), modulo 2^64. -/
def offsetAddr (c : Core) (ab off : Nat) : Nat := (c.rA ab + BitVec.ofInt 64 (signed 16 off)).toNat

/-! ### LDA and STA (R167) -/

/-- Is this 64-bit access outside its space? PSM counts accumulators. -/
def scalarBad (sp a : Nat) : Bool := if sp = 2 then addrBad a 1 1 32768 else addrBad a 8 8 (spaceSize sp)

def scalarAddr (c : Core) (o : BitVec 46) : Nat := offsetAddr c (field o 32 28) (field o 25 10)

def checkLda (c : Core) (o : BitVec 46) : Option Det := boundLocal (scalarBad (field o 27 26) (scalarAddr c o))

/-- The 64 bits LDA takes: an accumulator's integer from PSM, else eight bytes little-endian. -/
def scalarRead (c : Core) (sp a : Nat) : Long :=
  if sp = 2 then BitVec.ofNat 64 (twos 64 (c.acc a).val) else BitVec.ofNat 64 (leNat (c.readSpace sp a 8))

def Core.movBusy (c : Core) (n : Nat) : Core := { c with busyMov := c.now + n }

def startLda (c : Core) (o : BitVec 46) : Core :=
  (c.push (c.now + 3) 1 (.regA (field o 37 33) (scalarRead c (field o 27 26) (scalarAddr c o)))).movBusy 1

def checkSta (c : Core) (o : BitVec 46) : Option Det := boundLocal (scalarBad (field o 27 26) (scalarAddr c o))

def startSta (c : Core) (o : BitVec 46) : Core :=
  let v := c.rA (field o 37 33)
  let a := scalarAddr c o
  (c.push (c.now + 3) 1
    (if field o 27 26 = 2 then .accWrite a [{ val := v.toInt, sat := false }] else .bytes (field o 27 26) a (leBytes 8 v.toNat))).movBusy 1

/-! ### LDV and STV (R168) -/

def rowElem (c : Core) (ar : Nat) : Nat := field (c.rA ar) 15 0
def rowNumber (c : Core) (ar : Nat) : Nat := field (c.rA ar) 31 16

def checkRow (c : Core) (o : BitVec 46) : Option Det :=
  let t := field o 32 29
  let d := c.rT t
  let e0 := rowElem c (field o 28 24)
  let row : Operand :=
    { t := t, d := d, spads := [1, 2], psm := false,
      place := decide (10 ≤ dFmt d) && decide (dFmt d ≤ 14) && decide (dLay d = 0), shape := true, whole := false, pair := true,
      shift := 0, bound := decide (e0 % 64 = 0) && decide (e0 + 63 ≤ dCols d) && decide (rowNumber c (field o 28 24) ≤ dRows d) }
  checkOperands [row]

def checkLdv (c : Core) (o : BitVec 46) : Option Det := checkRow c o
def checkStv (c : Core) (o : BitVec 46) : Option Det := checkRow c o

/-- Byte address of element e0 of row y. -/
def rowAddr (d : BitVec 128) (y e0 : Nat) : Nat := dBase d + y * dStride d + e0 * fmtWidth (dFmt d) / 8

/-- An element loaded into a lane. -/
def loadElem (d : BitVec 128) (code : Nat) : Word :=
  match dFmt d with
  | 10 => if dScale d = 255 then 0 else toF32 ((decode e4m3 code).mul (.fin false 1 ((dScale d : Int) - 126)))
  | 11 => if dScale d = 255 then 0 else toF32 ((decode e5m2 code).mul (.fin false 1 ((dScale d : Int) - 126)))
  | 12 => toF32 (decode bf16 code)
  | 13 => toF32 (decode binary16 code)
  | _ => BitVec.ofNat 32 code

/-- A lane stored as an element. -/
def storeElem (d : BitVec 128) (w : Word) : Nat :=
  let down := (f32 w).mul (.fin false 1 (126 - (dScale d : Int)))
  match dFmt d with
  | 10 => if dScale d = 255 then 0 else encode e4m3 down
  | 11 => if dScale d = 255 then 0 else encode e5m2 down
  | 12 => encode bf16 (f32 w)
  | 13 => encode binary16 (f32 w)
  | _ => w.toNat

/-- Scratchpad space of SPAD 1 or 2. -/
def spadSpace (d : BitVec 128) : Nat := dSpad d - 1

def wordsAt (bs : Bytes) (w : Nat) : List Nat := (pieces w bs).map leNat

def startLdv (c : Core) (o : BitVec 46) : Core :=
  let d := c.rT (field o 32 29)
  let a := rowAddr d (rowNumber c (field o 28 24)) (rowElem c (field o 28 24))
  let w := fmtWidth (dFmt d) / 8
  let n := if dFmt d = 14 then 32 else 64
  let vals := (wordsAt (c.readSpace (spadSpace d) a (n * w)) w).map (loadElem d)
  let lanes := (List.range n).zip vals
  if dFmt d = 14 then
    ((c.push (c.now + 4) 1 (.lanes (field o 37 33) lanes)).push (c.now + 1) 1
      (.micro (.ldvHalf (field o 37 33) (spadSpace d) (a + 128)))).movBusy 2
  else (c.push (c.now + 3) 1 (.lanes (field o 37 33) lanes)).movBusy 1

/-- Lanes 32 to 63 of a binary32 row, sampled in the second issue cycle. -/
def runLdvHalf (c : Core) (vd sp a : Nat) : Core :=
  let vals := (wordsAt (c.readSpace sp a 128) 4).map fun x => BitVec.ofNat 32 x
  c.push (c.now + 3) 1 (.lanes vd (((List.range 32).map (32 + ·)).zip vals))

def startStv (c : Core) (o : BitVec 46) : Core :=
  let d := c.rT (field o 32 29)
  let a := rowAddr d (rowNumber c (field o 28 24)) (rowElem c (field o 28 24))
  let w := fmtWidth (dFmt d) / 8
  let data := (c.lanes (field o 37 33)).flatMap fun x => leBytes w (storeElem d x)
  if dFmt d = 14 then
    ((c.push (c.now + 3) 1 (.bytes (spadSpace d) a (data.take 128))).push (c.now + 4) 1
      (.bytes (spadSpace d) (a + 128) (data.drop 128))).movBusy 2
  else (c.push (c.now + 3) 1 (.bytes (spadSpace d) a data)).movBusy 1

/-! ### TLD (R166) -/

def tldAddr (c : Core) (o : BitVec 46) : Nat := offsetAddr c (field o 33 29) (field o 28 13)

def checkTld (c : Core) (o : BitVec 46) : Option Det := boundLocal (addrBad (tldAddr c o) 16 16 (spaceSize 0))

def startTld (c : Core) (o : BitVec 46) : Core :=
  (c.push (c.now + 2) 1 (.desc (field o 37 34) (BitVec.ofNat 128 (leNat (memRead c.am (tldAddr c o) 16))))).movBusy 1

/-! ### MCP (R169) -/

def checkMcp (c : Core) (o : BitVec 46) : Option Det :=
  let n := 128 * (field o 25 20 + 1)
  boundLocal (addrBad (c.rA (field o 37 33)).toNat n 64 (spaceSize (field o 32 32))
    || addrBad (c.rA (field o 31 27)).toNat n 64 (spaceSize (field o 26 26)))

def startMcp (c : Core) (o : BitVec 46) : Core :=
  let n := field o 25 20 + 1
  let src := (c.rA (field o 37 33)).toNat
  let dst := (c.rA (field o 31 27)).toNat
  let flit := fun (x : Core) (i : Nat) =>
    x.push (c.now + i) 1 (.micro (.mcpFlit (field o 32 32) (src + 128 * i) (field o 26 26) (dst + 128 * i)))
  ((List.range n).foldl flit c).movBusy n

def runMcpFlit (c : Core) (ss src ds dst : Nat) : Core := c.push (c.now + 3) 1 (.bytes ds dst (c.readSpace ss src 128))

/-! ### The vertical port (R170 to R172) -/

def sliceRow (c : Core) (o : BitVec 46) : Nat := field (c.rA (field o 37 33)) 15 0

def checkVrd (c : Core) (o : BitVec 46) : Option Det :=
  let k := field o 32 27 + 1
  firstDet [boundLocal (decide (65536 < sliceRow c o + k)),
    if flag o 26 then (if k % 2 = 1 then some { code := 1, info := 0x040 } else none)
    else boundLocal (addrBad (c.rA (field o 25 21)).toNat (1024 * k) 64 (spaceSize 1))]

def startVrd (c : Core) (o : BitVec 46) : Core :=
  let k := field o 32 27 + 1
  let r0 := sliceRow c o
  let dst := fun (j : Nat) =>
    if flag o 26 then (field o 20 19 + j / 2) % 4 * 2048 + j % 2 * 1024 else (c.rA (field o 25 21)).toNat + 1024 * j
  let row := fun (x : Core) (j : Nat) => x.push (c.now + 1 + j) 1 (.micro (.vrdRow (flag o 26) (r0 + j) (dst j)))
  { ((List.range k).foldl row c).movBusy 1 with busyPort := c.now + k }

/-- Row sampled at t + 1 + j: in the WSB from t + 22 + j, in a fill slot from t + 23 + j (R134, R171). -/
def runVrdRow (c : Core) (toFill : Bool) (row dst : Nat) : Core :=
  let d := memRead c.slice (1024 * row) 1024
  if toFill then c.push (c.now + 22) 1 (.fill dst d) else c.push (c.now + 21) 1 (.bytes 1 dst d)

def checkVwr (c : Core) (o : BitVec 46) : Option Det :=
  let k := field o 32 27 + 1
  firstDet [boundLocal (decide (65536 < sliceRow c o + k)),
    boundLocal (addrBad (c.rA (field o 25 21)).toNat (1024 * k) 64 (spaceSize (field o 26 26)))]

def startVwr (c : Core) (o : BitVec 46) : Core :=
  let k := field o 32 27 + 1
  let src := (c.rA (field o 25 21)).toNat
  let quarter := fun (x : Core) (i : Nat) =>
    x.push (c.now + i) 1 (.micro (.vwrQuarter (field o 26 26) (src + 256 * i) (sliceRow c o + i / 4) (i % 4)))
  { ((List.range (4 * k)).foldl quarter c).movBusy 1 with busyPort := c.now + 4 * k }

/-- Quarter i of a row, sampled at t + 4j + i; the row is in the slice from t + 4j + 4. -/
def runVwrQuarter (c : Core) (sp src row i : Nat) : Core :=
  c.push (c.now + 4 - i) 1 (.slice (1024 * row + 256 * i) (c.readSpace sp src 256))

/-! ### Spools (R173 to R175, R197) -/

def checkSpool (c : Core) (o : BitVec 46) : Option Det :=
  let n := 1024 * (field o 22 17 + 1)
  firstDet [boundRemote (addrBad (c.rA (field o 33 29)).toNat n 64 (1536 * 2 ^ 30)),
    boundLocal (addrBad (c.rA (field o 28 24)).toNat n 64 (spaceSize (field o 23 23))),
    if 8 ≤ (c.spools.filter fun q => decide (q.sp = field o 37 34)).length then some { code := 6, info := field o 37 34 } else none]

def checkSpr (c : Core) (o : BitVec 46) : Option Det := checkSpool c o
def checkSpw (c : Core) (o : BitVec 46) : Option Det := checkSpool c o

/-- The request of a SPR or SPW. -/
def spoolReq (c : Core) (o : BitVec 46) (write allowed : Bool) : SpoolReq :=
  let k := field o 22 17 + 1
  let la := (c.rA (field o 28 24)).toNat
  { sp := field o 37 34, write := write, space := field o 23 23, localAddr := la, rim := (c.rA (field o 33 29)).toNat, kib := k,
    ctr := if flag o 12 then some (field o 16 13) else none, refused := !allowed,
    data := if write then c.readSpace (field o 23 23) la (1024 * k) else [], old := [] }

/-- Issue a spool request: an entry, refused and logged outside the allocation; a due item in stall mode (R204). -/
def State.startSpool (s : State) (key : Nat) (o : BitVec 46) (write : Bool) : State :=
  let c := s.coreAt key
  let p := c.part.getD 64
  let a := (c.rA (field o 33 29)).toNat
  let ok := s.rimAllowed p a (1024 * (field o 22 17 + 1)) write
  let q := spoolReq c o write ok
  let s := s.setCoreAt key (Core.movBusy { c with spools := c.spools ++ [q] } 1)
  let x := s.part p
  if !ok then
    let (lx, ly) := (s.last.logical (key / 17)).getD (0, 0)
    s.rimRefused x.key (s.coreId key) lx ly a
  else if x.stall then
    let item : DueItem := { kind := .spool (key / 17) (key % 17) q, due := x.epoch + x.rimDue, ready := false, late := false }
    s.setPart p { x with due := x.due ++ [item] }
  else s

end Sys2Proof.Machine
end

