-- ==== Sys2Proof/Machine/Ctl.lean ====
section
/-! DEFINITION. The CTL slot (R158 to R166, R182 to R184): scalars, predicates, the status word, counters, waits, branches,
loops, descriptors, stalls, halts and trace. -/

namespace Sys2Proof.Machine

/-- A result readable at t + 1. -/
def Core.setA (c : Core) (i : Nat) (v : Long) : Core := c.push (c.now + 1) 0 (.regA i v)
def Core.setP (c : Core) (i : Nat) (b : Bool) : Core := c.push (c.now + 1) 0 (.regP i b)

/-- AOP functions 0 to 12 (R158). -/
def aopFn (fn : Nat) (a b : Long) : Long :=
  match fn with
  | 0 => a + b
  | 1 => a - b
  | 2 => a &&& b
  | 3 => a ||| b
  | 4 => a ^^^ b
  | 5 => a <<< (b.toNat % 64)
  | 6 => a >>> (b.toNat % 64)
  | 7 => a.sshiftRight (b.toNat % 64)
  | 8 => a * b
  | 9 => if a.toInt ≤ b.toInt then a else b
  | 10 => if a.toInt ≤ b.toInt then b else a
  | 11 => if a.toNat ≤ b.toNat then a else b
  | _ => if a.toNat ≤ b.toNat then b else a

def startAop (c : Core) (o : BitVec 46) : Core :=
  c.setA (field o 29 25) (aopFn (field o 14 11) (c.rA (field o 24 20)) (c.rA (field o 19 15)))

/-- AOPI functions (R158). -/
def aopiFn (fn : Nat) (a : Long) (imm : Nat) : Long :=
  let b := BitVec.ofInt 64 (signed 17 imm)
  match fn with
  | 0 => a + b
  | 1 => a &&& b
  | 2 => a ||| b
  | 3 => a ^^^ b
  | 4 => a <<< (imm % 64)
  | 5 => a >>> (imm % 64)
  | 6 => a.sshiftRight (imm % 64)
  | _ => (a <<< 16) ||| BitVec.ofNat 64 (imm % 65536)

def startAopi (c : Core) (o : BitVec 46) : Core :=
  c.setA (field o 29 25) (aopiFn (field o 19 17) (c.rA (field o 24 20)) (field o 16 0))

/-- CMP conditions (R159). -/
def cmpCond (cc : Nat) (a b : Long) : Bool :=
  match cc with
  | 0 => decide (a = b)
  | 1 => decide (a ≠ b)
  | 2 => decide (a.toInt < b.toInt)
  | 3 => decide (b.toInt ≤ a.toInt)
  | 4 => decide (a.toNat < b.toNat)
  | 5 => decide (b.toNat ≤ a.toNat)
  | 6 => decide (a &&& b ≠ 0)
  | _ => decide (a &&& b = 0)

def startCmp (c : Core) (o : BitVec 46) : Core :=
  let b := if flag o 18 then BitVec.ofInt 64 (signed 18 (field o 17 0)) else c.rA (field o 17 13)
  c.setP (field o 29 27) (cmpCond (field o 21 19) (c.rA (field o 26 22)) b)

/-- PLG functions 0 to 4 (R159). -/
def startPlg (c : Core) (o : BitVec 46) : Core :=
  let pa := xor (c.rP (field o 26 24)) (flag o 17)
  let pb := xor (c.rP (field o 23 21)) (flag o 16)
  c.setP (field o 29 27) (match field o 20 18 with
    | 0 => pa && pb
    | 1 => pa || pb
    | 2 => xor pa pb
    | 3 => pa
    | _ => c.sat)

/-- CSR (R160, R87). -/
def startCsr (c : Core) (o : BitVec 46) : Core :=
  let x := c.setA (field o 29 25) (BitVec.ofNat 64 c.csw.toNat)
  if flag o 24 then x.push (c.now + 1) 0 .satClear else x

/-! ### Counters and waits -/

/-- v of CCTL. -/
def cctlValue (c : Core) (o : BitVec 46) : Word :=
  if flag o 18 then BitVec.ofNat 32 (field o 17 0) else (c.rA (field o 23 19)).setWidth 32

def checkCctl (c : Core) (o : BitVec 46) : Option Det :=
  let n := field o 27 24
  if decide (field o 29 28 = 3) && decide ((c.rC n).toNat < (cctlValue c o).toNat) then some { code := 3, info := n } else none

def startCctl (c : Core) (o : BitVec 46) : Core :=
  let n := field o 27 24
  match field o 29 28 with
  | 0 => c.setA (field o 23 19) (BitVec.ofNat 64 (c.rC n).toNat)
  | 1 => c.push (c.now + 1) 0 (.ctrSet n (cctlValue c o))
  | 2 => c.push (c.now + 1) 0 (.ctrAdd n (cctlValue c o) false)
  | _ => c.push (c.now + 1) 0 (.ctrSub n (cctlValue c o))

/-- The threshold of a WAIT (R162). -/
def waitThreshold (c : Core) (o : BitVec 46) : Word :=
  if flag o 24 then BitVec.ofNat 32 (field o 18 0) else (c.rA (field o 23 19)).setWidth 32

def waitSatisfied (c : Core) (o : BitVec 46) : Bool := decide ((waitThreshold c o).toNat ≤ (c.rC (field o 29 26)).toNat)

def startWait (c : Core) (o : BitVec 46) : Core :=
  if flag o 25 then c.push (c.now + 1) 0 (.ctrSub (field o 29 26) (waitThreshold c o)) else c

/-! ### Branches and loops (R163 to R165) -/

/-- Link and POP of a taken branch; the target is `nextPc`'s. -/
def startBr (c : Core) (o : BitVec 46) : Core :=
  let x := if field o 17 13 = 0 then c else c.setA (field o 17 13) (BitVec.ofNat 64 (c.pc + 1))
  { x with loops := x.loops.drop (field o 6 5) }

def brTarget (c : Core) (o : BitVec 46) : Nat := if flag o 12 then field (c.rA (field o 11 7)) 11 0 else field o 29 18

def loopCount (c : Core) (o : BitVec 46) : Nat := if flag o 17 then field o 11 0 else field (c.rA (field o 16 12)) 31 0

def startLoop (c : Core) (o : BitVec 46) : Core :=
  let n := loopCount c o
  let e := field o 29 18
  if n = 0 then c
  else if e ≤ c.pc || c.loops.any (fun l => decide (l.last = c.pc)) then c.overlap
  else
    let c := if 4 ≤ c.loops.length then Core.overlap { c with loops := c.loops.take 3 } else c
    { c with loops := { start := c.pc + 1, last := e, remaining := n } :: c.loops }

/-- The back-edge walk of R165 over the loop stack, innermost first: the next bundle and the stack left. -/
def backEdge (pc : Nat) : List LoopLevel → Nat × List LoopLevel
  | [] => (pc + 1, [])
  | l :: t =>
    if l.last = pc then
      if 1 < l.remaining then (l.start, { l with remaining := l.remaining - 1 } :: t) else backEdge pc t
    else (pc + 1, l :: t)

/-! ### Descriptors (R166) -/

def startTset (c : Core) (o : BitVec 46) : Core :=
  c.push (c.now + 2) 0 (.desc (field o 29 26) (c.rA (field o 25 21) ++ c.rA (field o 20 16)))

def startTadj (c : Core) (o : BitVec 46) : Core :=
  let t := field o 29 26
  c.push (c.now + 2) 0 (.descBase t (BitVec.ofNat 26 (dBase (c.rT t) + (c.rA (field o 25 21)).toNat)))

/-! ### Stall, halt and trace (R182 to R184) -/

/-- A partition-wide announcement of D stalled cycles from 64 wall cycles on (R203). -/
def Part.announce (x : Part) (d : Nat) : Part :=
  if x.stall && decide (0 < d) then { x with stalls := x.stalls ++ [(x.wall + 64, x.wall + 63 + d)] } else x

/-- Ask for a detour of a group (R206): STLs of one group in one epoch form one, with the largest D. -/
def addDetour (n g d : Nat) : List (Nat × Nat × Nat) → List (Nat × Nat × Nat)
  | [] => [(n, g, d)]
  | (m, h, e) :: t =>
    if m = n ∧ h = g then (m, h, max e d) :: t
    else if m < n ∨ (m = n ∧ h < g) then (m, h, e) :: addDetour n g d t
    else (n, g, d) :: (m, h, e) :: t

/-- STL: an announcement, or a detour for a core whose region is in a detour group. -/
def State.startStl (s : State) (key : Nat) (o : BitVec 46) : State :=
  match (s.coreAt key).part with
  | none => s
  | some p =>
    let x := s.part p
    let d := field o 29 14
    let g := (s.region (key / 17)).dgroup
    if !x.stall || decide (d = 0) then s
    else if g = 0 then s.setPart p (x.announce d)
    else s.setPart p { x with detours := addDetour x.epoch g d x.detours }

/-- HALT (R183). -/
def startHalt (c : Core) : Core := { c with phase := .ended }

/-- The 32 bytes of Table 06-7. -/
def traceRecord (time : Nat) (c : Core) (w : Nat) (o : BitVec 46) : Bytes :=
  leBytes 8 time ++ leBytes 2 (field o 24 9) ++ leBytes 1 (c.logical.getD 0) ++ [0] ++ leBytes 2 (c.pc % 4096) ++ leBytes 2 w
    ++ leBytes 8 (c.rA (field o 29 25)).toNat ++ zeros 8

/-- TRC: record w to entry w mod 512, when the image enables tracing. -/
def State.startTrc (s : State) (key : Nat) (o : BitVec 46) : State :=
  let c := s.coreAt key
  match c.part with
  | none => s
  | some p =>
    if (s.part p).traceOn then
      s.modRegion (key / 17) fun g =>
        { g with trace := memWrite g.trace (32 * (g.traceWr % 512)) (traceRecord s.now c g.traceWr o), traceWr := (g.traceWr + 1) % 65536 }
    else s

end Sys2Proof.Machine
end

