-- ==== Sys2Proof/Machine/Net.lean ====
section
/-! DEFINITION. The NET slot (R176 to R181): checks at issue, and the flit each instruction puts in the injection queue. -/

namespace Sys2Proof.Machine

/-- The address word's identifier and remote address (R176). -/
def awId (a : Long) : Nat := field a 23 0
def awAddr (a : Long) : Nat := field a 55 32

/-- Flits in a core's injection queue (R178). -/
def State.injectQueue (s : State) (key : Nat) : List Flit :=
  s.fab.flits.filter fun f => decide (f.loc = .inject (key / 17) (key % 17))

/-- Is the identifier a live endpoint that is no core? Its chapter, not Table 06-4, then gives its remote address a meaning
(R176); DEDUCED, assumption 11. -/
def State.notCore (s : State) (id : Nat) : Bool :=
  match s.lookup id with
  | some e => (match e.port with
    | .core _ => false
    | _ => true)
  | none => false

def netBytes (o : BitVec 46) : Nat := 16 * (field o 24 22 + 1)

def checkSnd (s : State) (key : Nat) (o : BitVec 46) : Option Det :=
  let c := s.coreAt key
  let n := netBytes o
  let aw := c.rA (field o 31 27)
  firstDet [boundLocal (addrBad (c.rA (field o 37 33)).toNat n 16 (spaceSize (field o 32 32))),
    if s.notCore (awId aw) then none else boundRemote (addrBad (awAddr aw) n 16 (spaceSize (field o 26 25)))]

/-- A table index beyond the partition's table (R156). -/
def indexRefused (bad : Bool) : Option Det := if bad then some { code := 2, info := 0x70 } else none

def State.corePart (s : State) (key : Nat) : Part := s.part ((s.coreAt key).part.getD 64)

def checkMcs (s : State) (key : Nat) (o : BitVec 46) : Option Det :=
  let c := s.coreAt key
  let n := netBytes o
  firstDet [indexRefused (decide ((s.corePart key).nBridles ≤ field o 15 6)),
    boundLocal (addrBad (c.rA (field o 37 33)).toNat n 16 (spaceSize (field o 32 32))),
    boundRemote (addrBad (field (c.rA (field o 31 27)) 23 0) n 16 (spaceSize (field o 26 25)))]

/-- Does the reduction tree list this core as a contributor at its own hub? -/
def State.contributes (s : State) (key tree : Nat) : Bool :=
  match (s.coreAt key).logical with
  | none => false
  | some n => s.fab.trees.any fun t =>
      decide (t.r = key / 17) && decide (t.key = (s.corePart key).key) && decide (t.index = tree) && t.inputs.contains (.core n)

def rdsRow (c : Core) (o : BitVec 46) : Nat := field (c.rA (field o 33 29)) 8 0
def rdsDest (c : Core) (o : BitVec 46) : Nat := field (c.rA (field o 33 29)) 46 32

def checkRds (s : State) (key : Nat) (o : BitVec 46) : Option Det :=
  let c := s.coreAt key
  let t := field o 37 34
  let tp := opTp c t 0 (decide (rdsRow c o ≤ dRows (c.rT t)) && decide (16 * field o 28 27 + 15 ≤ dCols (c.rT t)))
  let tree := field o 26 17
  firstDet [if tp.refused = 0 then none else some { code := 2, info := 16 * tp.refused + t },
    indexRefused (decide ((s.corePart key).nTrees ≤ tree) || !s.contributes key tree),
    if tp.boundBad then some { code := 1, info := t } else none,
    boundRemote (addrBad (rdsDest c o) 16 16 32768)]

def checkSig (s : State) (key : Nat) (o : BitVec 46) : Option Det :=
  indexRefused (flag o 32 && decide ((s.corePart key).nBridles ≤ field o 31 22))

/-- A flit of a core, with its partition's key attached. -/
def State.coreFlit (s : State) (key : Nat) (kind : FlitKind) : Flit :=
  { kind := kind, src := s.coreId key, dest := 0, key := (s.corePart key).key, loc := .inject (key / 17) (key % 17), data := [],
    accs := [], space := 0, raddr := 0, cn := 0, ce := false, index := 0, left := none, headSince := none,
    landing := if (s.corePart key).stall then some (s.coreAt key).now else none, stalled := false,
    sentAt := (s.corePart key).epoch }

def State.inject (s : State) (f : Flit) : State := { s with fab := { s.fab with flits := s.fab.flits ++ [f] } }

/-- INC: both address registers advance past the bytes sent, at t + 1. `sh` places the remote address in its register. -/
def Core.incAddrs (c : Core) (o : BitVec 46) (sh : Nat) : Core :=
  if flag o 16 then
    let n := netBytes o
    let as := field o 37 33
    let ae := field o 31 27
    (c.push (c.now + 1) 4 (.regA as (c.rA as + BitVec.ofNat 64 n))).push (c.now + 1) 4 (.regA ae (c.rA ae + BitVec.ofNat 64 (n * 2 ^ sh)))
  else c

def State.startSnd (s : State) (key : Nat) (o : BitVec 46) : State :=
  let c := s.coreAt key
  let aw := c.rA (field o 31 27)
  let f := { s.coreFlit key .send with
    dest := awId aw, raddr := awAddr aw, space := field o 26 25, cn := field o 21 18, ce := flag o 17,
    data := c.readSpace (field o 32 32) (c.rA (field o 37 33)).toNat (netBytes o) }
  (s.inject f).setCoreAt key (c.incAddrs o 32)

def State.startMcs (s : State) (key : Nat) (o : BitVec 46) : State :=
  let c := s.coreAt key
  let f := { s.coreFlit key .multicast with
    raddr := field (c.rA (field o 31 27)) 23 0, space := field o 26 25, cn := field o 21 18, ce := flag o 17, index := field o 15 6,
    data := c.readSpace (field o 32 32) (c.rA (field o 37 33)).toNat (netBytes o) }
  (s.inject f).setCoreAt key (c.incAddrs o 0)

/-- RDS: accumulators 16G to 16G + 15 of row r, each with its saturated state, towards index d. -/
def State.startRds (s : State) (key : Nat) (o : BitVec 46) : State :=
  let c := s.coreAt key
  let i := psmRow (c.rT (field o 37 34)) 0 (rdsRow c o) + 16 * field o 28 27
  s.inject { s.coreFlit key .contribution with
    accs := (List.range 16).map fun k => c.acc (i + k), raddr := rdsDest c o, index := field o 26 17, cn := field o 16 13, ce := flag o 12 }

def State.startSig (s : State) (key : Nat) (o : BitVec 46) : State :=
  let f := s.coreFlit key (if flag o 32 then .signalMulti else .signal)
  s.inject { f with dest := awId ((s.coreAt key).rA (field o 37 33)), index := field o 31 22, cn := field o 21 18, ce := true }

end Sys2Proof.Machine
end

