-- ==== Sys2Proof/Machine/Issue.lean ====
section
/-! DEFINITION. One unstretched cycle of a core (R106): what lands, what issues, what is sampled; and the wall cycle of a
partition in lockstep (R200). -/

namespace Sys2Proof.Machine

/-! ### The bundle (R101 to R105) -/

/-- Is the opcode, with its function code, defined in its slot (R128, R155)? NOP is not. -/
def opDefined (i : SlotIns) : Bool :=
  match i.slot with
  | 0 => decide (1 ≤ i.op) && decide (i.op ≤ 14) && !(decide (i.op = 1) && decide (13 ≤ field i.o 14 11))
      && !(decide (i.op = 4) && decide (5 ≤ field i.o 20 18))
  | 1 => decide (1 ≤ i.op) && decide (i.op ≤ 10)
  | 2 => decide (1 ≤ i.op) && decide (i.op ≤ 6)
  | 3 => (decide (1 ≤ i.op) && decide (i.op ≤ 13)) || (decide (16 ≤ i.op) && decide (i.op ≤ 19)) || decide (i.op = 24)
      || (decide (32 ≤ i.op) && decide (i.op ≤ 34))
  | _ => decide (1 ≤ i.op) && decide (i.op ≤ 4)

/-- Lowest bit and width of a slot in the bundle (Table 04-1), and its enable bit in the header. -/
def slotLow (k : Nat) : Nat :=
  match k with
  | 0 => 8
  | 1 => 48
  | 2 => 96
  | 3 => 152
  | _ => 208

def slotWidth (k : Nat) : Nat :=
  match k with
  | 0 => 40
  | 1 => 48
  | 2 => 56
  | 3 => 56
  | _ => 48

/-- The raw slot k of a bundle: NEG, PSEL and the instruction. -/
def slotOf (b : BitVec 256) (k : Nat) : Bool × Nat × SlotIns :=
  let l := slotLow k
  let w := slotWidth k
  (flag b (l + w - 7), field b (l + w - 8) (l + w - 10),
    { slot := k, op := field b (l + w - 1) (l + w - 6), o := BitVec.ofNat 46 (field b (l + w - 11) l) })

/-- The slots of a bundle that execute, in slot order (R102 to R105), and its TB bit. -/
def parseBundle (c : Core) (b : BitVec 256) : List SlotIns × Bool :=
  ((List.range 5).filterMap fun k =>
    let (neg, psel, i) := slotOf b k
    if flag b (7 - k) && xor (c.rP psel) neg && opDefined i then some i else none, flag b 2)

/-- The bundle at pc, as the fetch four cycles before issue saw it (R40); `none` at or beyond the image length (R39). -/
def Core.fetch (c : Core) : Option (List SlotIns × Bool) :=
  if c.imLen ≤ c.pc then none
  else some (parseBundle c (BitVec.ofNat 256 (leNat (memRead c.imSeen (32 * c.pc) 32))))

/-! ### Checks and starts by slot -/

def checkIns (s : State) (key : Nat) (i : SlotIns) : Option Det :=
  let c := s.coreAt key
  match i.slot with
  | 0 => if i.op = 6 then checkCctl c i.o else none
  | 1 => (match i.op with
    | 1 => checkLda c i.o
    | 2 => checkSta c i.o
    | 3 => checkLdv c i.o
    | 4 => checkStv c i.o
    | 5 => checkTld c i.o
    | 6 => checkMcp c i.o
    | 7 => checkVrd c i.o
    | 8 => checkVwr c i.o
    | 9 => checkSpr c i.o
    | _ => checkSpw c i.o)
  | 2 => (match i.op with
    | 1 => checkDmm c i.o
    | 2 => checkDmmt c i.o
    | 3 => checkDout c i.o
    | 4 => checkDadn c i.o
    | 5 => checkDaup c i.o
    | _ => checkDrsc c i.o)
  | 3 => (match i.op with
    | 10 => checkVacc c i.o
    | 24 => checkVqnt c i.o
    | 32 => checkAsmx c i.o
    | 33 => checkAend c i.o
    | 34 => checkArec c i.o
    | _ => none)
  | _ => (match i.op with
    | 1 => checkSnd s key i.o
    | 2 => checkMcs s key i.o
    | 3 => checkRds s key i.o
    | _ => checkSig s key i.o)

def startCtl (c : Core) (op : Nat) (o : BitVec 46) : Core :=
  match op with
  | 1 => startAop c o
  | 2 => startAopi c o
  | 3 => startCmp c o
  | 4 => startPlg c o
  | 5 => startCsr c o
  | 6 => startCctl c o
  | 7 => startWait c o
  | 8 => startBr c o
  | 9 => startLoop c o
  | 10 => startTset c o
  | 11 => startTadj c o
  | _ => startHalt c

def startMov (c : Core) (op : Nat) (o : BitVec 46) : Core :=
  match op with
  | 1 => startLda c o
  | 2 => startSta c o
  | 3 => startLdv c o
  | 4 => startStv c o
  | 5 => startTld c o
  | 6 => startMcp c o
  | 7 => startVrd c o
  | _ => startVwr c o

def startDot (c : Core) (op : Nat) (o : BitVec 46) : Core :=
  match op with
  | 1 => startDmm c o
  | 2 => startDmmt c o
  | 3 => startDout c o
  | 4 => startDadn c o
  | 5 => startDaup c o
  | _ => startDrsc c o

def startVec (q : Nat) (c : Core) (op : Nat) (o : BitVec 46) : Core :=
  match op with
  | 1 => startVfma c o
  | 2 => startVadd c o
  | 3 => startVmul c o
  | 4 => startVmin c o
  | 5 => startVmax c o
  | 6 => startVcmp c o
  | 7 => startVsel c o
  | 8 => startVbrl c o
  | 9 => startVcvt c o
  | 10 => startVacc c o
  | 11 => startVrot c o
  | 12 => startVrmax c o
  | 13 => startVrsum c o
  | 16 => startVexp q c o
  | 17 => startVrcp q c o
  | 18 => startVrsq q c o
  | 19 => startVact q c o
  | 24 => startVqnt c o
  | 32 => startAsmx c o
  | 33 => startAend q c o
  | _ => startArec c o

/-- The quality mode a core computes in. -/
def State.coreMode (s : State) (key : Nat) : Nat := (s.corePart key).qmode

def State.startIns (s : State) (key : Nat) (i : SlotIns) : State :=
  match i.slot with
  | 0 => (match i.op with
    | 12 => s.startStl key i.o
    | 14 => s.startTrc key i.o
    | _ => s.modCoreAt key fun c => startCtl c i.op i.o)
  | 1 => (match i.op with
    | 9 => s.startSpool key i.o false
    | 10 => s.startSpool key i.o true
    | _ => s.modCoreAt key fun c => startMov c i.op i.o)
  | 2 => s.modCoreAt key fun c => startDot c i.op i.o
  | 3 => s.modCoreAt key fun c => startVec (s.coreMode key) c i.op i.o
  | _ => (match i.op with
    | 1 => s.startSnd key i.o
    | 2 => s.startMcs key i.o
    | 3 => s.startRds key i.o
    | _ => s.startSig key i.o)

/-- Is the instruction's unit occupied (R120, R170)? -/
def Core.occupied (c : Core) (i : SlotIns) : Bool :=
  match i.slot with
  | 1 => decide (c.now < c.busyMov) || (decide (7 ≤ i.op) && decide (i.op ≤ 8) && decide (c.now < c.busyPort))
  | 2 => decide (c.now < c.busyDot)
  | 3 => decide (c.now < c.busyVec)
  | _ => false

/-- The bundle after the one at pc: its index, the cycles to its issue, and the loop stack (R165). -/
def nextPc (c : Core) (ops : List SlotIns) : Nat × Nat × List LoopLevel :=
  match ops.find? fun i => decide (i.slot = 0) with
  | some i =>
    if i.op = 8 then (brTarget c i.o, 4, c.loops)
    else if i.op = 9 ∧ loopCount c i.o = 0 then (field i.o 29 18 + 1, 4, c.loops)
    else
      let (p, l) := backEdge c.pc c.loops
      (p, 1, l)
  | none =>
    let (p, l) := backEdge c.pc c.loops
    (p, 1, l)

/-! ### Detections (R107, R124) -/

/-- A detection: the record, the stop, and the job-fatal fault of source 30, end reason 3. -/
def State.detect (s : State) (key slot code pc info : Nat) : State :=
  let s := s.modCoreAt key fun c =>
    let c := c.record slot code pc info
    if c.phase = .running then { c with phase := .stopped } else c
  s.jobFatal (s.coreAt key).part 30 3 (coreLocus key)

/-! ### Issue (R106) -/

/-- Start every executed slot, discarding those whose unit is occupied. -/
def State.startAll (s : State) (key : Nat) : List SlotIns → State
  | [] => s
  | i :: t =>
    if (s.coreAt key).occupied i then (s.modCoreAt key Core.overlap).startAll key t else (s.startIns key i).startAll key t

/-- Hold the bundle for this cycle; the cycle in which the limit is reached is a wait timeout (R114, R117). -/
def State.holdBundle (s : State) (key slot info limit : Nat) : State :=
  let h := (s.coreAt key).hold + 1
  let s := s.modCoreAt key fun c => { c with hold := h }
  if limit ≤ h then s.detect key slot 4 (s.coreAt key).pc info else s

/-- Does a wait of these slots hold the bundle? -/
def heldWait (c : Core) (ops : List SlotIns) : Option SlotIns :=
  ops.find? fun i => decide (i.slot = 0) && decide (i.op = 7) && !waitSatisfied c i.o

/-- The first failing check, in slot order, of the slots whose unit is free. -/
def State.failing (s : State) (key : Nat) (ops : List SlotIns) : Option (SlotIns × Det) :=
  ops.findSome? fun i => if (s.coreAt key).occupied i then none else (checkIns s key i).map fun d => (i, d)

/-- The job ends as completed when the last of its started cores has issued HALT (R345, R346). -/
def State.jobCompletes (s : State) (p : Option Nat) : State :=
  match p with
  | none => s
  | some p =>
    let x := s.part p
    if s.pstate p = 2 ∧ x.stopEpoch = none ∧ x.started ≠ [] ∧ (x.started.all fun k => decide ((s.coreAt k).phase = .ended)) = true then
      ((s.setFld (Reg.LDR_PART p) 19 16 1).setPart p { x with stopTime := some s.time }).setPState p 3
    else s

/-- Issue the executed slots of the bundle at pc. With TB and a stop pending the core halts at the token boundary, also when the
bundle holds HALT (R102, R183). -/
def State.issue (s : State) (key : Nat) (ops : List SlotIns) (tb : Bool) : State :=
  let c := s.coreAt key
  let x := s.corePart key
  match heldWait c ops with
  | some w =>
    if x.stall then s.detect key 0 4 c.pc (field w.o 29 26) else s.holdBundle key 0 (field w.o 29 26) x.waitLimit
  | none =>
    if !x.stall && ops.any (fun i => decide (i.slot = 4)) && decide (32 ≤ (s.injectQueue key).length) then s.holdBundle key 4 0 x.waitLimit
    else
      match s.failing key ops with
      | some (i, d) => s.detect key i.slot d.code c.pc d.info
      | none =>
        let s := (s.modCoreAt key fun c => { c with hold := 0 }).startAll key ops
        let s := s.modCoreAt key fun e =>
          let (p, n, l) := nextPc { c with loops := e.loops } ops
          { e with pc := p, lastPc := c.pc, nextIssue := c.now + n, loops := l,
                   phase := if tb && x.stopPending && decide (e.phase = .running ∨ e.phase = .ended) then .haltedTB else e.phase }
        s.jobCompletes c.part

/-! ### Sampling -/

/-- A later cycle's work of an instruction already issued. -/
def runMicro (q : Nat) (c : Core) (m : Micro) : Core × Late :=
  match m with
  | .dmmPair job j v o tile => runDmmPair c job j v o tile
  | .dmmtPair job j v => runDmmtPair c job j v
  | .doutPair job i => runDoutPair c job i
  | .dadnRow job v => runDadnRow c job v
  | .daupRow job v => runDaupRow c job v
  | .ldvHalf vd sp a => (runLdvHalf c vd sp a, [])
  | .mcpFlit ss a ds d => (runMcpFlit c ss a ds d, [])
  | .vrdRow f row d => (runVrdRow c f row d, [])
  | .vwrQuarter sp a row i => (runVwrQuarter c sp a row i, [])
  | .asmxRow j k => runAsmxRow q c j k
  | .arecRow j k => runArecRow q c j k

/-- Work that samples in this cycle. -/
def Core.dueMicros (c : Core) : List Micro :=
  c.flight.filterMap fun f => match f.eff with
    | .micro m => if f.due ≤ c.now then some m else none
    | _ => none

def Core.dropMicros (c : Core) : Core :=
  { c with flight := c.flight.filter fun f => decide (c.now < f.due) || (match f.eff with
      | .micro _ => false
      | _ => true) }

def runMicros (q : Nat) (c : Core) : List Micro → Core × Late
  | [] => (c, [])
  | m :: t =>
    let (c, a) := runMicro q c m
    let (c, b) := runMicros q c t
    (c, a ++ b)

/-! ### Sealed rows (R238) -/

/-- Does the slice write touch resident weights of the region? Units of 4,096 rows; row of 1,024 bytes. -/
def State.sealedWrite (s : State) (key addr : Nat) : Bool :=
  (s.coreAt key).part.isSome && decide (addr / 1024 < 4096 * s.fld (Reg.RGNW_POOL (key / 17)) 23 19)

/-- Slice writes due now that Table 09-2 refuses: the rows keep their content, and each row is one fault. -/
def State.refuseSealed (s : State) (key : Nat) : State :=
  let c := s.coreAt key
  let bad := fun (f : Flight) => decide (f.due ≤ c.now) && (match f.eff with
    | .slice a _ => s.sealedWrite key a
    | _ => false)
  let rows := (c.flight.filter fun f => bad f && (match f.eff with
    | .slice a _ => decide (a % 1024 = 0)
    | _ => false)).length
  let s := s.setCoreAt key { c with flight := c.flight.filter fun f => !bad f }
  (List.range rows).foldl (fun s _ =>
    (s.bump (Reg.RGNW_MEM_ERR (key / 17)) 7 0).memFatal c.part (regionLocus (key / 17))) s

/-! ### The cycle -/

def State.raiseLate (s : State) (key : Nat) (pc : Nat) : Late → State
  | [] => s
  | (slot, code, info) :: t => (s.detect key slot code pc info).raiseLate key pc t

/-- Words that land now in the core's slice and scratchpads, for the injection of R430. -/
def State.injLanding (s : State) (key : Nat) : State :=
  if (s.region (key / 17)).injected = [] ∧ !(flag (s.rd Reg.FLT_INJ_CFG) 31) then s
  else (s.coreAt key).due.foldl (fun (s : State) e => match e with
    | .slice a d => s.injStore 0 (key / 17) (sliceWords (key % 17) a d.length)
    | .bytes sp a d => s.injStore 1 (key / 17) (scratchWords (key % 17) sp a d.length)
    | .accWrite i l => s.injStore 1 (key / 17) (scratchWords (key % 17) 2 (8 * i) (8 * l.length))
    | _ => s) s

/-- One unstretched cycle of core `key`. `get` is the bundle's slots, or none beyond the image. -/
def State.coreCycle (s : State) (key : Nat) (get : Core → Option (List SlotIns × Bool)) : State :=
  let s := (s.refuseSealed key).injLanding key
  let (c, crossed) := (s.coreAt key).land
  let before := c.lastPc
  let s := s.setCoreAt key c
  let s :=
    if c.phase = .running ∧ c.nextIssue ≤ c.now then
      match get c with
      | some (ops, tb) => s.issue key ops tb
      | none => s.detect key 5 5 c.pc 0
    else s
  let c := s.coreAt key
  let (c, late) := runMicros (s.coreMode key) c.dropMicros c.dueMicros
  let s := s.setCoreAt key { c with now := c.now + 1 }
  let s := crossed.foldl (fun s (o : Nat × Nat) => s.detect key o.1 3 (if o.1 = 0 then before else c.lastPc) (16 + o.2)) s
  s.raiseLate key c.lastPc late

/-! ### Lockstep (R200, R203, R206) -/

/-- Stretching in force in the wall cycle under way (R200). -/
def Part.stretchNow (x : Part) : Nat × Nat :=
  match (x.stretch.filter fun e => decide (e.1 ≤ x.wall)).reverse with
  | e :: _ => e.2
  | [] => (0, 0)

/-- Is cycle i of a group of n stretched at value v (R365, R413)? -/
def stretched (i n v : Nat) : Bool := decide (i * v / n < (i + 1) * v / n)

/-- Is the wall cycle under way stalled by an announcement? Groups are counted from wall cycle 0 of the job (assumption 22). -/
def Part.announced (x : Part) : Bool :=
  (x.stalls.any fun a => decide (a.1 ≤ x.wall) && decide (x.wall ≤ a.2))
    || stretched (x.wall % 8) 8 x.stretchNow.1 || stretched (x.wall % 256) 256 x.stretchNow.2

/-- Is it stalled for a core of detour group g? -/
def Part.stalledFor (x : Part) (g : Nat) : Bool :=
  x.announced || (match x.detourNow with
    | some (h, _) => decide (g ≠ h)
    | none => false)

/-- The end of a wall cycle: the stall is counted, a detour shortens, or the epoch advances. -/
def State.endWall (s : State) (p : Nat) : State :=
  let x := s.part p
  let y := { x with walked := [], wall := x.wall + 1, stalls := x.stalls.filter fun a => decide (x.wall < a.2),
                    stretch := x.stretch.drop ((x.stretch.filter fun e => decide (e.1 ≤ x.wall)).length - 1) }
  if x.announced then (s.setPart p y).bump (Reg.GLB_LOCK_STALL p) 31 0
  else match x.detourNow with
    | some (g, n) => s.setPart p { y with detourNow := if n ≤ 1 then none else some (g, n - 1) }
    | none => s.setPart p { y with epoch := x.epoch + 1 }

/-- The cores of a partition that still have a wall cycle to pass. -/
def State.lockCores (s : State) (p : Nat) : List Nat :=
  (s.part p).started.filter fun k => decide ((s.coreAt k).phase = .running)

/-- Is every cycle of the core held: the shutdown of R403, or the flow clamp of R411, which a stall-mode partition takes as an
announced stretch? -/
def State.coreHeld (s : State) (p : Option Nat) : Bool :=
  flag (s.rd Reg.THM_STAT) 31 || (flag (s.rd Reg.THM_STAT) 28 && (match p with
    | some q => !(s.part q).stall
    | none => true))

/-- One cycle of a core, in lockstep with its partition when the job is in stall mode: a core passes each wall cycle once, and
the wall cycle ends when every running core has passed it. -/
def State.cycle (s : State) (c : CoreId) (get : Core → Option (List SlotIns × Bool)) : State :=
  let key := CoreId_key c
  let core := s.coreAt key
  if !core.powered || decide (core.phase = .failed) || s.coreHeld core.part then s
  else
    match core.part with
    | none => s.coreCycle key get
    | some p =>
      let x := s.part p
      if !x.stall then s.coreCycle key get
      else if x.walked.contains key then s
      else
        let s := if x.stalledFor (s.region c.r).dgroup then s else s.coreCycle key get
        let s := s.modPart p fun y => { y with walked := key :: y.walked }
        if (s.lockCores p).all fun k => (s.part p).walked.contains k then s.endWall p else s

/-- The cycle that issues one instruction alone, always executed. -/
def State.slotCycle (s : State) (c : CoreId) (slot op : Nat) (o : BitVec 46) : State :=
  let i : SlotIns := { slot := slot, op := op, o := o }
  s.cycle c fun _ => some (if opDefined i then [i] else [], false)

end Sys2Proof.Machine
end

