-- ==== Sys2Proof/Machine/Fabric.lean ====
section
/-! DEFINITION. The wafer fabric (chapter 08): hops, replays and failures of links, multicast, reduction, the congestion map
and the FAB registers. Every flit is on VC0: rim data moves inside the completions of chapters 06 and 07, and the device's own
escape messages arrive inside the command that sends them (assumption 12). -/

namespace Sys2Proof.Machine

/-! ### Rings, ports and hops -/

/-- The ring neighbour of a logical region in direction q: 0 row +, 1 row −, 2 column +, 3 column −. -/
def ringNext (lcols : Nat) (a : Nat × Nat) (q : Nat) : Nat × Nat :=
  let step := fun (n i : Nat) (plus : Bool) => ringIdx n ((ringPos n i + (if plus then 1 else n - 1)) % n)
  match q with
  | 0 => (step lcols a.1 true, a.2)
  | 1 => (step lcols a.1 false, a.2)
  | 2 => (a.1, step 27 a.2 true)
  | _ => (a.1, step 27 a.2 false)

/-- Opposite direction. -/
def opp (q : Nat) : Nat := if q % 2 = 0 then q + 1 else q - 1

def dist (a b : Nat) : Nat := max a b - min a b

/-- Do two physical hubs join through a skip link (R21)? -/
def skips (r t : Nat) : Bool := decide (dist (r % 32) (t % 32) = 3) || decide (dist (r / 32) (t / 32) = 3)

/-- The physical region next to r in ring direction q. -/
def State.ringHub (s : State) (r q : Nat) : Option Nat :=
  match s.last.logical r with
  | none => none
  | some a =>
    let b := ringNext s.last.lcols a q
    s.last.phys b.1 b.2

/-- The port of Table 08-1 that carries ring direction q out of hub r. -/
def State.ringPort (s : State) (r q : Nat) : Nat :=
  match s.ringHub r q with
  | some t => if skips r t then q + 4 else q
  | none => q

/-- A flit leaves hub r through port q; ring and skip links may take an injection at the sender (R430). -/
def State.countFlit (s : State) (r q : Nat) : State :=
  let s := s.bump (Reg.RGNW_HUB_FLITS r q) 31 0
  if q < 8 then s.injSend 4 (some r) 1 else s
def State.countHold (s : State) (r q : Nat) : State := s.bump (Reg.RGNW_HUB_HOLD r q) 31 0

/-- Flits in an input buffer. -/
def State.inBuffer (s : State) (l : FlitLoc) : Nat := (s.fab.flits.filter fun f => decide (f.loc = l)).length

/-- Is flit i first in its place? -/
def State.isHead (s : State) (i : Nat) (l : FlitLoc) : Bool := !((s.fab.flits.take i).any fun f => decide (f.loc = l))

def State.setFlits (s : State) (l : List Flit) : State := { s with fab := { s.fab with flits := l } }

def State.dropFlit (s : State) (i : Nat) : State := s.setFlits (s.fab.flits.eraseIdx i)

def State.addFlit (s : State) (f : Flit) : State := s.setFlits (s.fab.flits ++ [f])

/-- Put a flit on ring direction q out of hub r, where it needs `need` free places at the next hub (R216). A flit whose next hop
crosses a failed link or enters a stopped hub is discarded (R212). `none`: no room. -/
def State.sendRing (s : State) (f : Flit) (r q need : Nat) : Option State :=
  match s.ringHub r q with
  | none => some s
  | some t =>
    let o := s.ringPort r q
    if s.fab.failedLinks.contains (10 * r + o) || (s.region t).hubStopped then some s
    else
      let l := FlitLoc.hub t (opp o)
      if 4 < s.inBuffer l + need then none
      else some ((s.addFlit { f with loc := l, left := none, headSince := none, stalled := false, landing := f.landing.map (· + 7) }).countFlit r o)

/-- Places needed at the next hub: one to continue along a ring, two to enter it. -/
def placesNeeded (l : FlitLoc) (q : Nat) : Nat :=
  match l with
  | .hub _ i => if i % 4 = opp q ∧ i < 8 then 1 else 2
  | _ => 2

/-! ### Point-to-point routing (R214, R216, R217, R222) -/

/-- The hub and the port a flit waits at: input port number, 10 a core port. -/
def flitHub (l : FlitLoc) : Option (Nat × Nat) :=
  match l with
  | .inject r _ => some (r, 10)
  | .hub r q => some (r, q)
  | _ => none

def unicast (k : FlitKind) : Bool :=
  match k with
  | .send => true
  | .signal => true
  | _ => false

/-- Logical hub of a flit's destination; a rim stack is reached at its hub nearest to the source (R222). -/
def State.destHub (s : State) (f : Flit) (e : Endpoint) : Nat × Nat :=
  match e.port, s.lookup f.src with
  | .welt (.rim st), some o => (s.last.logical (s.rimPlace o.x o.y (st * 96 * 2 ^ 30)).1).getD (e.x, e.y)
  | _, _ => (e.x, e.y)

/-- Does the flit travel to or from a welt endpoint? -/
def State.viaWelt (s : State) (f : Flit) (e : Endpoint) : Bool :=
  let welt := fun (p : EpPort) => match p with
    | .welt _ => true
    | _ => false
  welt e.port || (match s.lookup f.src with
    | some o => welt o.port
    | none => false)

/-- Output of hub r for a destination: 0 to 3 a ring direction, 8 or 9 a stub, 10 ejection. -/
def State.outOf (s : State) (r : Nat) (f : Flit) (e : Endpoint) : Nat :=
  let d := s.destHub f e
  match s.last.logical r with
  | none => 10
  | some (x, y) =>
    let c := if s.viaWelt f e then s.weltDirs (x, y) d (e.rowDir, e.colDir) else (e.rowDir, e.colDir)
    if x ≠ d.1 then (if ringPlus s.last.lcols x d.1 c.1 then 0 else 1)
    else if y ≠ d.2 then (if ringPlus 27 y d.2 c.2 then 2 else 3)
    else match e.port with
      | .welt w => weltStub w
      | _ => 10

/-- The check of a hub input port (R224): a reason and the entry's key, or pass. -/
def State.portCheck (s : State) (f : Flit) : Option (Nat × Nat) :=
  match s.lookup f.dest with
  | none => some (1, 0)
  | some e => if f.key = 0 then some (3, e.key) else if e.key = f.key ∨ e.shared then none else some (2, e.key)

def State.stallKey (s : State) (key : Nat) : Bool :=
  match s.keyOwner key with
  | some p => (s.part p).stall
  | none => false

/-- R217: at the same output, a stall-mode flit goes before others, and the lower source identifier before the higher. Does some
other head at hub r that has room go before f? -/
def State.outranked (s : State) (r q : Nat) (f : Flit) : Bool :=
  (List.range s.fab.flits.length).any fun j =>
    match s.fab.flits[j]? with
    | none => false
    | some g => match flitHub g.loc, s.lookup g.dest with
      | some (t, _), some e =>
        decide (t = r) && decide (g.loc ≠ f.loc) && unicast g.kind && s.isHead j g.loc && (s.portCheck g).isNone
          && decide (s.outOf r g e = q) && s.stallKey g.key && (!s.stallKey f.key || decide (g.src < f.src))
          && (s.sendRing g r q (placesNeeded g.loc q)).isSome
      | _, _ => false

/-- A flit waiting for output port o: the hold is counted, and a stall-mode flit is one cycle later (R201, R232). -/
def State.waitFlit (s : State) (i r o : Nat) (f : Flit) : State :=
  (s.setFlits (s.fab.flits.set i { f with landing := f.landing.map (· + 1) })).countHold r o

/-- FLIT_HOP (R214): the head of an input leaves hub r by its route, is dropped, or waits. -/
def State.hop (s : State) (i : Nat) (singleBitError : Bool) : State :=
  match s.fab.flits[i]? with
  | none => s
  | some f => match flitHub f.loc with
    | none => s
    | some (r, inp) =>
      if !unicast f.kind || !s.isHead i f.loc || (s.region r).hubStopped then s
      else
        let s := if singleBitError && decide (inp < 10) then (s.bump (Reg.RGNW_HUB_ERR r) 31 16).corrected 3 (linkLocus r inp) false else s
        let s := { s with fab := { s.fab with replays := tabDrop s.fab.replays (10 * r + inp % 10) } }
        match s.portCheck f with
        | some (reason, ekey) => (s.dropFlit i).violation reason f.key f.src f.dest ekey r inp
        | none => match s.lookup f.dest with
          | none => s
          | some e =>
            let q := s.outOf r f e
            if q = 10 then
              if s.fab.flits.any fun g => decide (g.loc = .eject r) && decide (g.dest = f.dest) then s
              else (s.dropFlit i).addFlit { f with loc := .eject r }
            else if 8 ≤ q then
              if s.fab.failedLinks.contains (10 * r + q) then s.dropFlit i
              else if s.inBuffer (.welt r q) = 0 then ((s.dropFlit i).addFlit { f with loc := .welt r q }).countFlit r q
              else s.waitFlit i r q f
            else if s.outranked r q f then s.waitFlit i r (s.ringPort r q) f
            else match s.sendRing f r q (placesNeeded f.loc q) with
              | some _ => ((s.dropFlit i).sendRing f r q (placesNeeded f.loc q)).getD s
              | none => s.waitFlit i r (s.ringPort r q) f

/-- FLIT_HOP (R210 to R217, R222, R224, R225). -/
def execFlitHop (i : Nat) (singleBitError : Bool) (s : State) : Host.Outcome State Fault Refusal := .next (s.hop i singleBitError)

/-! ### Routes across a link or a hub (R212) -/

/-- The directions stored for the endpoints of a logical region. -/
def State.dirsOf (s : State) (a : Nat × Nat) : Nat × Nat :=
  match s.fab.endpoints.find? fun e => decide (e.2.x = a.1) && decide (e.2.y = a.2) && decide (e.2.port = .seq) with
  | some (_, e) => (e.rowDir, e.colDir)
  | none => (0, 0)

/-- Consecutive hubs of a path. -/
def hopsOf : List Nat → List (Nat × Nat)
  | a :: b :: t => (a, b) :: hopsOf (b :: t)
  | _ => []

/-- The edge ports of a partition's enabled channels (R491). -/
def State.partPorts (s : State) (p : Nat) : List Nat :=
  (s.edg.chanA.filter fun e => flag e.2 31 && decide (e.1 / 16 = p)).flatMap fun e =>
    field e.2 30 26 :: (if flag e.2 20 then [field e.2 25 21] else [])

/-- The welt endpoints the partition's routes reach: the hubs used from region a and back to it (R212, R222). -/
def State.partWelt (s : State) (p : Nat) (a : Nat × Nat) : List ((Nat × Nat) × (Nat × Nat)) :=
  let at_ := fun (w : WeltEp) => (s.fab.endpoints.filter fun e => decide (e.2.port = .welt w)).map fun e => ((e.2.x, e.2.y), (e.2.x, e.2.y))
  at_ .serving ++ (List.range 8).flatMap (fun u => at_ (.sampling u)) ++ (s.partPorts p).flatMap (fun k => at_ (.edge k))
    ++ (s.part p).extents.map fun e => (s.rimHub a e.2.stack false, s.rimHub a e.2.stack true)

/-- Every route of partition p, as the physical hubs it passes; the Bool tells a route that ends at a stub. -/
def State.partRoutes (s : State) (p : Nat) : List (List Nat × Bool) :=
  let hubs := (s.part p).placed.filterMap fun g => s.last.logical g.r
  hubs.flatMap fun a =>
    let d := s.dirsOf a
    (hubs.map fun b => (s.routePath b a d.1 d.2, false))
      ++ (s.partWelt p a).flatMap fun w => [(s.weltPath a w.1 (0, 0), true), (s.weltPath w.2 a d, true)]

/-- The loader builds no route across a stopped hub (R212). -/
def State.routesClear (s : State) (p : Nat) : Bool :=
  s.stops.isEmpty || (s.partRoutes p).all fun t => !s.passesStop t.1

/-- Does a route use the link at port o of hub r? A stub is used by a route that ends at it. -/
def State.usesLink (s : State) (r o : Nat) (route : List Nat × Bool) : Bool :=
  if 8 ≤ o then route.2 && (decide (route.1.head? = some r) || decide (route.1.getLast? = some r))
  else (hopsOf route.1).any fun h =>
    (decide (h.1 = r) && (List.range 4).any fun q => decide (s.ringHub r q = some h.2) && decide (s.ringPort r q = o))
      || (decide (h.2 = r) && (List.range 4).any fun q => decide (s.ringHub r q = some h.1) && decide (s.ringPort r q = o))

/-- Does a route cross or turn at hub r, or reach a stub there? -/
def usesHub (r : Nat) (route : List Nat × Bool) : Bool := (if route.2 then route.1 else route.1.tail.dropLast).contains r

/-- The partitions in STATE 1 to 3 with a route for which f holds. -/
def State.partsWith (s : State) (f : List Nat × Bool → Bool) : List Nat :=
  s.liveParts.filter fun p => decide (s.pstate p ≤ 3) && (s.partRoutes p).any f

/-- A link fault for each of these partitions; with none, a deferred fault without owner (R419). -/
def State.linkFaults (s : State) (ps : List Nat) (loc : Word) : State :=
  if ps.isEmpty then s.jobFatal none 34 6 loc else ps.foldl (fun s p => s.jobFatal (some p) 34 6 loc) s

/-- A hub stops: the partitions whose routes cross it or turn at it stop as for a failed link (R212); one that is stopping already
reports no second fault. -/
def State.hubStop (s : State) (r : Nat) : State :=
  let ps := (s.partsWith (usesHub r)).filter fun p => decide (s.pstate p ≠ 3)
  let s := s.modRegion r fun g => { g with hubStopped := true, hubOn := false }
  ps.foldl (fun s p => s.jobFatal (some p) 34 6 (regionLocus r)) s

/-! ### Link errors (R212, R213) -/

/-- State of port q in RGNW_HUB_LINK: 0 not in use, 1 up, 2 failed. -/
def State.linkState (s : State) (r q : Nat) : Nat := s.fld (Reg.RGNW_HUB_LINK r) (2 * q + 1) (2 * q)

/-- LINK_REPLAY (R212): hub r asks for a replay at its port q. -/
def execLinkReplay (r q : Nat) (s : State) : Host.Outcome State Fault Refusal :=
  .next (if s.linkState r q = 1 then
    let s := (s.bump (Reg.RGNW_HUB_ERR r) 15 0).corrected 3 (linkLocus r q) false
    { s with fab := { s.fab with replays := tabAdd s.fab.replays (10 * r + q) (tabGet 0 s.fab.replays (10 * r + q) + 1) } }
  else s)

/-- The hub and port at the other end of a ring or skip link. -/
def State.linkPeer (s : State) (r q : Nat) : Option (Nat × Nat) :=
  if 8 ≤ q then none
  else match s.ringHub r (q % 4) with
    | some t => if s.ringPort r (q % 4) = q then some (t, opp q) else none
    | none => none

/-- LINK_FAILURE (R212): a flit's replay has failed eight times in a row at port q of hub r. -/
def execLinkFailure (r q : Nat) (s : State) : Host.Outcome State Fault Refusal :=
  .next (if s.linkState r q = 1 ∧ 8 ≤ tabGet 0 s.fab.replays (10 * r + q) then
    let ps := s.partsWith (s.usesLink r q)
    let s := s.setFld (Reg.RGNW_HUB_LINK r) (2 * q + 1) (2 * q) 2
    let s := { s with fab := { s.fab with failedLinks := s.fab.failedLinks ++ [10 * r + q], replays := tabDrop s.fab.replays (10 * r + q) } }
    let s := match s.linkPeer r q with
      | some (t, o) =>
        let s := s.setFld (Reg.RGNW_HUB_LINK t) (2 * o + 1) (2 * o) 2
        { s with fab := { s.fab with failedLinks := s.fab.failedLinks ++ [10 * t + o] } }
      | none => s
    (s.bump Reg.FAB_STAT 15 8).linkFaults ps (linkLocus r q)
  else s)

/-- A hub fails its test: its region dies with cause 8 and the hub stops. -/
def State.hubDies (s : State) (r : Nat) : State := (s.hubStop r).regionDies r 8 (s.owner r)

/-- HUB_LINK_TEST (R212): the hubs that fail die; when neither does, the receiving side r. -/
def execHubLinkTest (r q : Nat) (receiverFails senderFails : Bool) (s : State) : Host.Outcome State Fault Refusal :=
  .next (
    let peer := s.linkPeer r q
    let tested := s.dead r || (match peer with
      | some (t, _) => s.dead t
      | none => false)
    if s.linkState r q ≠ 2 ∨ tested then s
    else
      let s := if receiverFails || !senderFails || peer.isNone then s.hubDies r else s
      match peer with
      | some (t, _) => if senderFails then s.hubDies t else s
      | none => s)

/-! ### Multicast (R226 to R228) -/

def isMulticast (k : FlitKind) : Bool :=
  match k with
  | .multicast => true
  | .signalMulti => true
  | _ => false

def State.bridle (s : State) (r key index : Nat) : Option (List Branch) :=
  (s.fab.bridles.find? fun b => decide (b.r = r) && decide (b.key = key) && decide (b.index = index)).map (·.branches)

/-- A copy of a multicast flit at a local port: free when no flit stands there. -/
def State.copyLocal (s : State) (f : Flit) (r dest : Nat) : Option State :=
  if s.fab.flits.any fun g => decide (g.loc = .eject r) && decide (g.dest = dest) then none
  else some (s.addFlit { f with loc := .eject r, dest := dest, left := none })

/-- One branch takes its copy, if its output has room or its port is free. -/
def State.takeBranch (s : State) (f : Flit) (r : Nat) (b : Branch) : Option State :=
  match b with
  | .dir q => s.sendRing f r q (placesNeeded f.loc q)
  | .stub q => if s.inBuffer (.welt r q) = 0 then some ((s.addFlit { f with loc := .welt r q, left := none }).countFlit r q) else none
  | .core n => match s.last.logical r with
    | some (x, y) => s.copyLocal f r (s.idOf x y (.core n))
    | none => some s
  | .seq => s.copyLocal f r (s.seqId r)

/-- Every branch in turn; the branches that are held remain. -/
def State.takeBranches (s : State) (f : Flit) (r : Nat) : List Branch → State × List Branch
  | [] => (s, [])
  | b :: t =>
    match s.takeBranch f r b with
    | some s =>
      let (s, l) := s.takeBranches f r t
      (s, l)
    | none =>
      let s := match b with
        | .dir q => s.countHold r (s.ringPort r q)
        | .stub q => s.countHold r q
        | _ => s
      let (s, l) := s.takeBranches f r t
      (s, b :: l)

/-- MULTICAST_REPLICATE (R227): the head flit's branches take their copies as room allows; its place is freed with the last. -/
def State.replicate (s : State) (i : Nat) : State :=
  match s.fab.flits[i]? with
  | none => s
  | some f => match flitHub f.loc with
    | none => s
    | some (r, inp) =>
      if !isMulticast f.kind || !s.isHead i f.loc || (s.region r).hubStopped then s
      else
        match f.left, s.bridle r f.key f.index with
        | none, none => (s.dropFlit i).violation 6 f.key f.src 0 0 r inp
        | left, entry =>
          let want := left.getD (entry.getD [])
          let (s, held) := s.takeBranches f r want
          if held.isEmpty then s.dropFlit i
          else s.setFlits (s.fab.flits.set i { f with left := some held, headSince := some (f.headSince.getD s.time) })

def execMulticastReplicate (i : Nat) (s : State) : Host.Outcome State Fault Refusal := .next (s.replicate i)

/-- Frequency of the clock step in force, in 100 MHz (Table 13-2). -/
def stepTenths (code : Nat) : Nat :=
  match code with
  | 0 => 21
  | 1 => 18
  | 2 => 15
  | _ => 12

def State.coreTenths (s : State) : Nat := stepTenths (s.fld Reg.PWR_CLK 5 4)

/-- CLK_CORE cycles since a device time. -/
def State.cyclesSince (s : State) (t : Long) : Nat := (s.now - t.toNat) * s.coreTenths / 10

/-- Capture the first stall since the log was re-armed. -/
def State.stallLog (s : State) (kind part index target r : Nat) : State :=
  if flag (s.rd Reg.FAB_STALL_LOG0) 31 then s
  else
    let s := s.wr Reg.FAB_STALL_LOG0 (BitVec.ofNat 32 (2 ^ 31 + kind * 2 ^ 30 + part % 256 * 2 ^ 16 + index % 1024))
    let s := s.wr Reg.FAB_STALL_LOG1 (BitVec.ofNat 32 (target % 2 ^ 24))
    s.wr Reg.FAB_STALL_LOG2 (BitVec.ofNat 32 (r % 32 * 2 ^ 27 + r / 32 * 2 ^ 22))

/-- A branch by number: 0 to 3 a ring direction, 4 the sequencer, 8 or 9 a stub, 10 + n logical core n. -/
def branchOf (b : Nat) : Branch :=
  if b < 4 then .dir b else if b = 4 then .seq else if b < 10 then .stub b else .core (b - 10)

/-- MULTICAST_STALL_TIMEOUT (R228): one local or stub branch of a held flit reaches the limit. -/
def execMulticastStallTimeout (i branch : Nat) (s : State) : Host.Outcome State Fault Refusal :=
  .next (match s.fab.flits[i]? with
    | none => s
    | some f => match flitHub f.loc, f.left, f.headSince with
      | some (r, _), some left, some t =>
        let b := branchOf branch
        let limit := 2 ^ (s.fld Reg.FAB_CFG 27 24 + 10)
        if f.stalled || decide (branch < 4) || !left.contains b || decide (s.cyclesSince t < limit) then s
        else
          let target := match b, s.last.logical r with
            | .core n, some (x, y) => s.idOf x y (.core n)
            | .seq, _ => s.seqId r
            | _, _ => 0
          let s := s.setFlits (s.fab.flits.set i { f with stalled := true })
          let p := s.keyOwner f.key
          (s.stallLog 0 (p.getD 255) f.index target r).jobFatal p 34 6 (regionLocus r)
      | _, _, _ => s)

/-! ### Reduction (R180, R229, R85) -/

def State.tree (s : State) (r key index : Nat) : Option TreeEntry :=
  s.fab.trees.find? fun t => decide (t.r = r) && decide (t.key = key) && decide (t.index = index)

/-- The input a contribution arrives by: a logical core of the hub or a ring direction. -/
def State.inputOf (s : State) (l : FlitLoc) : Branch :=
  match l with
  | .inject r k => .core (((s.coreAt (17 * r + k)).logical).getD 16)
  | .hub _ q => .dir (q % 4)
  | _ => .seq

/-- Unstalled cycles core `key` had passed when the wall cycle under way began. -/
def State.wallStart (s : State) (key : Nat) : Int :=
  let c := s.coreAt key
  let x := s.part (c.part.getD 64)
  if x.walked.contains key && !x.stalledFor (s.region (key / 17)).dgroup then (c.now : Int) - 1 else c.now

/-- Physical core of an endpoint identifier. -/
def State.coreOf (s : State) (id : Nat) : Option Nat :=
  match s.lookup id with
  | some e => match e.port, s.last.phys e.x e.y with
    | .core n, some r => (s.physCore r n).map (17 * r + ·)
    | _, _ => none
  | none => none

/-- A cycle count of one core told in another's, both unstalled in the same wall cycles but for detours (R201, R206). -/
def State.recount (s : State) (a b t : Nat) : Nat :=
  match s.coreOf a, s.coreOf b with
  | some x, some y => ((t : Int) - s.wallStart x + s.wallStart y).toNat
  | _, _ => t

def State.openRounds (s : State) (r : Nat) : Nat := (s.fab.rounds.filter fun x => decide (x.r = r)).length

def latest (a b : Option Nat) : Option Nat :=
  match a, b with
  | some x, some y => some (max x y)
  | some x, none => some x
  | none, y => y

/-- Add a contribution to the round that is open for it; `none` when its input has contributed already. -/
def joinRound (f : Flit) (b : Branch) (l : Option Nat) (x : Round) : Option Round :=
  if x.got.contains b then none
  else some { x with got := x.got ++ [b], parts := x.parts ++ [f.accs], landing := latest x.landing l, ce := x.ce || f.ce }

def State.setRounds (s : State) (l : List Round) : State := { s with fab := { s.fab with rounds := l } }

/-- REDUCE_CONTRIBUTION (R229): the head contribution opens a round or joins one, or waits. -/
def State.contribute (s : State) (i : Nat) : State :=
  match s.fab.flits[i]? with
  | none => s
  | some f => match flitHub f.loc with
    | none => s
    | some (r, inp) =>
      if f.kind ≠ .contribution ∨ !s.isHead i f.loc ∨ (s.region r).hubStopped then s
      else match s.tree r f.key f.index with
        | none => (s.dropFlit i).violation 6 f.key f.src 0 0 r inp
        | some _ =>
          let b := s.inputOf f.loc
          let same := fun (x : Round) => decide (x.r = r) && decide (x.key = f.key) && decide (x.index = f.index) && decide (x.d = f.raddr)
          match s.fab.rounds.findIdx? same with
          | some k => match s.fab.rounds[k]? with
            | none => s
            | some x => match joinRound f b (f.landing.map (s.recount f.src x.src)) x with
              | none => s
              | some y => (s.dropFlit i).setRounds (s.fab.rounds.set k y)
          | none =>
            if 32 ≤ s.openRounds r then s
            else
              let x : Round :=
                { r := r, key := f.key, index := f.index, d := f.raddr, got := [b], parts := [f.accs], cn := f.cn, ce := f.ce,
                  opened := s.time, landing := f.landing, src := f.src, faulted := false }
              (s.dropFlit i).setRounds (s.fab.rounds ++ [x])

def execReduceContribution (i : Nat) (s : State) : Host.Outcome State Fault Refusal := .next (s.contribute i)

/-- The exact sum of a round's contributions, saturated as R47, R48 and R85 state. -/
def roundSum (parts : List (List Acc)) : List Acc :=
  (List.range 16).map fun k =>
    (accumulate Acc.zero (parts.map fun p => let x := (p[k]?).getD Acc.zero; (x.val, x.sat))).1

/-- REDUCTION_ROUND_FORWARD (R229): a complete round leaves on its one output. -/
def State.forwardRound (s : State) (i : Nat) : State :=
  match s.fab.rounds[i]? with
  | none => s
  | some x => match s.tree x.r x.key x.index with
    | none => s
    | some t =>
      if !(t.inputs.all fun b => x.got.contains b) then s
      else
        let land := if 1 < t.inputs.length then x.landing.map (· + 2) else x.landing
        let f : Flit :=
          { kind := .contribution, src := x.src, dest := t.dest, key := x.key, loc := .eject x.r, data := [], accs := roundSum x.parts,
            space := 0, raddr := x.d, cn := x.cn, ce := x.ce, index := x.index, left := none, headSince := none, landing := land,
            stalled := false, sentAt := 0 }
        let gone := { s with fab := { s.fab with rounds := s.fab.rounds.eraseIdx i } }
        match t.out with
        | .dir q =>
          let straight := t.inputs.contains (.dir (opp q))
          (match gone.sendRing f x.r q (if straight then 1 else 2) with
          | some u => u
          | none => s.countHold x.r (s.ringPort x.r q))
        | _ =>
          if s.fab.flits.any fun g => decide (g.loc = .eject x.r) && decide (g.dest = t.dest) then s
          else gone.addFlit { f with kind := .reduced }

def execReductionRoundForward (i : Nat) (s : State) : Host.Outcome State Fault Refusal := .next (s.forwardRound i)

/-- Missing inputs: ring directions at [19:16], logical cores at [15:0]. -/
def missingInputs (t : TreeEntry) (x : Round) : Nat :=
  (t.inputs.map fun b => if x.got.contains b then 0 else match b with
    | .dir q => 2 ^ (16 + q % 4)
    | .core n => 2 ^ (n % 16)
    | _ => 0).foldl (· + ·) 0

/-- REDUCTION_STALL_TIMEOUT (R229): a round open for the limit, once. -/
def execReductionStallTimeout (i : Nat) (s : State) : Host.Outcome State Fault Refusal :=
  .next (match s.fab.rounds[i]? with
    | none => s
    | some x => match s.tree x.r x.key x.index with
      | none => s
      | some t =>
        if x.faulted || decide (s.cyclesSince x.opened < 2 ^ (s.fld Reg.FAB_CFG 23 20 + 10)) || decide (missingInputs t x = 0) then s
        else
          let s := { s with fab := { s.fab with rounds := s.fab.rounds.set i { x with faulted := true } } }
          let p := s.keyOwner x.key
          (s.stallLog 1 (p.getD 255) x.index (missingInputs t x) x.r).jobFatal p 34 6 (regionLocus x.r))

/-! ### Telemetry (R232, R233) and the FAB registers (R234) -/

/-- Difference of a wrapping 32-bit counter over `cycles`, in 1/256. -/
def cmapShare (new old : Word) (cycles : Nat) : Nat := min 255 (256 * (new - old).toNat / cycles)

/-- The ports of a map entry that a hub has: the four ring directions, and its stubs. -/
def State.mapPorts (s : State) (x y : Nat) : List Nat :=
  [0, 1, 2, 3] ++ (if y = 0 ∨ y = 26 then [8] else []) ++ (if x = 0 ∨ x + 1 = s.last.lcols then [9] else [])

/-- Logical regions of the last in force. -/
def State.grid (s : State) : List (Nat × Nat) := (List.range s.last.lcols).flatMap fun x => (List.range 27).map fun y => (x, y)

def mapKey (x y q : Nat) : Nat := 16 * (27 * x + y) + q

/-- Port whose counters a map entry is made of: the skip port where it carries the ring direction. -/
def State.mapSource (s : State) (x y q : Nat) : Nat × Nat :=
  let r := (s.last.phys x y).getD 0
  (r, if q < 4 then s.ringPort r q else q)

/-- CMAP_PERIOD_TICK (R232): `cycles` have passed since the last reading. -/
def State.buildMap (s : State) (cycles : Nat) : State :=
  if cycles = 0 ∨ s.last.lcols = 0 then s
  else
    let cells := s.grid.flatMap fun a => (s.mapPorts a.1 a.2).map fun q => (a, q)
    let entry := fun (c : (Nat × Nat) × Nat) =>
      let (r, o) := s.mapSource c.1.1 c.1.2 c.2
      let f := s.rd (Reg.RGNW_HUB_FLITS r o)
      let h := s.rd (Reg.RGNW_HUB_HOLD r o)
      (mapKey c.1.1 c.1.2 c.2,
        cmapShare f (BitVec.ofNat 32 (tabGet 0 s.fab.prevFlits (10 * r + o))) cycles,
        cmapShare h (BitVec.ofNat 32 (tabGet 0 s.fab.prevHold (10 * r + o))) cycles)
    let map := (cells.map entry).foldl (fun t e => tabSet (0, 0) t e.1 (e.2.1, e.2.2)) ([] : Tab (Nat × Nat))
    let prev := fun (reg : Nat → Nat → Nat) => cells.foldl (fun t c =>
      let (r, o) := s.mapSource c.1.1 c.1.2 c.2
      tabSet 0 t (10 * r + o) (s.rd (reg r o)).toNat) ([] : Tab Nat)
    let gen := nextGen s.fab.cmapGen
    let s := { s with fab := { s.fab with cmap := map, cmapGen := gen, prevFlits := prev Reg.RGNW_HUB_FLITS, prevHold := prev Reg.RGNW_HUB_HOLD } }
    s.setFld Reg.FAB_STAT 31 16 gen

def execCmapPeriodTick (cycles : Nat) (s : State) : Host.Outcome State Fault Refusal := .next (s.buildMap cycles)

/-- FAB_CFG_WRITE (R234). -/
def execFabCfgWrite (v : Word) (s : State) : Host.Outcome State Fault Refusal :=
  .next (if s.weltDown then s else s.writeRW Reg.FAB_CFG 0x0FF0FFFF 0 v)

/-- Writing 1 to FAB_VIOL_LOG0.VALID clears the log and re-arms its capture. -/
def execFabViolLogClear (v : Word) (s : State) : Host.Outcome State Fault Refusal :=
  .next (if s.weltDown then s else
    let s := s.reservedBits (s.rd Reg.FAB_VIOL_LOG0) v 0x07000000
    if flag v 31 then
    (((s.wr Reg.FAB_VIOL_LOG0 0).wr Reg.FAB_VIOL_LOG1 0).wr Reg.FAB_VIOL_LOG2 0).wr Reg.FAB_VIOL_LOG3 0 else s)

/-- Writing 1 to FAB_STALL_LOG0.VALID clears the log and re-arms its capture. -/
def execFabStallLogClear (v : Word) (s : State) : Host.Outcome State Fault Refusal :=
  .next (if s.weltDown then s else
    let s := s.reservedBits (s.rd Reg.FAB_STALL_LOG0) v 0x3F00FC00
    if flag v 31 then ((s.wr Reg.FAB_STALL_LOG0 0).wr Reg.FAB_STALL_LOG1 0).wr Reg.FAB_STALL_LOG2 0 else s)

/-- The map entry FAB_CMAP_IDX selects: DATA0 and DATA1 (R233). -/
def State.cmapWords (s : State) : Word × Word :=
  let ix := s.rd Reg.FAB_CMAP_IDX
  let (x, y, q) := (field ix 15 10, field ix 9 5, field ix 19 16)
  let has := decide (x < s.last.lcols) && decide (y < 27) && (s.mapPorts x y).contains q
  let (u, h) := if has then tabGet (0, 0) s.fab.cmap (mapKey x y q) else (0, 0)
  (BitVec.ofNat 32 (s.fab.cmapGen * 2 ^ 16 + (if has && decide (s.fab.cmapGen ≠ 0) then 2 ^ 15 else 0)), BitVec.ofNat 32 (u * 2 ^ 24 + h * 2 ^ 16))

/-- FAB_CMAP_DATA0_READ (R233): DATA1 is captured for the port. -/
def execFabCmapData0Read (port : Nat) (s : State) : Host.Outcome State Fault Refusal :=
  .next (s.capture port Reg.FAB_CMAP_DATA1 s.cmapWords.2)

end Sys2Proof.Machine
end

