-- ==== Sys2Proof/Machine/Hash.lean ====
section
/-! DEFINITION. SHA-512 and SHA-384 (named by R240, R256, R326, R437 and R447) and the IEEE 802.3 CRC-32 (Table 09-4). The spec
names these standards and does not restate them: PRESUMED, assumption 16. -/

namespace Sys2Proof.Machine

/-- Greatest x with f x, over n further bits below x0. -/
def greatest (f : Nat → Bool) (x : Nat) : Nat → Nat
  | 0 => x
  | n + 1 => if f (x + 2 ^ n) then greatest f (x + 2 ^ n) n else greatest f x n

def isPrime (n : Nat) : Bool := decide (2 ≤ n) && (List.range n).all fun d => decide (d < 2) || decide (n % d ≠ 0)

/-- The first 80 primes. -/
def primes80 : List Nat := (List.range 410).filter isPrime

/-- The first 64 fractional bits of the cube root, and of the square root, of p. -/
def cubeFrac (p : Nat) : Long := BitVec.ofNat 64 (greatest (fun x => decide (x * x * x ≤ p * 2 ^ 192)) 0 68)
def squareFrac (p : Nat) : Long := BitVec.ofNat 64 (greatest (fun x => decide (x * x ≤ p * 2 ^ 128)) 0 70)

def shaS0 (x : Long) : Long := x.rotateRight 28 ^^^ x.rotateRight 34 ^^^ x.rotateRight 39
def shaS1 (x : Long) : Long := x.rotateRight 14 ^^^ x.rotateRight 18 ^^^ x.rotateRight 41
def shaG0 (x : Long) : Long := x.rotateRight 1 ^^^ x.rotateRight 8 ^^^ (x >>> 7)
def shaG1 (x : Long) : Long := x.rotateRight 19 ^^^ x.rotateRight 61 ^^^ (x >>> 6)

/-- Extend the message schedule, newest word first, by n words. -/
def shaSchedule (w : List Long) : Nat → List Long
  | 0 => w
  | n + 1 =>
    let at_ := fun i => (w[i]?).getD 0
    shaSchedule ((shaG1 (at_ 1) + at_ 6 + shaG0 (at_ 14) + at_ 15) :: w) n

/-- One round over the eight working words. -/
def shaRound (s : List Long) (kw : Long × Long) : List Long :=
  match s with
  | [a, b, c, d, e, f, g, h] =>
    let t1 := h + shaS1 e + ((e &&& f) ^^^ (~~~e &&& g)) + kw.1 + kw.2
    let t2 := shaS0 a + ((a &&& b) ^^^ (a &&& c) ^^^ (b &&& c))
    [t1 + t2, a, b, c, d + t1, e, f, g]
  | _ => s

def shaBlock (ks : List Long) (s : List Long) (block : Bytes) : List Long :=
  let w := (shaSchedule ((List.range 16).map fun i => BitVec.ofNat 64 (beNat (slice block (8 * i) 8))).reverse 64).reverse
  let t := (ks.zip w).foldl shaRound s
  (s.zip t).map fun p => p.1 + p.2

/-- Message padding to whole 128-byte blocks. -/
def shaPad (m : Bytes) : Bytes :=
  m ++ [0x80] ++ zeros ((239 - m.length % 128) % 128) ++ beBytes 16 (8 * m.length)

def sha2 (iv : List Long) (m : Bytes) : Bytes :=
  let ks := primes80.map cubeFrac
  ((pieces 128 (shaPad m)).foldl (shaBlock ks) iv).flatMap fun x => beBytes 8 x.toNat

def sha512 (m : Bytes) : Bytes := sha2 ((primes80.take 8).map squareFrac) m

def sha384 (m : Bytes) : Bytes := (sha2 (((primes80.drop 8).take 8).map squareFrac) m).take 48

/-- CRC-32, IEEE 802.3: reflected, initial and final inversion. -/
def crcStep (c : Word) : Nat → Word
  | 0 => c
  | n + 1 => crcStep (if flag c 0 then (c >>> 1) ^^^ 0xEDB88320 else c >>> 1) n

def crc32 (m : Bytes) : Nat := (~~~(m.foldl (fun c b => crcStep (c ^^^ BitVec.ofNat 32 b.toNat) 8) (0xFFFFFFFF : Word))).toNat

end Sys2Proof.Machine
end

