-- ==== Sys2Proof/Machine/MemOps.lean ====
section
/-! DEFINITION. Rim memory (R241 to R244), the bonded window and its pools (R236 to R238, Table 07-1), and the completion ring
(R477, R478). -/

namespace Sys2Proof.Machine

/-! ### Rim memory -/

def gib : Nat := 2 ^ 30

/-- Stack and channel of a rim address (R241): the live channels are the set bits of RIM_CHANs. -/
def State.rimChannel (s : State) (a : Nat) : Nat × Nat :=
  let st := a / (96 * gib)
  let live := bitsOf (s.rd (Reg.RIM_CHAN st))
  (st, (live[(a % (96 * gib) / 1024) % live.length]?).getD 0)

/-- Does the granule at a lie in a channel that failed in service (R244)? -/
def State.rimFailedAt (s : State) (a : Nat) : Bool :=
  let (st, ch) := s.rimChannel a
  flag (s.rd (Reg.RIM_FAIL st)) ch

/-- The 1 KiB pieces of [a, a + n). -/
def kibsOf (a n : Nat) : List Nat := (List.range (ceilDiv n 1024)).map fun i => a + 1024 * i

/-- Bytes read from rim memory: a failed channel delivers zero. The count is of failed granules. -/
def State.rimRead (s : State) (a n : Nat) : Bytes × Nat :=
  let ps := kibsOf a n
  ((ps.map fun b => if s.rimFailedAt b then zeros 1024 else memRead s.rim.mem b 1024).flatten.take n,
    (ps.filter fun b => s.rimFailedAt b).length)

/-- Write to rim memory; granules of a failed channel are not written. -/
def State.rimWrite (s : State) (a : Nat) (d : Bytes) : State × Nat :=
  let ps := kibsOf a d.length
  let m := ps.foldl (fun m b => if s.rimFailedAt b then m else memWrite m b (slice d (b - a) (min 1024 (d.length - (b - a))))) s.rim.mem
  (({ s with rim := { s.rim with mem := m } }).injSend 2 none (ceilDiv d.length 16), (ps.filter fun b => s.rimFailedAt b).length)

def rimLocus (a : Nat) (ch : Nat) : Word := locus 6 0 (ch * 16 + a / (96 * gib))

/-- Account the codeword check of a rim access for partition p (R242, R244): `bad` failed granules. -/
def State.rimCheck (s : State) (p : Option Nat) (a bad : Nat) (chk : CodeCheck) : State :=
  let st := a / (96 * gib)
  let loc := rimLocus a 0
  let s := match chk with
    | .corrected _ => (s.bump (Reg.RIM_ERR st) 31 16).corrected 2 loc false
    | _ => s
  let n := bad + (match chk with
    | .uncorrectable => 1
    | _ => 0)
  if n = 0 then s else (s.bumpBy (Reg.RIM_ERR st) 15 0 n).memFatal p loc

/-! ### Bonded memory -/

/-- Units assigned to a region's pools, RGNW_POOL: WRES, WPAGE, CACHE, ADPT. -/
def State.poolWres (s : State) (r : Nat) : Nat := s.fld (Reg.RGNW_POOL r) 23 19
def State.poolUnits (s : State) (r : Nat) : Nat :=
  s.poolWres r + s.fld (Reg.RGNW_POOL r) 18 14 + s.fld (Reg.RGNW_POOL r) 13 9 + s.fld (Reg.RGNW_POOL r) 8 4

/-- May the sequencer window or the mover access row `row` (Table 09-2)? -/
def State.poolAllows (s : State) (r row : Nat) (write : Bool) : Bool :=
  decide (row / 4096 < s.poolUnits r) && (!write || decide (s.poolWres r ≤ row / 4096))

/-- The slice of logical core n: its physical core's key. -/
def State.sliceKey (s : State) (r n : Nat) : Option Nat := (s.physCore r n).map (17 * r + ·)

/-- Offset in the bonded window: logical slice and byte in it. -/
def bondSlice (off : Nat) : Nat := off / 67108864
def bondByte (off : Nat) : Nat := off % 67108864

/-- Is [off, off + n) of the window inside the partition's pools of the region? Rows are taken 1 KiB at a time. -/
def State.bondOk (s : State) (r off n : Nat) (write : Bool) : Bool :=
  decide (0 < n) && decide (off + n ≤ 1073741824)
    && (List.range (ceilDiv (off % 1024 + n) 1024)).all fun i => s.poolAllows r (bondByte (off + 1024 * i) / 1024) write

/-- Bytes of the bonded window. -/
def State.bondRead (s : State) (r off n : Nat) : Bytes :=
  (List.range n).map fun i =>
    match s.sliceKey r (bondSlice (off + i)) with
    | some k => memGet (s.coreAt k).slice (bondByte (off + i))
    | none => 0

/-- Write bytes that lie in one slice. -/
def State.bondWrite1 (s : State) (r off : Nat) (d : Bytes) : State :=
  match s.sliceKey r (bondSlice off) with
  | some k => (s.modCoreAt k fun c => { c with slice := memWrite c.slice (bondByte off) d }).injStore 0 r (sliceWords (k % 17) (bondByte off) d.length)
  | none => s

/-- Write bytes to the window, 1 KiB row by row. -/
def State.bondWrite (s : State) (r off : Nat) (d : Bytes) : State :=
  (List.range (ceilDiv (off % 1024 + d.length) 1024)).foldl (fun s i =>
    let a := if i = 0 then off else off / 1024 * 1024 + 1024 * i
    let e := min (off + d.length) ((off / 1024 + i + 1) * 1024)
    s.bondWrite1 r a (slice d (a - off) (e - a))) s

/-- Account the codeword check of a bonded read (R246): `src` as RGNW_MEM_LAST.SRC, physical core k, slice row. An error in a codeword that holds
an injected one marks no row (R431). -/
def State.bondCheck (s : State) (r k row src : Nat) (chk : CodeCheck) : State :=
  let inj := s.injHit 0 r (sliceWords k (1024 * row) 1024)
  match chk with
  | .clean => s
  | .corrected n =>
    let s := (s.bump (Reg.RGNW_MEM_ERR r) 31 16).corrected 1 (regionLocus r) inj
    s.modRegion r fun g =>
      let key := 65536 * k + row
      { g with writeBacks := if g.writeBacks.contains key then g.writeBacks else g.writeBacks ++ [key],
               marked := if 2 ≤ n && !inj && !g.marked.contains key then g.marked ++ [key] else g.marked }
  | .uncorrectable =>
    let s := s.bump (Reg.RGNW_MEM_ERR r) 15 8
    let s := s.wr (Reg.RGNW_MEM_LAST r) (BitVec.ofNat 32 (2 ^ 31 + src * 2 ^ 28 + k * 2 ^ 16 + row))
    let s := if row < 4096 * s.poolWres r then s.modRegion r fun g => { g with heldBad := true } else s
    match s.owner r with
    | some p => s.memFatalD (some p) (regionLocus r) inj
    | none => s.deferredD 13 none 0 (regionLocus r) inj

/-! ### The completion ring (R477, R478) -/

/-- A ring size field, held to its range; others act as the least. -/
def ringLog (v lo hi : Nat) : Nat := if lo ≤ v ∧ v ≤ hi then v else lo

def State.cplSize (s : State) (p : Nat) : Nat := 2 ^ ringLog (s.fld (Reg.HIF_RCFG p) 11 8) 5 14

/-- Completion records written and waiting to be written. -/
def State.cplNext (s : State) (p : Nat) : Nat := s.fld (Reg.HIF_CSTAT p) 31 16 + s.heldAdvances (1 + p)

/-- Write a completion record: OP, STATUS, the entry's tag, RESULT. `ring` 0 command, 1 assist. -/
def State.complete (s : State) (p op status ring : Nat) (tag result : Bytes) : State :=
  let n := s.cplSize p
  let i := s.cplNext p % 65536
  let phase := (i / n + 1) % 2
  let rec_ := leBytes 1 (op + 128 * ring) ++ leBytes 1 status ++ leBytes 2 (32768 * phase + 16384 * ring) ++ slice tag 0 4 ++ slice result 0 8
  let s := s.hostWriteAdv (s.homePort p) (s.rd64 (Reg.HIF_CPL_LO p) (Reg.HIF_CPL_HI p) + 16 * (i % n)) rec_ (1 + p)
  let x := tabGet Rings.zero s.hif.rings p
  let busy := if ring = 1 then x.busy.erase (op, leAt tag 0 4) else x.busy
  let s := { s with hif := { s.hif with rings := tabSet Rings.zero s.hif.rings p { x with reserved := x.reserved - 1, busy := busy } } }
  s.signal p

/-! ### The sequencer as a target (R191) -/

/-- SC[n] + 1, which stays at its largest value; WFI ends when a counter changes. -/
def State.scAdd (s : State) (r n : Nat) : State :=
  s.modRegion r fun g =>
    let v := tabGet 0 g.seq.sc n
    { g with seq := { g.seq with sc := tabSet 0 g.seq.sc n (if v = 0xFFFFFFFF then v else v + 1) } }

def State.sramWrite (s : State) (r a : Nat) (d : Bytes) : State :=
  (s.modRegion r fun g => { g with seq := { g.seq with sram := memWrite g.seq.sram a d } }).injStore 3 r (codewords 0 a d.length)

/-- A sequencer fault (R189): it stops, and the partition's job ends with reason 4. -/
def State.seqFault (s : State) (r code : Nat) : State :=
  let s := s.modRegion r fun g => { g with seq := { g.seq with state := 4, fcode := code } }
  s.jobFatal (s.owner r) 31 4 (regionLocus r)

/-- Deliver bytes and a counter increment to a core, in its next cycle (R60, R113). -/
def State.toCore (s : State) (key space addr : Nat) (d : Bytes) (ctr : Option Nat) : State :=
  s.modCoreAt key fun c =>
    let c := if d.isEmpty then c else c.push c.now 4 (.bytes space addr d)
    match ctr with
    | some n => c.push c.now 4 (.ctrAdd n 1 true)
    | none => c

/-- The keys of the physical cores that serve the logical cores of a mask. -/
def State.maskCores (s : State) (r : Nat) (mask : BitVec 16) : List Nat := (bitsOf mask).filterMap fun n => s.sliceKey r n

end Sys2Proof.Machine
end

