-- ==== Sys2Proof/Machine/KeeperOps.lean ====
section
/-! DEFINITION. The page keeper (R269 to R278, R285, R290): its operations, the reclaim, the copies and moves, and where each
result goes. -/

namespace Sys2Proof.Machine

/-! ### Geometry (R269 to R271) -/

def State.keeper (s : State) (r : Nat) : Keeper := (s.region r).keeper

def State.setKeeper (s : State) (r : Nat) (k : Keeper) : State := s.modRegion r fun g => { g with keeper := k }

/-- The geometry record of a model of partition p. -/
def State.geometry (s : State) (p model : Nat) : Option Geometry := (s.part p).geoms.find? fun g => decide (g.model = model)

/-- Physical region of a placed region's index. -/
def State.ridx (s : State) (p i : Nat) : Option Nat := ((s.part p).placed[i]?).map (·.r)

/-- Physical region whose keeper owns the pages of (model, RSEL). -/
def State.ownerOf (s : State) (p model rsel : Nat) : Option Nat :=
  match s.geometry p model with
  | some g => match g.layers with
    | l :: _ => (l[rsel]?).bind fun e => s.ridx p e.1
    | [] => none
  | none => none

/-- The layer regions of the home of keeper r: physical region and rim base in KiB, one for each layer. -/
def State.homeRegions (s : State) (r : Nat) : List (Nat × Nat) :=
  match s.owner r with
  | none => []
  | some p => match s.geometry p (s.keeper r).model with
    | none => []
    | some g => g.layers.filterMap fun l =>
        match l[(s.keeper r).rsel]? with
        | some (i, rb) => (s.ridx p i).map fun t => (t, rb)
        | none => none

def State.prows (s : State) (r : Nat) : Nat := s.fld (Reg.RGNW_CACHE_CFG r) 17 9

/-- First slice row of slot `slot` in region r (R271). -/
def State.slotRow (s : State) (r slot : Nat) : Nat :=
  s.fld (Reg.RGNW_CACHE_ROWS r) 31 16 + s.fld (Reg.RGNW_CACHE_ROWS r) 15 0 + slot * s.prows r

/-- Logical cores of group g. -/
def groupCores (c g : Nat) : List Nat := (List.range c).map fun j => g * c + j

/-- Change the slices of the cores of group `grp` in every layer region: f gets the region, its rim base, the core's place in its
group and its slice. -/
def State.mapParts (s : State) (r grp : Nat) (f : State → Nat → Nat → Nat → Mem → Mem) : State :=
  let c := (s.keeper r).csplit
  (s.homeRegions r).foldl (fun s t =>
    (List.range c).foldl (fun s j =>
      match s.sliceKey t.1 (grp * c + j) with
      | some k => s.modCoreAt k fun x => { x with slice := f s t.1 t.2 j x.slice }
      | none => s) s) s

/-- Rim byte address of the part of core j of a page at rim slot rs (R271). -/
def partRim (base c prows rs j : Nat) : Nat := 1024 * (base + (rs * c + j) * prows)

/-! ### Records, slots and pools (R273) -/

def PageRec.hasSlot (x : PageRec) : Bool := decide (x.state ≠ 5) && decide (x.state ≠ 0)
def PageRec.hasRim (x : PageRec) : Bool := decide (4 ≤ x.state) && decide (x.state ≤ 6)
def PageRec.shared (x : PageRec) : Bool := decide (0 < x.handles) || decide (2 ≤ x.ref)

/-- The valid location: the slot, or the rim slot of a page that is cold or still warming. -/
def PageRec.place (x : PageRec) : Nat := if x.state = 5 ∨ x.state = 6 then x.rslot else x.slot

def PageRec.word (x : PageRec) : Nat := x.state * 2 ^ 29 + (if x.shared then 2 ^ 28 else 0) + x.place

def Keeper.groups (k : Keeper) : Nat := 16 / k.csplit

def Keeper.slotTaken (k : Keeper) (g slot : Nat) : Bool :=
  (k.recs.any fun e => e.2.hasSlot && decide (e.2.grp = g) && decide (e.2.slot = slot))
    || k.zeroing.any fun z => !z.rim && decide (z.grp = g) && decide (z.slot = slot)

def Keeper.rimTaken (k : Keeper) (rs : Nat) : Bool :=
  (k.recs.any fun e => e.2.hasRim && decide (e.2.rslot = rs)) || k.zeroing.any fun z => z.rim && decide (z.slot = rs)

/-- The first free number at or after `start`, wrapping. -/
def firstFree (n start : Nat) (taken : Nat → Bool) : Option Nat :=
  ((List.range n).map fun j => (start + j) % n).find? fun i => !taken i

/-- A free record for group g: its identifier must not wait for zeroing (R275). -/
def Keeper.freeRec (k : Keeper) (g start : Nat) : Option Nat :=
  firstFree 65536 start fun i => (tabFind k.recs i).isSome || k.zeroing.any fun z => decide (z.index = some i) && decide (z.grp = g)

def Keeper.freeSlot (k : Keeper) (g start : Nat) : Option Nat := firstFree k.slots start fun i => k.slotTaken g i
def Keeper.freeRim (k : Keeper) (start : Nat) : Option Nat := firstFree k.rslots start fun i => k.rimTaken i

def pageId (k : Keeper) (g i : Nat) : Nat := k.rsel * 2 ^ 20 + g * 2 ^ 16 + i

/-- The record of a page identifier, when it is owned here. -/
def Keeper.find (k : Keeper) (page : Nat) : Option PageRec :=
  match tabFind k.recs (page % 65536) with
  | some x =>
    if k.owner && decide (page / 2 ^ 20 % 16 = k.rsel) && decide (page / 65536 % 16 < k.groups) && decide (x.grp = page / 65536 % 16) then some x
    else none
  | none => none

def Keeper.put (k : Keeper) (page : Nat) (x : PageRec) : Keeper := { k with recs := tabAdd k.recs (page % 65536) x }

/-- Reclaim (R275): the record is free at once, its slot and rim slot when zeroed. -/
def Keeper.reclaim (k : Keeper) (i : Nat) (x : PageRec) : Keeper :=
  let a := if x.hasSlot then [{ rim := false, grp := x.grp, slot := x.slot, index := some i }] else []
  let b := if x.hasRim then [{ rim := true, grp := x.grp, slot := x.rslot, index := some i }] else []
  { k with recs := tabDrop k.recs i, zeroing := k.zeroing ++ a ++ b }

/-- Store a record, reclaiming it at REF 0 and PIN 0 unless it is moving or being copied to. -/
def Keeper.settle (k : Keeper) (page : Nat) (x : PageRec) : Keeper :=
  if x.ref = 0 ∧ x.pin = 0 ∧ x.state ≠ 4 ∧ x.state ≠ 6 ∧ x.state ≠ 3 then k.reclaim (page % 65536) x else k.put page x

/-! ### Invariants and registers (R278, R290, R291) -/

def nodup (l : List (Nat × Nat)) : Bool :=
  match l with
  | [] => true
  | a :: t => !t.contains a && nodup t

/-- The first broken count of R278: 1 records, 2 slots, 3 rim slots; 0 none. A slot in two hands breaks the sum of its pool. -/
def Keeper.broken (k : Keeper) : Nat :=
  let slots := (k.recs.filterMap fun e => if e.2.hasSlot then some (e.2.grp, e.2.slot) else none)
    ++ k.zeroing.filterMap fun z => if z.rim then none else some (z.grp, z.slot)
  let rims := (k.recs.filterMap fun e => if e.2.hasRim then some (0, e.2.rslot) else none)
    ++ k.zeroing.filterMap fun z => if z.rim then some (0, z.slot) else none
  if k.recs.any fun e => decide (65536 ≤ e.1) then 1
  else if !nodup slots || slots.any fun a => decide (k.groups ≤ a.1) || decide (k.slots ≤ a.2) then 2
  else if !nodup rims || rims.any fun a => decide (k.rslots ≤ a.2) then 3
  else 0

/-- Capture an invariant violation and raise the device-fatal fault of source 41. -/
def State.keeperViolation (s : State) (r kind : Nat) (inj : Bool) : State :=
  let s := if flag (s.rd Reg.KVC_INV_LOG) 31 then s
    else s.wr Reg.KVC_INV_LOG (BitVec.ofNat 32 (2 ^ 31 + kind * 2 ^ 28 + r % 32 * 2 ^ 23 + r / 32 * 2 ^ 18))
  s.deviceFatalD 41 (regionLocus r) inj

/-- Publish the keeper's counts, and check its invariants. -/
def State.publishKeeper (s : State) (r : Nat) : State :=
  let k := s.keeper r
  let held := (k.recs.filter fun e => e.2.hasSlot).length + (k.zeroing.filter fun z => !z.rim).length
  let rims := (k.recs.filter fun e => e.2.hasRim).length + (k.zeroing.filter fun z => z.rim).length
  let s := s.setFld (Reg.RGNW_PK_FREE r) 16 0 (65536 - k.recs.length)
  let s := s.setFld (Reg.RGNW_PK_SFREE r) 20 0 (k.slots * k.groups - held)
  let s := s.setFld (Reg.RGNW_PK_RFREE r) 23 0 (k.rslots - rims)
  let s := s.setFld (Reg.RGNW_PK_STAT r) 31 24 k.queue.length
  let s := s.setFld (Reg.RGNW_PK_STAT r) 7 0 k.moves.length
  let s := match s.owner r with
    | some p => s.wr (Reg.KVC_PG p) (BitVec.ofNat 32 (((s.part p).placed.map fun g => (s.keeper g.r).recs.length).foldl (· + ·) 0))
    | none => s
  if k.broken = 0 then s else s.keeperViolation r k.broken false

/-! ### Operations (Table 10-4) -/

/-- What an operation answers: status, page identifier, location word, REF and PIN of a QUERY; `later` when a completion answers. -/
structure KAns where
  status : Nat
  page : Nat
  word : Nat
  refPin : Nat
  later : Bool

def KAns.of (status page word : Nat) : KAns := { status := status, page := page, word := word, refPin := 0, later := false }

def kAlloc (k : Keeper) (n grp : Nat) (tent : Bool) : Keeper × KAns :=
  if !k.owner || decide (k.groups ≤ grp) then (k, KAns.of 7 0 0)
  else match k.freeRec grp (Config.pick n % 65536), k.freeSlot grp (Config.pick (n + 1) % max 1 k.slots) with
    | none, _ => (k, KAns.of 1 0 0)
    | _, none => (k, KAns.of 2 0 0)
    | some i, some sl =>
      let x : PageRec := { grp := grp, state := if tent then 2 else 1, ref := 1, pin := 0, handles := 0, slot := sl, rslot := 0 }
      (k.put i x, KAns.of 0 (pageId k grp i) x.word)

def kRef (k : Keeper) (page : Nat) (x : PageRec) : Keeper × KAns :=
  if x.state = 2 ∨ x.state = 3 then (k, KAns.of 4 page x.word)
  else if x.ref = 65535 then (k, KAns.of 6 page x.word)
  else
    let y := { x with ref := x.ref + 1 }
    (k.put page y, KAns.of 0 page y.word)

def kDeref (k : Keeper) (page : Nat) (x : PageRec) : Keeper × KAns :=
  if x.ref = 0 then (k, KAns.of 5 page x.word)
  else
    let y := { x with ref := x.ref - 1 }
    (k.settle page y, KAns.of 0 page y.word)

/-- PIN; on a moving page it is held until the move ends. -/
def kPin (k : Keeper) (page : Nat) (x : PageRec) (src : KeeperSrc) : Keeper × KAns :=
  if x.state = 4 ∨ x.state = 6 then ({ k with heldPins := k.heldPins ++ [(page, src)] }, { KAns.of 0 page x.word with later := true })
  else if x.state = 3 then (k, KAns.of 4 page x.word)
  else if x.pin = 65535 then (k, KAns.of 6 page x.word)
  else
    let y := { x with pin := x.pin + 1 }
    (k.put page y, KAns.of 0 page y.word)

def kUnpin (k : Keeper) (page : Nat) (x : PageRec) : Keeper × KAns :=
  if x.pin = 0 then (k, KAns.of 5 page x.word)
  else
    let y := { x with pin := x.pin - 1 }
    (k.settle page y, KAns.of 0 page y.word)

/-- COPY starts: a new page in STATE 3, a copy pin on the source (R276). -/
def kCopy (k : Keeper) (n page : Nat) (x : PageRec) (src : KeeperSrc) : Keeper × KAns :=
  if x.state ≠ 1 ∧ x.state ≠ 2 then (k, KAns.of 4 page x.word)
  else if x.pin = 65535 then (k, KAns.of 6 page x.word)
  else match k.freeRec x.grp (Config.pick n % 65536), k.freeSlot x.grp (Config.pick (n + 1) % max 1 k.slots) with
    | none, _ => (k, KAns.of 1 page x.word)
    | _, none => (k, KAns.of 2 page x.word)
    | some i, some sl =>
      let y : PageRec := { grp := x.grp, state := 3, ref := 0, pin := 0, handles := 0, slot := sl, rslot := 0 }
      let k := (k.put page { x with pin := x.pin + 1 }).put i y
      ({ k with moves := k.moves ++ [{ kind := 6, page := page % 65536, other := i, src := src, tent := decide (x.state = 2) }] },
        { KAns.of 0 (pageId k x.grp i) y.word with later := true })

def kCommit (k : Keeper) (page : Nat) (x : PageRec) : Keeper × KAns :=
  if x.state ≠ 1 ∧ x.state ≠ 2 then (k, KAns.of 4 page x.word)
  else
    let y := { x with state := 1 }
    (k.put page y, KAns.of 0 page y.word)

def kEvict (k : Keeper) (n page : Nat) (x : PageRec) (src : KeeperSrc) : Keeper × KAns :=
  if x.state ≠ 1 ∨ x.pin ≠ 0 then (k, KAns.of 4 page x.word)
  else match k.freeRim (Config.pick n % max 1 k.rslots) with
    | none => (k, KAns.of 3 page x.word)
    | some rs =>
      let y := { x with state := 4, rslot := rs }
      let k := k.put page y
      ({ k with moves := k.moves ++ [{ kind := 8, page := page % 65536, other := 0, src := src, tent := false }] }, KAns.of 0 page y.word)

def kWarm (k : Keeper) (n page : Nat) (x : PageRec) (src : KeeperSrc) : Keeper × KAns :=
  if x.state ≠ 5 ∨ x.pin ≠ 0 then (k, KAns.of 4 page x.word)
  else match k.freeSlot x.grp (Config.pick n % max 1 k.slots) with
    | none => (k, KAns.of 2 page x.word)
    | some sl =>
      let y := { x with state := 6, slot := sl }
      let k := k.put page y
      ({ k with moves := k.moves ++ [{ kind := 9, page := page % 65536, other := 0, src := src, tent := false }] }, KAns.of 0 page y.word)

/-- QUERY: any identifier of this keeper, a free record among them (DEDUCED, assumption 13). -/
def kQuery (k : Keeper) (page : Nat) : Keeper × KAns :=
  if !k.owner || decide (page / 2 ^ 20 % 16 ≠ k.rsel) || decide (k.groups ≤ page / 65536 % 16) then (k, KAns.of 7 page 0)
  else match k.find page with
    | some x => (k, { KAns.of 0 page x.word with refPin := x.ref + 65536 * x.pin })
    | none => (k, KAns.of 0 page 0)

/-- An operation on a keeper; `n` numbers the free values it draws. A code outside Table 10-4 changes nothing, and its status is
not stated. -/
def kApply (k : Keeper) (n : Nat) (op : KeeperOp) : Keeper × KAns :=
  if op.code = 1 then kAlloc k n op.grp op.tent
  else if op.code = 10 then kQuery k op.page
  else if op.code = 0 ∨ 10 < op.code then (k, KAns.of (Config.unstated 1 op.code % 256) op.page 0)
  else match k.find op.page with
    | none => (k, KAns.of 7 op.page 0)
    | some x => match op.code with
      | 2 => kRef k op.page x
      | 3 => kDeref k op.page x
      | 4 => kPin k op.page x op.src
      | 5 => kUnpin k op.page x
      | 6 => kCopy k n op.page x op.src
      | 7 => kCommit k op.page x
      | 8 => kEvict k n op.page x op.src
      | _ => kWarm k n op.page x op.src

/-- Bytes 8 to 15 of the operation block (R290). -/
def kResult (a : KAns) : Bytes := leBytes 1 a.status ++ leBytes 3 a.page ++ leBytes 4 a.word

/-- Send a result to where its operation came from. -/
def State.kDeliver (s : State) (r : Nat) (src : KeeperSrc) (query : Bool) (a : KAns) : State :=
  match src with
  | .sequencer addr scn =>
    let s := s.sramWrite r (16 * addr + 8) (kResult a)
    let s := if query && decide (16 * addr + 32 ≤ 262144) then s.sramWrite r (16 * addr + 28) (leBytes 4 a.refPin) else s
    s.scAdd r scn
  | .assist p tag => s.complete p 1 0 1 (leBytes 4 tag) (kResult a)
  | _ => s

/-- Statuses 4 to 8 count in ERRS and are a deferred fault (source 16). -/
def State.kStatus (s : State) (r status : Nat) : State :=
  if 4 ≤ status ∧ status ≤ 8 then (s.bump (Reg.RGNW_PK_STAT r) 15 8).deferred 16 (s.owner r) (regionLocus r) else s

/-- Perform one operation, and answer what it answered. -/
def State.kPerform (s : State) (r : Nat) (op : KeeperOp) : State × KAns :=
  let (k, a) := kApply (s.keeper r) s.fresh op
  let s := ({ s with fresh := s.fresh + 2 }).setKeeper r k
  let s := s.kStatus r a.status
  let s := if a.later then s else s.kDeliver r op.src (decide (op.code = 10)) a
  (s.publishKeeper r, a)

/-- Perform the operations that wait, in order: what reaches the keeper later comes after them (R274). -/
def State.kDrain (s : State) (r : Nat) : State :=
  let q := (s.keeper r).queue
  q.foldl (fun s op => (s.kPerform r op).1) (s.setKeeper r { s.keeper r with queue := [] })

/-- An operation of the serving unit or the prefix table, performed after those that wait. -/
def State.kServe (s : State) (r code page grp : Nat) (tent : Bool) : State × KAns :=
  (s.kDrain r).kPerform r { code := code, tent := tent, grp := grp, page := page, src := .serving }

/-- Present a keeper operation (R290): the block at SRAM address 16·ADDR enters the queue, unless it is full. -/
def State.pkPresent (s : State) (r : Nat) (v : Word) : State :=
  let k := s.keeper r
  if 64 ≤ k.queue.length then s.bump (Reg.RGNW_PK_STAT r) 23 16
  else
    let a := field v 13 0
    let b := memRead (s.region r).seq.sram (16 * a) 16
    let op : KeeperOp :=
      { code := byteAt b 0, tent := decide (128 ≤ byteAt b 1), grp := byteAt b 1 % 16, page := leAt b 2 3, src := .sequencer a (field v 31 28) }
    (s.setKeeper r { k with queue := k.queue ++ [op] }).setFld (Reg.RGNW_PK_STAT r) 31 24 (k.queue.length + 1)

/-- One operation of the keeper: the first that waits, when it is this one; when none waits, it has just reached the keeper. -/
def State.keeperCmd (s : State) (r code page grp : Nat) (tent : Bool) : State :=
  if (s.region r).pstate = 0 then s
  else
    let k := s.keeper r
    match k.queue with
    | [] => (s.kPerform r { code := code, tent := tent, grp := grp, page := page, src := .serving }).1
    | h :: t =>
      let same := decide (h.code = code) && (if code = 1 then decide (h.grp = grp) && decide (h.tent = tent) else decide (h.page = page))
      if same then ((s.setKeeper r { k with queue := t }).kPerform r h).1 else s

/-! ### Completions (R275 to R277) -/

/-- COPY_COMPLETION for the new record i. -/
def State.copyDone (s : State) (r i : Nat) : State :=
  let s := s.kDrain r
  let k := s.keeper r
  match k.moves.find? fun m => decide (m.kind = 6) && decide (m.other = i % 65536) with
  | none => s
  | some m => match tabFind k.recs m.page, tabFind k.recs m.other with
    | some x, some y =>
      let pr := fun (u : State) (t : Nat) => u.prows t
      let s := s.mapParts r x.grp fun u t _ _ sl => memCopy sl (1024 * u.slotRow t x.slot) (1024 * pr u t) sl (1024 * u.slotRow t y.slot)
      let z := { y with state := if m.tent then 2 else 1, ref := 1 }
      let k := { k with moves := k.moves.filter fun n => !(decide (n.kind = 6) && decide (n.other = m.other)) }
      let k := (k.put m.other z).settle m.page { x with pin := x.pin - 1, ref := x.ref - 1 }
      let a := KAns.of 0 (pageId k z.grp m.other) z.word
      ((s.setKeeper r k).kDeliver r m.src false a).publishKeeper r
    | _, _ => s

/-- Bring every layer region's part of a page from its slot to rim memory, or back. -/
def State.moveParts (s : State) (r : Nat) (x : PageRec) (toRim : Bool) : State :=
  let c := (s.keeper r).csplit
  if toRim then
    (s.homeRegions r).foldl (fun s t =>
      (List.range c).foldl (fun s j =>
        match s.sliceKey t.1 (x.grp * c + j) with
        | some k => (s.rimWrite (partRim t.2 c (s.prows t.1) x.rslot j) (memRead (s.coreAt k).slice (1024 * s.slotRow t.1 x.slot) (1024 * s.prows t.1))).1
        | none => s) s) s
  else
    s.mapParts r x.grp fun u t rb j sl =>
      memWrite (memClear sl (1024 * u.slotRow t x.slot) (1024 * u.prows t)) (1024 * u.slotRow t x.slot)
        (u.rimRead (partRim rb c (u.prows t) x.rslot j) (1024 * u.prows t)).1

/-- Perform the pins held for a page, in arrival order. -/
def State.heldPinsOf (s : State) (r i : Nat) : State :=
  let k := s.keeper r
  let mine := k.heldPins.filter fun p => decide (p.1 % 65536 = i)
  mine.foldl (fun s p => (s.kPerform r { code := 4, tent := false, grp := 0, page := p.1, src := p.2 }).1)
    (s.setKeeper r { k with heldPins := k.heldPins.filter fun p => !decide (p.1 % 65536 = i) })

/-- MOVE_COMPLETION of an EVICT or WARM. -/
def State.moveDone (s : State) (r i : Nat) : State :=
  let s := s.kDrain r
  let k := s.keeper r
  match k.moves.find? fun m => decide (m.kind ≠ 6) && decide (m.page = i % 65536) with
  | none => s
  | some m => match tabFind k.recs m.page with
    | none => s
    | some x =>
      let out := decide (m.kind = 8)
      let s := s.moveParts r x out
      let y := { x with state := if out then 5 else 1 }
      let z : ZeroOrder := { rim := !out, grp := x.grp, slot := if out then x.slot else x.rslot, index := none }
      let k := { k with moves := k.moves.filter fun n => !(decide (n.kind ≠ 6) && decide (n.page = m.page)), zeroing := k.zeroing ++ [z] }
      let s := s.setKeeper r (if k.heldPins.any fun p => decide (p.1 % 65536 = m.page) then k.put m.page y else k.settle m.page y)
      (s.heldPinsOf r m.page).publishKeeper r

/-- PAGE_ZERO_REPORTED (R275): order i is done in every layer region; the slot or rim slot returns to its pool. -/
def State.zeroReported (s : State) (r i : Nat) : State :=
  let k := s.keeper r
  match k.zeroing[i]? with
  | none => s
  | some z =>
    let c := k.csplit
    let s :=
      if z.rim then
        (s.homeRegions r).foldl (fun s t => (List.range c).foldl (fun s j =>
          { s with rim := { s.rim with mem := memClear s.rim.mem (partRim t.2 c (s.prows t.1) z.slot j) (1024 * s.prows t.1) } }) s) s
      else s.mapParts r z.grp fun u t _ _ sl => memClear sl (1024 * u.slotRow t z.slot) (1024 * u.prows t)
    (s.setKeeper r { k with zeroing := k.zeroing.eraseIdx i }).publishKeeper r

end Sys2Proof.Machine
end

