-- ==== Sys2Proof/Machine/Manifest.lean ====
section
/-! DEFINITION. The weight manifest (R256) and the conversion of shipped rows to stored forms (R250 to R253, R257, R263): pure
functions of the image and the payloads. -/

namespace Sys2Proof.Machine

/-- A tensor record (Table 09-5), with its position in the manifest. -/
structure Tensor where
  pos : Nat
  index : Nat
  n : Nat
  k : Nat
  fmt : Nat
  ship : Nat
  paged : Bool
  shadow : Bool
  fill : Bool
  fine : Bool
  bsz : Nat
  layout : Nat
  scale : Nat
  noch : Nat
  ochOff : Nat
  wmapOff : Nat
  panel : Nat
  stride : Nat
  nplace : Nat
  placeOff : Nat
  rimAddr : Nat
  deriving DecidableEq, Repr

/-- Tensors of the manifest at m (R336). -/
def tensorCount (img : Bytes) (m : Nat) : Nat := leAt img m 4

def tensorAt (img : Bytes) (m i : Nat) : Tensor :=
  let o := m + 8 + 48 * i
  let f := byteAt img (o + 12)
  let g := byteAt img (o + 13)
  { pos := i, index := leAt img o 2, n := leAt img (o + 4) 4, k := leAt img (o + 8) 4, fmt := f / 16, ship := f % 16,
    paged := decide (g / 128 % 2 = 1), shadow := decide (g / 64 % 2 = 1), fill := decide (g / 32 % 2 = 1),
    fine := decide (g / 16 % 2 = 1), bsz := g / 4 % 4, layout := g % 4, scale := byteAt img (o + 14),
    noch := leAt img (o + 16) 2, ochOff := leAt img (o + 20) 4, wmapOff := leAt img (o + 24) 4,
    panel := leAt img (o + 28) 4, stride := leAt img (o + 32) 2, nplace := leAt img (o + 34) 2,
    placeOff := leAt img (o + 36) 4, rimAddr := leAt img (o + 40) 8 }

def tensors (img : Bytes) (m : Nat) : List Tensor := (List.range (tensorCount img m)).map (tensorAt img m)

/-- The 64-byte digest of the tensor at position i. -/
def tensorDigest (img : Bytes) (m i : Nat) : Bytes := slice img (m + 8 + 48 * tensorCount img m + 64 * i) 64

/-- A placement entry of output group g: shape coordinates, logical core, first slice row, digest. -/
structure Place where
  x : Nat
  y : Nat
  n : Nat
  row : Nat
  digest : Bytes
  deriving DecidableEq, Repr

def placeAt (img : Bytes) (t : Tensor) (g : Nat) : Place :=
  let o := t.placeOff + 16 * g
  { x := leAt img o 2, y := leAt img (o + 2) 2, n := byteAt img (o + 4), row := leAt img (o + 6) 2, digest := slice img (o + 8) 8 }

def places (img : Bytes) (t : Tensor) : List Place := (List.range t.nplace).map (placeAt img t)

def Tensor.b (t : Tensor) : Nat := 16 * 2 ^ t.bsz

/-- The declared outlier channels. -/
def Tensor.channels (img : Bytes) (t : Tensor) : List Nat := (List.range t.noch).map fun i => leAt img (t.ochOff + 4 * i) 4

/-- The format code of block b of row r in per-block layout: 4 bits each, row-major, the first in the low bits of its byte. -/
def Tensor.wmap (img : Bytes) (t : Tensor) (r b : Nat) : Nat :=
  let i := r * (t.k / t.b) + b
  byteAt img (t.wmapOff + i / 2) / 16 ^ (i % 2) % 16

/-- Elements that one piece of a row covers: a block, or 16 elements of an unblocked row. -/
def Tensor.unit (t : Tensor) : Nat := if t.layout = 0 then 16 else t.b

/-- Rows a panel of staging form takes, and panels in a group (R250). -/
def Tensor.panelRows (t : Tensor) : Nat := ceilDiv (64 * (64 * t.stride)) 1024
def Tensor.panels (t : Tensor) : Nat := ceilDiv t.k t.panel

/-- Slice rows of a group's weights, and with its outlier table (R250, R251, R253). -/
def Tensor.weightRows (t : Tensor) : Nat := if t.fill then 2 * (t.k / kappa t.fmt) else t.panels * t.panelRows
def Tensor.groupRows (t : Tensor) : Nat := t.weightRows + ceilDiv (128 * t.noch) 1024

/-- Longest run of the tensor's records over n elements; per-block rows are measured as they come. -/
def Tensor.runLen (t : Tensor) (n : Nat) : Nat :=
  match t.layout with
  | 0 => n * fmtWidth t.fmt / 8
  | 1 => n / t.b * (1 + (if t.fine then 2 else 0) + t.b * fmtWidth t.fmt / 8)
  | _ => 0

/-- Status 8 of Table 09-6: what makes a record inconsistent on its own. `adapter` is the manifest of an ADAPTER_LOAD. -/
def Tensor.bad (img : Bytes) (t : Tensor) (adapter : Bool) : Bool :=
  let kap := if t.fmt = 12 then 16 else kappa t.fmt
  let target := fun f => decide (f = 8) || decide (f = 9)
  decide (12 < t.fmt) || (decide (t.fmt = 12) != adapter) || decide (1 < t.ship) || decide (t.layout = 3) || decide (t.bsz = 3)
    || decide (t.n = 0) || decide (t.k = 0) || decide (t.n % 64 ≠ 0) || decide (t.k % t.b ≠ 0) || decide (t.nplace * 64 ≠ t.n)
    || decide (t.k / 100 < t.noch) || decide (0 < t.noch ∧ t.ship = 0)
    || (if t.fill then decide (t.k % kap ≠ 0) || decide (32 < t.runLen kap) || (decide (t.layout ≠ 0) && decide (kap < t.b))
        else decide (t.panel = 0) || decide (t.panel % t.b ≠ 0) || decide (t.panel % kap ≠ 0)
          || decide (64 * t.stride < t.runLen (min t.panel t.k)))
    || (if t.fmt = 12 then t.fill || decide (t.ship ≠ 1) || decide (t.layout ≠ 0) || t.fine
        else if t.ship = 1 then t.fine || decide (t.layout = 0)
          || (if t.layout = 2 then (List.range (t.n * (t.k / t.b))).any fun i => target (t.wmap img (i / (t.k / t.b)) (i % (t.k / t.b)))
              else target t.fmt)
        else false)

/-! ### Rows -/

/-- What refuses a row: a status of Table 09-6. -/
abbrev RowParse := Except Nat (List Bytes)

/-- One uniform record as stored (R77): a zero block keeps its fine-scale bytes and gets zero codes. -/
def uniformRec (t : Tensor) (rec_ : Bytes) : Bytes :=
  let h := 1 + (if t.fine then 2 else 0)
  if byteAt rec_ 0 = 255 then rec_.take h ++ zeros (rec_.length - h) else rec_

/-- One per-block record as stored (R257): reserved header bit 0, zero blocks as 0xFFF0. -/
def blockRec (t : Tensor) (rec_ : Bytes) : Except Nat Bytes :=
  let hdr := leAt rec_ 0 2
  if 12 ≤ hdr / 16 % 16 then .ok [0xF0, 0xFF]
  else
    let nout := hdr % 4
    let outs := (List.range (min nout 2)).map fun i => slice rec_ (rec_.length - 3 * (nout - i)) 3
    if nout = 3 then .error 7
    else if outs.any fun o => decide (t.b ≤ byteAt o 0) then .error 7
    else if outs.any fun o => !(decode bf16 (leAt o 1 2)).isFinite then .error 6
    else if hdr / 256 = 255 then .ok [0xF0, 0xFF]
    else .ok (leBytes 2 (hdr - 4 * (hdr / 4 % 2)) ++ rec_.drop 2)

/-- Take the records of one shipped row off the front of a payload. -/
def takeBlocks (t : Tensor) : Nat → Bytes → Except Nat (List Bytes × Bytes)
  | 0, bs => .ok ([], bs)
  | n + 1, bs =>
    let l := recLen (leAt bs 0 2) t.b
    if bs.length < 2 ∨ bs.length < l then .error 7
    else match blockRec t (bs.take l), takeBlocks t n (bs.drop l) with
      | .ok r, .ok (rs, rest) => .ok (r :: rs, rest)
      | .error e, _ => .error e
      | _, .error e => .error e

/-- The pieces of n per-block rows that make up a payload exactly. -/
def blockRows (t : Tensor) : Nat → Bytes → Except Nat (List (List Bytes))
  | 0, bs => if bs.isEmpty then .ok [] else .error 7
  | n + 1, bs =>
    match takeBlocks t (t.k / t.b) bs with
    | .error e => .error e
    | .ok (r, rest) =>
      match blockRows t n rest with
      | .error e => .error e
      | .ok rs => .ok (r :: rs)

/-- Quantize one BF16 block of output row r (R83, R257): `xs` pairs each value with whether its channel is declared. -/
def ingestBlock (img : Bytes) (t : Tensor) (r b : Nat) (xs : List (FV × Bool)) : Bytes :=
  let f := if t.layout = 2 then t.wmap img r b else t.fmt
  let perBlock := decide (t.layout = 2)
  let q : QBlock :=
    if 12 ≤ f then none
    else if f = 0 then
      match quantBsi1 ((xs.filter fun x => !x.2).map (·.1)) with
      | none => none
      | some (sc, _) => some (sc, xs.map fun x => if !x.2 && x.1.dy.m < 0 then 1 else 0)
    else (quantBlock f xs).1
  match q with
  | none => if perBlock then [0xF0, 0xFF] else [0xFF] ++ zeros (t.b * fmtWidth t.fmt / 8)
  | some _ => quantRecord perBlock f t.b q

/-- The pieces of one BF16 row of K values. -/
def bf16Row (img : Bytes) (t : Tensor) (r : Nat) (row : Bytes) : List Bytes :=
  if t.fmt = 12 then pieces 32 row
  else
    let ch := t.channels img
    let vs := (List.range t.k).map fun i => (decode bf16 (leAt row (2 * i) 2), ch.contains i)
    (List.range (t.k / t.b)).map fun b => ingestBlock img t r b ((vs.drop (b * t.b)).take t.b)

/-- The rows of a decompressed payload that starts at row `row0`, each as its pieces, or the refusing status. -/
def payloadRows (img : Bytes) (t : Tensor) (row0 nrows : Nat) (d : Bytes) : Except Nat (List (List Bytes)) :=
  if t.ship = 1 then
    if d.length ≠ 2 * t.k * nrows then .error 7
    else if ((pieces 2 d).any fun b => !(decode bf16 (leNat b)).isFinite) then .error 6
    else .ok ((List.range nrows).map fun i => bf16Row img t (row0 + i) (slice d (2 * t.k * i) (2 * t.k)))
  else
    match t.layout with
    | 2 => blockRows t nrows d
    | 1 =>
      let l := t.runLen t.b
      if d.length ≠ t.k / t.b * l * nrows then .error 7
      else .ok ((List.range nrows).map fun i => (pieces l (slice d (t.k / t.b * l * i) (t.k / t.b * l))).map (uniformRec t))
    | _ =>
      let l := t.runLen t.k
      if d.length ≠ l * nrows then .error 7
      else .ok ((List.range nrows).map fun i => pieces (t.runLen 16) (slice d (l * i) l))

/-! ### Stored forms -/

/-- Elements e to e + n of a row's pieces. -/
def rowRun (t : Tensor) (row : List Bytes) (e n : Nat) : Bytes := ((row.drop (e / t.unit)).take (n / t.unit)).flatten

def padTo (n : Nat) (b : Bytes) : Bytes := slice b 0 n

/-- One group's stored weights (R250, R251) from its 64 rows of pieces; `none` when a run does not fit. -/
def storedWeights (t : Tensor) (rows : List (List Bytes)) : Option Bytes :=
  if t.fill then
    let kap := kappa t.fmt
    let runs := (List.range (t.k / kap)).map fun i => rows.map fun r => rowRun t r (kap * i) kap
    if runs.any fun l => l.any fun r => decide (32 < r.length) then none
    else some (runs.flatMap fun l => padTo 2048 (l.flatMap (padTo 32)))
  else
    let runs := (List.range t.panels).map fun i => rows.map fun r => rowRun t r (t.panel * i) (min t.panel (t.k - t.panel * i))
    if runs.any fun l => l.any fun r => decide (64 * t.stride < r.length) then none
    else some (runs.flatMap fun l => padTo (1024 * t.panelRows) (l.flatMap (padTo (64 * t.stride))))

/-- The outlier table of a group (R253) from its shipped BF16 rows. -/
def outlierTable (img : Bytes) (t : Tensor) (raw : List Bytes) : Bytes :=
  padTo (1024 * ceilDiv (128 * t.noch) 1024) ((t.channels img).flatMap fun c => raw.flatMap fun r => slice r (2 * c) 2)

/-- The stored rows of group g of a tensor from its decompressed rows so far. -/
def groupStored (img : Bytes) (t : Tensor) (rows : List (List Bytes)) (raw : List Bytes) : Option Bytes :=
  (storedWeights t rows).map fun w => w ++ outlierTable img t raw

end Sys2Proof.Machine
end

