-- ==== Sys2Proof/Machine/Image.lean ====
section
/-! DEFINITION. The job image (R326 to R328, R333 to R336): its sections and records, and the checks of load step 2. A check
answers the refusal status of Table 12-7, 0 when it passes. -/

namespace Sys2Proof.Machine

/-- The first status of a list of checks that is not 0. -/
def firstStatus : List Nat → Nat
  | [] => 0
  | a :: t => if a = 0 then firstStatus t else a

/-- `st` when b holds. -/
def refuseIf (b : Bool) (st : Nat) : Nat := if b then st else 0

/-! ### Header (Table 12-1) -/

def imgIsa (i : Bytes) : Nat := byteAt i 6
def imgMinGrade (i : Bytes) : Nat := byteAt i 7
def imgQmode (i : Bytes) : Nat := byteAt i 8
def imgXmode (i : Bytes) : Nat := byteAt i 9
def imgTrace (i : Bytes) : Bool := decide (byteAt i 10 % 2 = 1)
def imgHasDir (i : Bytes) : Bool := decide (byteAt i 10 / 2 % 2 = 1)
def imgNrole (i : Bytes) : Nat := leAt i 20 2
def imgNprog (i : Bytes) : Nat := leAt i 22 2
def imgNsec (i : Bytes) : Nat := leAt i 24 2
def imgLaunch (i : Bytes) : Nat := leAt i 32 4
def imgDir (i : Bytes) : Nat := leAt i 36 4

/-- Step 1: MAGIC, VERSION, then DIGEST (R326). -/
def checkFormat (i : Bytes) : Nat :=
  firstStatus [refuseIf (decide (i.length < 256)) 1, refuseIf (decide (slice i 0 4 ≠ [0x59, 0x4A, 0x49, 0x31])) 1,
    refuseIf (decide (leAt i 4 2 ≠ 1)) 1, refuseIf (decide (sha512 (i.drop 256) ≠ slice i 64 64)) 1]

/-- Step 2, header: `step` 0 A0, 1 B0; `grade` the effective grade. -/
def checkHeader (i : Bytes) (step grade : Nat) : Nat :=
  let isa := imgIsa i
  let mg := imgMinGrade i
  let due := fun o => decide (imgXmode i = 1 ∧ leAt i o 2 < 256)
  firstStatus [refuseIf (!(decide (isa = 1) || (decide (isa = 2) && decide (step = 1)))) 2,
    refuseIf (decide (2 < mg)) 8, refuseIf (decide (grade = 3)) 4, refuseIf (decide (mg < grade)) 3,
    refuseIf (decide (imgQmode i ≠ 1 ∧ imgQmode i ≠ 2)) 8, refuseIf (decide (1 < imgXmode i)) 8, refuseIf (due 16) 8, refuseIf (due 18) 8,
    refuseIf (decide (imgNrole i = 0 ∨ 1024 < imgNrole i)) 8, refuseIf (decide (1024 < imgNprog i)) 8,
    refuseIf (decide (imgNsec i = 0 ∨ 64 < imgNsec i)) 1, refuseIf (decide (16384 < leAt i 30 2)) 8,
    refuseIf (decide (imgLaunch i % 64 ≠ 0 ∨ 1048576 < imgLaunch i + 64)) 8, refuseIf (decide (imgDir i % 64 ≠ 0)) 8]

/-! ### Sections (R327, Table 12-2) -/

structure Sect where
  typ : Nat
  idx : Nat
  off : Nat
  len : Nat
  deriving DecidableEq, Repr

def sections (i : Bytes) : List Sect := (List.range (imgNsec i)).map fun k =>
  let o := 256 + 16 * k
  { typ := leAt i o 2, idx := leAt i (o + 2) 2, off := leAt i (o + 4) 4, len := leAt i (o + 8) 4 }

def findSect (i : Bytes) (typ idx : Nat) : Option Sect := (sections i).find? fun x => decide (x.typ = typ) && decide (x.idx = idx)

/-- Bytes of a section; empty when it is absent. -/
def sectBytes (i : Bytes) (typ idx : Nat) : Bytes :=
  match findSect i typ idx with
  | some x => slice i x.off x.len
  | none => []

/-- No two elements related. -/
def noPair {α : Type} (f : α → α → Bool) : List α → Bool
  | [] => true
  | a :: t => !(t.any (f a)) && noPair f t

def indexed (typ : Nat) : Bool := decide (2 ≤ typ) && decide (typ ≤ 5)

/-- The content limits of Table 12-2. -/
def sectLong (x : Sect) : Bool :=
  match x.typ with
  | 2 => decide (x.len % 32 ≠ 0) || decide (131072 < x.len)
  | 3 => decide (1048576 < x.len)
  | 4 => decide (524288 < x.len)
  | 5 => decide (262080 < x.len)
  | 7 => decide (x.len % 8 ≠ 0)
  | 10 => decide (256 < x.len)
  | _ => false

/-! ### Shape (R328, Table 12-3) -/

def shapeW (b : Bytes) : Nat := byteAt b 0
def shapeH (b : Bytes) : Nat := byteAt b 1
def shapeN (b : Bytes) : Nat := leAt b 2 2
def shapeMap (b : Bytes) : Nat := 8 * ceilDiv (shapeW b * shapeH b) 64

/-- Used shape positions j·W + i, ascending. -/
def usedBits (b : Bytes) : List Nat := (List.range (8 * shapeMap b)).filter fun k => decide (byteAt b (8 + k / 8) / 2 ^ (k % 8) % 2 = 1)

/-- Region entry of the region with index `ridx` at shape position `pos`; r, x and y are filled at placement. -/
def regionEntry (b : Bytes) (ridx pos : Nat) : Placed :=
  let o := 8 + shapeMap b + 48 * ridx
  { r := 0, x := pos % shapeW b, y := pos / shapeW b, roles := (List.range 16).map fun n => leAt b (o + 2 * n) 2, prog := leAt b (o + 32) 2,
    wres := byteAt b (o + 34), wpage := byteAt b (o + 35), cache := byteAt b (o + 36), adpt := byteAt b (o + 37),
    dotmax := byteAt b (o + 38), pw := byteAt b (o + 39), dgroup := byteAt b (o + 40) }

def shapeRegions (b : Bytes) : List Placed := ((List.range (usedBits b).length).zip (usedBits b)).map fun e => regionEntry b e.1 e.2

/-- The shape's checks before its fit on the grid. -/
def checkShape (i b : Bytes) : Nat :=
  let w := shapeW b
  let h := shapeH b
  let rs := shapeRegions b
  let code := fun (n v : Nat) => decide (v = 0xFFFF) || decide (v < n)
  firstStatus [refuseIf (decide (w = 0 ∨ 32 < w ∨ h = 0 ∨ 27 < h ∨ b.length < 8)) 8,
    refuseIf (decide (b.length < 8 + shapeMap b + 48 * shapeN b)) 8,
    refuseIf (decide ((usedBits b).length ≠ shapeN b)) 8, refuseIf ((usedBits b).any fun k => decide (w * h ≤ k)) 8,
    refuseIf (rs.any fun r => !(r.roles.all (code (imgNrole i))) || !(code (imgNprog i) r.prog)) 8,
    refuseIf (rs.any fun r => decide (16 < r.wres + r.wpage + r.cache + r.adpt)) 8,
    refuseIf (rs.any fun r => decide (16 < r.dotmax) || decide (r.pw = 0) || decide (192 < r.pw)) 8]

/-- R327. -/
def checkSections (i : Bytes) : Nat :=
  let ss := sections i
  let has := fun t => ss.any fun x => decide (x.typ = t)
  let rs := shapeRegions (sectBytes i 1 0)
  let roles := rs.flatMap fun r => r.roles.filter fun v => decide (v ≠ 0xFFFF)
  let progs := (rs.map (·.prog)).filter fun v => decide (v ≠ 0xFFFF)
  firstStatus [refuseIf (decide (i.length < 256 + 16 * imgNsec i)) 1,
    refuseIf (ss.any fun x => decide (i.length < x.off + x.len)) 1,
    refuseIf (!(noPair (fun (a b : Sect) => decide (0 < a.len ∧ 0 < b.len ∧ a.off < b.off + b.len ∧ b.off < a.off + a.len)) ss)) 1,
    refuseIf (ss.any fun x => decide (x.typ = 0) || decide (13 < x.typ)) 1,
    refuseIf (!(noPair (fun (a b : Sect) => decide (a.typ = b.typ) && decide (a.idx = b.idx)) ss)) 1,
    refuseIf (ss.any fun x => !(indexed x.typ) && decide (x.idx ≠ 0)) 1,
    refuseIf (!(has 1)) 1, refuseIf (has 12 != has 13) 1,
    refuseIf (roles.any fun v => (findSect i 2 v).isNone) 1, refuseIf (progs.any fun v => (findSect i 5 v).isNone) 1,
    refuseIf (rs.any (fun r => decide (0 < r.wres)) && !(has 11)) 1,
    refuseIf (ss.any sectLong) 8]

/-! ### Fabric tables (R334) -/

/-- A destination word: sequencer, RIDX, n. -/
structure Dest where
  seq : Bool
  ridx : Nat
  n : Nat
  deriving DecidableEq, Repr

def destOf (w : Nat) : Dest := { seq := decide (w / 2 ^ 31 = 1), ridx := w / 256 % 2 ^ 23, n := w % 16 }

/-- Route entries: destination, row direction, column direction. -/
def routeTable (i : Bytes) : List (Dest × Nat × Nat) :=
  (pieces 8 (sectBytes i 7 0)).map fun e => (destOf (leAt e 0 4), byteAt e 4, byteAt e 5)

/-- Entries of a bridle or tree section: root and listed destinations. -/
def destLists (b : Bytes) : List (Dest × List Dest) :=
  (List.range (leAt b 0 4)).map fun k =>
    let o := 16 + 16 * k
    (destOf (leAt b o 4), (List.range (leAt b (o + 4) 2)).map fun j => destOf (leAt b (leAt b (o + 8) 4 + 4 * j) 4))

def checkLists (b : Bytes) (nreg : Nat) : Nat :=
  let n := leAt b 0 4
  let bad := fun (d : Dest) => decide (nreg ≤ d.ridx)
  if b.isEmpty then 0
  else firstStatus [refuseIf (decide (b.length < 16 ∨ 1024 < n)) 8, refuseIf (decide (b.length < 16 + 16 * n)) 8,
    refuseIf ((List.range n).any fun k =>
      let o := 16 + 16 * k
      let nt := leAt b (o + 4) 2
      let off := leAt b (o + 8) 4
      decide (nt = 0) || decide (4096 < nt) || decide (off < 16 + 16 * n) || decide (b.length < off + 4 * nt)) 8,
    refuseIf ((destLists b).any fun e => bad e.1 || e.1.seq || e.2.any bad) 8]

def checkTables (i : Bytes) (nreg : Nat) : Nat :=
  firstStatus [refuseIf ((routeTable i).any fun e => decide (nreg ≤ e.1.ridx) || decide (2 < e.2.1) || decide (2 < e.2.2)) 8,
    checkLists (sectBytes i 8 0) nreg, checkLists (sectBytes i 9 0) nreg]

/-! ### Rim extent requests (R335) -/

/-- STACK, write, shared, GiB, offset of the identity. -/
structure ExtReq where
  stack : Nat
  write : Bool
  shared : Bool
  len : Nat
  idOff : Nat
  deriving DecidableEq, Repr

def extRequests (i : Bytes) : List ExtReq := (pieces 16 (sectBytes i 10 0)).map fun e =>
  { stack := byteAt e 0, write := decide (byteAt e 1 % 2 = 1), shared := decide (byteAt e 1 / 2 % 2 = 1), len := leAt e 2 2,
    idOff := leAt e 4 4 }

/-! ### Cache geometry and serving record (R269, R296, R316, R336) -/

def geometryAt (i : Bytes) (e : Bytes) : Geometry :=
  let off := leAt e 20 4
  let creg := byteAt e 1
  { model := byteAt e 0, creg := creg, csplit := byteAt e 2, efmt := byteAt e 3, elayout := byteAt e 4, train := decide (byteAt e 5 = 1),
    qrows := byteAt e 6, escale := byteAt e 7, elem := leAt e 8 2, trows := leAt e 10 2, rslots := leAt e 12 4,
    layers := (List.range (leAt e 16 2)).map fun l => (List.range creg).map fun r =>
      let o := off + 8 * (l * creg + r)
      (leAt i o 4, leAt i (o + 4) 4) }

def geometries (i : Bytes) : List Geometry := (pieces 32 (sectBytes i 12 0)).map (geometryAt i)

/-- Entry stride (R268). -/
def Geometry.estride (g : Geometry) : Nat :=
  let n := if g.efmt = 12 then 2 * g.elem else if g.elayout = 1 then g.elem / 32 * 33 else g.elem
  64 * ceilDiv n 64

def Geometry.srows (g : Geometry) : Nat := if g.train then ceilDiv (64 / g.csplit * g.qrows * 8) 1024 else 0

/-- PROWS (R271). -/
def Geometry.prows (g : Geometry) : Nat := ceilDiv (64 / g.csplit * g.estride) 1024 + g.srows

/-- SLOTS of a model over the CACHE of its layer regions (R271). -/
def Geometry.slots (g : Geometry) (rs : List Placed) : Nat :=
  let all := g.layers.flatten.filterMap fun e => (rs[e.1]?).map fun r => (4096 * r.cache - g.trows) / g.prows
  match all with
  | [] => 0
  | a :: t => t.foldl min a

/-- Table 10-2. -/
def Geometry.bad (g : Geometry) (rs : List Placed) : Bool :=
  let fp8 := decide (g.efmt = 10) || decide (g.efmt = 11)
  decide (15 < g.model) || decide (g.creg = 0) || decide (16 < g.creg) || !([1, 2, 4, 8, 16].contains g.csplit)
    || !((fp8 && decide (g.elayout = 0) && decide (g.elem % 64 = 0)) || (fp8 && decide (g.elayout = 1) && decide (g.elem % 32 = 0))
      || (decide (g.efmt = 12) && decide (g.elayout = 0) && decide (g.elem % 32 = 0)))
    || decide (g.elem < 64) || decide (g.qrows = 0) || decide (64 < g.qrows) || decide (2 ^ 24 ≤ g.rslots)
    || g.layers.any (fun l => !(noPair (fun (a b : Nat × Nat) => decide (a.1 = b.1)) l) || l.any fun e => decide (rs.length ≤ e.1))
    || g.layers.any fun l => l.any fun e => match rs[e.1]? with
      | some r => decide (r.cache * 4096 < g.trows + g.prows)
      | none => true

def parseRule (e : Bytes) : StopRule :=
  { kind := byteAt e 0, incl := decide (byteAt e 1 % 2 = 1), toks := (List.range (if byteAt e 0 = 1 then 1 else min 3 (byteAt e 2))).map fun k => leAt e (4 + 4 * k) 4 }

def servingRec (i : Bytes) : Option ServingRec :=
  match findSect i 13 0 with
  | none => none
  | some x =>
    let b := slice i x.off x.len
    let nt := byteAt b 7
    let tOff := leAt b 36 4
    let rOff := leAt b 40 4
    some { vocab := leAt b 0 4, nshard := byteAt b 4, maxrows := byteAt b 5, pchunk := byteAt b 6, ctxmax := leAt b 8 4,
           fbk := BitVec.ofNat 32 (leAt b 12 4), fbkAddr := leAt b 16 4, fbkCn := byteAt b 20,
           commitRidx := leAt b 24 4, commitBase := leAt b 28 4, commitLog2 := byteAt b 32, commitCn := byteAt b 33,
           trees := if tOff = 0 then [] else (List.range nt).map fun k =>
             (List.range (byteAt i (tOff + 64 * k))).map fun j => if j = 0 then 0 else byteAt i (tOff + 64 * k + j),
           rules := if rOff = 0 then [] else (List.range 16).map fun q =>
             (List.range 16).map fun k => parseRule (slice i (rOff + 256 * q + 16 * k) 16) }

/-- Depth of node v of a tree given by parents. -/
def treeDepth (t : List Nat) : Nat → Nat → Nat
  | 0, _ => 0
  | n + 1, v => if v = 0 then 0 else 1 + treeDepth t n ((t[v]?).getD 0)

def treeBad (t : List Nat) : Bool :=
  decide (t.length < 2) || decide (64 < t.length)
    || (List.range t.length).any fun v => (decide (0 < v) && decide (v ≤ (t[v]?).getD 0)) || decide (15 < treeDepth t 64 v)

def ServingRec.bad (s : ServingRec) (i : Bytes) (nreg : Nat) : Bool :=
  let f := s.fbk.toNat
  decide (s.vocab < 2) || decide (262144 < s.vocab) || decide (s.nshard = 0) || decide (s.maxrows = 0) || decide (64 < s.maxrows)
    || decide (s.pchunk = 0) || decide (64 < s.pchunk) || decide (s.ctxmax < 64) || decide (2 ^ 31 < s.ctxmax)
    || (if flag s.fbk 31 then decide (leAt (sectBytes i 8 0) 0 4 ≤ f % 1024) || decide (f / 1024 % 2 ^ 21 ≠ 0)
        else decide (nreg ≤ f / 256 % 2 ^ 23))
    || decide (s.fbkAddr % 32 ≠ 0) || decide (1048576 < s.fbkAddr + 32 * s.maxrows) || decide (15 < s.fbkCn)
    || decide (nreg ≤ s.commitRidx) || decide (15 < s.commitCn) || decide (8 < s.trees.length) || s.trees.any treeBad

def checkRecords (i : Bytes) (rs : List Placed) : Nat :=
  firstStatus [refuseIf ((extRequests i).any fun e => e.write && e.shared) 8,
    refuseIf (decide ((sectBytes i 12 0).length % 32 ≠ 0)) 8, refuseIf ((geometries i).any fun g => g.bad rs) 8,
    refuseIf ((pieces 32 (sectBytes i 12 0)).any fun e => decide (1 < byteAt e 5)) 8,
    refuseIf (!(noPair (fun (a b : Geometry) => decide (a.model = b.model)) (geometries i))) 8,
    refuseIf (match servingRec i with
      | some r => r.bad i rs.length
      | none => false) 8,
    refuseIf (imgHasDir i && decide (1048576 < imgDir i + 4 * (17 * rs.length + 9))) 8]

/-- Does an enabled slot of a bundle hold an opcode, or a function code, that no ISA level defines (R105, R155)? Opcode 0 is NOP. -/
def badBundle (b : BitVec 256) : Bool :=
  (List.range 5).any fun k => flag b (7 - k) && decide ((slotOf b k).2.2.op ≠ 0) && !opDefined (slotOf b k).2.2

/-- The code of every role, as shipped (R105). -/
def checkCode (i : Bytes) : Nat :=
  refuseIf ((sections i).any fun x => decide (x.typ = 2) && (pieces 32 (slice i x.off x.len)).any fun c => badBundle (BitVec.ofNat 256 (leNat c))) 2

/-- Load step 2 whole (R105, R326 to R336): `lcols` the columns of the grid. -/
def checkImage (i : Bytes) (step grade lcols : Nat) : Nat :=
  let b := sectBytes i 1 0
  let rs := shapeRegions b
  firstStatus [checkHeader i step grade, checkSections i, checkShape i b, refuseIf (decide (lcols < shapeW b)) 5,
    refuseIf (decide (imgXmode i = 0 ∧ 128 < rs.length)) 7, checkCode i, checkTables i rs.length, checkRecords i rs]

/-! ### Patches (R333) -/

/-- Contents by target and index: key 65536·TARGET + INDEX. -/
abbrev Contents := Tab Bytes

/-- Section type of a patch target. -/
def targetType (t : Nat) : Nat :=
  match t with
  | 0 => 2
  | 1 => 3
  | 2 => 5
  | _ => 4

/-- Every section a patch may name, with its content. -/
def patchable (i : Bytes) : Contents :=
  ((sections i).filter fun x => indexed x.typ).foldl (fun t x =>
    let tgt := match x.typ with
      | 2 => 0
      | 3 => 1
      | 5 => 2
      | _ => 3
    tabAdd t (65536 * tgt + x.idx) (slice i x.off x.len)) []

/-- Apply one record; `val` gives value(KIND, ARG). `none` refuses the image with status 8. -/
def applyPatch (val : Nat → Nat → Option Nat) (c : Contents) (e : Bytes) : Option Contents :=
  let tgt := byteAt e 0
  let key := 65536 * tgt + leAt e 2 2
  let bit := leAt e 4 4
  let w := byteAt e 8
  let op := byteAt e 9
  let sh := byteAt e 10
  match tabFind c key, val (byteAt e 1) (leAt e 12 4) with
  | some b, some v0 =>
    if 3 < tgt ∨ w = 0 ∨ 64 < w ∨ 2 < op ∨ 63 < sh ∨ 8 * b.length < bit + w then none
    else
      let v := v0 >>> sh
      let o := bit / 8
      let n := (bit % 8 + w + 7) / 8
      let win := leAt b o n
      let f := win / 2 ^ (bit % 8) % 2 ^ w
      let g := match op with
        | 0 => v
        | 1 => f + v
        | _ => v % 2 ^ w
      if 2 ^ w ≤ g then none
      else some (tabAdd c key (splice b o (leBytes n (win - f * 2 ^ (bit % 8) + g * 2 ^ (bit % 8)))))
  | _, _ => none

def applyPatches (val : Nat → Nat → Option Nat) : List Bytes → Contents → Option Contents
  | [], c => some c
  | e :: t, c =>
    match applyPatch val c e with
    | some c => applyPatches val t c
    | none => none

end Sys2Proof.Machine
end

