-- ==== Sys2Proof/Machine/ThermOps.lean ====
section
/-! DEFINITION. Temperatures as the sensors last gave them (R63, R395, R396). Every reading is a code, T = code / 4 − 64 °C. -/

namespace Sys2Proof.Machine

def maxOpt (a b : Option Nat) : Option Nat :=
  match a, b with
  | some x, some y => some (max x y)
  | some x, none => some x
  | none, y => y

/-- The controlling reading of a core: the higher of its valid readings; none without power (R63, R396). -/
def Core.reading (c : Core) : Option Nat := if c.powered then maxOpt c.tempD c.tempR else none

/-- The highest controlling reading of a region's powered cores. -/
def State.junction (s : State) (r : Nat) : Option Nat :=
  (List.range 17).foldl (fun m k => maxOpt m (s.coreAt (17 * r + k)).reading) none

/-- Valid regulator readings: sensors lost are left out (R398). -/
def Region.regulatorMax (g : Region) : Option Nat :=
  g.regulators.foldl (fun m e => if g.regulatorsLost.contains e.1 then m else maxOpt m (some e.2)) none

/-- T_R (R396); none at PSTATE 0. -/
def State.regionTemp (s : State) (r : Nat) : Option Nat :=
  if (s.region r).pstate = 0 then none else maxOpt (s.junction r) (s.region r).regulatorMax

/-- The highest welt reading. -/
def State.weltMax (s : State) : Option Nat := s.thm.welt.foldl (fun m e => maxOpt m (some e.2)) none

/-- T_J over the regions listed in the state, and the welt (R396). -/
def State.deviceTemp (s : State) : Option Nat :=
  s.regions.foldl (fun m e => maxOpt m (s.regionTemp e.1)) s.weltMax

/-- Does R258 hold the ingest writes to region r: junction outside 10 to 100 °C, or the flow clamp of R411? -/
def State.ingestHeld (s : State) (r : Nat) : Bool :=
  flag (s.rd Reg.THM_STAT) 28 || (match s.junction r with
    | some c => decide (c < 296) || decide (656 < c)
    | none => false)

end Sys2Proof.Machine
end

