-- ==== Sys2Proof/Machine/Stretch.lean ====
section
/-! DEFINITION. Fields and their converters (R353, R354), cycle stretching (R200, R365, R413), and the standard conditions (R4, R5). -/

namespace Sys2Proof.Machine

/-! ### Fields -/

/-- Field of a region: f = 8·fr + fc (R353). -/
def fieldOf (r : Nat) : Nat := 8 * (r / 32 / 4) + r % 32 / 4

/-- The 16 regions of field f. -/
def fieldRegions (f : Nat) : List Nat := (List.range 16).map fun i => 32 * (4 * (f / 8) + i / 4) + 4 * (f % 8) + i % 4

/-- Working converters of a field: one bit each, 3f + i. -/
def State.convertersOf (s : State) (f : Nat) : Nat := ((List.range 3).filter fun i => flag s.pwr.converters (3 * f + i)).length

/-- Region power limit in 0.25 W units (Table 13-1, R356). -/
def State.regionLimit (s : State) (r : Nat) : Nat :=
  if s.convertersOf (fieldOf r) ≤ 1 then 92
  else if s.fld (Reg.RGNW_PWR_PHASE r) 15 8 = 0 then 192 else 168

/-- Show LIMIT in RGNW_PWR_LIMIT. -/
def State.showLimit (s : State) (r : Nat) : State := s.setFld (Reg.RGNW_PWR_LIMIT r) 15 8 (s.regionLimit r)

/-! ### Stretching -/

/-- Levels the sources of R365 ask of region r: overrun, field cap, rush priority, thermal. -/
def State.stretchAsk (s : State) (r : Nat) : Nat × Nat × Nat × Nat :=
  let g := s.region r
  let f := fieldOf r
  let rush := match tabFind s.pwr.rush f with
    | some w => if w = r then 0 else 7
    | none => 0
  (if g.overrun then 4 else 0, s.fld (Reg.PWR_FIELD f) 28 26, rush, max g.kTherm g.capTherm)

/-- The governor's hold value, for a region in a partition (R413). -/
def State.governorOn (s : State) (r : Nat) : Nat := if (s.owner r).isSome then s.fld Reg.THM_GOV 31 24 else 0

/-- The highest level asked of region r by itself; 7 in the hold-up of R352, 8 (every cycle) under the flow clamp. -/
def State.ownLevel (s : State) (r : Nat) : Nat :=
  let (a, b, c, d) := s.stretchAsk r
  let k := max (max a b) (max c d)
  if flag (s.rd Reg.THM_STAT) 28 then 8 else if s.pwr.holdUp then 7 else k

/-- The level a stall-mode partition applies everywhere (R365), and its governor value. -/
def State.partLevel (s : State) (p : Nat) : Nat × Nat :=
  ((s.part p).placed.foldl (fun m g => max m (s.ownLevel g.r)) 0, s.fld Reg.THM_GOV 31 24)

/-- Announce a change of stretching to a stall-mode partition: it applies 64 wall cycles later (R200, R203). -/
def State.announcePart (s : State) (p : Nat) : State :=
  let x := s.part p
  let lv := s.partLevel p
  let last := match x.stretch.reverse with
    | e :: _ => e.2
    | [] => (0, 0)
  if x.stall && decide (s.pstate p ≠ 0) && decide (lv ≠ last) then
    s.setPart p { x with stretch := x.stretch ++ [(x.wall + 64, lv.1, lv.2)] }
  else s

/-- Announce to the partition of region r. -/
def State.announce (s : State) (r : Nat) : State :=
  match s.owner r with
  | some p => s.announcePart p
  | none => s

def State.announceAll (s : State) : State := s.liveParts.foldl State.announcePart s

/-- PSTATE, STRETCH and SRC of RGNW_PWR_STAT as a read shows them (Table 13-8). -/
def State.powerWord (s : State) (r coresOn : Nat) : Word :=
  let g := s.region r
  let (a, b, c, d) := s.stretchAsk r
  let ann := match s.owner r with
    | some p => if (s.part p).stall then (s.partLevel p).1 else 0
    | none => 0
  let k := min 7 (max (s.ownLevel r) ann)
  let bit := fun (b : Bool) (n : Nat) => if b then 2 ^ n else 0
  BitVec.ofNat 32 ((if g.poweringDown then 3 else g.pstate) * 2 ^ 29 + k * 2 ^ 26 + bit (decide (0 < a)) 21 + bit (decide (0 < b)) 22
    + bit (decide (0 < c)) 23 + bit (decide (0 < d) || decide (0 < s.governorOn r)) 24 + bit (decide (0 < ann)) 25 + coresOn)

/-- Regions throttled now, for LDR_PART_BUDGETp. -/
def State.throttledOf (s : State) (p : Nat) : Nat := ((s.part p).placed.filter fun g => (s.region g.r).overrun).length

/-! ### Standard conditions -/

/-- LEVEL of RGNW_THM_STAT. -/
def State.levelOf (s : State) (r : Nat) : Nat := s.fld (Reg.RGNW_THM_STAT r) 31 30

/-- Columns of the full grid of the module's grade (R6). -/
def State.gradeCols (s : State) : Nat :=
  match s.boot.fuses with
  | some f => if f.grade = 0 then 32 else 30
  | none => 32

/-- The conditions of R4 that do not hold: 1 clock, 2 grid, 3 junction, 4 coolant, 5 power, 6 faults. -/
def State.conditionsNow (s : State) : List Nat :=
  let clock := decide (s.fld Reg.PWR_CLK 5 4 ≠ 0) || decide (s.fld Reg.THM_GOV 31 24 ≠ 0)
    || s.regions.any fun e => decide (e.2.pstate ≠ 0) && decide (s.ownLevel e.1 ≠ 0)
  let grid := decide (s.last.lcols < s.gradeCols) || s.last.cols.isEmpty
  let junction := s.regions.any fun e => decide (2 ≤ s.levelOf e.1)
  let power := !((List.range 2).any fun f => s.pwr.valid.getD f false && decide (4000 ≤ s.pwr.volts.getD f 0) && decide (s.pwr.volts.getD f 0 ≤ 6000))
  let faults := flag (s.rd Reg.FLT_STAT) 31
    || s.liveParts.any fun p => decide (3 ≤ s.pstate p) && decide (3 ≤ s.ersn p) && decide (s.ersn p ≤ 9)
  (if clock then [1] else []) ++ (if grid then [2] else []) ++ (if junction then [3] else []) ++ (if s.thm.condLost.isEmpty then [] else [4])
    ++ (if power then [5] else []) ++ (if faults then [6] else [])

/-- Bytes 8 and 9 of a condition event (Table 17-4). -/
def State.conditionData (s : State) (c : Nat) : Bytes :=
  if c = 1 then leBytes 2 (s.fld Reg.PWR_CLK 1 0) else if c = 2 then leBytes 2 s.last.lregions else []

/-- R5: once READY, an event when a condition is lost and when it is regained. -/
def State.checkConditions (s : State) : State :=
  if !flag (s.rd Reg.STG_STAT) 31 then s
  else
    let old := s.boot.conditionsLost
    let now := s.conditionsNow
    let s := { s with boot := { s.boot with conditionsLost := now } }
    let s := (now.filter fun c => !old.contains c).foldl (fun s c => s.logEvent 2 c (s.conditionData c)) s
    (old.filter fun c => !now.contains c).foldl (fun s c => s.logEvent 3 c (s.conditionData c)) s

end Sys2Proof.Machine
end

