-- ==== Sys2Proof/Machine/Place.lean ====
section
/-! DEFINITION. Endpoint assignment (R220, R222), placement of a shape (R329, R330), the tables of a partition (R226, R229, R334),
rim extents (R243, R335), held weights (R240) and the sharing rule (R457). -/

namespace Sys2Proof.Machine

/-! ### Endpoints -/

/-- The welt endpoints with the logical hub of their entry (Table 08-4); of several hubs, the first. -/
def weltPlaces (lcols : Nat) : List (WeltEp × Nat × Nat) :=
  let quarter := fun q => ((List.range lcols).find? fun x => decide (4 * x / lcols = q)).getD 0
  [(.mgmt, lcols / 2, 0), (.serving, lcols / 2 - 1, 0), (.host 0, quarter 1, 0), (.host 1, quarter 2, 0)]
    ++ (List.range 16).map (fun s => (.rim s, (rimHubs lcols s).headD (0, 0)))
    ++ (List.range 32).map (fun k => (.edge k, if k < 16 then 0 else lcols - 1, 27 * (k % 16) / 16))
    ++ (List.range 8).map (fun u => (.sampling u, if u < 4 then 0 else lcols - 1, 3 + 6 * (u % 4)))
    ++ [(.ingest, 0, 26), (.faultCtl, lcols / 2, 26)]

/-- Entries whose key is 0xFFFF and which no partition may reach (R224). -/
def weltPrivate (w : WeltEp) : Bool := decide (w = .mgmt) || decide (w = .faultCtl)

/-- An identifier's tag: the spec leaves its value open. -/
def freeTag (n : Nat) : Nat := Config.pick n % 1024

/-- The endpoint table of the last in force (R220): an entry for every core and sequencer of a live region, and the welt's; the
index of an entry is its place in the grid (DESIGN CHOICE, assumption 18), the tag is free. -/
def State.freshEndpoints (s : State) : Tab Endpoint :=
  let l := s.last.lcols
  let grid := (List.range (27 * l)).flatMap fun i =>
    match s.last.phys (i / 27) (i % 27) with
    | none => []
    | some r =>
      if s.dead r then []
      else (List.range 17).map fun n =>
        (17 * i + n, ({ tag := freeTag (s.fresh + 17 * i + n), key := 0, shared := false, x := i / 27, y := i % 27,
                        port := if n = 16 then .seq else .core n, rowDir := 0, colDir := 0, part := none } : Endpoint))
  let ws := weltPlaces l
  grid ++ ((List.range ws.length).zip ws).map fun e =>
    (17 * 27 * 32 + e.1, ({ tag := freeTag (s.fresh + 14688 + e.1), key := 0xFFFF, shared := !weltPrivate e.2.1, x := e.2.2.1,
                            y := e.2.2.2, port := .welt e.2.1, rowDir := 0, colDir := 0, part := none } : Endpoint))

/-- The fabric manager assigns identifiers when a last takes effect; partitions keep the entries of their regions (R25, R220). -/
def State.assignEndpoints (s : State) : State :=
  let old := s.fab.endpoints
  let t := s.freshEndpoints.map fun e =>
    match old.find? fun o => decide (o.2.x = e.2.x) && decide (o.2.y = e.2.y) && decide (o.2.port = e.2.port) && o.2.part.isSome with
    | some o => (e.1, o.2)
    | none => e
  { s with fab := { s.fab with endpoints := t }, fresh := s.fresh + 16384 }

/-- Directions of a destination in an image's route table. -/
def dirsFor (tbl : List (Dest × Nat × Nat)) (seq : Bool) (ridx n : Nat) : Nat × Nat :=
  match tbl.find? fun e => decide (e.1.seq = seq) && decide (e.1.ridx = ridx) && (seq || decide (e.1.n = n)) with
  | some e => e.2
  | none => (0, 0)

/-- Give the endpoints of the placed regions to partition p (R220, R456): its key, new tags, the image's directions. -/
def State.giveEndpoints (s : State) (p key : Nat) (rs : List Placed) (tbl : List (Dest × Nat × Nat)) : State :=
  let t := s.fab.endpoints.map fun e =>
    match e.2.port, rs.findIdx? fun g => decide (g.x = e.2.x) && decide (g.y = e.2.y) with
    | .core n, some i =>
      let d := dirsFor tbl false i n
      (e.1, { e.2 with tag := freeTag (s.fresh + e.1), key := key, part := some p, rowDir := d.1, colDir := d.2 })
    | .seq, some i =>
      let d := dirsFor tbl true i 0
      (e.1, { e.2 with tag := freeTag (s.fresh + e.1), key := key, part := some p, rowDir := d.1, colDir := d.2 })
    | _, _ => e
  { s with fab := { s.fab with endpoints := t }, fresh := s.fresh + 16384 }

/-! ### Bridles and trees -/

/-- Hubs and output directions of a dimension-ordered route, destination excluded. -/
def routeSteps (lcols : Nat) (a b : Nat × Nat) (d : Nat × Nat) : List ((Nat × Nat) × Nat) :=
  let rp := ringPlus lcols a.1 b.1 d.1
  let cp := ringPlus 27 a.2 b.2 d.2
  ((ringWalk lcols a.1 b.1 rp 32).dropLast.map fun x => ((x, a.2), if rp then 0 else 1))
    ++ (ringWalk 27 a.2 b.2 cp 27).dropLast.map fun y => ((b.1, y), if cp then 2 else 3)

/-- Insert b into the branches of hub h. -/
def addAt (t : List ((Nat × Nat) × List Branch)) (h : Nat × Nat) (b : Branch) : List ((Nat × Nat) × List Branch) :=
  match t with
  | [] => [(h, [b])]
  | (g, l) :: r => if g = h then (g, if l.contains b then l else l ++ [b]) :: r else (g, l) :: addAt r h b

def placeOf (rs : List Placed) (d : Dest) : Nat × Nat := ((rs[d.ridx]?).map fun g => (g.x, g.y)).getD (0, 0)

/-- The local branch of a destination. -/
def localBranch (d : Dest) : Branch := if d.seq then .seq else .core d.n

/-- The branches of a bridle at each hub of its tree. -/
def bridleHubs (lcols : Nat) (rs : List Placed) (tbl : List (Dest × Nat × Nat)) (root : Dest) (targets : List Dest) : List ((Nat × Nat) × List Branch) :=
  targets.foldl (fun t d =>
    let b := placeOf rs d
    let t := (routeSteps lcols (placeOf rs root) b (dirsFor tbl d.seq d.ridx d.n)).foldl (fun t st => addAt t st.1 (.dir st.2)) t
    addAt t b (localBranch d)) []

/-- Hubs that the ring branches of a bridle reach. -/
def reached (lcols : Nat) (t : List ((Nat × Nat) × List Branch)) : List (Nat × Nat) :=
  t.flatMap fun e => e.2.filterMap fun b => match b with
    | .dir q => some (ringNext lcols e.1 q)
    | _ => none

/-- Does each hub of the bridle take the flit from one hub only, and its root from none? Else its paths are no tree of
dimension-ordered paths, and the image is refused with status 9 (DESIGN CHOICE, assumption 19). -/
def bridleOk (lcols : Nat) (root : Nat × Nat) (t : List ((Nat × Nat) × List Branch)) : Bool :=
  let hs := reached lcols t
  nodup hs && !(hs.contains root)

/-- The hubs of a reduction tree: contributing inputs, and output. -/
def treeHubs (lcols : Nat) (rs : List Placed) (tbl : List (Dest × Nat × Nat)) (root : Dest) (from_ : List Dest) :
    List ((Nat × Nat) × List Branch) :=
  from_.foldl (fun t d =>
    let a := placeOf rs d
    let t := addAt t a (localBranch d)
    (routeSteps lcols a (placeOf rs root) (dirsFor tbl root.seq root.ridx root.n)).foldl (fun t st =>
      addAt t (ringNext lcols st.1 st.2) (.dir (opp st.2))) t) []

/-- Output of hub h of a tree. -/
def treeOut (lcols : Nat) (tbl : List (Dest × Nat × Nat)) (rs : List Placed) (root : Dest) (h : Nat × Nat) : Branch :=
  match routeSteps lcols h (placeOf rs root) (dirsFor tbl root.seq root.ridx root.n) with
  | (_, q) :: _ => .dir q
  | [] => .core root.n

/-- Write the partition's bridle and tree entries; `none` when a path is refused (status 9). -/
def State.buildTables (s : State) (key : Nat) (img : Bytes) (rs : List Placed) : Option State :=
  let l := s.last.lcols
  let tbl := routeTable img
  let bs := destLists (sectBytes img 8 0)
  let ts := destLists (sectBytes img 9 0)
  let hub := fun (h : Nat × Nat) => (s.last.phys h.1 h.2).getD 0
  if bs.any fun e => !(bridleOk l (placeOf rs e.1) (bridleHubs l rs tbl e.1 e.2)) then none
  else if ts.any fun e => e.2.any fun d => d.seq then none
  else
    let bes := ((List.range bs.length).zip bs).flatMap fun e => (bridleHubs l rs tbl e.2.1 e.2.2).map fun h =>
      ({ r := hub h.1, key := key, index := e.1, branches := h.2 } : BridleEntry)
    let tes := ((List.range ts.length).zip ts).flatMap fun e => (treeHubs l rs tbl e.2.1 e.2.2).map fun h =>
      let p := placeOf rs e.2.1
      ({ r := hub h.1, key := key, index := e.1, inputs := h.2, out := treeOut l tbl rs e.2.1 h.1, dest := s.idOf p.1 p.2 (.core e.2.1.n) } : TreeEntry)
    some { s with fab := { s.fab with bridles := s.fab.bridles ++ bes, trees := s.fab.trees ++ tes } }

/-- Does every hub's bridle and tree store fit (R226, R229)? -/
def State.storesFit (s : State) : Bool :=
  (s.fab.bridles.all fun e => decide ((s.fab.bridles.filter fun x => decide (x.r = e.r)).length ≤ 4096))
    && s.fab.trees.all fun e => decide ((s.fab.trees.filter fun x => decide (x.r = e.r)).length ≤ 4096)

/-! ### Availability (R329) and power (R342, R354, R356) -/

def State.available (s : State) (r pw : Nat) : Bool :=
  let g := s.region r
  !s.dead r && g.part.isNone && !g.zeroizing && !g.poweringDown && !s.colTouched (r % 32) && decide (pw ≤ s.regionLimit r)

/-- Quarter watts over every region of every loaded partition. -/
def State.committedPw (s : State) : Nat :=
  ((s.liveParts.flatMap fun p => (s.part p).placed.map (·.pw))).foldl (· + ·) 0

/-- LDR_PWR_STAT.COMMITTED, W rounded up, and OVERCOMMIT. -/
def State.pwrStat (s : State) : Word :=
  let c := ceilDiv (10000 + s.committedPw) 4
  let lim := min 30000 (s.fld Reg.LDR_PWR_LIMIT 15 0)
  BitVec.ofNat 32 ((if lim < c then 2 ^ 31 else 0) + c % 65536)

/-! ### Held weights (R240) and sharing (R457) -/

/-- Tensor records, placement entries and tensor digests of a manifest that concern the region at shape position (x, y). -/
def identityBytes (img : Bytes) (m : Nat) (at_ : Place → Bool) : Bytes :=
  (tensors img m).flatMap fun t =>
    let mine := (List.range t.nplace).filter fun g => at_ (placeAt img t g)
    if mine.isEmpty then [] else slice img (m + 8 + 48 * t.pos) 48 ++ mine.flatMap (fun g => slice img (t.placeOff + 16 * g) 16) ++ tensorDigest img m t.pos

/-- Offset of the manifest section. -/
def manifestAt (img : Bytes) : Option Nat := (findSect img 11 0).map (·.off)

/-- Weight identity of the region at shape position (x, y). -/
def regionIdentity (img : Bytes) (x y : Nat) : Bytes :=
  match manifestAt img with
  | some m => sha512 (identityBytes img m fun p => decide (p.x = x ∧ p.y = y))
  | none => []

/-- The weight identity of a whole image, which its shared extents carry (R261). -/
def imageIdentity (img : Bytes) : Bytes :=
  match manifestAt img with
  | some m => sha512 (identityBytes img m fun _ => true)
  | none => zeros 64

/-- Model identity (R457). -/
def modelIdentity (img : Bytes) : Bytes :=
  match findSect img 11 0 with
  | some x => sha512 (slice img x.off x.len)
  | none => zeros 64

/-- Key table entry of partition p: KEY and TGROUP. -/
def State.keyEntry (s : State) (p : Nat) : Nat × Nat := tabGet (0, 0) s.sec.keys p

/-- TGROUP of a key. -/
def State.groupOf (s : State) (key : Nat) : Option Nat := (s.sec.keys.find? fun e => decide (e.2.1 = key)).map fun e => e.2.2

def State.policyOf (s : State) (model : Bytes) : List PolicyModel := s.sec.models.filter fun m => decide (m.id = model)

/-- May the model be loaded by a partition of this tenant group (R457)? -/
def State.modelAllowed (s : State) (model : Bytes) (tg : Nat) : Bool :=
  !s.sec.listed || (s.policyOf model).any fun m => decide (m.tgroup = 255) || decide (m.tgroup = tg)

/-- Do two keys share a model, `model` being the one recorded with what is shared? -/
def State.keysShare (s : State) (a b : Nat) (model : Bytes) : Bool :=
  decide (a = b) || (match s.groupOf a, s.groupOf b with
    | some x, some y => decide (x = y)
    | _, _ => false)
    || (s.sec.listed && (s.policyOf model).any (·.share))

/-- Is the region's held content reused by an image that places entry g on it (R240)? -/
def State.reusable (s : State) (key : Nat) (img : Bytes) (shape : Nat × Nat) (g : Placed) : Bool :=
  let h := s.region g.r
  flag (s.rd (Reg.RGNW_POOL g.r)) 2 && !flag (s.rd (Reg.RGNW_POOL g.r)) 1 && !h.heldBad
    && decide (h.heldId = regionIdentity img shape.1 shape.2) && decide (h.heldX = g.x) && decide (h.heldY = g.y)
    && decide (s.poolWres g.r = g.wres) && s.keysShare h.heldKey key h.heldModel

/-! ### Rim extents -/

def extOverlap (a b : Extent) : Bool := decide (a.stack = b.stack) && decide (a.base < b.base + b.len) && decide (b.base < a.base + a.len)

/-- Every extent that takes space: granted, shared and still named, or being cleared. -/
def State.takenExtents (s : State) : List Extent :=
  (s.liveParts.flatMap fun p => (s.part p).extents.map (·.2)) ++ s.rim.sharedExts ++ s.rim.clearing

/-- Lowest base of stack st at which len GiB are free, in a stack that is up. -/
def State.freeBase (s : State) (taken : List Extent) (st len : Nat) : Option Nat :=
  let cap := s.fld (Reg.RIM_STACK st) 23 17
  if s.fld (Reg.RIM_STACK st) 31 30 ≠ 1 then none
  else (List.range (cap + 1)).find? fun b => decide (b + len ≤ cap)
    && !(taken.any (extOverlap { stack := st, base := b, len := len, write := false, shared := false, identity := [], model := [], key := 0 }))

/-- Grant one request: an extent, or a refusal status (R335). -/
def State.grantExtent (s : State) (key : Nat) (img : Bytes) (taken : List Extent) (q : ExtReq) : Except Nat Extent :=
  let ident := slice img q.idOff 64
  let fresh : Except Nat Extent :=
    let tried := if q.stack = 255 then List.range 16 else [q.stack]
    match tried.findSome? fun st => (s.freeBase taken st q.len).map fun b => (st, b) with
    | none => .error 11
    | some (st, b) =>
      if q.len = 0 then .error 11
      else .ok { stack := st, base := b, len := q.len, write := q.write, shared := q.shared, identity := if q.shared then ident else [],
                 model := if q.shared then modelIdentity img else [], key := key }
  if q.shared then
    match s.rim.sharedExts.find? fun e => decide (e.identity = ident) with
    | some e =>
      if (q.stack ≠ 255 ∧ q.stack ≠ e.stack) ∨ e.len ≠ q.len then .error 11
      else if s.keysShare e.key key e.model then .ok e else .error 14
    | none => fresh
  else fresh

/-- Grant every request in order. -/
def State.grantAll (s : State) (key : Nat) (img : Bytes) : List ExtReq → List Extent → Except Nat (List Extent)
  | [], got => .ok got
  | q :: t, got =>
    match s.grantExtent key img (s.takenExtents ++ got) q with
    | .ok e => s.grantAll key img t (got ++ [e])
    | .error n => .error n

/-! ### A candidate origin (R330, R223) -/

/-- The regions of a shape at origin (x0, y0), with their physical regions; `none` when it does not lie on the grid. -/
def State.regionsAt (s : State) (img : Bytes) (x0 y0 : Nat) : Option (List Placed) :=
  let b := sectBytes img 1 0
  let rs := (shapeRegions b).map fun g => (s.last.phys (x0 + g.x) (y0 + g.y)).map fun r => { g with r := r, x := x0 + g.x, y := y0 + g.y }
  if s.last.lcols < x0 + shapeW b ∨ 27 < y0 + shapeH b ∨ rs.any Option.isNone then none else some (rs.filterMap id)

/-- Links, as consecutive hubs, of a list of routes. -/
def linksOf (rs : List (List Nat × Bool)) : List (Nat × Nat) := rs.flatMap fun r => hopsOf r.1

/-- R223, for every stall-mode partition after a placement: its own routes stay inside it, no other route enters it. -/
def State.stallRoutesOk (s : State) : Bool :=
  s.liveParts.all fun p =>
    let hubs := (s.part p).placed.map (·.r)
    let inside := fun (l : Nat × Nat) => hubs.contains l.1 && hubs.contains l.2
    let own := hubs.filterMap fun r => s.last.logical r
    !(s.part p).stall
      || ((own.all fun a => own.all fun b =>
            (hopsOf (s.routePath b a (s.dirsOf a).1 (s.dirsOf a).2)).all inside)
        && (s.liveParts.all fun q => decide (q = p) || !((linksOf (s.partRoutes q)).any inside)))

/-- What the tables are after placing partition p at these regions; `none` for a table refusal. -/
def State.withPlacement (s : State) (p key : Nat) (img : Bytes) (rs : List Placed) : Option State :=
  let s := s.modPart p fun x => { x with placed := rs }
  (s.giveEndpoints p key rs (routeTable img)).buildTables key img rs

/-- Is the origin taken: every region available, the routes buildable (R212, R223), the stores fitting? -/
def State.originOk (s : State) (p key : Nat) (img : Bytes) (rs : List Placed) : Bool :=
  (rs.all fun g => s.available g.r g.pw) && match s.withPlacement p key img rs with
    | some t => t.routesClear p && t.stallRoutesOk && t.storesFit
    | none => true

/-- The origins to try, in order (R330, R340): `cmd` the origin of LDR_CMD. -/
def State.origins (s : State) (img : Bytes) (cmd : Option (Nat × Nat)) : List (Nat × Nat) :=
  match cmd with
  | some o => [o]
  | none =>
    if byteAt img 28 < 255 ∧ byteAt img 29 < 255 then [(byteAt img 28, byteAt img 29)]
    else if flag (s.rd Reg.GLB_MODE) 3 then []
    else (List.range (27 * s.last.lcols)).map fun i => (i % s.last.lcols, i / s.last.lcols)

/-- The placement: in the search, first the origins at which held weights are reused in every region that has resident ones. -/
def State.choose (s : State) (p key : Nat) (img : Bytes) (cmd : Option (Nat × Nat)) : Option (List Placed) :=
  let os := s.origins img cmd
  let shape := shapeRegions (sectBytes img 1 0)
  let ok := fun (o : Nat × Nat) => match s.regionsAt img o.1 o.2 with
    | some rs => if s.originOk p key img rs then some rs else none
    | none => none
  let reuse := fun (rs : List Placed) => (shape.zip rs).all fun e => decide (e.2.wres = 0) || s.reusable key img (e.1.x, e.1.y) e.2
  match os.findSome? fun o => (ok o).bind fun rs => if reuse rs then some rs else none with
  | some rs => some rs
  | none => os.findSome? ok

/-- The x0, y0 of a placement. -/
def originOf (img : Bytes) (rs : List Placed) : Nat × Nat :=
  match shapeRegions (sectBytes img 1 0), rs with
  | g :: _, h :: _ => (h.x - g.x, h.y - g.y)
  | _, _ => (0, 0)

end Sys2Proof.Machine
end

