-- ==== Sys2Proof/Machine/JobOps.lean ====
section
/-! DEFINITION. What a load, the ingest engine and the end of a job share: held weights (R240), zeroization (R459), the end of a load
(R339), and the ingest engine's writes (R256 to R262). -/

namespace Sys2Proof.Machine

/-! ### Held weights -/

/-- Clear rows of the 16 logical slices of region r, row `from_` on. -/
def State.clearRows (s : State) (r from_ n : Nat) : State :=
  (List.range 16).foldl (fun s i => match s.sliceKey r i with
    | some k => s.modCoreAt k fun c => { c with slice := memClear c.slice (1024 * from_) (1024 * n) }
    | none => s) s

/-- Release of held weights (R240): their rows are zeroized, and RELEASING reads 1 until HELD_WEIGHT_RELEASE_DONE. -/
def State.releaseHeld (s : State) (r : Nat) : State :=
  let s := s.clearRows r 0 (4096 * s.poolWres r)
  let s := (((s.setFld (Reg.RGNW_POOL r) 3 3 0).setFld (Reg.RGNW_POOL r) 2 2 0).setFld (Reg.RGNW_POOL r) 1 1 1)
  (s.wr (Reg.RGNW_POOL_ID r) 0).modRegion r fun g => { g with heldId := [], heldModel := [], heldKey := 0, heldBad := false }

def State.holds (s : State) (r : Nat) : Bool := flag (s.rd (Reg.RGNW_POOL r)) 2
def State.sealedW (s : State) (r : Nat) : Bool := flag (s.rd (Reg.RGNW_POOL r)) 3
def State.releasing (s : State) (r : Nat) : Bool := flag (s.rd (Reg.RGNW_POOL r)) 1

/-! ### Zeroization (R346 step 5, R459) -/

/-- Fabric step: endpoint keys, bridles, trees, flits and rounds of partition p. -/
def State.purgeFabric (s : State) (p : Nat) : State :=
  let key := (s.part p).key
  let f := s.fab
  { s with fab := { f with
      endpoints := f.endpoints.map fun e => if e.2.part = some p then (e.1, { e.2 with key := 0 }) else e,
      bridles := f.bridles.filter fun b => decide (b.key ≠ key), trees := f.trees.filter fun t => decide (t.key ≠ key),
      flits := f.flits.filter fun x => decide (x.key ≠ key), rounds := f.rounds.filter fun x => decide (x.key ≠ key) } }

/-- Zeroization begins: STATE 4, the fabric purged, cores zeroizing, sequencers back in the service program. -/
def State.beginZeroize (s : State) (p : Nat) : State :=
  let s := ((s.purgeFabric p).setPState p 4).modPart p fun x => { x with stopTime := some s.time }
  (s.part p).placed.foldl (fun s g =>
    let s := s.mapCores g.r fun _ c =>
      { c with phase := match c.phase with
          | .failed => .failed
          | .off => .off
          | _ => .zeroizing }
    s.modRegion g.r fun x => { x with zeroizing := true, seq := { x.seq with state := if x.pstate = 0 then 0 else 1 }, emissions := [], moves := [],
                                      le := ListEngine.idle }) s

/-- A core whose items of Table 17-10 are cleared; what it serves, its power and its sensors stay. -/
def Core.cleared (c : Core) : Core :=
  { Core.zero with phase := match c.phase with
                     | .failed => .failed
                     | .off => .off
                     | _ => .idle,
                   powered := c.powered, logical := c.logical, slice := c.slice, tempD := c.tempD, tempR := c.tempR, suspect := c.suspect,
                   suspectSince := c.suspectSince, missingSince := c.missingSince, lastDisagreeLog := c.lastDisagreeLog,
                   det := c.det }

/-- The region items of Table 17-10, and the region's return to no partition: sealed resident weights stay, marked held. -/
def State.clearRegion (s : State) (r : Nat) : State :=
  let keep := if s.sealedW r then s.poolWres r else 0
  let s := s.clearRows r (4096 * keep) (4096 * (16 - keep))
  let s := s.mapCores r fun _ c => c.cleared
  let s := s.modRegion r fun g =>
    { g with part := none, zeroizing := false, seq := { Sequencer.zero with state := if g.pstate = 0 then 0 else 1 }, ringSlot := [], ringHigh := [],
             emissions := [], moves := [], trace := [], keeper := Keeper.zero, le := ListEngine.idle, dotmax := 0, pw := 0, dgroup := 0,
             overrun := false, cleanWindows := 0 }
  let s := (List.range 4).foldl (fun s i => ((s.wr (Reg.RGNW_SQ_RING_A r i) 0).wr (Reg.RGNW_SQ_RING_B r i) 0).wr (Reg.RGNW_SQ_RING_DUE r i) 0) s
  let s := s.setFld (Reg.RGNW_PWR_LIMIT r) 7 0 0
  s.wr (Reg.RGNW_POOL r) (if s.dead r then 0xFF000000 else if keep = 0 then (if s.releasing r then 0xFF000002 else 0xFF000000)
    else BitVec.ofNat 32 (255 * 2 ^ 24 + keep * 2 ^ 19 + 12))

/-- Rim extents of an ended job: shared ones that a loaded or queued image still names stay, the others are cleared (R243, R459). -/
def State.endExtents (s : State) (p : Nat) : State :=
  let mine := (s.part p).extents.map (·.2)
  let others := (s.liveParts.filter fun q => decide (q ≠ p)).flatMap fun q => (s.part q).extents.map (·.2)
  let named := fun (e : Extent) => e.shared && others.any fun o => decide (o.stack = e.stack ∧ o.base = e.base)
  let gone := mine.filter fun e => !(named e)
  let s := { s with rim := { s.rim with clearing := s.rim.clearing ++ gone,
                                        sharedExts := s.rim.sharedExts.filter fun e => !(gone.any fun o => decide (o.stack = e.stack ∧ o.base = e.base)) } }
  if gone.isEmpty then s else s.setFld Reg.MGT_STAT 27 27 1

/-- Welt step of R459: sequence entries, prefix entries, pass buffers with their draft rows and masks, and adapter slots of partition p. GEN of a
slot counts on. -/
def State.clearWelt (s : State) (p : Nat) : State :=
  let mine := (s.srv.seqs.filter fun e => decide (e.2.part = p)).map (·.2)
  let drafts := fun (u : Nat) => ((mine.flatMap (·.drafts)).filter fun d => decide (d.unit = some u)).length
  let units := (List.range 8).foldl (fun (t : Tab SampUnit) u =>
    let x := tabGet { bufs := [], draftRows := 0 } s.smp u
    tabSet { bufs := [], draftRows := 0 } t u { bufs := x.bufs.filter fun b => decide (b.2.part ≠ p), draftRows := x.draftRows - drafts u }) []
  let ads := s.srv.adapters.foldl (fun (t : Tab Adapter) e =>
    if e.2.part = p ∧ e.2.state ≠ 0 then tabSet Adapter.zero t e.1 { Adapter.zero with gen := e.2.gen } else t) s.srv.adapters
  let kvc := s.kvc.filter fun e => decide (e.2.part ≠ p)
  let serves := decide (s.ing.purpose ≠ 0) && (decide (s.ing.part = some p) || (decide (s.ing.purpose = 1) && decide ((tabGet Adapter.zero s.srv.adapters s.ing.slot).part = p)))
  let s := { s with srv := { s.srv with seqs := s.srv.seqs.filter fun e => decide (e.2.part ≠ p), adapters := ads }, smp := units, kvc := kvc,
                    ing := if serves then Ingest.idle else s.ing }
  (s.setFld Reg.KVC_PFX_STAT 31 15 kvc.length).setFld (Reg.KVC_PFX p) 16 0 0

/-- The partition's record after its job: everything cleared but what a reader may still ask for. -/
def State.freePart (s : State) (p : Nat) : State :=
  let x := s.part p
  let s := if x.stall then s.wr64 (Reg.GLB_LOCK_EPOCH_LO p) (Reg.GLB_LOCK_EPOCH_HI p) x.epoch else s
  let s := ((s.endExtents p).clearWelt p).setPart p Part.zero
  let s := match s.flt.current with
    | some (q, _, _) => if q = p then ({ s with flt := { s.flt with current := none, shipSince := none } }).setFld Reg.FLT_REPAIR 31 8 0 else s
    | none => s
  ((s.setPState p 0).setFld (Reg.GLB_PMODE p) 21 16 0).setFld (Reg.GLB_PRECISION_STAT p) 31 30 0

/-! ### The end of a load (R339, R349) -/

/-- LDR_STAT after a load: idle, one more finished, vector 135. -/
def State.loadFinished (s : State) : State :=
  let s := s.wr Reg.LDR_STAT (BitVec.ofNat 32 (s.fld Reg.LDR_STAT 15 8 * 256 + (s.fld Reg.LDR_STAT 7 0 + 1) % 256))
  s.signal 135

/-- LSTAT, INGEST, ERSN and FORCED of a finished load. -/
def State.loadStatus (s : State) (p status ingest : Nat) : State :=
  (((s.setFld (Reg.LDR_PART p) 28 24 status).setFld (Reg.LDR_PART p) 23 20 ingest).setFld (Reg.LDR_PART p) 19 16 0).setFld (Reg.LDR_PART p) 15 15 0

/-- A refused load: what it took is zeroized, or freed at once when it had placed nothing. -/
def State.refuseLoad (s : State) (p status ingest : Nat) : State :=
  let s := (s.loadStatus p status ingest).loadFinished
  let s := { s with load := none, ing := if s.ing.purpose = 0 then Ingest.idle else s.ing }
  let s := s.setFld Reg.LDR_STAT 31 28 0
  if (s.part p).placed.isEmpty then s.freePart p else s.beginZeroize p

/-! ### Ingest (R256 to R262) -/

/-- The region that a shape position is placed at. -/
def State.placedAt (s : State) (p x y : Nat) : Option Placed :=
  let img := (s.part p).image
  let o := originOf img (s.part p).placed
  (s.part p).placed.find? fun g => decide (g.x = o.1 + x ∧ g.y = o.2 + y)

/-- Stored rows of a placement of a tensor that an adapter or a weight manifest places at pl in partition p: is it within bounds? -/
def State.placeBad (s : State) (p : Nat) (t : Tensor) (pl : Place) : Bool :=
  match s.placedAt p pl.x pl.y with
  | none => true
  | some g =>
    let lo := if t.paged then 4096 * g.wres else 0
    let hi := 4096 * (g.wres + if t.paged then g.wpage else 0)
    decide (15 < pl.n) || decide (pl.row < lo) || decide (hi < pl.row + t.groupRows)

/-- The first tensor refused with status 8 (Table 09-6). -/
def State.manifestBad (s : State) (p : Nat) (img : Bytes) (m : Nat) (adapter : Bool) : Option Tensor :=
  (tensors img m).find? fun t => t.bad img adapter || (flag (s.rd Reg.GLB_MODE) 4 && decide (t.ship = 1))
    || (!adapter && (places img t).any (s.placeBad p t))

/-- Rim address of entry e of a rim image (R261). -/
def Tensor.rimEntry (t : Tensor) (e : Nat) : Nat := t.rimAddr + 1024 * t.groupRows * e

/-- Write stored rows of logical core n of region r from slice row `row` on. -/
def State.writeRows (s : State) (r n row : Nat) (d : Bytes) : State :=
  match s.sliceKey r n with
  | some k => (s.modCoreAt k fun c => { c with slice := memWrite c.slice (1024 * row) d }).injStore 0 r (sliceWords (k % 17) (1024 * row) d.length)
  | none => s

def State.ingBytes (s : State) (n : Nat) : State :=
  s.wr64 Reg.LDR_ING_BYTES_LO Reg.LDR_ING_BYTES_HI (s.rd64 Reg.LDR_ING_BYTES_LO Reg.LDR_ING_BYTES_HI + n)

/-- The engine starts with every stream at its beginning (R480, R495). -/
def State.openStream (s : State) : State :=
  let s := s.wr Reg.EDG_ING_SEQ 0
  { s with edg := { s.edg with ingest := [], ingestEnd := none }, hif := { s.hif with xferEnd := [false, false] } }

/-- STATE of LDR_ING_STAT; 3 and 4 signal vector 134. -/
def State.ingState (s : State) (st : Nat) : State :=
  let s := s.setFld Reg.LDR_ING_STAT 31 29 st
  if st = 3 ∨ st = 4 then s.signal 134 else s

/-- Unsealed resident weights of the partition are zeroized (R260). -/
def State.dropUnsealed (s : State) (p : Nat) : State :=
  (s.part p).placed.foldl (fun s g => if s.sealedW g.r then s else s.clearRows g.r 0 (4096 * g.wres)) s

/-- The engine stops at its first failure; a load it served is refused with status 12. -/
def State.ingFail (s : State) (status tensor : Nat) : State :=
  let s := ((s.setFld Reg.LDR_ING_STAT 27 24 status).setFld Reg.LDR_ING_STAT 15 0 tensor).ingState 4
  match s.ing.part with
  | none => s
  | some p =>
    if s.ing.purpose = 0 then ((s.dropUnsealed p).refuseLoad p 12 status)
    else { s with ing := { s.ing with closed := true, heldSince := none } }

/-- Is every tensor that a region's weights come from complete? -/
def State.regionReady (s : State) (p : Nat) (g : Placed) : Bool :=
  match manifestAt s.ing.image with
  | none => true
  | some m => (tensors s.ing.image m).all fun t =>
      t.paged || (tabGet { next := 0, done := false, acc := [] } s.ing.tensors t.index).done
        || !((places s.ing.image t).any fun pl => decide ((s.placedAt p pl.x pl.y).map (·.r) = some g.r))

/-- REGION_SEALED (R260): seal what is complete, with its identity (R240). -/
def State.sealReady (s : State) (p : Nat) : State :=
  let o := originOf (s.part p).image (s.part p).placed
  (s.part p).placed.foldl (fun s g =>
    if s.sealedW g.r || decide (g.wres = 0) || s.releasing g.r || !(s.regionReady p g) then s
    else
      let ident := regionIdentity (s.part p).image (g.x - o.1) (g.y - o.2)
      let s := (s.setFld (Reg.RGNW_POOL g.r) 3 3 1).wr (Reg.RGNW_POOL_ID g.r) (BitVec.ofNat 32 (leAt ident 0 4))
      s.modRegion g.r fun x => { x with heldId := ident, heldX := g.x, heldY := g.y, heldModel := (s.part p).modelId, heldKey := (s.part p).key,
                                        heldBad := false }) s

def State.allSealed (s : State) (p : Nat) : Bool := (s.part p).placed.all fun g => decide (g.wres = 0) || s.sealedW g.r

/-- PAGED and SHADOW extents become shared at the end of ingest (R261). -/
def State.shareExtents (s : State) (p : Nat) : State :=
  let img := (s.part p).image
  match manifestAt img with
  | none => s
  | some m =>
    let rims := ((tensors img m).filter fun t => t.paged || t.shadow).map (·.rimAddr)
    let exts := (s.part p).extents.map fun e =>
      if !e.2.shared && rims.any fun a => extentHolds a 1 false e.2 then
        (e.1, { e.2 with write := false, shared := true, identity := imageIdentity img, model := (s.part p).modelId, key := (s.part p).key })
      else e
    let fresh := (exts.filter fun e => e.2.shared && !(s.rim.sharedExts.any fun o => decide (o.stack = e.2.stack ∧ o.base = e.2.base))).map (·.2)
    { s.modPart p (fun x => { x with extents := exts }) with rim := { s.rim with sharedExts := s.rim.sharedExts ++ fresh } }

/-- The engine's end: every tensor named is complete, so every region is sealed and every rim image written. -/
def State.ingFinish (s : State) (p : Nat) : State :=
  let s := s.sealReady p
  if (s.ing.tensors.all fun e => e.2.done) && s.allSealed p then
    let s := (s.shareExtents p).ingState 3
    { s with ing := { s.ing with part := none, closed := true } }
  else s

/-- Is the rim image of a tensor already in an extent the partition maps as shared (R262)? -/
def State.rimHeld (s : State) (p : Nat) (t : Tensor) : Bool :=
  (s.part p).extents.any fun e => e.2.shared && extentHolds t.rimAddr (1024 * t.groupRows * t.nplace) false e.2

/-- Write the slice rows of a tensor from its shadow image; the status of a failure. -/
def State.fromShadow (s : State) (p : Nat) (img : Bytes) (t : Tensor) : Except Nat State :=
  ((List.range t.nplace).foldl (fun (r : Except Nat State) e => match r with
    | .error n => .error n
    | .ok s =>
      let pl := placeAt img t e
      let (d, bad) := s.rimRead (t.rimEntry e) (1024 * t.groupRows)
      if decide (0 < bad) || decide ((sha512 d).take 8 ≠ pl.digest) then .error 9
      else match s.placedAt p pl.x pl.y with
        | some g => .ok (if s.sealedW g.r then s else (s.writeRows g.r pl.n pl.row d).ingBytes d.length)
        | none => .error 8) (.ok s))

/-- Does a load still need tensor t shipped: unsealed rows of it, or a rim image not yet held? -/
def State.needs (s : State) (p : Nat) (img : Bytes) (t : Tensor) : Bool :=
  ((t.paged || t.shadow) && !(s.rimHeld p t))
    || (!t.paged && (places img t).any fun pl => match s.placedAt p pl.x pl.y with
      | some g => !(s.sealedW g.r)
      | none => false)

/-- Step 6 begins (R254, R262): the manifest is checked, shadows are copied, and the engine waits for segments. -/
def State.startIngest (s : State) (p : Nat) (img : Bytes) : State :=
  match manifestAt img with
  | none => s
  | some m =>
    let s := ((s.openStream.wr Reg.LDR_ING_STAT (BitVec.ofNat 32 (p * 65536))).wr64 Reg.LDR_ING_BYTES_LO Reg.LDR_ING_BYTES_HI 0)
    let todo := (tensors img m).filter fun t => s.needs p img t
    let prog := (tensors img m).foldl (fun tb t =>
      tabAdd tb t.index { next := 0, done := !(todo.any fun u => decide (u.index = t.index)), acc := [] }) ([] : Tab TensorProg)
    let s := (s.ingState 1)
    let s := { s with ing := { part := some p, purpose := 0, slot := 0, image := img, manifestAt := m, tensors := prog, heldSince := none,
                               bufs := [], closed := false } }
    match s.manifestBad p img m false with
    | some t => s.ingFail 8 t.index
    | none =>
      let r := (todo.filter fun t => t.shadow && s.rimHeld p t).foldl (fun (r : Except (Nat × Nat) State) t => match r with
        | .error e => .error e
        | .ok s => match s.fromShadow p img t with
          | .error n => .error (n, t.index)
          | .ok s => .ok { s with ing := { s.ing with tensors := tabAdd s.ing.tensors t.index { next := t.n, done := true, acc := [] } } }) (.ok s)
      match r with
      | .error e => s.ingFail e.1 e.2
      | .ok s => s.ingFinish p

/-- HELD_WEIGHT_RELEASE_DONE (R240). A region that no partition holds keeps no pool units; an ingest that waited for the release
goes on. -/
def execHeldWeightReleaseDone (r : Nat) (s : State) : Host.Outcome State Fault Refusal :=
  .next (if s.releasing r then
    let s := s.setFld (Reg.RGNW_POOL r) 1 1 0
    let s := if (s.region r).part.isNone then s.wr (Reg.RGNW_POOL r) 0xFF000000 else s
    match s.ing.part with
    | some p => if s.ing.purpose = 0 then s.ingFinish p else s
    | none => s
  else s)

end Sys2Proof.Machine
end

