-- ==== Sys2Proof/Machine/IngestCmds.lean ====
section
/-! DEFINITION. The ingest engine (R254 to R263, R266): segments, their conversion and writing, the temperature hold, and its registers.
`Ingest.purpose` 0 serves a load, 1 an adapter generation (`slot` is its adapter slot), 2 the spare procedure (`slot` is 17·region +
logical core). -/

namespace Sys2Proof.Machine

def noProg : TensorProg := { next := 0, done := false, acc := [] }

/-- LAYER of a tensor record. -/
def layerOf (img : Bytes) (m : Nat) (t : Tensor) : Nat := leAt img (m + 8 + 48 * t.pos + 2) 2

/-! ### Where a group goes -/

/-- Bytes of the parts placed at (layer, n) before group e of tensor t in manifest order (assumption 21). -/
def partOffset (img : Bytes) (m layer n : Nat) (t : Tensor) (e : Nat) : Nat :=
  ((tensors img m).flatMap fun u =>
    if layerOf img m u ≠ layer ∨ t.pos < u.pos then []
    else (List.range u.nplace).map fun g =>
      if (u.pos < t.pos ∨ g < e) ∧ (placeAt img u g).n = n then 1024 * u.groupRows else 0).foldl (· + ·) 0

/-- APG: pages of 64 KiB that the largest part takes (R309). -/
def adapterPages (img : Bytes) (m : Nat) : Nat :=
  let parts := (tensors img m).flatMap fun t => (List.range t.nplace).map fun e =>
    partOffset img m (layerOf img m t) (placeAt img t e).n t e + 1024 * t.groupRows
  ceilDiv (parts.foldl max 1) 65536

/-- Rim address of group e of an adapter tensor for the generation at `base` (R309). -/
def adapterAddr (img : Bytes) (m base : Nat) (t : Tensor) (e : Nat) : Nat :=
  let l := layerOf img m t
  let n := (placeAt img t e).n
  base + (l * 16 + n) * adapterPages img m * 65536 + partOffset img m l n t e

/-- Write stored rows to rim memory for partition p; status 11 outside its extents or on a failed channel (R260, R243). -/
def State.ingRim (s : State) (p a : Nat) (d : Bytes) : State × Nat :=
  if !(s.rimAllowed p a d.length true) then (s, 11)
  else
    let (s, bad) := s.rimWrite a d
    if bad = 0 then (s.ingBytes d.length, 0) else (s.rimCheck (some p) a bad .clean, 11)

/-- Write stored rows of a placement to its slice. -/
def State.ingSlice (s : State) (p : Nat) (pl : Place) (d : Bytes) : State × Nat :=
  match s.placedAt p pl.x pl.y with
  | none => (s, 8)
  | some g =>
    let here := if s.ing.purpose = 2 then decide (s.ing.slot = 17 * g.r + pl.n) else !s.sealedW g.r
    (if here then (s.writeRows g.r pl.n pl.row d).ingBytes d.length else s, 0)

/-- Write one output group and check its digest (R256, R258, R261, R262): the ingest status, 0 for done. -/
def State.putGroup (s : State) (p : Nat) (t : Tensor) (e : Nat) (d : Bytes) : State × Nat :=
  let img := s.ing.image
  let pl := placeAt img t e
  let (s, st) :=
    if s.ing.purpose = 1 then s.ingRim p (adapterAddr img s.ing.manifestAt (tabGet Adapter.zero s.srv.adapters s.ing.slot).base t e) d
    else
      let (s, st) := if (t.paged || t.shadow) && decide (s.ing.purpose = 0) && !(s.rimHeld p t) then s.ingRim p (t.rimEntry e) d else (s, 0)
      if decide (st ≠ 0) || t.paged then (s, st) else s.ingSlice p pl d
  if st ≠ 0 then (s, st) else if (sha512 d).take 8 = pl.digest then (s, 0) else (s, 9)

/-- Write groups `es` of a tensor from its rows so far. -/
def State.putGroups (s : State) (p : Nat) (t : Tensor) (rows : List (List Bytes)) (raw : List Bytes) : List Nat → State × Nat
  | [] => (s, 0)
  | e :: es =>
    match groupStored s.ing.image t ((rows.drop (64 * e)).take 64) ((raw.drop (64 * e)).take 64) with
    | none => (s, 8)
    | some d =>
      let (s, st) := s.putGroup p t e d
      if st = 0 then s.putGroups p t rows raw es else (s, st)

/-! ### A segment -/

def segMagic : Bytes := [0x59, 0x57, 0x53, 0x31]

/-- Status 1 of Table 09-6. -/
def State.segHeadBad (s : State) (b : Bytes) : Bool :=
  decide (b.take 4 ≠ segMagic) || decide (3 < byteAt b 6) || decide (byteAt b 7 ≠ 0) || decide (leAt b 28 4 ≠ 0)
    || decide (leAt b 12 4 = 0) || decide (2 ^ 24 < leAt b 20 4) || (flag (s.rd Reg.GLB_MODE) 4 && decide (2 ≤ byteAt b 6))

/-- The decompressed payload of a segment. -/
def segPayload (b : Bytes) : Option Bytes :=
  let c := slice b 32 (leAt b 16 4)
  let d := if byteAt b 6 % 2 = 1 then Config.zstd c else some c
  match d with
  | some x => if x.length = leAt b 20 4 then some x else none
  | none => none

/-- Regions the placements of a tensor name. -/
def State.tensorRegions (s : State) (p : Nat) (t : Tensor) : List Nat :=
  if t.paged then [] else (places s.ing.image t).filterMap fun pl => (s.placedAt p pl.x pl.y).map (·.r)

def State.tensorOf (s : State) (i : Nat) : Option Tensor :=
  (tensors s.ing.image s.ing.manifestAt).find? fun t => decide (t.index = i)

/-- One more tensor is complete: its digest, and TENSOR of LDR_ING_STAT (R256, R260). -/
def State.tensorDone (s : State) (t : Tensor) (acc : Bytes) : State × Nat :=
  if sha512 acc = tensorDigest s.ing.image s.ing.manifestAt t.pos then
    let s := { s with ing := { s.ing with tensors := tabAdd s.ing.tensors t.index { next := t.n, done := true, acc := [] } } }
    (s.setFld Reg.LDR_ING_STAT 15 0 t.index, 0)
  else (s, 9)

/-- Convert and write the rows that a segment of tensor t brings: the ingest status. -/
def State.takeRows (s : State) (p : Nat) (t : Tensor) (b d : Bytes) : State × Nat :=
  let x := tabGet noProg s.ing.tensors t.index
  let n := leAt b 12 4
  if leAt b 8 4 ≠ x.next ∨ t.n < x.next + n ∨ x.done = true then (s, 4)
  else
    match payloadRows s.ing.image t x.next n d with
    | .error e => (s, e)
    | .ok _ =>
      let acc := x.acc ++ d
      let next := x.next + n
      let s := { s with ing := { s.ing with tensors := tabAdd s.ing.tensors t.index { next := next, done := false, acc := acc } } }
      match payloadRows s.ing.image t 0 next acc with
      | .error e => (s, e)
      | .ok rows =>
        let raw := if t.ship = 1 then pieces (2 * t.k) acc else []
        let (s, st) := s.putGroups p t rows raw ((List.range (next / 64)).drop (x.next / 64))
        if st ≠ 0 then (s, st) else if next = t.n then s.tensorDone t acc else (s, 0)

/-- The engine's end when every tensor named is complete. -/
def State.ingEnd (s : State) (p : Nat) : State :=
  if s.ing.purpose = 0 then s.ingFinish p
  else if s.ing.tensors.all fun e => e.2.done then
    { (s.ingState 3) with ing := { s.ing with part := none, closed := true } }
  else s

/-- Take a whole segment, all its checks in the order of Table 09-6. -/
def State.takeSegment (s : State) (p : Nat) (b : Bytes) : State :=
  let i := leAt b 4 2
  if s.segHeadBad b then s.ingFail 1 i
  else if crc32 (slice b 32 (leAt b 16 4)) ≠ leAt b 24 4 then s.ingFail 2 i
  else match segPayload b with
    | none => s.ingFail 3 i
    | some d =>
      match s.tensorOf i with
      | none => s.ingFail 4 i
      | some t =>
        if (tabFind s.ing.tensors i).isNone then s.ingFail 4 i
        else if (t.ship = 1) ≠ (2 ≤ byteAt b 6) then s.ingFail 1 i
        else
          let (s, st) := s.takeRows p t b d
          if st = 0 then s.ingEnd p else s.ingFail st i

/-- The bytes of a source: 0 and 1 the host rings, 2 the edge ports, 3 segments given to the engine whole. -/
def State.ingSource (s : State) (k : Nat) : Bytes := (tabFind s.ing.bufs k).getD []

def State.setSource (s : State) (k : Nat) (b : Bytes) : State :=
  { s with ing := { s.ing with bufs := tabPut s.ing.bufs k (if b.isEmpty then none else some b) } }

/-- Does a source hold a segment the engine can take now: whole, or with a header already refused? -/
def State.segReady (s : State) (k : Nat) : Bool :=
  let b := s.ingSource k
  decide (32 ≤ b.length) && (s.segHeadBad b || decide (32 + leAt b 16 4 ≤ b.length))

/-- Is the segment at the head of a source held by temperature, or by a release of its region under way (R258, R240)? -/
def State.segHot (s : State) (p k : Nat) : Bool :=
  match s.tensorOf (leAt (s.ingSource k) 4 2) with
  | some t => (s.tensorRegions p t).any s.ingestHeld
  | none => false

def State.segWaits (s : State) (p k : Nat) : Bool :=
  match s.tensorOf (leAt (s.ingSource k) 4 2) with
  | some t => (s.tensorRegions p t).any s.releasing
  | none => false

/-- The engine takes one segment: the first source whose segment is not held. With every one held by temperature STATE reads 2; a
closed stream with nothing left to take and a tensor incomplete is status 5. -/
def State.ingPump (s : State) : State :=
  match s.ing.part with
  | none => s
  | some p =>
    if s.ing.closed && decide (s.fld Reg.LDR_ING_STAT 31 29 = 4) then s
    else
      let ready := [3, 0, 1, 2].filter s.segReady
      match ready.find? fun k => !(s.segHot p k) && !(s.segWaits p k) with
      | some k =>
        let b := s.ingSource k
        let n := 32 + leAt b 16 4
        let s := (s.setSource k (b.drop n)).setFld Reg.LDR_ING_STAT 31 29 1
        let s := { s with ing := { s.ing with heldSince := none } }
        s.takeSegment p (b.take n)
      | none =>
        if ready.any (s.segHot p) then
          let s := { s with ing := { s.ing with heldSince := some (s.ing.heldSince.getD s.time) } }
          s.setFld Reg.LDR_ING_STAT 31 29 2
        else if ready.isEmpty && s.ing.closed then s.ingFail 5 (((s.ing.tensors.find? fun e => !e.2.done).map (·.1)).getD 0)
        else s

/-- INGEST_SEGMENT (R255). `seg` is the bytes of a segment given whole, or empty to let the engine go on with what its sources hold; `none` is
a source error, status 12. `last` closes the stream. -/
def execIngestSegment (seg : Option Bytes) (last : Bool) (s : State) : Host.Outcome State Fault Refusal :=
  .next (match s.ing.part with
    | none => s
    | some _ =>
      match seg with
      | none => s.ingFail 12 0
      | some b =>
        let s := s.setSource 3 (s.ingSource 3 ++ b)
        ({ s with ing := { s.ing with closed := s.ing.closed || last } }).ingPump)

/-- INGEST_HOLD_TIMEOUT (R258, R266): HOLD_TMO 0 acts as 1. -/
def execIngestHoldTimeout (s : State) : Host.Outcome State Fault Refusal :=
  .next (match s.ing.part, s.ing.heldSince with
    | some p, some t =>
      if s.elapsed t (1000000 * max 1 (s.fld Reg.LDR_ING_CFG 15 0)) && ([3, 0, 1, 2].filter s.segReady).any (s.segHot p) then
        s.ingFail 10 ((([3, 0, 1, 2].find? s.segReady).map fun k => leAt (s.ingSource k) 4 2).getD 0)
      else s
    | _, _ => s)

/-- LDR_ING_CFG (R266). -/
def execLdrIngCfgWrite (v : Word) (s : State) : Host.Outcome State Fault Refusal :=
  .next (s.writeRW Reg.LDR_ING_CFG 0x0000FFFF 0 v)

/-- A read of LDR_ING_BYTES_LO captures bits [63:32] (R266). -/
def execLdrIngBytesLoRead (port : Nat) (s : State) : Host.Outcome State Fault Refusal :=
  .next (s.capture port Reg.LDR_ING_BYTES_HI (s.rd Reg.LDR_ING_BYTES_HI))

end Sys2Proof.Machine
end

