-- ==== Sys2Proof/Machine/Edge.lean ====
section
/-! DEFINITION. The edge ports (chapter 19): the link layer, channels and their bindings, the ingest stream, and training (R388, R487 to R496). -/

namespace Sys2Proof.Machine

def State.edgePort (s : State) (k : Nat) : EdgePort := tabGet EdgePort.zero s.edg.ports k

def State.setEdgePort (s : State) (k : Nat) (x : EdgePort) : State := { s with edg := { s.edg with ports := tabSet EdgePort.zero s.edg.ports k x } }

/-- STATE of EDG_PORTk: 0 not yet trained, 1 training, 2 up, 3 down, 4 disabled. -/
def State.edgeState (s : State) (k : Nat) : Nat := s.fld (Reg.EDG_PORT k) 31 29

def State.edgeUp (s : State) (k : Nat) : Bool := decide (s.edgeState k = 2)

def State.noBind (s : State) : State := s.bump Reg.EDG_DROP 31 16

def State.modId (s : State) : Nat := s.fld Reg.EDG_CFG 15 0

/-! ### Channels (R491, R494) -/

def State.chanA (s : State) (g : Nat) : Word := tabGet 0 s.edg.chanA g
def State.chanB (s : State) (g : Nat) : Word := tabGet 0 s.edg.chanB g

/-- Does a frame of channel g stand in the transmit queue of port k? -/
def State.queuedOn (s : State) (g k : Nat) : Bool := (s.edgePort k).txq.any fun f => decide (f.1 = g)

/-- The current port of channel g. -/
def State.currentPort (s : State) (g : Nat) : Option Nat :=
  let a := s.chanA g
  let primary := field a 30 26
  let alt := field a 25 21
  let useAlt := flag a 20 && s.edgeUp alt
  if s.edg.onAlt.contains g && useAlt && (!(s.edgeUp primary) || s.queuedOn g alt) then some alt
  else if s.edgeUp primary then some primary
  else if useAlt then some alt else none

/-- Which channels now use their alternate ports. -/
def State.settleChannels (s : State) : State :=
  { s with edg := { s.edg with onAlt := (s.edg.chanA.filter fun e => flag e.2 31 && decide (s.currentPort e.1 = some (field e.2 25 21))
      && decide (field e.2 30 26 ≠ field e.2 25 21)).map (·.1) } }

/-! ### The link (R489, R490) -/

/-- A frame from byte 4 on: header bytes 4 to 31, payload, end-to-end CRC. -/
def frameBody (dmod smod dch sch : Nat) (route payload : Bytes) : Bytes :=
  let b := leBytes 2 dmod ++ leBytes 2 smod ++ leBytes 2 dch ++ leBytes 2 sch ++ leBytes 2 payload.length ++ zeros 2 ++ slice route 0 16 ++ payload
  b ++ leBytes 4 (crc32 b)

/-- Frames leave the queue while there are credits and places in the replay buffer; each carries what is owed. The count is of frames sent. -/
def EdgePort.transmit (x : EdgePort) (n : Nat) : List (Nat × Bytes) → EdgePort × Nat
  | [] => ({ x with txq := [] }, n)
  | f :: t =>
    if x.credits = 0 ∨ 64 ≤ x.replay.length then ({ x with txq := f :: t }, n)
    else ({ x with credits := x.credits - 1, replay := x.replay ++ [(x.nextSeq, f.2)], nextSeq := (x.nextSeq + 1) % 4096, owed := x.owed - 15,
                   ackOwed := false }).transmit (n + 1) t

def State.edgePump (s : State) (k : Nat) : State :=
  if s.edgeUp k then
    let (x, n) := (s.edgePort k).transmit 0 (s.edgePort k).txq
    ((s.setEdgePort k x).bumpBy (Reg.EDG_TX k) 31 0 n).settleChannels.injSend 5 none n
  else s

/-- Frames that ACK covers leave the replay buffer. -/
def ackFrames (ack : Nat) (l : List (Nat × Bytes)) : List (Nat × Bytes) :=
  match l.findIdx? fun f => decide (f.1 = ack) with
  | some i => l.drop (i + 1)
  | none => l

/-- CRED and ACK of a received frame. -/
def State.edgeAck (s : State) (k : Nat) (h : Bytes) : State :=
  let x := s.edgePort k
  let w := leAt h 2 2
  (s.setEdgePort k { x with credits := x.credits + w / 4096, replay := ackFrames (w % 4096) x.replay }).edgePump k

/-- Is a frame whole, of a length its header states, with a correct link CRC? -/
def linkOk (b : Bytes) : Bool :=
  let n := leAt b 12 2
  decide (n % 16 = 0) && decide (n ≤ 224) && decide (b.length = 40 + n) && decide (leAt b (36 + n) 4 = crc32 (b.take (36 + n)))

def frameType (b : Bytes) : Nat := leAt b 0 2 / 4096

/-- A frame of types 1 to 15 passes the link: correct, and the next in order. `none`: discarded. -/
def State.edgeTake (s : State) (k : Nat) (b : Bytes) : Option State :=
  let x := s.edgePort k
  let n := leAt b 0 2 % 4096
  if !(s.edgeUp k) || !(linkOk b) || decide (n ≠ (x.lastIn + 1) % 4096) then none
  else
    let s := s.setEdgePort k { x with lastIn := n, owed := x.owed + 1, ackOwed := true }
    some ((s.bump (Reg.EDG_RX k) 31 0).edgeAck k b)

/-- Does the end-to-end CRC fail? -/
def endCrcBad (b : Bytes) : Bool :=
  let n := leAt b 12 2
  decide (leAt b (32 + n) 4 ≠ crc32 (slice b 4 (28 + n)))

/-- EDGE_CONTROL_FRAME (R490): a type 0 frame carries ACK and CRED. -/
def execEdgeControlFrame (k : Nat) (frame : Bytes) (s : State) : Host.Outcome State Fault Refusal :=
  .next (if frameType frame ≠ 0 ∨ !(s.edgeUp k) ∨ !(linkOk frame) ∨ leAt frame 12 2 ≠ 0 then s
  else (s.bump (Reg.EDG_RX k) 31 0).edgeAck k frame)

/-- EDGE_CONTROL_TIMER (R490): a control frame, when acknowledgements or credits are owed or 1 µs has passed since the last. -/
def execEdgeControlTimer (k : Nat) (s : State) : Host.Outcome State Fault Refusal :=
  .next (
    let x := s.edgePort k
    if s.edgeUp k && (x.ackOwed || decide (0 < x.owed) || s.elapsed x.lastControl 1000) then
      (s.setEdgePort k { x with ackOwed := false, owed := x.owed - 15, lastControl := s.time }).bump (Reg.EDG_TX k) 31 0
    else s)

/-- EDGE_REPLAY (R490): with an LSEQ, this port sends again from that frame; without, this port has found an error and asks for a replay. -/
def execEdgeReplay (k : Nat) (fromLseq : Option Nat) (s : State) : Host.Outcome State Fault Refusal :=
  .next (if !(s.edgeUp k) then s
  else match fromLseq with
    | none => s.bump (Reg.EDG_ERR k) 31 16
    | some n => match (s.edgePort k).replay.findIdx? fun f => decide (f.1 = n) with
      | none => s
      | some i => (s.bump (Reg.EDG_ERR k) 31 16).bumpBy (Reg.EDG_TX k) 31 0 ((s.edgePort k).replay.length - i))

/-! ### Sending (R492) -/

/-- A SND at edge port k: a frame queued, a drop, or `none` when the queue of 256 is full. -/
def State.edgeSend (s : State) (k key src raddr : Nat) (data : Bytes) (isSnd : Bool) : Option State :=
  let drop := fun (s : State) =>
    let (r, q) := match s.lookup (s.weltId (.edge k)) with
      | some e => ((s.last.phys e.x e.y).getD 0, 9)
      | none => (0, 9)
    s.noBind.violation 5 key src (s.weltId (.edge k)) 0xFFFF r q
  match s.keyOwner key with
  | none => some (drop s)
  | some p =>
    let g := 16 * p + raddr % 16
    let a := s.chanA g
    if !isSnd || decide (data.length < 16) || !(flag a 31) || decide (s.modId = 0) || decide (s.currentPort g ≠ some k) then some (drop s)
    else
      let x := s.edgePort k
      if 256 ≤ x.txq.length then none
      else
        let body := frameBody (field (s.chanB g) 15 0) s.modId (field a 19 10) g (data.take 16) (data.drop 16)
        some ((s.setEdgePort k { x with txq := x.txq ++ [(g, body)] }).settleChannels.edgePump k)

/-- EDGE_SEND (R492): held back while the queue is full. -/
def execEdgeSend (k key src raddr : Nat) (data : Bytes) (isSnd : Bool) (s : State) : Host.Outcome State Fault Refusal :=
  .next ((s.edgeSend k key src raddr data isSnd).getD s)

/-! ### Receiving (R493) -/

/-- The endpoint a data frame's route names in partition p, with the size of the space it addresses. -/
def State.edgeRoute (s : State) (p : Nat) (b : Bytes) : Option (Nat × Nat) :=
  match (s.part p).placed[leAt b 16 4]? with
  | none => none
  | some g =>
    let n := byteAt b 20
    let sp := byteAt b 21
    if n < 16 ∧ sp < 4 then some (s.idOf g.x g.y (.core n), spaceSize sp)
    else if n = 255 ∧ sp = 3 then some (s.idOf g.x g.y .seq, 262144) else none

/-- An accepted data frame enters the fabric at the port's hub as a SND with the partition's key. -/
def State.edgeDeliver (s : State) (k p : Nat) (b : Bytes) : State :=
  let (r, q) := match s.lookup (s.weltId (.edge k)) with
    | some e => ((s.last.phys e.x e.y).getD 0, 9)
    | none => (0, 9)
  let a := leAt b 24 4
  let n := leAt b 12 2
  let key := (s.part p).key
  let refuse := s.violation 5 key (s.weltId (.edge k)) 0 0xFFFF r q
  match s.edgeRoute p b with
  | none => refuse
  | some (dest, size) =>
    if addrBad a n 16 size then refuse
    else s.addFlit { kind := .send, src := s.weltId (.edge k), dest := dest, key := key, loc := .hub r q, data := slice b 32 n, accs := [],
                     space := byteAt b 21, raddr := a, cn := byteAt b 22 % 16, ce := decide (byteAt b 22 / 16 % 2 = 1), index := 0, left := none,
                     headSince := none, stalled := false, landing := none, sentAt := 0 }

/-- Room for one more flit at the stub input of port k's hub. -/
def State.edgeRoom (s : State) (k : Nat) : Bool :=
  match s.lookup (s.weltId (.edge k)) with
  | some e => decide (s.inBuffer (.hub ((s.last.phys e.x e.y).getD 0) 9) < 4)
  | none => true

/-- EDGE_FRAME_RX (R490, R493): a frame of type 1, or of types 3 to 15, which are dropped. It waits in its buffer while the hub has no room. -/
def execEdgeFrameRx (k : Nat) (frame : Bytes) (s : State) : Host.Outcome State Fault Refusal :=
  .next (if frameType frame = 0 ∨ frameType frame = 2 ∨ !(s.edgeRoom k) then s
  else match s.edgeTake k frame with
    | none => s
    | some s =>
      if endCrcBad frame then s.bump Reg.EDG_DROP 15 0
      else if frameType frame ≠ 1 then s
      else
        let g := leAt frame 8 2 % 1024
        let a := s.chanA g
        if leAt frame 4 2 = s.modId ∧ flag a 31 = true ∧ field (s.chanB g) 15 0 = leAt frame 6 2 ∧ field a 19 10 = leAt frame 10 2 % 1024
            ∧ s.pstate (g / 16) = 2 then s.edgeDeliver k (g / 16) frame
        else s.noBind)

/-! ### The ingest stream (R495) -/

/-- A load takes its segments from the edge ports. -/
def State.edgeLoad (s : State) : Bool := s.ing.part.isSome && !s.ing.closed && decide (s.fld Reg.HIF_XFER_CFG 1 0 = 2)

/-- Move payloads that are next in STREAM order to the engine; `n` bounds the run. -/
def State.edgeJoin (s : State) : Nat → State
  | 0 => s
  | n + 1 =>
    let next := (s.rd Reg.EDG_ING_SEQ).toNat
    match tabFind s.edg.ingest next with
    | none => s
    | some d =>
      let s := { s with edg := { s.edg with ingest := tabDrop s.edg.ingest next } }
      let s := (s.setSource 2 (s.ingSource 2 ++ d)).wr Reg.EDG_ING_SEQ (BitVec.ofNat 32 (next + 1))
      let s := if s.edg.ingestEnd = some next then { s with ing := { s.ing with closed := true } } else s
      s.edgeJoin n

/-- The engine takes every segment it can; `n` bounds the run. -/
def State.pumpAll (s : State) : Nat → State
  | 0 => s
  | n + 1 => if s.ing.part.isSome && ([3, 0, 1, 2].any s.segReady || s.ing.closed) then (s.ingPump).pumpAll n else s

/-- EDGE_INGEST_FRAME (R490, R495). -/
def execEdgeIngestFrame (k : Nat) (frame : Bytes) (s : State) : Host.Outcome State Fault Refusal :=
  .next (if frameType frame ≠ 2 then s
  else match s.edgeTake k frame with
    | none => s
    | some s =>
      if endCrcBad frame then s.bump Reg.EDG_DROP 15 0
      else if !(s.edgeLoad) || !(flag (s.rd Reg.EDG_ING) k) || decide (leAt frame 4 2 ≠ s.modId) then s.noBind
      else
        let n := leAt frame 16 4
        if n < (s.rd Reg.EDG_ING_SEQ).toNat ∨ (tabFind s.edg.ingest n).isSome then s
        else
          let s := { s with edg := { s.edg with ingest := tabAdd s.edg.ingest n (slice frame 32 (leAt frame 12 2)),
                                                ingestEnd := if byteAt frame 20 % 2 = 1 then some n else s.edg.ingestEnd } }
          let s := s.edgeJoin (s.edg.ingest.length + 1)
          s.pumpAll ((s.ingSource 2).length / 32 + 1))

/-! ### Training and link loss (R388, R488, R496) -/

/-- Port k leaves STATE 2 or its training: its buffers are discarded and counted, and an open ingest stream over it fails. -/
def State.edgeDown (s : State) (k : Nat) : State :=
  let x := s.edgePort k
  let was := s.edgeUp k
  let lost := x.txq.length + x.replay.length
  let s := (s.bumpBy (Reg.EDG_ERR k) 15 0 lost).setEdgePort k { EdgePort.zero with wasWidth := if was then s.fld (Reg.EDG_PORT k) 28 25 else x.wasWidth }
  if was && s.edgeLoad && flag (s.rd Reg.EDG_ING) k then s.ingFail 12 (s.fld Reg.LDR_ING_STAT 15 0) else s

/-- Port k starts training: STATE 1, RETRAINS counts (R388, R496). -/
def State.trainPort (s : State) (k : Nat) : State :=
  (((s.setFld (Reg.EDG_PORT k) 31 29 1).setFld (Reg.EDG_PORT k) 28 25 0).setFld (Reg.EDG_PORT k) 24 17 0).bump (Reg.EDG_PORT k) 16 9

/-- EDGE_LINK_LOSS (R488): the frames buffered are discarded, and the port retrains at once. -/
def execEdgeLinkLoss (k : Nat) (s : State) : Host.Outcome State Fault Refusal :=
  .next (if s.edgeUp k then ((s.edgeDown k).trainPort k).settleChannels else s)

/-- EDGE_TRAIN_RETRY (R388, R488): a port that is down trains again, 1 s after its last training ended. -/
def execEdgeTrainRetry (k : Nat) (s : State) : Host.Outcome State Fault Refusal :=
  .next (match s.edgeState k, (s.edgePort k).retryAt with
    | 3, some t => if t.toNat ≤ s.now then s.trainPort k else s
    | _, _ => s)

/-- EDGE_TRAINING_SETTLED (R388, R488): the port is up at a width of Table 14-6, or down. A port that comes back narrower, or stays down after a
loss, raises source 21. -/
def execEdgeTrainingSettled (k : Nat) (result : TrainResult) (s : State) : Host.Outcome State Fault Refusal :=
  .next (if s.edgeState k ≠ 1 then s
  else
    let x := s.edgePort k
    let s := ((s.setFld (Reg.EDG_PORT k) 31 29 (if result.width = 0 then 3 else 2)).setFld (Reg.EDG_PORT k) 28 25 result.width).setFld (Reg.EDG_PORT k) 24 17
      result.lanes.toNat
    if result.width = 0 then
      let s := s.setEdgePort k { EdgePort.zero with wasWidth := x.wasWidth, retryAt := some (BitVec.ofNat 64 (s.now + 1000000000)) }
      (if x.wasWidth ≠ 0 ∧ x.retryAt = none then s.deferred 21 none (locus 7 2 (256 + 8 * k)) else s).settleChannels
    else
      let s := s.setEdgePort k { EdgePort.zero with credits := 64, lastControl := s.time }
      let lane := ((List.range 8).find? fun l => !(result.lanes.getLsbD l)).getD 0
      (if result.width < x.wasWidth then s.deferred 21 none (locus 7 1 (8 * k + lane)) else s).settleChannels)

/-- RETRAIN (R488, R496): EDG_CMD with OP 1, on a port that has trained and is not disabled. -/
def execRetrain (v : Word) (s : State) : Host.Outcome State Fault Refusal :=
  .next (
    let k := field v 4 0
    if s.weltDown || decide (field v 31 28 ≠ 1) then s
    else
      let s := s.reservedBits 0 v 0x0FFFFFE0
      if 1 ≤ s.edgeState k ∧ s.edgeState k ≤ 3 then ((s.edgeDown k).trainPort k).settleChannels else s)

/-- DISABLE (R488, R496): EDG_CMD with OP 2. -/
def execDisable (v : Word) (s : State) : Host.Outcome State Fault Refusal :=
  .next (
    let k := field v 4 0
    if s.weltDown || decide (field v 31 28 ≠ 2) then s
    else
      let s := ((s.reservedBits 0 v 0x0FFFFFE0).edgeDown k).setEdgePort k EdgePort.zero
      (((s.setFld (Reg.EDG_PORT k) 31 29 4).setFld (Reg.EDG_PORT k) 28 25 0).setFld (Reg.EDG_PORT k) 24 17 0).settleChannels)

/-- ENABLE (R488, R496): EDG_CMD with OP 3; a disabled port trains. -/
def execEnable (v : Word) (s : State) : Host.Outcome State Fault Refusal :=
  .next (
    let k := field v 4 0
    if s.weltDown || decide (field v 31 28 ≠ 3) then s
    else
      let s := s.reservedBits 0 v 0x0FFFFFE0
      if s.edgeState k = 4 then s.trainPort k else s)

end Sys2Proof.Machine
end

