-- ==== Sys2Proof/Machine/MemCare.lean ====
section
/-! DEFINITION. Scrubbing and repair of bonded memory and rim memory (R244 to R249). The content the model holds is the corrected
content, so a write-back changes no byte. -/

namespace Sys2Proof.Machine

/-- Spare rows left in the slice of physical core k (R248). -/
def Region.sparesOf (g : Region) (k : Nat) : Nat := 128 - tabGet 0 g.rowsUsed k

/-- Physical core of the slice with fewest spare rows left; of equals, the lowest. -/
def Region.fewest (g : Region) : Nat :=
  (List.range 17).foldl (fun b k => if g.sparesOf k < g.sparesOf b then k else b) 0

/-- SLICE and SPARE_MIN of RGNW_MEM_REPAIR. -/
def State.showSpares (s : State) (r : Nat) : State :=
  let g := s.region r
  (s.setFld (Reg.RGNW_MEM_REPAIR r) 20 16 g.fewest).setFld (Reg.RGNW_MEM_REPAIR r) 7 0 (g.sparesOf g.fewest)

/-- Does a job run on the region (R247)? -/
def State.jobRuns (s : State) (r : Nat) : Bool :=
  match s.owner r with
  | some p => decide (s.pstate p = 2) || decide (s.pstate p = 3)
  | none => false

/-- A row that is corrected in two consecutive passes is marked (R249). -/
def Region.scrubFound (g : Region) (key : Nat) (chk : CodeCheck) : Region :=
  match chk with
  | .corrected _ =>
    let g := { g with thisPass := g.thisPass ++ [key] }
    if g.lastPass.contains key && !g.marked.contains key then { g with marked := g.marked ++ [key] } else g
  | _ => g

/-- SCRUB_ROW (R247): the row at RGNW_SCRUB is read, and the position moves on at the pace of the moment. A region without
power is not scrubbed. -/
def execScrubRow (r : Nat) (chk : CodeCheck) (s : State) : Host.Outcome State Fault Refusal :=
  .next (if (s.region r).pstate = 0 ∨ s.dead r = true then s
  else
    let a := Reg.RGNW_SCRUB r
    let k := s.fld a 20 16
    let row := s.fld a 15 0
    let inj := s.injHit 0 r (sliceWords k (1024 * row) 1024)
    let s := (s.bondCheck r k row 3 chk).modRegion r fun g => if inj then g else g.scrubFound (65536 * k + row) chk
    let s := s.setFld a 31 31 (if s.jobRuns r then 0 else 1)
    if row < 65535 then s.setFld a 15 0 (row + 1)
    else if k < 16 then (s.setFld a 15 0 0).setFld a 20 16 (k + 1)
    else
      let s := ((s.setFld a 15 0 0).setFld a 20 16 0).bump a 28 21
      s.modRegion r fun g => { g with lastPass := g.thisPass, thisPass := [] })

/-- CORRECTION_WRITEBACK (R246): done or cancelled by a newer write, the row holds what it held, and nothing is pending for it. -/
def execCorrectionWriteback (r k row : Nat) (s : State) : Host.Outcome State Fault Refusal :=
  .next (s.modRegion r fun g =>
    { g with writeBacks := g.writeBacks.filter fun x => decide (x ≠ 65536 * k + row),
             injected := if g.writeBacks.contains (65536 * k + row) then g.injected.filter fun e => !(decide (e.1 = 0) && (sliceWords k (1024 * row) 1024).contains e.2)
               else g.injected })

/-- ROW_REPAIR_SWITCH (R249): the mapping of a marked row switches to a spare row; with none left, one deferred fault of source 12. -/
def execRowRepairSwitch (r k row : Nat) (s : State) : Host.Outcome State Fault Refusal :=
  let g := s.region r
  let key := 65536 * k + row
  .next (if !g.marked.contains key then s
  else if 0 < g.sparesOf k then
    let s := s.modRegion r fun g =>
      { g with marked := g.marked.filter fun x => decide (x ≠ key), remapped := g.remapped ++ [key],
               rowsUsed := tabSet 0 g.rowsUsed k (tabGet 0 g.rowsUsed k + 1) }
    let s := ({ s with mgt := { s.mgt with repairs := s.mgt.repairs ++ [(17 * r + k, row)] } }).bumpSat (Reg.RGNW_MEM_REPAIR r) 31 24
    (s.showSpares r).corrected 4 (regionLocus r) false
  else if g.exhausted then s
  else (s.modRegion r fun g => { g with exhausted := true }).deferred 12 none (regionLocus r))

/-- RIM_SCRUB (R245): a granule of a trained stack is read; a correctable error is counted and written back. The scrub reads for no
partition. -/
def execRimScrub (stack granule : Nat) (chk : CodeCheck) (s : State) : Host.Outcome State Fault Refusal :=
  let st := s.fld (Reg.RIM_STACK stack) 31 30
  .next (if st = 0 ∨ st = 3 then s else s.rimCheck none (stack * (96 * gib) + 1024 * granule) 0 chk)

/-- RIM_CHANNEL_FAIL (R244): the stack is degraded until the next start. -/
def execRimChannelFail (stack channel : Nat) (s : State) : Host.Outcome State Fault Refusal :=
  .next (if flag (s.rd (Reg.RIM_CHAN stack)) channel && !flag (s.rd (Reg.RIM_FAIL stack)) channel then
    let s := (s.setFld (Reg.RIM_FAIL stack) channel channel 1).setFld (Reg.RIM_STACK stack) 31 30 2
    s.deferred 20 none (locus 6 0 (channel * 16 + stack))
  else s)

end Sys2Proof.Machine
end

