-- ==== Sys2Proof/Machine/Output.lean ====
section
/-! DEFINITION. Output rings (R321 to R323): the record and its place, and records held while the ring is off. -/

namespace Sys2Proof.Machine

/-- LOG2N of an output ring: 6 to 16, others act as 6. -/
def State.outLog (s : State) (p : Nat) : Nat :=
  let l := s.fld (Reg.SRV_OUT_CFG p) 4 0
  if 6 ≤ l ∧ l ≤ 16 then l else 6

/-- PI with the advances that wait for the link. -/
def State.outPi (s : State) (p : Nat) : Nat := (s.rd (Reg.SRV_OUT_PI p)).toNat + s.heldAdvances (100 + p)

/-- Entries not yet freed by the host. -/
def State.outUsed (s : State) (p : Nat) : Nat :=
  ((BitVec.ofNat 32 (s.outPi p) - s.rd (Reg.SRV_OUT_CI p)).toNat) + (s.part p).outHeld.length

/-- A record of Table 11-7 without its phase. -/
def outRecord (seq status flags tok pos logprob tag time : Nat) : Bytes :=
  leBytes 2 seq ++ leBytes 1 status ++ leBytes 1 flags ++ leBytes 4 tok ++ leBytes 4 pos ++ leBytes 4 logprob ++ leBytes 4 tag ++ zeros 4
    ++ leBytes 8 time

/-- Write a record at the producer index with its phase, then advance the index and its copy (R322). -/
def State.putRecord (s : State) (p : Nat) (rec_ : Bytes) : State :=
  let n := 2 ^ s.outLog p
  let pi := s.outPi p
  let base := s.rd64 (Reg.SRV_OUT_BASE_LO p) (Reg.SRV_OUT_BASE_HI p)
  let port := s.homePort p
  let phase := (pi / n + 1) % 2
  let d := splice rec_ 0 (leBytes 2 (byteAt rec_ 0 + 256 * (byteAt rec_ 1 % 64) + 32768 * phase))
  let s := s.hostWriteAdv port (base + 32 * (pi % n)) d (100 + p)
  (s.hostWrite port (base + 32 * n) (leBytes 4 (pi + 1))).signal p

/-- A record for partition p's ring; held while EN is 0 (R323). -/
def State.emitRecord (s : State) (p : Nat) (rec_ : Bytes) : State :=
  if flag (s.rd (Reg.SRV_OUT_CFG p)) 31 then s.putRecord p rec_
  else s.modPart p fun x => { x with outHeld := x.outHeld ++ [rec_] }

/-- The records held go out when the ring is enabled. -/
def State.flushRecords (s : State) (p : Nat) : State :=
  let l := (s.part p).outHeld
  l.foldl (fun s r => s.putRecord p r) (s.modPart p fun x => { x with outHeld := [] })

/-- One status-11 record (R424): lost, and counted, when its ring's port is down. -/
def State.lostRecord (s : State) (k : KeptSeq) : State :=
  if s.portUp (s.homePort k.part) && flag (s.rd (Reg.SRV_OUT_CFG k.part)) 31 then
    s.putRecord k.part (outRecord k.seq 11 2 0xFFFFFFFF k.pos 0 k.tag.toNat s.now)
  else s.bump Reg.FLT_STAT 23 16

/-- The records of every sequence kept over a device-fatal fault, written once. -/
def State.lostRecords (s : State) : State :=
  let l := s.flt.kept
  l.foldl State.lostRecord { s with flt := { s.flt with kept := [] } }

end Sys2Proof.Machine
end

