-- ==== Sys2Proof/Machine/Ecdsa.lean ====
section
/-! DEFINITION. ECDSA P-521 verification (R436, R449, R453). The manual names the algorithm and its standard, FIPS 186-5, and restates
neither: the curve's numbers and the verification equation are PRESUMED from that standard (assumption 16). -/

namespace Sys2Proof.Machine

namespace P521

def p : Nat := 2 ^ 521 - 1
def n : Nat := 0x1fffffffffffffffffffffffffffffffffffffffffffffffffffffffffffffffffa51868783bf2f966b7fcc0148f709a5d03bb5c9b8899c47aebb6fb71e91386409
def b : Nat := 0x0051953EB9618E1C9A1F929A21A0B68540EEA2DA725B99B315F3B8B489918EF109E156193951EC7E937B1652C0BD3BB1BF073573DF883D2C34F1EF451FD46B503F00
def gx : Nat := 0x00C6858E06B70404E9CD9E3ECB662395B4429C648139053FB521F828AF606B4D3DBAA14B5E77EFE75928FE1DC127A2FFA8DE3348B3C1856A429BF97E7E31C2E5BD66
def gy : Nat := 0x011839296A789A3BC0045C8A5FB42C7D1BD998F54449579B446817AFBD17273E662C97EE72995EF42640C550B9013FAD0761353C7086A272C24088BE94769FD16650

/-- A point; `none` is the point at infinity. -/
abbrev Point := Option (Nat × Nat)

end P521

/-- a^e mod m, over the low `bits` bits of e. -/
def powMod (a e m : Nat) : Nat → Nat
  | 0 => 1
  | bits + 1 =>
    let r := powMod (a * a % m) (e / 2) m bits
    if e % 2 = 1 then a * r % m else r

/-- Inverse modulo a prime of at most 521 bits. -/
def invMod (a m : Nat) : Nat := powMod (a % m) (m - 2) m 521

def P521.sub (a b : Nat) : Nat := (a % P521.p + P521.p - b % P521.p) % P521.p

def P521.onCurve (x y : Nat) : Bool := decide (y * y % P521.p = (x * x * x + (P521.p - 3) * x + P521.b) % P521.p)

def P521.add (a b : P521.Point) : P521.Point :=
  match a, b with
  | none, _ => b
  | _, none => a
  | some (x1, y1), some (x2, y2) =>
    if x1 = x2 ∧ (y1 + y2) % P521.p = 0 then none
    else
      let l := if x1 = x2 then (3 * x1 * x1 + P521.p - 3) * invMod (2 * y1) P521.p % P521.p
        else P521.sub y2 y1 * invMod (P521.sub x2 x1) P521.p % P521.p
      let x := P521.sub (l * l) (x1 + x2)
      some (x, P521.sub (l * P521.sub x1 x) y1)

/-- k·a, over the low `bits` bits of k. -/
def P521.mul (k : Nat) (a : P521.Point) : Nat → P521.Point
  | 0 => none
  | bits + 1 =>
    let r := P521.mul (k / 2) (P521.add a a) bits
    if k % 2 = 1 then P521.add a r else r

/-- A public key in uncompressed form: 0x04, X and Y of 66 bytes each, big-endian. -/
def keyPoint (k : Bytes) : Option (Nat × Nat) :=
  let x := beNat (slice k 1 66)
  let y := beNat (slice k 67 66)
  if k.length = 133 ∧ byteAt k 0 = 4 ∧ x < P521.p ∧ y < P521.p ∧ P521.onCurve x y then some (x, y) else none

/-- Is (r, s) a signature over a message whose SHA-512 digest is `digest`? -/
def ecdsaOk (key digest : Bytes) (r s : Nat) : Bool :=
  match keyPoint key with
  | none => false
  | some q =>
    if r = 0 ∨ s = 0 ∨ P521.n ≤ r ∨ P521.n ≤ s then false
    else
      let w := invMod s P521.n
      let u1 := beNat digest * w % P521.n
      let u2 := r * w % P521.n
      match P521.add (P521.mul u1 (some (P521.gx, P521.gy)) 521) (P521.mul u2 (some q) 521) with
      | none => false
      | some (x, _) => decide (x % P521.n = r)

end Sys2Proof.Machine
end

