-- ==== Sys2Proof/Machine/SecOps.lean ====
section
/-! DEFINITION. What bring-up, the management commands and the security core share: the registers that show the protection set-up, the check of
a firmware image (R436), the fuse gate (R404) and the security core's error state (R451). -/

namespace Sys2Proof.Machine

/-- The weight of a set of bits, bit i for each i of l. -/
def maskOf (l : List Nat) : Nat := l.foldl (fun m i => if m / 2 ^ i % 2 = 1 then m else m + 2 ^ i) 0

/-- Is debug fused off: by FUSE kind 3, by the fuses, or by option S (R455)? -/
def State.debugFused (s : State) : Bool :=
  s.sec.debugOff || (match s.boot.fuses with
    | some f => f.debugOff || decide (f.option = 1)
    | none => false)

/-- Every SEC register but SEC_LAST, from the set-up (Table 17-15). -/
def State.showSec (s : State) : State :=
  let x := s.sec
  let bit := fun (b : Bool) (n : Nat) => if b then 2 ^ n else 0
  let w := bit x.error 31 + bit x.setupOk 30 + bit s.debugFused 29 + bit x.testMode 28 + x.roster.length * 2 ^ 24 + maskOf (tabKeys x.roster) * 2 ^ 16
    + x.queue.length * 2 ^ 13
  let s := s.wr Reg.SEC_STAT (BitVec.ofNat 32 w)
  let s := s.wr64 Reg.SEC_CTR_LO Reg.SEC_CTR_HI x.ctr.toNat
  let s := s.wr64 Reg.SEC_DBG_LO Reg.SEC_DBG_HI x.debugMask.toNat
  let s := s.wr Reg.SEC_POLICY (BitVec.ofNat 32 (bit x.listed 31 + bit x.stageOpen 30 + bit x.rbAuto 29 + x.models.length * 2 ^ 16 + x.minM * 2 ^ 8 + x.minS))
  (List.range 64).foldl (fun s p =>
    let e := tabGet (0, 0) x.keys p
    s.wr (Reg.SEC_KEY p) (BitVec.ofNat 32 (e.2 * 2 ^ 16 + e.1))) s

/-- CNT_M and CNT_S of MGT_SVN. -/
def State.showCounters (s : State) : State := (s.setFld Reg.MGT_SVN 15 8 s.sec.cntM).setFld Reg.MGT_SVN 7 0 s.sec.cntS

/-! ### Firmware images (R436) -/

def imageMagic : Bytes := [0x59, 0x46, 0x57, 0x31]

/-- MAGIC, VERSION, LENGTH, DIGEST and the signature of an image. -/
def imageSigned (h payload : Bytes) : Bool :=
  decide (h.length = 512) && decide (slice h 0 4 = imageMagic) && decide (leAt h 4 2 = 1) && decide (leAt h 16 4 = payload.length)
    && decide (payload.length + 512 ≤ 96 * 2 ^ 20) && decide (slice h 24 64 = sha512 payload)
    && ecdsaOk Config.releaseKey (sha512 (slice h 0 88)) (beNat (slice h 88 66)) (beNat (slice h 154 66))

def imageSvn (h : Bytes) : Nat × Nat := (byteAt h 12, byteAt h 13)

/-- SVN_M ≥ CNT_M and SVN_S ≥ CNT_S. -/
def State.svnOk (s : State) (h : Bytes) : Bool := decide (s.sec.cntM ≤ (imageSvn h).1) && decide (s.sec.cntS ≤ (imageSvn h).2)

/-- Content of flash bank b: what was staged there, else what the read gives (R437). -/
def State.bankRead (s : State) (b : Nat) (rd : BankRead) : BankRead :=
  match rd with
  | .readError => .readError
  | _ => match s.mgt.banks[b]? with
    | some x => if x.header.isEmpty then rd else .image x.header x.payload
    | none => rd

/-- Cause of a bank's boot locus (R437): 0 valid, 1 signature or digest, 2 rollback, 3 read error. -/
def State.bankCause (s : State) (rd : BankRead) : Nat :=
  match rd with
  | .readError => 3
  | .empty => 1
  | .image h d => if !imageSigned h d then 1 else if !s.svnOk h then 2 else 0

/-! ### The fuse gate (R404) -/

/-- T_J and every welt reading between 15.0 and 45.0 °C; with no reading the gate is shut (assumption 26). -/
def State.fuseGate (s : State) : Bool :=
  match s.deviceTemp with
  | none => false
  | some t => decide (316 ≤ t) && decide (t ≤ 436) && s.thm.welt.all fun e => decide (316 ≤ e.2) && decide (e.2 ≤ 436)

def State.fuseRefused (s : State) : State := s.bump Reg.THM_GATE 31 24

/-! ### The error state (R451) -/

/-- The security core enters its error state: its secrets are gone, and source 44 is raised. -/
def State.secFails (s : State) : State :=
  if s.sec.error then s
  else
    let s := { s with sec := { s.sec with error := true, sessions := [] } }
    s.showSec.deviceFatal 44 0

end Sys2Proof.Machine
end

