-- ==== Sys2Proof/Machine/Power.lean ====
section
/-! DEFINITION. Power delivery (chapter 13): feeds, converters and the field cap, regulator phases and power-down, the current limiter,
staged wake, ballast, clock steps, overruns (R343, R344) and minimum-voltage records. The end of the hold-up is in Machine/Bringup.lean. -/

namespace Sys2Proof.Machine

/-! ### Feeds (R350 to R352, R498) -/

def setNth {α : Type} (l : List α) (n : Nat) (v : α) : List α := l.set n v

def feedReg (f : Nat) : Nat := if f = 0 then Reg.PWR_FEED_A else Reg.PWR_FEED_B

/-- PWR_FEED_A and _B (STATE, VOLT) and PWR_STAT.MODE from the feeds' state. -/
def State.showFeeds (s : State) : State :=
  let s := (List.range 2).foldl (fun s f =>
    let st := if s.pwr.valid.getD f false then 1 else if s.pwr.present.getD f false then 2 else 0
    (s.setFld (feedReg f) 31 30 st).setFld (feedReg f) 29 16 (s.pwr.volts.getD f 0)) s
  let a := s.pwr.valid.getD 0 false
  let b := s.pwr.valid.getD 1 false
  s.setFld Reg.PWR_STAT 31 30 (if a && b then 0 else if a || b then 1 else 2)

/-- A feed that was valid is lost: counted and logged (R351). -/
def State.feedLost (s : State) (f : Nat) : State :=
  let s := s.bump Reg.PWR_FEED_EVT (if f = 0 then 31 else 23) (if f = 0 then 24 else 16)
  (s.logEvent 7 f (leBytes 2 (s.pwr.volts.getD f 0))).checkConditions

/-- FEED_VALID (R350, R351): a present feed within 40.0 to 60.0 V for 10 ms. A feed regained while a feed has been valid since the cold start
is logged. -/
def execFeedValid (f centivolt : Nat) (s : State) : Host.Outcome State Fault Refusal :=
  .next (if !s.boot.alwaysOn || s.pwr.holdUp || decide (centivolt < 4000) || decide (6000 < centivolt) then s
  else
    let was := s.pwr.valid.getD f false
    let s := ({ s with pwr := { s.pwr with present := setNth s.pwr.present f true, valid := setNth s.pwr.valid f true, volts := setNth s.pwr.volts f centivolt } }).showFeeds
    let again := decide (0 < s.fld Reg.PWR_FEED_EVT (if f = 0 then 31 else 23) (if f = 0 then 24 else 16))
    let s := if again && !was then s.logEvent 7 (2 + f) (leBytes 2 centivolt) else s
    s.checkConditions)

/-- FEED_INVALID (R350, R351): the feed has stayed below 39.0 V or above 61.0 V for 20 µs. Both invalid start the hold-up (HOLDUP_START). -/
def execFeedInvalid (f centivolt : Nat) (s : State) : Host.Outcome State Fault Refusal :=
  .next (if 3900 ≤ centivolt ∧ centivolt ≤ 6100 then s
  else
    let was := s.pwr.valid.getD f false
    let s := { s with pwr := { s.pwr with valid := setNth s.pwr.valid f false, volts := setNth s.pwr.volts f centivolt } }
    if !s.boot.alwaysOn then s else if was then (s.showFeeds).feedLost f else s.showFeeds)

/-- FEED_PRESENT_OPEN (R498): drawing from the feed stops as for an invalid feed. -/
def execFeedPresentOpen (f : Nat) (s : State) : Host.Outcome State Fault Refusal :=
  .next (
    let was := s.pwr.valid.getD f false
    let s := { s with pwr := { s.pwr with present := setNth s.pwr.present f false, valid := setNth s.pwr.valid f false } }
    if !s.boot.alwaysOn then s else if was then (s.showFeeds).feedLost f else s.showFeeds)

/-- The governor starts again from the next P_m (R415). -/
def State.ungovern (s : State) : State := { s with thm := { s.thm with governed := false } }

/-- Partitions that run, bit p. -/
def State.runningMask (s : State) : Nat := ((List.range 64).map fun p => if s.pstate p = 2 ∨ s.pstate p = 3 then 2 ^ p else 0).foldl (· + ·) 0

/-- HOLDUP_START (R352): every region is stretched at k = 7, ballast is suspended, and the power-loss record is written. -/
def execHoldupStart (s : State) : Host.Outcome State Fault Refusal :=
  .next (if !s.boot.alwaysOn || s.pwr.holdUp || s.pwr.valid.getD 0 false || s.pwr.valid.getD 1 false then s
  else
    let s := (({ s with pwr := { s.pwr with holdUp := true, ballastOff := true } }).showFeeds).ungovern
    let s := s.announceAll
    let s := s.logEvent 8 0 (leBytes 8 s.runningMask)
    s.checkConditions)

/-! ### Converters and the field cap (R353, R354) -/

/-- Field capacity C, A (Table 13-1). -/
def State.fieldCap (s : State) (f : Nat) : Nat := match s.convertersOf f with
  | 0 => 0
  | 1 => 160
  | _ => 320

/-- CONV of PWR_FIELDf, HEAD of PWR_FIELD_GRANTf, and the limits of the field's regions. -/
def State.showField (s : State) (f : Nat) : State :=
  let s := s.setFld (Reg.PWR_FIELD f) 31 29 (field s.pwr.converters (3 * f + 2) (3 * f))
  let s := s.setFld (Reg.PWR_FIELD_GRANT f) 25 16 (s.fieldCap f - s.fld (Reg.PWR_FIELD f) 25 16)
  (fieldRegions f).foldl (fun s r => s.showLimit r) s

/-- A converter goes off until the next start (R354, R406). -/
def State.converterOff (s : State) (i : Nat) : State :=
  if !flag s.pwr.converters i then s
  else
    let f := i / 3
    let s := ({ s with pwr := { s.pwr with converters := setFlag s.pwr.converters i false } }).showField f
    match s.convertersOf f with
    | 0 => s.deviceFatal 40 (locus 2 1 f)
    | _ => s.deferred 10 none (locus 1 1 i)

/-- CONVERTER_FAIL (R354, Table 13-1). -/
def execConverterFail (i : Nat) (s : State) : Host.Outcome State Fault Refusal := .next (s.converterOff i).checkConditions

/-- FCAP moves, and stall-mode partitions of the field hear of it. -/
def State.setFcap (s : State) (f k : Nat) : State :=
  let s := s.setFld (Reg.PWR_FIELD f) 28 26 k
  ((fieldRegions f).foldl (fun s r => s.announce r) s).checkConditions

/-- FIELD_CAP_ADJUST (R354): I_F is measured; above C the level rises by 1, at most every 10 µs; after each 100 µs below 0.95 C it falls by 1. -/
def execFieldCapAdjust (f amps : Nat) (s : State) : Host.Outcome State Fault Refusal :=
  .next (
    let s := s.setFld (Reg.PWR_FIELD f) 25 16 (min amps 1023)
    let s := s.showField f
    let c := s.fieldCap f
    let k := s.fld (Reg.PWR_FIELD f) 28 26
    let below := fun (t : Tab Long) (s : State) => ({ s with pwr := { s.pwr with belowSince := t } } : State)
    if c < amps then
      let s := below (tabDrop s.pwr.belowSince f) s
      if rateOk s.pwr.lastCapUp f 10000 s.now then
        ({ s with pwr := { s.pwr with lastCapUp := tabAdd s.pwr.lastCapUp f s.time } }).setFcap f (min 7 (k + 1))
      else s
    else if 100 * amps < 95 * c then
      match tabFind s.pwr.belowSince f with
      | none => below (tabAdd s.pwr.belowSince f s.time) s
      | some t => if s.elapsed t 100000 then (below (tabAdd s.pwr.belowSince f s.time) s).setFcap f (k - 1) else s
    else below (tabDrop s.pwr.belowSince f) s)

/-! ### Region rails (R355 to R359) -/

/-- Failed phases of a rail. -/
def State.phasesLost (s : State) (r : Nat) (memRail : Bool) : Nat :=
  (bitsOf (BitVec.ofNat 8 (if memRail then s.fld (Reg.RGNW_PWR_PHASE r) 19 16 else s.fld (Reg.RGNW_PWR_PHASE r) 15 8))).length

/-- PHASE_FAIL (R356): the first of a rail is one deferred fault; a core-rail phase lowers the limit to 42.00 W. The second of a rail starts
REGION_POWER_DOWN. -/
def execPhaseFail (r : Nat) (memRail : Bool) (i : Nat) (s : State) : Host.Outcome State Fault Refusal :=
  .next (
    let b := if memRail then 16 + i else 8 + i
    if (s.region r).pstate = 0 ∨ flag (s.rd (Reg.RGNW_PWR_PHASE r)) b = true then s
    else
      let s := (s.setFld (Reg.RGNW_PWR_PHASE r) b b 1).showLimit r
      if s.phasesLost r memRail = 1 then s.deferred 11 (s.owner r) (regionLocus r) else s)

/-- Have the started cores of the region halted, failed or lost power (R346, R357)? -/
def State.regionHalted (s : State) (r : Nat) : Bool :=
  (List.range 17).all fun k => decide ((s.coreAt (17 * r + k)).phase ≠ .running)

/-- REGION_POWER_DOWN (R357 step 1): two phases of a rail have failed; a stop with end reason 5 becomes pending for the partition. -/
def execRegionPowerDown (r : Nat) (s : State) : Host.Outcome State Fault Refusal :=
  .next (
    let g := s.region r
    if g.poweringDown || s.dead r || decide (g.pstate = 0) || (decide (s.phasesLost r true < 2) && decide (s.phasesLost r false < 2)) then s
    else
      let s := (s.modRegion r fun g => { g with poweringDown := true, downSince := some s.time }).ungovern
      match s.owner r with
      | some p => s.stopPart p 5
      | none => s)

/-- POWER_DOWN_PROCEED (R357 steps 2 to 4): the cores have halted, or 1 ms has passed, or no partition holds the region. -/
def execPowerDownProceed (r : Nat) (s : State) : Host.Outcome State Fault Refusal :=
  .next (
    let g := s.region r
    let late := match g.downSince with
      | some t => s.elapsed t 1000000
      | none => true
    if g.poweringDown && ((s.owner r).isNone || s.regionHalted r || late) then (s.regionDies r 5 (s.owner r)).checkConditions else s)

/-- CURRENT_LIMITER_TRIP (R358, R359): the region is dead with cause 6 at once, and its hub discards the flits it holds for the region. -/
def execCurrentLimiterTrip (r : Nat) (s : State) : Host.Outcome State Fault Refusal :=
  .next (if (s.region r).pstate = 0 ∨ s.dead r = true then s
  else
    let s := (s.modRegion r fun g => { g with limiterOpen := true }).ungovern
    let s := { s with fab := { s.fab with flits := s.fab.flits.filter fun f => match f.loc with
        | .eject q => decide (q ≠ r)
        | .inject q _ => decide (q ≠ r)
        | _ => true } }
    (s.regionDies r 6 (s.owner r)).checkConditions)

/-! ### Staged wake (R361, R362) -/

/-- Rush current of a stage, 0.1 A. -/
def rushOf (stage : Nat) : Nat := [5, 20, 60, 120].getD stage 0

/-- Regions of field f with a wake pending. -/
def State.waking (s : State) (f : Nat) : List Nat := (fieldRegions f).filter fun r => (s.region r).wake.isSome

/-- Rush current of the stages in progress in field f: granted, and the next not yet asked for. -/
def State.rushNow (s : State) (f : Nat) : Nat :=
  ((s.waking f).map fun r => match (s.region r).wake with
    | some (_, n, _, none) => if 0 < n then rushOf (n - 1) else 0
    | _ => 0).foldl (· + ·) 0

def State.showWakes (s : State) (f : Nat) : State := s.setFld (Reg.PWR_FIELD_GRANT f) 31 27 (s.waking f).length

/-- WAKE_STAGE_REQUEST (R361): a waking region asks for its next stage. -/
def execWakeStageRequest (r : Nat) (s : State) : Host.Outcome State Fault Refusal :=
  .next (match (s.region r).wake with
    | some (m, n, t, none) =>
      if 4 ≤ n ∨ s.dead r = true then s
      else
        let f := fieldOf r
        let s := s.modRegion r fun g => { g with wake := some (m, n, t, some s.time) }
        let s := { s with pwr := { s.pwr with wakeQueue := tabAdd s.pwr.wakeQueue f ((tabFind s.pwr.wakeQueue f).getD [] ++ [r]) } }
        s.showWakes f
    | _ => s)

/-- With one working converter, stages are granted for one region at a time (R362). -/
def State.wakeTurn (s : State) (f r : Nat) : Bool :=
  let begun := fun q => match (s.region q).wake with
    | some (_, n, _, _) => decide (0 < n)
    | none => false
  decide (2 ≤ s.convertersOf f) || begun r || !((s.waking f).any begun)

def State.wakeGrant (s : State) (f : Nat) : State :=
  let q := (tabFind s.pwr.wakeQueue f).getD []
  match q.find? (s.wakeTurn f) with
  | none => s
  | some r =>
    match (s.region r).wake with
    | some (m, n, t, some _) =>
      if 10 * s.fld (Reg.PWR_FIELD f) 25 16 + s.rushNow f + rushOf n ≤ 10 * s.fieldCap f then
        let s := { s with pwr := { s.pwr with wakeQueue := tabAdd s.pwr.wakeQueue f (q.filter fun x => decide (x ≠ r)) } }
        (s.modRegion r fun g => { g with wake := some (m, n + 1, t, none) }).bump (Reg.PWR_FIELD_GRANT f) 15 0
      else s
    | _ => s

/-- WAKE_STAGE_GRANT (R361): the first request of field f is granted when the headroom covers its rush current. -/
def execWakeStageGrant (f : Nat) (s : State) : Host.Outcome State Fault Refusal := .next (s.wakeGrant f)

/-- Power for the cores of a mask: idle and, unless a load has written them, zeroized. -/
def State.powerCores (s : State) (r : Nat) (m : BitVec 18) : State :=
  s.mapCores r fun k c =>
    if flag m k && decide (c.phase ≠ .failed) then { c with powered := true, phase := if c.phase = .off then .idle else c.phase } else c

/-- WAKE_COMPLETE (R361): rails settled, clock started, reset released. A region woken from state 0 wakes its uncore first and then, by the
same stages, its cores (R360). -/
def execWakeComplete (r : Nat) (s : State) : Host.Outcome State Fault Refusal :=
  .next (match (s.region r).wake with
    | some (m, 4, t, none) =>
      let cores : BitVec 18 := setField m 17 17 0
      let f := fieldOf r
      let us := (s.now - t.toNat) / 1000
      let s := if flag m 17 then
          s.modRegion r fun g => { g with pstate := max 1 g.pstate, hubOn := true, seq := { g.seq with state := if g.seq.state = 0 then 1 else g.seq.state },
                                          wake := if cores = 0 then none else some (cores, 0, t, none) }
        else (s.powerCores r m).modRegion r fun g => { g with pstate := 2, wake := none }
      let s := { s with pwr := { s.pwr with prioList := tabAdd s.pwr.prioList f (((tabFind s.pwr.prioList f).getD []).filter fun x => decide (x ≠ r)) } }
      let s := ((s.setFld (Reg.RGNW_WAKE r) 31 16 us).bump (Reg.RGNW_WAKE r) 15 0).showLimit r
      s.showWakes f
    | _ => s)

/-- RUSH_PRIORITY_RAISE (R362): the stage at the head has waited 40 µs; every other region of the field is stretched at k = 7. -/
def execRushPriorityRaise (f : Nat) (s : State) : Host.Outcome State Fault Refusal :=
  .next (
    let q := (tabFind s.pwr.wakeQueue f).getD []
    let due := q.find? fun r => match (s.region r).wake with
      | some (_, _, _, some t) => s.elapsed t 40000
      | _ => false
    match due with
    | none => s
    | some r =>
      if (tabFind s.pwr.rush f).isSome then s
      else
        let s := { s with pwr := { s.pwr with rush := tabAdd s.pwr.rush f r, prioList := tabAdd s.pwr.prioList f (s.waking f) } }
        let s := (s.setFld (Reg.PWR_FIELD_GRANT f) 26 26 1).bump (Reg.PWR_FIELD f) 15 8
        ((fieldRegions f).foldl (fun s r => s.announce r) s).checkConditions)

/-- RUSH_PRIORITY_LIFT (R362): every wake pending when it was raised has completed its last stage. -/
def execRushPriorityLift (f : Nat) (s : State) : Host.Outcome State Fault Refusal :=
  .next (
    let left := ((tabFind s.pwr.prioList f).getD []).any fun r => match (s.region r).wake with
      | some (_, n, _, w) => decide (n < 4) || w.isSome
      | none => false
    if left || (tabFind s.pwr.rush f).isNone then s
    else
      let s := { s with pwr := { s.pwr with rush := tabDrop s.pwr.rush f, prioList := tabDrop s.pwr.prioList f } }
      let s := s.setFld (Reg.PWR_FIELD_GRANT f) 26 26 0
      ((fieldRegions f).foldl (fun s r => s.announce r) s).checkConditions)

/-! ### Ballast (R363) and clock steps (R364) -/

/-- BAL_STEP: 0 acts as 1, values above 8 act as 8 (R368). -/
def State.balStep (s : State) : Nat := max 1 (min 8 (s.fld Reg.PWR_BALLAST 3 0))

/-- BALLAST_WINDOW (R363): the region's total activity, program and filler, falls by at most BAL_STEP units; not while ballast is suspended. -/
def execBallastWindow (r activity : Nat) (s : State) : Host.Outcome State Fault Refusal :=
  .next (if (s.region r).pstate = 0 then s
  else
    let off := s.pwr.ballastOff || flag (s.rd Reg.THM_STAT) 28 || flag (s.rd Reg.THM_STAT) 31
    s.modRegion r fun g => { g with ballastLast := if off then activity else max activity (g.ballastLast - s.balStep) })

/-- CLOCK_STEP_CHANGE (R364, R368): a write to PWR_CLK.STEP starts or retargets a change, logged with the step left and the step asked. -/
def execClockStepChange (v : Word) (s : State) : Host.Outcome State Fault Refusal :=
  .next (
    let old := s.fld Reg.PWR_CLK 1 0
    let s := s.writeRW Reg.PWR_CLK 0x3 0x38 v
    let new := s.fld Reg.PWR_CLK 1 0
    if new = old then s
    else
      let s := (s.setFld Reg.PWR_CLK 3 3 1).ungovern
      (s.logEvent 9 (4 * old + new) []).checkConditions)

/-- RGNW_PWR_RAIL of a powered region: the fused core setpoint of the step reached, and 0.70 V (R355). -/
def State.showRail (s : State) (r : Nat) : State :=
  let mv := match s.boot.fuses with
    | some f => tabGet 0 f.rail (4 * r + s.fld Reg.PWR_CLK 5 4)
    | none => 0
  (s.setFld (Reg.RGNW_PWR_RAIL r) 31 22 mv).setFld (Reg.RGNW_PWR_RAIL r) 21 12 700

/-- GLIDE_DONE (R364): CUR reads the step reached. -/
def execGlideDone (s : State) : Host.Outcome State Fault Refusal :=
  .next (if s.fld Reg.PWR_CLK 3 3 = 0 then s
  else
    let s := (s.setFld Reg.PWR_CLK 5 4 (s.fld Reg.PWR_CLK 1 0)).setFld Reg.PWR_CLK 3 3 0
    let s := (tabKeys s.regions).foldl (fun s r => if (s.region r).pstate = 0 then s else s.showRail r) s
    s.checkConditions)

/-- PWR_BALLAST (R368): reads back as written. -/
def execPwrBallastWrite (v : Word) (s : State) : Host.Outcome State Fault Refusal :=
  .next (s.writeRW Reg.PWR_BALLAST 0xF 0 v)

/-! ### Activity and power overruns (R343, R344, R366) -/

/-- An overrun of region r for partition p: the throttle, and at most one deferred fault per partition and millisecond. -/
def State.overrun (s : State) (r p : Nat) : State :=
  let s := s.modRegion r fun g => { g with overrun := true, cleanWindows := 0, windowDirty := true }
  ((s.deferred 15 (some p) (regionLocus r)).announce r).checkConditions

/-- ACTIVITY_WINDOW_END (R343, R344): `sum` is the window's activity. -/
def execActivityWindowEnd (r sum : Nat) (s : State) : Host.Outcome State Fault Refusal :=
  .next (match s.owner r with
    | none => s
    | some p =>
      let g := s.region r
      let s :=
        if 128 * g.dotmax < sum then (s.bump (Reg.LDR_PART_PWR p) 31 16).overrun r p
        else if g.windowDirty then s.modRegion r fun g => { g with cleanWindows := 0 }
        else
          let n := g.cleanWindows + 1
          let s := s.modRegion r fun g => { g with cleanWindows := min n 16, overrun := g.overrun && decide (n < 16) }
          if g.overrun && decide (16 ≤ n) then (s.announce r).checkConditions else s
      s.modRegion r fun g => { g with windowDirty := false })

/-- POWER_OVERRUN_CHECK (R343, R356, R366): one 1 µs average. Its energy is one nJ for each mW, and the core rail's share of the measured power is
taken at its setpoint. -/
def execPowerOverrunCheck (r milliwatt coreMilliamp : Nat) (s : State) : Host.Outcome State Fault Refusal :=
  .next (if (s.region r).pstate = 0 then s
  else
    let core := coreMilliamp * s.fld (Reg.RGNW_PWR_RAIL r) 31 22 / 10000
    let s := (s.setFld (Reg.RGNW_PWR_MEAS r) 31 16 core).setFld (Reg.RGNW_PWR_MEAS r) 15 0 (milliwatt / 10 - core)
    let s := s.modRegion r fun g => { g with energy := g.energy + milliwatt }
    let s := s.wr64 (Reg.RGNW_PWR_E_LO r) (Reg.RGNW_PWR_E_HI r) ((s.region r).energy / 1000)
    match s.owner r with
    | none => s
    | some p =>
      let lim := min (s.region r).pw (s.regionLimit r)
      let tooMuch := decide (250 * lim < milliwatt) || (decide (0 < s.phasesLost r false) && decide ((if s.phasesLost r false = 1 then 42000 else 36000) < coreMilliamp))
      if tooMuch then (s.bump (Reg.LDR_PART_PWR p) 15 0).overrun r p else s)

/-! ### Captures, minimum-voltage records and posted writes (R367 to R369, R472) -/

/-- PWR_ENERGY_LO_READ (R368). -/
def execPwrEnergyLoRead (port : Nat) (s : State) : Host.Outcome State Fault Refusal :=
  .next (s.capture port Reg.PWR_ENERGY_HI (s.rd Reg.PWR_ENERGY_HI))

/-- RGNW_PWR_E_LO_READ (R369): a region without power captures the reset value. -/
def execRgnwPwrELoRead (port r : Nat) (s : State) : Host.Outcome State Fault Refusal :=
  .next (s.capture port (Reg.RGNW_PWR_E_HI r) (if (s.region r).pstate = 0 then 0 else s.rd (Reg.RGNW_PWR_E_HI r)))

/-- RGNW_VMIN_TC_LO_READ (R369), of the welt's mirror. -/
def execRgnwVminTcLoRead (port r : Nat) (s : State) : Host.Outcome State Fault Refusal :=
  .next (s.capture port (Reg.RGNW_VMIN_TC_HI r) (s.rd (Reg.RGNW_VMIN_TC_HI r)))

/-- RGNW_VMIN_TM_LO_READ (R369), of the welt's mirror. -/
def execRgnwVminTmLoRead (port r : Nat) (s : State) : Host.Outcome State Fault Refusal :=
  .next (s.capture port (Reg.RGNW_VMIN_TM_HI r) (s.rd (Reg.RGNW_VMIN_TM_HI r)))

def vminReg (r : Nat) (memRail : Bool) : Nat := if memRail then Reg.RGNW_VMIN_MEM r else Reg.RGNW_VMIN_CORE r

def vminTime (r : Nat) (memRail : Bool) : Nat × Nat :=
  if memRail then (Reg.RGNW_VMIN_TM_LO r, Reg.RGNW_VMIN_TM_HI r) else (Reg.RGNW_VMIN_TC_LO r, Reg.RGNW_VMIN_TC_HI r)

/-- RAIL_VOLTAGE_SAMPLE (R367): a strictly lower sample replaces the record. -/
def execRailVoltageSample (r : Nat) (memRail : Bool) (mv : Nat) (s : State) : Host.Outcome State Fault Refusal :=
  .next (
    let a := vminReg r memRail
    if (s.region r).pstate ≠ 0 ∧ (flag (s.rd a) 31 = false ∨ mv < s.fld a 9 0) then
      let s := (s.setFld a 31 31 1).setFld a 9 0 (min mv 1023)
      s.wr64 (vminTime r memRail).1 (vminTime r memRail).2 s.now
    else s)

def State.busy (s : State) (r : Nat) : Bool := (s.region r).posted.isSome

/-- A posted window write waits in RGNW_BUSY (R472); while one waits, another is dropped and counted. -/
def State.post (s : State) (r : Nat) (w : Posted) : State :=
  if s.busy r then (s.bump (Reg.RGNW_BUSY r) 15 0).bump Reg.HIF_STAT 31 24
  else (s.modRegion r fun g => { g with posted := some w }).setFld (Reg.RGNW_BUSY r) 31 31 1

/-- Clear a minimum-voltage record. -/
def State.clearVmin (s : State) (r : Nat) (memRail : Bool) : State := s.setFld (vminReg r memRail) 31 31 0

/-- VMIN_VALID_CLEAR (R367, R472): a write with bit 31 set clears the record, posted into a region with power. -/
def execVminValidClear (r : Nat) (memRail : Bool) (v : Word) (s : State) : Host.Outcome State Fault Refusal :=
  .next (
    let s := s.reservedBits (s.rd (if memRail then Reg.RGNW_VMIN_MEM r else Reg.RGNW_VMIN_CORE r)) v 0x7FFFFC00
    if (s.region r).pstate = 0 then (if flag v 31 then s.clearVmin r memRail else s)
    else s.post r (if flag v 31 then .vmin memRail else .none_))

/-- RGNW_TRC_IDX_WRITE (R185, R472); ignored in a region without power. -/
def execRgnwTrcIdxWrite (r : Nat) (v : Word) (s : State) : Host.Outcome State Fault Refusal :=
  .next (if (s.region r).pstate = 0 then s else s.post r (.trcIdx v))

/-- POSTED_WRITE_APPLY (R472). -/
def execPostedWriteApply (r : Nat) (s : State) : Host.Outcome State Fault Refusal :=
  .next (match (s.region r).posted with
    | none => s
    | some w =>
      let s := (s.modRegion r fun g => { g with posted := none }).setFld (Reg.RGNW_BUSY r) 31 31 0
      match w with
      | .trcIdx v => s.writeRW (Reg.RGNW_TRC_IDX r) 0x1FF 0 v
      | .vmin m => s.clearVmin r m
      | .none_ => s)

/-- DIST_IDX_WRITE (R35). -/
def execDistIdxWrite (v : Word) (s : State) : Host.Outcome State Fault Refusal :=
  .next (s.writeRW Reg.GLB_DIST_IDX 0x000FFFE0 0 v)

end Sys2Proof.Machine
end

