-- ==== Sys2Proof/Machine/Thermal.lean ====
section
/-! DEFINITION. Thermal management (chapter 15): sensor samples, junction levels and enforcement, the latched shutdown, the tray's coolant
sensors and the flow clamp, and the power ramp governor. -/

namespace Sys2Proof.Machine

/-! ### Shutdown (R403) -/

/-- Every region loses its power by R357 steps 3 and 4, without dying: a restart and the shutdown of R403 use these steps alike (assumption
23). Every partition's job has then ended. -/
def State.powerDownAll (s : State) : State :=
  let s := (tabKeys s.regions).foldl (fun s r => if (s.region r).pstate = 0 then s else s.cutPower r) s
  let s := s.liveParts.foldl (fun s p => (s.purgeFabric p).freePart p) s
  { s with load := none, ing := Ingest.idle, flt := { s.flt with queue := [], shipSince := none }, boot := { s.boot with railsDown := true } }

/-- The latched shutdown: `cause` 1 junction, 2 flow. -/
def State.shutdown (s : State) (cause : Nat) : State :=
  if flag (s.rd Reg.THM_STAT) 31 then s
  else
    let s := (s.setFld Reg.THM_STAT 31 31 1).setFld Reg.THM_STAT 30 29 cause
    let s := ({ s with pwr := { s.pwr with ballastOff := true } }).ungovern
    (s.deviceFatal 42 0).powerDownAll

/-! ### Levels (R396, R399 to R402) -/

/-- The level by temperature alone, from the level before (Table 15-2). -/
def levelFor (old : Nat) (t : Option Nat) : Nat :=
  match t with
  | none => 0
  | some c =>
    if 676 ≤ c then 2 else if old = 2 ∧ 656 ≤ c then 2 else if 636 ≤ c then 1 else if 1 ≤ old ∧ 616 ≤ c then 1 else 0

/-- Regions of the field of welt sensor i: edge fields clockwise from field (0, 0) (Table 15-1). -/
def weltField (i : Nat) : Nat :=
  if i < 8 then i else if i < 14 then 8 * (i - 7) + 7 else if i < 21 then 48 + (20 - i) else 8 * (26 - i)

/-- Level of the welt sensor of a region's field, 0 where it has none. -/
def State.weltLevelOf (s : State) (r : Nat) : Nat :=
  match (List.range 26).find? fun i => decide (weltField i = fieldOf r) with
  | some i => tabGet 0 s.thm.weltLevel i
  | none => 0

/-- Counts of THM_COUNT. -/
def State.showCounts (s : State) : State :=
  let n := fun (f : Nat → Bool) => (s.regions.filter fun e => f e.1).length
  let s1 := s.setFld Reg.THM_COUNT 31 22 (n fun r => decide (1 ≤ s.levelOf r))
  let s2 := s1.setFld Reg.THM_COUNT 21 12 (n fun r => decide (s.levelOf r = 2))
  s2.setFld Reg.THM_COUNT 11 2 (n fun r => flag (s.rd (Reg.RGNW_THM_STAT r)) 29)

/-- Enforcement begins: k_T is 2 (R402). -/
def State.enforce (s : State) (r : Nat) : State :=
  if flag (s.rd (Reg.RGNW_THM_STAT r)) 29 then s
  else
    let t := (s.regionTemp r).getD 0
    let s := s.modRegion r fun g =>
      { g with kTherm := 2, hotSince := if 676 ≤ t then some s.time else none, coolSince := if t < 656 then some s.time else none }
    s.setFld (Reg.RGNW_THM_STAT r) 29 29 1

/-- KT and SUSP of RGNW_THM_STAT. -/
def State.showKt (s : State) (r : Nat) : State :=
  let g := s.region r
  let s := s.setFld (Reg.RGNW_THM_STAT r) 27 25 (max g.kTherm g.capTherm)
  s.setFld (Reg.RGNW_THM_STAT r) 28 28 (if 0 < g.capTherm then 1 else 0)

/-- An entry to or a leaving of a level: logged and signalled at most once per region and millisecond (R400). -/
def State.levelEvent (s : State) (r level : Nat) (left : Bool) : State :=
  let g := s.region r
  let ok := match g.lastThermEvent with
    | some t => s.elapsed t 1000000
    | none => true
  if left || ok then
    let s := s.logEvent 10 (level + (if left then 4 else 0)) (leBytes 1 (r % 32) ++ leBytes 1 (r / 32) ++ leBytes 2 ((s.regionTemp r).getD 0))
    if left then s else (s.modRegion r fun g => { g with lastThermEvent := some s.time }).signal 130
  else s

/-- Bring region r's level, timers and enforcement up to date with its readings. -/
def State.thermUpdate (s : State) (r : Nat) : State :=
  let a := Reg.RGNW_THM_STAT r
  let t := s.regionTemp r
  let g := s.region r
  let enf := flag (s.rd a) 29
  let own := if enf && t.isSome then 2 else levelFor g.ownLevel t
  let lvl := if t.isNone then 0 else max own (s.weltLevelOf r)
  let old := s.levelOf r
  let c := t.getD 0
  let s := (s.setFld a 31 30 lvl).setFld a 9 0 c
  let s := s.setFld a 19 10 (max (s.fld a 19 10) c)
  let s := s.modRegion r fun g =>
    { g with ownLevel := own,
             hotSince := if 676 ≤ c then some (g.hotSince.getD s.time) else none,
             coolSince := if t.isSome && decide (c < 656) then some (g.coolSince.getD s.time) else none,
             throttleSince := if lvl = 2 then some (g.throttleSince.getD s.time) else none,
             leftThrottle := if old = 2 ∧ lvl < 2 then some s.time else g.leftThrottle }
  let s := if old < 1 ∧ 1 ≤ lvl then s.bump Reg.THM_EVT 31 24 else s
  let s := if old < 2 ∧ lvl = 2 then s.bump Reg.THM_EVT 23 16 else s
  let s := if old < lvl then s.levelEvent r lvl false else if lvl < old then s.levelEvent r old true else s
  let assisted := flag (s.rd Reg.GLB_MODE) 2
  let again := decide (old < 2) && decide (lvl = 2) && (match g.leftThrottle with
    | some u => !s.elapsed u 1000000000
    | none => false)
  let s := if lvl = 2 ∧ ((again && !assisted) || (assisted && decide (696 ≤ c))) = true then s.enforce r else s
  let s := if t.isNone then (s.modRegion r fun g => { g with kTherm := 0 }).setFld a 29 29 0 else s
  (s.showKt r).announce r

/-- THM_HOT: the hottest reading, of equals the first in the order cores, regulators, welt. -/
def State.hottest (s : State) : Nat × Nat × Nat × Nat :=
  let best := fun (b : Nat × Nat × Nat × Nat) (x : Nat × Nat × Nat × Nat) => if b.2.2.2 < x.2.2.2 then x else b
  let cs := s.cores.foldl (fun b e => match e.2.reading with
    | some c => best b (0, e.1 / 17, e.1 % 17, c)
    | none => b) (0, 0, 0, 0)
  let rs := s.regions.foldl (fun b e => e.2.regulators.foldl (fun b x =>
    if e.2.pstate = 0 ∨ e.2.regulatorsLost.contains x.1 = true then b else best b (1, e.1, x.1, x.2)) b) cs
  s.thm.welt.foldl (fun b x => best b (2, 0, x.1, x.2)) rs

/-- TJMAX, THM_HOT and THM_COUNT; held once the stack rails are down (R416). -/
def State.showThermal (s : State) : State :=
  if s.boot.railsDown then s
  else
    let (k, r, i, c) := s.hottest
    let s := s.setFld Reg.THM_STAT 9 0 (s.deviceTemp.getD 0)
    let s := s.wr Reg.THM_HOT (BitVec.ofNat 32 ((r % 32) * 2 ^ 27 + (r / 32) * 2 ^ 22 + k * 2 ^ 20 + i * 2 ^ 15 + c % 1024))
    s.showCounts

/-! ### Samples (R63, R395 to R398) -/

/-- The cap of R397 on region r. -/
def State.suspectCap (s : State) (r : Nat) : State :=
  let cs := (List.range 17).map fun k => s.coreAt (17 * r + k)
  let none_ := cs.any fun c => c.powered && c.tempD.isNone && c.tempR.isNone
  let any_ := cs.any fun c => c.suspect
  s.modRegion r fun g => { g with capTherm := if none_ then 7 else if any_ then 4 else 0 }

def absDiff (a b : Nat) : Nat := max a b - min a b

/-- The comparison at a diode sample: a difference above 4 °C is logged once a second, above 10 °C it starts or keeps the second of R397. -/
def State.comparePair (s : State) (key : Nat) : State :=
  let c := s.coreAt key
  match c.tempD, c.tempR with
  | some d, some q =>
    let diff := absDiff d q
    let log := decide (16 < diff) && (match c.lastDisagreeLog with
      | some t => s.elapsed t 1000000000
      | none => true)
    let s := if log then (s.logEvent 11 (key % 17) (leBytes 1 (key / 17 % 32) ++ leBytes 1 (key / 17 / 32))).bump Reg.THM_EVT 15 8 else s
    s.modCoreAt key fun c =>
      { c with lastDisagreeLog := if log then some s.time else c.lastDisagreeLog, suspectSince := if 40 < diff then some (c.suspectSince.getD s.time) else none }
  | _, _ => s.modCoreAt key fun c => { c with suspectSince := none }

/-- A core sensor's sample; `none` is no valid reading. -/
def State.coreSample (s : State) (key : Nat) (diode : Bool) (code : Option Nat) : State :=
  if !(s.coreAt key).powered then s
  else
    let s := s.modCoreAt key fun c =>
      let c := if diode then { c with tempD := code } else { c with tempR := code.map fun x => x / 2 * 2 }
      { c with missingSince := if c.tempD.isNone || c.tempR.isNone then some (c.missingSince.getD s.time) else none }
    let s := if diode then s.comparePair key else s
    s.suspectCap (key / 17)

/-- A regulator's sample: 1 ms without a valid reading leaves the sensor out until the next start, with one deferred fault. -/
def State.regulatorSample (s : State) (r i : Nat) (code : Option Nat) : State :=
  let g := s.region r
  if g.pstate = 0 ∨ g.regulatorsLost.contains i = true then s
  else match code with
    | some c =>
      let s := s.modRegion r fun g => { g with regulators := tabAdd g.regulators i c, regMissing := tabDrop g.regMissing i }
      let a := if i < 2 then Reg.RGNW_THM_REGA r else Reg.RGNW_THM_REGB r
      let h := i % 2
      (s.setFld a (31 - h) (31 - h) 1).setFld a (29 - 10 * h) (20 - 10 * h) c
    | none =>
      let a := if i < 2 then Reg.RGNW_THM_REGA r else Reg.RGNW_THM_REGB r
      let s := s.setFld a (31 - i % 2) (31 - i % 2) 0
      let s := s.modRegion r fun g => { g with regulators := tabDrop g.regulators i }
      match tabFind g.regMissing i with
      | none => s.modRegion r fun g => { g with regMissing := tabAdd g.regMissing i s.time }
      | some t =>
        if s.elapsed t 1000000 then
          (s.modRegion r fun g => { g with regulatorsLost := g.regulatorsLost ++ [i] }).deferred 17 (s.owner r) (regionLocus r)
        else s

/-- Two consecutive samples of one sensor at or above 120.0 °C (R399). -/
def State.watchHot (s : State) (sn : Sensor) (code : Option Nat) : State :=
  let hot := match code with
    | some c => decide (736 ≤ c)
    | none => false
  let was := s.thm.hotSensors.contains sn
  let rest := s.thm.hotSensors.filter fun x => decide (x ≠ sn)
  let s := { s with thm := { s.thm with hotSensors := if hot then rest ++ [sn] else rest } }
  if hot && was then s.shutdown 1 else s

/-- A welt sensor's sample, and the level it gives its field's regions. -/
def State.weltSample (s : State) (i : Nat) (code : Option Nat) : State :=
  let s := { s with thm := { s.thm with welt := tabPut s.thm.welt i code,
                                        weltLevel := tabSet 0 s.thm.weltLevel i (levelFor (tabGet 0 s.thm.weltLevel i) code) } }
  (fieldRegions (weltField i)).foldl (fun s r => if (s.region r).pstate = 0 then s else s.thermUpdate r) s

/-- SENSOR_SAMPLE (R63, R395): `code` none is a sample without a valid reading. -/
def execSensorSample (sn : Sensor) (code : Option Nat) (s : State) : Host.Outcome State Fault Refusal :=
  .next (match sn with
    | .coreDiode c => ((((s.coreSample (CoreId_key c) true code).thermUpdate c.r).showThermal).watchHot sn (if (s.core c).powered then code else none)).checkConditions
    | .coreRing c =>
      ((((s.coreSample (CoreId_key c) false code).thermUpdate c.r).showThermal).watchHot sn (if (s.core c).powered then code else none)).checkConditions
    | .regulator r i => ((((s.regulatorSample r i code).thermUpdate r).showThermal).watchHot sn (if (s.region r).pstate = 0 then none else code)).checkConditions
    | .welt i => (((s.weltSample i code).showThermal).watchHot sn code).checkConditions
    | .converter i =>
      let hot := match code with
        | some c => decide (756 < c)
        | none => false
      { s with thm := { s.thm with converters := tabPut s.thm.converters i code,
                                   hotConverter := tabPut s.thm.hotConverter i (if hot then some ((tabFind s.thm.hotConverter i).getD s.time) else none) } }
    | .flash =>
      match code with
      | some c => ({ s with mgt := { s.mgt with flashTemp := some c } }).setFld Reg.THM_GATE 9 0 c
      | none => s)

/-- SENSOR_PAIR_SUSPECT (R397): 10 °C apart for 1 s, or a sensor without a valid reading for 1 ms; one deferred fault. -/
def execSensorPairSuspect (c : CoreId) (s : State) : Host.Outcome State Fault Refusal :=
  let x := s.core c
  let long := fun (o : Option Long) n => match o with
    | some t => s.elapsed t n
    | none => false
  .next (if x.powered && !x.suspect && (long x.suspectSince 1000000000 || long x.missingSince 1000000) then
    let s := (s.modCore c fun x => { x with suspect := true }).bump Reg.THM_EVT 7 0
    let s := ((s.suspectCap c.r).showKt c.r).announce c.r
    (s.deferred 17 (s.owner c.r) (coreLocus (CoreId_key c))).checkConditions
  else s)

/-- THROTTLE_GRACE_EXPIRE (R401, R416): GRACE ms in throttle; not in host-assisted mode (R482). -/
def execThrottleGraceExpire (r : Nat) (s : State) : Host.Outcome State Fault Refusal :=
  .next (match (s.region r).throttleSince with
    | some t =>
      if s.levelOf r = 2 ∧ flag (s.rd Reg.GLB_MODE) 2 = false ∧ s.elapsed t (1000000 * s.fld Reg.THM_CFG 15 0) = true then
        ((((s.enforce r).showKt r).showCounts).announce r).checkConditions
      else s
    | none => s)

/-- THERMAL_STRETCH_ADJUST (R402). -/
def execThermalStretchAdjust (r : Nat) (s : State) : Host.Outcome State Fault Refusal :=
  let g := s.region r
  let long := fun (o : Option Long) n => match o with
    | some t => s.elapsed t n
    | none => false
  .next (if !flag (s.rd (Reg.RGNW_THM_STAT r)) 29 then s
  else if long g.hotSince 10000000 then
    (((s.modRegion r fun g => { g with kTherm := min 7 (g.kTherm + 1), hotSince := some s.time }).showKt r).announce r).checkConditions
  else if long g.coolSince 100000000 then
    let s := s.modRegion r fun g => { g with kTherm := g.kTherm - 1, coolSince := some s.time }
    let s := if g.kTherm ≤ 1 then (s.setFld (Reg.RGNW_THM_STAT r) 29 29 0).thermUpdate r else s
    (((s.showKt r).showCounts).announce r).checkConditions
  else s)

/-- CONVERTER_OVERTEMP (R406): above 125.0 °C for 1 ms, the converter is switched off. -/
def execConverterOvertemp (i : Nat) (s : State) : Host.Outcome State Fault Refusal :=
  .next (match tabFind s.thm.hotConverter i with
    | some t => if s.elapsed t 1000000 then (s.converterOff i).checkConditions else s
    | none => s)

/-! ### Coolant (R407 to R412) -/

def coolIdx (sn : CoolantSensor) : Nat := match sn with
  | .inlet => 0
  | .outlet => 1
  | .flow => 2

def coolReg (sn : CoolantSensor) : Nat := match sn with
  | .inlet => Reg.THM_COOL_IN
  | .outlet => Reg.THM_COOL_OUT
  | .flow => Reg.THM_FLOW

/-- A failed poll; the tenth in a row makes the sensor invalid. -/
def State.pollFailed (s : State) (sn : CoolantSensor) : State :=
  let i := coolIdx sn
  let n := tabGet 0 s.thm.failedPolls i + 1
  let s := { s with thm := { s.thm with failedPolls := tabAdd s.thm.failedPolls i n } }
  if n = 10 then
    let s := { s with thm := { s.thm with hist := [], pollsLow := if i = 2 then 0 else s.thm.pollsLow, pollsOk := if i = 2 then 0 else s.thm.pollsOk } }
    ((s.setFld (coolReg sn) 31 31 0).bump Reg.THM_COOL_EVT 7 0).deferred 18 none (locus 14 2 0)
  else s

/-- An event of Table 15-4, by row from 0 (assumption 24). -/
def State.coolEvent (s : State) (row : Nat) (cleared : Bool) : State :=
  s.logEvent 12 (row + (if cleared then 4 else 0)) (leBytes 2 (s.fld Reg.THM_FLOW 15 0))

/-- One condition of Table 15-4: `key` names it (0 inlet, 1 flow, 2 flow for the load, 3 heat), `since` when it began, `need` how long it
must last; raised at most once per second while it lasts, and logged when it clears. -/
def State.coolCond (s : State) (key row need : Nat) (since : Option Long) (raise_ : State → State) : State :=
  let on := match since with
    | some t => s.elapsed t need
    | none => false
  let was := s.thm.rowsOn.contains key
  if on then
    if rateOk s.thm.lastCoolLog key 1000000000 s.now || !was then
      let s := { s with thm := { s.thm with rowsOn := if was then s.thm.rowsOn else s.thm.rowsOn ++ [key],
                                            lastCoolLog := tabAdd s.thm.lastCoolLog key s.time } }
      raise_ (s.coolEvent row false)
    else s
  else if was && since.isNone then
    ({ s with thm := { s.thm with rowsOn := s.thm.rowsOn.filter fun x => decide (x ≠ key) } }).coolEvent row true
  else s

def State.keepSince (s : State) (on : Bool) (o : Option Long) : Option Long := if on then some (o.getD s.time) else none

/-- Sums over the last second of valid flow polls: count, flow, difference of temperature, power. -/
def histSums (h : List (Nat × Int × Nat)) : Nat × Nat × Int × Nat :=
  (h.length, (h.map (·.1)).foldl (· + ·) 0, (h.map (·.2.1)).foldl (· + ·) 0, (h.map (·.2.2)).foldl (· + ·) 0)

/-- Flow below 1.5 L/min per kW over the second. -/
def flowShort (h : List (Nat × Int × Nat)) : Bool :=
  let (n, f, _, p) := histSums h
  decide (n = 100) && decide (1000 * f < 150 * p)

/-- |Q · 69.5 · ΔT − P| above 0.2 P + 1,000 W over the second, in units of 10⁻⁵ n⁻² W. -/
def heatBad (h : List (Nat × Int × Nat)) : Bool :=
  let (n, f, d, p) := histSums h
  let lhs := 695 * (f : Int) * d - 100000 * (n : Int) * p
  decide (n = 100) && decide (20000 * (n : Int) * p + 100000000 * (n : Int) * n < (lhs.natAbs : Int))

/-- The flow clamp begins or ends (R411, R412). -/
def State.flowClamp (s : State) : State :=
  let on := flag (s.rd Reg.THM_STAT) 28
  if !on && decide (10 ≤ s.thm.pollsLow) && !s.boot.railsDown then
    let s := ((s.setFld Reg.THM_STAT 28 28 1).bump Reg.THM_COOL_EVT 31 24).ungovern
    ({ s with thm := { s.thm with clampSince := some s.time } }).announceAll
  else if on && decide (10 ≤ s.thm.pollsOk) then
    let s := (s.setFld Reg.THM_STAT 28 28 0).ungovern
    ({ s with thm := { s.thm with clampSince := none } }).announceAll
  else s

/-- The events of Table 15-4 after a poll. -/
def State.coolChecks (s : State) : State :=
  let valid := fun a => flag (s.rd a) 31
  let tin := signed 16 (s.fld Reg.THM_COOL_IN 15 0)
  let flow := s.fld Reg.THM_FLOW 15 0
  let inBad := valid Reg.THM_COOL_IN && (decide (tin < 2000) || decide (4000 < tin))
  let flBad := valid Reg.THM_FLOW && decide (flow < 4500)
  let s := { s with thm := { s.thm with inletBadSince := s.keepSince inBad s.thm.inletBadSince, flowLowSince := s.keepSince flBad s.thm.flowLowSince,
                                        implausSince := s.keepSince (heatBad s.thm.hist) s.thm.implausSince } }
  let s := s.coolCond 0 0 1000000000 s.thm.inletBadSince fun s => s.bump Reg.THM_COOL_EVT2 7 0
  let s := s.coolCond 1 0 1000000000 s.thm.flowLowSince fun s => s.bump Reg.THM_COOL_EVT 23 16
  let s := s.coolCond 2 1 0 (if flowShort s.thm.hist then some s.time else none) fun s => s.bump Reg.THM_COOL_EVT 23 16
  let s := s.coolCond 3 2 10000000000 s.thm.implausSince fun s => (s.bump Reg.THM_COOL_EVT 15 8).deferred 18 none (locus 14 0 0)
  { s with thm := { s.thm with condLost := s.thm.rowsOn.filter fun k => decide (k < 2) } }

/-- A successful poll. -/
def State.pollOk (s : State) (sn : CoolantSensor) (v : Nat) : State :=
  let s := { s with thm := { s.thm with failedPolls := tabSet 0 s.thm.failedPolls (coolIdx sn) 0 } }
  let s := (s.setFld (coolReg sn) 31 31 1).setFld (coolReg sn) 15 0 v
  match sn with
  | .flow =>
    let low := decide (v < 900)
    let dt := signed 16 (s.fld Reg.THM_COOL_OUT 15 0) - signed 16 (s.fld Reg.THM_COOL_IN 15 0)
    let hist := if flag (s.rd Reg.THM_COOL_IN) 31 && flag (s.rd Reg.THM_COOL_OUT) 31 then ((v, dt, s.fld Reg.PWR_STAT 15 0) :: s.thm.hist).take 100 else []
    let s := { s with thm := { s.thm with pollsLow := if low then s.thm.pollsLow + 1 else 0, pollsOk := if low then 0 else s.thm.pollsOk + 1, hist := hist } }
    s.flowClamp
  | _ => s

/-- COOLANT_POLL (R408 to R411): `raw` none is a poll not acknowledged; 0x8000 and 0xFFFF are "no reading". -/
def execCoolantPoll (sn : CoolantSensor) (raw : Option (BitVec 16)) (s : State) : Host.Outcome State Fault Refusal :=
  let none_ : BitVec 16 := if sn = .flow then 0xFFFF else 0x8000
  .next (if !s.boot.alwaysOn then s
  else match raw with
    | none => s.pollFailed sn
    | some v => if v = none_ then s.pollFailed sn else ((s.pollOk sn v.toNat).coolChecks).checkConditions)

/-- FLOW_CLAMP_TIMEOUT (R412): the clamp has lasted 20 s. -/
def execFlowClampTimeout (s : State) : Host.Outcome State Fault Refusal :=
  .next (match s.thm.clampSince with
    | some t => if flag (s.rd Reg.THM_STAT) 28 && flag (s.rd Reg.THM_FLOW) 31 && s.elapsed t 20000000000 then (s.shutdown 2).checkConditions else s
    | none => s)

/-- COOLANT_SENSOR_READDRESS (R409): SETDASA again, once per second, to a sensor that ten polls in a row failed to read. -/
def execCoolantSensorReaddress (sn : CoolantSensor) (s : State) : Host.Outcome State Fault Refusal :=
  let i := coolIdx sn
  .next (if s.boot.alwaysOn && decide (10 ≤ tabGet 0 s.thm.failedPolls i) && rateOk s.thm.readdressed i 1000000000 s.now then
    { s with thm := { s.thm with readdressed := tabAdd s.thm.readdressed i s.time } }
  else s)

/-! ### The governor (R413 to R416) -/

/-- RAMP, W/s divided by 100: 0 acts as 1, above 30 as 30. -/
def State.ramp (s : State) : Nat := max 1 (min 30 (s.fld Reg.THM_CFG 23 16))

/-- GOVERNOR_LIMIT_UPDATE (R413): U and F from P_m, in 0.1 W. A mean below the floor is a fall that filler has not covered: code 13, once a second. -/
def execGovernorLimitUpdate (meanWatts : Nat) (s : State) : Host.Outcome State Fault Refusal :=
  .next (
    let p := 10 * meanWatts
    let short := s.thm.governed && decide (p < s.thm.floor) && (match s.thm.lastFall with
      | some t => s.elapsed t 1000000000
      | none => true)
    let s := if short then
        ({ s with thm := { s.thm with lastFall := some s.time } }).logEvent 13 (ceilDiv (s.thm.floor - p) 10) []
      else s
    let s := { s with thm := { s.thm with ceiling := p + s.ramp, floor := p - s.ramp, governed := true } }
    s.setFld Reg.THM_GOV 15 0 (s.thm.ceiling / 10))

/-- Does the demand of R414 reach region r? -/
def State.demandOn (s : State) (r : Nat) : Bool :=
  let g := s.region r
  decide (g.pstate ≠ 0) && !g.poweringDown && decide (s.levelOf r < 2) && decide (g.capTherm = 0)

/-- Filler wakes the cores of a region at PSTATE 1 where its demand needs them: which, the spec leaves to the governor. -/
def State.demandWake (s : State) : State :=
  let s' := (tabKeys s.regions).foldl (fun t r =>
    if s.demandOn r && decide ((s.region r).pstate = 1) && (s.region r).wake.isNone && Config.choice (s.fresh + r) then
      t.modRegion r fun g => { g with wake := some (setField (0 : BitVec 18) 16 0 (2 ^ 17 - 1 - (field (s.rd (Reg.RGNW_CORE_FAIL r)) 16 0)), 0, s.time, none) }
    else t) s
  { s' with fresh := s.fresh + 896 }

/-- Regions of no partition return to PSTATE 1 once the demand has been 0 for 1 ms (R414). -/
def State.demandRest (s : State) : State :=
  match s.thm.demandLast with
  | none => s
  | some t =>
    if !s.elapsed t 1000000 then s
    else
      let s' := (tabKeys s.regions).foldl (fun t r =>
        let g := s.region r
        if decide (g.pstate = 2) && g.part.isNone && g.wake.isNone then
          (t.mapCores r fun _ c => c.switchedOff).modRegion r fun g => { g with pstate := 1 }
        else t) s
      { s' with thm := { s'.thm with demandLast := none } }

/-- GOVERNOR_HOLD_ADJUST (R413, R414): every 10 µs, with the 1 µs input power P. -/
def execGovernorHoldAdjust (watts : Nat) (s : State) : Host.Outcome State Fault Refusal :=
  .next (
    let s := s.setFld Reg.PWR_STAT 15 0 (min watts 65535)
    let g := s.fld Reg.THM_GOV 31 24
    let g' := if s.thm.governed && decide (s.thm.ceiling < 10 * watts) then min 255 (g + 8) else g - 1
    let down := s.thm.governed && decide (10 * watts < s.thm.floor)
    let s := s.setFld Reg.THM_GOV 31 24 g'
    let s := (s.setFld Reg.THM_STAT 27 27 (if 0 < g' then 1 else 0)).setFld Reg.THM_STAT 26 26 (if down then 1 else 0)
    let s := if g' ≠ g then s.announceAll else s
    let s := if down then ({ s with thm := { s.thm with demandLast := some s.time } }).demandWake else s.demandRest
    s.checkConditions)

/-- THM_CFG (R416). -/
def execThmCfgWrite (v : Word) (s : State) : Host.Outcome State Fault Refusal :=
  .next (s.writeRW Reg.THM_CFG 0x00FFFFFF 0 v)

end Sys2Proof.Machine
end

