-- ==== Sys2Proof/Machine/Bringup.lean ====
section
/-! DEFINITION. Starts and bring-up (chapter 14): the end of the hold-up and the cold start, the twelve stages and their records, restarts, the
clock references and a node's decoupling in service. -/

namespace Sys2Proof.Machine

/-! ### Stage records (R390, R391) -/

/-- Set the state of record n: STAGE and STATUS, nothing else in it. -/
def State.blankRecord (s : State) (n status : Nat) : State :=
  (((s.wr (Reg.STG_REC_A n) (BitVec.ofNat 32 (n * 2 ^ 28 + status * 2 ^ 24))).wr (Reg.STG_REC_B n) 0).wr (Reg.STG_REC_C n) 0).wr (Reg.STG_REC_D n) 0

/-- Stage n begins: STATUS 1, START, and CUR. -/
def State.beginStage (s : State) (n : Nat) : State :=
  let s := (s.blankRecord n 1).wr (Reg.STG_REC_C n) (BitVec.ofNat 32 (s.now / 1000))
  let s := s.setFld Reg.STG_STAT 27 24 n
  { s with boot := { s.boot with stage := some n, stageStart := tabAdd s.boot.stageStart n s.time } }

/-- Record a locus of stage n: the first locus, NLOCI, and the log of up to 1,024 entries. -/
def State.addLocus (s : State) (n : Nat) (w : Word) : State :=
  let s := if s.fld (Reg.STG_REC_A n) 15 0 = 0 then s.wr (Reg.STG_REC_D n) w else s
  let s := s.bumpSat (Reg.STG_REC_A n) 15 0
  if s.boot.loci.length < 1024 then { s with boot := { s.boot with loci := s.boot.loci ++ [(n, w)] } } else s

def State.addLoci (s : State) (n : Nat) (ws : List Word) : State := ws.foldl (fun (s : State) w => s.addLocus n w) s

/-- Stage n ends: passed, or passed with loss when it recorded a locus. -/
def State.endStage (s : State) (n : Nat) : State := s.closeRecord n (if s.fld (Reg.STG_REC_A n) 15 0 = 0 then 2 else 3)

/-- Stage n ends with these loci, and the next one begins. -/
def State.passStage (s : State) (n : Nat) (ws : List Word) : State := ((s.addLoci n ws).endStage n).beginStage (n + 1)

/-- Bring-up halts in stage n (R387): STATUS 5, HALTED, every stack rail down, ALIVE_OUT low. -/
def State.haltStage (s : State) (n : Nat) (ws : List Word) : State :=
  let s := ((s.addLoci n ws).closeRecord n 5).setFld Reg.STG_STAT 30 30 1
  let s := s.powerDownAll
  { s with boot := { s.boot with stage := none, haltedIn := some n, aliveOut := false } }

def State.inStage (s : State) (n : Nat) : Bool := decide (s.boot.stage = some n)

/-! ### Power lost and the cold start (R352, R370, R379, Table 14-4) -/

/-- The module without power: what flash, fuses and host memory hold, and the contacts, remain. Log entries that had not reached flash
are lost. -/
def State.unpowered (s : State) : State :=
  { State.reset with
    pending := s.pending, fresh := s.fresh, hostMem := s.hostMem
    pwr := { Power.zero with present := s.pwr.present, volts := s.pwr.volts, valid := s.pwr.valid }
    mgt := { s.mgt with entries := s.mgt.entries.filter (fun e => decide (e.1 ≤ s.mgt.flashed)), flashed := s.mgt.nextNumber, lostPending := 0,
                        flashTemp := none, gateWait := none, cmds := [] }
    sec := { s.sec with debugMask := 0, testMode := false, error := false, approved := none, queue := [], sessions := [], answer := .silent } }

/-- HOLDUP_END (R352 step 4). -/
def execHoldupEnd (s : State) : Host.Outcome State Fault Refusal :=
  .next (if s.boot.alwaysOn && s.pwr.holdUp then
    let u := s.unpowered
    { u with pwr := { u.pwr with valid := [false, false] } }
  else s)

/-- COLD_START (R379): with the always-on group off, a feed reaches 40.0 V: the counter starts at 0 and ST0 begins. -/
def execColdStart (s : State) : Host.Outcome State Fault Refusal :=
  .next (if s.boot.alwaysOn then s
  else
    let u := s.unpowered
    let u := { u with boot := { u.boot with alwaysOn := true }, pwr := { u.pwr with valid := [false, false] },
                      mgt := { u.mgt with coldStarts := u.mgt.coldStarts + 1 } }
    let u := (List.range 12).foldl (fun u n => u.blankRecord n 0) u
    let u := (u.setFld Reg.STG_STAT 23 16 1).wr64 Reg.MGT_LOG_LO Reg.MGT_LOG_HI (u.mgt.nextNumber + 1)
    (u.showFeeds).beginStage 0)

/-! ### ST0 to ST2 -/

/-- ST0_FEEDS_PRESENT: a feed is valid. -/
def execSt0FeedsPresent (s : State) : Host.Outcome State Fault Refusal :=
  .next (if s.inStage 0 && (s.pwr.valid.getD 0 false || s.pwr.valid.getD 1 false) then s.passStage 0 [] else s)

/-- Show the references: REF0 when it runs, REF1 otherwise (R375). -/
def State.showRefs (s : State) (ref : Nat) : State :=
  let ok := fun i => if s.boot.referenceOk.getD i false then 1 else 0
  ((s.setFld Reg.CLK_STAT 31 30 ref).setFld Reg.CLK_STAT 28 28 (ok 0)).setFld Reg.CLK_STAT 27 27 (ok 1)

/-- Boot bank b (R437): MGT_STAT, MGT_FW and MGT_SVN. -/
def State.bootBank (s : State) (b : Nat) (h : Bytes) : State :=
  let s := { s with mgt := { s.mgt with booted := b } }
  let s := ((s.setFld Reg.MGT_STAT 31 31 b).setFld Reg.MGT_STAT 30 30 s.mgt.preferred).wr Reg.MGT_FW (BitVec.ofNat 32 (leAt h 8 4))
  ((s.setFld Reg.MGT_SVN 31 24 (imageSvn h).1).setFld Reg.MGT_SVN 23 16 (imageSvn h).2).showCounters

/-- Store what the two banks read as, so that later commands find the images. -/
def keepBanks (a b : BankRead) : List Bank :=
  [a, b].map fun x => match x with
    | .image h d => { header := h, payload := d }
    | _ => { header := [], payload := [] }

/-- ST1_MANAGEMENT_BOOT (R375, R436, R437, R451): references, self-tests, the preferred bank and otherwise the other one; ALIVE_OUT may
toggle from its end. -/
def execSt1ManagementBoot (ref0 ref1 selfTest : Bool) (bankA bankB : BankRead) (portsUp : BitVec 2) (s : State) : Host.Outcome State Fault Refusal :=
  .next (if !(s.inStage 1) then s
  else
    let s := { s with boot := { s.boot with referenceOk := [ref0, ref1] } }
    let s := s.showRefs (if ref0 then 1 else if ref1 then 2 else 0)
    let s := s.addLoci 1 ((if ref0 then [] else [locus 11 1 0]) ++ (if ref1 then [] else [locus 11 1 1]))
    if !selfTest then (s.haltStage 1 [locus 9 4 0]).secFails
    else
      let s := { s with sec := { s.sec with error := false, sessions := [] } }
      let rds := [s.bankRead 0 bankA, s.bankRead 1 bankB]
      let rd := fun (b : Nat) => rds.getD b .empty
      let pref : Nat := s.mgt.preferred % 2
      let cause : Nat → Nat := fun b => s.bankCause (rd b)
      let other : Nat := 1 - pref
      let banks := keepBanks (rd 0) (rd 1)
      let s := { s with mgt := { s.mgt with banks := banks } }
      if cause pref ≠ 0 ∧ cause other ≠ 0 then s.showSec.haltStage 1 [locus 9 (cause pref) pref, locus 9 (cause other) other]
      else
        let b : Nat := if cause pref = 0 then pref else other
        let s := (if b = pref then s else s.addLocus 1 (locus 9 (cause pref) pref)).bootBank b ((banks.map (·.header)).getD b [])
        let s := (List.range 2).foldl (fun (s : State) i =>
          if portsUp.getLsbD i then s.setFld (Reg.HIF_PORT i) 31 31 1 else if s.portUp i then s else s.addLocus 1 (locus 8 1 i)) s
        let s := { s with boot := { s.boot with aliveOn := true } }
        s.showSec.passStage 1 [])

/-- Failed physical cores of a region, bit k. -/
def State.failCore (s : State) (r k : Nat) : State :=
  let s := (s.setFld (Reg.RGNW_CORE_FAIL r) k k 1).modRegion r fun g => { g with failed := setFlag g.failed k true }
  s.modCoreAt (17 * r + k) fun c => { c with phase := .failed, logical := none }

/-- A region dead from this start on: its hub is off and nothing in it has power (R18). -/
def State.deadAtStart (s : State) (r cause : Nat) : State :=
  (s.cutPower r).modRegion r fun g => { g with cause := cause, hubOn := false, seq := { g.seq with state := 0 } }

/-- Spare rows a slice has used: at manufacture, and by repairs of the service record (R248, R249). -/
def State.rowsOf (s : State) (f : Fuses) (r : Nat) : Tab Nat :=
  (List.range 17).foldl (fun t k =>
    let n := tabGet 0 f.rowsUsed (17 * r + k) + (s.mgt.repairs.filter fun x => decide (x.1 = 17 * r + k)).length
    if n = 0 then t else tabAdd t k n) []

/-- Repaired rows of the service record, as the keys of `Region.remapped`. -/
def State.remapOf (s : State) (r : Nat) : List Nat :=
  (s.mgt.repairs.filter fun x => decide (x.1 / 17 = r)).map fun x => 65536 * (x.1 % 17) + x.2

/-- The regions dead before ST5, with their causes (R30): fuses, FUSE kind 4, then the service record. -/
def State.knownDead (s : State) (f : Fuses) : List (Nat × Nat) :=
  (List.range 896).filterMap fun r =>
    if f.dead.contains r || s.sec.fusedDead.contains r then some (r, 1) else (tabFind s.mgt.deaths r).map fun c => (r, c)

/-- ST2_FUSE_READ (R16, R17, R30, R485). -/
def execSt2FuseRead (fuses : Option Fuses) (s : State) : Host.Outcome State Fault Refusal :=
  .next (if !(s.inStage 2) then s
  else match fuses with
    | none => s.haltStage 2 [locus 12 1 0]
    | some f =>
      let s := { s with boot := { s.boot with fuses := some f },
                        sec := { s.sec with cntM := max s.sec.cntM f.cntM, cntS := max s.sec.cntS f.cntS } }
      let s := s.wr Reg.GLB_ID (BitVec.ofNat 32 (0x10000 + f.grade % 2 * 2 ^ 10 + f.stepping % 2 * 2 ^ 8 + f.option % 2 * 2 ^ 4))
      let s := (s.wr64 Reg.GLB_SERIAL_LO Reg.GLB_SERIAL_HI f.serial.toNat).showCounters.showSec
      let s := (List.range 896).foldl (fun (s : State) r =>
        let rows := s.rowsOf f r
        let re := s.remapOf r
        if rows.isEmpty && re.isEmpty then s else s.modRegion r fun g => { g with rowsUsed := rows, remapped := re }) s
      let known := s.knownDead f
      let s := known.foldl (fun (s : State) e => s.deadAtStart e.1 e.2) s
      s.passStage 2 (known.map fun (e : Nat × Nat) => locus 3 e.2 (regionPlace e.1)))

/-! ### ST3 and ST4 -/

/-- Valid coolant flow of at least 9 L/min (R382). -/
def State.flowOk (s : State) : Bool := flag (s.rd Reg.THM_FLOW) 31 && decide (900 ≤ s.fld Reg.THM_FLOW 15 0)

/-- ST3_STACK_RAIL_RAMP (R353, R382): once the flow is there, converters are tested and rails ramp. -/
def execSt3StackRailRamp (failedConverters : List Nat) (s : State) : Host.Outcome State Fault Refusal :=
  .next (if !(s.inStage 3) || !s.flowOk then s
  else
    let ok := (List.range 168).filter fun i => !failedConverters.contains i
    let s := { s with pwr := { s.pwr with converters := BitVec.ofNat 168 (maskOf ok) }, boot := { s.boot with railsDown := false } }
    let s := (List.range 56).foldl (fun (s : State) f => s.showField f) s
    let convs := (List.range 168).filter fun i => failedConverters.contains i
    let fields := (List.range 56).filter fun f => decide (s.convertersOf f = 0)
    s.passStage 3 ((convs.map fun i => locus 1 1 i) ++ fields.map fun f => locus 2 1 f))

/-- COOLANT_WAIT_TIMEOUT (R382): 20 s without the flow. -/
def execCoolantWaitTimeout (s : State) : Host.Outcome State Fault Refusal :=
  .next (if s.inStage 3 && !s.flowOk && s.elapsed (tabGet 0 s.boot.stageStart 3) 20000000000 then
    s.haltStage 3 [locus 14 (if flag (s.rd Reg.THM_FLOW) 31 then 1 else 2) 0]
  else s)

/-- ST4_MESH_LOCK (R373): the mesh has locked, without the nodes named. -/
def execSt4MeshLock (decoupled : List Nat) (s : State) : Host.Outcome State Fault Refusal :=
  .next (if !(s.inStage 4) then s
  else
    let nodes := (List.range 896).filter fun r => decide (0 < s.convertersOf (fieldOf r))
    let out := nodes.filter fun r => decoupled.contains r
    let s := nodes.foldl (fun (s : State) r => s.setFld (Reg.RGNW_CLK r) 31 30 (if out.contains r then 2 else 1)) s
    let s := (s.setFld Reg.CLK_STAT 29 29 1).setFld Reg.CLK_STAT 23 16 (min out.length 255)
    let s := { s with boot := { s.boot with decoupled := out } }
    s.passStage 4 (out.map fun r => locus 10 1 (regionPlace r)))

/-- MESH_LOCK_TIMEOUT (R373): not locked 3 ms after ST4 began. -/
def execMeshLockTimeout (s : State) : Host.Outcome State Fault Refusal :=
  .next (if s.inStage 4 && s.elapsed (tabGet 0 s.boot.stageStart 4) 3000000 then s.haltStage 4 [] else s)

/-! ### ST5 to ST7 -/

/-- The place a core's locus names, with its cause. -/
def coreLocusC (r k cause : Nat) : Word := locus 4 cause (k * 2 ^ 10 + regionPlace r)

/-- Which logical core each physical core serves: itself, or the spare for the one that failed (R17). -/
def State.mapSpare (s : State) (r : Nat) : State :=
  let bad := bitsOf (s.region r).failed
  let spare := match bad with
    | [k] => if k < 16 then some k else none
    | _ => none
  let s := s.modRegion r fun g => { g with spareFor := spare }
  s.mapCores r fun k c => { c with logical := if bad.contains k then none else if k = 16 then spare else some k }

/-- One region in ST5 (R383): the causes of Table 01-3 in turn, failed cores, failed phases. A region that passes is left at PSTATE 1 with its
hub on and its service program running. -/
def State.selfTestRegion (s : State) (f : Fuses) (t : SelfTest) : State :=
  let r := t.r
  let fused := (f.badCores.filter fun c => decide (c.r = r)).map (·.k)
  let bad := (List.range 17).filter fun k => fused.contains k || t.failedCores.contains k
  let s := bad.foldl (fun (s : State) k => (s.failCore r k).addLocus 5 (coreLocusC r k (if fused.contains k then 1 else 2))) s
  let phases := fun (n : Nat) => (bitsOf (BitVec.ofNat 8 n)).length
  let cause := if t.cause ≠ 0 then t.cause else if 2 ≤ bad.length then 4
    else if 2 ≤ phases t.coreFail.toNat ∨ 2 ≤ phases t.memFail.toNat then 5 else 0
  if cause ≠ 0 then (s.deadAtStart r cause).addLocus 5 (locus 3 cause (regionPlace r))
  else
    let s := (s.setFld (Reg.RGNW_PWR_PHASE r) 15 8 t.coreFail.toNat).setFld (Reg.RGNW_PWR_PHASE r) 19 16 t.memFail.toNat
    let s := s.modRegion r fun g => { g with pstate := 1, hubOn := true, seq := { g.seq with state := 1 } }
    ((s.mapSpare r).showLimit r).showRail r

/-- ST5_REGION_SELF_TEST (R383): regions dead already and fused columns are skipped; fields without a converter and decoupled nodes leave
regions dead with cause 2. A region the operand does not name passes. -/
def execSt5RegionSelfTest (results : List SelfTest) (skipFailed : List Nat) (s : State) : Host.Outcome State Fault Refusal :=
  match s.boot.fuses with
  | none => .next s
  | some f =>
    .next (if !(s.inStage 5) then s
    else
      let s := (List.range 896).foldl (fun (s : State) r =>
        if s.dead r || f.removed.contains (r % 32) then s
        else if s.convertersOf (fieldOf r) = 0 || s.boot.decoupled.contains r then (s.deadAtStart r 2).addLocus 5 (locus 3 2 (regionPlace r))
        else s.selfTestRegion f ((results.find? fun t => decide (t.r = r)).getD { r := r, cause := 0, failedCores := [], coreFail := 0, memFail := 0 })) s
      let s := { s with boot := { s.boot with skipFailed := skipFailed } }
      s.passStage 5 [])

/-- Column loci of a last (Table 14-7): two or more dead regions, failed skip links, or no grid. -/
def State.columnLoci (s : State) : List Word :=
  ((List.range 32).filterMap fun px =>
    if (s.last.col px).removed = 2 then some (locus 5 (if 2 ≤ (deadRows (fun r => s.dead r) px).length then 1 else 2) px) else none)
    ++ if s.last.noGrid then [locus 5 3 0] else []

/-- ST6_BUILD_LAST (R16, R23): the provisional last; STATUS 4 when there is no grid. -/
def execSt6BuildLast (s : State) : Host.Outcome State Fault Refusal :=
  .next (if !(s.inStage 6) then s
  else
    let s := { s with last := s.computeLast }
    let s := s.addLoci 6 s.columnLoci
    (if s.last.noGrid then s.closeRecord 6 4 else s.endStage 6).beginStage 7)

/-- One result of the memory test (R248, R384). -/
def State.memTest (s : State) (t : MemTest) : State :=
  match t with
  | .regionDead r => if (s.region r).pstate = 0 then s else (s.deadAtStart r 3).addLocus 7 (locus 3 3 (regionPlace r))
  | .repairSliceBad r =>
    if (s.region r).pstate = 0 || flag (s.region r).failed 16 then s
    else
      let s := (s.failCore r 16).addLocus 7 (coreLocusC r 16 3)
      if 2 ≤ (bitsOf (s.region r).failed).length then (s.deadAtStart r 4).addLocus 7 (locus 3 4 (regionPlace r)) else s
  | .rowsRepaired r k n => s.modRegion r fun g => { g with rowsUsed := tabSet 0 g.rowsUsed k (min 128 (tabGet 0 g.rowsUsed k + n)) }

/-- Every weight slice reads zero. -/
def State.clearSlices (s : State) : State :=
  { s with cores := tabMap Core.zero (fun (c : Core) => { c with slice := [] }) s.cores }

/-- ST7_MEMORY_TEST (R16, R384): every row is zero, the last is final, and regions outside the grid lose their power. -/
def execSt7MemoryTest (results : List MemTest) (s : State) : Host.Outcome State Fault Refusal :=
  .next (if !(s.inStage 7) then s
  else
    let s := results.foldl State.memTest s
    let s := s.clearSlices
    let s := { s with last := s.computeLast, pendLast := none }
    let s := (s.setFld Reg.GLB_LAST_STAT 0 0 1).setFld Reg.GLB_LAST_STAT 31 16 1
    let s := s.publishLast
    let s := (List.range 896).foldl (fun (s : State) r =>
      if (s.region r).pstate = 0 then s
      else
        let s := s.showSpares r
        if s.last.inGrid r || s.last.noGrid && decide ((s.last.col (r % 32)).removed = 0) then s
        else (s.cutPower r).modRegion r fun g => { g with hubOn := false }) s
    s.passStage 7 [])

/-! ### ST8 to ST11 -/

/-- The fields along which the welt controller of rim stack i lies: its quarter of its side (R14, R33). The spec does not say which one
of them feeds it (assumption 30). -/
def stackFields (i : Nat) : List Nat :=
  let part := fun (n q : Nat) => (List.range n).filter fun k => decide (4 * k / n = q)
  if i < 4 then part 8 i
  else if i < 8 then (part 7 (i - 4)).map fun k => 8 * k + 7
  else if i < 12 then (part 8 (11 - i)).map fun k => 48 + k
  else (part 7 (15 - i)).map fun k => 8 * k

/-- One stack's training (R241, R389): a locus for each channel that failed, and one for a stack with no live channel; the channels of a
stack without its rail are not trained. -/
def State.trainStack (s : State) (i : Nat) (m : BitVec 32) : State :=
  let n := (bitsOf m).length
  let s := s.wr (Reg.RIM_STACK i) (BitVec.ofNat 32 ((if n = 0 then 3 else 1) * 2 ^ 30 + n * 2 ^ 24 + 3 * n * 2 ^ 17))
  let s := s.wr (Reg.RIM_CHAN i) m
  let fed := (stackFields i).all fun f => decide (0 < s.convertersOf f)
  let s := if n = 0 ∧ fed = false then s else s.addLoci 8 (((List.range 32).filter fun c => !m.getLsbD c).map fun c => locus 6 1 (16 * c + i))
  if n = 0 then s.addLocus 8 (locus 6 2 (512 + i)) else s

/-- ST8_RIM_TRAINING (R241, R389): the live channels of each stack; rim content is not kept. -/
def execSt8RimTraining (live : List (BitVec 32)) (s : State) : Host.Outcome State Fault Refusal :=
  .next (if !(s.inStage 8) then s
  else
    let s := (List.range 16).foldl (fun (s : State) i => s.trainStack i (live.getD i 0)) s
    let total := ((List.range 16).map fun i => 3 * (bitsOf (live.getD i 0)).length).foldl (· + ·) 0
    let s := s.wr Reg.RIM_TOTAL (BitVec.ofNat 32 total)
    let s := { s with rim := { s.rim with mem := [], clearing := [], sharedExts := [] } }
    s.passStage 8 [])

/-- Ports in use of the hub at logical (x, y): its four ring ports, as the last closes the rings, and its stubs. -/
def State.portsInUse (s : State) (x y : Nat) : List (Nat × Nat) := (s.mapPorts x y).map fun q => s.mapSource x y q

/-- ST9_MESH_ROUTES (R220, R232, R385): identifiers, ports in use up, failed links, and telemetry at zero. -/
def execSt9MeshRoutes (failedLinks : List (Nat × Nat)) (s : State) : Host.Outcome State Fault Refusal :=
  .next (if !(s.inStage 9) then s
  else
    let s := s.assignEndpoints
    let s := s.grid.foldl (fun (s : State) (a : Nat × Nat) => (s.portsInUse a.1 a.2).foldl (fun (s : State) (e : Nat × Nat) =>
      (s.setFld (Reg.RGNW_HUB_LINK e.1) (2 * e.2 + 1) (2 * e.2) 1).wr (Reg.RGNW_HUB_FLITS e.1 e.2) 0 |>.wr (Reg.RGNW_HUB_HOLD e.1 e.2) 0) s) s
    let s := { s with fab := { s.fab with replays := [], failedLinks := [], prevFlits := [], prevHold := [] } }
    let bad : List (Nat × Nat) := failedLinks.filter fun e => decide (s.linkState e.1 e.2 = 1)
    let s := bad.foldl (fun (s : State) e =>
      let s := (s.setFld (Reg.RGNW_HUB_LINK e.1) (2 * e.2 + 1) (2 * e.2) 2).bump Reg.FAB_STAT 15 8
      let s := { s with fab := { s.fab with failedLinks := s.fab.failedLinks ++ [10 * e.1 + e.2] } }
      let s := match s.linkPeer e.1 e.2 with
        | some (t, o) =>
          let s := s.setFld (Reg.RGNW_HUB_LINK t) (2 * o + 1) (2 * o) 2
          { s with fab := { s.fab with failedLinks := s.fab.failedLinks ++ [10 * t + o] } }
        | none => s
      s.addLocus 9 (locus 13 1 (e.2 * 2 ^ 10 + regionPlace e.1))) s
    let s := bad.foldl (fun (s : State) e => s.hubDies e.1) s
    s.passStage 9 [])

/-- ST10_EDGE_TRAINING (R388): training is launched on all 32 ports and ST11 begins; the record waits for ST10_RECORD. -/
def execSt10EdgeTraining (s : State) : Host.Outcome State Fault Refusal :=
  .next (if !(s.inStage 10) then s
  else
    let s := (List.range 32).foldl State.trainPort s
    ({ s with boot := { s.boot with st10Open := true, launched := some s.time } }).beginStage 11)

/-- The loci of one port for ST10's record. -/
def State.portLoci (s : State) (k : Nat) : List Word :=
  let st := s.fld (Reg.EDG_PORT k) 31 29
  if st = 1 then [locus 7 3 (256 + 8 * k)]
  else if st = 2 then ((List.range 8).filter fun l => !flag (s.rd (Reg.EDG_PORT k)) (17 + l)).map fun l => locus 7 1 (8 * k + l)
  else if st = 3 then [locus 7 2 (256 + 8 * k)] else []

/-- ST10_RECORD (R388): every port has settled, or 500 ms have passed since ST10 began. -/
def execSt10Record (s : State) : Host.Outcome State Fault Refusal :=
  .next (
    let settled := (List.range 32).all fun k => decide (s.fld (Reg.EDG_PORT k) 31 29 ≠ 1)
    if s.boot.st10Open && (settled || s.elapsed (tabGet 0 s.boot.stageStart 10) 500000000) then
      let s := (s.addLoci 10 ((List.range 32).flatMap s.portLoci)).endStage 10
      let s := { s with boot := { s.boot with st10Open := false } }
      if flag (s.rd Reg.STG_STAT) 31 then s.signal 128 else s
    else s)

/-- ST11_READINESS (R382): READY, and the stage-report interrupt. -/
def execSt11Readiness (s : State) : Host.Outcome State Fault Refusal :=
  .next (if !(s.inStage 11) then s
  else
    let s := (s.endStage 11).setFld Reg.STG_STAT 31 31 1
    let s := { s with boot := { s.boot with stage := none } }
    (s.signal 128).checkConditions)

/-! ### Restarts (R379 to R381) -/

def State.rdrop (s : State) : State := s.bump Reg.STG_STAT 15 8

/-- A restart of kind k is accepted (Table 14-3): READY 0, records pending, ST0 and ST1 skipped unless the restart runs from ST1, partitions
stop with reason 2 for a host or contact restart, and sequences kept over a device-fatal fault get their records. -/
def State.acceptRestart (s : State) (k : Nat) : State :=
  let fromSt1 := decide (s.boot.haltedIn = some 1)
  let s := ((s.setFld Reg.STG_STAT 31 30 0).setFld Reg.STG_STAT 29 28 k).bump Reg.STG_STAT 23 16
  let s := (List.range 12).foldl (fun (s : State) n => s.blankRecord n (if n = 0 || decide (n = 1) && !fromSt1 then 6 else 0)) s
  let s := { s with boot := { s.boot with stage := none, st10Open := false, loci := [], haltedIn := none, restarting := some k, downDone := false },
                    sec := { s.sec with debugMask := 0, testMode := false } }
  let s := s.showSec.setFld Reg.FLT_STAT 23 16 0
  let s := s.lostRecords
  let s := if k = 2 then s.liveParts.foldl (fun (s : State) p => s.modPart p fun x => { x with stopTmo := min x.stopTmo 1000 }) s else s
  if k = 1 ∨ k = 2 then s.liveParts.foldl (fun (s : State) p => s.stopPart p 2) s else s

/-- Is a start under way? -/
def State.starting (s : State) : Bool := s.boot.stage.isSome || s.boot.restarting.isSome

/-- RESTART_BY_HOST (R381, R393): STG_CMD with OP 1. -/
def execRestartByHost (v : Word) (s : State) : Host.Outcome State Fault Refusal :=
  .next (if field v 31 28 ≠ 1 ∨ s.boot.alwaysOn = false then s
  else
    let s := s.reservedBits 0 v 0x0FFFFFFF
    if s.starting || flag (s.rd Reg.THM_STAT) 31 then s.rdrop else s.acceptRestart 1)

/-- RESTART_BY_CONTACT (R379 to R381): MOD_RESET_N has been low for 1 ms. A stage under way is abandoned. -/
def execRestartByContact (s : State) : Host.Outcome State Fault Refusal :=
  .next (if s.boot.alwaysOn = false then s
  else if flag (s.rd Reg.THM_STAT) 31 then s.rdrop
  else
    let during := s.boot.stage
    let s := (s.abandonStage).acceptRestart 2
    let s := match during with
      | some n => if 2 ≤ n then s.setFld (Reg.STG_REC_A n) 27 24 4 else s
      | none => s
    { s with boot := { s.boot with resetLow := true } })

/-- Registers that a restart keeps: HIF, CLK, MGT and SEC, and those of Table 14-4's other rows. -/
def keptReg (a : Nat) : Bool :=
  decide (0x10000 ≤ a) && decide (a < 0x20200) || decide (0x30000 ≤ a) && decide (a < 0x60000) || decide (a = Reg.FLT_STAT) || decide (a = Reg.FLT_FATAL)
    || decide (a = Reg.FLT_FATAL_LOC) || decide (a = Reg.EDG_CFG) || decide (a = Reg.SRV_STAT)
    || ((List.range 64).any fun p => decide (a = Reg.SRV_PIDLE_LO p) || decide (a = Reg.SRV_PIDLE_HI p))

/-- Everything outside the always-on group at reset (Table 14-4). -/
def State.restartReset (s : State) : State :=
  let b := s.boot
  let z : State :=
    { State.reset with
      pending := s.pending, fresh := s.fresh, hostMem := s.hostMem, time := s.time, capt := s.capt
      regs := s.regs.filter fun e => keptReg e.1
      pwr := { Power.zero with present := s.pwr.present, volts := s.pwr.volts, valid := s.pwr.valid, holdUp := s.pwr.holdUp }
      boot := { Boot.zero with alwaysOn := b.alwaysOn, stageStart := b.stageStart, restarting := b.restarting, resetLow := b.resetLow, loci := b.loci,
                               referenceOk := b.referenceOk, aliveOut := b.aliveOut, aliveOn := b.aliveOn }
      flt := { Faults.zero with lastFatal := s.flt.lastFatal, recent := s.flt.recent, lastFatalSource := s.flt.lastFatalSource }
      mgt := s.mgt, sec := s.sec
      hif := { s.hif with rings := tabMap Rings.zero (fun (x : Rings) => { x with reserved := x.taken.length, busy := [] }) s.hif.rings }
      edg := { Edge.zero with chanA := s.edg.chanA, chanB := s.edg.chanB }
      srv := { Serving.zero with accts := tabMap Acct.zero (fun (x : Acct) => { x with rowsMs := [] }) s.srv.accts, totals := s.srv.totals, idle := s.srv.idle,
                                 overhead := s.srv.overhead, measured := s.srv.measured, frozen := s.srv.frozen } }
  let z := (z.setFld Reg.SRV_STAT 14 0 0).setFld Reg.FLT_STAT 26 26 0
  let z := (z.setFld Reg.CLK_STAT 29 29 0).setFld Reg.CLK_STAT 23 16 0
  z.showFeeds

/-- The rails are down and MOD_RESET_N is high: FATAL clears, the ledgers count again, and ST2 begins, or ST1 when the restart runs from it. A
security core still in its error state halts bring-up in ST2 (R451). -/
def State.leaveRestart (s : State) : State :=
  let n := if s.fld (Reg.STG_REC_A 1) 27 24 = 0 then 1 else 2
  let s := { s with boot := { s.boot with restarting := none, downDone := false }, srv := { s.srv with frozen := false } }
  let s := (s.returnAll.setFld Reg.FLT_STAT 31 31 0).beginStage n
  if n = 2 ∧ s.sec.error then s.haltStage 2 [locus 9 4 0] else s

/-- RESTART_POWER_DOWN (R380, R451): every partition reads STATE 0. -/
def execRestartPowerDown (selfTest : Bool) (s : State) : Host.Outcome State Fault Refusal :=
  .next (if s.boot.restarting = none ∨ s.boot.downDone ∨ s.liveParts ≠ [] then s
  else
    let s := s.powerDownAll.restartReset
    let s := if s.sec.error && selfTest then { s with sec := { s.sec with error := false } }.showSec else s
    if s.boot.resetLow then { s with boot := { s.boot with downDone := true } } else s.leaveRestart)

/-- MOD_RESET_N_RELEASE (R380): the contact goes high; a restart that waits with its rails down goes on. -/
def execModResetNRelease (s : State) : Host.Outcome State Fault Refusal :=
  .next (
    let s := { s with boot := { s.boot with resetLow := false } }
    if s.boot.downDone && s.boot.restarting.isSome then s.leaveRestart else s)

/-! ### Clocks and the alive contact (R374, R375, R392, R393, R425) -/

/-- NODE_DECOUPLE (R374): the region is dead with cause 7, and its hub stops. -/
def execNodeDecouple (r : Nat) (s : State) : Host.Outcome State Fault Refusal :=
  .next (if s.fld (Reg.RGNW_CLK r) 31 30 ≠ 1 then s
  else
    let s := (s.setFld (Reg.RGNW_CLK r) 31 30 2).bumpSat Reg.CLK_STAT 23 16
    let was := (s.region r).hubOn
    let s := s.regionDies r 7 (s.owner r)
    (if was then s.hubStop r else s).checkConditions)

/-- REF_SWITCHOVER (R375): the active reference misses 4 edges. -/
def execRefSwitchover (s : State) : Host.Outcome State Fault Refusal :=
  .next (
    let ref := s.fld Reg.CLK_STAT 31 30
    if ref = 0 ∨ s.boot.alwaysOn = false then s
    else
      let s := { s with boot := { s.boot with referenceOk := setNth s.boot.referenceOk (ref - 1) false } }
      let other := 2 - ref
      let s := if s.boot.referenceOk.getD other false then (s.showRefs (other + 1)).bump Reg.CLK_STAT 15 8 else s.showRefs 0
      s.deferred 19 none (locus 11 1 (ref - 1)))

/-- REF_RETURN (R375): reference `ref` delivers edges again; a mesh running free pulls back onto it. -/
def execRefReturn (ref : Nat) (s : State) : Host.Outcome State Fault Refusal :=
  .next (if s.boot.alwaysOn = false ∨ 1 < ref then s
  else
    let s := { s with boot := { s.boot with referenceOk := setNth s.boot.referenceOk ref true } }
    s.showRefs (if s.fld Reg.CLK_STAT 31 30 = 0 then ref + 1 else s.fld Reg.CLK_STAT 31 30))

/-- CLK_TIME_LO_READ (R392). -/
def execClkTimeLoRead (port : Nat) (s : State) : Host.Outcome State Fault Refusal :=
  .next (s.capture port Reg.CLK_TIME_HI (BitVec.ofNat 32 (s.now / 2 ^ 32)))

/-- STG_LOC_DATA0 and DATA1 of the entry selected. -/
def State.locusWords (s : State) : Word × Word :=
  match s.boot.loci[s.fld Reg.STG_LOC_IDX 9 0]? with
  | some (n, w) => (BitVec.ofNat 32 (2 ^ 31 + n * 2 ^ 24), w)
  | none => (0, 0)

/-- STG_LOC_DATA0_READ (R393). -/
def execStgLocData0Read (port : Nat) (s : State) : Host.Outcome State Fault Refusal := .next (s.capture port Reg.STG_LOC_DATA1 s.locusWords.2)

/-- ALIVE_OUT_TOGGLE (R425): the level changes while ST1 has ended, FATAL is 0, bring-up is not halted and no shutdown is latched; otherwise
it is low. -/
def execAliveOutToggle (s : State) : Host.Outcome State Fault Refusal :=
  .next (
    let ok := s.boot.aliveOn && !flag (s.rd Reg.FLT_STAT) 31 && s.boot.haltedIn.isNone && !flag (s.rd Reg.THM_STAT) 31
    { s with boot := { s.boot with aliveOut := ok && !s.boot.aliveOut } })

end Sys2Proof.Machine
end

