-- ==== Sys2Proof/Machine/CoreCmds.lean ====
section
/-! DEFINITION. The core's commands: its cycle, the wait timeout, and one command for each DOT and VEC instruction. -/

namespace Sys2Proof.Machine

/-- BUNDLE_ISSUE (R106): one unstretched cycle of the core, with the bundle at its pc. -/
def execBundleIssue (c : CoreId) (s : State) : Host.Outcome State Fault Refusal := .next (s.cycle c Core.fetch)

/-- Does the core hold the bundle at its pc, and does this cycle reach wait_limit (R114, R117, R178)? -/
def State.timeoutDue (s : State) (c : CoreId) : Bool :=
  let x := s.core c
  match x.fetch with
  | none => false
  | some (ops, _) =>
    decide (x.phase = .running) && decide (x.nextIssue ≤ x.now)
      && ((heldWait x ops).isSome
        || (ops.any (fun i => decide (i.slot = 4)) && decide (32 ≤ (s.injectQueue (CoreId_key c)).length)))
      && decide ((s.corePart (CoreId_key c)).waitLimit ≤ x.hold + 1)

/-- WAIT_TIMEOUT (R117): the cycle in which a held bundle reaches the limit; in any other cycle it changes nothing. -/
def execWaitTimeout (c : CoreId) (s : State) : Host.Outcome State Fault Refusal :=
  .next (if s.timeoutDue c then s.cycle c Core.fetch else s)

/-! ### DOT -/

/-- DMM (R132 to R135), issued alone and always executed. -/
def execDmm (c : CoreId) (o : BitVec 46) (s : State) : Host.Outcome State Fault Refusal :=
  .next (s.slotCycle c 2 1 o)

/-- DMMT (R136), issued alone and always executed. -/
def execDmmt (c : CoreId) (o : BitVec 46) (s : State) : Host.Outcome State Fault Refusal :=
  .next (s.slotCycle c 2 2 o)

/-- DOUT (R137), issued alone and always executed. -/
def execDout (c : CoreId) (o : BitVec 46) (s : State) : Host.Outcome State Fault Refusal :=
  .next (s.slotCycle c 2 3 o)

/-- DADN (R139), issued alone and always executed. -/
def execDadn (c : CoreId) (o : BitVec 46) (s : State) : Host.Outcome State Fault Refusal :=
  .next (s.slotCycle c 2 4 o)

/-- DAUP (R140), issued alone and always executed. -/
def execDaup (c : CoreId) (o : BitVec 46) (s : State) : Host.Outcome State Fault Refusal :=
  .next (s.slotCycle c 2 5 o)

/-- DRSC (R138), issued alone and always executed. -/
def execDrsc (c : CoreId) (o : BitVec 46) (s : State) : Host.Outcome State Fault Refusal :=
  .next (s.slotCycle c 2 6 o)

/-! ### VEC -/

/-- VFMA (R142), issued alone and always executed. -/
def execVfma (c : CoreId) (o : BitVec 46) (s : State) : Host.Outcome State Fault Refusal :=
  .next (s.slotCycle c 3 1 o)

/-- VADD (R142), issued alone and always executed. -/
def execVadd (c : CoreId) (o : BitVec 46) (s : State) : Host.Outcome State Fault Refusal :=
  .next (s.slotCycle c 3 2 o)

/-- VMUL (R142), issued alone and always executed. -/
def execVmul (c : CoreId) (o : BitVec 46) (s : State) : Host.Outcome State Fault Refusal :=
  .next (s.slotCycle c 3 3 o)

/-- VMIN (R142), issued alone and always executed. -/
def execVmin (c : CoreId) (o : BitVec 46) (s : State) : Host.Outcome State Fault Refusal :=
  .next (s.slotCycle c 3 4 o)

/-- VMAX (R142), issued alone and always executed. -/
def execVmax (c : CoreId) (o : BitVec 46) (s : State) : Host.Outcome State Fault Refusal :=
  .next (s.slotCycle c 3 5 o)

/-- VCMP (R142), issued alone and always executed. -/
def execVcmp (c : CoreId) (o : BitVec 46) (s : State) : Host.Outcome State Fault Refusal :=
  .next (s.slotCycle c 3 6 o)

/-- VSEL (R142), issued alone and always executed. -/
def execVsel (c : CoreId) (o : BitVec 46) (s : State) : Host.Outcome State Fault Refusal :=
  .next (s.slotCycle c 3 7 o)

/-- VBRL (R142), issued alone and always executed. -/
def execVbrl (c : CoreId) (o : BitVec 46) (s : State) : Host.Outcome State Fault Refusal :=
  .next (s.slotCycle c 3 8 o)

/-- VCVT (R146), issued alone and always executed. -/
def execVcvt (c : CoreId) (o : BitVec 46) (s : State) : Host.Outcome State Fault Refusal :=
  .next (s.slotCycle c 3 9 o)

/-- VACC (R147), issued alone and always executed. -/
def execVacc (c : CoreId) (o : BitVec 46) (s : State) : Host.Outcome State Fault Refusal :=
  .next (s.slotCycle c 3 10 o)

/-- VROT (R145), issued alone and always executed. -/
def execVrot (c : CoreId) (o : BitVec 46) (s : State) : Host.Outcome State Fault Refusal :=
  .next (s.slotCycle c 3 11 o)

/-- VRMAX (R143), issued alone and always executed. -/
def execVrmax (c : CoreId) (o : BitVec 46) (s : State) : Host.Outcome State Fault Refusal :=
  .next (s.slotCycle c 3 12 o)

/-- VRSUM (R143), issued alone and always executed. -/
def execVrsum (c : CoreId) (o : BitVec 46) (s : State) : Host.Outcome State Fault Refusal :=
  .next (s.slotCycle c 3 13 o)

/-- VEXP (R144), issued alone and always executed. -/
def execVexp (c : CoreId) (o : BitVec 46) (s : State) : Host.Outcome State Fault Refusal :=
  .next (s.slotCycle c 3 16 o)

/-- VRCP (R144), issued alone and always executed. -/
def execVrcp (c : CoreId) (o : BitVec 46) (s : State) : Host.Outcome State Fault Refusal :=
  .next (s.slotCycle c 3 17 o)

/-- VRSQ (R144), issued alone and always executed. -/
def execVrsq (c : CoreId) (o : BitVec 46) (s : State) : Host.Outcome State Fault Refusal :=
  .next (s.slotCycle c 3 18 o)

/-- VACT (R144), issued alone and always executed. -/
def execVact (c : CoreId) (o : BitVec 46) (s : State) : Host.Outcome State Fault Refusal :=
  .next (s.slotCycle c 3 19 o)

/-- VQNT (R148, R149), issued alone and always executed. -/
def execVqnt (c : CoreId) (o : BitVec 46) (s : State) : Host.Outcome State Fault Refusal :=
  .next (s.slotCycle c 3 24 o)

/-- ASMX (R150, R151), issued alone and always executed. -/
def execAsmx (c : CoreId) (o : BitVec 46) (s : State) : Host.Outcome State Fault Refusal :=
  .next (s.slotCycle c 3 32 o)

/-- AEND (R152), issued alone and always executed. -/
def execAend (c : CoreId) (o : BitVec 46) (s : State) : Host.Outcome State Fault Refusal :=
  .next (s.slotCycle c 3 33 o)

/-- AREC (R154), issued alone and always executed. -/
def execArec (c : CoreId) (o : BitVec 46) (s : State) : Host.Outcome State Fault Refusal :=
  .next (s.slotCycle c 3 34 o)

end Sys2Proof.Machine
end

