-- ==== Sys2Proof/Machine/Window.lean ====
section
/-! DEFINITION. What a read of a region-window register returns (R34, R64, R125, R185, R208, R290, R369, R471): the registers whose
content the rest of the state holds are computed here, the others are in the register table. -/

namespace Sys2Proof.Machine

/-- STATE of RGNW_CORE_STATk (Table 02-8). -/
def CorePhase.code (c : CorePhase) : Nat :=
  match c with
  | .off => 0
  | .idle => 1
  | .running => 2
  | .haltedTB => 3
  | .zeroizing => 4
  | .failed => 5
  | .ended => 6
  | .stopped => 7

def State.coreFailed (s : State) (r k : Nat) : Bool := flag (s.rd (Reg.RGNW_CORE_FAIL r)) k

/-- RGNW_CORE_STATk. -/
def State.coreStat (s : State) (r k : Nat) : Word :=
  let c := s.coreAt (17 * r + k)
  if s.coreFailed r k then 0xBFFF0000
  else if !c.powered then 0x1FFF0000
  else
    let st := c.phase.code
    let pc := if st = 2 ∨ st = 3 ∨ st = 6 ∨ st = 7 then c.lastPc % 4096 else 0
    BitVec.ofNat 32 (st * 2 ^ 29 + (c.logical.getD 31) * 2 ^ 24 + (c.part.getD 255) * 2 ^ 16 + pc)

/-- RGNW_CORE_TEMPk (Table 02-7). -/
def Core.tempWord (c : Core) : Word :=
  if !c.powered then 0
  else BitVec.ofNat 32 ((if c.tempD.isSome then 2 ^ 31 else 0) + (if c.tempR.isSome then 2 ^ 30 else 0)
    + (c.tempD.getD 0) % 1024 * 2 ^ 20 + (c.tempR.getD 0) % 1024 * 2 ^ 10 + (if c.suspect then 2 ^ 9 else 0))

/-- Physical cores powered, bit k for core k. -/
def State.coresOn (s : State) (r : Nat) : Nat :=
  ((List.range 17).map fun k => if (s.coreAt (17 * r + k)).powered then 2 ^ k else 0).foldl (· + ·) 0

/-- Emissions of a region that its partition holds as due items (R204). -/
def State.dueEmissions (s : State) (r : Nat) : Nat :=
  match (s.region r).part with
  | none => 0
  | some p => ((s.part p).due.filter fun d => match d.kind with
    | .emission t _ => decide (t = r)
    | _ => false).length

/-- RGNW_SQ_ESTAT: MQ and EPEND beside the counts the register table holds. -/
def State.estat (s : State) (r : Nat) : Word :=
  setField (setField (s.rd (Reg.RGNW_SQ_ESTAT r)) 28 24 (s.region r).moves.length) 23 16 ((s.region r).emissions.length + s.dueEmissions r)

/-- RGNW_SQ_EPOCH: the epoch of a stall-mode partition. -/
def State.sqEpoch (s : State) (r : Nat) : Word :=
  match s.owner r with
  | some p => if (s.part p).stall then BitVec.ofNat 32 (s.part p).epoch else 0
  | none => 0

/-- Word w of the selected trace record (R185). -/
def State.traceWord (s : State) (r w : Nat) : Word :=
  BitVec.ofNat 32 (leNat (memRead (s.region r).trace (32 * s.fld (Reg.RGNW_TRC_IDX r) 8 0 + 4 * w) 4))

/-- RGNW_TRC_STAT. -/
def State.traceStat (s : State) (r : Nat) : Word :=
  let on := match s.owner r with
    | some p => (s.part p).traceOn
    | none => false
  BitVec.ofNat 32 ((if on then 2 ^ 31 else 0) + (s.region r).traceWr)

/-- A window register that the region's power state does not hide (R471). -/
def mirrored (off : Nat) : Bool :=
  decide (off = 0) || decide (off = 0x10) || decide (off = 0x14) || (decide (0xB20 ≤ off) && decide (off ≤ 0xB34)) || decide (off = 0xC00)

/-- A window register of a powered region. -/
def State.winLive (s : State) (r off : Nat) : Word :=
  let g := s.region r
  let a := winBase r + off
  if 0x400 ≤ off ∧ off < 0x444 then (s.coreAt (17 * r + (off - 0x400) / 4)).tempWord
  else if 0x480 ≤ off ∧ off < 0x4C4 then s.coreStat r ((off - 0x480) / 4)
  else if 0x500 ≤ off ∧ off < 0x544 then
    let c := s.coreAt (17 * r + (off - 0x500) / 4)
    if c.powered then c.det else 0
  else if 0x580 ≤ off ∧ off < 0x5C4 then
    let c := s.coreAt (17 * r + (off - 0x580) / 4)
    if c.powered then c.csw else 0
  else if off = 0x600 then s.traceStat r
  else if 0x608 ≤ off ∧ off < 0x628 then s.traceWord r ((off - 0x608) / 4)
  else if off = 0x700 then BitVec.ofNat 32 (g.seq.state * 2 ^ 29 + g.seq.fcode * 2 ^ 24)
  else if off = 0x704 then g.seq.lastRetired
  else if off = 0x740 ∨ off = 0x744 ∨ off = 0xA0C ∨ off = 0xA20 then 0
  else if off = 0x748 then s.estat r
  else if off = 0x74C then s.sqEpoch r
  else if 0x780 ≤ off ∧ off < 0x7C0 then tabGet 0 g.seq.sc ((off - 0x780) / 4)
  else if off = 0xA24 then setFlag (s.rd a) 31 g.le.busy
  else if off = 0xB00 then s.powerWord r (s.coresOn r)
  else s.rd a

/-- A read of offset `off` of region r's window, at a 4-byte boundary. -/
def State.winRead (s : State) (r off : Nat) : Word :=
  if off = 0x10 then s.lastEntryWord r
  else if mirrored off then s.rd (winBase r + off)
  else if 0x480 ≤ off ∧ off < 0x4C4 ∧ s.coreFailed r ((off - 0x480) / 4) = true then 0xBFFF0000
  else if (s.region r).pstate = 0 then regReset (winBase r + off)
  else s.winLive r off

end Sys2Proof.Machine
end

