-- ==== Sys2Proof/Machine/Emitter.lean ====
section
/-! DEFINITION. The region's emitter, mover and list engine (R192 to R196, R204, R205, R280, R282), as the sequencer, a job's due
items and the serving unit use them. -/

namespace Sys2Proof.Machine

/-! ### Rings (R192) -/

/-- A sequencer write to a ring register, at window offset 0x710 to 0x73C. -/
def State.ringConfig (s : State) (r off : Nat) (v : Word) : State :=
  let a := winBase r + off
  if off < 0x730 then
    if off % 8 = 0 then s.wr a (v &&& 0xFFFFFF00) else s.wr a (v &&& 0x000FFFC0)
  else s.wr a v

/-- LOG2 of a ring; outside 4 to 12 it is read as 4. -/
def State.ringLog2 (s : State) (r i : Nat) : Nat :=
  let l := s.fld (Reg.RGNW_SQ_RING_A r i) 11 8
  if 4 ≤ l ∧ l ≤ 12 then l else 4

/-- The epoch a 32-bit due stands for: the one with those low bits from E − 2^31 to E + 2^31 − 1. -/
def dueEpoch (e : Nat) (w : Word) : Nat :=
  let d : Int := signed 32 (twos 32 ((w.toNat : Int) - e))
  ((e : Int) + d).toNat

/-- Present an emission of 16 bytes on ring i: refused without a credit (R193); in stall mode with a due, a due item (R204). -/
def State.presentEmission (s : State) (r i : Nat) (d : Bytes) (fromList : Bool) : State × Bool :=
  let g := s.region r
  let credit := tabGet 0 g.seq.sc (12 + i)
  if credit = 0 then (s.bump (Reg.RGNW_SQ_ESTAT r) 15 8, false)
  else
    let log2 := s.ringLog2 r i
    let slot := tabGet 0 g.ringSlot i
    let p := s.owner r
    let x := s.part (p.getD 64)
    let w := s.rd (Reg.RGNW_SQ_RING_DUE r i)
    let due := if x.stall && decide (w ≠ 0) then some (dueEpoch x.epoch w) else none
    let e : Emission :=
      { data := slice d 0 16, mask := BitVec.ofNat 16 (s.fld (Reg.RGNW_SQ_RING_A r i) 31 16), cn := s.fld (Reg.RGNW_SQ_RING_A r i) 15 12,
        base := s.fld (Reg.RGNW_SQ_RING_B r i) 19 0, log2 := log2, slot := slot % 2 ^ log2, due := due, ring := i, fromList := fromList }
    let s := s.modRegion r fun g =>
      { g with seq := { g.seq with sc := tabSet 0 g.seq.sc (12 + i) (credit - 1) }, ringSlot := tabSet 0 g.ringSlot i (slot + 1) }
    let s := s.wr (Reg.RGNW_SQ_RING_DUE r i) 0
    match due, p with
    | some n, some p =>
      (s.modPart p fun x => { x with due := x.due ++ [{ kind := .emission r e, due := n, ready := true, late := decide (n ≤ x.epoch + 64) }] }, true)
    | _, _ => (s.modRegion r fun g => { g with emissions := g.emissions ++ [e] }, true)

/-- A write to RGNW_SQ_EMIT. -/
def State.sqEmit (s : State) (r : Nat) (v : Word) : State :=
  (s.presentEmission r (field v 31 30) (memRead (s.region r).seq.sram (16 * field v 13 0) 16) false).1

/-- An emission becomes held in every target core, and their counters move (R193). -/
def State.landEmission (s : State) (r : Nat) (e : Emission) : State :=
  (s.maskCores r e.mask).foldl (fun s k => s.toCore k 0 (e.base + 16 * e.slot) e.data (some e.cn)) s

/-! ### The mover (R195, R196) -/

/-- The descriptor of Table 07-3. -/
def moverDesc (b : Bytes) (assist : Option (Nat × Nat)) : Move :=
  { src := leAt b 0 8, dst := leAt b 8 8, kib := leAt b 16 2 + 1, srcRim := decide (byteAt b 18 / 16 = 1), dstRim := decide (byteAt b 18 % 16 = 1),
    scn := byteAt b 19 / 16, cn := byteAt b 19 % 16, mask := BitVec.ofNat 16 (leAt b 20 2),
    due := if byteAt b 22 % 2 = 1 then some (leAt b 24 8) else none, done := false, assist := assist }

/-- A descriptor that raises sequencer fault 3. -/
def State.moverBad (s : State) (r : Nat) (b : Bytes) : Bool :=
  let m := moverDesc b none
  let n := 1024 * m.kib
  decide (1 < byteAt b 18 / 16) || decide (1 < byteAt b 18 % 16) || (m.srcRim && m.dstRim) || decide (m.src % 1024 ≠ 0)
    || decide (m.dst % 1024 ≠ 0) || (!m.srcRim && !s.bondOk r m.src n false) || (!m.dstRim && !s.bondOk r m.dst n true)

/-- A range outside the partition's rim allocation. -/
def State.moverRim (s : State) (p : Nat) (m : Move) : Option Nat :=
  if m.srcRim && !s.rimAllowed p m.src (1024 * m.kib) false then some m.src
  else if m.dstRim && !s.rimAllowed p m.dst (1024 * m.kib) true then some m.dst
  else none

/-- Present a mover descriptor: refused when the queue is full, a fault or a logged refusal when its ranges are wrong (R195). -/
def State.presentMove (s : State) (r : Nat) (b : Bytes) (assist : Option (Nat × Nat)) : State :=
  if 16 ≤ (s.region r).moves.length then s.bump (Reg.RGNW_SQ_ESTAT r) 15 8
  else if s.moverBad r b then s.seqFault r 3
  else
    let p := (s.owner r).getD 64
    let x := s.part p
    let m := moverDesc b assist
    match s.moverRim p m with
    | some a =>
      let (lx, ly) := (s.last.logical r).getD (0, 0)
      s.rimRefused x.key (s.seqId r) lx ly a
    | none =>
      let m := if x.stall then m else { m with due := none }
      let s := s.modRegion r fun g => { g with moves := g.moves ++ [m] }
      match m.due with
      | some n => s.modPart p fun x => { x with due := x.due ++ [{ kind := .mover r m, due := n, ready := false, late := decide (n ≤ x.epoch + 64) }] }
      | none => s

/-- A write to RGNW_SQ_MOV. -/
def State.sqMov (s : State) (r : Nat) (v : Word) : State :=
  s.presentMove r (memRead (s.region r).seq.sram (32 * field v 12 0) 32) none

/-- Copy the LEN KiB of a mover descriptor. -/
def State.moveData (s : State) (r : Nat) (m : Move) (chk : CodeCheck) : State :=
  let n := 1024 * m.kib
  let p := s.owner r
  let (d, s) :=
    if m.srcRim then
      let (d, bad) := s.rimRead m.src n
      (d, s.rimCheck p m.src bad chk)
    else (s.bondRead r m.src n, s.bondCheck r (((s.physCore r (bondSlice m.src)).getD 0)) (bondByte m.src / 1024) 2 chk)
  if m.dstRim then
    let (s, bad) := s.rimWrite m.dst d
    s.rimCheck p m.dst bad .clean
  else s.bondWrite r m.dst d

/-- A mover completion lands: SC[SCN] and the cores' counters, and the assist completion. -/
def State.landMove (s : State) (r : Nat) (m : Move) : State :=
  let s := s.scAdd r m.scn
  let s := (s.maskCores r m.mask).foldl (fun s k => s.toCore k 0 0 [] (some m.cn)) s
  match m.assist with
  | some (p, tag) => s.complete p 3 0 1 (leBytes 4 tag) (zeros 8)
  | none => s

/-- Land the entries at the front of the queue whose data is in place and whose due, if any, has been landed by its due item;
completions land in the order of presentation. `k` bounds the walk. -/
def State.landFront (s : State) (r : Nat) : Nat → State
  | 0 => s
  | k + 1 => match (s.region r).moves with
    | m :: t =>
      if m.done && m.due.isNone then ((s.modRegion r fun g => { g with moves := t }).landMove r m).landFront r k else s
    | [] => s

/-- Is this due item the one of a mover entry? -/
def sameMove (r : Nat) (m : Move) (d : DueItem) : Bool :=
  match d.kind with
  | .mover t n => decide (t = r) && decide (n = m)
  | _ => false

/-- MOVER_COMPLETION: the oldest entry not yet in place is copied; its due item is ready, or it lands in its turn. -/
def State.moverDone (s : State) (r : Nat) (chk : CodeCheck) : State :=
  let q := (s.region r).moves
  match q.findIdx? fun m => !m.done with
  | none => s
  | some i => match q[i]? with
    | none => s
    | some m =>
      let s := s.moveData r m chk
      let s := s.modRegion r fun g => { g with moves := g.moves.set i { m with done := true } }
      let s := match m.due, s.owner r with
        | some _, some p => s.modPart p fun x => { x with due := x.due.map fun d => if sameMove r m d then { d with ready := true } else d }
        | _, _ => s
      s.landFront r 16

/-- A mover's due item lands: its entry lands now, and those behind it that waited only for it. -/
def State.landDueMove (s : State) (r : Nat) (m : Move) : State :=
  let s := s.modRegion r fun g =>
    { g with moves := g.moves.map fun n => if n.due = m.due ∧ n.src = m.src ∧ n.dst = m.dst then { n with due := none, done := true } else n }
  s.landFront r 16

/-! ### The list engine (R280, R282) -/

/-- Byte `a` of the list's home; outside SRAM or the window the spec states nothing. -/
def State.listByte (s : State) (r : Nat) (bonded : Bool) (a : Nat) : Byte :=
  if bonded then
    if a < 1073741824 then (match s.sliceKey r (bondSlice a) with
      | some k => memGet (s.coreAt k).slice (bondByte a)
      | none => 0)
    else BitVec.ofNat 8 (Config.unstated 2 a)
  else if a < 262144 then memGet (s.region r).seq.sram a else BitVec.ofNat 8 (Config.unstated 2 a)

def State.listField (s : State) (r : Nat) (bonded : Bool) (a n : Nat) : Nat := leNat ((List.range n).map fun i => s.listByte r bonded (a + i))

/-- RIMBASE of region r in its layer of the model of its cache. -/
def State.rimBaseOf (s : State) (r : Nat) : Nat :=
  match s.owner r with
  | none => 0
  | some p => match s.geometry p (s.fld (Reg.RGNW_CACHE_CFG r) 7 4) with
    | none => 0
    | some g => ((g.layers.flatMap id).findSome? fun e => if s.ridx p e.1 = some r then some e.2 else none).getD 0

/-- The descriptor of R280, in the layout of Table 07-2. -/
def descBytes (page loc npos row tent shared seq pos rim : Nat) : Bytes :=
  leBytes 3 page ++ leBytes 1 (loc * 64 + npos) ++ leBytes 2 row ++ leBytes 2 (tent * 32768 + shared * 16384 + seq % 16384) ++ leBytes 4 pos ++ leBytes 4 rim

/-- page_descriptor(L, k, r) for the list at `base`. -/
def State.pageDesc (s : State) (r : Nat) (bonded : Bool) (base k : Nat) : Bytes :=
  let fld := fun (o n : Nat) => s.listField r bonded (base + o) n
  let npg := fld 12 2
  if npg ≤ k then descBytes 0 3 0 0 0 0 (fld 0 2) (64 * k) 0
  else
    let o := 16 + 8 * k
    let len := fld 4 4
    let tlen := fld 8 4
    let n := min 64 (tlen - 64 * k)
    let eloc := fld (o + 3) 1 / 64
    let loc := if n = 0 then 2 else eloc
    let place := fld (o + 4) 4
    let c := 2 ^ s.fld (Reg.RGNW_CACHE_CFG r) 31 29
    descBytes (fld o 3) loc (n - 1) (if loc = 0 ∨ loc = 2 then s.slotRow r place else 0) (if len < min (64 * k + 64) tlen then 1 else 0)
      (fld (o + 3) 1 / 16 % 2) (fld 0 2) (64 * k) (if loc = 1 then s.rimBaseOf r + place * c * s.prows r else 0)

/-- The list that a walk reads is the list of the live sequence it names, for its model (R279, R284, R286): a page's entry is tentative while its
record is (R285). -/
def State.noteList (s : State) (r : Nat) (bonded : Bool) (base : Nat) : State :=
  let i := s.listField r bonded base 2 % 16384
  let m := s.listField r bonded (base + 2) 1
  match s.owner r, tabFind s.srv.seqs i with
  | some p, some x =>
    if x.part ≠ p ∨ x.state = 0 ∨ (m ≠ x.model ∧ m ≠ x.dmodel) then s
    else
      let l := (List.range (s.listField r bonded (base + 12) 2)).map fun k =>
        let page := s.listField r bonded (base + 16 + 8 * k) 3
        let rec_ := (s.ownerOf p m x.rsel).bind fun t => (s.keeper t).find page
        ({ page := page, tent := decide ((rec_.map (·.state)) = some 2) } : ListEntry)
      let y := if m = x.model then { x with list := l } else { x with dlist := l }
      { s with srv := { s.srv with seqs := tabAdd s.srv.seqs i y } }
  | _, _ => s

/-- A write to RGNW_LE_CMD: the engine starts when it is idle, else the command is dropped. -/
def State.leStart (s : State) (r : Nat) (v : Word) (assist : Option (Nat × Nat)) : State :=
  if (s.region r).le.busy then s.bump (Reg.RGNW_LE_STAT r) 23 16
  else (s.noteList r (flag v 29) (16 * field v 28 0)).modRegion r fun g =>
    { g with le := { busy := true, ring := field v 31 30, bonded := flag v 29, addr := 16 * field v 28 0, k := 0, assist := assist } }

/-- Emit descriptors until the end of the list or until the ring has no credit. `n` bounds the walk. -/
def State.walkList (s : State) (r : Nat) : Nat → State
  | 0 => s
  | n + 1 =>
    let le := (s.region r).le
    let npg := s.listField r le.bonded (le.addr + 12) 2
    let (t, ok) := s.presentEmission r le.ring (s.pageDesc r le.bonded le.addr le.k) true
    if !ok then t
    else
      let t := t.bump (Reg.RGNW_LE_STAT r) 15 0
      if npg ≤ le.k then
        let t := t.modRegion r fun g => { g with le := ListEngine.idle }
        match le.assist with
        | some (p, tag) => t.complete p 2 0 1 (leBytes 4 tag) (zeros 8)
        | none => t
      else (t.modRegion r fun g => { g with le := { g.le with k := le.k + 1 } }).walkList r n

/-- LIST_WALK_DONE: the walk goes on to its end-of-list descriptor, or as far as the credits go. -/
def State.listWalk (s : State) (r : Nat) : State := if (s.region r).le.busy then s.walkList r 65537 else s

end Sys2Proof.Machine
end

