-- ==== Sys2Proof/Machine/SeqCpu.lean ====
section
/-! DEFINITION. The region sequencer's processor (R186 to R190): RV32IMC, its address map, its faults. -/

namespace Sys2Proof.Machine

/-! ### Registers -/

def Sequencer.rx (q : Sequencer) (i : Nat) : Word := if i = 0 then 0 else tabGet 0 q.x i
def Sequencer.wx (q : Sequencer) (i : Nat) (v : Word) : Sequencer := if i = 0 then q else { q with x := tabSet 0 q.x i v }

/-! ### Compressed instructions (the C extension), expanded to their 32-bit equivalents; `none` is illegal -/

def encI (imm rs1 f3 rd op : Nat) : Nat := imm % 4096 * 2 ^ 20 + rs1 * 2 ^ 15 + f3 * 2 ^ 12 + rd * 2 ^ 7 + op
def encR (f7 rs2 rs1 f3 rd op : Nat) : Nat := f7 * 2 ^ 25 + rs2 * 2 ^ 20 + rs1 * 2 ^ 15 + f3 * 2 ^ 12 + rd * 2 ^ 7 + op
def encS (imm rs2 rs1 f3 op : Nat) : Nat :=
  imm / 32 % 128 * 2 ^ 25 + rs2 * 2 ^ 20 + rs1 * 2 ^ 15 + f3 * 2 ^ 12 + imm % 32 * 2 ^ 7 + op
def encB (imm rs2 rs1 f3 : Nat) : Nat :=
  imm / 4096 % 2 * 2 ^ 31 + imm / 32 % 64 * 2 ^ 25 + rs2 * 2 ^ 20 + rs1 * 2 ^ 15 + f3 * 2 ^ 12 + imm / 2 % 16 * 2 ^ 8 + imm / 2048 % 2 * 2 ^ 7 + 99
def encJ (imm rd : Nat) : Nat :=
  imm / 1048576 % 2 * 2 ^ 31 + imm / 2 % 1024 * 2 ^ 21 + imm / 2048 % 2 * 2 ^ 20 + imm / 4096 % 256 * 2 ^ 12 + rd * 2 ^ 7 + 111

/-- Sign extension of an n-bit immediate, as a number modulo 2^32. -/
def sx (n v : Nat) : Nat := twos 32 (signed n v)

/-- Quadrant 0: register numbers are 8 + a three-bit field. -/
def expand0 (h : BitVec 16) : Option Nat :=
  let rd := 8 + field h 4 2
  let rs := 8 + field h 9 7
  let off := field h 5 5 * 64 + field h 12 10 * 8 + field h 6 6 * 4
  match field h 15 13 with
  | 0 =>
    let imm := field h 10 7 * 64 + field h 12 11 * 16 + field h 5 5 * 8 + field h 6 6 * 4
    if imm = 0 then none else some (encI imm 2 0 rd 0x13)
  | 2 => some (encI off rs 2 rd 0x03)
  | 6 => some (encS off rd rs 2 0x23)
  | _ => none

/-- Jump offset of C.J and C.JAL. -/
def cjImm (h : BitVec 16) : Nat :=
  sx 12 (field h 12 12 * 2048 + field h 8 8 * 1024 + field h 10 9 * 256 + field h 6 6 * 128 + field h 7 7 * 64 + field h 2 2 * 32
    + field h 11 11 * 16 + field h 5 3 * 2)

def cbImm (h : BitVec 16) : Nat :=
  sx 9 (field h 12 12 * 256 + field h 6 5 * 64 + field h 2 2 * 32 + field h 11 10 * 8 + field h 4 3 * 2)

def expand1 (h : BitVec 16) : Option Nat :=
  let rd := field h 11 7
  let rp := 8 + field h 9 7
  let imm := sx 6 (field h 12 12 * 32 + field h 6 2)
  match field h 15 13 with
  | 0 => some (encI imm rd 0 rd 0x13)
  | 1 => some (encJ (cjImm h) 1)
  | 2 => some (encI imm 0 0 rd 0x13)
  | 3 =>
    if rd = 2 then
      let i := sx 10 (field h 12 12 * 512 + field h 4 3 * 128 + field h 5 5 * 64 + field h 2 2 * 32 + field h 6 6 * 16)
      if i = 0 then none else some (encI i 2 0 2 0x13)
    else if field h 12 12 * 32 + field h 6 2 = 0 then none
    else some (imm % 2 ^ 20 * 2 ^ 12 + rd * 2 ^ 7 + 0x37)
  | 4 =>
    let sh := field h 12 12 * 32 + field h 6 2
    (match field h 11 10 with
    | 0 => if 32 ≤ sh then none else some (encI sh rp 5 rp 0x13)
    | 1 => if 32 ≤ sh then none else some (encI (1024 + sh) rp 5 rp 0x13)
    | 2 => some (encI imm rp 7 rp 0x13)
    | _ =>
      if field h 12 12 = 1 then none
      else
        let r2 := 8 + field h 4 2
        match field h 6 5 with
        | 0 => some (encR 32 r2 rp 0 rp 0x33)
        | 1 => some (encR 0 r2 rp 4 rp 0x33)
        | 2 => some (encR 0 r2 rp 6 rp 0x33)
        | _ => some (encR 0 r2 rp 7 rp 0x33))
  | 5 => some (encJ (cjImm h) 0)
  | 6 => some (encB (cbImm h) 0 rp 0)
  | _ => some (encB (cbImm h) 0 rp 1)

def expand2 (h : BitVec 16) : Option Nat :=
  let rd := field h 11 7
  let r2 := field h 6 2
  match field h 15 13 with
  | 0 => if flag h 12 then none else some (encI r2 rd 1 rd 0x13)
  | 2 => if rd = 0 then none else some (encI (field h 3 2 * 64 + field h 12 12 * 32 + field h 6 4 * 4) 2 2 rd 0x03)
  | 4 =>
    if !flag h 12 then
      if r2 = 0 then (if rd = 0 then none else some (encI 0 rd 0 0 0x67)) else some (encR 0 r2 0 0 rd 0x33)
    else if r2 = 0 then (if rd = 0 then none else some (encI 0 rd 0 1 0x67))
    else some (encR 0 r2 rd 0 rd 0x33)
  | 6 => some (encS (field h 8 7 * 64 + field h 12 9 * 4) r2 2 2 0x23)
  | _ => none

/-- The 32-bit equivalent of a 16-bit instruction. -/
def expand (h : BitVec 16) : Option Nat :=
  match field h 1 0 with
  | 0 => expand0 h
  | 1 => expand1 h
  | _ => expand2 h

/-! ### Arithmetic (the I and M extensions) -/

/-- The OP functions with funct7 0 and 32; `none` is illegal. -/
def aluFn (f3 f7 : Nat) (a b : Word) : Option Word :=
  let sh := b.toNat % 32
  if f7 = 0 then
    some (match f3 with
      | 0 => a + b
      | 1 => a <<< sh
      | 2 => if a.toInt < b.toInt then 1 else 0
      | 3 => if a.toNat < b.toNat then 1 else 0
      | 4 => a ^^^ b
      | 5 => a >>> sh
      | 6 => a ||| b
      | _ => a &&& b)
  else if f7 = 32 then (match f3 with
    | 0 => some (a - b)
    | 5 => some (a.sshiftRight sh)
    | _ => none)
  else none

/-- The M extension: division by zero gives all ones and the dividend; the overflow gives the dividend and 0. -/
def mulFn (f3 : Nat) (a b : Word) : Word :=
  match f3 with
  | 0 => a * b
  | 1 => BitVec.ofInt 32 ((a.toInt * b.toInt) / 2 ^ 32)
  | 2 => BitVec.ofInt 32 ((a.toInt * (b.toNat : Int)) / 2 ^ 32)
  | 3 => BitVec.ofNat 32 (a.toNat * b.toNat / 2 ^ 32)
  | 4 => if b = 0 then 0xFFFFFFFF else BitVec.ofInt 32 (a.toInt.tdiv b.toInt)
  | 5 => if b = 0 then 0xFFFFFFFF else BitVec.ofNat 32 (a.toNat / b.toNat)
  | 6 => if b = 0 then a else BitVec.ofInt 32 (a.toInt.tmod b.toInt)
  | _ => if b = 0 then a else BitVec.ofNat 32 (a.toNat % b.toNat)

/-- OP-IMM: shifts name their function in the upper immediate bits. -/
def immFn (f3 imm : Nat) (a : Word) : Option Word :=
  if f3 = 1 then aluFn 1 (imm / 32) a (BitVec.ofNat 32 (imm % 32))
  else if f3 = 5 then aluFn 5 (imm / 32) a (BitVec.ofNat 32 (imm % 32))
  else aluFn f3 0 a (BitVec.ofNat 32 (sx 12 imm))

/-- Is a branch taken? `none` is illegal. -/
def branchTaken (f3 : Nat) (a b : Word) : Option Bool :=
  match f3 with
  | 0 => some (decide (a = b))
  | 1 => some (decide (a ≠ b))
  | 4 => some (decide (a.toInt < b.toInt))
  | 5 => some (decide (b.toInt ≤ a.toInt))
  | 6 => some (decide (a.toNat < b.toNat))
  | 7 => some (decide (b.toNat ≤ a.toNat))
  | _ => none

/-! ### The address map (Table 07-1) -/

/-- n bytes loaded from address a: the value, or a fault code. Window registers give the addressed bytes of their word. -/
def State.seqLoad (s : State) (r a n : Nat) : Except Nat Nat :=
  if a % n ≠ 0 then .error 2
  else if a < 0x40000 then .ok (leNat (memRead (s.region r).seq.sram a n))
  else if 0x100000 ≤ a ∧ a < 0x101000 then .ok ((s.winRead r ((a - 0x100000) / 4 * 4)).toNat / 2 ^ (8 * (a % 4)) % 2 ^ (8 * n))
  else if 0x40000000 ≤ a ∧ a < 0x80000000 then
    (if s.bondOk r (a - 0x40000000) n false then .ok (leNat (s.bondRead r (a - 0x40000000) n)) else .error 3)
  else .error 3

/-- A word written to the region window: the registers of Table 07-6 and of R290 that the sequencer writes; others are ignored. -/
def State.seqWindow (s : State) (r off : Nat) (v : Word) : State :=
  if 0x710 ≤ off ∧ off < 0x740 then s.ringConfig r off v
  else if off = 0x740 then s.sqEmit r v
  else if off = 0x744 then s.sqMov r v
  else if 0x780 ≤ off ∧ off < 0x7C0 then s.modRegion r fun g => { g with seq := { g.seq with sc := tabSet 0 g.seq.sc ((off - 0x780) / 4) v } }
  else if off = 0xA0C then s.pkPresent r v
  else if off = 0xA20 then s.leStart r v none
  else s

/-- n bytes stored at address a: the state after, or a fault code. A store narrower than a register is ignored there; DEDUCED
from R470, assumption 14. -/
def State.seqStore (s : State) (r a n v : Nat) : Except Nat State :=
  if a % n ≠ 0 then .error 2
  else if a < 0x40000 then .ok (s.sramWrite r a (leBytes n v))
  else if 0x100000 ≤ a ∧ a < 0x101000 then .ok (if n = 4 then s.seqWindow r (a - 0x100000) (BitVec.ofNat 32 v) else s)
  else if 0x40000000 ≤ a ∧ a < 0x80000000 then
    (if s.bondOk r (a - 0x40000000) n true then .ok (s.bondWrite r (a - 0x40000000) (leBytes n v)) else .error 3)
  else .error 3

/-! ### One instruction -/

/-- Where the check of the access bears: SRAM reads may raise fault 5, bonded reads are accounted under R246. -/
def State.seqCheck (s : State) (r : Nat) (bonded : Option Nat) (chk : CodeCheck) : State :=
  match bonded with
  | some off => s.bondCheck r ((s.physCore r (bondSlice off)).getD 0) (bondByte off / 1024) 1 chk
  | none => match chk with
    | .corrected _ => s.corrected 1 (regionLocus r) (s.injHit 3 r (codewords 0 0 262144))
    | _ => s

/-- Retire: x[rd] takes v, the pc moves on. -/
def State.retire (s : State) (r rd : Nat) (v : Word) (pc next : Nat) : State :=
  s.modRegion r fun g => { g with seq := { g.seq.wx rd v with pc := BitVec.ofNat 32 next, lastRetired := BitVec.ofNat 32 pc } }

/-- A load: sign-extended for LB and LH. -/
def loadValue (f3 v : Nat) : Word :=
  match f3 with
  | 0 => BitVec.ofNat 32 (sx 8 v)
  | 1 => BitVec.ofNat 32 (sx 16 v)
  | _ => BitVec.ofNat 32 v

/-- Bytes accessed by a load or store function; `none` is illegal. -/
def accessSize (f3 : Nat) : Option Nat :=
  match f3 with
  | 0 => some 1
  | 1 => some 2
  | 2 => some 4
  | 4 => some 1
  | 5 => some 2
  | _ => none

/-- Execute the 32-bit instruction w fetched at pc, `len` bytes long. -/
def State.seqExec (s : State) (r : Nat) (w : Word) (pc len : Nat) (chk : CodeCheck) : State :=
  let q := (s.region r).seq
  let op := field w 6 0
  let rd := field w 11 7
  let f3 := field w 14 12
  let a := q.rx (field w 19 15)
  let b := q.rx (field w 24 20)
  let f7 := field w 31 25
  let next := pc + len
  let rel := fun (imm : Nat) => (pc + imm) % 2 ^ 32
  let ans := fun (v : Option Word) => match v with
    | some v => s.retire r rd v pc next
    | none => s.seqFault r 1
  match op with
  | 0x37 => s.retire r rd (BitVec.ofNat 32 (field w 31 12 * 4096)) pc next
  | 0x17 => s.retire r rd (BitVec.ofNat 32 (pc + field w 31 12 * 4096)) pc next
  | 0x6F =>
    let imm := sx 21 (field w 31 31 * 1048576 + field w 19 12 * 4096 + field w 20 20 * 2048 + field w 30 21 * 2)
    s.retire r rd (BitVec.ofNat 32 next) pc (rel imm)
  | 0x67 =>
    if f3 = 0 then s.retire r rd (BitVec.ofNat 32 next) pc ((a.toNat + sx 12 (field w 31 20)) % 2 ^ 32 / 2 * 2) else s.seqFault r 1
  | 0x63 =>
    let imm := sx 13 (field w 31 31 * 4096 + field w 7 7 * 2048 + field w 30 25 * 32 + field w 11 8 * 2)
    (match branchTaken f3 a b with
    | some t => s.retire r 0 0 pc (if t then rel imm else next)
    | none => s.seqFault r 1)
  | 0x03 =>
    let addr := (a.toNat + sx 12 (field w 31 20)) % 2 ^ 32
    (match accessSize f3 with
    | none => s.seqFault r 1
    | some n =>
      if addr < 0x40000 ∧ addr % n = 0 ∧ chk = .uncorrectable then s.seqFault r 5
      else match s.seqLoad r addr n with
        | .error c => s.seqFault r c
        | .ok v => (s.seqCheck r (if 0x40000000 ≤ addr then some (addr - 0x40000000) else none) chk).retire r rd (loadValue f3 v) pc next)
  | 0x23 =>
    let addr := (a.toNat + sx 12 (f7 * 32 + rd)) % 2 ^ 32
    (match accessSize f3 with
    | none => s.seqFault r 1
    | some n => if 3 ≤ f3 then s.seqFault r 1 else match s.seqStore r addr n b.toNat with
      | .error c => s.seqFault r c
      | .ok t => if (t.region r).seq.state = 4 then t else t.retire r 0 0 pc next)
  | 0x13 => ans (immFn f3 (field w 31 20) a)
  | 0x33 => ans (if f7 = 1 then some (mulFn f3 a b) else aluFn f3 f7 a b)
  | 0x0F => if f3 = 0 then s.retire r 0 0 pc next else s.seqFault r 1
  | 0x73 =>
    if w = 0x10500073 then
      (s.retire r 0 0 pc next).modRegion r fun g => { g with seq := { g.seq with state := 3, wfiSnap := g.seq.sc } }
    else s.seqFault r 1
  | _ => s.seqFault r 1

/-- Can two bytes be fetched here? A job program's access to the service ROM is fault 3, any other place outside SRAM fault 4. -/
def fetchFault (pc : Nat) : Option Nat :=
  if pc + 2 ≤ 0x40000 then none else if 0x800000 ≤ pc ∧ pc < 0x810000 then some 3 else some 4

/-- Fetch and execute one instruction of the job program. -/
def State.seqStep (s : State) (r : Nat) (chk : CodeCheck) : State :=
  let q := (s.region r).seq
  let pc := q.pc.toNat
  match fetchFault pc with
  | some c => s.seqFault r c
  | none =>
    let h := BitVec.ofNat 16 (leNat (memRead q.sram pc 2))
    let wide := decide (field h 1 0 = 3)
    let w := BitVec.ofNat 32 (leNat (memRead q.sram pc 4))
    let isLoad := fun (x : Word) => decide (field x 6 0 = 0x03)
    let run := fun (x : Word) (len : Nat) =>
      if isLoad x then s.seqExec r x pc len chk
      else if chk = .uncorrectable then s.seqFault r 5
      else (s.seqCheck r none chk).seqExec r x pc len .clean
    if wide then (match fetchFault (pc + 2) with
      | some c => s.seqFault r c
      | none => run w 4)
    else match expand h with
      | some x => run (BitVec.ofNat 32 x) 2
      | none => if chk = .uncorrectable then s.seqFault r 5 else s.seqFault r 1

/-- Does the region's stretching or an in-service window leave the sequencer running, and does WFI end? A held sequencer goes on
when any counter has changed since WFI. -/
def Sequencer.awake (q : Sequencer) : Bool := decide (q.state = 2) || (decide (q.state = 3) && decide (q.sc ≠ q.wfiSnap))

end Sys2Proof.Machine
end

