-- ==== Sys2Proof/Machine/SeqCmds.lean ====
section
/-! DEFINITION. The commands of the region sequencer, emitter, mover, list engine and keeper (chapters 07 and 10). -/

namespace Sys2Proof.Machine

/-- SEQ_INSTRUCTION (R186): the job program's next instruction. The service program's ROM is not in the spec: its work is the
effect of the commands that use it (R190, assumption 15). -/
def execSeqInstruction (r : Nat) (chk : CodeCheck) (s : State) : Host.Outcome State Fault Refusal :=
  .next (
    let q := (s.region r).seq
    if (s.region r).pstate = 0 ∨ q.awake = false then s
    else (s.modRegion r fun g => { g with seq := { g.seq with state := 2 } }).seqStep r chk)

/-- The hub ejects flit i at hub r for a sequencer, if that is where it stands. -/
def State.seqFlit (s : State) (i : Nat) : Option (Nat × Flit × Endpoint) :=
  match s.fab.flits[i]? with
  | some f => match f.loc, s.lookup f.dest with
    | .eject r, some e => if e.port = .seq then some (r, f, e) else none
    | _, _ => none
  | none => none

/-- SEQ_ARRIVAL (R191, R224, R359): a SND or SIG is delivered to the sequencer. -/
def execSeqArrival (i : Nat) (s : State) : Host.Outcome State Fault Refusal :=
  .next (match s.seqFlit i with
    | none => s
    | some (r, f, e) =>
      let s := s.dropFlit i
      if s.dead r then s
      else if e.key ≠ f.key then s.violation 4 f.key f.src f.dest e.key r 11
      else
        let s := match f.kind with
          | .send => s.sramWrite r (f.raddr % 262144) f.data
          | .multicast => s.sramWrite r (f.raddr % 262144) f.data
          | _ => s
        if f.ce then s.scAdd r f.cn else s)

/-- SQ_RING_CONFIG (R192, R208). -/
def execSqRingConfig (r off : Nat) (v : Word) (s : State) : Host.Outcome State Fault Refusal :=
  .next (if (s.region r).pstate = 0 then s else s.ringConfig r off v)

/-- SQ_EMIT (R193). -/
def execSqEmit (r : Nat) (v : Word) (s : State) : Host.Outcome State Fault Refusal :=
  .next (if (s.region r).pstate = 0 then s else s.sqEmit r v)

/-- EMISSION_DELIVERY (R193): the oldest emission presented is held in every target. -/
def execEmissionDelivery (r : Nat) (s : State) : Host.Outcome State Fault Refusal :=
  .next (match (s.region r).emissions with
    | [] => s
    | e :: t => (s.modRegion r fun g => { g with emissions := t }).landEmission r e)

/-- SQ_MOV (R195). -/
def execSqMov (r : Nat) (v : Word) (s : State) : Host.Outcome State Fault Refusal :=
  .next (if (s.region r).pstate = 0 then s else s.sqMov r v)

/-- MOVER_COMPLETION (R195). -/
def execMoverCompletion (r : Nat) (chk : CodeCheck) (s : State) : Host.Outcome State Fault Refusal := .next (s.moverDone r chk)

/-! ### The keeper -/

def execAlloc (r grp : Nat) (tent : Bool) (s : State) : Host.Outcome State Fault Refusal := .next (s.keeperCmd r 1 0 grp tent)
def execRef (r page : Nat) (s : State) : Host.Outcome State Fault Refusal := .next (s.keeperCmd r 2 page 0 false)
def execDeref (r page : Nat) (s : State) : Host.Outcome State Fault Refusal := .next (s.keeperCmd r 3 page 0 false)
def execPin (r page : Nat) (s : State) : Host.Outcome State Fault Refusal := .next (s.keeperCmd r 4 page 0 false)
def execUnpin (r page : Nat) (s : State) : Host.Outcome State Fault Refusal := .next (s.keeperCmd r 5 page 0 false)
def execCopy (r page : Nat) (s : State) : Host.Outcome State Fault Refusal := .next (s.keeperCmd r 6 page 0 false)
def execCommit (r page : Nat) (s : State) : Host.Outcome State Fault Refusal := .next (s.keeperCmd r 7 page 0 false)
def execEvict (r page : Nat) (s : State) : Host.Outcome State Fault Refusal := .next (s.keeperCmd r 8 page 0 false)
def execWarm (r page : Nat) (s : State) : Host.Outcome State Fault Refusal := .next (s.keeperCmd r 9 page 0 false)
def execQuery (r page : Nat) (s : State) : Host.Outcome State Fault Refusal := .next (s.keeperCmd r 10 page 0 false)

/-- COPY_COMPLETION (R276): `page` is the new page's identifier. -/
def execCopyCompletion (r page : Nat) (s : State) : Host.Outcome State Fault Refusal := .next (s.copyDone r page)

/-- MOVE_COMPLETION (R277). -/
def execMoveCompletion (r page : Nat) (s : State) : Host.Outcome State Fault Refusal := .next (s.moveDone r page)

/-- PAGE_ZERO_REPORTED (R275). -/
def execPageZeroReported (r i : Nat) (s : State) : Host.Outcome State Fault Refusal := .next (s.zeroReported r i)

/-- PK_CMD_PRESENT (R290). -/
def execPkCmdPresent (r : Nat) (v : Word) (s : State) : Host.Outcome State Fault Refusal :=
  .next (if (s.region r).pstate = 0 then s else s.pkPresent r v)

/-- LE_CMD_START (R282). -/
def execLeCmdStart (r : Nat) (v : Word) (s : State) : Host.Outcome State Fault Refusal :=
  .next (if (s.region r).pstate = 0 then s else s.leStart r v none)

/-- LIST_WALK_DONE (R282). -/
def execListWalkDone (r : Nat) (s : State) : Host.Outcome State Fault Refusal := .next (s.listWalk r)

end Sys2Proof.Machine
end

