-- ==== Sys2Proof/Machine/Lockstep.lean ====
section
/-! DEFINITION. Spool completions (R173, R174, R197), arrivals at cores (R60, R177, R180, R181, R201, R213), due items, detours and
the common stop epoch of stall mode (R204 to R207), and the lockstep registers (R209). -/

namespace Sys2Proof.Machine

/-! ### Spools -/

/-- Keys of the cores of a partition. -/
def State.coresOf (s : State) (p : Nat) : List Nat := (s.cores.filter fun e => decide (e.2.part = some p)).map (·.1)

/-- Does a request cover the 16-byte granule at a? -/
def covers (q : SpoolReq) (a : Nat) : Bool := decide (q.rim ≤ a) && decide (a + 16 ≤ q.rim + 1024 * q.kib)

/-- A granule's other content that R174 allows a read: former content, or that of a write of another spool not yet landed. -/
def State.altGranule (s : State) (p key : Nat) (q : SpoolReq) (a : Nat) : Option Bytes :=
  match tabFind q.old a with
  | some _ => some ((List.range 16).map fun i => tabGet 0 q.old (a + i))
  | none => (s.coresOf p).findSome? fun k =>
      ((s.coreAt k).spools.find? fun w => w.write && !w.refused && covers w a && !(decide (k = key) && decide (w.sp = q.sp))).map
        fun w => slice w.data (a - w.rim) 16

/-- The bytes a SPR returns, granule by granule; and the granules for which a choice was drawn. -/
def State.spoolBytes (s : State) (p key : Nat) (q : SpoolReq) (d : Bytes) : Bytes :=
  ((List.range (64 * q.kib)).map fun i =>
    let g := slice d (16 * i) 16
    match s.altGranule p key q (q.rim + 16 * i) with
    | some o => if Config.choice (s.fresh + i) then o else g
    | none => g).flatten

/-- The bytes a SPW sends: a granule whose source has changed since issue is sent in its former or new content. -/
def State.spoolSource (s : State) (key : Nat) (q : SpoolReq) : Bytes :=
  ((List.range (64 * q.kib)).map fun i =>
    let old := slice q.data (16 * i) 16
    let new := (s.coreAt key).readSpace q.space (q.localAddr + 16 * i) 16
    if old = new then old else if Config.choice (s.fresh + i) then new else old).flatten

/-- Former content kept for the reads of other spools that a write meets (R174). -/
def keepOld (m : Mem) (w q : SpoolReq) : SpoolReq :=
  let lo := max w.rim q.rim
  let hi := min (w.rim + 1024 * w.kib) (q.rim + 1024 * q.kib)
  if q.write || q.refused then q
  else { q with old := (List.range (hi - lo)).foldl (fun t i => match tabFind t (lo + i) with
      | some _ => t
      | none => tabAdd t (lo + i) (memGet m (lo + i))) q.old }

/-- Is this due item the one of a spool request? -/
def sameSpool (key : Nat) (q : SpoolReq) (d : DueItem) : Bool :=
  match d.kind with
  | .spool r k w => decide (17 * r + k = key) && decide (w.sp = q.sp) && decide (w.rim = q.rim) && decide (w.localAddr = q.localAddr) && !d.ready
  | _ => false

/-- Mark the first item for which f holds as ready. -/
def markReady (f : DueItem → Bool) : List DueItem → List DueItem
  | [] => []
  | d :: t => if f d then { d with ready := true } :: t else d :: markReady f t

/-- A completion lands: the entry is free and the counter moves (R173, R197). -/
def State.landSpool (s : State) (key : Nat) (q : SpoolReq) : State :=
  s.modCoreAt key fun c =>
    let c := c.push c.now 4 (.spoolFree q.sp)
    match q.ctr with
    | some n => c.push c.now 4 (.ctrAdd n 1 true)
    | none => c

/-- Requests of spool sp that are performed and have not landed yet. -/
def State.spoolsLanding (s : State) (key sp : Nat) : Nat :=
  let c := s.coreAt key
  (c.flight.filter fun f => decide (f.eff = .spoolFree sp)).length
    + ((s.part (c.part.getD 64)).due.filter fun d => match d.kind with
        | .spool r k w => decide (17 * r + k = key) && decide (w.sp = sp) && d.ready
        | _ => false).length

/-- The oldest request of spool sp that is not performed yet. -/
def State.nextSpool (s : State) (key sp : Nat) : Option SpoolReq :=
  (((s.coreAt key).spools.filter fun q => decide (q.sp = sp) && !q.refused).drop (s.spoolsLanding key sp)).head?

/-- SPOOL_COMPLETION: the oldest request of spool sp is performed; it lands in the core's next cycle, or at its due. -/
def State.spoolDone (s : State) (key sp : Nat) (chk : CodeCheck) : State :=
  let c := s.coreAt key
  match s.nextSpool key sp with
  | none => s
  | some q =>
    let p := c.part.getD 64
    let n := 1024 * q.kib
    let s :=
      if q.write then
        let before := s.rim.mem
        let (t, bad) := s.rimWrite q.rim (s.spoolSource key q)
        let t := { t with fresh := t.fresh + 64 * q.kib }
        let t := (t.coresOf p).foldl (fun t k => t.modCoreAt k fun x =>
          { x with spools := x.spools.map fun w => if k = key ∧ w.sp = sp then w else keepOld before q w }) t
        t.rimCheck c.part q.rim bad chk
      else
        let (d, bad) := s.rimRead q.rim n
        let out := s.spoolBytes p key q d
        let t := ({ s with fresh := s.fresh + 64 * q.kib }).toCore key q.space q.localAddr out none
        t.rimCheck c.part q.rim bad chk
    if (s.part p).stall then s.modPart p fun x => { x with due := markReady (sameSpool key q) x.due }
    else s.landSpool key q

def execSpoolCompletion (c : CoreId) (sp : Nat) (chk : CodeCheck) (s : State) : Host.Outcome State Fault Refusal :=
  .next (s.spoolDone (CoreId_key c) sp chk)

/-! ### Arrivals at a core -/

/-- The cycle of the core from which a flit's data is held, and whether that is later than its landing (R60, R201, R213). -/
def State.heldFrom (s : State) (key : Nat) (f : Flit) : Nat × Bool :=
  let now := (s.coreAt key).now
  match f.landing with
  | none => (now, false)
  | some t =>
    let d := match s.coreOf f.src with
      | some k => ((t : Int) + 5 - s.wallStart k + s.wallStart key).toNat
      | none => t + 5
    if d < now then (now, true) else (d, false)

/-- What a flit does in its core. -/
def flitEffects (f : Flit) : List Eff :=
  let ctr := if f.ce then [.ctrAdd f.cn 1 true] else []
  match f.kind with
  | .send => .bytes f.space f.raddr f.data :: ctr
  | .multicast => .bytes f.space f.raddr f.data :: ctr
  | .reduced =>
    (List.range 16).map (fun k =>
      let x := (f.accs[k]?).getD Acc.zero
      if x.sat then .accMark (f.raddr + k) (decide (0 < x.val)) else .accAdd (f.raddr + k) [x.val]) ++ ctr
  | _ => ctr

/-- Deliver flit f, ejected at hub r, to logical core n: dropped in silence when the region has died (R359), dropped with reason 4
when the key is not the endpoint's (R224). -/
def State.deliverCore (s : State) (f : Flit) (r n ekey : Nat) : State :=
  if s.dead r then s
  else if ekey ≠ f.key then s.violation 4 f.key f.src f.dest ekey r 10
  else match s.sliceKey r n with
    | none => s
    | some k =>
      let (d, late) := s.heldFrom k f
      let s := s.modCoreAt k fun c => c.pushAll d 4 (flitEffects f)
      if late then s.jobFatal (s.owner r) 34 6 (regionLocus r) else s

/-! ### Due items (R204, R205, R207) -/

/-- Bits [15:0] and [31:16] of GLB_LOCK_EVTp. -/
def State.lateStall (s : State) (p : Nat) : State :=
  let x := s.part p
  let w := x.wall + 64
  let goesOn := match x.lateRun with
    | some l => decide (w ≤ l + 1)
    | none => false
  let s := s.setPart p { x with stalls := x.stalls ++ [(w, w)], lateRun := some w }
  if goesOn then s else s.bump (Reg.GLB_LOCK_EVT p) 15 0

/-- DUE_ITEM_LATE_STALL (R205): item i of partition p is not ready and E ≥ d − 64. -/
def execDueItemLateStall (p i : Nat) (s : State) : Host.Outcome State Fault Refusal :=
  .next (match (s.part p).due[i]? with
    | none => s
    | some d => if d.ready || decide ((s.part p).epoch + 64 < d.due) || decide (s.pstate p ≠ 2) then s else s.lateStall p)

/-- A feedback record and its counter at each target (R320). -/
def State.feedback (s : State) (cores seqs : List Nat) (addr cn : Nat) (data : Bytes) : State :=
  let s := cores.foldl (fun (s : State) k => s.toCore k 0 addr data (some cn)) s
  seqs.foldl (fun (s : State) r => (if data.isEmpty then s else s.sramWrite r (addr % 262144) data).scAdd r cn) s

/-- The effect of a due item. -/
def State.landItem (s : State) (d : DueItem) : State :=
  match d.kind with
  | .spool r k q => s.landSpool (17 * r + k) q
  | .emission r e => s.landEmission r e
  | .mover r m => s.landDueMove r m
  | .feedback _ _ cores seqs addr cn data => s.feedback cores seqs addr cn data

/-- The region whose sequencer holds the item, for RGNW_SQ_ESTAT.LATE. -/
def seqItem (k : DueKind) : Option Nat :=
  match k with
  | .emission r _ => some r
  | .mover r _ => some r
  | _ => none

/-- DUE_ITEM_LAND (R204): a ready item lands in the epoch cycle of its due epoch, a late sequencer item in the first after it is
ready, counted in LATE. -/
def execDueItemLand (p i : Nat) (s : State) : Host.Outcome State Fault Refusal :=
  .next (match (s.part p).due[i]? with
    | none => s
    | some d =>
      if !d.ready || decide ((s.part p).epoch < d.due) then s
      else
        let s := (s.modPart p fun x => { x with due := x.due.eraseIdx i }).landItem d
        match seqItem d.kind with
        | some r => if d.late then s.bump (Reg.RGNW_SQ_ESTAT r) 7 0 else s
        | none => s)

/-- DETOUR_START (R206): the first detour announced starts when its epoch has come and the wall cycle is not stalled. -/
def execDetourStart (p : Nat) (s : State) : Host.Outcome State Fault Refusal :=
  .next (
    let x := s.part p
    match x.detours, x.detourNow with
    | (n, g, d) :: t, none =>
      if x.epoch < n + 64 ∨ x.announced ∨ s.pstate p = 0 then s
      else (s.setPart p { x with detours := t, detourNow := some (g, d) }).bump (Reg.GLB_LOCK_EVT p) 31 16
    | _, _ => s)

/-- STOP_EPOCH_REACHED (R207): the stop becomes pending in every core at the common epoch. -/
def execStopEpochReached (p : Nat) (s : State) : Host.Outcome State Fault Refusal :=
  .next (
    let x := s.part p
    match x.stopEpoch with
    | none => s
    | some e =>
      if x.epoch < e then s
      else (s.setPart p { x with stopEpoch := none, stopPending := true, stopTime := some s.time }).setPState p 3)

/-! ### Lockstep registers (R209) -/

/-- E as GLB_LOCK_EPOCHp shows it: the stall-mode job's while it is loaded, then the value held. -/
def State.lockEpoch (s : State) (p : Nat) : Nat :=
  if (s.part p).stall && decide (s.pstate p ≠ 0) then (s.part p).epoch
  else s.rd64 (Reg.GLB_LOCK_EPOCH_LO p) (Reg.GLB_LOCK_EPOCH_HI p)

/-- GLB_LOCK_EPOCH_LO_READ (R209). -/
def execGlbLockEpochLoRead (port p : Nat) (s : State) : Host.Outcome State Fault Refusal :=
  .next (s.capture port (Reg.GLB_LOCK_EPOCH_HI p) (BitVec.ofNat 32 (s.lockEpoch p >>> 32)))

end Sys2Proof.Machine
end

