-- ==== Sys2Proof/Machine/Sampler.lean ====
section
/-! DEFINITION. The sampling units (R310 to R315, R317, R318, R325): candidate flits, the sampling procedure, uniform draws, log-probabilities and
the acceptance walk of a verification pass. -/

namespace Sys2Proof.Machine

/-! ### Uniform draws (R313) -/

def mulHi (a b : Word) : Word := BitVec.ofNat 32 (a.toNat * b.toNat / 2 ^ 32)

/-- Philox4×32: `n` rounds from key (k0, k1) on counter (a, b, c, d). -/
def philox (k0 k1 a b c d : Word) : Nat → Word
  | 0 => a
  | n + 1 => philox (k0 + 0x9E3779B9) (k1 + 0xBB67AE85) (mulHi 0xCD9E8D57 c ^^^ b ^^^ k0) (0xCD9E8D57 * c) (mulHi 0xD2511F53 a ^^^ d ^^^ k1) (0xD2511F53 * a) n

/-- u = (r0 >> 8) · 2^−24 for position pos, draw index j, source src (0 target, 1 draft). -/
def draw (seed : Long) (pos j src : Nat) : Word :=
  let r := philox (BitVec.ofNat 32 seed.toNat) (BitVec.ofNat 32 (seed.toNat >>> 32)) (BitVec.ofNat 32 pos) (BitVec.ofNat 32 j) (BitVec.ofNat 32 src) 0 10
  toF32 (.fin false (r.toNat >>> 8) (-24))

/-! ### The candidate set (R311) -/

/-- A logit as the set takes it: NaN drops the candidate, an infinity becomes the largest finite number. -/
def logitOf (z : Word) : Option Word :=
  match f32 z with
  | .nan => none
  | .inf neg => some (if neg then f32Big ||| 0x80000000 else f32Big)
  | _ => some z

/-- The first record of each token below VOCAB, by offset, and the number of repeated tokens. -/
def candidates (vocab : Nat) (l : Tab (Nat × Word)) : List (Nat × Word) × Nat :=
  let own := l.filter fun e => decide (e.2.1 < vocab)
  let (set, dup) := own.foldl (fun (acc : List (Nat × Word) × Nat) (e : Nat × Nat × Word) =>
    if acc.1.any fun c => decide (c.1 = e.2.1) then (acc.1, acc.2 + 1) else (acc.1 ++ [e.2], acc.2)) ([], 0)
  (set.filterMap fun c => (logitOf c.2).map fun z => (c.1, z), dup)

/-! ### The sampling procedure (R312) -/

/-- Bit x of a mask's bitmap. -/
def maskAllows (m : Bytes) (x : Nat) : Bool := decide (byteAt m (x / 8) / 2 ^ (x % 8) % 2 = 1)

/-- A candidate's logit under the penalties; where their arithmetic is not a number the spec states no result. -/
def penalize (prm : SampParams) (hist : List Nat) (c : Nat × Word) : Nat × Word :=
  let n := (hist.filter fun t => decide (t = c.1)).length
  if n = 0 then c
  else
    let z := if (FV.fin false 0 0).lt (f32 c.2) then f32Div c.2 prm.repp else f32Mul c.2 prm.repp
    let v := ((f32 z).add (f32 prm.presp).neg).add ((f32 prm.freqp).mul (.fin false n 0)).neg
    (c.1, if v.isNan then BitVec.ofNat 32 (Config.unstated 7 c.2.toNat) else toF32 v)

/-- Does a come before b: the higher logit, then the lower token? -/
def ahead (a b : Nat × Word) : Bool :=
  let x := f32 a.2
  let y := f32 b.2
  y.lt x || (!x.lt y && decide (a.1 < b.1))

def insertCand (c : Nat × Word) : List (Nat × Word) → List (Nat × Word)
  | [] => [c]
  | d :: t => if ahead c d then c :: d :: t else d :: insertCand c t

def sortCands (l : List (Nat × Word)) : List (Nat × Word) := l.foldr insertCand []

/-- Running sums in binary32. -/
def running (acc : Word) : List Word → List Word
  | [] => []
  | w :: t =>
    let a := f32Add acc w
    a :: running a t

def lastWord (l : List Word) : Word := (l.getLast?).getD 0

/-- The final candidates in sorted order with their weights, from the masked and penalized sorted set. -/
def finalWeights (prm : SampParams) (c : List (Nat × Word)) : List (Nat × Word) :=
  match c with
  | [] => []
  | first :: _ =>
    if (f32 prm.temp).dy.m = 0 ∧ (f32 prm.temp).isFinite = true then [(first.1, f32One)]
    else
      let k := if prm.topk = 0 then min c.length 1024 else min prm.topk c.length
      let t0 := f32Div first.2 prm.temp
      let ws : List (Nat × Word) := ((List.range k).zip (c.take k)).map fun (e : Nat × Nat × Word) =>
        (e.2.1, if e.1 = 0 then f32One else transc 2 0 (f32Sub (f32Div e.2.2 prm.temp) t0))
      let ws := ws.takeWhile fun (e : Nat × Word) => !((f32 e.2).isNan || (f32 e.2).lt (f32 prm.minp))
      let cs := running 0 (ws.map (·.2))
      let lim := f32Mul prm.topp (lastWord cs)
      ws.take (((cs.findIdx? fun (x : Word) => !((f32 x).lt (f32 lim))).getD (cs.length - 1)) + 1)

/-- C after masking and penalties, sorted. -/
def prepare (prm : SampParams) (mask : Option Bytes) (hist : List Nat) (c : List (Nat × Word)) : List (Nat × Word) :=
  let c : List (Nat × Word) := match mask with
    | some m => c.filter fun (e : Nat × Word) => maskAllows m e.1
    | none => c
  sortCands (c.map (penalize prm hist))

/-- The token a draw takes from weights. -/
def drawToken (ws : List (Nat × Word)) (u : Word) : Option Nat :=
  let cs := running 0 (ws.map (·.2))
  let r := f32Mul u (lastWord cs)
  let i := (cs.findIdx? fun x => (f32 r).lt (f32 x)).getD (ws.length - 1)
  (ws[i]?).map (·.1)

/-- The final distribution p of weights w. -/
def distribution (ws : List (Nat × Word)) : List (Nat × Word) :=
  let n := lastWord (running 0 (ws.map (·.2)))
  ws.map fun e => (e.1, f32Div e.2 n)

def probOf (p : List (Nat × Word)) (x : Nat) : Word := ((p.find? fun e => decide (e.1 = x)).map (·.2)).getD 0

/-! ### Log-probability (R314) -/

/-- ln v for v > 0, to a relative error near 2^−200: Newton's steps from ⌊log2 v⌋ · ln 2. -/
def lnStep (v : Dy) : Nat → Int → Int
  | 0, y => y
  | n + 1, y => lnStep v n (y + (fxOf (v.mul (dyExp { m := -y, e := -256 })) - fxOne))

def dyLn (v : Dy) : Dy := { m := lnStep v 9 (v.log2 * ln2Fx), e := -256 }

/-- The largest maximum of the statistics, and Σ S · vexp(m − M). -/
def statMax (stats : List (Word × Word)) : Word := stats.foldl (fun m e => f32Max m e.1) f32NaN

def statSum (stats : List (Word × Word)) : FV :=
  let m := statMax stats
  stats.foldl (fun acc e => acc.add ((f32 e.2).mul (f32 (transc 2 0 (f32Sub e.1 m))))) (.fin false 0 0)

/-- z − LSE; canonical NaN without statistics. -/
def logProb (z : Word) (stats : List (Word × Word)) : Word :=
  if stats.isEmpty then f32NaN
  else
    let free := Config.rowLog stats
    let ln := match statSum stats with
      | .fin false m e =>
        if m = 0 then free
        else
          let y := dyLn { m := m, e := e }
          if withinUlp 2 free y then free else toF32 (FV.ofDy y)
      | _ => free
    toF32 ((f32 z).add ((f32 (statMax stats)).add (f32 ln)).neg)

/-! ### Verification (R318) -/

/-- Children of node v, ascending. -/
def kidsOf (tree : List Nat) (v : Nat) : List Nat := (List.range tree.length).filter fun i => decide (0 < i) && decide ((tree[i]?).getD 0 = v)

/-- max(0, p − q) renormalized in binary32; p itself when that leaves nothing. -/
def residual (p q : List (Nat × Word)) : List (Nat × Word) :=
  let d := p.map fun e => (e.1, f32Max 0 (f32Sub e.2 (probOf q e.1)))
  let n := lastWord (running 0 (d.map (·.2)))
  if (f32 n).dy.m = 0 ∧ (f32 n).isFinite = true then p else d.map fun e => (e.1, f32Div e.2 n)

/-- Try the children of a node in order: the accepted child, or the distribution left. `q` gives the draft distribution behind a token. -/
def tryKids (seed : Long) (pos : Nat) (p : List (Nat × Word)) (q : Nat → List (Nat × Word)) (rank : Nat) : List (Nat × Nat) → Option (Nat × Nat) × List (Nat × Word) × Bool
  | [] => (none, p, false)
  | (c, x) :: t =>
    let u := draw seed pos (1 + rank) 0
    if ((f32 u).mul (f32 (probOf (q x) x))).lt (f32 (probOf p x)) then (some (c, x), p, false)
    else
      let (r, p, _) := tryKids seed pos (residual p (q x)) q (rank + 1) t
      (r, p, true)

/-- The accepted nodes in order, each with its token and the node whose target row decided it; then the final token and its node. `w v` are the
target weights of row v, `d v` its draft row, `len` LEN, `dep` the depth of v. The walk takes at most `fuel` steps. -/
def acceptWalk (seed : Long) (len : Nat) (w : Nat → List (Nat × Word)) (d : Nat → Option Draft) (v dep : Nat) :
    Nat → List (Nat × Nat × Nat) × Option Nat × Nat
  | 0 => ([], none, v)
  | fuel + 1 =>
    let p := distribution (w v)
    let (hit, left, changed) := match d v with
      | some x => tryKids seed (len + dep + 1) p (fun t => if x.weights.isEmpty then [(t, f32One)] else distribution x.weights) 0 x.kids
      | none => (none, p, false)
    match hit with
    | some (c, x) =>
      let (l, t, u) := acceptWalk seed len w d c (dep + 1) fuel
      ((c, x, v) :: l, t, u)
    | none => ([], drawToken (if changed then left else w v) (draw seed (len + dep + 1) 0 0), v)

/-! ### Units and their buffers -/

def SampUnit.zero : SampUnit := { bufs := [], draftRows := 0 }

def State.unit (s : State) (u : Nat) : SampUnit := tabGet SampUnit.zero s.smp u

def State.setUnit (s : State) (u : Nat) (x : SampUnit) : State := { s with smp := tabSet SampUnit.zero s.smp u x }

def SampRow.empty : SampRow := { cands := [], stats := [], ceCount := 0, sampled := false }

/-- Masks a unit holds. -/
def State.masksIn (s : State) (u : Nat) : Nat :=
  ((s.srv.seqs.map fun e => (e.2.masks.filter fun m => decide (m.2.1 = u)).length)).foldl (· + ·) 0

/-- The tree of a sequence's speculation cycle: parents by node; a chain of d drafts has d + 1 nodes. -/
def State.treeOf (s : State) (x : Seq) (d : Nat) : List Nat :=
  if x.prm.spec = 2 then (match (s.part x.part).serving with
    | some r => (r.trees[x.prm.draftn]?).getD [0]
    | none => [0])
  else if x.prm.spec = 1 then (List.range (d + 1)).map (· - 1)
  else [0]

/-- Position of the token that a row decides. -/
def State.decides (s : State) (x : Seq) (row : PassRow) : Nat :=
  if row.role ≤ 2 then row.pos + 1 else x.len + treeDepth (s.treeOf x (x.cycle.getD 0)) 64 row.node + 1

/-- Rows of a pass that are sampled (ROLE 1 to 4). -/
def Pass.sampled (y : Pass) : Nat := (y.rows.filter fun r => decide (r.role ≠ 0)).length

/-- The pass whose rows buffer b of unit u holds: one with a row still to be sampled. -/
def State.passOf (s : State) (p u b : Nat) : Option Pass :=
  (s.part p).passes.find? fun x => decide (x.unit = some (u, b)) && decide (x.results.length < x.sampled)

def State.setPass (s : State) (p : Nat) (y : Pass) : State :=
  s.modPart p fun x => { x with passes := x.passes.map fun z => if z.number = y.number then y else z }

/-- The last PWIN tokens a sequence has committed. -/
def Seq.window (x : Seq) : List Nat := x.hist.drop (x.hist.length - x.prm.pwin)

/-- Slot of the sample area of a row (R484). -/
def State.sampleSlot (s : State) (p pass row : Nat) : Nat :=
  s.rd64 (Reg.HIF_SMPA_LO p) (Reg.HIF_SMPA_HI p) + (64 * (pass % 2) + row) * 0x8400

/-- Is sampling host-assisted for partition p (IN_FORCE.SAMPLE)? -/
def State.hostSamples (s : State) (p : Nat) : Bool := flag (s.rd (Reg.GLB_PMODE p)) 17

/-- A complete row is sampled (R312, R317), or its candidate set written to the sample area (R484). -/
def State.sampleRow (s : State) (p u : Nat) (y : Pass) (row : Nat) (r : SampRow) : State :=
  match y.rows[row]?, (s.part p).serving with
  | some pr, some sv =>
    let (set, dup) := candidates sv.vocab r.cands
    let s := s.bumpBy (Reg.SMP_ERR u) 31 16 dup
    match tabFind s.srv.seqs pr.seq with
    | none => s.setPass p { y with results := y.results ++ [{ row := row, tok := none, weights := [], draws := [], sent := [], stats := [] }] }
    | some x =>
      let at_ := s.decides x pr
      let mask := (x.masks.find? fun m => decide (m.1 = at_)).map (·.2.2)
      let c := prepare x.prm mask x.window set
      let stats := r.stats.map (·.2)
      let s := s.bump (Reg.SMP_STAT u) 15 0
      if s.hostSamples p then
        let a := s.sampleSlot p y.number row
        let port := s.homePort p
        let s := s.hostWrite port (a + 64) (c.flatMap fun e => leBytes 4 e.1 ++ leBytes 4 e.2.toNat)
        let s := s.hostWriteAdv port a (leBytes 2 pr.seq ++ leBytes 1 pr.role ++ leBytes 1 pr.node ++ leBytes 4 pr.pos ++ leBytes 4 y.number
          ++ leBytes 4 c.length ++ zeros 48) (200 + p)
        (s.setPass p { y with results := y.results ++ [{ row := row, tok := none, weights := [], draws := [], sent := set, stats := stats }],
                              awaiting := y.awaiting ++ [row] }).signal (64 + p)
      else
        let ws := finalWeights x.prm c
        let kids := if pr.role = 4 then kidsOf (s.treeOf x (x.cycle.getD 0)) pr.node else []
        let draws := (List.range kids.length).filterMap fun j => drawToken ws (draw x.prm.seed at_ j 1)
        let tok := if pr.role = 4 then none else drawToken ws (draw x.prm.seed at_ 0 0)
        s.setPass p { y with results := y.results ++ [{ row := row, tok := tok, weights := ws, draws := draws, sent := set, stats := stats }] }
  | _, _ => s

/-- Put the granules of a flit in a row's area: candidates of 8 bytes at DSP 0, shard statistics of 16 at DSP 1. -/
def SampRow.take (r : SampRow) (dsp off : Nat) (d : Bytes) : SampRow :=
  if dsp = 0 then
    { r with cands := (List.range (d.length / 8)).foldl (fun t i => tabAdd t (off / 8 + i) (leAt d (8 * i) 4, BitVec.ofNat 32 (leAt d (8 * i + 4) 4))) r.cands }
  else
    { r with stats := (List.range (d.length / 16)).foldl (fun t i =>
        tabAdd t (off / 16 + i) (BitVec.ofNat 32 (leAt d (16 * i) 4), BitVec.ofNat 32 (leAt d (16 * i + 4) 4))) r.stats }

/-- Is every sampled row of a buffer sampled? -/
def PassBuf.done (b : PassBuf) : Bool := b.rows.all fun e => e.2.sampled

/-! ### Feedback (R320, R204) -/

/-- Targets of FBK (R336): physical core keys and regions of sequencers. -/
def State.fbkTargets (s : State) (p : Nat) (sv : ServingRec) : List Nat × List Nat :=
  if flag sv.fbk 31 then
    let l := (s.fab.bridles.filter fun b => decide (b.key = (s.part p).key) && decide (b.index = sv.fbk.toNat % 1024)).flatMap fun b =>
      b.branches.map fun x => (b.r, x)
    (l.filterMap fun e => match e.2 with
      | .core n => s.sliceKey e.1 n
      | _ => none,
     l.filterMap fun e => match e.2 with
      | .seq => some e.1
      | _ => none)
  else match (s.part p).placed[field sv.fbk 30 8]? with
    | some g => ((s.sliceKey g.r (field sv.fbk 3 0)).toList, [])
    | none => ([], [])

/-- Index in the pass of the first row of a sequence. -/
def Pass.firstRow (y : Pass) (seq : Nat) : Nat := (y.rows.findIdx? fun r => decide (r.seq = seq)).getD 0

/-- In stall mode, when the last row of a pass has its candidates, the feedback of each sampled row becomes a due item (Table 07-4); it is ready
when the pass commits. -/
def State.armFeedback (s : State) (p pass sent : Nat) : State :=
  let x := s.part p
  match x.passes.find? fun y => decide (y.number = pass), x.serving with
  | some y, some sv =>
    if !x.stall || decide (y.results.length < y.sampled) then s
    else
      let (cores, seqs) := s.fbkTargets p sv
      let d := sent + x.smpDue
      s.setPart p { x with due := x.due ++ ((List.range y.rows.length).zip y.rows |>.filter fun e => decide (e.2.role ≠ 0)).map fun e =>
        { kind := .feedback pass e.1 cores seqs (sv.fbkAddr + 32 * y.firstRow e.2.seq) sv.fbkCn [], due := d, ready := x.stopEpoch.isSome,
          late := decide (d ≤ x.epoch + 64) } }
  | _, _ => s

/-- A flit at sampling unit u (R310, R311). `src` names its sender for the violation log; EKEY is the key of the buffer's holder, the
welt's own with none (assumption 31). -/
def State.candidateFlit (s : State) (u key src sent dsp raddr : Nat) (d : Bytes) (ce : Bool) : State :=
  let b := raddr / 2 ^ 22 % 4
  let row := raddr / 2 ^ 16 % 64
  let off := raddr % 2 ^ 16
  let lim := if dsp = 0 then 32768 else 4096
  let discard := s.bump (Reg.SMP_ERR u) 15 0
  let mismatch := fun (ekey : Nat) =>
    let (ex, ey) := match s.lookup (s.weltId (.sampling u)) with
      | some e => (e.x, e.y)
      | none => (0, 0)
    discard.violation 5 key src (s.weltId (.sampling u)) ekey ((s.last.phys ex ey).getD 0) 9
  if 1 < b ∨ 1 < dsp ∨ lim < off + d.length then discard
  else
    let x := s.unit u
    match tabFind x.bufs b with
    | none => mismatch 0xFFFF
    | some buf =>
      if s.keyOwner key ≠ some buf.part then mismatch (s.part buf.part).key
      else
        let buf := { buf with firstFlit := some (buf.firstFlit.getD s.time), lastSent := max buf.lastSent sent }
        let s := s.setUnit u { x with bufs := tabAdd x.bufs b buf }
        match tabFind buf.rows row, (s.part buf.part).serving, s.passOf buf.part u b with
        | some r, some sv, some y =>
          if r.sampled || buf.timedOut then s
          else
            let r := r.take dsp off d
            let r := if ce then { r with ceCount := r.ceCount + 1 } else r
            let full := decide (sv.nshard ≤ r.ceCount)
            let buf := { buf with rows := tabAdd buf.rows row { r with sampled := full } }
            let free := full && buf.done
            let s := s.setUnit u { x with bufs := if free then tabDrop x.bufs b else tabAdd x.bufs b buf }
            if full then (s.sampleRow buf.part u y row r).armFeedback buf.part y.number buf.lastSent else s
        | _, _, _ => s

/-- SAMPLE_CANDIDATE_FLIT (R310, R311). -/
def execSampleCandidateFlit (u key src dsp raddr : Nat) (data : Bytes) (ce : Bool) (s : State) : Host.Outcome State Fault Refusal :=
  .next (s.candidateFlit u key src (match s.keyOwner key with
    | some p => (s.part p).epoch
    | none => 0) dsp raddr data ce)

/-- SAMPLED_ROW_TIMEOUT (R310): 2^(MC_TMO + 10) cycles of CLK_WELT at 1.4 GHz since the buffer's first flit, with a row incomplete. -/
def execSampledRowTimeout (u b : Nat) (s : State) : Host.Outcome State Fault Refusal :=
  .next (
    let x := s.unit u
    match tabFind x.bufs b with
    | none => s
    | some buf => match buf.firstFlit with
      | none => s
      | some t =>
        if buf.timedOut || buf.done || decide ((s.now - t.toNat) * 14 < 10 * 2 ^ (s.fld Reg.FAB_CFG 27 24 + 10)) then s
        else
          let s := s.setUnit u { x with bufs := tabAdd x.bufs b { buf with timedOut := true } }
          (s.bump (Reg.SMP_STORE u) 15 8).jobFatal (some buf.part) 34 6 0)

end Sys2Proof.Machine
end

