-- ==== Sys2Proof/Machine/Serving.lean ====
section
/-! DEFINITION. The serving unit: the commands of the command ring, sequences and their end, adapters, and the prefix table (R283, R284, R292 to
R296, R299, R302, R306 to R309, R315, R323). -/

namespace Sys2Proof.Machine

/-! ### Ring entries taken -/

def State.rings (s : State) (p : Nat) : Rings := tabGet Rings.zero s.hif.rings p

def State.setRings (s : State) (p : Nat) (x : Rings) : State := { s with hif := { s.hif with rings := tabSet Rings.zero s.hif.rings p x } }

/-- Remove the first entry of a ring, when it is e. -/
def takeEntry (assist : Bool) (e : Bytes) : List (Bool × Bytes) → Option (List (Bool × Bytes))
  | [] => none
  | x :: t => if x.1 = assist then (if x.2 = e then some t else none) else (takeEntry assist e t).map (x :: ·)

/-- Take entry e, the oldest fetched of its ring, to perform it. -/
def State.takeRing (s : State) (p : Nat) (assist : Bool) (e : Bytes) : Option State :=
  (takeEntry assist e (s.rings p).taken).map fun t => s.setRings p { s.rings p with taken := t }

/-- Complete command entry e with a status and 8 bytes of result. -/
def State.cmdAnswer (s : State) (p : Nat) (e : Bytes) (status : Nat) (result : Bytes) : State := s.complete p (byteAt e 0) status 0 (slice e 8 4) result

def State.finish (s : State) (p : Nat) (e : Bytes) (status : Nat) : State := s.cmdAnswer p e status []

/-! ### Sequences -/

/-- The serving record of a partition that serves: loaded, and its job not ended (status 9 otherwise). -/
def State.servingRec (s : State) (p : Nat) : Option ServingRec :=
  if s.pstate p = 2 ∨ s.pstate p = 3 then (s.part p).serving else none

def State.seq (s : State) (i : Nat) : Option Seq := tabFind s.srv.seqs i

def State.setSeq (s : State) (i : Nat) (x : Option Seq) : State := { s with srv := { s.srv with seqs := tabPut s.srv.seqs i x } }

/-- The live sequence i of partition p. -/
def State.liveSeq (s : State) (p i : Nat) : Option Seq :=
  match s.seq i with
  | some x => if x.part = p ∧ x.state ≠ 0 then some x else none
  | none => none

/-- Identifiers of the entries of partition p. -/
def State.seqsOf (s : State) (p : Nat) : List Nat := (s.srv.seqs.filter fun e => decide (e.2.part = p)).map (·.1)

/-- Bits taken at load (IN_FORCE): 0 ADMIT, 1 SAMPLE, 2 WALK, 3 EVICT, 4 ADGATH, 5 ROUTE; true is host-assisted. -/
def State.hostMode (s : State) (p bit : Nat) : Bool := flag (s.rd (Reg.GLB_PMODE p)) (16 + bit)

/-- Free records of the output ring that no sequence holds (R323). -/
def State.outRoom (s : State) (p : Nat) : Nat :=
  2 ^ s.outLog p - s.outUsed p - ((s.srv.seqs.filter fun e => decide (e.2.part = p)).map (·.2.ringHeld)).foldl (· + ·) 0

/-- Deepest node of a tree. -/
def treeMax (t : List Nat) : Nat := ((List.range t.length).map (treeDepth t 64)).foldl max 0

/-- Position that the next batch of a sequence decides a token for; none while a verification pass is under way. -/
def State.nextPos (s : State) (i : Nat) (x : Seq) : Option Nat :=
  let base := x.len + max x.prompt.length 1
  if x.state ≠ 3 then some base
  else match x.pass, x.cycle with
    | some n, none => (match (s.part x.part).passes.find? fun y => decide (y.number = n) with
      | some y => if y.rows.any fun r => decide (r.seq = i) && decide (r.role = 1 ∨ r.role = 2) then some (base + 1) else some base
      | none => some base)
    | _, some d => if x.draftDepth < treeMax (s.treeOf x d) then some base else none
    | none, none => some base

/-- Drafts the next pass can accept, with credits in hand: a chain is cut, a shape is not (R302). -/
def State.draftsFor (s : State) (x : Seq) : Nat :=
  let d := if x.prm.spec = 1 then x.prm.draftn
    else if x.prm.spec = 2 then treeMax (s.treeOf x 0)
    else 0
  if x.budgeted && decide (x.prm.spec = 1) then min d ((s.acct x.account).led.bal - 1) else d

/-- The rows the sequence takes in its next pass: (ROLE, NODE) with the position, and the credits and ring records it needs. -/
structure Plan where
  rows : List (Nat × Nat × Nat)
  sampled : Bool
  /-- Credits to reserve; drafts of a cycle that begins. -/
  credits : Nat
  begin_ : Option Nat
  records : Nat
  deriving DecidableEq, Repr

def State.plan (s : State) (sv : ServingRec) (x : Seq) : Plan :=
  if x.prompt ≠ [] then
    let n := min sv.pchunk x.prompt.length
    let last := decide (n = x.prompt.length)
    { rows := (List.range n).map fun i => (if last && decide (i + 1 = n) then 1 else 0, 0, x.len + i), sampled := last,
      credits := if last then 1 else 0, begin_ := none, records := if last then 1 else 0 }
  else if x.prm.spec = 0 then { rows := [(2, 0, x.len)], sampled := true, credits := 1, begin_ := none, records := 1 }
  else
    let d := x.cycle.getD (s.draftsFor x)
    let t := s.treeOf x d
    let begin_ := if x.cycle.isSome then none else some d
    let credits := if x.cycle.isSome then 0 else 1 + treeMax t
    if x.draftDepth < treeMax t then
      { rows := ((List.range t.length).filter fun v => decide (treeDepth t 64 v = x.draftDepth)).map fun v => (4, v, x.len + v), sampled := true,
        credits := credits, begin_ := begin_, records := 0 }
    else { rows := (List.range t.length).map fun v => (3, v, x.len + v), sampled := true, credits := credits, begin_ := begin_, records := 1 + treeMax t }

/-- The causes for which a sequence waits instead of being taken (R298): 1 budget, 2 mask, 3 ring. -/
def State.causes (s : State) (sv : ServingRec) (i : Nat) (x : Seq) : List Nat :=
  let pl := s.plan sv x
  let bal := (s.acct x.account).led.bal
  (if x.budgeted && decide (0 < pl.credits) && decide (bal < pl.credits) then [1] else [])
    ++ (if x.prm.mask && !(x.masks.any fun m => decide (some m.1 = s.nextPos i x)) then [2] else [])
    ++ (if s.outRoom x.part < pl.records then [3] else [])

/-- Sequences of partition p whose cause has cleared leave state 4. -/
def State.wakeWaiting (s : State) (p : Nat) : State :=
  match s.servingRec p with
  | none => s
  | some sv => (s.seqsOf p).foldl (fun (s : State) i => match s.seq i with
      | some x =>
        if x.state = 4 ∧ !((s.causes sv i x).contains x.wait) then s.setSeq i (some { x with state := if x.prompt = [] then 2 else 1, wait := 0 }) else s
      | none => s) s

def State.wakeAll (s : State) : State := s.liveParts.foldl State.wakeWaiting s

/-- ACCOUNT_REFILL (R301): none while the ledgers are frozen. -/
def execAccountRefill (s : State) : Host.Outcome State Fault Refusal := .next ((tabKeys s.srv.accts).foldl State.refill s).wakeAll

/-- ACCT_GRANT (R301): a write to SRV_ACCT_GRANT. -/
def execAcctGrant (v : Word) (s : State) : Host.Outcome State Fault Refusal := .next (s.grant v).wakeAll

/-! ### Homes and pages -/

/-- Free slots of group g at a keeper. -/
def Keeper.freeSlots (k : Keeper) (g : Nat) : Nat := ((List.range k.slots).filter fun i => !(k.slotTaken g i)).length

/-- The home with the most free slots; ties to the lowest RSEL, then the lowest GRP (R295). -/
def State.bestHome (s : State) (p model : Nat) : Option (Nat × Nat) :=
  match s.geometry p model with
  | none => none
  | some g =>
    let all := (List.range g.creg).flatMap fun r => (List.range (16 / g.csplit)).map fun q => (r, q)
    let free := fun (h : Nat × Nat) => match s.ownerOf p model h.1 with
      | some t => (s.keeper t).freeSlots h.2
      | none => 0
    (all.foldl (fun (b : Option ((Nat × Nat) × Nat)) h => match b with
      | none => some (h, free h)
      | some c => if c.2 < free h then some (h, free h) else some c) none).map (·.1)

/-- One keeper operation for each page of a list at region t. -/
def State.forPages (s : State) (t code : Nat) (l : List ListEntry) : State := l.foldl (fun (s : State) e => (s.kServe t code e.page 0 false).1) s

/-- REF of every page of a list: the state, or what it was when one is refused (those already taken are returned). -/
def State.refPages (s : State) (t : Nat) : List ListEntry → List ListEntry → Option State × State
  | [], _ => (some s, s)
  | e :: r, done =>
    let (u, a) := s.kServe t 2 e.page 0 false
    if a.status = 0 then u.refPages t r (done ++ [e]) else (none, u.forPages t 3 done)

/-! ### Adapters (R306 to R309) -/

def State.adapter (s : State) (i : Nat) : Adapter := tabGet Adapter.zero s.srv.adapters i

def State.setAdapter (s : State) (i : Nat) (x : Adapter) : State := { s with srv := { s.srv with adapters := tabSet Adapter.zero s.srv.adapters i x } }

/-- A retiring slot with no reference is freed; its GEN stays. -/
def State.settleAdapter (s : State) (i : Nat) : State :=
  let x := s.adapter i
  if x.state = 3 ∧ x.refs = 0 then s.setAdapter i { Adapter.zero with gen := x.gen } else s

def State.dropAdapter (s : State) (a : Option (Nat × Nat)) : State :=
  match a with
  | none => s
  | some (i, _) => (s.setAdapter i { s.adapter i with refs := (s.adapter i).refs - 1 }).settleAdapter i

/-- The active slot the directory of p gives for an ADID. -/
def State.activeSlot (s : State) (p adid : Nat) : Option Nat := tabFind (s.part p).adDir adid

/-! ### The end of a sequence (R299) -/

/-- A draft row leaves its unit's draft store. -/
def State.dropDraft (s : State) (d : Draft) : State :=
  match d.unit with
  | some u => s.setUnit u { s.unit u with draftRows := (s.unit u).draftRows - 1 }
  | none => s

/-- Steps 1 to 3 of R299, and the entry freed: no record is written here. -/
def State.dropSeq (s : State) (i : Nat) : State :=
  match s.seq i with
  | none => s
  | some x =>
    let s := if x.budgeted then s.ledger x.account (Ledger.return_ (x.heldPrefill + x.heldPass)) else s
    let s := s.dropAdapter x.adapter
    let s := if s.hostMode x.part 2 then
        let s := match s.ownerOf x.part x.model x.rsel with
          | some t => s.forPages t 3 x.list
          | none => s
        match s.ownerOf x.part x.dmodel x.rsel with
        | some t => s.forPages t 3 x.dlist
        | none => s
      else s
    let s := x.drafts.foldl State.dropDraft s
    let mine := (s.part x.part).heldCreates.filter fun h => decide (h.2.1 = i)
    let s := s.modPart x.part fun y => { y with heldCreates := y.heldCreates.filter fun h => decide (h.2.1 ≠ i) }
    let s := mine.foldl (fun (s : State) h => s.complete x.part 6 13 0 (leBytes 4 h.2.2.2.2) []) s
    s.setSeq i none

/-- A sequence ends with a status and no token. -/
def State.endSeq (s : State) (i status : Nat) : State :=
  match s.seq i with
  | none => s
  | some x => (s.dropSeq i).emitRecord x.part (outRecord i status 2 0xFFFFFFFF x.len 0 x.tag.toNat s.now)

/-! ### ADMIT (R294, R295) -/

def inRange (w : Word) (lo hi : FV → Bool) : Bool := !(f32 w).isNan && lo (f32 w) && hi (f32 w)

def fvZero : FV := .fin false 0 0
def fvOne : FV := .fin false 1 0

def admitParams (e : Bytes) : SampParams :=
  let w := fun (o : Nat) => BitVec.ofNat 32 (leAt e o 4)
  { seed := BitVec.ofNat 64 (leAt e 32 8), temp := w 40, topp := w 44, minp := w 48, repp := w 52, presp := w 56, freqp := w 60, topk := leAt e 64 2,
    pwin := leAt e 66 2, maxnew := leAt e 68 4, ruleset := byteAt e 72, mask := decide (byteAt e 1 / 32 % 2 = 1), logprob := decide (byteAt e 1 / 16 % 2 = 1),
    train := decide (byteAt e 1 / 8 % 2 = 1), spec := byteAt e 7 / 64, draftn := byteAt e 7 % 64 }

/-- Status 7 (Table 11-4). -/
def State.admitBad (s : State) (p : Nat) (sv : ServingRec) (e : Bytes) : Bool :=
  let m := admitParams e
  let any := fun (_ : FV) => true
  let ge0 := fun (x : FV) => !(x.lt fvZero)
  decide (byteAt e 1 % 8 ≠ 0) || decide (16 ≤ byteAt e 3) || decide (m.spec = 3) || (s.geometry p (byteAt e 6 / 16)).isNone
    || (decide (m.spec ≠ 0) && ((s.geometry p (byteAt e 6 % 16)).isNone || s.hostMode p 1))
    || (decide (m.spec = 1) && (decide (m.draftn = 0) || decide (15 < m.draftn)))
    || (decide (m.spec = 2) && decide (sv.trees.length ≤ m.draftn))
    || !(inRange m.temp ge0 any) || !(inRange m.topp (fun x => fvZero.lt x) fun x => !(fvOne.lt x)) || !(inRange m.minp ge0 fun x => x.lt fvOne)
    || !(inRange m.repp (fun x => !(x.lt fvOne)) any) || !(inRange m.presp ge0 any) || !(inRange m.freqp ge0 any)
    || decide (1024 < m.topk) || decide (256 < m.pwin) || decide (m.maxnew = 0) || decide (15 < m.ruleset)
    || decide (slice e 73 7 ≠ zeros 7) || (decide (leAt e 12 4 = 0) && decide (byteAt e 1 < 128))

/-- Entries a handle may be placed at (R283). -/
def probeIndex (h : Long) (k : Nat) : Nat :=
  let w := fun (i : Nat) => field h (16 * i + 15) (16 * i)
  ((w 0 ^^^ w 1 ^^^ w 2 ^^^ w 3) + k) % 65536

/-- The entry of a handle of partition p, and how many entries the search looked at. -/
def State.findHandle (s : State) (p : Nat) (h : Long) : Option (Nat × Prefix) × Nat :=
  let hit := (List.range 8).find? fun k => match tabFind s.kvc (probeIndex h k) with
    | some x => decide (x.handle = h) && decide (x.part = p)
    | none => false
  match hit with
  | some k => ((tabFind s.kvc (probeIndex h k)).map fun x => (probeIndex h k, x), k + 1)
  | none => (none, 8)

/-- Record the longest search, and the counts of Table 10-12. -/
def State.publishPrefix (s : State) (p probes : Nat) : State :=
  let s := s.setFld Reg.KVC_PFX_STAT 31 15 s.kvc.length
  let s := if s.fld Reg.KVC_PFX_STAT 3 0 < probes then s.setFld Reg.KVC_PFX_STAT 3 0 probes else s
  s.setFld (Reg.KVC_PFX p) 16 0 (s.kvc.filter fun e => decide (e.2.part = p)).length

/-- First free identifier. -/
def State.freeSeq (s : State) : Option Nat := (List.range 16384).find? fun i => (s.seq i).isNone

/-- A new entry for ADMIT e, before its home and pages. -/
def newSeq (p : Nat) (e : Bytes) (budgeted : Bool) : Seq :=
  { state := 0, wait := 0, part := p, account := leAt e 2 2 % 4096, tag := BitVec.ofNat 32 (leAt e 8 4), model := byteAt e 6 / 16, dmodel := byteAt e 6 % 16,
    rsel := 0, grp := 0, adapter := none, prm := admitParams e, len := 0, tlen := 0, dlen := 0, dtlen := 0, pending := 0,
    plen := leAt e 12 4, prompt := [], hist := [],
    committed := 0, heldPrefill := if budgeted then leAt e 12 4 else 0, heldPass := 0, budgeted := budgeted, list := [], dlist := [], drafts := [],
    draftDepth := 0, cycle := none, pass := none, run := 0, masks := [], aborting := none, ringHeld := 1 }

/-- The home, length and pages of a new sequence: a status, or the state with them. -/
def State.admitPages (s : State) (p : Nat) (sv : ServingRec) (i : Nat) (e : Bytes) (x : Seq) : Except Nat State :=
  if 128 ≤ byteAt e 1 then
    match s.findHandle p (BitVec.ofNat 64 (leAt e 24 8)) with
    | (none, _) => .error 5
    | (some (_, h), n) =>
      if h.model ≠ x.model then .error 6
      else if s.admitBad p sv e then .error 7
      else match s.ownerOf p h.model h.rsel with
        | none => .error 8
        | some t => match s.refPages t h.list [] with
          | (none, _) => .error 8
          | (some u, _) =>
            .ok ((u.setSeq i (some { x with rsel := h.rsel, grp := h.grp, len := h.lh, tlen := h.lh, dlen := h.lh, dtlen := h.lh, pending := h.token,
                                            list := h.list })).publishPrefix p n)
  else
    match s.bestHome p x.model with
    | none => .error 8
    | some (r, g) => match s.ownerOf p x.model r with
      | none => .error 8
      | some t =>
        let (u, a) := s.kServe t 1 0 g false
        if a.status = 0 then .ok (u.setSeq i (some { x with rsel := r, grp := g, list := [{ page := a.page, tent := false }] })) else .error 8

/-- ADMIT up to the prompt fetch: a status, or the state with the entry made. -/
def State.admitEntry (s : State) (p : Nat) (e : Bytes) : Except Nat (Nat × State) :=
  match s.servingRec p with
  | none => .error 9
  | some sv => match s.freeSeq with
    | none => .error 1
    | some i =>
      let ac := s.acct (leAt e 2 2 % 4096)
      let hw := !(s.hostMode p 0)
      let plen := leAt e 12 4
      let ad := decide (byteAt e 1 / 64 % 2 = 1)
      let slot := s.activeSlot p (leAt e 4 2)
      if (s.part p).seqmax ≠ 0 ∧ (s.part p).seqmax ≤ (s.seqsOf p).length then .error 1
      else if ac.en = false ∨ ac.key ≠ (s.part p).key then .error 2
      else if hw ∧ ac.led.bal < plen then .error 3
      else if ad ∧ slot.isNone then .error 4
      else if byteAt e 1 < 128 ∧ s.admitBad p sv e = true then .error 7
      else
        let room := s.outRoom p
        let x := newSeq p e hw
        let s := if hw then s.ledger x.account (Ledger.reserve plen) else s
        match s.admitPages p sv i e x with
        | .error n => .error n
        | .ok t => match t.seq i with
          | none => .error 8
          | some y =>
            if sv.ctxmax < y.len + plen + y.prm.maxnew then .error 11
            else if room = 0 then .error 12
            else
              let t := match ad, slot with
                | true, some k => (t.setAdapter k { t.adapter k with refs := (t.adapter k).refs + 1 }).setSeq i (some { y with adapter := some (k, (t.adapter k).gen) })
                | _, _ => t
              .ok (i, t)

/-- ADMIT (R295): with prompt tokens to fetch the sequence waits for PROMPT_FETCHED; a refused ADMIT changes nothing but its completion. -/
def execAdmit (p : Nat) (e : Bytes) (s : State) : Host.Outcome State Fault Refusal :=
  .next (if byteAt e 0 ≠ 1 then s
  else match s.takeRing p false e with
    | none => s
    | some s => match s.admitEntry p e with
      | .error n =>
        let s := if n = 5 then s.publishPrefix p 8 else s
        s.finish p e n
      | .ok (i, t) =>
        if leAt e 12 4 ≠ 0 then t
        else match t.seq i with
          | some x => (t.setSeq i (some { x with state := 2 })).cmdAnswer p e 0 (leBytes 2 i)
          | none => t)

/-- PROMPT_FETCHED (R295): the prompt's tokens, or a host fetch error, which undoes the admission with status 10. -/
def execPromptFetched (seq : Nat) (toks : Option (List Nat)) (s : State) : Host.Outcome State Fault Refusal :=
  .next (match s.seq seq with
    | none => s
    | some x =>
      if x.state ≠ 0 then s
      else match toks with
        | some l =>
          if l.length ≠ x.plen then s
          else (s.setSeq seq (some { x with prompt := l.map (· % 2 ^ 32), state := 1 })).complete x.part 1 0 0 (leBytes 4 x.tag.toNat) (leBytes 2 seq)
        | none =>
          let s := if s.hostMode x.part 2 then s
            else match s.ownerOf x.part x.model x.rsel with
              | some t => s.forPages t 3 x.list
              | none => s
          (s.dropSeq seq).complete x.part 1 10 0 (leBytes 4 x.tag.toNat) [])

/-! ### ABORT, MASK, CHOOSE -/

/-- ABORT (R299): at once, or at the commit of the pass the sequence is in. -/
def execAbort (p : Nat) (e : Bytes) (s : State) : Host.Outcome State Fault Refusal :=
  .next (if byteAt e 0 ≠ 2 then s
  else match s.takeRing p false e with
    | none => s
    | some s =>
      let i := leAt e 2 2 % 16384
      match s.servingRec p, s.liveSeq p i with
      | none, _ => s.finish p e 9
      | _, none => s.finish p e 13
      | some _, some x =>
        if x.state = 3 then (s.setSeq i (some { x with aborting := some 4 })).finish p e 0
        else ((s.endSeq i 4).finish p e 0).wakeWaiting p)

/-- The first unit with room in its store of 64 masks. -/
def State.maskUnit (s : State) : Option Nat := (List.range 8).find? fun u => decide (s.masksIn u < 64)

/-- MASK (R315): `bitmap` is what the fetch of VOCAB bits returned. A full store leaves the status open. -/
def execMask (p : Nat) (e : Bytes) (bitmap : Option Bytes) (s : State) : Host.Outcome State Fault Refusal :=
  .next (if byteAt e 0 ≠ 3 then s
  else match s.takeRing p false e with
    | none => s
    | some s =>
      let i := leAt e 2 2 % 16384
      match s.servingRec p, s.liveSeq p i with
      | none, _ => s.finish p e 9
      | _, none => s.finish p e 13
      | some _, some x =>
        if !x.prm.mask || decide (s.nextPos i x ≠ some (leAt e 12 4)) then s.finish p e 20
        else match bitmap with
          | none => s.finish p e 10
          | some b =>
            let keep := x.masks.filter fun m => decide (m.1 ≠ leAt e 12 4)
            let t := s.setSeq i (some { x with masks := keep })
            match t.maskUnit with
            | none => s.finish p e (Config.unstated 5 i % 256)
            | some u => ((t.setSeq i (some { x with masks := keep ++ [(leAt e 12 4, u, b)] })).finish p e 0).wakeWaiting p)

/-- CHOOSE (R484): the token of the sequence's row that awaits it. -/
def execChoose (p : Nat) (e : Bytes) (s : State) : Host.Outcome State Fault Refusal :=
  .next (if byteAt e 0 ≠ 8 then s
  else match s.takeRing p false e with
    | none => s
    | some s =>
      let i := leAt e 2 2 % 16384
      let tok := leAt e 16 4
      match s.servingRec p, s.liveSeq p i with
      | none, _ => s.finish p e 9
      | _, none => s.finish p e 13
      | some sv, some x =>
        if !(s.hostMode p 1) then s.finish p e 21
        else if sv.vocab ≤ tok then s.finish p e 22
        else match (s.part p).passes.find? fun y => decide (x.pass = some y.number) with
          | none => s.finish p e (Config.unstated 9 i % 256)
          | some y => match y.awaiting.find? fun r => decide ((y.rows[r]?).map (·.seq) = some i) with
            | none => s.finish p e (Config.unstated 9 i % 256)
            | some r =>
              (s.setPass p { y with awaiting := y.awaiting.filter fun q => decide (q ≠ r),
                                    results := y.results.map fun z => if z.row = r then { z with tok := some tok } else z }).finish p e 0)

/-! ### Adapter commands (R307, R308) -/

/-- Bytes of a generation: layers × 16 × APG pages. -/
def genBytes (img : Bytes) : Nat :=
  (((tensors img 0).map fun t => layerOf img 0 t + 1).foldl max 0) * 16 * adapterPages img 0 * 65536

/-- Address ranges of the generations the partition holds. -/
def State.genRanges (s : State) (p : Nat) : List (Nat × Nat) :=
  s.srv.adapters.filterMap fun e => if e.2.part = p ∧ e.2.state ≠ 0 then some (e.2.base, genBytes e.2.manifest) else none

/-- ADBASE for a generation: a free place in a writable extent, chosen by the device; none when there is no room. -/
def State.adBase (s : State) (p n : Nat) : Option Nat :=
  let exts := (s.part p).extents.map (·.2)
  let pages := exts.flatMap fun x => if x.write then (List.range (x.len * 16384)).map fun k => (96 * x.stack + x.base) * 2 ^ 30 + 65536 * k else []
  let start := Config.pick s.fresh % max 1 pages.length
  ((pages.drop start) ++ pages.take start).find? fun a =>
    s.rimAllowed p a n true && !((s.genRanges p).any fun g => decide (a < g.1 + g.2) && decide (g.1 < a + n))

/-- The engine takes up an adapter that waits for it (R307). -/
def State.adapterStart (s : State) : State :=
  if s.ing.part.isSome || s.load.isSome || (decide (s.ing.purpose = 1) && s.ing.closed && decide ((s.adapter s.ing.slot).state = 1)) then s
  else match s.srv.adapters.find? fun e => decide (e.2.state = 1) with
    | none => s
    | some (i, x) =>
      let n := genBytes x.manifest
      let base := s.adBase x.part n
      let s := ({ s with fresh := s.fresh + 1 }).setAdapter i { x with base := base.getD 0 }
      let s := ((s.openStream.wr Reg.LDR_ING_STAT (BitVec.ofNat 32 (x.part * 65536))).wr64 Reg.LDR_ING_BYTES_LO Reg.LDR_ING_BYTES_HI 0).ingState 1
      let prog := (tensors x.manifest 0).foldl (fun tb t => tabAdd tb t.index noProg) ([] : Tab TensorProg)
      let s := { s with ing := { part := some x.part, purpose := 1, slot := i, image := x.manifest, manifestAt := 0, tensors := prog, heldSince := none,
                                 bufs := [], closed := false } }
      match s.manifestBad x.part x.manifest 0 true with
      | some t => s.ingFail 8 t.index
      | none => if base.isNone then s.ingFail 11 0 else s

/-- Load a generation into slot i: state 1, GEN + 1 (R306, R307). -/
def State.loadSlot (s : State) (p i : Nat) (e manifest : Bytes) : State :=
  let x := s.adapter i
  (s.setAdapter i { state := 1, part := p, adid := leAt e 4 2, gen := (x.gen + 1) % 256, rank := leAt e 12 2, refs := 0, base := 0,
                    tag := BitVec.ofNat 32 (leAt e 8 4), manifest := manifest }).adapterStart

/-- A free adapter slot, whichever the device takes. -/
def State.freeSlot (s : State) : Option Nat := firstFree 2048 (Config.pick s.fresh % 2048) fun i => decide ((s.adapter i).state ≠ 0)

/-- ADAPTER_LOAD (R307, R308): `manifest` is what the fetch of the manifest returned. -/
def execAdapterLoad (p : Nat) (e : Bytes) (manifest : Option Bytes) (s : State) : Host.Outcome State Fault Refusal :=
  .next (if byteAt e 0 ≠ 4 then s
  else match s.takeRing p false e with
    | none => s
    | some s => match s.servingRec p, manifest with
      | none, _ => s.finish p e 9
      | _, none => s.finish p e 10
      | some _, some m => match s.freeSlot with
        | some i => ({ s with fresh := s.fresh + 1 }).loadSlot p i e m
        | none =>
          if byteAt e 1 % 2 = 1 then
            match s.activeSlot p (leAt e 4 2) with
            | none => s.finish p e 17
            | some i =>
              let bound := (s.srv.seqs.filter fun q => decide ((q.2.adapter.map (·.1)) = some i)).map (·.1)
              let s := bound.foldl (fun (s : State) q => s.endSeq q 5) s
              (s.modPart p fun x => { x with adDir := tabDrop x.adDir (leAt e 4 2) }).loadSlot p i e m
          else if 16 ≤ (s.part p).adQueue.length then s.finish p e 18
          else s.modPart p fun x => { x with adQueue := x.adQueue ++ [(e, m)] })

/-- ADAPTER_LOAD_DEQUEUE (R308): the oldest load that waits takes the slot that has become free; with none, an idle engine takes up a slot that
waits for it. -/
def execAdapterLoadDequeue (p : Nat) (s : State) : Host.Outcome State Fault Refusal :=
  .next (match (s.part p).adQueue, s.freeSlot with
    | (e, m) :: t, some i => ({ s.modPart p fun x => { x with adQueue := t } with fresh := s.fresh + 1 }).loadSlot p i e m
    | _, _ => s.adapterStart)

/-- ADAPTER_INGEST_DONE (R307): the engine has ended with `status` of Table 09-6. -/
def execAdapterIngestDone (slot status : Nat) (s : State) : Host.Outcome State Fault Refusal :=
  .next (
    let x := s.adapter slot
    let st := s.fld Reg.LDR_ING_STAT 31 29
    let ended := if st = 3 then decide (status = 0) else if st = 4 then decide (status = s.fld Reg.LDR_ING_STAT 27 24) else false
    if x.state ≠ 1 ∨ s.ing.purpose ≠ 1 ∨ s.ing.slot ≠ slot ∨ !ended then s
    else
      let s := { s with ing := Ingest.idle }
      if status = 0 then
        let s := s.setAdapter slot { x with state := 2 }
        let s := match s.activeSlot x.part x.adid with
          | some o => (s.setAdapter o { s.adapter o with state := 3 }).settleAdapter o
          | none => s
        let s := s.modPart x.part fun y => { y with adDir := tabAdd y.adDir x.adid slot }
        (s.complete x.part 4 0 0 (leBytes 4 x.tag.toNat) []).adapterStart
      else
        let s := s.setAdapter slot { Adapter.zero with gen := x.gen }
        (s.complete x.part 4 19 0 (leBytes 4 x.tag.toNat) (zeros 4 ++ leBytes 1 status)).adapterStart)

/-- ADAPTER_DROP (R307). -/
def execAdapterDrop (p : Nat) (e : Bytes) (s : State) : Host.Outcome State Fault Refusal :=
  .next (if byteAt e 0 ≠ 5 then s
  else match s.takeRing p false e with
    | none => s
    | some s => match s.servingRec p with
      | none => s.finish p e 9
      | some _ => match s.activeSlot p (leAt e 4 2) with
        | none => s.finish p e 0
        | some i =>
          let s := (s.setAdapter i { s.adapter i with state := 3 }).settleAdapter i
          (s.modPart p fun x => { x with adDir := tabDrop x.adDir (leAt e 4 2) }).finish p e 0)

/-! ### The prefix table (R283, R284, R296) -/

/-- Change the handle count of every page of a list (SHARED, R273). -/
def State.shareBy (s : State) (t : Nat) (l : List ListEntry) (f : Nat → Nat) : State :=
  l.foldl (fun (s : State) e =>
    let k := s.keeper t
    match k.find e.page with
    | some x => s.setKeeper t (k.put e.page { x with handles := f x.handles })
    | none => s) s

/-- CREATE(H, sequence, LH): the status, and the state after it. -/
def State.createHandle (s : State) (p : Nat) (h : Long) (i lh token : Nat) : State × Nat :=
  match s.liveSeq p i with
  | none => (s, 13)
  | some x => match s.findHandle p h with
    | (some _, n) => (s.publishPrefix p n, 14)
    | (none, _) => match (List.range 8).find? fun k => (tabFind s.kvc (probeIndex h k)).isNone with
      | none => (s.publishPrefix p 8, 15)
      | some k =>
        if x.prm.train ∨ x.len < lh ∨ lh = 0 then (s, 16)
        else match s.ownerOf p x.model x.rsel with
          | none => (s, 16)
          | some t =>
            let l := x.list.take (ceilDiv lh 64)
            match s.refPages t l [] with
            | (none, u) => (u, 16)
            | (some u, _) =>
              let e : Prefix := { handle := h, part := p, model := x.model, rsel := x.rsel, grp := x.grp, lh := lh, list := l,
                                  listAddr := Config.unstated 8 s.fresh, token := if lh = x.len then x.pending else token }
              let u := u.shareBy t l (· + 1)
              (({ u with kvc := tabAdd u.kvc (probeIndex h k) e, fresh := u.fresh + 1 }).publishPrefix p 8, 0)

/-- DELETE(H): the entry is freed, and its pages lose one REF each. -/
def State.deleteHandle (s : State) (p : Nat) (h : Long) : State × Nat :=
  match s.findHandle p h with
  | (none, _) => (s.publishPrefix p 8, 5)
  | (some (k, e), n) =>
    let s := { s with kvc := tabDrop s.kvc k }
    let s := match s.ownerOf p e.model e.rsel with
      | some t => (s.shareBy t e.list (· - 1)).forPages t 3 e.list
      | none => s
    (s.publishPrefix p n, 0)

/-- The held creates of a sequence that has no tentative entries any more are performed (R284). -/
def State.readyCreates (s : State) (p i : Nat) : State :=
  match s.seq i with
  | none => s
  | some x =>
    if x.tlen ≠ x.len then s
    else
      let mine := (s.part p).heldCreates.filter fun h => decide (h.2.1 = i)
      let s := s.modPart p fun y => { y with heldCreates := y.heldCreates.filter fun h => decide (h.2.1 ≠ i) }
      mine.foldl (fun (s : State) h =>
        let (t, st) := s.createHandle p h.1 i h.2.2.1 h.2.2.2.1
        t.complete p 6 st 0 (leBytes 4 h.2.2.2.2) []) s

/-- HCREATE (R284, R296): at once, or held until the commit at which TLEN = LEN. -/
def execHcreate (p : Nat) (e : Bytes) (s : State) : Host.Outcome State Fault Refusal :=
  .next (if byteAt e 0 ≠ 6 then s
  else match s.takeRing p false e with
    | none => s
    | some s =>
      let i := leAt e 2 2 % 16384
      let h := BitVec.ofNat 64 (leAt e 24 8)
      let lh := leAt e 12 4
      let token := leAt e 16 4
      match s.servingRec p, s.liveSeq p i with
      | none, _ => s.finish p e 9
      | _, none => s.finish p e 13
      | some sv, some x =>
        let t := (s.createHandle p h i lh token)
        if t.2 = 14 ∨ t.2 = 15 then t.1.finish p e t.2
        else if t.2 = 16 ∧ (x.prm.train ∨ x.len < lh ∨ lh = 0) then s.finish p e 16
        else if lh < x.len ∧ sv.vocab ≤ token then s.finish p e 22
        else if x.tlen ≠ x.len then s.modPart p fun y => { y with heldCreates := y.heldCreates ++ [(h, i, lh, token, leAt e 8 4)] }
        else t.1.finish p e t.2)

/-- HDELETE (R284, R296). -/
def execHdelete (p : Nat) (e : Bytes) (s : State) : Host.Outcome State Fault Refusal :=
  .next (if byteAt e 0 ≠ 7 then s
  else match s.takeRing p false e with
    | none => s
    | some s => match s.servingRec p with
      | none => s.finish p e 9
      | some _ =>
        let (t, st) := s.deleteHandle p (BitVec.ofNat 64 (leAt e 24 8))
        t.finish p e st)

/-- PREFIX_CREATE (R284): the operation of the prefix table. A create held for its sequence is performed with its completion once TLEN = LEN. -/
def execPrefixCreate (p : Nat) (handle : Long) (seq lh token : Nat) (s : State) : Host.Outcome State Fault Refusal :=
  .next (match s.servingRec p, s.liveSeq p seq with
    | some _, some x =>
      if x.tlen ≠ x.len then s
      else if (s.part p).heldCreates.any fun h => decide (h.2.1 = seq) then s.readyCreates p seq
      else (s.createHandle p handle seq lh token).1
    | _, _ => s)

end Sys2Proof.Machine
end

