-- ==== Sys2Proof/Machine/Pass.lean ====
section
/-! DEFINITION. Passes: batch requests, fallback reports and commits (R89 to R93, R286, R297, R298, R302, R303, R315 to R320). -/

namespace Sys2Proof.Machine

/-! ### Batches (R297, R298) -/

/-- A batch being built: rows, the sequences taken, the buffer, and whether none was free. -/
structure Batch where
  rows : List PassRow
  buf : Option (Nat × Nat)
  noBuf : Bool
  st : State

/-- The free pass buffer of the first unit in round-robin order from `start`. -/
def State.freeBuf (s : State) (start : Nat) : Option (Nat × Nat) :=
  ((List.range 8).flatMap fun i => [((start + i) % 8, 0), ((start + i) % 8, 1)]).find? fun b => (tabFind (s.unit b.1).bufs b.2).isNone

/-- May partition p take sampled rows now? Host-assisted sampling answers at most two passes, of different parity (R484). -/
def State.mayRun (s : State) (p : Nat) : Bool :=
  if s.hostMode p 1 then
    let open_ := (s.part p).passes.filter fun y => decide (0 < y.sampled)
    decide (open_.length < 2) && !(open_.any fun y => decide (y.number % 2 = (s.part p).nextPass % 2))
  else true

/-- Token a row takes in: a prompt token, the pending token, or the drafted one of its node. -/
def Seq.inputToken (x : Seq) (role node j : Nat) : Nat :=
  if role ≤ 1 then (x.prompt[j]?).getD 0
  else if node = 0 then x.pending
  else ((x.drafts.flatMap (·.kids)).find? fun k => decide (k.1 = node)).elim 0 (·.2)

/-- Consider sequence i for the batch. -/
def Batch.consider (b : Batch) (p : Nat) (sv : ServingRec) (model want pass : Nat) (i : Nat) : Batch :=
  let s := b.st
  match s.seq i with
  | none => b
  | some x0 =>
    let x := if x0.state = 4 ∧ !((s.causes sv i x0).contains x0.wait) then { x0 with state := if x0.prompt = [] then 2 else 1, wait := 0 } else x0
    let s := s.setSeq i (some x)
    if x.model ≠ model ∨ (x.state ≠ 1 ∧ x.state ≠ 2) then { b with st := s }
    else
      let pl := s.plan sv x
      if want < b.rows.length + pl.rows.length then { b with st := s }
      else match s.causes sv i x with
        | w :: _ => { b with st := s.setSeq i (some { x with state := 4, wait := w }) }
        | [] =>
          let buf := if pl.sampled && b.buf.isNone && !b.noBuf && s.mayRun p then s.freeBuf (s.part p).smpRound else b.buf
          if pl.sampled && buf.isNone then { b with st := s, noBuf := true }
          else
            let rows := ((List.range pl.rows.length).zip pl.rows).map fun e =>
              ({ seq := i, role := e.2.1, node := e.2.2.1, pos := e.2.2.2, tok := x.inputToken e.2.1 e.2.2.1 e.1 } : PassRow)
            let n := if x.budgeted then pl.credits else 0
            let s := if n = 0 then s else s.ledger x.account (Ledger.reserve n)
            let depth := match pl.rows with
              | (4, _) :: _ => 1
              | _ => 0
            let ver := pl.rows.any fun r => decide (r.1 = 3)
            let cyc := match pl.begin_ with
              | some d => some d
              | none => x.cycle
            let len' := if 0 < depth then x.len else if ver then x.len + pl.rows.length else x.tlen
            let y := { x with state := 3, wait := 0, pass := some pass, heldPass := x.heldPass + n, ringHeld := 1 + pl.records, cycle := cyc, tlen := len',
                              dtlen := if 0 < depth then x.len + (s.treeOf { x with cycle := cyc } (cyc.getD 0)).length else x.dtlen }
            let s := s.setSeq i (some y)
            let ac := s.acct x.account
            let s := s.setAcct x.account { ac with rowsMs := tabAdd ac.rowsMs p ((tabFind ac.rowsMs p).getD 0 + rows.length) }
            let s := s.modPart p fun q => { q with lastTaken := tabAdd q.lastTaken model (i + 1) }
            { b with rows := b.rows ++ rows, buf := buf, st := s }

/-- A row record (Table 11-5). -/
def State.rowBytes (s : State) (r : PassRow) : Bytes :=
  let x := s.seq r.seq
  let ad := match x.bind (·.adapter) with
    | some (k, g) => (32768 + k, g)
    | none => (0, 0)
  leBytes 2 r.seq ++ leBytes 1 r.role ++ leBytes 1 r.node ++ leBytes 4 r.tok ++ leBytes 4 r.pos ++ leBytes 2 ad.1 ++ leBytes 1 ad.2
    ++ leBytes 1 ((x.map (·.rsel)).getD 0 * 16 + (x.map (·.grp)).getD 0)

/-- A reply of the serving unit to the endpoint and address of an address word, with one counter increment (R297). Its key is the partition's; a
reply that names no endpoint of the partition is dropped and logged. Bytes beyond the core's AM are not written. -/
def State.reply (s : State) (p : Nat) (aw : Long) (cn : Nat) (d : Bytes) : State :=
  let id := awId aw
  let key := (s.part p).key
  let src := s.weltId .serving
  match s.lookup id with
  | none => s.violation 1 key src id 0 0 8
  | some e =>
    if e.key ≠ key then s.violation 2 key src id e.key 0 8
    else match e.port, s.last.phys e.x e.y with
      | .core n, some r => (match s.sliceKey r n with
        | some k => s.toCore k 0 (awAddr aw) (if awAddr aw + d.length ≤ 1048576 then d else []) (some cn)
        | none => s)
      | .seq, some r => (s.sramWrite r (awAddr aw % 262144) (d.take (262144 - awAddr aw % 262144))).scAdd r cn
      | _, _ => s

/-- BATCH_REQUEST (R297, R298): `g` is the granule sent. -/
def State.batchRequest (s : State) (p : Nat) (g : Bytes) : State :=
  match s.servingRec p with
  | none => s
  | some sv =>
    if s.srv.frozen then s
    else
      let model := byteAt g 8
      let want := min (byteAt g 9) sv.maxrows
      let x := s.part p
      let pass := x.nextPass
      let from_ := (tabFind x.lastTaken model).getD 0
      let ids := s.seqsOf p
      let order := (ids.filter fun i => decide (from_ ≤ i)) ++ ids.filter fun i => decide (i < from_)
      let ok := flag (s.rd (Reg.SRV_OUT_CFG p)) 31 && decide (0 < want)
      let b : Batch := (if ok then order else []).foldl (fun (b : Batch) i => b.consider p sv model want pass i) { rows := [], buf := none, noBuf := false, st := s }
      let s := b.st
      let n := b.rows.length
      let sampled := (List.range n).filter fun i => match b.rows[i]? with
        | some r => decide (r.role ≠ 0)
        | none => false
      let s := if n = 0 then s
        else s.modPart p fun q =>
          { q with nextPass := (pass + 1) % 2 ^ 32, smpRound := match b.buf with
              | some u => (u.1 + 1) % 8
              | none => q.smpRound,
                   passes := q.passes ++ [{ number := pass, model := model, rows := b.rows, unit := b.buf, results := [], fallbacks := 0, failed := false,
                                            awaiting := [] }] }
      let s := match b.buf with
        | some (u, k) =>
          let rows := sampled.foldl (fun t i => tabAdd t i SampRow.empty) ([] : Tab SampRow)
          s.setUnit u { s.unit u with bufs := tabAdd (s.unit u).bufs k { part := p, pass := pass, rows := rows, firstFlit := none, lastSent := 0, timedOut := false } }
        | none => s
      let hdr := leBytes 4 pass ++ leBytes 1 n ++ leBytes 1 ((b.buf.map (·.1)).getD 0) ++ leBytes 1 ((b.buf.map (·.2)).getD 0) ++ zeros 25
      s.reply p (BitVec.ofNat 64 (leAt g 0 8)) (byteAt g 10 % 16) (hdr ++ b.rows.flatMap s.rowBytes)

def execBatchRequest (p : Nat) (g : Bytes) (s : State) : Host.Outcome State Fault Refusal := .next (s.batchRequest p g)

/-! ### Fallback reports (R89 to R91) -/

def State.fallback (s : State) (p : Nat) (g : Bytes) : State :=
  match (s.part p).passes.find? fun y => decide (y.number = leAt g 0 4) && decide (y.model = byteAt g 7) with
  | some y => s.setPass p { y with fallbacks := y.fallbacks + 1, failed := y.failed || decide (byteAt g 6 % 2 = 1) }
  | none => s.bump (Reg.SRV_PARTSTAT p) 23 16

/-- FALLBACK_REPORT (R91). -/
def execFallbackReport (p : Nat) (g : Bytes) (s : State) : Host.Outcome State Fault Refusal :=
  .next (if (s.servingRec p).isNone then s else s.fallback p g)

/-! ### Commit (R93, R299, R302, R316 to R320) -/

/-- A token of a commit: it, the row that decided it, and whether it is an accepted draft. -/
structure Decided where
  tok : Nat
  row : Nat
  draft : Bool
  deriving DecidableEq, Repr

/-- A record of a commit before it is written: status, flags, token, position, log-probability. -/
structure Rec where
  status : Nat
  flags : Nat
  tok : Nat
  pos : Nat
  logprob : Word
  deriving DecidableEq, Repr

/-- Does a rule match the tokens committed? -/
def StopRule.hits (r : StopRule) (hist : List Nat) : Bool :=
  let n := r.toks.length
  (decide (r.kind = 1) || decide (r.kind = 2)) && decide (0 < n) && decide (n ≤ hist.length) && decide (hist.drop (hist.length - n) = r.toks)

/-- One committed token counts in precision pressure (R93, R94): the run counter, and at most one event until it returns to 0. `run` 65 stands for 64
with the event raised. -/
def State.pressure (s : State) (i pos count : Nat) : State :=
  match s.seq i with
  | none => s
  | some x =>
    let cfg := s.rd (Reg.GLB_PRECISION_CFG x.part)
    let s := if count = 0 then s else s.bump (Reg.GLB_PRECISION_STAT x.part) 15 0
    if count ≤ field cfg 7 0 then s.setSeq i (some { x with run := 0 })
    else
      let run := if x.run < 64 then x.run + 1 else x.run
      if run = 64 ∧ flag cfg 8 = true then
        (((s.setSeq i (some { x with run := 65 })).bump (Reg.GLB_PRECISION_STAT x.part) 23 16).logEvent 6 x.part
          (leBytes 2 i ++ zeros 2 ++ leBytes 4 pos)).signal 131
      else s.setSeq i (some { x with run := run })

/-- One recorded token: the ledger, the history, the pending token and the run counter, and its record. Statuses 1 to 3 carry FINAL. -/
def State.recordToken (s : State) (i : Nat) (y : Pass) (d : Decided) (pos status : Nat) : State × Rec :=
  match s.seq i with
  | none => (s, { status := status, flags := 0, tok := d.tok, pos := pos, logprob := 0 })
  | some x =>
    let s := s.ledger x.account fun l =>
      if x.budgeted then { l.spend 1 with tokOut := l.tokOut + 1 } else { l with unbudgeted := l.unbudgeted + 1, tokOut := l.tokOut + 1 }
    let hist := (x.hist ++ [d.tok]).drop (x.hist.length + 1 - 256)
    let s := s.setSeq i (some { x with hist := hist, committed := x.committed + 1, pending := d.tok, heldPass := x.heldPass - (if x.budgeted then 1 else 0) })
    let s := s.pressure i pos y.fallbacks
    let lp := match y.results.find? fun r => decide (r.row = d.row) with
      | some r => (match r.sent.find? fun e => decide (e.1 = d.tok) with
        | some e => logProb e.2 r.stats
        | none => f32NaN)
      | none => f32NaN
    (s, { status := status,
          flags := (if x.prm.logprob then 1 else 0) + (if 1 ≤ status ∧ status ≤ 3 then 2 else 0) + (if d.draft then 4 else 0) + (if 0 < y.fallbacks then 8 else 0),
          tok := d.tok, pos := pos, logprob := if x.prm.logprob then lp else 0 })

/-- Test, meter and record the tokens of one sequence's commit, the first at position `pos`: the records, and the status the sequence ends with. A
withheld token leaves the record before it as the final one. -/
def State.commitTokens (s : State) (i : Nat) (sv : ServingRec) (y : Pass) (pos : Nat) (recs : List Rec) : List Decided → State × List Rec × Option Nat
  | [] => (s, recs, none)
  | d :: t =>
    match s.seq i with
    | none => (s, recs, none)
    | some x =>
      let hist := (x.hist ++ [d.tok]).drop (x.hist.length + 1 - 256)
      match ((sv.rules[x.prm.ruleset]?).getD []).find? fun r => r.hits hist with
      | some r =>
        if r.incl then
          let (s, e) := s.recordToken i y d pos 1
          (s, recs ++ [e], some 1)
        else match recs.getLast? with
          | some l => (s, recs.dropLast ++ [{ l with status := 1, flags := l.flags + 2 }], some 1)
          | none => (s, [{ status := 1, flags := 2, tok := 0xFFFFFFFF, pos := pos, logprob := 0 }], some 1)
      | none =>
        let fin := if x.prm.maxnew ≤ x.committed + 1 then 2 else if sv.ctxmax < pos + 1 then 3 else 0
        let (s, e) := s.recordToken i y d pos (if fin = 0 then (if y.failed then 6 else 0) else fin)
        if fin = 0 then s.commitTokens i sv y (pos + 1) (recs ++ [e]) t else (s, recs ++ [e], some fin)

/-- The tokens of a job that stops: each with status 7, the last with FINAL (R346). -/
def State.stopTokens (s : State) (i : Nat) (y : Pass) (pos : Nat) (recs : List Rec) : List Decided → State × List Rec
  | [] => (s, recs)
  | d :: t =>
    let (s, e) := s.recordToken i y d pos 7
    s.stopTokens i y (pos + 1) (recs ++ [if t.isEmpty then { e with flags := e.flags + 2 } else e]) t

/-- What a pass decided for a sequence: accepted nodes by depth, the tokens in order, whether a row had no candidate, and LEN after it. -/
structure Outcome where
  nodes : List Nat
  toks : List Decided
  empty : Bool
  len : Nat
  deriving DecidableEq, Repr

def Pass.result (y : Pass) (row : Nat) : Option RowResult := y.results.find? fun r => decide (r.row = row)

/-- Rows of sequence i with their places in the pass. -/
def Pass.rowsOf (y : Pass) (i : Nat) : List (Nat × PassRow) := ((List.range y.rows.length).zip y.rows).filter fun e => decide (e.2.seq = i)

/-- Has every sampled row of sequence i been answered? -/
def Pass.answered (y : Pass) (i : Nat) : Bool :=
  (y.rowsOf i).all fun e => decide (e.2.role = 0) || ((y.result e.1).isSome && !(y.awaiting.contains e.1))

/-- The tokens a pass decides for sequence i. -/
def Pass.outcome (y : Pass) (i : Nat) (x : Seq) : Outcome :=
  let rows := y.rowsOf i
  if rows.any fun e => decide (e.2.role = 3) then
    let row := fun (v : Nat) => ((rows.find? fun e => decide (e.2.node = v)).map (·.1)).getD 0
    let w := fun (v : Nat) => ((y.result (row v)).map (·.weights)).getD []
    let (l, t, u) := acceptWalk x.prm.seed x.len w (fun v => x.drafts.find? fun d => decide (d.node = v)) 0 0 16
    let acc := l.map fun a => ({ tok := a.2.1, row := row a.2.2, draft := true } : Decided)
    match t with
    | some k => { nodes := l.map (·.1), toks := acc ++ [{ tok := k, row := row u, draft := false }], empty := false, len := x.len + l.length + 1 }
    | none => { nodes := l.map (·.1), toks := acc, empty := true, len := x.len + l.length + 1 }
  else
    let len := x.len + rows.length
    match rows.find? fun e => decide (e.2.role = 1 ∨ e.2.role = 2) with
    | some e => (match (y.result e.1).bind (·.tok) with
      | some k => { nodes := [], toks := [{ tok := k, row := e.1, draft := false }], empty := false, len := len }
      | none => { nodes := [], toks := [], empty := true, len := len })
    | none => { nodes := [], toks := [], empty := false, len := len }

/-- Prompt positions of a pass move from HELD to SPENT (R302, R303). -/
def State.meterPrompt (s : State) (i : Nat) (y : Pass) : State :=
  match s.seq i with
  | none => s
  | some x =>
    let n := ((y.rowsOf i).filter fun e => decide (e.2.role ≤ 1)).length
    if n = 0 then s
    else
      let s := s.ledger x.account fun l =>
        if x.budgeted then { l.spend n with tokIn := l.tokIn + n } else { l with unbudgeted := l.unbudgeted + n, tokIn := l.tokIn + n }
      s.setSeq i (some { x with prompt := x.prompt.drop n, heldPrefill := x.heldPrefill - (if x.budgeted then n else 0) })

/-- R286 on one list at region t: COMMIT of tentative pages below LEN', DEREF and removal of those beyond. -/
def State.trimList (s : State) (t len : Nat) (l : List ListEntry) : State × List ListEntry :=
  let keep := l.take (ceilDiv len 64)
  let s := s.forPages t 3 (l.drop (ceilDiv len 64))
  let s := (keep.filter (·.tent)).foldl (fun (s : State) e => (s.kServe t 7 e.page 0 false).1) s
  (s, keep.map fun e => { e with tent := false })

/-- A commit notice on the COMMIT ring (R319). -/
def State.notice (s : State) (p : Nat) (sv : ServingRec) (i model len tlen : Nat) : State :=
  match s.ridx p sv.commitRidx with
  | none => s
  | some r =>
    let n := (s.part p).commitNext
    let d := leBytes 2 i ++ leBytes 1 model ++ zeros 1 ++ leBytes 4 len ++ leBytes 4 tlen ++ zeros 4
    ((s.modPart p fun q => { q with commitNext := n + 1 }).sramWrite r ((sv.commitBase + 16 * (n % 2 ^ sv.commitLog2)) % 262144) d).scAdd r sv.commitCn

/-- What a commit fixes for both models of a sequence: by the serving unit when page walking is host-assisted, else by notice after a verification
pass. -/
def State.fixLength (s : State) (p : Nat) (sv : ServingRec) (i len : Nat) (verified : Bool) : State :=
  match s.seq i with
  | none => s
  | some x =>
    let spec := decide (x.prm.spec ≠ 0)
    let s :=
      if s.hostMode p 2 then
        let s := match s.ownerOf p x.model x.rsel with
          | some t =>
            let (s, l) := s.trimList t len x.list
            s.setSeq i (some { x with list := l })
          | none => s
        if spec then
          match s.seq i, s.ownerOf p x.dmodel x.rsel with
          | some z, some t =>
            let (s, l) := s.trimList t len z.dlist
            s.setSeq i (some { z with dlist := l })
          | _, _ => s
        else s
      else if verified then
        let s := s.notice p sv i x.model len x.tlen
        if spec then s.notice p sv i x.dmodel len x.dtlen else s
      else s
    match s.seq i with
    | some z => s.setSeq i (some { z with len := len, tlen := len, dlen := len, dtlen := len })
    | none => s

/-- The sequence goes on after a commit: its reservation returns, its cycle ends. -/
def State.release (s : State) (i : Nat) : State :=
  match s.seq i with
  | none => s
  | some x =>
    let s := if x.budgeted ∧ x.heldPass ≠ 0 then s.ledger x.account (Ledger.return_ x.heldPass) else s
    let s := x.drafts.foldl State.dropDraft s
    s.setSeq i (some { x with state := if x.prompt = [] then 2 else 1, pass := none, heldPass := 0, ringHeld := 1, cycle := none, draftDepth := 0,
                              drafts := [], masks := x.masks.filter fun m => decide (x.len + max x.prompt.length 1 ≤ m.1) })

/-- Write the records of a sequence in order. -/
def State.writeRecs (s : State) (p i : Nat) (tag : Word) (l : List Rec) : State :=
  l.foldl (fun (s : State) e => s.emitRecord p (outRecord i e.status e.flags e.tok e.pos e.logprob.toNat tag.toNat s.now)) s

/-- A draft pass: each row's drawn tokens, and its distribution while the unit's store of 512 rows has room (R317). -/
def State.commitDraft (s : State) (i : Nat) (y : Pass) : State :=
  match s.seq i with
  | none => s
  | some x =>
    let t := s.treeOf x (x.cycle.getD 0)
    let rows := y.rowsOf i
    if rows.any fun e => ((y.result e.1).map (·.weights)).getD [] = [] then s.endSeq i 9
    else
      let s := rows.foldl (fun (s : State) e =>
        match y.result e.1, s.seq i with
        | some r, some z =>
          let full := match y.unit with
            | some u => decide (512 ≤ (s.unit u.1).draftRows)
            | none => true
          let d : Draft := { node := e.2.node, weights := if full then [] else r.weights, unit := if full then none else y.unit.map (·.1),
                             kids := (kidsOf t e.2.node).zip r.draws }
          let s := match d.unit with
            | some u => s.setUnit u { s.unit u with draftRows := (s.unit u).draftRows + 1 }
            | none => s
          s.setSeq i (some { z with drafts := z.drafts ++ [d] })
        | _, _ => s) s
      match s.seq i with
      | some z => s.setSeq i (some { z with state := 2, pass := none, ringHeld := 1, draftDepth := z.draftDepth + 1 })
      | none => s

/-- The feedback of one sampled row (R320): written at once, or into its due item, which is now ready. -/
def State.sendFeedback (s : State) (p : Nat) (sv : ServingRec) (y : Pass) (row i : Nat) (d : Bytes) : State :=
  let (cores, seqs) := s.fbkTargets p sv
  if (s.part p).stall then
    s.modPart p fun x => { x with due := x.due.map fun q => match q.kind with
      | .feedback n r cs ss a cn _ => if n = y.number ∧ r = row then { q with kind := .feedback n r cs ss a cn d, ready := true } else q
      | _ => q }
  else s.feedback cores seqs (sv.fbkAddr + 32 * y.firstRow i) sv.fbkCn d

def feedbackBytes (i status n tok pos : Nat) (nodes : List Nat) : Bytes :=
  leBytes 2 i ++ leBytes 1 status ++ leBytes 1 n ++ leBytes 4 tok ++ leBytes 4 pos ++ zeros 4
    ++ (List.range 15).map (fun k => BitVec.ofNat 8 ((nodes[k]?).getD 255)) ++ zeros 1

/-- Commit what pass y decided for sequence i. A sequence that has ended since its rows were issued (a forced adapter load, R308) commits nothing. -/
def State.commitSeq (s : State) (p : Nat) (sv : ServingRec) (y : Pass) (i : Nat) : State :=
  let rows := (y.rowsOf i).filter fun e => decide (e.2.role ≠ 0)
  let fb := fun (s : State) (status n tok pos : Nat) (nodes : List Nat) =>
    rows.foldl (fun (s : State) e => s.sendFeedback p sv y e.1 i (feedbackBytes i status n tok pos nodes)) s
  match s.seq i with
  | none => fb s 5 0 0xFFFFFFFF 0 []
  | some x =>
    if x.part ≠ p ∨ x.state ≠ 3 ∨ x.pass ≠ some y.number then fb s 5 0 0xFFFFFFFF 0 []
    else match x.aborting with
      | some st => fb (s.endSeq i st) st 0 0xFFFFFFFF x.len []
      | none =>
        if rows.any fun e => decide (e.2.role = 4) then fb (s.commitDraft i y) 0 0 x.pending x.len []
        else
          let o := y.outcome i x
          let s := s.meterPrompt i y
          let (s, recs, fin) := s.commitTokens i sv y (o.len + 1 - o.toks.length - (if o.empty then 1 else 0)) [] o.toks
          let s := s.writeRecs p i x.tag recs
          let n := (recs.filter fun r => decide (r.tok ≠ 0xFFFFFFFF)).length
          let pend := ((s.seq i).map (·.pending)).getD 0
          let verified := rows.any fun e => decide (e.2.role = 3)
          match fin with
          | some st => fb (s.dropSeq i) st n pend (o.len) o.nodes
          | none =>
            if o.empty then
              let s := match s.seq i with
                | some z => s.setSeq i (some { z with len := o.len - 1 })
                | none => s
              fb (s.endSeq i 9) 9 n 0xFFFFFFFF o.len o.nodes
            else
              let s := ((s.fixLength p sv i o.len verified).release i).readyCreates p i
              fb s (if y.failed && !rows.isEmpty then 6 else 0) n pend o.len o.nodes

/-- Sequences of a pass in the order of their first rows. -/
def Pass.seqs (y : Pass) : List Nat := (y.rows.map (·.seq)).foldl (fun l i => if l.contains i then l else l ++ [i]) []

/-- PASS_COMMIT (R319): every sampled row of the pass has been answered. -/
def execPassCommit (p pass : Nat) (s : State) : Host.Outcome State Fault Refusal :=
  .next (match s.servingRec p, (s.part p).passes.find? fun y => decide (y.number = pass) with
    | some sv, some y =>
      if s.srv.frozen || !(y.seqs.all y.answered) then s
      else
        let s := s.modPart p fun q => { q with passes := q.passes.filter fun z => decide (z.number ≠ pass) }
        (y.seqs.foldl (fun (s : State) i => s.commitSeq p sv y i) s).wakeWaiting p
    | _, _ => s)

end Sys2Proof.Machine
end

