-- ==== Sys2Proof/Machine/Delivery.lean ====
section
/-! DEFINITION. FLIT_DELIVERY (R60, R177, R224): a flit at the end of its route is delivered to a core, or to the welt endpoint behind a stub. -/

namespace Sys2Proof.Machine

/-- An endpoint of the welt that takes no such flit refuses it with reason 5 (R224, R225). -/
def State.weltRefuse (s : State) (f : Flit) (r q : Nat) : State := s.violation 5 f.key f.src f.dest 0xFFFF r q

/-- A flit leaves the fabric through a stub for endpoint w; `none` while the endpoint holds it back (R492). -/
def State.weltDeliver (s : State) (f : Flit) (r q : Nat) (w : WeltEp) : Option State :=
  match w, s.keyOwner f.key with
  | .serving, some p =>
    if f.kind = .send ∧ f.data.length = 16 ∧ f.space = 0 ∧ f.raddr = 0 then some (if s.servingRec p = none then s.weltRefuse f r q else s.batchRequest p f.data)
    else if f.kind = .send ∧ f.data.length = 16 ∧ f.space = 0 ∧ f.raddr = 16 then some (if s.servingRec p = none then s.weltRefuse f r q else s.fallback p f.data)
    else some (s.weltRefuse f r q)
  | .sampling u, _ =>
    if f.kind = .send then some (s.candidateFlit u f.key f.src f.sentAt f.space f.raddr f.data f.ce) else some (s.weltRefuse f r q)
  | .edge k, _ => s.edgeSend k f.key f.src f.raddr f.data (decide (f.kind = .send))
  | _, _ => some (s.weltRefuse f r q)

/-- Deliver flit i, if it stands at an ejection for a core or at a stub. -/
def State.deliverFlit (s : State) (i : Nat) : State :=
  match s.fab.flits[i]? with
  | none => s
  | some f => match f.loc, s.lookup f.dest with
    | .eject r, some e => (match e.port with
      | .core n => (s.dropFlit i).deliverCore f r n e.key
      | _ => s)
    | .eject r, none => (s.dropFlit i).violation 1 f.key f.src f.dest 0 r 10
    | .welt r q, some e => (match e.port with
      | .welt w => ((s.dropFlit i).weltDeliver f r q w).getD s
      | _ => (s.dropFlit i).weltRefuse f r q)
    | .welt r q, none => (s.dropFlit i).weltRefuse f r q
    | _, _ => s

/-- FLIT_DELIVERY (R177, R224). -/
def execFlitDelivery (i : Nat) (s : State) : Host.Outcome State Fault Refusal := .next (s.deliverFlit i)

/-! ### Registers of the output ring and of precision pressure -/

/-- OUT_CI_WRITE (R323): backwards or past PI, it is ignored and counted. -/
def State.outConsume (s : State) (p : Nat) (v : Word) : State :=
  let ci := s.rd (Reg.SRV_OUT_CI p)
  let pi := s.rd (Reg.SRV_OUT_PI p)
  if (pi - ci).toNat < (v - ci).toNat then s.bump (Reg.SRV_PARTSTAT p) 31 24
  else (s.wr (Reg.SRV_OUT_CI p) v).wakeWaiting p

def execOutCiWrite (p : Nat) (v : Word) (s : State) : Host.Outcome State Fault Refusal :=
  .next (if s.weltDown then s else s.outConsume p v)

/-- OUT_CFG_WRITE (R323, R324): `off` 0 BASE_LO, 1 BASE_HI, 2 CFG. BASE and LOG2N keep their values while EN is 1; records held go out when EN
becomes 1. -/
def execOutCfgWrite (p off : Nat) (v : Word) (s : State) : Host.Outcome State Fault Refusal :=
  .next (if s.weltDown then s else
    let en := flag (s.rd (Reg.SRV_OUT_CFG p)) 31
    if off = 0 then (if en then s else s.writeRW (Reg.SRV_OUT_BASE_LO p) 0xFFFFFFC0 0x0000003F v)
    else if off = 1 then (if en then s else s.writeRW (Reg.SRV_OUT_BASE_HI p) 0xFFFFFFFF 0 v)
    else
      let s := s.writeRW (Reg.SRV_OUT_CFG p) (if en then 0x80000000 else 0x8000001F) (if en then 0x0000001F else 0) v
      if flag (s.rd (Reg.SRV_OUT_CFG p)) 31 then s.flushRecords p else s)

/-- PRECISION_CFG_WRITE (R94). -/
def execPrecisionCfgWrite (p : Nat) (v : Word) (s : State) : Host.Outcome State Fault Refusal :=
  .next (s.writeRW (Reg.GLB_PRECISION_CFG p) 0x000001FF 0 v)

end Sys2Proof.Machine
end

