-- ==== Sys2Proof/Machine/Loader.lean ====
section
/-! DEFINITION. The loader (R326 to R342, R349): load steps 0 to 6, the start of a job, and the RELEASE and power-limit commands.
Steps 0 to 5 and the beginning of step 6 are one command; step 7 is JOB_START (assumption 20). -/

namespace Sys2Proof.Machine

/-! ### Pools and registers of a placed region (R237, R269 to R271) -/

/-- The first geometry record that lists region `ridx`, with its r. -/
def geomOf (gs : List Geometry) (ridx : Nat) : Option (Geometry × Nat) :=
  gs.findSome? fun g => (g.layers.findSome? fun l => l.findIdx? fun e => decide (e.1 = ridx)).map fun r => (g, r)

/-- Does region `ridx` own pages: is it a region of the model's first layer? -/
def ownsPages (g : Geometry) (ridx : Nat) : Bool :=
  match g.layers with
  | l :: _ => l.any fun e => decide (e.1 = ridx)
  | [] => false

/-- Step 4 for one region: its pools and its cache registers; held weights that are not reused are released. -/
def State.setRegionUp (s : State) (p key ridx : Nat) (img : Bytes) (shape : Placed) (g : Placed) (gs : List Geometry) (all : List Placed) : State :=
  let reuse := s.reusable key img (shape.x, shape.y) g
  let s := if s.holds g.r && !reuse then s.releaseHeld g.r else s
  let w := p * 2 ^ 24 + g.wres * 2 ^ 19 + g.wpage * 2 ^ 14 + g.cache * 2 ^ 9 + g.adpt * 2 ^ 4 + (if reuse then 8 else 0)
    + (if s.releasing g.r then 2 else 0)
  let s := s.wr (Reg.RGNW_POOL g.r) (BitVec.ofNat 32 w)
  let s := s.setFld (Reg.RGNW_PWR_LIMIT g.r) 7 0 g.pw
  let s := [Reg.RGNW_CACHE_CFG g.r, Reg.RGNW_CACHE_ROWS g.r, Reg.RGNW_CACHE_SLOTS g.r, Reg.RGNW_PK_STAT g.r, Reg.RGNW_PK_FREE g.r,
    Reg.RGNW_PK_SFREE g.r, Reg.RGNW_PK_RFREE g.r, Reg.RGNW_LE_STAT g.r, Reg.RGNW_SQ_ESTAT g.r].foldl (fun s a => s.wr a 0) s
  let base : Region → Region := fun x =>
    { x with part := some p, ridx := ridx, dotmax := g.dotmax, pw := g.pw, dgroup := g.dgroup, traceWr := 0, windowDirty := false,
             keeper := Keeper.zero, overrun := false, cleanWindows := 0 }
  match geomOf gs ridx with
  | none => s.modRegion g.r base
  | some (m, rsel) =>
    let own := ownsPages m ridx
    let slots := m.slots all
    let cfg := Nat.log2 m.csplit * 2 ^ 29 + (if m.train then 2 ^ 28 else 0) + rsel * 2 ^ 24 + (m.estride / 64 - 1) % 64 * 2 ^ 18
      + m.prows % 512 * 2 ^ 9 + (if own then 2 ^ 8 else 0) + m.model * 2 ^ 4
    let s := s.wr (Reg.RGNW_CACHE_CFG g.r) (BitVec.ofNat 32 cfg)
    let s := s.wr (Reg.RGNW_CACHE_ROWS g.r) (BitVec.ofNat 32 (4096 * (g.wres + g.wpage) * 65536 + m.trows))
    let s := s.wr (Reg.RGNW_CACHE_SLOTS g.r) (BitVec.ofNat 32 slots)
    let s := s.modRegion g.r fun x =>
      { base x with keeper := if own then { Keeper.zero with owner := true, model := m.model, rsel := rsel, csplit := m.csplit, slots := slots,
                                                             rslots := m.rslots } else Keeper.zero }
    if own then s.publishKeeper g.r else s

/-! ### Step 5 (R331 to R333) -/

/-- Sequencer identifier of the region with index i. -/
def State.seqIdOf (s : State) (rs : List Placed) (i : Nat) : Nat :=
  match rs[i]? with
  | some g => s.idOf g.x g.y .seq
  | none => 0

def State.coreIdOf (s : State) (rs : List Placed) (i n : Nat) : Nat :=
  match rs[i]? with
  | some g => s.idOf g.x g.y (.core n)
  | none => 0

/-- value(KIND, ARG) of Table 12-5. -/
def State.patchValue (s : State) (p : Nat) (rs : List Placed) (o : Nat × Nat) (kind arg : Nat) : Option Nat :=
  match kind with
  | 1 => if arg / 256 < rs.length ∧ arg % 256 < 16 then some (s.coreIdOf rs (arg / 256) (arg % 16)) else none
  | 2 => if arg < rs.length then some (s.seqIdOf rs arg) else none
  | 3 => if arg = 0 then some (s.weltId .serving) else if arg ≤ 8 then some (s.weltId (.sampling (arg - 1))) else none
  | 4 => [o.1, o.2, s.last.lcols, rs.length, s.last.grade, (match s.boot.fuses with
      | some f => f.stepping
      | none => 0)][arg]?
  | 5 => (tabFind (s.part p).extents arg).map fun e => (96 * e.stack + e.base) * 2 ^ 30
  | _ => none

/-- The launch block of Table 12-4 for core n (16: the sequencer) of region i. -/
def State.launchBlock (s : State) (p : Nat) (rs : List Placed) (o : Nat × Nat) (img : Bytes) (i n role : Nat) : Bytes :=
  let g := (rs[i]?).map fun g => (g.x, g.y)
  let step := match s.boot.fuses with
    | some f => f.stepping
    | none => 0
  leBytes 2 (g.getD (0, 0)).1 ++ leBytes 2 (g.getD (0, 0)).2 ++ leBytes 1 (if n = 16 then 255 else n) ++ leBytes 1 p ++ leBytes 1 (imgIsa img)
    ++ leBytes 1 step ++ leBytes 1 s.last.grade ++ leBytes 1 0 ++ leBytes 2 (s.fld Reg.GLB_LAST_STAT 31 16) ++ leBytes 2 o.1 ++ leBytes 2 o.2
    ++ leBytes 2 s.last.lcols ++ leBytes 2 rs.length ++ leBytes 4 i ++ leBytes 4 (if n = 16 then s.seqIdOf rs i else s.coreIdOf rs i n)
    ++ leBytes 4 (s.seqIdOf rs i) ++ leBytes 4 (s.weltId .serving) ++ leBytes 2 role ++ zeros 26

/-- The endpoint directory (R332). -/
def State.directory (s : State) (rs : List Placed) : Bytes :=
  ((List.range rs.length).flatMap fun i =>
    ((List.range 16).flatMap fun n => leBytes 4 (s.coreIdOf rs i n)) ++ leBytes 4 (s.seqIdOf rs i))
    ++ leBytes 4 (s.weltId .serving) ++ (List.range 8).flatMap fun u => leBytes 4 (s.weltId (.sampling u))

/-- Write one core: registers zero, AM, WSB and IM as the role gives them. -/
def State.writeCore (s : State) (p : Nat) (rs : List Placed) (o : Nat × Nat) (img : Bytes) (cs : Contents) (i n role key : Nat) : State :=
  let get := fun t => (tabFind cs (65536 * t + role)).getD []
  let im := get 0
  let am := memWrite [] 0 (get 1)
  let am := if imgHasDir img then memWrite am (imgDir img) (s.directory rs) else am
  let am := memWrite am (imgLaunch img) (s.launchBlock p rs o img i n role)
  s.modCoreAt key fun c =>
    { c.cleared with part := some p, det := 0, am := am, wsb := memWrite [] 0 (get 3), im := memWrite [] 0 im, imSeen := memWrite [] 0 im,
                     imLen := im.length / 32, preds := 1 }

/-- Step 5 for region i: every core with a role, the idle cores, and the sequencer. -/
def State.writeRegion (s : State) (p : Nat) (rs : List Placed) (o : Nat × Nat) (img : Bytes) (cs : Contents) (i : Nat) (g : Placed) : State :=
  let s := ((List.range 16).zip g.roles).foldl (fun s e =>
    match s.physCore g.r e.1 with
    | none => s
    | some k =>
      if e.2 = 0xFFFF then s.modCoreAt (17 * g.r + k) fun c => { c.cleared with part := some p, det := 0 }
      else s.writeCore p rs o img cs i e.1 e.2 (17 * g.r + k)) s
  s.modRegion g.r fun x =>
    if g.prog = 0xFFFF then { x with seq := { Sequencer.zero with state := 0 } }
    else
      let sram := memWrite [] 0 ((tabFind cs (65536 * 2 + g.prog)).getD [])
      { x with seq := { Sequencer.zero with state := 1, sram := memWrite sram 0x3FFC0 (s.launchBlock p rs o img i 16 g.prog) } }

/-- The cores of a region that have a role and no power, as a mask for its wake (R360, R361). -/
def State.toWake (s : State) (g : Placed) : BitVec 18 :=
  ((List.range 16).zip g.roles).foldl (fun m e =>
    match s.physCore g.r e.1 with
    | some k => if e.2 ≠ 0xFFFF ∧ !(s.coreAt (17 * g.r + k)).powered then setField m k k 1 else m
    | none => m) 0

/-- Ask for the wake of a set of headers; the stages follow as WAKE_STAGE_REQUEST and WAKE_STAGE_GRANT. -/
def State.askWake (s : State) (r : Nat) (m : BitVec 18) : State :=
  if m = 0 then s
  else s.modRegion r fun g =>
    { g with wake := match g.wake with
        | some (old, st, t, w) => some (old ||| m, st, t, w)
        | none => some (m, 0, s.time, none) }

/-- Load step 5 (R331 to R333): the patched contents, or `none` for a refused patch. -/
def State.step5 (s : State) (p : Nat) : Option State :=
  let x := s.part p
  let img := x.image
  let rs := x.placed
  let o := originOf img rs
  match applyPatches (s.patchValue p rs o) (pieces 16 (sectBytes img 6 0)) (patchable img) with
  | none => none
  | some cs =>
    let s := ((List.range rs.length).zip rs).foldl (fun s e => s.writeRegion p rs o img cs e.1 e.2) s
    some (rs.foldl (fun s g => s.askWake g.r (s.toWake g)) s)

/-! ### The load -/

/-- The job's fields of a partition from its image (Table 12-1). -/
def partOf (img : Bytes) (key : Nat) : Part :=
  let wl := leAt img 12 4
  let st := leAt img 26 2
  { Part.zero with key := key, isa := imgIsa img, qmode := imgQmode img, stall := decide (imgXmode img = 1), traceOn := imgTrace img,
                   waitLimit := if wl = 0 then 4194304 else wl, rimDue := leAt img 16 2, smpDue := leAt img 18 2,
                   stopTmo := if st = 0 then 1000 else st, seqmax := leAt img 30 2, serving := servingRec img, image := img,
                   identity := imageIdentity img, modelId := modelIdentity img, nBridles := leAt (sectBytes img 8 0) 0 4,
                   nTrees := leAt (sectBytes img 9 0) 0 4 }

/-- The pending last takes effect when no partition stands on a touched column (R28, R29). -/
def State.applyPending (s : State) : State :=
  match s.pendLast with
  | none => s
  | some l =>
    let busy := s.liveParts.any fun p => (s.part p).placed.any fun g => touched s.last l (g.r % 32)
    if busy then s
    else
      let old := s.last
      let gen := nextGen (s.fld Reg.GLB_LAST_STAT 31 16)
      let s := { s with last := l, pendLast := none }
      let s := (s.publishLast).setFld Reg.GLB_LAST_STAT 31 16 gen
      let s := (s.logEvent 5 gen [BitVec.ofNat 8 l.lcols]).signal 133
      let s := (List.range 896).foldl (fun s r =>
        if touched old l (r % 32) then
          let s := if s.holds r then s.releaseHeld r else s
          if l.inGrid r && decide ((s.region r).pstate = 0) && !s.dead r && !(old.inGrid r) then s.askWake r (setField (0 : BitVec 18) 17 17 1) else s
        else s) s
      s.assignEndpoints

/-- Every core and sequencer of the shape listed with direction 1 or 2 on both rings (R482, ROUTE). -/
def allListed (img : Bytes) (n : Nat) : Bool :=
  let tbl := routeTable img
  let ok := fun (d : Nat × Nat) => decide (d.1 = 1 ∨ d.1 = 2) && decide (d.2 = 1 ∨ d.2 = 2)
  (List.range n).all fun i => ok (dirsFor tbl true i 0) && (List.range 16).all fun k => ok (dirsFor tbl false i k)

/-- The rim slots of a geometry lie in writable granted extents (R271). -/
def slotsGranted (exts : List Extent) (g : Geometry) : Bool :=
  decide (g.rslots = 0) || g.layers.all fun l => l.all fun e =>
    match exts[e.2 / 2 ^ 28]? with
    | some x => x.write && decide (e.2 % 2 ^ 28 + g.rslots * g.csplit * g.prows ≤ x.len * 2 ^ 20)
    | none => false

/-- A geometry record with its rim bases in KiB of rim memory (R336). -/
def relocate (exts : List Extent) (g : Geometry) : Geometry :=
  { g with layers := g.layers.map fun l => l.map fun e =>
      match exts[e.2 / 2 ^ 28]? with
      | some x => (e.1, (96 * x.stack + x.base) * 2 ^ 20 + e.2 % 2 ^ 28)
      | none => (e.1, e.2 % 2 ^ 28) }

def State.loadStep (s : State) (n : Nat) : State := s.setFld Reg.LDR_STAT 30 28 n

/-- Steps 4 to 6 for a placement and its extents. -/
def State.bind (s : State) (p key : Nat) (img : Bytes) (rs : List Placed) (exts : List Extent) : State :=
  let s := s.loadStep 4
  let o := originOf img rs
  let shape := shapeRegions (sectBytes img 1 0)
  let gs := (geometries img).map (relocate exts)
  let s := s.modPart p fun x => { x with placed := rs, geoms := gs, extents := (List.range exts.length).zip exts }
  let fresh := exts.filter fun e => e.shared && !(s.rim.sharedExts.any fun q => decide (q.stack = e.stack ∧ q.base = e.base))
  let s := { s with rim := { s.rim with sharedExts := s.rim.sharedExts ++ fresh } }
  let s := s.wr (Reg.LDR_PART_SHAPE p) (BitVec.ofNat 32 (o.1 * 2 ^ 26 + o.2 * 2 ^ 21 + shapeW (sectBytes img 1 0) * 2 ^ 15
    + shapeH (sectBytes img 1 0) * 2 ^ 10 + rs.length % 1024))
  let s := s.setFld (Reg.LDR_PART_BUDGET p) 15 0 (ceilDiv ((rs.map (·.pw)).foldl (· + ·) 0) 4)
  match (s.giveEndpoints p key rs (routeTable img)).buildTables key img rs with
  | none => s.refuseLoad p 9 0
  | some s =>
    let s := ((List.range rs.length).zip (shape.zip rs)).foldl (fun s e => s.setRegionUp p key e.1 img e.2.1 e.2.2 gs rs) s
    let s := s.loadStep 5
    match s.step5 p with
    | none => s.refuseLoad p 8 0
    | some s => (s.loadStep 6).startIngest p img

/-- Step 3: the pending last, the placement, the power check and the extents. -/
def State.placeLoad (s : State) (p : Nat) (img : Bytes) (cmd : Option (Nat × Nat)) : State :=
  let s := (s.loadStep 3).applyPending
  let key := (s.keyEntry p).1
  let img2 := checkImage img (match s.boot.fuses with
    | some f => f.stepping
    | none => 0) (if s.lastFinal then s.last.grade else 3) s.last.lcols
  if img2 ≠ 0 then s.refuseLoad p img2 0
  else if key = 0 ∨ !(s.modelAllowed (modelIdentity img) (s.keyEntry p).2) then s.refuseLoad p 14 0
  else match s.choose p key img cmd with
    | none => s.refuseLoad p 6 0
    | some rs =>
      let sum := s.committedPw + (rs.map (·.pw)).foldl (· + ·) 0
      if 4 * min 30000 (s.fld Reg.LDR_PWR_LIMIT 15 0) < 10000 + sum then s.refuseLoad p 10 0
      else match s.grantAll key img (extRequests img) [] with
        | .error n => s.refuseLoad p n 0
        | .ok exts =>
          if !((s.modPart p fun x => { x with placed := rs, extents := (List.range exts.length).zip exts }).routesClear p) then s.refuseLoad p 6 0
          else if !((geometries img).all (slotsGranted exts)) then s.refuseLoad p 11 0
          else if s.fld (Reg.GLB_PMODE p) 21 16 / 32 = 1 ∧ !(allListed img rs.length) then s.refuseLoad p 9 0
          else s.bind p key img rs exts

/-- An accepted LOAD (R337 to R339). `image` is what a read of LDR_IMG_LEN bytes at the latched address returned. -/
def State.doLoad (s : State) (v : Word) (image : Option Bytes) : State :=
  let p := field v 27 22
  if flag (s.rd Reg.LDR_STAT) 31 || !flag (s.rd Reg.STG_STAT) 31 then s.bump Reg.LDR_STAT 15 8
  else if s.pstate p ≠ 0 then (s.setFld (Reg.LDR_PART p) 28 24 13).loadFinished
  else
    let s := ((s.setFld Reg.LDR_STAT 31 31 1).setFld Reg.LDR_STAT 27 22 p).setPState p 1
    let s := ((s.wr (Reg.LDR_PART_SHAPE p) 0).wr (Reg.LDR_PART_PWR p) 0).wr (Reg.LDR_PART_BUDGET p) 0
    let s := s.setFld (Reg.GLB_PMODE p) 21 16 (s.fld (Reg.GLB_PMODE p) 5 0)
    let s := s.loadStep 1
    match image with
    | none => s.refuseLoad p 16 0
    | some b =>
      let img := b.take (s.rd Reg.LDR_IMG_LEN).toNat
      let f := checkFormat img
      if f ≠ 0 then s.refuseLoad p f 0
      else
        let cmd := if flag v 21 then some (field v 20 15, field v 14 10) else none
        let s := { s with load := some { p := p, port := 0, image := img, placed := [], stopAsked := false, waitingIngest := true } }
        let s := s.setPart p (partOf img (s.keyEntry p).1)
        let c := checkImage img (match s.boot.fuses with
          | some f => f.stepping
          | none => 0) (if s.lastFinal then s.last.grade else 3) s.last.lcols
        if c ≠ 0 then s.refuseLoad p c 0 else s.placeLoad p img cmd

/-- LOAD (R337): LDR_CMD with OP 1; another OP in this command changes nothing. -/
def execLoad (v : Word) (image : Option Bytes) (s : State) : Host.Outcome State Fault Refusal :=
  .next (if field v 31 28 = 1 then (s.reservedBits 0 v 0x000003FF).doLoad v image else s)

/-! ### Step 7 and what the host commands beside a load -/

/-- Is the load ready to start: weights sealed (R239), no release under way, every core awake? -/
def State.startReady (s : State) (p : Nat) : Bool :=
  s.allSealed p && s.ing.part.isNone && (s.part p).placed.all fun g => !s.releasing g.r && (s.region g.r).wake.isNone

/-- Start every core with a role and every sequencer with a program (R338). -/
def State.startPart (s : State) (p : Nat) : State :=
  let rs := (s.part p).placed
  let keys := rs.flatMap fun g => ((List.range 16).zip g.roles).filterMap fun e =>
    if e.2 = 0xFFFF then none else (s.physCore g.r e.1).map (17 * g.r + ·)
  let s := keys.foldl (fun s k => s.modCoreAt k fun c => if c.powered && c.phase = .idle then { c with phase := .running, now := 0, nextIssue := 0, pc := 0 } else c) s
  let s := rs.foldl (fun s g => s.modRegion g.r fun x =>
    if g.prog = 0xFFFF then x else { x with seq := { x.seq with state := 2, pc := 0, x := [] } }) s
  s.modPart p fun x => { x with started := keys, epoch := 0, wall := 0, stalls := [], detours := [], detourNow := none, walked := [], lateRun := none, stretch := [], due := [] }

/-- The per-partition counts that clear when a job is loaded (R94, R209, R291, R324). -/
def State.clearJobRegs (s : State) (p : Nat) : State :=
  let s := s.wr (Reg.GLB_PRECISION_STAT p) (BitVec.ofNat 32 ((s.part p).qmode * 2 ^ 30))
  [Reg.GLB_LOCK_EPOCH_LO p, Reg.GLB_LOCK_EPOCH_HI p, Reg.GLB_LOCK_STALL p, Reg.GLB_LOCK_EVT p, Reg.KVC_PFX p, Reg.KVC_PG p, Reg.SRV_OUT_PI p,
    Reg.SRV_OUT_CI p, Reg.SRV_PARTSTAT p].foldl (fun s a => s.wr a 0) s

/-- JOB_START (R338): step 7 of the load under way. -/
def execJobStart (s : State) : Host.Outcome State Fault Refusal :=
  .next (match s.load with
    | none => s
    | some l =>
      if !s.startReady l.p then s
      else if l.stopAsked then s.refuseLoad l.p 15 0
      else
        let s := s.loadStep 7
        let s := s.clearJobRegs l.p
        let s := (s.startPart l.p).setPState l.p 2
        let s := ((s.loadStatus l.p 0 0).loadFinished)
        let s := { s with load := none, ing := Ingest.idle }
        match (s.part l.p).heldReason with
        | some r => s.stopPart l.p r
        | none => s)

/-- KILL (R345, R349). -/
def execKill (v : Word) (s : State) : Host.Outcome State Fault Refusal :=
  .next (if field v 31 28 = 2 then (s.reservedBits 0 v 0x000003FF).stopPart (field v 27 22) 2 else s)

/-- Release held weights of one region, unless a partition uses it. -/
def State.releaseFree (s : State) (r : Nat) : State :=
  if s.holds r && (s.region r).part.isNone then s.releaseHeld r else s

/-- RELEASE (R240, R349). -/
def execRelease (v : Word) (s : State) : Host.Outcome State Fault Refusal :=
  .next (if field v 31 28 = 3 then
    let s := s.reservedBits 0 v 0x000003FF
    if flag v 21 then
      match s.last.phys (field v 20 15) (field v 14 10) with
      | some r => s.releaseFree r
      | none => s
    else (List.range 896).foldl State.releaseFree s
  else s)

/-- LDR_PWR_LIMIT (R342, R349): reads back as written. -/
def execLdrPwrLimitWrite (v : Word) (s : State) : Host.Outcome State Fault Refusal :=
  .next (s.writeRW Reg.LDR_PWR_LIMIT 0x0000FFFF 0 v)

end Sys2Proof.Machine
end

