-- ==== Sys2Proof/Machine/Spare.lean ====
section
/-! DEFINITION. The spare procedure (R426, R427): taking the spare, its place in the queue, and its steps on serving, pages and weights. -/

namespace Sys2Proof.Machine

/-- The unused and working spare of region r takes the place of physical core k, which serves logical core k (R17, R62). -/
def State.takeSpare (s : State) (r k : Nat) (p : Option Nat) : State :=
  (s.modCoreAt (17 * r + 16) fun c => { c with logical := some k, part := p }).modRegion r fun g => { g with spareFor := some k }

def State.spareFree (s : State) (r : Nat) : Bool := (s.region r).spareFor.isNone && !(s.coreFailed r 16)

def State.repairState (s : State) (n : Nat) : State := s.setFld Reg.FLT_REPAIR 31 29 n

/-- The procedure begins for partition p (R427 step 1, and the wake of step 2). -/
def State.spareBegin (s : State) (p r k : Nat) : State :=
  let s := s.stopPart p 9
  let other := decide (s.pstate p ≠ 1) && decide (s.ersn p ≠ 9)
  let s := { s with flt := { s.flt with current := some (p, 17 * r + k, if other then 1 else 0), shipSince := none } }
  let s := s.wr Reg.FLT_REPAIR (BitVec.ofNat 32 (2 ^ 29 + p * 2 ^ 23 + r % 32 * 2 ^ 18 + r / 32 * 2 ^ 13 + k * 2 ^ 8 + s.flt.queue.length))
  if (s.coreAt (17 * r + 16)).powered then s else s.askWake r (setField (0 : BitVec 18) 16 16 1)

/-- The next failure that waits. A region whose partition has ended, or ends, takes its spare at once. -/
def State.spareNext (s : State) : List (Nat × Nat) → State
  | [] => ({ s with flt := { s.flt with queue := [] } }).wr Reg.FLT_REPAIR 0
  | (r, k) :: t =>
    let s := { s with flt := { s.flt with queue := t } }
    match s.owner r with
    | some p =>
      if s.pstate p = 1 ∨ s.pstate p = 2 then s.spareBegin p r k
      else ((s.takeSpare r k (some p)).modRegion r fun g => { g with heldBad := true }).spareNext t
    | none => ((if s.holds r then s.releaseHeld r else s).takeSpare r k none).spareNext t

/-- The procedure under way is over. -/
def State.spareOver (s : State) : State :=
  let s := { s with flt := { s.flt with current := none, shipSince := none } }
  s.spareNext s.flt.queue

/-! ### Serving, step 3 -/

/-- Is (RSEL, GRP) a home with parts in logical core n of region r, for some model of the partition? -/
def State.homeIn (s : State) (p r n rsel grp : Nat) : Bool :=
  (s.part p).geoms.any fun g => decide (grp = n / g.csplit) && g.layers.any fun l =>
    decide ((l[rsel]?).bind (fun e => s.ridx p e.1) = some r)

/-- One sequence in step 3: out of its pass with its reservation returned; ended with status 10 where its home is lost. -/
def State.spareSeq (s : State) (p r n : Nat) (sv : ServingRec) (i : Nat) : State :=
  match s.seq i with
  | none => s
  | some x =>
    if x.state = 0 then s
    else if s.homeIn p r n x.rsel x.grp then s.endSeq i 10
    else if x.state ≠ 3 then s
    else
      let s := (s.fixLength p sv i x.len false).release i
      match s.seq i, x.aborting with
      | some _, some st => s.endSeq i st
      | some y, none => s.setSeq i (some { y with state := 2 })
      | none, _ => s

/-- Step 3: nothing of the pass is committed, its buffers are free, and handles with a lost home are deleted. -/
def State.spareServing (s : State) (p r n : Nat) : State :=
  match (s.part p).serving with
  | none => s
  | some sv =>
    let s := (s.seqsOf p).foldl (fun (s : State) i => s.spareSeq p r n sv i) s
    let lost := (s.kvc.filter fun e => decide (e.2.part = p) && s.homeIn p r n e.2.rsel e.2.grp).map (·.2.handle)
    let s := lost.foldl (fun (s : State) h => (s.deleteHandle p h).1) s
    let s := (List.range 8).foldl (fun (s : State) u => s.setUnit u { s.unit u with bufs := (s.unit u).bufs.filter fun b => decide (b.2.part ≠ p) }) s
    s.modPart p fun x => { x with passes := [] }

/-! ### Pins, step 4 -/

/-- No copy or move is under way at a keeper of partition p. -/
def State.movesDone (s : State) (p : Nat) : Bool := (s.part p).placed.all fun g => (s.keeper g.r).moves = []

/-- PIN is 0 in every record; pages left at REF 0 are reclaimed. -/
def State.clearPins (s : State) (p : Nat) : State :=
  (s.part p).placed.foldl (fun (s : State) g =>
    let k := s.keeper g.r
    if !k.owner then s
    else
      let k := { k with heldPins := [] }
      let k := k.recs.foldl (fun (k : Keeper) e => k.settle e.1 { e.2 with pin := 0 }) k
      (s.setKeeper g.r k).publishKeeper g.r) s

/-! ### Weights, step 5 -/

/-- Entries of tensor t placed on logical core n of region r. -/
def State.placesOn (s : State) (p r n : Nat) (img : Bytes) (t : Tensor) : List Nat :=
  if t.paged then []
  else (List.range t.nplace).filter fun e =>
    let pl := placeAt img t e
    decide (pl.n = n) && decide ((s.placedAt p pl.x pl.y).map (·.r) = some r)

/-- Rows of these entries of tensor t from its shadow image; none when a granule cannot be read or a digest differs. -/
def State.coreFromShadow (s : State) (r n : Nat) (img : Bytes) (t : Tensor) : List Nat → Option State
  | [] => some s
  | e :: es =>
    let pl := placeAt img t e
    let (d, bad) := s.rimRead (t.rimEntry e) (1024 * t.groupRows)
    if 0 < bad ∨ (sha512 d).take 8 ≠ pl.digest then none else (s.writeRows r n pl.row d).coreFromShadow r n img t es

/-- Step 5: the repair slice starts zero and takes the rows that shadows hold; the tensors still to be shipped. -/
def State.spareWeights (s : State) (p r n : Nat) : State × List Nat :=
  let img := (s.part p).image
  let s := s.modCoreAt (17 * r + 16) fun c => { c with slice := [] }
  match manifestAt img with
  | none => (s, [])
  | some m => (tensors img m).foldl (fun (a : State × List Nat) t =>
      let es := a.1.placesOn p r n img t
      if es = [] then a
      else match (if t.shadow && a.1.rimHeld p t then a.1.coreFromShadow r n img t es else none) with
        | some s => (s, a.2)
        | none => (a.1, a.2 ++ [t.index])) (s, [])

/-- STATE 4: the ingest engine waits for the tensors `todo`. -/
def State.spareShip (s : State) (p r n : Nat) (todo : List Nat) : State :=
  let img := (s.part p).image
  match manifestAt img with
  | none => s
  | some m =>
    let s := ((s.openStream.wr Reg.LDR_ING_STAT (BitVec.ofNat 32 (p * 65536))).wr64 Reg.LDR_ING_BYTES_LO Reg.LDR_ING_BYTES_HI 0).ingState 1
    let prog := (tensors img m).foldl (fun tb t => tabAdd tb t.index { next := 0, done := !(todo.contains t.index), acc := [] }) ([] : Tab TensorProg)
    ({ s with ing := { part := some p, purpose := 2, slot := 17 * r + n, image := img, manifestAt := m, tensors := prog, heldSince := none, bufs := [],
                       closed := false },
              flt := { s.flt with shipSince := some s.time } }).repairState 4

/-- Step 6: STATE 5 in host-assisted mode, else STATE 6. -/
def State.spareHold (s : State) : State := s.repairState (if s.hostReact then 5 else 6)

/-! ### The step command -/

/-- Steps 2 to 5, once every core has halted and the spare has woken. -/
def State.spareSteps (s : State) (p key : Nat) : State :=
  let r := key / 17
  let n := key % 17
  let running := (s.part p).started.any fun k => decide ((s.coreAt k).phase = .running)
  if s.pstate p ≠ 3 ∨ running then s
  else if !(s.coreAt (17 * r + 16)).powered ∨ (s.region r).wake.isSome ∨ !(s.movesDone p) ∨ s.ing.part.isSome ∨ s.load.isSome then s.repairState 2
  else
    let s := (s.takeSpare r n (some p)).repairState 3
    let s := (s.spareServing p r n).clearPins p
    let (s, todo) := s.spareWeights p r n
    if todo = [] then s.spareHold else s.spareShip p r n todo

/-- What SPARE_PROCEDURE_STEP does: steps 2 to 5, or the end of the host's shipment. With no procedure under way the next failure is taken up. -/
def State.spareStep (s : State) (shipped : Bool) : State :=
  match s.flt.current with
  | none => if s.flt.queue = [] then s else s.spareNext s.flt.queue
  | some (p, key, flag_) =>
    if flag_ ≠ 0 then s
    else match s.fld Reg.FLT_REPAIR 31 29 with
      | 1 => s.spareSteps p key
      | 2 => s.spareSteps p key
      | 4 =>
        if shipped && decide (s.ing.purpose = 2) && s.ing.part.isNone && s.ing.closed then
          ({ s with ing := Ingest.idle, flt := { s.flt with shipSince := none } }).spareHold
        else s
      | _ => s

/-- The partition resumes (step 7): load step 5 again for every core and sequencer, then step 7. ERSN keeps 9. -/
def State.spareResume (s : State) : State :=
  match s.flt.current with
  | some (p, _, 0) =>
    if s.fld Reg.FLT_REPAIR 31 29 ≠ 6 ∨ s.pstate p ≠ 3 then s
    else match s.step5 p with
      | none => s
      | some t =>
        let t := (t.part p).placed.foldl (fun (t : State) g => t.modRegion g.r fun x =>
          { x with emissions := [], moves := [], le := ListEngine.idle, ringSlot := [], ringHigh := [] }) t
        let t := (t.startPart p).modPart p fun x =>
          { x with stopPending := false, stopEpoch := none, stopTime := none, heldReason := none, uncorrectable := false }
        (t.setPState p 2).spareOver
  | _ => s

end Sys2Proof.Machine
end

