-- ==== Sys2Proof/Machine/JobEnd.lean ====
section
/-! DEFINITION. The end of a job (R345, R346, R420, R459 to R461): the forced halt, the end of its serving, and the end of zeroization. -/

namespace Sys2Proof.Machine

/-- STOP_TIMEOUT (R346 step 2): STOP_TMO after the stop became pending, cores that have not halted halt, and FORCED reads 1. -/
def execStopTimeout (p : Nat) (s : State) : Host.Outcome State Fault Refusal :=
  .next (
    let x := s.part p
    match s.pstate p, x.stopTime with
    | 3, some t =>
      let late := x.started.filter fun k => decide ((s.coreAt k).phase = .running)
      if late = [] ∨ !(s.elapsed t (1000 * x.stopTmo)) then s
      else (late.foldl (fun (s : State) k => s.modCoreAt k fun c => { c with phase := .haltedTB }) s).setFld (Reg.LDR_PART p) 15 15 1
    | _, _ => s)

/-- How one sequence of a stopping job ends (R346 step 4, R420): tokens already chosen for its pass are committed with status 7. -/
def State.endServed (s : State) (p i : Nat) : State :=
  match s.seq i with
  | none => s
  | some x =>
    if s.srv.frozen then s.dropSeq i
    else if x.state = 0 then (s.dropSeq i).complete p 1 9 0 (leBytes 4 x.tag.toNat) []
    else if (s.part p).uncorrectable then s.endSeq i (if x.pass.isSome then 8 else 7)
    else match x.aborting, (s.part p).passes.find? fun y => decide (x.pass = some y.number) with
      | some st, _ => s.endSeq i st
      | none, none => s.endSeq i 7
      | none, some y =>
        let o := y.outcome i x
        if y.answered i ∧ o.toks ≠ [] then
          let (s, recs) := (s.meterPrompt i y).stopTokens i y (o.len + 1 - o.toks.length - (if o.empty then 1 else 0)) [] o.toks
          (s.writeRecs p i x.tag recs).dropSeq i
        else s.endSeq i 7

/-- Serving ends for partition p: its sequences, and its adapter loads under way or waiting, which complete with status 9. -/
def State.endServing (s : State) (p : Nat) : State :=
  let s := (s.seqsOf p).foldl (fun (s : State) i => s.endServed p i) s
  let loads := (s.srv.adapters.filter fun e => decide (e.2.part = p ∧ e.2.state = 1)).map fun e => leBytes 4 e.2.tag.toNat
  let queued := (s.part p).adQueue.map fun e => slice e.1 8 4
  let s := s.modPart p fun x => { x with adQueue := [], passes := [] }
  (loads ++ queued).foldl (fun (s : State) t => s.complete p 4 9 0 t []) s

/-- Assist entries still under way for partition p complete (R477): their regions are no longer its placement. -/
def State.endAssists (s : State) (p : Nat) : State :=
  (tabGet Rings.zero s.hif.rings p).busy.foldl (fun (s : State) e => s.complete p e.1 2 1 (leBytes 4 e.2) []) s

/-- Steps 4 and 5 of R346; a spare procedure under way for p is over. -/
def State.endJob (s : State) (p : Nat) : State :=
  let s := ((s.endServing p).endAssists p).beginZeroize p
  match s.flt.current with
  | some (q, _, _) => if q = p then ({ s with ing := if s.ing.purpose = 2 then Ingest.idle else s.ing }).spareOver else s
  | none => s

/-- Partition p is in a spare procedure that goes on (R426). -/
def State.sparing (s : State) (p : Nat) : Bool :=
  match s.flt.current with
  | some (q, _, f) => decide (q = p) && decide (f = 0)
  | none => false

/-- ALL_CORES_HALTED (R346 steps 3 to 5): no started core runs. -/
def execAllCoresHalted (p : Nat) (s : State) : Host.Outcome State Fault Refusal :=
  .next (if s.pstate p ≠ 3 ∨ s.sparing p ∨ (s.part p).started.any fun k => decide ((s.coreAt k).phase = .running) then s
  else s.endJob p)

/-- Cores of a region of an ended job stay powered while the governor needs their filler (R414). -/
def State.restRegion (s : State) (r : Nat) : State :=
  let needed := match s.thm.demandLast with
    | some t => !(s.elapsed t 1000000)
    | none => false
  if needed || decide ((s.region r).pstate ≠ 2) then s
  else (s.mapCores r fun _ c => c.switchedOff).modRegion r fun g => { g with pstate := 1, wake := none }

/-- ZEROIZE_DONE (R459 to R461): every item has read back as zero; `verifyFailed` names the cores with a granule that failed twice, whose regions
die with cause 7. -/
def execZeroizeDone (p : Nat) (verifyFailed : List Nat) (s : State) : Host.Outcome State Fault Refusal :=
  .next (if s.pstate p ≠ 4 then s
  else
    let rs := (s.part p).placed.map (·.r)
    let bad := rs.filter fun r => !(s.dead r) && verifyFailed.any fun k => decide (k / 17 = r)
    let t0 := match (s.part p).stopTime with
      | some t => t.toNat
      | none => s.now
    let s := rs.foldl (fun (s : State) r => s.clearRegion r) s
    let s := s.freePart p
    let s := s.logEvent 20 p (leBytes 4 (s.now - t0) ++ [if bad = [] then 0 else 1])
    let s := bad.foldl (fun (s : State) r => s.regionDies r 7 none) s
    let s := rs.foldl (fun (s : State) r => s.restRegion r) s
    if s.flt.current.isNone && !(s.flt.queue.isEmpty) then s.spareNext s.flt.queue else s)

/-- RIM_CLEAR_DONE (R459): the oldest extent being cleared is clear and free; RIMZ reads 0 once none remains. -/
def execRimClearDone (s : State) : Host.Outcome State Fault Refusal :=
  .next (match s.rim.clearing with
    | [] => s
    | e :: t =>
      let s := { s with rim := { s.rim with clearing := t, mem := memClear s.rim.mem ((96 * e.stack + e.base) * 2 ^ 30) (e.len * 2 ^ 30) } }
      if t = [] then s.setFld Reg.MGT_STAT 27 27 0 else s)

end Sys2Proof.Machine
end

