-- ==== Sys2Proof/Machine/Faults.lean ====
section
/-! DEFINITION. Faults, recovery, core failure and the in-service test (chapter 16): what the fault controller's commands and timers do. -/

namespace Sys2Proof.Machine

/-! ### The watchdog and recovery (R422, R424, R432) -/

/-- MGMT_WATCHDOG_EXPIRE (R422): 100 ms have passed without a kick. The watchdog is stopped during ST0 and ST1 and while bring-up is halted. -/
def execMgmtWatchdogExpire (s : State) : Host.Outcome State Fault Refusal :=
  .next (if s.boot.alwaysOn = false ∨ s.boot.stage = some 0 ∨ s.boot.stage = some 1 ∨ s.boot.haltedIn.isSome = true then s else s.deviceFatal 43 0)

/-- QUIET, s; 0 acts as 1. -/
def State.quiet (s : State) : Nat := max 1 (s.fld Reg.FLT_CFG 15 8)

/-- Have QUIET seconds passed since the last device-fatal fault? -/
def State.quietOver (s : State) : Bool :=
  match s.flt.lastFatal with
  | some t => s.elapsed t (1000000000 * s.quiet)
  | none => false

def State.showRecent (s : State) : State := s.setFld Reg.FLT_STAT 29 27 (min 4 s.flt.recent.length)

/-- A restart by recovery is accepted (Table 16-5). -/
def State.recover (s : State) : State :=
  let s := (s.acceptRestart 3).bump Reg.FLT_STAT 15 0
  ({ s with flt := { s.flt with recoverAsked := false, recent := s.flt.recent ++ [s.time] } }).showRecent

/-- May a recovery begin now: fatal for another reason than the latched shutdown, and no restart under way? -/
def State.mayRecover (s : State) : Bool := flag (s.rd Reg.FLT_STAT) 31 && decide (s.flt.lastFatalSource ≠ 42) && !(flag (s.rd Reg.THM_STAT) 31) && !s.starting

/-- RECOVERY_QUIET_EXPIRE (R424): automatic when armed and in hardware mode, or asked for by OP 2. -/
def execRecoveryQuietExpire (s : State) : Host.Outcome State Fault Refusal :=
  .next (if s.mayRecover && s.quietOver && (s.flt.recoverAsked || (flag (s.rd Reg.FLT_STAT) 30 && !s.hostReact)) then s.recover else s)

/-- RECENT_RECOVERY_EXPIRE (R424): recoveries 3,600 s old leave RECENT. -/
def execRecentRecoveryExpire (s : State) : Host.Outcome State Fault Refusal :=
  .next ({ s with flt := { s.flt with recent := s.flt.recent.filter fun t => !(s.elapsed t 3600000000000) } }).showRecent

def State.cmdDrop (s : State) : State := s.bump Reg.FLT_FATAL 23 16

/-- REARM (R424, R432): OP 1 arms automatic recovery and forgets recent recoveries. -/
def execRearm (v : Word) (s : State) : Host.Outcome State Fault Refusal :=
  .next (if field v 31 28 ≠ 1 then s
  else
    let s := s.reservedBits 0 v 0x003FFFFF
    (({ s with flt := { s.flt with recent := [] } }).showRecent).setFld Reg.FLT_STAT 30 30 1)

/-- RECOVER (R424): OP 2, at once after the quiet period, else at its end. -/
def execRecover (v : Word) (s : State) : Host.Outcome State Fault Refusal :=
  .next (if field v 31 28 ≠ 2 then s
  else
    let s := s.reservedBits 0 v 0x003FFFFF
    if !s.mayRecover then s.cmdDrop
    else if s.quietOver then s.recover
    else { s with flt := { s.flt with recoverAsked := true } })

/-! ### The spare procedure's commands (R427, R432) -/

/-- Does a procedure wait in one of these states for partition p? -/
def State.repairWaits (s : State) (p : Nat) (states : List Nat) : Bool :=
  match s.flt.current with
  | some (q, _, _) => decide (q = p) && states.contains (s.fld Reg.FLT_REPAIR 31 29)
  | none => false

/-- RESUME_REPAIR (R427): OP 3 on a procedure in STATE 5. -/
def execResumeRepair (v : Word) (s : State) : Host.Outcome State Fault Refusal :=
  .next (if field v 31 28 ≠ 3 then s
  else
    let s := s.reservedBits 0 v 0x003FFFFF
    if s.repairWaits (field v 27 22) [5] then s.repairState 6 else s.cmdDrop)

/-- END_REPAIR (R427): OP 4 on a procedure in STATE 4 or 5; the partition ends. -/
def execEndRepair (v : Word) (s : State) : Host.Outcome State Fault Refusal :=
  .next (if field v 31 28 ≠ 4 then s
  else
    let s := s.reservedBits 0 v 0x003FFFFF
    if s.repairWaits (field v 27 22) [4, 5] then s.endJob (field v 27 22) else s.cmdDrop)

/-- SPARE_PROCEDURE_STEP (R427 steps 2 to 5). -/
def execSpareProcedureStep (shipped : Bool) (s : State) : Host.Outcome State Fault Refusal := .next (s.spareStep shipped)

/-- SPARE_SHIPMENT_TIMEOUT (R427 step 5): 60 s without the host's tensors. -/
def execSpareShipmentTimeout (s : State) : Host.Outcome State Fault Refusal :=
  .next (match s.flt.current, s.flt.shipSince with
    | some (p, _, _), some t => if s.fld Reg.FLT_REPAIR 31 29 = 4 ∧ s.elapsed t 60000000000 = true then s.endJob p else s
    | _, _ => s)

/-- JOB_RESUME (R427 step 7). -/
def execJobResume (s : State) : Host.Outcome State Fault Refusal := .next s.spareResume

/-! ### Core failure (R426) -/

/-- Physical core `key` fails in service. -/
def State.coreFails (s : State) (key : Nat) : State :=
  let r := key / 17
  let k := key % 17
  if s.dead r || s.coreFailed r k then s
  else
    let inj := s.injArmed 6 (some r)
    let s := if inj then s.injCount 1 else s
    let used := !(s.spareFree r)
    let owner := s.owner r
    let s := s.failCore r k
    if k = 16 ∧ !used then s.deferredD 23 none 32 (coreLocus key) inj
    else if used then s.regionDies r 4 owner
    else match owner with
      | none => (((if s.holds r then s.releaseHeld r else s).takeSpare r k none)).deferredD 23 none 32 (coreLocus key) inj
      | some p =>
        let s := (s.countClass 2).writeRecord inj 2 32 p 9 (coreLocus key)
        let s := { s with flt := { s.flt with queue := s.flt.queue ++ [(r, k)] } }
        if s.flt.current.isNone then s.spareNext s.flt.queue else s.setFld Reg.FLT_REPAIR 7 0 s.flt.queue.length

/-- CORE_FAILURE (R426): a parity error, or a second failure of an in-service slice. -/
def execCoreFailure (c : CoreId) (s : State) : Host.Outcome State Fault Refusal := .next (s.coreFails (CoreId_key c))

/-! ### The in-service test (R428, R429, R433) -/

/-- First core from `k` on that has not failed. -/
def State.istNext (s : State) (r k : Nat) : Option Nat := ((List.range 17).drop k).find? fun j => !(s.coreFailed r j)

/-- Regions under test: alive and powered. DONE counts those whose pass counter has left the wafer's; when all have, the wafer's advances. -/
def State.istWafer (s : State) : State :=
  let live := (tabKeys s.regions).filter fun r => decide (r < 896) && !(s.dead r) && decide ((s.region r).pstate ≠ 0)
  let w := s.fld Reg.FLT_IST 31 24
  let done := (live.filter fun r => decide (s.fld (Reg.RGNW_IST r) 20 13 ≠ w)).length
  if done = live.length then (s.bump Reg.FLT_IST 31 24).setFld Reg.FLT_IST 9 0 0 else s.setFld Reg.FLT_IST 9 0 done

/-- The slice under test is done: the next slice, core or pass. -/
def State.istAdvance (s : State) (r : Nat) : State :=
  let a := Reg.RGNW_IST r
  if s.fld a 26 21 < 63 then s.bump a 26 21
  else
    let s := s.setFld a 26 21 0
    match s.istNext r (s.fld a 31 27 + 1) with
    | some j => s.setFld a 31 27 j
    | none => (((s.setFld a 31 27 ((s.istNext r 0).getD 0)).bump a 20 13).modRegion r fun g => { g with istStart := some s.time }).istWafer

/-- The calibration check of a suspect pair in its core's window (R398, R429). -/
def State.istSensors (s : State) (key : Nat) (agree : Bool) : State :=
  if !(s.coreAt key).suspect then s
  else if agree then
    let s := s.modCoreAt key fun c => { c with suspect := false, suspectSince := none, missingSince := none }
    ((s.suspectCap (key / 17)).showKt (key / 17)).announce (key / 17)
  else s.deferred 17 none (coreLocus key)

/-- The window of a stall-mode partition is an announced stall of 20 µs (R203, R428). -/
def State.istStall (s : State) (p : Nat) : State :=
  let x := s.part p
  if x.stall then s.setPart p { x with stalls := x.stalls ++ [(x.wall + 64, x.wall + 63 + 2000 * s.coreTenths)] } else s

/-- Outcome of the window's slice: `kind` 1 the core's, 2 of a part outside the cores. A first failure is run again, a second is the failure of
the core or the death of the region. -/
def State.istOutcome (s : State) (r key : Nat) (pass : Bool) (kind : Nat) : State :=
  let was := (s.region r).istFailed
  let repeated := decide (was ≠ 0) && (pass || decide (was ≠ kind))
  let s := if repeated then s.deferred 22 none (if was = 1 then coreLocus key else regionLocus r) else s
  if pass then (s.modRegion r fun g => { g with istFailed := 0 }).istAdvance r
  else
    let s := s.bump (Reg.RGNW_IST r) 12 5
    if was = kind then
      let s := (s.modRegion r fun g => { g with istFailed := 0 }).istAdvance r
      if kind = 1 then s.coreFails key else s.regionDies r 7 (s.owner r)
    else s.modRegion r fun g => { g with istFailed := kind }

/-- IST_WINDOW (R428, R429): `pass` the window's slices pass; else `uncore` says that the part outside the cores failed. A partition that runs
takes windows only while IST_PERIOD is not 0. -/
def execIstWindow (r : Nat) (pass uncore sensorsAgree : Bool) (s : State) : Host.Outcome State Fault Refusal :=
  .next (
    let runs := match s.owner r with
      | some p => if s.pstate p = 2 then decide (s.fld Reg.FLT_CFG 23 16 ≠ 0) else false
      | none => true
    if !runs || s.dead r || decide ((s.region r).pstate = 0) || (s.region r).poweringDown then s
    else match s.istNext r (s.fld (Reg.RGNW_IST r) 31 27) with
      | none => s
      | some k =>
        let s := (s.setFld (Reg.RGNW_IST r) 31 27 k).modRegion r fun g => { g with istStart := some (g.istStart.getD s.time) }
        let s := match s.owner r with
          | some p => s.istStall p
          | none => s
        (s.istSensors (17 * r + k) sensorsAgree).istOutcome r (17 * r + k) pass (if uncore then 2 else 1))

/-! ### Registers (R432) -/

/-- FLT_CFG_WRITE (R432): a change of IST_PERIOD is logged with code 14. -/
def execFltCfgWrite (v : Word) (s : State) : Host.Outcome State Fault Refusal :=
  .next (
    let was := s.fld Reg.FLT_CFG 23 16
    let s := s.writeRW Reg.FLT_CFG 0x00FFFF00 0 v
    if s.fld Reg.FLT_CFG 23 16 = was then s else s.logEvent 14 (s.fld Reg.FLT_CFG 23 16) [])

/-- The fault ring entry selected. -/
def State.fltEntry (s : State) : Bytes := tabGet (zeros 16) s.flt.ring (s.fld Reg.FLT_LOG_IDX 7 0)

/-- FLT_LOG_DATA0_READ (R432): bytes 4 to 15 are captured for the same host port. -/
def execFltLogData0Read (port : Nat) (s : State) : Host.Outcome State Fault Refusal :=
  .next ((List.range 3).foldl (fun (s : State) i => s.capture port (Reg.FLT_LOG_DATA (i + 1)) (BitVec.ofNat 32 (leAt s.fltEntry (4 * (i + 1)) 4))) s)

/-! ### Injection (R430) -/

/-- Does Table 16-8 refuse this class or mask? -/
def injRefused (cls : Nat) (mask : Word) : Bool :=
  let n := (bitsOf (BitVec.ofNat 17 mask.toNat)).length
  if cls < 4 then decide (n = 0) || decide (3 < n)
  else if cls = 6 then !(flag mask 0)
  else if cls < 8 then decide (n = 0) else true

/-- An inverted comparison of the invariant checkers in scope is found at once. -/
def State.injCompare (s : State) : State :=
  let w := s.rd Reg.FLT_INJ_CFG
  if !(flag w 31) || decide (field w 29 26 ≠ 7) then s
  else if flag w 30 then (s.injCount 1).ledgerViolation 1 0 true
  else
    let r := 32 * field w 20 16 + field w 25 21
    if (s.keeper r).owner then (s.injCount 1).keeperViolation r 1 true else s

/-- FAULT_INJECT_ARM (R430): refused while test mode is off, for a refused class or mask. -/
def execFaultInjectArm (v : Word) (s : State) : Host.Outcome State Fault Refusal :=
  .next (if !s.sec.testMode || (flag v 31 && injRefused (field v 29 26) (s.rd Reg.FLT_INJ_MASK)) then s.bump Reg.FLT_INJ_STAT 31 24
  else if flag v 31 then ((s.wr Reg.FLT_INJ_CFG v).setFld Reg.FLT_INJ_STAT 15 0 0).injCompare
  else s.wr Reg.FLT_INJ_CFG v)

/-! ### Scratchpad scrub (R58) -/

/-- SCRATCHPAD_SCRUB (R58): a codeword of a scratchpad, or of the region's sequencer SRAM or keeper memory, is read in an idle cycle, and a
correction is written back. The content the model holds is the corrected content. -/
def execScratchpadScrub (c : CoreId) (st : Store) (addr : Nat) (chk : CodeCheck) (s : State) : Host.Outcome State Fault Refusal :=
  .next (
    let core := fun (space : Nat) => ((s.core c).powered, 1, scratchWords c.k space addr 1)
    let x : Bool × Nat × List Nat := match st with
      | .am => core 0
      | .wsb => core 1
      | .psm => core 2
      | .im => core 3
      | .seqSram => (decide ((s.region c.r).pstate ≠ 0), 3, codewords 0 addr 1)
      | .keeper => (decide ((s.region c.r).pstate ≠ 0), 3, [])
    let (on, cls, ws) := x
    let inj := s.injHit cls c.r ws
    if !on then s
    else match chk with
      | .clean => s
      | .corrected _ => (s.corrected 1 (regionLocus c.r) inj).modRegion c.r fun g => { g with injected := g.injected.filter fun e => !(decide (e.1 = cls) && ws.contains e.2) }
      | .uncorrectable => s.memFatalD (s.owner c.r) (regionLocus c.r) inj)

end Sys2Proof.Machine
end

