-- ==== Sys2Proof/Machine/Mgmt.lean ====
section
/-! DEFINITION. The management command path (R438 to R445, R458) and the flash gate's deferrals (R405). A command is accepted by a write of
MGT_CMD or by MCTP and waits at the end of `Mgmt.cmds`; the commands below perform the one at its head. -/

namespace Sys2Proof.Machine

/-! ### The mailbox (R444) -/

/-- Complete a mailbox command: STATUS and the count, then SEQ, then BUSY 0. -/
def State.mailDone (s : State) (seq : Option Nat) (status data : Nat) : State :=
  match seq with
  | none => s
  | some q =>
    let s := (s.setFld Reg.MGT_RES 7 0 status).wr Reg.MGT_RES_DATA (BitVec.ofNat 32 data)
    ((s.setFld Reg.MGT_RES 31 16 q).setFld Reg.MGT_RES 15 15 0).signal 132

def State.dropCmd (s : State) : State := { s with mgt := { s.mgt with cmds := s.mgt.cmds.tail } }

/-- The command at the head completes. -/
def State.cmdDone (s : State) (status data : Nat) : State :=
  match s.mgt.cmds.head? with
  | none => s
  | some c => s.dropCmd.mailDone c.seq status data

/-- The command at the head, when its OP is n. -/
def State.headCmd (s : State) (n : Nat) : Option MgtCmd :=
  match s.mgt.cmds.head? with
  | some c => if c.op = n && s.mgt.gateWait.isNone then some c else none
  | none => none

/-- Accept a command of OP n: an unknown one completes at once with status 1 (Table 17-5). -/
def State.acceptCmd (s : State) (c : MgtCmd) : State :=
  if 1 ≤ c.op ∧ c.op ≤ 6 then { s with mgt := { s.mgt with cmds := s.mgt.cmds ++ [c] } } else s.mailDone c.seq 1 0

/-- A write to MGT_CMD: dropped and counted while BUSY (R444). -/
def State.mgtCmdWrite (s : State) (port : Nat) (v : Word) : State :=
  if flag (s.rd Reg.MGT_RES) 15 then s.bump Reg.MGT_RES 14 8
  else (s.setFld Reg.MGT_RES 15 15 1).acceptCmd { op := field v 31 28, port := port, seq := some (field v 15 0), block := none }

/-- The command block: inline for MCTP, else as fetched from host memory. -/
def blockOf (c : MgtCmd) (block : Option Bytes) : Option Bytes :=
  match c.block with
  | some b => some b
  | none => block

/-! ### The event log (R440, R442) -/

/-- The 32 bytes of entry n (Table 17-3), or zeros when neither ring holds it. -/
def State.logBytes (s : State) (n : Nat) : Bytes :=
  match tabFind s.mgt.entries n with
  | some e =>
    if s.mgt.nextNumber < n + 32768 || (decide (n ≤ s.mgt.flashed) && decide (s.mgt.flashed < n + 1048576)) then
      leBytes 8 n ++ leBytes 2 e.code ++ leBytes 2 e.cold ++ leBytes 4 e.arg.toNat ++ slice e.body 0 16
    else zeros 32
  | none => zeros 32

/-- LOG_COPY (R442). -/
def execLogCopy (block : Option Bytes) (s : State) : Host.Outcome State Fault Refusal :=
  .next (match s.headCmd 1 with
  | none => s
  | some c => match blockOf c block with
    | none => s.cmdDone 2 0
    | some b =>
      let n := leAt b 16 4
      if n = 0 ∨ 65536 < n then s.cmdDone 1 0
      else
        let es := (List.range n).map fun i => s.logBytes (leAt b 8 8 + i)
        let held := (es.filter fun e => decide (leAt e 0 8 ≠ 0)).length
        (s.hostWrite c.port (leAt b 0 8) es.flatten).cmdDone 0 held)

/-! ### Firmware images (R438, R439) -/

/-- The bank that did not boot; with bring-up halted in ST1, the one not preferred. -/
def State.inactiveBank (s : State) : Nat := 1 - (if s.boot.haltedIn = some 1 then s.mgt.preferred else s.mgt.booted) % 2

/-- The four bytes of a firmware event's data: versions and counters (Table 17-4). -/
def State.firmwareData (s : State) (h : Bytes) : Bytes :=
  [BitVec.ofNat 8 (imageSvn h).1, BitVec.ofNat 8 (imageSvn h).2, BitVec.ofNat 8 s.sec.cntM, BitVec.ofNat 8 s.sec.cntS]

def State.setBank (s : State) (b : Nat) (x : Bank) : State :=
  let base : List Bank := (List.range 2).map fun i => (s.mgt.banks[i]?).getD { header := [], payload := [] }
  { s with mgt := { s.mgt with banks := base.set b x } }

/-- Write an image into the inactive bank and verify it: the status of the STAGE. -/
def State.stageImage (s : State) (img : Bytes) : State × Nat :=
  let h := slice img 0 512
  let d := img.drop 512
  let s := s.setBank s.inactiveBank { header := h, payload := d }
  let v := imageSvn h
  if !imageSigned h d then (s.setFld Reg.MGT_STAT 29 28 0, 3)
  else if !s.svnOk h || decide (v.1 < s.sec.minM) || decide (v.2 < s.sec.minS) then (s.setFld Reg.MGT_STAT 29 28 0, 4)
  else ((s.setFld Reg.MGT_STAT 29 28 2).logEvent 16 1 (s.firmwareData h), 0)

def State.finishStage (s : State) (img : Bytes) : State :=
  let (s, st) := s.stageImage img
  s.cmdDone st 0

/-- A command meets the flash gate: it waits with BUSY 1, one deferral counted. -/
def State.waitGate (s : State) (op : Nat) (img : Bytes) : State :=
  let s := { s with mgt := { s.mgt with gateWait := some (op, s.time, img) } }
  s.bump Reg.THM_GATE 23 16

/-- STAGE (R436, R438): with STAGE_OPEN 0 it needs, and consumes, an approval of the image's DIGEST. -/
def execStage (block image : Option Bytes) (s : State) : Host.Outcome State Fault Refusal :=
  .next (match s.headCmd 2 with
  | none => s
  | some c => match blockOf c block with
    | none => s.cmdDone 2 0
    | some b =>
      let n := leAt b 8 4
      if n < 512 ∨ 96 * 2 ^ 20 < n then s.cmdDone 1 0
      else match image with
        | none => s.cmdDone 2 0
        | some i =>
          let img := slice i 0 n
          let ok := s.sec.stageOpen || decide (s.sec.approved = some (slice img 24 64))
          let s := if s.sec.stageOpen then s else { s with sec := { s.sec with approved := none } }
          if !ok then s.cmdDone 5 0
          else if s.flashOpen then s.finishStage img
          else (s.setFld Reg.MGT_STAT 29 28 1).waitGate 2 img)

def State.finishSelect (s : State) : State :=
  let b := s.inactiveBank
  let s := { s with mgt := { s.mgt with preferred := b } }
  let s := (s.setFld Reg.MGT_STAT 29 28 3).setFld Reg.MGT_STAT 30 30 b
  (s.logEvent 16 2 (s.firmwareData ((s.mgt.banks.map (·.header)).getD b []))).cmdDone 0 0

/-- SELECT (R438). -/
def execSelect (s : State) : Host.Outcome State Fault Refusal :=
  .next (match s.headCmd 3 with
  | none => s
  | some _ =>
    if s.fld Reg.MGT_STAT 29 28 < 2 then s.cmdDone 6 0
    else if s.flashOpen then s.finishSelect
    else s.waitGate 3 [])

/-- FLASH_WRITE_RESUME (R405): entries waiting go to flash in order, one entry tells how many were lost, and a STAGE or SELECT goes on. -/
def execFlashWriteResume (s : State) : Host.Outcome State Fault Refusal :=
  .next (if !s.flashOpen then s
  else
    let n := s.mgt.lostPending
    let s := ({ s with mgt := { s.mgt with flashed := s.mgt.nextNumber, lostPending := 0 } }).setFld Reg.MGT_LOG_STAT 15 0 0
    let s := if n = 0 then s else s.logEvent 15 n []
    match s.mgt.gateWait with
    | none => s
    | some (op, _, img) =>
      let s := { s with mgt := { s.mgt with gateWait := none } }
      if op = 2 then s.finishStage img else s.finishSelect)

/-- STAGE_FLASH_GATE_TIMEOUT (R438): 60 s at the gate. -/
def execStageFlashGateTimeout (s : State) : Host.Outcome State Fault Refusal :=
  .next (match s.mgt.gateWait with
  | none => s
  | some (op, since, _) =>
    if s.elapsed since 60000000000 then
      let s := { s with mgt := { s.mgt with gateWait := none } }
      (if op = 2 then s.setFld Reg.MGT_STAT 29 28 0 else s).cmdDone 7 0
    else s)

/-- One counter moves to the booted version, when the gate allows (R404, R439). -/
def State.advanceCounter (s : State) (sub : Bool) : State :=
  let svn := if sub then s.fld Reg.MGT_SVN 23 16 else s.fld Reg.MGT_SVN 31 24
  let cnt := if sub then s.sec.cntS else s.sec.cntM
  if svn ≤ cnt then s
  else if !s.fuseGate then s.fuseRefused
  else
    let s := { s with sec := if sub then { s.sec with cntS := svn } else { s.sec with cntM := svn } }
    let h := (s.mgt.banks.map (·.header)).getD s.mgt.booted []
    s.showCounters.logEvent 16 3 (s.firmwareData h)

/-- ROLLBACK_COUNTER_ADVANCE (R439): at READY and hourly, with RB_AUTO 1. -/
def execRollbackCounterAdvance (s : State) : Host.Outcome State Fault Refusal :=
  .next (if s.sec.rbAuto && flag (s.rd Reg.STG_STAT) 31 then (s.advanceCounter false).advanceCounter true else s)

/-! ### The service record (R30, R443) -/

/-- SVC_CLEAR: the death entry goes; the region rejoins at the next start only. -/
def execSvcClear (block : Option Bytes) (s : State) : Host.Outcome State Fault Refusal :=
  .next (match s.headCmd 4 with
  | none => s
  | some c => match blockOf c block with
    | none => s.cmdDone 2 0
    | some b =>
      let px := byteAt b 0
      let py := byteAt b 1
      let r := 32 * py + px
      let fused := s.sec.fusedDead.contains r || (match s.boot.fuses with
        | some f => f.dead.contains r
        | none => false)
      if 31 < px ∨ 27 < py then s.cmdDone 1 0
      else if fused || (tabFind s.mgt.deaths r).isNone then s.cmdDone 8 0
      else
        let s := { s with mgt := { s.mgt with deaths := tabDrop s.mgt.deaths r } }
        (s.logEvent 19 0 [BitVec.ofNat 8 px, BitVec.ofNat 8 py]).cmdDone 0 0)

/-! ### Debug access (R458) -/

/-- Bytes of a space: AM, WSB, PSM, IM, the bonded slice, the sequencer SRAM. -/
def debugSize (space : Nat) : Nat := [1048576, 524288, 262144, 131072, 67108864, 262144].getD space 0

/-- PSM as bytes: eight per accumulator, least significant first. -/
def psmBytes (c : Core) (a n : Nat) : Bytes :=
  (List.range n).map fun i =>
    let x := tabGet ({ val := 0, sat := false } : Acc) c.psm ((a + i) / 8)
    BitVec.ofNat 8 (twos 64 x.val / 2 ^ (8 * ((a + i) % 8)))

/-- Write bytes of PSM; an accumulator written is no longer saturated. -/
def psmWrite (c : Core) (a : Nat) (d : Bytes) : Core :=
  let ks := (List.range (ceilDiv (a % 8 + d.length) 8)).map fun i => a / 8 + i
  ks.foldl (fun c k =>
    let old := psmBytes c (8 * k) 8
    let new := (List.range 8).map fun i => let b := 8 * k + i; if a ≤ b ∧ b < a + d.length then (d.drop (b - a)).headD 0 else (old.drop i).headD 0
    { c with psm := tabSet ({ val := 0, sat := false } : Acc) c.psm k { val := signed 64 (leNat new), sat := false } }) c

def debugRead (c : Core) (space a n : Nat) : Bytes :=
  if space = 0 then memRead c.am a n else if space = 1 then memRead c.wsb a n else if space = 2 then psmBytes c a n
  else if space = 3 then memRead c.im a n else memRead c.slice a n

def debugWrite (c : Core) (space a : Nat) (d : Bytes) : Core :=
  if space = 0 then { c with am := memWrite c.am a d } else if space = 1 then { c with wsb := memWrite c.wsb a d }
  else if space = 2 then psmWrite c a d
  else if space = 3 then { c with im := memWrite c.im a d, imSeen := memWrite c.imSeen a d } else { c with slice := memWrite c.slice a d }

/-- DEBUG_ACCESS (R444, R458): `buffer` is the host buffer's content, for a write. -/
def execDebugAccess (block buffer : Option Bytes) (s : State) : Host.Outcome State Fault Refusal :=
  .next (match s.headCmd 6 with
  | none => s
  | some c => match blockOf c block with
    | none => s.cmdDone 2 0
    | some b =>
      let p := byteAt b 8
      let write := decide (byteAt b 9 % 2 = 1)
      let space := byteAt b 9 / 2 % 8
      let n := byteAt b 12
      let a := leAt b 16 8
      let len := leAt b 24 4
      let on := decide (p < 64) && s.sec.debugMask.getLsbD p && (decide (s.pstate p = 2) || decide (s.pstate p = 3))
      if 63 < p ∨ 5 < space ∨ 2 ^ 20 < len then s.cmdDone 1 0
      else if !on then s.cmdDone 9 0
      else match ((s.part p).placed[leAt b 10 2]?).map (·.r) with
        | none => s.cmdDone 1 0
        | some r =>
          let core := s.physCore r n
          if debugSize space < a + len ∨ (space < 5 ∧ core.isNone) then s.cmdDone 10 0
          else
            let key := 17 * r + core.getD 0
            let done := fun (s : State) => (s.logEvent 21 p [BitVec.ofNat 8 space, BitVec.ofNat 8 (if write then 1 else 0)]).cmdDone 0 0
            if write then
              match buffer with
              | none => s.cmdDone 2 0
              | some d =>
                let d := slice d 0 len
                if space = 5 then done (s.modRegion r fun g => { g with seq := { g.seq with sram := memWrite g.seq.sram a d } })
                else done (s.modCoreAt key fun x => debugWrite x space a d)
            else
              let d := if space = 5 then memRead (s.region r).seq.sram a len else debugRead (s.coreAt key) space a len
              done (s.hostWrite c.port (leAt b 0 8) d))

end Sys2Proof.Machine
end

