-- ==== Sys2Proof/Machine/HostIf.lean ====
section
/-! DEFINITION. The host interface (R465 to R486): port resets, doorbells, ring entries, the assist ring, transfer rings, interrupts, and writes of
registers that have no row of their own. -/

namespace Sys2Proof.Machine

/-! ### Ports (R467) -/

/-- HOST_PORT_RESET (R467): the port's link, its BAR4 contents and its ring enables; indices stay. -/
def execHostPortReset (port : Nat) (s : State) : Host.Outcome State Fault Refusal :=
  .next (
    let s := (((s.setFld (Reg.HIF_PORT port) 31 31 0).setFld (Reg.HIF_PORT port) 30 28 0).setFld (Reg.HIF_PORT port) 27 24 0).bump (Reg.HIF_PORT port) 23 16
    let s := { s with hif := { s.hif with msix := s.hif.msix.filter fun e => decide (e.1 / 256 ≠ port) } }
    let s := s.setFld (Reg.HIF_XFERn_CFG port) 31 31 0
    (List.range 64).foldl (fun (s : State) p => if s.homePort p = port then s.setFld (Reg.HIF_RCFG p) 31 31 0 else s) s)

/-- One held write is issued, and what waited for it is signalled on its port. -/
def State.issueHeld (s : State) (h : HostWrite) : State :=
  let s := s.issueWrite h.addr h.data h.adv
  if h.adv = 0 then s
  else if h.adv < 100 then s.signalPort h.port (h.adv - 1)
  else if h.adv < 200 then s.signalPort h.port (h.adv - 100)
  else s.signalPort h.port (64 + (h.adv - 200))

/-- HOST_PORT_LINK_UP (R467): the writes held for the port are issued in order, each before its index advances. -/
def execHostPortLinkUp (port speed width : Nat) (s : State) : Host.Outcome State Fault Refusal :=
  .next (
    if s.portUp port then s
    else
      let s := ((s.setFld (Reg.HIF_PORT port) 31 31 1).setFld (Reg.HIF_PORT port) 30 28 speed).setFld (Reg.HIF_PORT port) 27 24 width
      let mine := s.hif.held.filter fun h => decide (h.port = port)
      let s := { s with hif := { s.hif with held := s.hif.held.filter fun h => decide (h.port ≠ port) } }
      mine.foldl State.issueHeld s)

/-! ### Doorbells (R476, R480) -/

/-- Difference of two free-running 16-bit indices. -/
def indexDiff (a b : Nat) : Nat := (a + 65536 - b % 65536) % 65536

/-- A producer index may move to v: not backwards, and not more than n ahead of the consumer. -/
def indexOk (pi ci v n : Nat) : Bool := decide (indexDiff pi ci ≤ indexDiff v ci) && decide (indexDiff v ci ≤ n)

def State.cmdSize (s : State) (p : Nat) : Nat := 2 ^ ringLog (s.fld (Reg.HIF_RCFG p) 3 0) 4 12
def State.assSize (s : State) (p : Nat) : Nat := 2 ^ ringLog (s.fld (Reg.HIF_RCFG p) 7 4) 4 12
def State.xferSize (s : State) (n : Nat) : Nat := 2 ^ ringLog (s.fld (Reg.HIF_XFERn_CFG n) 3 0) 4 12

def State.ringOn (s : State) (p : Nat) : Bool := flag (s.rd (Reg.HIF_RCFG p)) 31

/-- A doorbell write that is ignored counts in BAD. -/
def State.badBell (s : State) (p : Nat) : State := s.bump (Reg.HIF_CSTAT p) 7 0

/-- CMD_PI (R476). -/
def execCmdPi (p : Nat) (v : Word) (s : State) : Host.Outcome State Fault Refusal :=
  .next (
    let x := s.rings p
    let i := field v 15 0
    if indexOk x.cmdPi (s.fld (Reg.HIF_RSTAT p) 31 16) i (s.cmdSize p) then
      s.setRings p { x with cmdPi := i, cmdEarly := x.cmdEarly || !(s.ringOn p) }
    else s.badBell p)

/-- ASS_PI (R476). -/
def execAssPi (p : Nat) (v : Word) (s : State) : Host.Outcome State Fault Refusal :=
  .next (
    let x := s.rings p
    let i := field v 15 0
    if indexOk x.assPi (s.fld (Reg.HIF_RSTAT p) 15 0) i (s.assSize p) then
      s.setRings p { x with assPi := i, assEarly := x.assEarly || !(s.ringOn p) }
    else s.badBell p)

/-- CPL_CI (R476): not backwards, and not past CPL_PI. -/
def execCplCi (p : Nat) (v : Word) (s : State) : Host.Outcome State Fault Refusal :=
  .next (
    let x := s.rings p
    let i := field v 15 0
    if indexDiff i x.cplCi ≤ indexDiff (s.fld (Reg.HIF_CSTAT p) 31 16) x.cplCi then s.setRings p { x with cplCi := i } else s.badBell p)

/-- OUT_CI (R476): an alias of SRV_OUT_CIp. -/
def execOutCi (p : Nat) (v : Word) (s : State) : Host.Outcome State Fault Refusal :=
  .next (if s.weltDown then s else s.outConsume p v)

/-- XFER_PI (R480): the index rules of R476; no counter is given for a write ignored here. -/
def execXferPi (n : Nat) (v : Word) (s : State) : Host.Outcome State Fault Refusal :=
  .next (
    let i := field v 15 0
    let a := Reg.HIF_XFERn_STAT n
    if indexOk (s.fld a 31 16) (s.fld a 15 0) i (s.xferSize n) then
      let s := s.setFld a 31 16 i
      if flag (s.rd (Reg.HIF_XFERn_CFG n)) 31 then s else { s with hif := { s.hif with xferEarly := s.hif.xferEarly.set n true } }
    else s)

/-! ### Ring set-up (R475, R480) -/

/-- EN goes from 0 to 1: every index clears but a producer index written while EN was 0 (R475, R476; DEDUCED, assumption 29). -/
def State.enableRings (s : State) (p : Nat) : State :=
  let x := s.rings p
  let s := (s.wr (Reg.HIF_RSTAT p) 0).wr (Reg.HIF_CSTAT p) (s.rd (Reg.HIF_CSTAT p) &&& 0xFF)
  s.setRings p { x with cmdPi := if x.cmdEarly then x.cmdPi else 0, assPi := if x.assEarly then x.assPi else 0, cplCi := 0, cmdEarly := false,
                        assEarly := false }

/-- RING_CFG_WRITE (R475): PORT and the sizes keep their values while EN is 1. -/
def execRingCfgWrite (p : Nat) (v : Word) (s : State) : Host.Outcome State Fault Refusal :=
  .next (
    if s.ringOn p then s.writeRW (Reg.HIF_RCFG p) 0x80000000 0x40000FFF v
    else
      let s := s.writeRW (Reg.HIF_RCFG p) 0xC0000FFF 0 v
      if flag v 31 then s.enableRings p else s)

/-- XFER_CFG_WRITE (R480, with the write rules of R475). -/
def execXferCfgWrite (n : Nat) (v : Word) (s : State) : Host.Outcome State Fault Refusal :=
  .next (
    let a := Reg.HIF_XFERn_CFG n
    if flag (s.rd a) 31 then s.writeRW a 0x80000000 0x4000000F v
    else
      let s := s.writeRW a 0x8000000F 0x40000000 v
      if flag v 31 then
        let early := s.hif.xferEarly.getD n false
        let s := (s.setFld a 30 30 0).wr (Reg.HIF_XFERn_STAT n) (if early then s.rd (Reg.HIF_XFERn_STAT n) &&& 0xFFFF0000 else 0)
        { s with hif := { s.hif with xferEarly := s.hif.xferEarly.set n false } }
      else s)

/-! ### Fetching (R477) -/

/-- May the next entry of a ring be fetched: enabled, link up, an entry there, and a free completion record that no fetched entry has reserved? -/
def State.mayFetch (s : State) (p : Nat) (assist : Bool) : Bool :=
  let x := s.rings p
  let pi := if assist then x.assPi else x.cmdPi
  let ci := if assist then s.fld (Reg.HIF_RSTAT p) 15 0 else s.fld (Reg.HIF_RSTAT p) 31 16
  s.ringOn p && s.portUp (s.homePort p) && decide (pi ≠ ci)
    && decide (indexDiff (s.fld (Reg.HIF_CSTAT p) 31 16) x.cplCi + x.reserved < s.cplSize p)

/-- RING_ENTRY_FETCH (R477): `none` is a host memory error, which stops the ring set with the entry not consumed. An OP outside its table
completes at once: status 7 for a command (Table 11-4), 1 for an assist entry (R479). -/
def execRingEntryFetch (p : Nat) (assist : Bool) (e : Option Bytes) (s : State) : Host.Outcome State Fault Refusal :=
  .next (
    if !(s.mayFetch p assist) then s
    else match e with
      | none => (s.setFld (Reg.HIF_RCFG p) 31 31 0).setFld (Reg.HIF_CSTAT p) 15 15 1
      | some b =>
        let s := if assist then s.bump (Reg.HIF_RSTAT p) 15 0 else s.bump (Reg.HIF_RSTAT p) 31 16
        let x := s.rings p
        let s := s.setRings p { x with reserved := x.reserved + 1 }
        let op := byteAt b 0
        if assist && (decide (op = 0) || decide (3 < op)) then s.complete p op 1 1 (slice b 8 4) []
        else if !assist && (decide (op = 0) || decide (8 < op)) then s.complete p op 7 0 (slice b 8 4) []
        else s.setRings p { s.rings p with taken := (s.rings p).taken ++ [(assist, b)] })

/-! ### The assist ring (R479) -/

/-- Complete assist entry e with a status. -/
def State.assistDone (s : State) (p : Nat) (e : Bytes) (status : Nat) : State := s.complete p (byteAt e 0) status 1 (slice e 8 4) []

/-- Assist entry e is under way until its completion. -/
def State.assistBusy (s : State) (p : Nat) (e : Bytes) : State :=
  s.setRings p { s.rings p with busy := (s.rings p).busy ++ [(byteAt e 0, leAt e 8 4)] }

/-- The operation an assist entry KEEPER carries (R290). -/
def assistOp (p : Nat) (e : Bytes) : KeeperOp :=
  { code := byteAt e 16, tent := decide (128 ≤ byteAt e 17), grp := byteAt e 17 % 16, page := leAt e 18 3, src := .assist p (leAt e 8 4) }

/-- KEEPER (R479): the operation joins the queue of the keeper that owns the pages of (MODEL, RSEL); while that queue is full the entry waits. -/
def execKeeper (p : Nat) (e : Bytes) (s : State) : Host.Outcome State Fault Refusal :=
  .next (if byteAt e 0 ≠ 1 then s
  else match s.takeRing p true e with
    | none => s
    | some t =>
      if !(s.hostMode p 2) && !(s.hostMode p 3) then t.assistDone p e 6
      else if 16 ≤ byteAt e 2 then t.assistDone p e 1
      else match s.ownerOf p (byteAt e 2) (byteAt e 3) with
        | none => t.assistDone p e 2
        | some r =>
          let k := s.keeper r
          if 64 ≤ k.queue.length then s
          else ((t.assistBusy p e).setKeeper r { k with queue := k.queue ++ [assistOp p e] }).setFld (Reg.RGNW_PK_STAT r) 31 24 (k.queue.length + 1))

/-- Do n bytes at offset o of the bonded window lie in the TROWS rows of one slice of region r (R479)? -/
def State.inTrows (s : State) (r o n : Nat) : Bool :=
  let base := s.fld (Reg.RGNW_CACHE_ROWS r) 31 16
  let rows := s.fld (Reg.RGNW_CACHE_ROWS r) 15 0
  decide (o < 1073741824) && decide (1024 * base ≤ bondByte o) && decide (bondByte o + n ≤ 1024 * (base + rows))

/-- WALK (R479): `list` is what the fetch of the list returned; it is copied to bonded memory and the list engine starts. -/
def execWalk (p : Nat) (e : Bytes) (list : Option Bytes) (s : State) : Host.Outcome State Fault Refusal :=
  .next (if byteAt e 0 ≠ 2 then s
  else match s.takeRing p true e with
    | none => s
    | some t =>
      let off := leAt e 28 4
      let n := leAt e 24 4
      if !(s.hostMode p 2) then t.assistDone p e 6
      else if 16 ≤ byteAt e 2 ∨ 3 < byteAt e 3 ∨ off % 16 ≠ 0 then t.assistDone p e 1
      else match s.ridx p (leAt e 12 4) with
        | none => t.assistDone p e 2
        | some r =>
          if (s.geometry p (byteAt e 2)).isNone then t.assistDone p e 2
          else if !(s.inTrows r off n) then t.assistDone p e 3
          else match list with
            | none => t.assistDone p e 4
            | some l =>
              let t := t.bondWrite r off (slice l 0 n)
              let cmd := BitVec.ofNat 32 (byteAt e 3 * 2 ^ 30 + 2 ^ 29 + off / 16)
              if (s.region r).le.busy then (t.leStart r cmd none).assistDone p e 5
              else (t.assistBusy p e).leStart r cmd (some (p, leAt e 8 4)))

/-- MOVER (R479): the descriptor is presented; one that the mover refuses completes with status 1 beside the fault or log of R195. -/
def execMover (p : Nat) (e : Bytes) (s : State) : Host.Outcome State Fault Refusal :=
  .next (if byteAt e 0 ≠ 3 then s
  else match s.takeRing p true e with
    | none => s
    | some t =>
      let b := slice e 32 32
      if !(s.hostMode p 4) then t.assistDone p e 6
      else match s.ridx p (leAt e 12 4) with
        | none => t.assistDone p e 2
        | some r =>
          if 16 ≤ (s.region r).moves.length then (t.presentMove r b none).assistDone p e 5
          else if s.moverBad r b || (s.moverRim ((s.owner r).getD 64) (moverDesc b none)).isSome then (t.presentMove r b none).assistDone p e 1
          else (t.assistBusy p e).presentMove r b (some (p, leAt e 8 4)))

/-! ### Transfer rings (R480) -/

/-- A transfer ring ends the load's ingest with status 12; the ring stops. -/
def State.xferError (s : State) (n : Nat) : State :=
  ((s.setFld (Reg.HIF_XFERn_CFG n) 31 31 0).setFld (Reg.HIF_XFERn_CFG n) 30 30 1).ingFail 12 (s.fld Reg.LDR_ING_STAT 15 0)

/-- XFER_ENTRY_FETCH (R480): the next entry of ring n and the buffer it names; `none` for either is a host memory error. With both rings as the
source the stream closes when each has shown END. -/
def execXferEntryFetch (n : Nat) (e data : Option Bytes) (s : State) : Host.Outcome State Fault Refusal :=
  .next (
    let src := s.fld Reg.HIF_XFER_CFG 1 0
    let st := Reg.HIF_XFERn_STAT n
    if s.ing.part.isNone || s.ing.closed || decide (src ≠ n ∧ src ≠ 3) || !(flag (s.rd (Reg.HIF_XFERn_CFG n)) 31) || !(s.portUp n)
        || decide (s.fld st 31 16 = s.fld st 15 0) || s.hif.xferEnd.getD n false then s
    else match e, data with
      | some b, some d =>
        if d.length ≠ leAt b 8 4 then s
        else
          let s := (s.bump st 15 0).setSource n (s.ingSource n ++ d)
          let ends := if byteAt b 12 % 2 = 1 then s.hif.xferEnd.set n true else s.hif.xferEnd
          let closed := if src = 3 then ends.all id else ends.getD n false
          let s := { s with hif := { s.hif with xferEnd := ends }, ing := { s.ing with closed := closed } }
          s.pumpAll ((s.ingSource n).length / 32 + 1)
      | _, _ => s.xferError n)

/-! ### Interrupts (R481) -/

/-- MSIX_HOLDOFF_EXPIRE (R481): the causes of the interval are signalled together. -/
def execMsixHoldoffExpire (port vector : Nat) (s : State) : Host.Outcome State Fault Refusal :=
  .next (
    let key := 256 * port + vector
    let x := tabGet Vector.zero s.hif.msix key
    match x.until_ with
    | some t =>
      if x.waiting && decide (t.toNat ≤ s.now) then
        { s with hif := { s.hif with msix := tabSet Vector.zero s.hif.msix key (x.message s.now (s.fld Reg.HIF_ICFG 15 0)) } }
      else s
    | none => s)

/-! ### Modes (R483) -/

/-- PMODE_WRITE (R483): IN_FORCE is read-only. -/
def execPmodeWrite (p : Nat) (v : Word) (s : State) : Host.Outcome State Fault Refusal := .next (s.writeRW (Reg.GLB_PMODE p) 0x3F 0x003F0000 v)

/-- GLB_MODE_WRITE (R483): FLT_STAT.HOSTREACT mirrors FAULT. -/
def execGlbModeWrite (v : Word) (s : State) : Host.Outcome State Fault Refusal :=
  .next (
    let s := s.writeRW Reg.GLB_MODE 0x1E 0 v
    s.setFld Reg.FLT_STAT 26 26 (s.fld Reg.GLB_MODE 1 1))

/-! ### Registers with no row of their own (R469, R470, R473, R474) -/

/-- Where REGISTER_WRITE places the port's own BAR4: just past the 32 MiB of BAR0 (assumption 28). -/
def bar4Base : Nat := 0x2000000

/-- A write to the MSI-X table (R466, R481): unmasking a vector whose pending bit is set sends its message. -/
def State.msixWrite (s : State) (port off : Nat) (v : Word) : State :=
  if 4096 ≤ off then s
  else
    let key := 256 * port + off / 16
    let x := tabGet Vector.zero s.hif.msix key
    let y : Vector :=
      if off % 16 = 0 then { x with addr := (x.addr &&& 0xFFFFFFFF00000000) ||| BitVec.ofNat 64 v.toNat }
      else if off % 16 = 4 then { x with addr := (x.addr &&& 0xFFFFFFFF) ||| BitVec.ofNat 64 (v.toNat * 2 ^ 32) }
      else if off % 16 = 8 then { x with data := v }
      else
        let z := { x with masked := flag v 0 }
        if z.pendingBit && !z.masked then z.message s.now (s.fld Reg.HIF_ICFG 15 0) else z
    { s with hif := { s.hif with msix := tabSet Vector.zero s.hif.msix key y } }

/-- Writable registers with no row of their own and no effect beside their fields: (address, writable bits, read-only bits). -/
def plainRegs : List (Nat × Word × Word) :=
  [(Reg.FAB_CMAP_IDX, 0x000FFFE0, 0), (Reg.RIM_XT_IDX, 0x000003FF, 0), (Reg.SRV_CFG, 0x0000FFFF, 0), (Reg.SRV_SEQ_IDX, 0x00003FFF, 0),
   (Reg.LDR_IMG_LO, 0xFFFFFFC0, 0x0000003F), (Reg.LDR_IMG_HI, 0xFFFFFFFF, 0), (Reg.LDR_IMG_LEN, 0xFFFFFFFF, 0), (Reg.STG_LOC_IDX, 0x000003FF, 0),
   (Reg.FLT_LOG_IDX, 0x000000FF, 0), (Reg.FLT_INJ_MASK, 0x0001FFFF, 0), (Reg.MGT_CMD_LO, 0xFFFFFFC0, 0x0000003F), (Reg.MGT_CMD_HI, 0xFFFFFFFF, 0),
   (Reg.HIF_ICFG, 0x0000FFFF, 0), (Reg.HIF_XFER_CFG, 0x00000003, 0), (Reg.EDG_CFG, 0x0000FFFF, 0), (Reg.EDG_ING, 0xFFFFFFFF, 0),
   (Reg.EDG_CH_IDX, 0x000003FF, 0)]

/-- The base registers of a partition's rings and its sample area (R475): kept while EN is 1. -/
def State.ringBaseWrite (s : State) (addr : Nat) (v : Word) : State :=
  let p := (addr - 0x11000) / 64
  let off := (addr - 0x11000) % 64
  if 64 ≤ p ∨ 0x20 ≤ off ∨ s.ringOn p = true then s
  else if off % 8 = 0 then s.writeRW addr 0xFFFFF000 0x00000FFF v else s.wr addr v

/-- The base registers of a transfer ring. -/
def State.xferBaseWrite (s : State) (n off : Nat) (v : Word) : State :=
  if flag (s.rd (Reg.HIF_XFERn_CFG n)) 31 then s
  else if off = 0 then s.writeRW (Reg.HIF_XFERn_LO n) 0xFFFFF000 0x00000FFF v
  else if off = 4 then s.wr (Reg.HIF_XFERn_HI n) v
  else s

/-- EN and KEY of the selected account. -/
def State.acctCfg (s : State) : Word := BitVec.ofNat 32 ((if (s.acct s.selAcct).en then 2 ^ 31 else 0) + (s.acct s.selAcct).key)

/-- The configuration of the account that SRV_ACCT_IDX selects (R324): 0 CFG, 1 RATE, 2 CAP. -/
def State.acctWrite (s : State) (which : Nat) (v : Word) : State :=
  let a := s.selAcct
  let x := s.acct a
  if which = 0 then (s.reservedBits s.acctCfg v 0x7FFF0000).setAcct a { x with en := flag v 31, key := field v 15 0 }
  else if which = 1 then s.setAcct a { x with rate := v.toNat }
  else s.setAcct a { x with cap := v.toNat }

/-- The channel that EDG_CH_IDX selects (R491, R496). -/
def State.channelWrite (s : State) (b : Bool) (v : Word) : State :=
  let g := s.fld Reg.EDG_CH_IDX 9 0
  if b then
    let s := s.reservedBits (s.chanB g) v 0xFFFF0000
    { s with edg := { s.edg with chanB := tabSet 0 s.edg.chanB g (v &&& 0x0000FFFF) } }
  else
    let s := s.reservedBits (s.chanA g) v 0x000003FF
    ({ s with edg := { s.edg with chanA := tabSet 0 s.edg.chanA g (v &&& 0xFFFFFC00) } }).settleChannels

/-- A full write to a register with no row of its own. An address that holds none, a read-only register, and one with a row of its own are left as
they are. -/
def State.hostRegWrite (s : State) (port addr : Nat) (v : Word) : State :=
  if bar4Base ≤ addr then s.msixWrite port (addr - bar4Base) v
  else match plainRegs.find? fun x => decide (x.1 = addr) with
    | some x => s.writeRW addr x.2.1 x.2.2 v
    | none =>
      if addr = Reg.SRV_ACCT_CFG then s.acctWrite 0 v
      else if addr = Reg.SRV_ACCT_RATE then s.acctWrite 1 v
      else if addr = Reg.SRV_ACCT_CAP then s.acctWrite 2 v
      else if addr = Reg.MGT_CMD then (s.reservedBits 0 v 0x0FFF0000).mgtCmdWrite port v
      else if addr = Reg.FLT_CMD then (if 1 ≤ field v 31 28 ∧ field v 31 28 ≤ 4 then s else (s.reservedBits 0 v 0x003FFFFF).cmdDrop)
      else if addr = Reg.LDR_CMD then (if 1 ≤ field v 31 28 ∧ field v 31 28 ≤ 3 then s else s.reservedBits 0 v 0x000003FF)
      else if addr = Reg.STG_CMD then (if field v 31 28 = 1 then s else s.reservedBits 0 v 0x0FFFFFFF)
      else if addr = Reg.EDG_CMD then (if 1 ≤ field v 31 28 ∧ field v 31 28 ≤ 3 then s else s.reservedBits 0 v 0x0FFFFFE0)
      else if addr = Reg.EDG_CH_A then s.channelWrite false v
      else if addr = Reg.EDG_CH_B then s.channelWrite true v
      else if Reg.HIF_XFERn_LO 0 ≤ addr ∧ addr < Reg.HIF_XFERn_LO 2 then s.xferBaseWrite ((addr - Reg.HIF_XFERn_LO 0) / 16) ((addr - Reg.HIF_XFERn_LO 0) % 16) v
      else if Reg.HIF_CMD_LO 0 ≤ addr ∧ addr < Reg.HIF_CMD_LO 64 then s.ringBaseWrite addr v
      else s

/-- REGISTER_WRITE (R470, R474): a write whose byte enables are not all set is ignored and counted; one to a block that is down is ignored (R386). -/
def execRegisterWrite (port addr : Nat) (enables : BitVec 4) (v : Word) (s : State) : Host.Outcome State Fault Refusal :=
  .next (if enables ≠ 0xF ∨ addr % 4 ≠ 0 then s.bump Reg.HIF_STAT 15 8 else if s.weltDown && onRail addr then s else s.hostRegWrite port addr v)

end Sys2Proof.Machine
end

