-- ==== Sys2Proof/Machine/MoveCmds.lean ====
section
/-! DEFINITION. One command for each CTL, MOV and NET instruction of a core. -/

namespace Sys2Proof.Machine

/-! ### CTL -/

/-- AOP (R158), issued alone and always executed. -/
def execAop (c : CoreId) (o : BitVec 30) (s : State) : Host.Outcome State Fault Refusal :=
  .next (s.slotCycle c 0 1 (o.setWidth 46))

/-- AOPI (R158), issued alone and always executed. -/
def execAopi (c : CoreId) (o : BitVec 30) (s : State) : Host.Outcome State Fault Refusal :=
  .next (s.slotCycle c 0 2 (o.setWidth 46))

/-- CMP (R159), issued alone and always executed. -/
def execCmp (c : CoreId) (o : BitVec 30) (s : State) : Host.Outcome State Fault Refusal :=
  .next (s.slotCycle c 0 3 (o.setWidth 46))

/-- PLG (R159), issued alone and always executed. -/
def execPlg (c : CoreId) (o : BitVec 30) (s : State) : Host.Outcome State Fault Refusal :=
  .next (s.slotCycle c 0 4 (o.setWidth 46))

/-- CSR (R160), issued alone and always executed. -/
def execCsr (c : CoreId) (o : BitVec 30) (s : State) : Host.Outcome State Fault Refusal :=
  .next (s.slotCycle c 0 5 (o.setWidth 46))

/-- CCTL (R161), issued alone and always executed. -/
def execCctl (c : CoreId) (o : BitVec 30) (s : State) : Host.Outcome State Fault Refusal :=
  .next (s.slotCycle c 0 6 (o.setWidth 46))

/-- WAIT (R162), issued alone and always executed. -/
def execWait (c : CoreId) (o : BitVec 30) (s : State) : Host.Outcome State Fault Refusal :=
  .next (s.slotCycle c 0 7 (o.setWidth 46))

/-- BR (R163), issued alone and always executed. -/
def execBr (c : CoreId) (o : BitVec 30) (s : State) : Host.Outcome State Fault Refusal :=
  .next (s.slotCycle c 0 8 (o.setWidth 46))

/-- LOOP (R164), issued alone and always executed. -/
def execLoop (c : CoreId) (o : BitVec 30) (s : State) : Host.Outcome State Fault Refusal :=
  .next (s.slotCycle c 0 9 (o.setWidth 46))

/-- TSET (R166), issued alone and always executed. -/
def execTset (c : CoreId) (o : BitVec 30) (s : State) : Host.Outcome State Fault Refusal :=
  .next (s.slotCycle c 0 10 (o.setWidth 46))

/-- TADJ (R166), issued alone and always executed. -/
def execTadj (c : CoreId) (o : BitVec 30) (s : State) : Host.Outcome State Fault Refusal :=
  .next (s.slotCycle c 0 11 (o.setWidth 46))

/-- STL (R182), issued alone and always executed. -/
def execStl (c : CoreId) (o : BitVec 30) (s : State) : Host.Outcome State Fault Refusal :=
  .next (s.slotCycle c 0 12 (o.setWidth 46))

/-- HALT (R183), issued alone and always executed. -/
def execHalt (c : CoreId) (s : State) : Host.Outcome State Fault Refusal := .next (s.slotCycle c 0 13 0)

/-- TRC (R184), issued alone and always executed. -/
def execTrc (c : CoreId) (o : BitVec 30) (s : State) : Host.Outcome State Fault Refusal :=
  .next (s.slotCycle c 0 14 (o.setWidth 46))

/-! ### MOV -/

/-- LDA (R167), issued alone and always executed. -/
def execLda (c : CoreId) (o : BitVec 38) (s : State) : Host.Outcome State Fault Refusal :=
  .next (s.slotCycle c 1 1 (o.setWidth 46))

/-- STA (R167), issued alone and always executed. -/
def execSta (c : CoreId) (o : BitVec 38) (s : State) : Host.Outcome State Fault Refusal :=
  .next (s.slotCycle c 1 2 (o.setWidth 46))

/-- LDV (R168), issued alone and always executed. -/
def execLdv (c : CoreId) (o : BitVec 38) (s : State) : Host.Outcome State Fault Refusal :=
  .next (s.slotCycle c 1 3 (o.setWidth 46))

/-- STV (R168), issued alone and always executed. -/
def execStv (c : CoreId) (o : BitVec 38) (s : State) : Host.Outcome State Fault Refusal :=
  .next (s.slotCycle c 1 4 (o.setWidth 46))

/-- TLD (R166), issued alone and always executed. -/
def execTld (c : CoreId) (o : BitVec 38) (s : State) : Host.Outcome State Fault Refusal :=
  .next (s.slotCycle c 1 5 (o.setWidth 46))

/-- MCP (R169), issued alone and always executed. -/
def execMcp (c : CoreId) (o : BitVec 38) (s : State) : Host.Outcome State Fault Refusal :=
  .next (s.slotCycle c 1 6 (o.setWidth 46))

/-- VRD (R170, R171), issued alone and always executed. -/
def execVrd (c : CoreId) (o : BitVec 38) (s : State) : Host.Outcome State Fault Refusal :=
  .next (s.slotCycle c 1 7 (o.setWidth 46))

/-- VWR (R170, R172), issued alone and always executed. -/
def execVwr (c : CoreId) (o : BitVec 38) (s : State) : Host.Outcome State Fault Refusal :=
  .next (s.slotCycle c 1 8 (o.setWidth 46))

/-- SPR (R173, R175), issued alone and always executed. -/
def execSpr (c : CoreId) (o : BitVec 38) (s : State) : Host.Outcome State Fault Refusal :=
  .next (s.slotCycle c 1 9 (o.setWidth 46))

/-- SPW (R173, R175), issued alone and always executed. -/
def execSpw (c : CoreId) (o : BitVec 38) (s : State) : Host.Outcome State Fault Refusal :=
  .next (s.slotCycle c 1 10 (o.setWidth 46))

/-! ### NET -/

/-- SND (R177), issued alone and always executed. -/
def execSnd (c : CoreId) (o : BitVec 38) (s : State) : Host.Outcome State Fault Refusal :=
  .next (s.slotCycle c 4 1 (o.setWidth 46))

/-- MCS (R179), issued alone and always executed. -/
def execMcs (c : CoreId) (o : BitVec 38) (s : State) : Host.Outcome State Fault Refusal :=
  .next (s.slotCycle c 4 2 (o.setWidth 46))

/-- RDS (R180), issued alone and always executed. -/
def execRds (c : CoreId) (o : BitVec 38) (s : State) : Host.Outcome State Fault Refusal :=
  .next (s.slotCycle c 4 3 (o.setWidth 46))

/-- SIG (R181), issued alone and always executed. -/
def execSig (c : CoreId) (o : BitVec 38) (s : State) : Host.Outcome State Fault Refusal :=
  .next (s.slotCycle c 4 4 (o.setWidth 46))

end Sys2Proof.Machine
end

