-- ==== Sys2Proof/Machine/Security.lean ====
section
/-! DEFINITION. The security core: protection changes (R452 to R457), its self-tests (R451), SPDM and MCTP (R445, R447, R448), and the
captured reads of MGT, SEC and GLB. -/

namespace Sys2Proof.Machine

/-! ### Requests (R453, Table 17-9) -/

def requestMagic : Bytes := [0x59, 0x50, 0x43, 0x52]

def reqOp (q : Bytes) : Nat := leAt q 4 2
def reqLen (q : Bytes) : Nat := leAt q 8 4
def reqBody (q : Bytes) : Bytes := slice q 64 (reqLen q)

/-- Signature block i: slot, r and s. -/
def reqSig (q : Bytes) (i : Nat) : Nat × Nat × Nat :=
  let o := 64 + reqLen q + 136 * i
  (byteAt q o, beNat (slice q (o + 4) 66), beNat (slice q (o + 70) 66))

/-- The digest both signatures are over: header and body. -/
def reqDigest (q : Bytes) : Bytes := sha512 (slice q 0 (64 + reqLen q))

/-- Is a body's size and every field in range (Table 17-8)? -/
def bodyOk (op : Nat) (b : Bytes) : Bool :=
  match op with
  | 1 => decide (b.length = 4) && decide (byteAt b 0 < 64)
  | 2 => decide (byteAt b 0 ≤ 1) && decide (leAt b 2 2 ≤ 256) && decide (b.length = 4 + 72 * leAt b 2 2)
  | 3 => decide (b.length = 9)
  | 4 => decide (b.length = 3) && decide (byteAt b 1 ≤ 64) && decide (byteAt b 2 ≤ 64)
  | 5 => (decide (b.length = 134) && decide (byteAt b 0 < 8) && (keyPoint (slice b 1 133)).isSome)
      || (decide (b.length = 268) && decide (byteAt b 0 = 0) && decide (byteAt b 134 = 1) && (keyPoint (slice b 1 133)).isSome && (keyPoint (slice b 135 133)).isSome)
  | 6 => decide (b.length = 1) && decide (byteAt b 0 < 8)
  | 7 => decide (b.length = 3) && decide (1 ≤ byteAt b 0) && decide (byteAt b 0 ≤ 4)
      && (decide (byteAt b 0 = 3) || (decide (byteAt b 0 = 4) && decide (byteAt b 1 < 32) && decide (byteAt b 2 < 28))
        || (decide (byteAt b 0 < 3) && decide (byteAt b 1 ≤ 64)))
  | 8 => decide (b.length = 64)
  | _ => false

def reqFormatOk (q : Bytes) : Bool :=
  decide (slice q 0 4 = requestMagic) && decide (reqLen q ≤ 20480) && decide (q.length = 64 + reqLen q + 272) && bodyOk (reqOp q) (reqBody q)

/-- First enrolment: two keys while the roster is empty (R455). -/
def State.firstEnrol (s : State) (q : Bytes) : Bool := decide (reqOp q = 5) && decide (reqLen q = 268) && s.sec.roster.isEmpty

/-- The key that must have made a block's signature: the enrolled officer's, or in the first enrolment the slot's own new key. -/
def State.signer (s : State) (q : Bytes) (slot : Nat) : Option Bytes :=
  if s.firstEnrol q then
    if slot = 0 then some (slice (reqBody q) 1 133) else if slot = 1 then some (slice (reqBody q) 135 133) else none
  else if slot < 8 then tabFind s.sec.roster slot else none

/-- Checks 33 to 37 of Table 17-7, in order; 0 when all pass. -/
def State.requestCheck (s : State) (q : Bytes) : Nat :=
  let a := reqSig q 0
  let b := reqSig q 1
  let ok := fun (x : Nat × Nat × Nat) => match s.signer q x.1 with
    | some k => ecdsaOk k (reqDigest q) x.2.1 x.2.2
    | none => false
  if !reqFormatOk q then 33
  else if slice q 16 8 ≠ slice (sha512 Config.identityKey) 0 8 then 34
  else if leAt q 24 8 ≠ s.sec.ctr.toNat then 35
  else if (s.signer q a.1).isNone || (s.signer q b.1).isNone || decide (a.1 = b.1) then 36
  else if !ok a || !ok b then (if s.firstEnrol q then 36 else 37)
  else 0

/-- Show a request's end: SEC_LAST, its event and its mailbox. -/
def State.requestEnd (s : State) (seq : Option Nat) (op status : Nat) : State :=
  let s := (s.setFld Reg.SEC_LAST 31 24 status).setFld Reg.SEC_LAST 23 16 op
  let s := if status = 32 then s.logEvent 17 op (leBytes 8 s.sec.ctr.toNat)
    else (s.bump Reg.SEC_LAST 15 0).logEvent 18 op (leBytes 1 status)
  s.showSec.mailDone seq status 0

/-- PCR (R454): the request joins the queue of four; in the error state or with the queue full it is refused, and an operation of no row of
Table 17-8 is refused at once. -/
def execPcr (block request : Option Bytes) (s : State) : Host.Outcome State Fault Refusal :=
  .next (match s.headCmd 5 with
  | none => s
  | some c => match blockOf c block with
    | none => s.cmdDone 2 0
    | some b =>
      let n := leAt b 8 4
      if n < 336 ∨ 20816 < n then s.cmdDone 1 0
      else match request with
        | none => s.cmdDone 2 0
        | some q =>
          let q := slice q 0 n
          if s.sec.error || decide (4 ≤ s.sec.queue.length) then s.dropCmd.requestEnd c.seq (reqOp q) 43
          else if reqOp q = 0 ∨ 8 < reqOp q then s.dropCmd.requestEnd c.seq (reqOp q) 33
          else
            let s := s.dropCmd
            ({ s with sec := { s.sec with queue := s.sec.queue ++ [(q, c.seq)] } }).showSec)

/-- Handle the request q at the queue's head when its operation is `op`: `extra` is the operation's own refusal (38 to 42), `apply` its change.
The counter moves with the change (R454). -/
def State.handle (s : State) (op : Nat) (q : Bytes) (extra : State → Nat) (apply : State → State) : State :=
  match s.sec.queue with
  | [] => s
  | (h, seq) :: rest =>
    if h ≠ q ∨ reqOp q ≠ op then s
    else
      let s := { s with sec := { s.sec with queue := rest } }
      if s.sec.error then s.requestEnd seq op 43
      else
        let c := s.requestCheck q
        let st := if c ≠ 0 then c else if extra s ≠ 0 then extra s else if !s.sec.setupOk && !s.firstEnrol q then 44 else 32
        if st = 32 then
          let s := apply s
          ({ s with sec := { s.sec with ctr := s.sec.ctr + 1 } }).requestEnd seq op 32
        else (if st = 41 then s.fuseRefused else s).requestEnd seq op st

/-- SET_KEY (R456). -/
def execSetKey (req : Bytes) (s : State) : Host.Outcome State Fault Refusal :=
  let b := reqBody req
  let p := byteAt b 0
  let key := leAt b 2 2
  .next (s.handle 1 req
    (fun s => if s.pstate p ≠ 0 then 38
      else if key = 0xFFFF ∨ (key ≠ 0 ∧ (s.sec.keys.any fun e => decide (e.1 ≠ p) && decide (e.2.1 = key))) then 42 else 0)
    (fun s => { s with sec := { s.sec with keys := tabSet (0, 0) s.sec.keys p (key, byteAt b 1) } }))

/-- The models a SET_POLICY lists. -/
def policyModels (b : Bytes) : List PolicyModel :=
  (List.range (leAt b 2 2)).map fun i =>
    let o := 4 + 72 * i
    { id := slice b o 64, tgroup := byteAt b (o + 64), share := decide (byteAt b (o + 65) % 2 = 1) }

/-- SET_POLICY (R457). -/
def execSetPolicy (req : Bytes) (s : State) : Host.Outcome State Fault Refusal :=
  let b := reqBody req
  .next (s.handle 2 req (fun _ => 0) fun s => { s with sec := { s.sec with listed := decide (byteAt b 0 = 1), models := policyModels b } })

/-- DEBUG (R455, R458): the mask is refused where debug is fused off; TESTMODE stays settable. -/
def execDebug (req : Bytes) (s : State) : Host.Outcome State Fault Refusal :=
  let b := reqBody req
  let mask := leAt b 0 8
  .next (s.handle 3 req (fun s => if s.debugFused ∧ mask ≠ 0 then 39 else 0)
    fun s => { s with sec := { s.sec with debugMask := BitVec.ofNat 64 mask, testMode := decide (byteAt b 8 % 2 = 1) } })

/-- UPDATE_POLICY (R438, R439). -/
def execUpdatePolicy (req : Bytes) (s : State) : Host.Outcome State Fault Refusal :=
  let b := reqBody req
  .next (s.handle 4 req (fun _ => 0) fun s =>
    { s with sec := { s.sec with stageOpen := decide (byteAt b 0 % 2 = 1), rbAuto := decide (byteAt b 0 / 2 % 2 = 1), minM := byteAt b 1, minS := byteAt b 2 } })

/-- ENROL (R455): one officer, or the first two together. -/
def execEnrol (req : Bytes) (s : State) : Host.Outcome State Fault Refusal :=
  let b := reqBody req
  let k0 := slice b 1 133
  .next (s.handle 5 req
    (fun s => if s.firstEnrol req then 0 else if reqLen req = 268 ∨ (tabFind s.sec.roster (byteAt b 0)).isSome then 40 else 0)
    (fun s =>
      let two := s.firstEnrol req
      let t := tabAdd s.sec.roster (byteAt b 0) k0
      { s with sec := { s.sec with roster := if two then tabAdd t 1 (slice b 135 133) else t, setupOk := true } }))

/-- REMOVE (R455): the roster never falls below two. -/
def execRemove (req : Bytes) (s : State) : Host.Outcome State Fault Refusal :=
  let slot := byteAt (reqBody req) 0
  .next (s.handle 6 req (fun s => if s.sec.roster.length ≤ 2 ∨ (tabFind s.sec.roster slot).isNone then 40 else 0)
    fun s => { s with sec := { s.sec with roster := tabDrop s.sec.roster slot } })

/-- FUSE (R404, R455). -/
def execFuse (req : Bytes) (s : State) : Host.Outcome State Fault Refusal :=
  let b := reqBody req
  let kind := byteAt b 0
  let v := byteAt b 1
  .next (s.handle 7 req
    (fun s => if (kind = 1 ∧ v ≤ s.sec.cntM) ∨ (kind = 2 ∧ v ≤ s.sec.cntS) then 42 else if !s.fuseGate then 41 else 0)
    (fun s =>
      let x := s.sec
      let x := if kind = 1 then { x with cntM := v } else if kind = 2 then { x with cntS := v } else if kind = 3 then { x with debugOff := true, debugMask := 0 }
        else { x with fusedDead := if x.fusedDead.contains (32 * byteAt b 2 + v) then x.fusedDead else x.fusedDead ++ [32 * byteAt b 2 + v] }
      ({ s with sec := x }).showCounters))

/-- APPROVE (R438). -/
def execApprove (req : Bytes) (s : State) : Host.Outcome State Fault Refusal :=
  .next (s.handle 8 req (fun _ => 0) fun s => { s with sec := { s.sec with approved := some (slice (reqBody req) 0 64) } })

/-! ### Self-tests (R451) -/

/-- SEC_SELF_TEST_PERIODIC. -/
def execSecSelfTestPeriodic (pass : Bool) (s : State) : Host.Outcome State Fault Refusal :=
  .next (if s.boot.alwaysOn && !pass then s.secFails else s)

/-- ENTROPY_HEALTH_FAIL. -/
def execEntropyHealthFail (s : State) : Host.Outcome State Fault Refusal := .next (if s.boot.alwaysOn then s.secFails else s)

/-! ### SPDM (R447, R448) -/

/-- What measurement i covers, before its digest (Table 17-8a); the content of 1 and the layout of 3 to 6 are not given. -/
def State.measured (s : State) (i : Nat) : Bytes :=
  let bit := fun (b : Bool) => BitVec.ofNat 8 (if b then 1 else 0)
  if i = 2 then slice ((s.mgt.banks.map (·.header)).getD s.mgt.booted []) 0 88
  else if i = 3 then Config.measured 3 ((match s.boot.fuses with
    | some f => [BitVec.ofNat 8 f.grade, BitVec.ofNat 8 f.stepping, BitVec.ofNat 8 f.option]
    | none => [0, 0, 0]) ++ [bit s.debugFused, BitVec.ofNat 8 s.sec.cntM, BitVec.ofNat 8 s.sec.cntS])
  else if i = 4 then Config.measured 4 ((s.sec.roster.flatMap fun e => BitVec.ofNat 8 e.1 :: e.2)
    ++ (s.sec.keys.flatMap fun e => [BitVec.ofNat 8 e.1, BitVec.ofNat 8 e.2.2] ++ leBytes 2 e.2.1)
    ++ [bit s.sec.listed] ++ (s.sec.models.flatMap fun m => m.id ++ [BitVec.ofNat 8 m.tgroup, bit m.share])
    ++ [bit s.sec.stageOpen, bit s.sec.rbAuto, BitVec.ofNat 8 s.sec.minM, BitVec.ofNat 8 s.sec.minS] ++ leBytes 8 s.sec.ctr.toNat)
  else if i = 5 then Config.measured 5 (leBytes 8 s.sec.debugMask.toNat ++ [bit s.sec.testMode])
  else if i = 6 then Config.measured 6 ((s.mgt.deaths.flatMap fun e => leBytes 2 e.1 ++ leBytes 1 e.2)
    ++ s.mgt.repairs.flatMap fun e => leBytes 2 e.1 ++ leBytes 2 e.2)
  else Config.measured i []

/-- Measurement block i: a SHA-512 digest, or 64 zero bytes for a partition in STATE 0. -/
def State.measurement (s : State) (i : Nat) : Bytes :=
  if 16 ≤ i ∧ i < 80 then
    if s.pstate (i - 16) = 0 then zeros 64 else sha512 (leBytes 2 (s.part (i - 16)).key ++ slice (s.part (i - 16)).image 64 64)
  else sha512 (s.measured i)

def measurementIndices : List Nat := [1, 2, 3, 4, 5, 6] ++ (List.range 64).map (16 + ·)

/-- The blocks a GET_MEASUREMENTS asks for: byte 3 names an index, or 0xFF all (PRESUMED, the message layout of SPDM, assumption 16). -/
def askedMeasurements (req : Bytes) : List Nat :=
  let i := byteAt req 3
  if i = 0xFF then measurementIndices else measurementIndices.filter fun j => decide (j = i)

def State.answer (s : State) (a : Answer) : State := { s with sec := { s.sec with answer := a } }

/-- A response: what the spec fixes of it, then what it leaves open. -/
def State.respond (s : State) (known req : Bytes) : State :=
  ({ s with fresh := s.fresh + 1 }).answer (.response (known ++ Config.spdm s.fresh req))

/-- A request inside the subset: answered unless the core is in its error state or the version is another (R447). Version 1.3 is byte 0x13;
GET_VERSION itself carries 0x10 (PRESUMED, assumption 16). -/
def State.spdm (s : State) (versionReq : Bool) (req : Bytes) (f : State → State) : State :=
  if s.boot.alwaysOn = false then s
  else if s.sec.error then s.answer .errorState
  else if byteAt req 0 = 0x13 ∨ (versionReq ∧ byteAt req 0 = 0x10) then f s
  else s.answer .versionMismatch

/-- Apply f to the session, when it is open; a request in another session is outside the subset. -/
def State.inSession (s : State) (id : Nat) (req : Bytes) (f : List Session → List Session) : State :=
  if s.sec.sessions.any fun x => decide (x.id = id) then ({ s with sec := { s.sec with sessions := f s.sec.sessions } }).respond [] req
  else s.answer .unsupportedRequest

/-- The least session number not in use, of four. -/
def State.freeSession (s : State) : Option Nat := (List.range 4).find? fun i => !s.sec.sessions.any fun x => decide (x.id = i)

/-- KEY_EXCHANGE: at most four sessions (R447). -/
def State.openSession (s : State) (req : Bytes) : State :=
  match s.freeSession with
  | none => s.answer .busy
  | some i => ({ s with sec := { s.sec with sessions := s.sec.sessions ++ [({ id := i, established := false, keyGen := 0 } : Session)] } }).respond [] req

def finishSession (id : Nat) (l : List Session) : List Session := l.map fun x => if x.id = id then { x with established := true } else x
def rekeySession (id : Nat) (l : List Session) : List Session := l.map fun x => if x.id = id then { x with keyGen := x.keyGen + 1 } else x
def closeSession (id : Nat) (l : List Session) : List Session := l.filter fun x => decide (x.id ≠ id)

/-- GET_VERSION (R447). -/
def execGetVersion (req : Bytes) (s : State) : Host.Outcome State Fault Refusal := .next (s.spdm true req fun s => s.respond [] req)

/-- GET_CAPABILITIES (R447). -/
def execGetCapabilities (req : Bytes) (s : State) : Host.Outcome State Fault Refusal := .next (s.spdm false req fun s => s.respond [] req)

/-- NEGOTIATE_ALGORITHMS (R447). -/
def execNegotiateAlgorithms (req : Bytes) (s : State) : Host.Outcome State Fault Refusal := .next (s.spdm false req fun s => s.respond [] req)

/-- GET_DIGESTS (R447). -/
def execGetDigests (req : Bytes) (s : State) : Host.Outcome State Fault Refusal := .next (s.spdm false req fun s => s.respond [] req)

/-- GET_CERTIFICATE (R447). -/
def execGetCertificate (req : Bytes) (s : State) : Host.Outcome State Fault Refusal := .next (s.spdm false req fun s => s.respond [] req)

/-- CHALLENGE (R447). -/
def execChallenge (req : Bytes) (s : State) : Host.Outcome State Fault Refusal := .next (s.spdm false req fun s => s.respond [] req)

/-- GET_MEASUREMENTS (R448): the digests of the state at the moment of the response. -/
def execGetMeasurements (req : Bytes) (s : State) : Host.Outcome State Fault Refusal :=
  .next (s.spdm false req fun s => s.respond ((askedMeasurements req).flatMap s.measurement) req)

/-- KEY_EXCHANGE (R447). -/
def execKeyExchange (req : Bytes) (s : State) : Host.Outcome State Fault Refusal := .next (s.spdm false req fun s => s.openSession req)

/-- FINISH (R447). -/
def execFinish (session : Nat) (req : Bytes) (s : State) : Host.Outcome State Fault Refusal :=
  .next (s.spdm false req fun s => s.inSession session req (finishSession session))

/-- HEARTBEAT (R447). -/
def execHeartbeat (session : Nat) (req : Bytes) (s : State) : Host.Outcome State Fault Refusal :=
  .next (s.spdm false req fun s => s.inSession session req fun l => l)

/-- KEY_UPDATE (R447). -/
def execKeyUpdate (session : Nat) (req : Bytes) (s : State) : Host.Outcome State Fault Refusal :=
  .next (s.spdm false req fun s => s.inSession session req (rekeySession session))

/-- END_SESSION (R447). -/
def execEndSession (session : Nat) (req : Bytes) (s : State) : Host.Outcome State Fault Refusal :=
  .next (s.spdm false req fun s => s.inSession session req (closeSession session))

/-- An SPDM message as MCTP carries it: the request code is byte 1, and a session's number its parameter 1 (PRESUMED, assumption 16). -/
def State.spdmMessage (s : State) (req : Bytes) : State :=
  let id := byteAt req 2
  match byteAt req 1 with
  | 0x84 => s.spdm true req fun s => s.respond [] req
  | 0xE1 => s.spdm false req fun s => s.respond [] req
  | 0xE3 => s.spdm false req fun s => s.respond [] req
  | 0x81 => s.spdm false req fun s => s.respond [] req
  | 0x82 => s.spdm false req fun s => s.respond [] req
  | 0x83 => s.spdm false req fun s => s.respond [] req
  | 0xE0 => s.spdm false req fun s => s.respond ((askedMeasurements req).flatMap s.measurement) req
  | 0xE4 => s.spdm false req fun s => s.openSession req
  | 0xE5 => s.spdm false req fun s => s.inSession id req (finishSession id)
  | 0xE8 => s.spdm false req fun s => s.inSession id req (fun l => l)
  | 0xE9 => s.spdm false req fun s => s.inSession id req (rekeySession id)
  | 0xEC => s.spdm false req fun s => s.inSession id req (closeSession id)
  | _ => s.spdm true req fun s => s.answer .unsupportedRequest

/-- MCTP_MESSAGE (R445): type 5 is SPDM; a message of Borvidric's vendor-defined type carries a management command, its OP in byte 0 and the
command block after it (DESIGN CHOICE, assumption 27). Other types are not the device's. -/
def execMctpMessage (msgType : Nat) (body : Bytes) (s : State) : Host.Outcome State Fault Refusal :=
  .next (if s.boot.alwaysOn = false then s
  else if msgType = 5 then s.spdmMessage body
  else if msgType = 0x7E ∨ msgType = 0x7F then s.acceptCmd { op := byteAt body 0, port := 0, seq := none, block := some (body.drop 1) }
  else s)

/-! ### Captured reads -/

/-- MGT_LOG_LO_READ (R463). -/
def execMgtLogLoRead (port : Nat) (s : State) : Host.Outcome State Fault Refusal := .next (s.capture port Reg.MGT_LOG_HI (s.rd Reg.MGT_LOG_HI))

/-- SEC_CTR_LO_READ (R464). -/
def execSecCtrLoRead (port : Nat) (s : State) : Host.Outcome State Fault Refusal := .next (s.capture port Reg.SEC_CTR_HI (s.rd Reg.SEC_CTR_HI))

/-- SEC_DBG_LO_READ (R464). -/
def execSecDbgLoRead (port : Nat) (s : State) : Host.Outcome State Fault Refusal := .next (s.capture port Reg.SEC_DBG_HI (s.rd Reg.SEC_DBG_HI))

/-- GLB_SERIAL_LO_READ (R485). -/
def execGlbSerialLoRead (port : Nat) (s : State) : Host.Outcome State Fault Refusal := .next (s.capture port Reg.GLB_SERIAL_HI (s.rd Reg.GLB_SERIAL_HI))

end Sys2Proof.Machine
end

