-- ==== Sys2Proof/Machine/Dispatch.lean ====
section
/-! DEFINITION. One arm for each command of the opcode table: a direct call of its meaning. -/

namespace Sys2Proof.Machine

/-- The command's effect on everything but the queue. -/
def exec (i : Instr) (s : State) : Host.Outcome State Fault Refusal :=
  match i with
  | .distIdxWrite v => Sys2Proof.Machine.execDistIdxWrite v s
  | .bundleIssue c => Sys2Proof.Machine.execBundleIssue c s
  | .waitTimeout c => Sys2Proof.Machine.execWaitTimeout c s
  | .sensorSample sn code => Sys2Proof.Machine.execSensorSample sn code s
  | .sensorPairSuspect c => Sys2Proof.Machine.execSensorPairSuspect c s
  | .dmm c o => Sys2Proof.Machine.execDmm c o s
  | .dmmt c o => Sys2Proof.Machine.execDmmt c o s
  | .dout c o => Sys2Proof.Machine.execDout c o s
  | .dadn c o => Sys2Proof.Machine.execDadn c o s
  | .daup c o => Sys2Proof.Machine.execDaup c o s
  | .drsc c o => Sys2Proof.Machine.execDrsc c o s
  | .vfma c o => Sys2Proof.Machine.execVfma c o s
  | .vadd c o => Sys2Proof.Machine.execVadd c o s
  | .vmul c o => Sys2Proof.Machine.execVmul c o s
  | .vmin c o => Sys2Proof.Machine.execVmin c o s
  | .vmax c o => Sys2Proof.Machine.execVmax c o s
  | .vcmp c o => Sys2Proof.Machine.execVcmp c o s
  | .vsel c o => Sys2Proof.Machine.execVsel c o s
  | .vbrl c o => Sys2Proof.Machine.execVbrl c o s
  | .vcvt c o => Sys2Proof.Machine.execVcvt c o s
  | .vacc c o => Sys2Proof.Machine.execVacc c o s
  | .vrot c o => Sys2Proof.Machine.execVrot c o s
  | .vrmax c o => Sys2Proof.Machine.execVrmax c o s
  | .vrsum c o => Sys2Proof.Machine.execVrsum c o s
  | .vexp c o => Sys2Proof.Machine.execVexp c o s
  | .vrcp c o => Sys2Proof.Machine.execVrcp c o s
  | .vrsq c o => Sys2Proof.Machine.execVrsq c o s
  | .vact c o => Sys2Proof.Machine.execVact c o s
  | .vqnt c o => Sys2Proof.Machine.execVqnt c o s
  | .asmx c o => Sys2Proof.Machine.execAsmx c o s
  | .aend c o => Sys2Proof.Machine.execAend c o s
  | .arec c o => Sys2Proof.Machine.execArec c o s
  | .aop c o => Sys2Proof.Machine.execAop c o s
  | .aopi c o => Sys2Proof.Machine.execAopi c o s
  | .cmp c o => Sys2Proof.Machine.execCmp c o s
  | .plg c o => Sys2Proof.Machine.execPlg c o s
  | .csr c o => Sys2Proof.Machine.execCsr c o s
  | .cctl c o => Sys2Proof.Machine.execCctl c o s
  | .wait c o => Sys2Proof.Machine.execWait c o s
  | .br c o => Sys2Proof.Machine.execBr c o s
  | .loop c o => Sys2Proof.Machine.execLoop c o s
  | .tset c o => Sys2Proof.Machine.execTset c o s
  | .tadj c o => Sys2Proof.Machine.execTadj c o s
  | .stl c o => Sys2Proof.Machine.execStl c o s
  | .halt c => Sys2Proof.Machine.execHalt c s
  | .trc c o => Sys2Proof.Machine.execTrc c o s
  | .lda c o => Sys2Proof.Machine.execLda c o s
  | .sta c o => Sys2Proof.Machine.execSta c o s
  | .ldv c o => Sys2Proof.Machine.execLdv c o s
  | .stv c o => Sys2Proof.Machine.execStv c o s
  | .tld c o => Sys2Proof.Machine.execTld c o s
  | .mcp c o => Sys2Proof.Machine.execMcp c o s
  | .vrd c o => Sys2Proof.Machine.execVrd c o s
  | .vwr c o => Sys2Proof.Machine.execVwr c o s
  | .spr c o => Sys2Proof.Machine.execSpr c o s
  | .spw c o => Sys2Proof.Machine.execSpw c o s
  | .snd c o => Sys2Proof.Machine.execSnd c o s
  | .mcs c o => Sys2Proof.Machine.execMcs c o s
  | .rds c o => Sys2Proof.Machine.execRds c o s
  | .sig c o => Sys2Proof.Machine.execSig c o s
  | .spoolCompletion c sp chk => Sys2Proof.Machine.execSpoolCompletion c sp chk s
  | .flitDelivery n => Sys2Proof.Machine.execFlitDelivery n s
  | .flitHop n singleBitError => Sys2Proof.Machine.execFlitHop n singleBitError s
  | .linkReplay r q => Sys2Proof.Machine.execLinkReplay r q s
  | .linkFailure r q => Sys2Proof.Machine.execLinkFailure r q s
  | .hubLinkTest r q receiverFails senderFails => Sys2Proof.Machine.execHubLinkTest r q receiverFails senderFails s
  | .multicastReplicate n => Sys2Proof.Machine.execMulticastReplicate n s
  | .multicastStallTimeout n branch => Sys2Proof.Machine.execMulticastStallTimeout n branch s
  | .reduceContribution n => Sys2Proof.Machine.execReduceContribution n s
  | .reductionRoundForward n => Sys2Proof.Machine.execReductionRoundForward n s
  | .reductionStallTimeout n => Sys2Proof.Machine.execReductionStallTimeout n s
  | .cmapPeriodTick cycles => Sys2Proof.Machine.execCmapPeriodTick cycles s
  | .fabCfgWrite v => Sys2Proof.Machine.execFabCfgWrite v s
  | .fabViolLogClear v => Sys2Proof.Machine.execFabViolLogClear v s
  | .fabStallLogClear v => Sys2Proof.Machine.execFabStallLogClear v s
  | .fabCmapData0Read port => Sys2Proof.Machine.execFabCmapData0Read port s
  | .seqInstruction r chk => Sys2Proof.Machine.execSeqInstruction r chk s
  | .seqArrival n => Sys2Proof.Machine.execSeqArrival n s
  | .sqRingConfig r off v => Sys2Proof.Machine.execSqRingConfig r off v s
  | .sqEmit r v => Sys2Proof.Machine.execSqEmit r v s
  | .emissionDelivery r => Sys2Proof.Machine.execEmissionDelivery r s
  | .sqMov r v => Sys2Proof.Machine.execSqMov r v s
  | .moverCompletion r chk => Sys2Proof.Machine.execMoverCompletion r chk s
  | .dueItemLateStall p n => Sys2Proof.Machine.execDueItemLateStall p n s
  | .dueItemLand p n => Sys2Proof.Machine.execDueItemLand p n s
  | .detourStart p => Sys2Proof.Machine.execDetourStart p s
  | .stopEpochReached p => Sys2Proof.Machine.execStopEpochReached p s
  | .ingestSegment seg last => Sys2Proof.Machine.execIngestSegment seg last s
  | .ingestHoldTimeout => Sys2Proof.Machine.execIngestHoldTimeout s
  | .ldrIngCfgWrite v => Sys2Proof.Machine.execLdrIngCfgWrite v s
  | .ldrIngBytesLoRead port => Sys2Proof.Machine.execLdrIngBytesLoRead port s
  | .heldWeightReleaseDone r => Sys2Proof.Machine.execHeldWeightReleaseDone r s
  | .scrubRow r chk => Sys2Proof.Machine.execScrubRow r chk s
  | .correctionWriteback r k row => Sys2Proof.Machine.execCorrectionWriteback r k row s
  | .rowRepairSwitch r k row => Sys2Proof.Machine.execRowRepairSwitch r k row s
  | .rimScrub stack granule chk => Sys2Proof.Machine.execRimScrub stack granule chk s
  | .rimChannelFail stack channel => Sys2Proof.Machine.execRimChannelFail stack channel s
  | .alloc r grp tent => Sys2Proof.Machine.execAlloc r grp tent s
  | .ref r page => Sys2Proof.Machine.execRef r page s
  | .deref r page => Sys2Proof.Machine.execDeref r page s
  | .pin r page => Sys2Proof.Machine.execPin r page s
  | .unpin r page => Sys2Proof.Machine.execUnpin r page s
  | .copy r page => Sys2Proof.Machine.execCopy r page s
  | .commit r page => Sys2Proof.Machine.execCommit r page s
  | .evict r page => Sys2Proof.Machine.execEvict r page s
  | .warm r page => Sys2Proof.Machine.execWarm r page s
  | .query r page => Sys2Proof.Machine.execQuery r page s
  | .copyCompletion r page => Sys2Proof.Machine.execCopyCompletion r page s
  | .moveCompletion r page => Sys2Proof.Machine.execMoveCompletion r page s
  | .pageZeroReported r n => Sys2Proof.Machine.execPageZeroReported r n s
  | .pkCmdPresent r v => Sys2Proof.Machine.execPkCmdPresent r v s
  | .leCmdStart r v => Sys2Proof.Machine.execLeCmdStart r v s
  | .listWalkDone r => Sys2Proof.Machine.execListWalkDone r s
  | .prefixCreate p handle seq lh token => Sys2Proof.Machine.execPrefixCreate p handle seq lh token s
  | .admitSeq p e => Sys2Proof.Machine.execAdmit p e s
  | .promptFetched seq toks => Sys2Proof.Machine.execPromptFetched seq toks s
  | .abort p e => Sys2Proof.Machine.execAbort p e s
  | .mask p e bitmap => Sys2Proof.Machine.execMask p e bitmap s
  | .adapterLoad p e manifest => Sys2Proof.Machine.execAdapterLoad p e manifest s
  | .adapterLoadDequeue p => Sys2Proof.Machine.execAdapterLoadDequeue p s
  | .adapterIngestDone slot status => Sys2Proof.Machine.execAdapterIngestDone slot status s
  | .adapterDrop p e => Sys2Proof.Machine.execAdapterDrop p e s
  | .hcreate p e => Sys2Proof.Machine.execHcreate p e s
  | .hdelete p e => Sys2Proof.Machine.execHdelete p e s
  | .choose p e => Sys2Proof.Machine.execChoose p e s
  | .batchRequest p g => Sys2Proof.Machine.execBatchRequest p g s
  | .fallbackReport p g => Sys2Proof.Machine.execFallbackReport p g s
  | .sampleCandidateFlit u key src dsp raddr data ce => Sys2Proof.Machine.execSampleCandidateFlit u key src dsp raddr data ce s
  | .sampledRowTimeout u b => Sys2Proof.Machine.execSampledRowTimeout u b s
  | .passCommit p pass => Sys2Proof.Machine.execPassCommit p pass s
  | .accountRefill => Sys2Proof.Machine.execAccountRefill s
  | .acctGrant v => Sys2Proof.Machine.execAcctGrant v s
  | .acctIdxWrite v => Sys2Proof.Machine.execAcctIdxWrite v s
  | .snapshotLand => Sys2Proof.Machine.execSnapshotLand s
  | .energyMeterTick feedMicroJ => Sys2Proof.Machine.execEnergyMeterTick feedMicroJ s
  | .srvInexactClear v => Sys2Proof.Machine.execSrvInexactClear v s
  | .outCiWrite p v => Sys2Proof.Machine.execOutCiWrite p v s
  | .outCfgWrite p off v => Sys2Proof.Machine.execOutCfgWrite p off v s
  | .srvPidleLoRead port p => Sys2Proof.Machine.execSrvPidleLoRead port p s
  | .precisionCfgWrite p v => Sys2Proof.Machine.execPrecisionCfgWrite p v s
  | .glbLockEpochLoRead port p => Sys2Proof.Machine.execGlbLockEpochLoRead port p s
  | .load v image => Sys2Proof.Machine.execLoad v image s
  | .jobStart => Sys2Proof.Machine.execJobStart s
  | .kill v => Sys2Proof.Machine.execKill v s
  | .release v => Sys2Proof.Machine.execRelease v s
  | .ldrPwrLimitWrite v => Sys2Proof.Machine.execLdrPwrLimitWrite v s
  | .stopTimeout p => Sys2Proof.Machine.execStopTimeout p s
  | .allCoresHalted p => Sys2Proof.Machine.execAllCoresHalted p s
  | .zeroizeDone p verifyFailed => Sys2Proof.Machine.execZeroizeDone p verifyFailed s
  | .rimClearDone => Sys2Proof.Machine.execRimClearDone s
  | .activityWindowEnd r sum => Sys2Proof.Machine.execActivityWindowEnd r sum s
  | .powerOverrunCheck r milliwatt coreMilliamp => Sys2Proof.Machine.execPowerOverrunCheck r milliwatt coreMilliamp s
  | .feedValid f centivolt => Sys2Proof.Machine.execFeedValid f centivolt s
  | .feedInvalid f centivolt => Sys2Proof.Machine.execFeedInvalid f centivolt s
  | .feedPresentOpen f => Sys2Proof.Machine.execFeedPresentOpen f s
  | .holdupStart => Sys2Proof.Machine.execHoldupStart s
  | .holdupEnd => Sys2Proof.Machine.execHoldupEnd s
  | .converterFail n => Sys2Proof.Machine.execConverterFail n s
  | .fieldCapAdjust f amps => Sys2Proof.Machine.execFieldCapAdjust f amps s
  | .phaseFail r memRail n => Sys2Proof.Machine.execPhaseFail r memRail n s
  | .regionPowerDown r => Sys2Proof.Machine.execRegionPowerDown r s
  | .powerDownProceed r => Sys2Proof.Machine.execPowerDownProceed r s
  | .currentLimiterTrip r => Sys2Proof.Machine.execCurrentLimiterTrip r s
  | .wakeStageRequest r => Sys2Proof.Machine.execWakeStageRequest r s
  | .wakeStageGrant f => Sys2Proof.Machine.execWakeStageGrant f s
  | .wakeComplete r => Sys2Proof.Machine.execWakeComplete r s
  | .rushPriorityRaise f => Sys2Proof.Machine.execRushPriorityRaise f s
  | .rushPriorityLift f => Sys2Proof.Machine.execRushPriorityLift f s
  | .ballastWindow r activity => Sys2Proof.Machine.execBallastWindow r activity s
  | .clockStepChange v => Sys2Proof.Machine.execClockStepChange v s
  | .glideDone => Sys2Proof.Machine.execGlideDone s
  | .pwrBallastWrite v => Sys2Proof.Machine.execPwrBallastWrite v s
  | .pwrEnergyLoRead port => Sys2Proof.Machine.execPwrEnergyLoRead port s
  | .rgnwPwrELoRead port r => Sys2Proof.Machine.execRgnwPwrELoRead port r s
  | .rgnwVminTcLoRead port r => Sys2Proof.Machine.execRgnwVminTcLoRead port r s
  | .rgnwVminTmLoRead port r => Sys2Proof.Machine.execRgnwVminTmLoRead port r s
  | .vminValidClear r memRail v => Sys2Proof.Machine.execVminValidClear r memRail v s
  | .rgnwTrcIdxWrite r v => Sys2Proof.Machine.execRgnwTrcIdxWrite r v s
  | .postedWriteApply r => Sys2Proof.Machine.execPostedWriteApply r s
  | .coldStart => Sys2Proof.Machine.execColdStart s
  | .st0FeedsPresent => Sys2Proof.Machine.execSt0FeedsPresent s
  | .st1ManagementBoot ref0 ref1 selfTest bankA bankB portsUp => Sys2Proof.Machine.execSt1ManagementBoot ref0 ref1 selfTest bankA bankB portsUp s
  | .st2FuseRead fuses => Sys2Proof.Machine.execSt2FuseRead fuses s
  | .st3StackRailRamp failedConverters => Sys2Proof.Machine.execSt3StackRailRamp failedConverters s
  | .coolantWaitTimeout => Sys2Proof.Machine.execCoolantWaitTimeout s
  | .st4MeshLock decoupled => Sys2Proof.Machine.execSt4MeshLock decoupled s
  | .meshLockTimeout => Sys2Proof.Machine.execMeshLockTimeout s
  | .st5RegionSelfTest results skipFailed => Sys2Proof.Machine.execSt5RegionSelfTest results skipFailed s
  | .st6BuildLast => Sys2Proof.Machine.execSt6BuildLast s
  | .st7MemoryTest results => Sys2Proof.Machine.execSt7MemoryTest results s
  | .st8RimTraining live => Sys2Proof.Machine.execSt8RimTraining live s
  | .st9MeshRoutes failedLinks => Sys2Proof.Machine.execSt9MeshRoutes failedLinks s
  | .st10EdgeTraining => Sys2Proof.Machine.execSt10EdgeTraining s
  | .st10Record => Sys2Proof.Machine.execSt10Record s
  | .st11Readiness => Sys2Proof.Machine.execSt11Readiness s
  | .edgeTrainRetry k => Sys2Proof.Machine.execEdgeTrainRetry k s
  | .restartByHost v => Sys2Proof.Machine.execRestartByHost v s
  | .restartByContact => Sys2Proof.Machine.execRestartByContact s
  | .restartPowerDown selfTest => Sys2Proof.Machine.execRestartPowerDown selfTest s
  | .hostPortReset port => Sys2Proof.Machine.execHostPortReset port s
  | .nodeDecouple r => Sys2Proof.Machine.execNodeDecouple r s
  | .refSwitchover => Sys2Proof.Machine.execRefSwitchover s
  | .refReturn ref => Sys2Proof.Machine.execRefReturn ref s
  | .clkTimeLoRead port => Sys2Proof.Machine.execClkTimeLoRead port s
  | .stgLocData0Read port => Sys2Proof.Machine.execStgLocData0Read port s
  | .aliveOutToggle => Sys2Proof.Machine.execAliveOutToggle s
  | .throttleGraceExpire r => Sys2Proof.Machine.execThrottleGraceExpire r s
  | .thermalStretchAdjust r => Sys2Proof.Machine.execThermalStretchAdjust r s
  | .converterOvertemp n => Sys2Proof.Machine.execConverterOvertemp n s
  | .coolantPoll sn raw => Sys2Proof.Machine.execCoolantPoll sn raw s
  | .flowClampTimeout => Sys2Proof.Machine.execFlowClampTimeout s
  | .coolantSensorReaddress sn => Sys2Proof.Machine.execCoolantSensorReaddress sn s
  | .governorLimitUpdate meanWatts => Sys2Proof.Machine.execGovernorLimitUpdate meanWatts s
  | .governorHoldAdjust watts => Sys2Proof.Machine.execGovernorHoldAdjust watts s
  | .thmCfgWrite v => Sys2Proof.Machine.execThmCfgWrite v s
  | .flashWriteResume => Sys2Proof.Machine.execFlashWriteResume s
  | .mgmtWatchdogExpire => Sys2Proof.Machine.execMgmtWatchdogExpire s
  | .recoveryQuietExpire => Sys2Proof.Machine.execRecoveryQuietExpire s
  | .rearm v => Sys2Proof.Machine.execRearm v s
  | .recover v => Sys2Proof.Machine.execRecover v s
  | .resumeRepair v => Sys2Proof.Machine.execResumeRepair v s
  | .endRepair v => Sys2Proof.Machine.execEndRepair v s
  | .fltCfgWrite v => Sys2Proof.Machine.execFltCfgWrite v s
  | .fltLogData0Read port => Sys2Proof.Machine.execFltLogData0Read port s
  | .coreFailure c => Sys2Proof.Machine.execCoreFailure c s
  | .spareProcedureStep shipped => Sys2Proof.Machine.execSpareProcedureStep shipped s
  | .spareShipmentTimeout => Sys2Proof.Machine.execSpareShipmentTimeout s
  | .jobResume => Sys2Proof.Machine.execJobResume s
  | .istWindow r pass uncore sensorsAgree => Sys2Proof.Machine.execIstWindow r pass uncore sensorsAgree s
  | .faultInjectArm v => Sys2Proof.Machine.execFaultInjectArm v s
  | .logCopy block => Sys2Proof.Machine.execLogCopy block s
  | .stage block image => Sys2Proof.Machine.execStage block image s
  | .select => Sys2Proof.Machine.execSelect s
  | .svcClear block => Sys2Proof.Machine.execSvcClear block s
  | .pcr block request => Sys2Proof.Machine.execPcr block request s
  | .debugAccess block buffer => Sys2Proof.Machine.execDebugAccess block buffer s
  | .mctpMessage msgType body => Sys2Proof.Machine.execMctpMessage msgType body s
  | .getVersion req => Sys2Proof.Machine.execGetVersion req s
  | .getCapabilities req => Sys2Proof.Machine.execGetCapabilities req s
  | .negotiateAlgorithms req => Sys2Proof.Machine.execNegotiateAlgorithms req s
  | .getDigests req => Sys2Proof.Machine.execGetDigests req s
  | .getCertificate req => Sys2Proof.Machine.execGetCertificate req s
  | .challenge req => Sys2Proof.Machine.execChallenge req s
  | .getMeasurements req => Sys2Proof.Machine.execGetMeasurements req s
  | .keyExchange req => Sys2Proof.Machine.execKeyExchange req s
  | .finish session req => Sys2Proof.Machine.execFinish session req s
  | .heartbeat session req => Sys2Proof.Machine.execHeartbeat session req s
  | .keyUpdate session req => Sys2Proof.Machine.execKeyUpdate session req s
  | .endSession session req => Sys2Proof.Machine.execEndSession session req s
  | .setKey req => Sys2Proof.Machine.execSetKey req s
  | .setPolicy req => Sys2Proof.Machine.execSetPolicy req s
  | .debug req => Sys2Proof.Machine.execDebug req s
  | .updatePolicy req => Sys2Proof.Machine.execUpdatePolicy req s
  | .enrol req => Sys2Proof.Machine.execEnrol req s
  | .remove req => Sys2Proof.Machine.execRemove req s
  | .fuse req => Sys2Proof.Machine.execFuse req s
  | .approve req => Sys2Proof.Machine.execApprove req s
  | .rollbackCounterAdvance => Sys2Proof.Machine.execRollbackCounterAdvance s
  | .secSelfTestPeriodic pass => Sys2Proof.Machine.execSecSelfTestPeriodic pass s
  | .entropyHealthFail => Sys2Proof.Machine.execEntropyHealthFail s
  | .mgtLogLoRead port => Sys2Proof.Machine.execMgtLogLoRead port s
  | .secCtrLoRead port => Sys2Proof.Machine.execSecCtrLoRead port s
  | .secDbgLoRead port => Sys2Proof.Machine.execSecDbgLoRead port s
  | .glbSerialLoRead port => Sys2Proof.Machine.execGlbSerialLoRead port s
  | .cmdPi p v => Sys2Proof.Machine.execCmdPi p v s
  | .assPi p v => Sys2Proof.Machine.execAssPi p v s
  | .cplCi p v => Sys2Proof.Machine.execCplCi p v s
  | .outCi p v => Sys2Proof.Machine.execOutCi p v s
  | .xferPi n v => Sys2Proof.Machine.execXferPi n v s
  | .ringCfgWrite p v => Sys2Proof.Machine.execRingCfgWrite p v s
  | .xferCfgWrite n v => Sys2Proof.Machine.execXferCfgWrite n v s
  | .ringEntryFetch p assist e => Sys2Proof.Machine.execRingEntryFetch p assist e s
  | .keeper p e => Sys2Proof.Machine.execKeeper p e s
  | .walk p e list => Sys2Proof.Machine.execWalk p e list s
  | .mover p e => Sys2Proof.Machine.execMover p e s
  | .xferEntryFetch n e data => Sys2Proof.Machine.execXferEntryFetch n e data s
  | .msixHoldoffExpire port vector => Sys2Proof.Machine.execMsixHoldoffExpire port vector s
  | .pmodeWrite p v => Sys2Proof.Machine.execPmodeWrite p v s
  | .glbModeWrite v => Sys2Proof.Machine.execGlbModeWrite v s
  | .registerWrite port addr enables v => Sys2Proof.Machine.execRegisterWrite port addr enables v s
  | .edgeSend k key src raddr data isSnd => Sys2Proof.Machine.execEdgeSend k key src raddr data isSnd s
  | .edgeFrameRx k frame => Sys2Proof.Machine.execEdgeFrameRx k frame s
  | .edgeControlFrame k frame => Sys2Proof.Machine.execEdgeControlFrame k frame s
  | .edgeControlTimer k => Sys2Proof.Machine.execEdgeControlTimer k s
  | .edgeReplay k fromLseq => Sys2Proof.Machine.execEdgeReplay k fromLseq s
  | .edgeLinkLoss k => Sys2Proof.Machine.execEdgeLinkLoss k s
  | .edgeIngestFrame k frame => Sys2Proof.Machine.execEdgeIngestFrame k frame s
  | .retrain v => Sys2Proof.Machine.execRetrain v s
  | .disable v => Sys2Proof.Machine.execDisable v s
  | .enable v => Sys2Proof.Machine.execEnable v s
  | .modResetNRelease => Sys2Proof.Machine.execModResetNRelease s
  | .hostPortLinkUp port speed width => Sys2Proof.Machine.execHostPortLinkUp port speed width s
  | .edgeTrainingSettled k result => Sys2Proof.Machine.execEdgeTrainingSettled k result s
  | .stageFlashGateTimeout => Sys2Proof.Machine.execStageFlashGateTimeout s
  | .recentRecoveryExpire => Sys2Proof.Machine.execRecentRecoveryExpire s
  | .scratchpadScrub c st addr chk => Sys2Proof.Machine.execScratchpadScrub c st addr chk s
  | .railVoltageSample r memRail mv => Sys2Proof.Machine.execRailVoltageSample r memRail mv s

end Sys2Proof.Machine
end

