-- ==== Sys2Proof/Machine/Idle.lean ====
section
/-! DEFINITION. What a step does when no command waits: the device time counter (R378) advances by one nanosecond while the
always-on group runs. DESIGN CHOICE: notes/assumptions/2.md. -/

namespace Sys2Proof.Machine

def idleTick (s : State) : State := if s.boot.alwaysOn then { s with time := s.time + 1 } else s

end Sys2Proof.Machine
end

