-- ==== Sys2Proof/Machine/View.lean ====
section
/-! DEFINITION. What a host read of a BAR0 address returns (R34, R64, R233, R265, R324, R325, R349, R392, R432, R464, R468, R469, R471, R474): the
registers whose content the rest of the state holds are computed here, captured halves come from the port's captures, and every other register is
in the register table. A read changes nothing but the captures, which have rows of their own. -/

namespace Sys2Proof.Machine

/-- Registers that return what a read of their partner captured for the same port (R469). -/
def capturedRegs : List Nat :=
  [Reg.FAB_CMAP_DATA1, Reg.LDR_ING_BYTES_HI, Reg.PWR_ENERGY_HI, Reg.CLK_TIME_HI, Reg.STG_LOC_DATA1, Reg.FLT_LOG_DATA 1, Reg.FLT_LOG_DATA 2,
   Reg.FLT_LOG_DATA 3, Reg.MGT_LOG_HI, Reg.SEC_CTR_HI, Reg.SEC_DBG_HI, Reg.GLB_SERIAL_HI]

def isCaptured (a : Nat) : Bool :=
  capturedRegs.contains a || rowHolds (Reg.SRV_PIDLE_HI 0) 32 64 a || rowHolds (Reg.GLB_LOCK_EPOCH_HI 0) 16 64 a
    || (inWindow a && [0xB18, 0xB2C, 0xB34].contains (winOffset a))

/-- Registers that read 0: write-only ones. -/
def writeOnly (a : Nat) : Bool :=
  [Reg.LDR_CMD, Reg.STG_CMD, Reg.MGT_CMD, Reg.FLT_CMD, Reg.EDG_CMD, Reg.SRV_ACCT_GRANT].contains a

/-- RIM_XT_DATA (Table 09-10). -/
def State.extentWord (s : State) : Word :=
  let ix := s.rd Reg.RIM_XT_IDX
  match tabFind (s.part (field ix 9 4)).extents (field ix 3 0) with
  | some e => BitVec.ofNat 32 (2 ^ 31 + (if e.shared then 2 ^ 30 else 0) + (if e.write then 2 ^ 29 else 0) + e.stack % 16 * 2 ^ 25 + e.base % 128 * 2 ^ 18
      + e.len % 128 * 2 ^ 11)
  | none => 0

/-- SRV_SEQ_STAT (Table 11-10). An entry whose prompt is being fetched is not live yet. -/
def State.seqWord (s : State) : Word :=
  match s.seq (s.fld Reg.SRV_SEQ_IDX 13 0) with
  | some x => BitVec.ofNat 32 (x.state % 8 * 2 ^ 29 + (if x.state = 4 then x.wait % 8 else 0) * 2 ^ 26 + x.part % 64 * 2 ^ 20 + x.prm.spec % 4 * 2 ^ 18
      + x.account % 4096)
  | none => 0

def State.seqLen (s : State) : Word :=
  match s.seq (s.fld Reg.SRV_SEQ_IDX 13 0) with
  | some x => BitVec.ofNat 32 x.len
  | none => 0

/-- Live sequences, of one partition or of all. -/
def State.liveCount (s : State) (p : Option Nat) : Nat :=
  (s.srv.seqs.filter fun e => decide (e.2.state ≠ 0) && (match p with
    | some q => decide (e.2.part = q)
    | none => true)).length

/-- BUFb of SMP_STATu: 0 free, 1 filling, 2 sampling. -/
def bufState (x : SampUnit) (b : Nat) : Nat :=
  match tabFind x.bufs b with
  | none => 0
  | some y => if y.rows.any fun r => r.2.sampled then 2 else 1

def State.smpStat (s : State) (u : Nat) : Word :=
  let x := s.unit u
  BitVec.ofNat 32 (bufState x 1 * 2 ^ 30 + bufState x 0 * 2 ^ 28 + s.fld (Reg.SMP_STAT u) 15 0)

def State.smpStore (s : State) (u : Nat) : Word :=
  BitVec.ofNat 32 ((s.unit u).draftRows % 1024 * 2 ^ 16 + s.fld (Reg.SMP_STORE u) 15 8 * 2 ^ 8 + s.masksIn u % 128)

/-- Regions whose pass of the in-service test has run longer than 24 h (R433). -/
def State.istLag (s : State) : Nat :=
  (s.regions.filter fun e => match e.2.istStart with
    | some t => decide (e.2.cause = 0) && !(s.dead e.1) && s.elapsed t 86400000000000
    | none => false).length

/-- DURATION of stage n: it runs while the stage does (R390). -/
def State.durationWord (s : State) (n : Nat) : Word :=
  if s.boot.stage = some n then BitVec.ofNat 32 ((s.now - (tabGet 0 s.boot.stageStart n).toNat) / 1000) else s.rd (Reg.STG_REC_B n)

/-- The oscillator mesh's phase measurements, which no command delivers: their content is left open. -/
def phaseWord (a : Nat) : Word := BitVec.ofNat 32 (Config.unstated 10 a)

/-- A host read of BAR0 address `addr` by a port. -/
def State.hostRead (s : State) (port addr : Nat) : Word :=
  let a := addr / 4 * 4
  if isCaptured a then tabGet 0 s.capt (2 * a + port % 2)
  else if writeOnly a then 0
  else if s.weltDown && onRail a then State.reset.rd a
  else if inWindow a then
    if winOffset a = 0xC00 then setField (s.rd a) 23 16 (phaseWord a).toNat else s.winRead (winRegion a) (winOffset a)
  else if a = Reg.GLB_DIST_DATA then s.distWord
  else if rowHolds (Reg.GLB_LAST_COL 0) 4 32 a then s.lastColWord ((a - Reg.GLB_LAST_COL 0) / 4)
  else if rowHolds (Reg.GLB_LOCK_EPOCH_LO 0) 16 64 a then BitVec.ofNat 32 (s.lockEpoch ((a - Reg.GLB_LOCK_EPOCH_LO 0) / 16))
  else if a = Reg.FAB_CMAP_DATA0 then s.cmapWords.1
  else if a = Reg.RIM_XT_DATA then s.extentWord
  else if a = Reg.SRV_STAT then setField (s.rd a) 14 0 (s.liveCount none)
  else if rowHolds (Reg.SRV_PARTSTAT 0) 32 64 a then setField (s.rd a) 14 0 (s.liveCount (some ((a - Reg.SRV_PARTSTAT 0) / 32)))
  else if rowHolds (Reg.SRV_PIDLE_LO 0) 32 64 a then BitVec.ofNat 32 (tabGet 0 s.srv.idle ((a - Reg.SRV_PIDLE_LO 0) / 32))
  else if a = Reg.SRV_ACCT_CFG then s.acctCfg
  else if a = Reg.SRV_ACCT_RATE then BitVec.ofNat 32 (s.acct s.selAcct).rate
  else if a = Reg.SRV_ACCT_CAP then BitVec.ofNat 32 (s.acct s.selAcct).cap
  else if a = Reg.SRV_SEQ_STAT then s.seqWord
  else if a = Reg.SRV_SEQ_LEN then s.seqLen
  else if rowHolds (Reg.SMP_STAT 0) 16 8 a then s.smpStat ((a - Reg.SMP_STAT 0) / 16)
  else if rowHolds (Reg.SMP_STORE 0) 16 8 a then s.smpStore ((a - Reg.SMP_STORE 0) / 16)
  else if a = Reg.LDR_PWR_STAT then s.pwrStat
  else if rowHolds (Reg.LDR_PART_BUDGET 0) 16 64 a then setField (s.rd a) 31 22 (s.throttledOf ((a - Reg.LDR_PART_BUDGET 0) / 16))
  else if a = Reg.CLK_TIME_LO then BitVec.ofNat 32 s.now
  else if a = Reg.CLK_SKEW then phaseWord a
  else if rowHolds (Reg.STG_REC_B 0) 16 12 a then s.durationWord ((a - Reg.STG_REC_B 0) / 16)
  else if a = Reg.STG_LOC_DATA0 then s.locusWords.1
  else if a = Reg.FLT_LOG_DATA 0 then BitVec.ofNat 32 (leAt s.fltEntry 0 4)
  else if a = Reg.FLT_IST then setField (s.rd a) 19 10 s.istLag
  else if a = Reg.EDG_CH_A then s.chanA (s.fld Reg.EDG_CH_IDX 9 0)
  else if a = Reg.EDG_CH_B then s.chanB (s.fld Reg.EDG_CH_IDX 9 0)
  else s.rd a

/-- A read of doorbell page `page` of BAR2 returns the last value accepted (R476, R480); pages 65 to 127 read 0. -/
def State.doorbellRead (s : State) (page off : Nat) : Nat :=
  if page < 64 then
    match off / 4 with
    | 0 => (s.rings page).cmdPi
    | 1 => (s.rings page).assPi
    | 2 => (s.rings page).cplCi
    | 3 => (s.rd (Reg.SRV_OUT_CI page)).toNat
    | _ => 0
  else if page = 64 ∧ off < 8 then s.fld (Reg.HIF_XFERn_STAT (off / 4)) 31 16
  else 0

end Sys2Proof.Machine
end

