-- ==== Sys2Proof/WellFormed.lean ====
section
/-! DEFINITION. Which commands name units that exist: operand ranges of the spec (896 regions, 17 cores a region, 64
partitions, 2 host ports, 56 fields, 168 converters, 32 edge ports, 16 rim stacks of 32 channels). -/

namespace Sys2Proof

def coreOk (c : CoreId) : Bool := decide (c.r < 896) && decide (c.k < 17)

def sensorOk : Sensor → Bool
  | .coreDiode c => coreOk c
  | .coreRing c => coreOk c
  | .regulator r i => decide (r < 896) && decide (i < 4)
  | .welt i => decide (i < 26)
  | .converter i => decide (i < 168)
  | .flash => true

/-- A temperature code has 10 bits (Table 02-7). -/
def codeOk : Option Nat → Bool
  | none => true
  | some c => decide (c < 1024)

def bytesOk (n : Nat) (b : Bytes) : Bool := decide (b.length = n)

def optOk (n : Nat) : Option Bytes → Bool
  | none => true
  | some b => bytesOk n b

/-- The lane sets of Table 14-6: w adjacent lanes from a multiple of w. -/
def trainOk (t : TrainResult) : Bool :=
  (decide (t.width = 0) && decide (t.lanes = 0))
    || [1, 2, 4, 8].any fun w => decide (t.width = w) && (List.range (8 / w)).any fun i => decide (t.lanes.toNat = (2 ^ w - 1) * 2 ^ (w * i))

/-- The operands of a command lie in the ranges the spec gives them. -/
def wellFormed (i : Instr) : Bool :=
  match i with
  | .distIdxWrite _ => true
  | .bundleIssue c => coreOk c
  | .waitTimeout c => coreOk c
  | .sensorSample sn code => sensorOk sn && codeOk code
  | .sensorPairSuspect c => coreOk c
  | .dmm c _ => coreOk c
  | .dmmt c _ => coreOk c
  | .dout c _ => coreOk c
  | .dadn c _ => coreOk c
  | .daup c _ => coreOk c
  | .drsc c _ => coreOk c
  | .vfma c _ => coreOk c
  | .vadd c _ => coreOk c
  | .vmul c _ => coreOk c
  | .vmin c _ => coreOk c
  | .vmax c _ => coreOk c
  | .vcmp c _ => coreOk c
  | .vsel c _ => coreOk c
  | .vbrl c _ => coreOk c
  | .vcvt c _ => coreOk c
  | .vacc c _ => coreOk c
  | .vrot c _ => coreOk c
  | .vrmax c _ => coreOk c
  | .vrsum c _ => coreOk c
  | .vexp c _ => coreOk c
  | .vrcp c _ => coreOk c
  | .vrsq c _ => coreOk c
  | .vact c _ => coreOk c
  | .vqnt c _ => coreOk c
  | .asmx c _ => coreOk c
  | .aend c _ => coreOk c
  | .arec c _ => coreOk c
  | .aop c _ => coreOk c
  | .aopi c _ => coreOk c
  | .cmp c _ => coreOk c
  | .plg c _ => coreOk c
  | .csr c _ => coreOk c
  | .cctl c _ => coreOk c
  | .wait c _ => coreOk c
  | .br c _ => coreOk c
  | .loop c _ => coreOk c
  | .tset c _ => coreOk c
  | .tadj c _ => coreOk c
  | .stl c _ => coreOk c
  | .halt c => coreOk c
  | .trc c _ => coreOk c
  | .lda c _ => coreOk c
  | .sta c _ => coreOk c
  | .ldv c _ => coreOk c
  | .stv c _ => coreOk c
  | .tld c _ => coreOk c
  | .mcp c _ => coreOk c
  | .vrd c _ => coreOk c
  | .vwr c _ => coreOk c
  | .spr c _ => coreOk c
  | .spw c _ => coreOk c
  | .snd c _ => coreOk c
  | .mcs c _ => coreOk c
  | .rds c _ => coreOk c
  | .sig c _ => coreOk c
  | .spoolCompletion c sp _ => coreOk c && decide (sp < 16)
  | .flitDelivery _ => true
  | .flitHop _ _ => true
  | .linkReplay r q => decide (r < 896) && decide (q < 10)
  | .linkFailure r q => decide (r < 896) && decide (q < 10)
  | .hubLinkTest r q _ _ => decide (r < 896) && decide (q < 10)
  | .multicastReplicate _ => true
  | .multicastStallTimeout _ branch => decide (branch < 26)
  | .reduceContribution _ => true
  | .reductionRoundForward _ => true
  | .reductionStallTimeout _ => true
  | .cmapPeriodTick _ => true
  | .fabCfgWrite _ => true
  | .fabViolLogClear _ => true
  | .fabStallLogClear _ => true
  | .fabCmapData0Read port => decide (port < 2)
  | .seqInstruction r _ => decide (r < 896)
  | .seqArrival _ => true
  | .sqRingConfig r off _ => decide (r < 896) && decide (0x710 ≤ off && off < 0x740 && off % 4 = 0)
  | .sqEmit r _ => decide (r < 896)
  | .emissionDelivery r => decide (r < 896)
  | .sqMov r _ => decide (r < 896)
  | .moverCompletion r _ => decide (r < 896)
  | .dueItemLateStall p _ => decide (p < 64)
  | .dueItemLand p _ => decide (p < 64)
  | .detourStart p => decide (p < 64)
  | .stopEpochReached p => decide (p < 64)
  | .ingestSegment _ _ => true
  | .ingestHoldTimeout => true
  | .ldrIngCfgWrite _ => true
  | .ldrIngBytesLoRead port => decide (port < 2)
  | .heldWeightReleaseDone r => decide (r < 896)
  | .scrubRow r _ => decide (r < 896)
  | .correctionWriteback r k row => decide (r < 896) && decide (k < 17) && decide (row < 65536)
  | .rowRepairSwitch r k row => decide (r < 896) && decide (k < 17) && decide (row < 65536)
  | .rimScrub stack _ _ => decide (stack < 16)
  | .rimChannelFail stack channel => decide (stack < 16) && decide (channel < 32)
  | .alloc r grp _ => decide (r < 896) && decide (grp < 16)
  | .ref r page => decide (r < 896) && decide (page < 16777216)
  | .deref r page => decide (r < 896) && decide (page < 16777216)
  | .pin r page => decide (r < 896) && decide (page < 16777216)
  | .unpin r page => decide (r < 896) && decide (page < 16777216)
  | .copy r page => decide (r < 896) && decide (page < 16777216)
  | .commit r page => decide (r < 896) && decide (page < 16777216)
  | .evict r page => decide (r < 896) && decide (page < 16777216)
  | .warm r page => decide (r < 896) && decide (page < 16777216)
  | .query r page => decide (r < 896) && decide (page < 16777216)
  | .copyCompletion r page => decide (r < 896) && decide (page < 16777216)
  | .moveCompletion r page => decide (r < 896) && decide (page < 16777216)
  | .pageZeroReported r _ => decide (r < 896)
  | .pkCmdPresent r _ => decide (r < 896)
  | .leCmdStart r _ => decide (r < 896)
  | .listWalkDone r => decide (r < 896)
  | .prefixCreate p _ seq _ _ => decide (p < 64) && decide (seq < 16384)
  | .admitSeq p e => decide (p < 64) && bytesOk 128 e
  | .promptFetched seq _ => decide (seq < 16384)
  | .abort p e => decide (p < 64) && bytesOk 128 e
  | .mask p e _ => decide (p < 64) && bytesOk 128 e
  | .adapterLoad p e _ => decide (p < 64) && bytesOk 128 e
  | .adapterLoadDequeue p => decide (p < 64)
  | .adapterIngestDone slot _ => decide (slot < 2048)
  | .adapterDrop p e => decide (p < 64) && bytesOk 128 e
  | .hcreate p e => decide (p < 64) && bytesOk 128 e
  | .hdelete p e => decide (p < 64) && bytesOk 128 e
  | .choose p e => decide (p < 64) && bytesOk 128 e
  | .batchRequest p g => decide (p < 64) && bytesOk 16 g
  | .fallbackReport p g => decide (p < 64) && bytesOk 16 g
  | .sampleCandidateFlit u _ _ _ _ _ _ => decide (u < 8)
  | .sampledRowTimeout u b => decide (u < 8) && decide (b < 2)
  | .passCommit p _ => decide (p < 64)
  | .accountRefill => true
  | .acctGrant _ => true
  | .acctIdxWrite _ => true
  | .snapshotLand => true
  | .energyMeterTick _ => true
  | .srvInexactClear _ => true
  | .outCiWrite p _ => decide (p < 64)
  | .outCfgWrite p off _ => decide (p < 64) && decide (off < 3)
  | .srvPidleLoRead port p => decide (port < 2) && decide (p < 64)
  | .precisionCfgWrite p _ => decide (p < 64)
  | .glbLockEpochLoRead port p => decide (port < 2) && decide (p < 64)
  | .load _ _ => true
  | .jobStart => true
  | .kill _ => true
  | .release _ => true
  | .ldrPwrLimitWrite _ => true
  | .stopTimeout p => decide (p < 64)
  | .allCoresHalted p => decide (p < 64)
  | .zeroizeDone p verifyFailed => decide (p < 64) && verifyFailed.all fun k => decide (k < 15232)
  | .rimClearDone => true
  | .activityWindowEnd r _ => decide (r < 896)
  | .powerOverrunCheck r _ _ => decide (r < 896)
  | .feedValid f _ => decide (f < 2)
  | .feedInvalid f _ => decide (f < 2)
  | .feedPresentOpen f => decide (f < 2)
  | .holdupStart => true
  | .holdupEnd => true
  | .converterFail i => decide (i < 168)
  | .fieldCapAdjust f _ => decide (f < 56)
  | .phaseFail r memRail i => decide (r < 896) && decide (i < (if memRail then 4 else 8))
  | .regionPowerDown r => decide (r < 896)
  | .powerDownProceed r => decide (r < 896)
  | .currentLimiterTrip r => decide (r < 896)
  | .wakeStageRequest r => decide (r < 896)
  | .wakeStageGrant f => decide (f < 56)
  | .wakeComplete r => decide (r < 896)
  | .rushPriorityRaise f => decide (f < 56)
  | .rushPriorityLift f => decide (f < 56)
  | .ballastWindow r _ => decide (r < 896)
  | .clockStepChange _ => true
  | .glideDone => true
  | .pwrBallastWrite _ => true
  | .pwrEnergyLoRead port => decide (port < 2)
  | .rgnwPwrELoRead port r => decide (port < 2) && decide (r < 896)
  | .rgnwVminTcLoRead port r => decide (port < 2) && decide (r < 896)
  | .rgnwVminTmLoRead port r => decide (port < 2) && decide (r < 896)
  | .vminValidClear r _ _ => decide (r < 896)
  | .rgnwTrcIdxWrite r _ => decide (r < 896)
  | .postedWriteApply r => decide (r < 896)
  | .coldStart => true
  | .st0FeedsPresent => true
  | .st1ManagementBoot _ _ _ _ _ _ => true
  | .st2FuseRead _ => true
  | .st3StackRailRamp _ => true
  | .coolantWaitTimeout => true
  | .st4MeshLock _ => true
  | .meshLockTimeout => true
  | .st5RegionSelfTest _ _ => true
  | .st6BuildLast => true
  | .st7MemoryTest _ => true
  | .st8RimTraining live => decide (live.length = 16)
  | .st9MeshRoutes _ => true
  | .st10EdgeTraining => true
  | .st10Record => true
  | .st11Readiness => true
  | .edgeTrainRetry k => decide (k < 32)
  | .restartByHost _ => true
  | .restartByContact => true
  | .restartPowerDown _ => true
  | .hostPortReset port => decide (port < 2)
  | .nodeDecouple r => decide (r < 896)
  | .refSwitchover => true
  | .refReturn ref => decide (ref < 2)
  | .clkTimeLoRead port => decide (port < 2)
  | .stgLocData0Read port => decide (port < 2)
  | .aliveOutToggle => true
  | .throttleGraceExpire r => decide (r < 896)
  | .thermalStretchAdjust r => decide (r < 896)
  | .converterOvertemp i => decide (i < 168)
  | .coolantPoll _ _ => true
  | .flowClampTimeout => true
  | .coolantSensorReaddress _ => true
  | .governorLimitUpdate _ => true
  | .governorHoldAdjust _ => true
  | .thmCfgWrite _ => true
  | .flashWriteResume => true
  | .mgmtWatchdogExpire => true
  | .recoveryQuietExpire => true
  | .rearm _ => true
  | .recover _ => true
  | .resumeRepair _ => true
  | .endRepair _ => true
  | .fltCfgWrite _ => true
  | .fltLogData0Read port => decide (port < 2)
  | .coreFailure c => coreOk c
  | .spareProcedureStep _ => true
  | .spareShipmentTimeout => true
  | .jobResume => true
  | .istWindow r _ _ _ => decide (r < 896)
  | .faultInjectArm _ => true
  | .logCopy block => optOk 64 block
  | .stage block _ => optOk 64 block
  | .select => true
  | .svcClear block => optOk 64 block
  | .pcr block _ => optOk 64 block
  | .debugAccess block _ => optOk 64 block
  | .mctpMessage _ _ => true
  | .getVersion _ => true
  | .getCapabilities _ => true
  | .negotiateAlgorithms _ => true
  | .getDigests _ => true
  | .getCertificate _ => true
  | .challenge _ => true
  | .getMeasurements _ => true
  | .keyExchange _ => true
  | .finish _ _ => true
  | .heartbeat _ _ => true
  | .keyUpdate _ _ => true
  | .endSession _ _ => true
  | .setKey _ => true
  | .setPolicy _ => true
  | .debug _ => true
  | .updatePolicy _ => true
  | .enrol _ => true
  | .remove _ => true
  | .fuse _ => true
  | .approve _ => true
  | .rollbackCounterAdvance => true
  | .secSelfTestPeriodic _ => true
  | .entropyHealthFail => true
  | .mgtLogLoRead port => decide (port < 2)
  | .secCtrLoRead port => decide (port < 2)
  | .secDbgLoRead port => decide (port < 2)
  | .glbSerialLoRead port => decide (port < 2)
  | .cmdPi p _ => decide (p < 64)
  | .assPi p _ => decide (p < 64)
  | .cplCi p _ => decide (p < 64)
  | .outCi p _ => decide (p < 64)
  | .xferPi n _ => decide (n < 2)
  | .ringCfgWrite p _ => decide (p < 64)
  | .xferCfgWrite n _ => decide (n < 2)
  | .ringEntryFetch p assist e => decide (p < 64) && optOk (if assist then 64 else 128) e
  | .keeper p e => decide (p < 64) && bytesOk 64 e
  | .walk p e _ => decide (p < 64) && bytesOk 64 e
  | .mover p e => decide (p < 64) && bytesOk 64 e
  | .xferEntryFetch n e _ => decide (n < 2) && optOk 32 e
  | .msixHoldoffExpire port vector => decide (port < 2) && decide (vector < 256)
  | .pmodeWrite p _ => decide (p < 64)
  | .glbModeWrite _ => true
  | .registerWrite port addr _ _ => decide (port < 2) && decide (addr % 4 = 0)
  | .edgeSend k _ _ _ _ _ => decide (k < 32)
  | .edgeFrameRx k _ => decide (k < 32)
  | .edgeControlFrame k _ => decide (k < 32)
  | .edgeControlTimer k => decide (k < 32)
  | .edgeReplay k _ => decide (k < 32)
  | .edgeLinkLoss k => decide (k < 32)
  | .edgeIngestFrame k _ => decide (k < 32)
  | .retrain _ => true
  | .disable _ => true
  | .enable _ => true
  | .modResetNRelease => true
  | .hostPortLinkUp port speed width => decide (port < 2) && decide (1 ≤ speed && speed ≤ 7) && decide (width = 1 ∨ width = 2 ∨ width = 4 ∨ width = 8)
  | .edgeTrainingSettled k result => decide (k < 32) && trainOk result
  | .stageFlashGateTimeout => true
  | .recentRecoveryExpire => true
  | .scratchpadScrub c _ _ _ => coreOk c
  | .railVoltageSample r _ mv => decide (r < 896) && decide (mv < 4096)

end Sys2Proof
end

