-- ==== Sys2Proof/Safety.lean ====
section
/-! DEFINITION. What a safe run of the block is, in the terms its claims use: the canonical form of its tables and memories, and a queue of
well-formed commands. -/

namespace Sys2Proof.Machine

/-- The register table is canonical: addresses strictly rising, and none listed at its reset value. -/
def regsCanonical (t : Tab Word) : Prop := tabSorted t = true ∧ ∀ e ∈ t, e.2 ≠ regReset e.1

/-- The tables and memories of the block in the one form that makes equal contents equal data: registers, captured halves, cores, regions,
partitions, rim memory, and host memory as the device has written it. -/
structure Canonical (s : State) : Prop where
  regs : regsCanonical s.regs
  capt : tabWf (0 : Word) s.capt = true
  cores : tabWf Core.zero s.cores = true
  regions : tabWf Region.zero s.regions = true
  parts : tabWf Part.zero s.parts = true
  rimMem : memWf s.rim.mem = true
  hostMem : memWf s.hostMem = true

/-- Every waiting command names units that exist. -/
def QueueOk (s : State) : Prop := ∀ c ∈ s.pending, wellFormed c = true

/-! ### The terms statements are made in -/

/-- Command c completes: `exec` answers a next state, and P holds of it. -/
def Completes (c : Instr) (s : State) (P : State → Prop) : Prop := ∃ t, exec c s = .next t ∧ P t

/-- Nothing but registers differs, and of these none but the ones at the addresses in l. -/
def OnlyRegs (l : List Nat) (s t : State) : Prop := t = { s with regs := t.regs } ∧ ∀ a, a ∉ l → t.rd a = s.rd a

/-- Command c is a software write of v to the register at a (R473): the bits of m take v and the others keep their values; a write that changes a bit
of neither m nor the read-only ro counts in RSVD, or sets TESTRSV in a test restart. Nothing else changes. -/
def Rewrites (c : Instr) (s : State) (a : Nat) (m ro v : Word) : Prop :=
  Completes c s fun t =>
    t.rd a = ((v &&& m) ||| (s.rd a &&& ~~~m)) ∧
    t.rd Reg.HIF_STAT = (if (v ^^^ s.rd a) &&& ~~~(m ||| ro) = 0 then s.rd Reg.HIF_STAT
      else if s.sec.testMode then setField (s.rd Reg.HIF_STAT) 7 7 1 else bumpField (s.rd Reg.HIF_STAT) 23 16 1) ∧
    OnlyRegs [a, Reg.HIF_STAT] s t

/-- Command c is a read that captures v for this port's next read of the register at hi (R469): nothing else changes, and no other capture does. -/
def Captures (c : Instr) (s : State) (port hi : Nat) (v : Word) : Prop :=
  Completes c s fun t => t.hostRead port hi = v ∧ t = { s with capt := t.capt } ∧
    ∀ b, b ≠ 2 * hi + port % 2 → tabGet 0 t.capt b = tabGet 0 s.capt b

/-- The core with this key issues instruction i, alone, in the cycle it passes (R106): it is a running core of a job, its next issue is due, nothing
lands or samples in the cycle, no wait or full queue holds the bundle, the instruction's unit is free and no check of it fails. -/
structure CanIssue (s : State) (key : Nat) (i : SlotIns) : Prop where
  ok : Canonical s
  running : (s.coreAt key).phase = .running
  due : (s.coreAt key).nextIssue ≤ (s.coreAt key).now
  job : ∃ p, (s.coreAt key).part = some p ∧ key ∈ (s.part p).started
  still : ∀ f ∈ (s.coreAt key).flight, (s.coreAt key).now < f.due
  defined : opDefined i = true
  noWait : heldWait (s.coreAt key) [i] = none
  room : i.slot = 4 → (s.injectQueue key).length < 32
  free : (s.coreAt key).occupied i = false
  check : checkIns s key i = none

/-- Core c issues instruction i, alone, in a cycle of its own: its clock runs and its job is not in stall mode. -/
structure Issuable (s : State) (c : CoreId) (i : SlotIns) : Prop extends CanIssue s (CoreId_key c) i where
  powered : (s.core c).powered = true
  notHeld : s.coreHeld (s.core c).part = false
  unlocked : ∀ p, (s.core c).part = some p → (s.part p).stall = false

/-- Core x after the cycle that issued i, where y is x with what i starts: the next bundle and the cycle of its issue (R164, R165), one cycle on. -/
def Core.stepped (x : Core) (i : SlotIns) (y : Core) : Core :=
  let n := nextPc { x with loops := y.loops } [i]
  { y with hold := 0, pc := n.1, lastPc := x.pc, nextIssue := x.now + n.2.1, loops := n.2.2, now := x.now + 1 }

end Sys2Proof.Machine
end

