-- ==== Sys2Proof/Certificates/Slice0/Obligations.lean ====
section
/-! DEFINITION. The statements for the provers: what each family of commands does, in the terms of the model, with the rules of spec/ each follows. -/

open Sys2Proof Sys2Proof.Machine

/-- A step takes the command at the front of the queue and does what it does, with the queue's rest; with none waiting a nanosecond passes while the always-on
group runs, the model's own choice for an idle block (notes/assumptions/2.md). -/
def Obligations.FrontCommandRuns : Prop :=
  ∀ (s : State) (c : Instr) (rest : List Instr),
    (s.pending = c :: rest → step s = exec c { s with pending := rest }) ∧
    (s.pending = [] → s.boot.alwaysOn = true → step s = .next { s with time := s.time + 1 }) ∧
    (s.pending = [] → s.boot.alwaysOn = false → step s = .next s)

/-- No command stops the block: every command answers a next state in every state, and leaves the queue as it is. -/
def Obligations.EveryCommandCompletes : Prop :=
  ∀ (c : Instr) (s : State), Completes c s fun t => t.pending = s.pending

/-- Reset: no command waits, the tables are canonical, registers read their reset values (those of the spec's tables among them), every unit that the model
lists sparsely is idle, and the always-on group does not run. -/
def Obligations.ResetState : Prop :=
  let s := State.reset
  s.pending = [] ∧ Canonical s ∧ QueueOk s ∧ s.boot.alwaysOn = false ∧ s.time = 0 ∧ s.srv.frozen = false ∧ s.sec.error = false ∧
  (∀ a, s.rd a = regReset a) ∧ (∀ r, s.region r = Region.zero) ∧ (∀ c, s.core c = Core.zero) ∧ (∀ p, p < 64 → s.pstate p = 0) ∧ s.fab.flits = [] ∧
  (∀ a, memGet s.rim.mem a = 0) ∧
  s.rd Reg.GLB_LAST_SHAPE = 0x03000000 ∧ s.rd Reg.FAB_CFG = 0x066003E8 ∧ s.rd Reg.SRV_CFG = 1 ∧ s.rd Reg.LDR_PWR_LIMIT = 0x7530 ∧ s.rd Reg.PWR_BALLAST = 8 ∧
  s.rd Reg.THM_CFG = 0x001E00C8 ∧ s.rd Reg.FLT_CFG = 0x003C0A00 ∧ (∀ p, p < 64 → s.rd (Reg.SRV_OUT_CFG p) = 6 ∧ s.rd (Reg.HIF_RCFG p) = 0x544 ∧
    s.rd (Reg.GLB_PRECISION_CFG p) = 0x108)

/-- Every step keeps the tables and memories canonical and the queue well-formed. -/
def Obligations.StepKeepsTheInvariant : Prop :=
  ∀ (s t : State), Canonical s → QueueOk s → step s = .next t → Canonical t ∧ QueueOk t

/-- R115: the changes of one counter that land in a cycle: a CTL set first, then every addition and subtraction, whose order does not matter. -/
def Obligations.CounterChanges : Prop :=
  ∀ (c : Core) (n : Nat) (v a b w : Word) (l l' : List Eff), (∀ u, Eff.ctrSet n u ∉ l) → l.Perm l' →
    c.landCtr l n = c.landCtr l' n ∧ c.landCtr (.ctrSet n v :: l) n = c.landCtr (l' ++ [.ctrSet n v]) n ∧
    (l = [.ctrAdd n a true, .ctrAdd n b false, .ctrSub n w] →
      (∀ x : Word, x = v + a + b - w → w.toNat ≤ v.toNat + a.toNat + b.toNat → v.toNat + a.toNat + b.toNat - w.toNat < 2 ^ 32 →
        c.landCtr (.ctrSet n v :: l) n = (c.wC n x, none) ∧ (c.rC n = v → c.landCtr l n = (c.wC n x, none))))

/-- R160: CSR writes the CSW word, SAT in bit 31 and OVL in bits 15 to 0, to A[AD] readable in the next cycle, with the saturation flag as it was; its clear,
when asked, lands in that cycle, and a set that lands there wins over it. -/
def Obligations.StatusReads : Prop :=
  ∀ (s : State) (c : CoreId) (d : BitVec 30),
    let o : BitVec 46 := d.setWidth 46
    let x := s.core c
    (Issuable s c ⟨0, 5, o⟩ → exec (.csr c d) s = .next (s.setCoreAt (CoreId_key c) (x.stepped ⟨0, 5, o⟩ { x with
      flight := x.flight ++ (⟨x.now + 1, 0, .regA (field o 29 25) (BitVec.ofNat 64 x.csw.toNat)⟩
        :: (if flag o 24 then [⟨x.now + 1, 0, .satClear⟩] else [])) }))) ∧
    (flag x.csw 31 = x.sat ∧ field x.csw 15 0 = x.ovl.toNat ∧ field x.csw 30 16 = 0) ∧
    (∀ (y : Core) (i : Nat) (v : Long), y.due = [.regA i v, .satClear] → y.land = ({ y.keep.wA i v with sat := false }, [])) ∧
    (∀ (y : Core) (i : Nat) (v : Long), y.due = [.regA i v] → y.land = (y.keep.wA i v, [])) ∧
    (∀ y : Core, Eff.satSet ∈ y.due → y.land.1.sat = true)

/-- R442: LOG_COPY writes COUNT entries of 32 bytes from entry FIRST to the host's buffer, those held as stored and the others as zeros, and returns the number
of entries with a nonzero NUMBER. -/
def Obligations.LogCopies : Prop :=
  ∀ (s : State) (m : MgtCmd) (b : Bytes) (q n : Nat), Canonical s → s.mgt.cmds.head? = some m → m.op = 1 → s.mgt.gateWait = none → m.block = none → m.seq = some q →
    let count := leAt b 16 4
    let buf := leAt b 0 8
    let entries := (List.range count).map fun i => s.logBytes (leAt b 8 8 + i)
    let kept := s.mgt.nextNumber < n + 32768 ∨ (n ≤ s.mgt.flashed ∧ s.mgt.flashed < n + 1048576)
    (0 < count → count ≤ 65536 → s.portUp m.port = true → Completes (.logCopy (some b)) s fun t =>
      memRead t.hostMem buf (32 * count) = entries.flatten ∧ (∀ a, a < buf ∨ buf + 32 * count ≤ a → memGet t.hostMem a = memGet s.hostMem a) ∧
      t.rd Reg.MGT_RES_DATA = BitVec.ofNat 32 (entries.filter fun e => decide (leAt e 0 8 ≠ 0)).length ∧ t.fld Reg.MGT_RES 31 16 = q % 65536 ∧
      t.fld Reg.MGT_RES 7 0 = 0 ∧ flag (t.rd Reg.MGT_RES) 15 = false) ∧
    (∀ e, tabFind s.mgt.entries n = some e → kept →
      s.logBytes n = leBytes 8 n ++ leBytes 2 e.code ++ leBytes 2 e.cold ++ leBytes 4 e.arg.toNat ++ slice e.body 0 16) ∧
    (tabFind s.mgt.entries n = none ∨ ¬kept → s.logBytes n = zeros 32)

/-- R141, R142, R146: a VEC instruction of one cycle reads its operands at its issue and writes every lane of V[VD], readable four cycles later; the core steps
to the next bundle and nothing else changes. Signs, operand B and the arithmetic are each instruction's own. -/
def Obligations.VecLaneResults : Prop :=
  ∀ (s : State) (c : CoreId) (o : BitVec 46),
    let x := s.core c
    let a := fun j => x.rV (field o 40 36) j
    let b := fun j => if flag o 25 then (x.rA (field o 35 31)).setWidth 32 else x.rV (field o 35 31) j
    let d := fun j => x.rV (field o 30 26) j
    let writes := fun (op : Nat) (f : Nat → Word) => s.setCoreAt (CoreId_key c) (x.stepped ⟨3, op, o⟩ { x with
      flight := x.flight ++ [⟨x.now + 4, 3, .lanes (field o 45 41) ((List.range 64).map fun j => (j, f j))⟩], busyVec := x.now + 1 })
    (Issuable s c ⟨3, 1, o⟩ → exec (.vfma c o) s = .next (writes 1 fun j =>
      toF32 ((negIf (flag o 24) ((f32 (a j)).mul (f32 (b j)))).add (negIf (flag o 23) (f32 (d j)))))) ∧
    (Issuable s c ⟨3, 2, o⟩ → exec (.vadd c o) s = .next (writes 2 fun j =>
      toF32 ((negIf (flag o 24) (f32 (a j))).add (negIf (flag o 23) (f32 (b j)))))) ∧
    (Issuable s c ⟨3, 3, o⟩ → exec (.vmul c o) s = .next (writes 3 fun j => toF32 (negIf (flag o 24) ((f32 (a j)).mul (f32 (b j)))))) ∧
    (Issuable s c ⟨3, 4, o⟩ → exec (.vmin c o) s = .next (writes 4 fun j => f32Min (a j) (b j))) ∧
    (Issuable s c ⟨3, 5, o⟩ → exec (.vmax c o) s = .next (writes 5 fun j => f32Max (a j) (b j))) ∧
    (Issuable s c ⟨3, 6, o⟩ → exec (.vcmp c o) s = .next (writes 6 fun j => if vcmpCond (field o 30 28) (a j) (b j) then 0xFFFFFFFF else 0)) ∧
    (Issuable s c ⟨3, 7, o⟩ → exec (.vsel c o) s = .next (writes 7 fun j => if d j = 0 then b j else a j)) ∧
    (Issuable s c ⟨3, 8, o⟩ → exec (.vbrl c o) s = .next (writes 8 fun _ => a (field o 35 30))) ∧
    (Issuable s c ⟨3, 9, o⟩ → exec (.vcvt c o) s = .next (writes 9 fun j => vcvtLane (field o 31 30) (field o 35 32) (a j))) ∧
    (∀ v w : Word, (f32 v).isNan = true → (f32 w).isNan = false →
      f32Min v w = w ∧ f32Min w v = w ∧ f32Max v w = w ∧ f32Max w v = w ∧
      (∀ u, f32Min v u = (if (f32 u).isNan then 0x7FC00000 else u) ∧ f32Max v u = (if (f32 u).isNan then 0x7FC00000 else u) ∧
        ∀ k, k < 8 → vcmpCond k v u = decide (k = 1 ∨ k = 6) ∧ vcmpCond k u v = decide (k = 1 ∨ k = 6))) ∧
    (∀ v w : Word, (f32 v).isNan = false → (f32 w).isNan = false →
      (vcmpCond 2 v w = (f32 v).lt (f32 w)) ∧ vcmpCond 4 v w = (f32 w).lt (f32 v) ∧ vcmpCond 0 v w = (!(f32 v).lt (f32 w) && !(f32 w).lt (f32 v)) ∧
      vcmpCond 1 v w = !vcmpCond 0 v w ∧ vcmpCond 3 v w = !vcmpCond 4 v w ∧ vcmpCond 5 v w = !vcmpCond 2 v w ∧ vcmpCond 6 v w = false ∧
      vcmpCond 7 v w = true ∧ ((f32 v).lt (f32 w) = true → f32Min v w = v ∧ f32Max v w = w ∧ f32Min w v = v ∧ f32Max w v = w)) ∧
    f32Min 0 0x80000000 = 0x80000000 ∧ f32Min 0x80000000 0 = 0x80000000 ∧ f32Max 0 0x80000000 = 0 ∧ f32Max 0x80000000 0 = 0 ∧ vcmpCond 0 0 0x80000000 = true

/-- R143 to R145, R147: reductions are readable at t + 8, transcendentals (in the partition's quality mode, four issue cycles) at t + 12, VROT and VACC at t +
4; VACC with its clear bit zeroes the accumulators it read at t + 3. R148 to R154: VQNT writes the records of 64 quantized elements at t + 6 and marks
saturation; ASMX and AREC take their first row in the issue cycle and keep the unit four cycles a row; AEND gives each row's statistics and reciprocal at t + 16
and empties its state at t + 1. -/
def Obligations.ReductionAndAttentionResults : Prop :=
  (∀ (s : State) (c : CoreId) (o : BitVec 46),
     let x := s.core c
     let q := s.coreMode (CoreId_key c)
     let a := fun j => x.rV (field o 40 36) j
     let writes := fun (op n : Nat) (l : Tab Word) (more : List Flight) (busy : Nat) => s.setCoreAt (CoreId_key c) (x.stepped ⟨3, op, o⟩ { x with
       flight := x.flight ++ [⟨x.now + n, 3, .lanes (field o 45 41) l⟩] ++ more, busyVec := x.now + busy })
     let all := fun (f : Nat → Word) => (List.range 64).map fun j => (j, f j)
     let one := fun (w : Word) => if flag o 29 then all fun _ => w else [(field o 35 30, w)]
     let tp := x.rT (field o 40 37)
     let i := psmRow tp 0 (field (x.rA (field o 36 32)) 8 0)
     (Issuable s c ⟨3, 12, o⟩ → exec (.vrmax c o) s = .next (writes 12 8 (one (reduce64 f32Max ((List.range 64).map a))) [] 1)) ∧
     (Issuable s c ⟨3, 13, o⟩ → exec (.vrsum c o) s = .next (writes 13 8 (one (reduce64 f32Add ((List.range 64).map a))) [] 1)) ∧
     (Issuable s c ⟨3, 16, o⟩ → exec (.vexp c o) s = .next (writes 16 12 (all fun j => transc q 0 (a j)) [] 4)) ∧
     (Issuable s c ⟨3, 17, o⟩ → exec (.vrcp c o) s = .next (writes 17 12 (all fun j => transc q 1 (a j)) [] 4)) ∧
     (Issuable s c ⟨3, 18, o⟩ → exec (.vrsq c o) s = .next (writes 18 12 (all fun j => transc q 2 (a j)) [] 4)) ∧
     (Issuable s c ⟨3, 19, o⟩ → exec (.vact c o) s = .next (writes 19 12 (all fun j => transc q (3 + field o 35 34) (a j)) [] 4)) ∧
     (Issuable s c ⟨3, 10, o⟩ → exec (.vacc c o) s = .next (writes 10 4
       (all fun j => if j < dCols tp + 1 then accLeaves (flag o 31) (dAnchor tp) (x.acc (i + j)) else 0)
       (if flag o 30 then [⟨x.now + 3, 3, .accWrite i (List.replicate (dCols tp + 1) Acc.zero)⟩] else []) 1)) ∧
     (Issuable s c ⟨3, 11, o⟩ → exec (.vrot c o) s = .next (writes 11 4 (all fun j =>
       let g := flag o 25
       let lo := if g then j % 32 else 2 * (j / 2)
       let hi := if g then j % 32 + 32 else 2 * (j / 2) + 1
       let k := if g then j % 32 else 2 * (j / 2)
       let cs := f32 (x.rV (field o 35 31) k)
       let sn := negIf (flag o 24) (f32 (x.rV (field o 30 26) k))
       if j = lo then toF32 (((f32 (a lo)).mul cs).add ((f32 (a hi)).mul sn).neg) else toF32 (((f32 (a hi)).mul cs).add ((f32 (a lo)).mul sn))) [] 1))) ∧
  (∀ (s : State) (c : CoreId) (o : BitVec 46),
     let x := s.core c
     let q := s.coreMode (CoreId_key c)
     let at_ := fun (i : SlotIns) (y : Core) => { x.stepped i y with now := x.now }
     (Issuable s c ⟨3, 24, o⟩ →
       let d := x.rT (field o 40 37)
       let e0 := field (x.rA (field o 36 32)) 15 0
       let y := field (x.rA (field o 36 32)) 31 16
       let b := dB d
       let per := decide (dLay d = 2)
       let src := (List.range 64).map fun i => (f32 (x.rV (field o 45 41) i), x.maskBit (flag o 27) (x.rT (field o 31 28)) 0 (e0 + i))
       let blocks := (List.range (64 / b)).map fun k => quantBlock (dFmt d) ((src.drop (k * b)).take b)
       let data := blocks.flatMap fun r => quantRecord per (dFmt d) b r.1
       let a := dBase d + y * dStride d + e0 / b * ((if per then 2 else 1) + b * fmtWidth (dFmt d) / 8)
       exec (.vqnt c o) s = .next (s.setCoreAt (CoreId_key c) (x.stepped ⟨3, 24, o⟩ { x with
         flight := x.flight ++ (Eff.bytes 0 a data :: (if blocks.any (·.2) then [.satSet] else [])).map fun e => ⟨x.now + 6, 3, e⟩, busyVec := x.now + 1 }))) ∧
     (Issuable s c ⟨3, 32, o⟩ →
       let z := (runAsmxRow q (at_ ⟨3, 32, o⟩ { x with busyVec := x.now + 4 * (field o 21 16 + 1) }) (asmxJob x o) 0).1
       exec (.asmx c o) s = .next (s.setCoreAt (CoreId_key c) { z with now := z.now + 1 })) ∧
     (Issuable s c ⟨3, 34, o⟩ →
       let z := (runArecRow q (at_ ⟨3, 34, o⟩ { x with busyVec := x.now + 4 * (field o 22 17 + 1) }) (arecJob x o) 0).1
       exec (.arec c o) s = .next (s.setCoreAt (CoreId_key c) { z with now := z.now + 1 })) ∧
     (Issuable s c ⟨3, 33, o⟩ →
       let tst := x.rT (field o 45 42)
       let row := fun (k : Nat) =>
         let r := (field o 36 31 + k) % 64
         let st := attnStats q (x.attnRow r)
         ([⟨x.now + 1, 3, .attnEmpty r⟩, ⟨x.now + 16, 3, .bytes 0 (dBase tst + k * dStride tst) (leBytes 4 st.1.toNat ++ leBytes 4 st.2.1.toNat)⟩,
           ⟨x.now + 16, 3, .lanes (field o 41 37) [(r, st.2.2)]⟩] : List Flight)
       exec (.aend c o) s = .next (s.setCoreAt (CoreId_key c) (x.stepped ⟨3, 33, o⟩ { x with
         flight := x.flight ++ (List.range (field o 30 25 + 1)).flatMap row, busyVec := x.now + 4 }))))

/-- R132 to R140: a DOT instruction keeps its unit for the cycles its chapter states and performs its first pair, row or group in its issue cycle; DRSC rescales
row k by the lane it read at issue, from t + 14 + k. -/
def Obligations.DotResults : Prop :=
  ∀ (s : State) (c : CoreId) (o : BitVec 46),
    let x := s.core c
    let j := dmmJob x o
    let at_ := fun (i : SlotIns) (busy : Nat) => { x.stepped i { x with busyDot := x.now + busy } with now := x.now }
    (Issuable s c ⟨2, 1, o⟩ →
      let r := runDmmPair (at_ ⟨2, 1, o⟩ (j.nb * j.kt * vecCycles j.tx)) j 0 0 0 []
      r.2 = [] → exec (.dmm c o) s = .next (s.setCoreAt (CoreId_key c) { r.1 with now := r.1.now + 1 })) ∧
    (Issuable s c ⟨2, 2, o⟩ →
      let z := (runDmmtPair (at_ ⟨2, 2, o⟩ (j.nb * j.kt * vecCycles j.tx)) j 0 0).1
      exec (.dmmt c o) s = .next (s.setCoreAt (CoreId_key c) { z with now := z.now + 1 })) ∧
    (Issuable s c ⟨2, 3, o⟩ →
      let z := (runDoutPair (at_ ⟨2, 3, o⟩ (4 * j.nb * j.kt)) j 0).1
      exec (.dout c o) s = .next (s.setCoreAt (CoreId_key c) { z with now := z.now + 1 })) ∧
    (Issuable s c ⟨2, 4, o⟩ →
      let z := (runDadnRow (at_ ⟨2, 4, o⟩ (j.nb * (ceilDiv (dCols j.tx + 1) 16 * ceilDiv (dCols j.tp + 1) 16))) j 0).1
      exec (.dadn c o) s = .next (s.setCoreAt (CoreId_key c) { z with now := z.now + 1 })) ∧
    (Issuable s c ⟨2, 5, o⟩ →
      let z := (runDaupRow (at_ ⟨2, 5, o⟩ (j.nb * (4 * ceilDiv (dCols j.tx + 1) 16))) j 0).1
      exec (.daup c o) s = .next (s.setCoreAt (CoreId_key c) { z with now := z.now + 1 })) ∧
    (Issuable s c ⟨2, 6, o⟩ →
      let tp := x.rT (field o 45 42)
      let row := fun (k : Nat) => (⟨x.now + 14 + k, 2, .accScale (psmRow tp (ixP0 (x.rA (field o 15 11))) k) (dCols tp + 1)
        (x.rV (field o 41 37) ((field o 36 31 + k / (field o 21 16 + 1)) % 64))⟩ : Flight)
      exec (.drsc c o) s = .next (s.setCoreAt (CoreId_key c) (x.stepped ⟨2, 6, o⟩ { x with
        flight := x.flight ++ (List.range (field o 30 22 + 1)).map row, busyDot := x.now + (field o 30 22 + 1) })))

/-- R158, R159, R161, R162, R166: a CTL instruction reads its operands at issue; its result is readable in the next cycle, a tile descriptor after two. R163 to
R165, R183: BR issues its target four cycles on and links pc + 1; LOOP with a count enters a loop level of which the next bundle is the first; LOOP with count 0
passes over the body in four cycles; the last bundle of a level either goes back or falls through; HALT ends the core, and with the last started core of a
running job the job begins to stop with reason 1. -/
def Obligations.ControlResults : Prop :=
  (∀ (s : State) (c : CoreId) (d : BitVec 30),
     let o : BitVec 46 := d.setWidth 46
     let x := s.core c
     let gives := fun (op n : Nat) (l : List Eff) => s.setCoreAt (CoreId_key c) (x.stepped ⟨0, op, o⟩ { x with
       flight := x.flight ++ l.map fun e => ⟨x.now + n, 0, e⟩ })
     let n := field o 27 24
     let v : Word := if flag o 18 then BitVec.ofNat 32 (field o 17 0) else (x.rA (field o 23 19)).setWidth 32
     let th : Word := if flag o 24 then BitVec.ofNat 32 (field o 18 0) else (x.rA (field o 23 19)).setWidth 32
     (Issuable s c ⟨0, 1, o⟩ → exec (.aop c d) s = .next (gives 1 1
       [.regA (field o 29 25) (aopFn (field o 14 11) (x.rA (field o 24 20)) (x.rA (field o 19 15)))])) ∧
     (Issuable s c ⟨0, 2, o⟩ → exec (.aopi c d) s = .next (gives 2 1
       [.regA (field o 29 25) (aopiFn (field o 19 17) (x.rA (field o 24 20)) (field o 16 0))])) ∧
     (Issuable s c ⟨0, 3, o⟩ → exec (.cmp c d) s = .next (gives 3 1
       [.regP (field o 29 27) (cmpCond (field o 21 19) (x.rA (field o 26 22))
         (if flag o 18 then BitVec.ofInt 64 (signed 18 (field o 17 0)) else x.rA (field o 17 13)))])) ∧
     (Issuable s c ⟨0, 4, o⟩ → exec (.plg c d) s = .next (gives 4 1
       [.regP (field o 29 27)
         (let p := xor (x.rP (field o 26 24)) (flag o 17)
         let q := xor (x.rP (field o 23 21)) (flag o 16)
         let f := field o 20 18
         if f = 0 then p && q else if f = 1 then p || q else if f = 2 then xor p q else if f = 3 then p else x.sat)])) ∧
     (Issuable s c ⟨0, 6, o⟩ → exec (.cctl c d) s = .next (gives 6 1
       [let f := field o 29 28
       if f = 0 then .regA (field o 23 19) (BitVec.ofNat 64 (x.rC n).toNat) else if f = 1 then .ctrSet n v else if f = 2 then .ctrAdd n v false
         else .ctrSub n v])) ∧
     (Issuable s c ⟨0, 7, o⟩ → th.toNat ≤ (x.rC (field o 29 26)).toNat →
       exec (.wait c d) s = .next (gives 7 1 (if flag o 25 then [.ctrSub (field o 29 26) th] else []))) ∧
     (Issuable s c ⟨0, 10, o⟩ → exec (.tset c d) s = .next (gives 10 2
       [.desc (field o 29 26) (x.rA (field o 25 21) ++ x.rA (field o 20 16))])) ∧
     (Issuable s c ⟨0, 11, o⟩ → exec (.tadj c d) s = .next (gives 11 2
       [.descBase (field o 29 26) (BitVec.ofNat 26 (dBase (x.rT (field o 29 26)) + (x.rA (field o 25 21)).toNat))]))) ∧
  (∀ (s : State) (c : CoreId) (d : BitVec 30),
     let o : BitVec 46 := d.setWidth 46
     let x := s.core c
     let n := if flag o 17 then field o 11 0 else field (x.rA (field o 16 12)) 31 0
     let target := if flag o 12 then field (x.rA (field o 11 7)) 11 0 else field o 29 18
     (Issuable s c ⟨0, 8, o⟩ → exec (.br c d) s = .next (s.setCoreAt (CoreId_key c) { x with
       flight := x.flight ++ (if field o 17 13 = 0 then [] else [⟨x.now + 1, 0, .regA (field o 17 13) (BitVec.ofNat 64 (x.pc + 1))⟩]),
       loops := x.loops.drop (field o 6 5), hold := 0, pc := target, lastPc := x.pc, nextIssue := x.now + 4, now := x.now + 1 })) ∧
     (Issuable s c ⟨0, 9, o⟩ → n = 0 → exec (.loop c d) s = .next (s.setCoreAt (CoreId_key c) { x with
       hold := 0, pc := field o 29 18 + 1, lastPc := x.pc, nextIssue := x.now + 4, now := x.now + 1 })) ∧
     (Issuable s c ⟨0, 9, o⟩ → n ≠ 0 → x.pc < field o 29 18 → (∀ l ∈ x.loops, l.last ≠ x.pc) → x.loops.length < 4 →
       exec (.loop c d) s = .next (s.setCoreAt (CoreId_key c) { x with
         loops := { start := x.pc + 1, last := field o 29 18, remaining := n } :: x.loops, hold := 0, pc := x.pc + 1, lastPc := x.pc,
         nextIssue := x.now + 1, now := x.now + 1 })) ∧
     (∀ p k, Issuable s c ⟨0, 13, 0⟩ → x.part = some p → k ∈ (s.part p).started → k ≠ CoreId_key c → (s.coreAt k).phase ≠ .ended →
       exec (.halt c) s = .next (s.setCoreAt (CoreId_key c) (x.stepped ⟨0, 13, 0⟩ { x with phase := .ended }))) ∧
     (∀ p, Issuable s c ⟨0, 13, 0⟩ → x.part = some p → (∀ k ∈ (s.part p).started, k ≠ CoreId_key c → (s.coreAt k).phase = .ended) →
       s.pstate p = 2 → (s.part p).stopEpoch = none →
       Completes (.halt c) s fun t => t.pstate p = 3 ∧ t.ersn p = 1 ∧ (t.core c).phase = .ended ∧ ∀ k, k ≠ CoreId_key c → t.coreAt k = s.coreAt k))

/-- R166 to R170: a MOV instruction reads at its issue and what it reads or writes is there three cycles later (a tile descriptor two; the second half of a
binary32 row, sampled one cycle after the first, three after that); MCP samples its first flit in its issue cycle and keeps the slot a cycle a flit. R170 to
R175, R197: VRD samples row j at t + 1 + j and holds the vertical port a cycle a row; VWR samples a quarter of a row a cycle from its issue cycle, each row
whole in the slice four cycles after its first quarter; SPR and SPW post one spool entry, whose access its job must be allowed. -/
def Obligations.MoveResults : Prop :=
  (∀ (s : State) (c : CoreId) (d : BitVec 38),
     let o : BitVec 46 := d.setWidth 46
     let x := s.core c
     let i := fun (op : Nat) => (⟨1, op, o⟩ : SlotIns)
     let moves := fun (op busy : Nat) (l : List Flight) => s.setCoreAt (CoreId_key c) (x.stepped (i op) { x with
       flight := x.flight ++ l, busyMov := x.now + busy })
     let a := (x.rA (field o 32 28) + BitVec.ofInt 64 (signed 16 (field o 25 10))).toNat
     let sp := field o 27 26
     let t := x.rT (field o 32 29)
     let e := x.rA (field o 28 24)
     let ra := dBase t + field e 31 16 * dStride t + field e 15 0 * fmtWidth (dFmt t) / 8
     let w := fmtWidth (dFmt t) / 8
     let elems := fun (at_ n : Nat) => (wordsAt (x.readSpace (dSpad t - 1) at_ (n * w)) w).map (loadElem t)
     let stored := (x.lanes (field o 37 33)).flatMap fun v => leBytes w (storeElem t v)
     let n := field o 25 20 + 1
     let src := (x.rA (field o 37 33)).toNat
     let dst := (x.rA (field o 31 27)).toNat
     (Issuable s c (i 1) → exec (.lda c d) s = .next (moves 1 1 [⟨x.now + 3, 1, .regA (field o 37 33) (if sp = 2 then BitVec.ofNat 64 (twos 64 (x.acc a).val)
       else BitVec.ofNat 64 (leNat (x.readSpace sp a 8)))⟩])) ∧
     (Issuable s c (i 2) → exec (.sta c d) s = .next (moves 2 1 [⟨x.now + 3, 1, if sp = 2 then .accWrite a [⟨(x.rA (field o 37 33)).toInt, false⟩]
       else .bytes sp a (leBytes 8 (x.rA (field o 37 33)).toNat)⟩])) ∧
     (Issuable s c (i 3) → dFmt t ≠ 14 → exec (.ldv c d) s = .next (moves 3 1 [⟨x.now + 3, 1, .lanes (field o 37 33) ((List.range 64).zip (elems ra 64))⟩])) ∧
     (Issuable s c (i 3) → dFmt t = 14 → exec (.ldv c d) s = .next (moves 3 2 [⟨x.now + 4, 1, .lanes (field o 37 33) ((List.range 32).zip (elems ra 32))⟩,
       ⟨x.now + 1, 1, .micro (.ldvHalf (field o 37 33) (dSpad t - 1) (ra + 128))⟩])) ∧
     (Issuable s c (i 4) → dFmt t ≠ 14 → exec (.stv c d) s = .next (moves 4 1 [⟨x.now + 3, 1, .bytes (dSpad t - 1) ra stored⟩])) ∧
     (Issuable s c (i 4) → dFmt t = 14 → exec (.stv c d) s = .next (moves 4 2 [⟨x.now + 3, 1, .bytes (dSpad t - 1) ra (stored.take 128)⟩,
       ⟨x.now + 4, 1, .bytes (dSpad t - 1) (ra + 128) (stored.drop 128)⟩])) ∧
     (Issuable s c (i 5) → exec (.tld c d) s = .next (moves 5 1 [⟨x.now + 2, 1, .desc (field o 37 34) (BitVec.ofNat 128 (leNat (memRead x.am
       (x.rA (field o 33 29) + BitVec.ofInt 64 (signed 16 (field o 28 13))).toNat 16)))⟩])) ∧
     (Issuable s c (i 6) → exec (.mcp c d) s = .next (moves 6 n
       ((List.range (n - 1)).map (fun k => ⟨x.now + (k + 1), 1, .micro (.mcpFlit (field o 32 32) (src + 128 * (k + 1)) (field o 26 26) (dst + 128 * (k + 1)))⟩)
         ++ [⟨x.now + 3, 1, .bytes (field o 26 26) dst (x.readSpace (field o 32 32) src 128)⟩])))) ∧
  (∀ (s : State) (c : CoreId) (d : BitVec 38),
     let o : BitVec 46 := d.setWidth 46
     let x := s.core c
     let k := field o 32 27 + 1
     let r0 := field (x.rA (field o 37 33)) 15 0
     let a := (x.rA (field o 25 21)).toNat
     let kib := field o 22 17 + 1
     let la := (x.rA (field o 28 24)).toNat
     let ra := (x.rA (field o 33 29)).toNat
     let req : Bool → SpoolReq := fun write => ⟨field o 37 34, write, field o 23 23, la, ra, kib, if flag o 12 then some (field o 16 13) else none, false,
       if write then x.readSpace (field o 23 23) la (1024 * kib) else [], []⟩
     let posts := fun (op : Nat) (write : Bool) => s.setCoreAt (CoreId_key c) (x.stepped ⟨1, op, o⟩ { x with
       spools := x.spools ++ [req write], busyMov := x.now + 1 })
     (Issuable s c ⟨1, 7, o⟩ → exec (.vrd c d) s = .next (s.setCoreAt (CoreId_key c) (x.stepped ⟨1, 7, o⟩ { x with
       flight := x.flight ++ (List.range k).map fun j => ⟨x.now + 1 + j, 1, .micro (.vrdRow (flag o 26) (r0 + j)
         (if flag o 26 then (field o 20 19 + j / 2) % 4 * 2048 + j % 2 * 1024 else a + 1024 * j))⟩,
       busyMov := x.now + 1, busyPort := x.now + k }))) ∧
     (Issuable s c ⟨1, 8, o⟩ → exec (.vwr c d) s = .next (s.setCoreAt (CoreId_key c) (x.stepped ⟨1, 8, o⟩ { x with
       flight := x.flight
         ++ (List.range (4 * k - 1)).map (fun q =>
           ⟨x.now + (q + 1), 1, .micro (.vwrQuarter (field o 26 26) (a + 256 * (q + 1)) (r0 + (q + 1) / 4) ((q + 1) % 4))⟩)
         ++ [⟨x.now + 4, 1, .slice (1024 * r0) (x.readSpace (field o 26 26) a 256)⟩],
       busyMov := x.now + 1, busyPort := x.now + 4 * k }))) ∧
     (∀ p, Issuable s c ⟨1, 9, o⟩ → x.part = some p → s.rimAllowed p ra (1024 * kib) false = true → exec (.spr c d) s = .next (posts 9 false)) ∧
     (∀ p, Issuable s c ⟨1, 10, o⟩ → x.part = some p → s.rimAllowed p ra (1024 * kib) true = true → exec (.spw c d) s = .next (posts 10 true)))

/-- R176 to R181: a NET instruction puts one flit in its core's injection queue, with its partition's key and the data it read at issue; SND and MCS with INC
advance both address registers past the bytes in the next cycle. -/
def Obligations.NetResults : Prop :=
  ∀ (s : State) (c : CoreId) (d : BitVec 38) (p : Nat),
    let o : BitVec 46 := d.setWidth 46
    let x := s.core c
    let n := 16 * (field o 24 22 + 1)
    let src := x.rA (field o 37 33)
    let ad := x.rA (field o 31 27)
    let f : Flit := ⟨.send, s.coreId (CoreId_key c), 0, (s.part p).key, .inject c.r c.k, x.readSpace (field o 32 32) src.toNat n, [], 0, 0, field o 21 18, flag o 17,
      0, none, none, none, false, (s.part p).epoch⟩
    let sends := fun (op : Nat) (g : Flit) (l : List Flight) => ({ s with fab := { s.fab with flits := s.fab.flits ++ [g] } }).setCoreAt (CoreId_key c)
      (x.stepped ⟨4, op, o⟩ { x with flight := x.flight ++ l })
    let inc := fun (step : Nat) => if flag o 16 then ([⟨x.now + 1, 4, .regA (field o 37 33) (src + BitVec.ofNat 64 n)⟩,
      ⟨x.now + 1, 4, .regA (field o 31 27) (ad + BitVec.ofNat 64 step)⟩] : List Flight) else []
    x.part = some p → c.k < 17 →
    (Issuable s c ⟨4, 1, o⟩ → exec (.snd c d) s = .next (sends 1 { f with dest := field ad 23 0, raddr := field ad 55 32, space := field o 26 25 }
      (inc (n * 2 ^ 32)))) ∧
    (Issuable s c ⟨4, 2, o⟩ → exec (.mcs c d) s = .next (sends 2 { f with
      kind := .multicast, raddr := field ad 23 0, space := field o 26 25, index := field o 15 6 } (inc n))) ∧
    (Issuable s c ⟨4, 3, o⟩ → exec (.rds c d) s = .next (sends 3 { f with
      kind := .contribution, data := [],
      accs := (List.range 16).map fun k => x.acc (psmRow (x.rT (field o 37 34)) 0 (field (x.rA (field o 33 29)) 8 0) + 16 * field o 28 27 + k),
      raddr := field (x.rA (field o 33 29)) 46 32, index := field o 26 17, cn := field o 16 13, ce := flag o 12 } [])) ∧
    (Issuable s c ⟨4, 4, o⟩ → exec (.sig c d) s = .next (sends 4 { f with
      kind := if flag o 32 then .signalMulti else .signal, data := [],
      dest := field src 23 0, index := field o 31 22, ce := true } []))

/-- R106, R114, R117, R203, R206, R183: a bundle of one executed slot issues as that instruction's command does; a wait that is not satisfied holds its bundle a
cycle, and in the cycle that reaches wait_limit it is detection 4, which stops the core and begins the stop of its job with reason 3; STL announces D stalled
cycles from 64 wall cycles on, or asks for a detour of its group; TRC writes its record into the trace ring of its region. R173, R174, R197: a spool completion
performs the oldest request of its spool: a read lands its bytes, frees the entry and counts in the core's next cycle; a write sends its source to rim memory,
and frees and counts alike. -/
def Obligations.WaitsAndSpools : Prop :=
  (∀ (s : State) (c : CoreId) (p : Nat),
     let x := s.core c
     let g := s.region c.r
     let holds := fun (ops : List SlotIns) (tb : Bool) (w : SlotIns) => Canonical s ∧ x.phase = .running ∧ x.powered = true ∧ s.coreHeld (some p) = false ∧
       x.part = some p ∧ (s.part p).stall = false ∧ x.nextIssue ≤ x.now ∧ (∀ f ∈ x.flight, x.now < f.due) ∧ x.fetch = some (ops, tb) ∧
       heldWait x ops = some w
     (∀ i, Issuable s c i → x.fetch = some ([i], false) → exec (.bundleIssue c) s = .next (s.slotCycle c i.slot i.op i.o)) ∧
     (∀ ops tb w, holds ops tb w → x.hold + 1 < (s.part p).waitLimit →
       exec (.bundleIssue c) s = .next (s.setCoreAt (CoreId_key c) { x with hold := x.hold + 1, now := x.now + 1 })) ∧
     (∀ ops tb w, holds ops tb w → (s.part p).waitLimit ≤ x.hold + 1 → p < 64 → s.pstate p = 2 → (s.part p).stopEpoch = none →
       Completes (.waitTimeout c) s fun t =>
         t.core c = { x.record 0 4 x.pc (field w.o 29 26) with phase := .stopped, hold := x.hold + 1, now := x.now + 1 } ∧
         (∀ k, k ≠ CoreId_key c → t.coreAt k = s.coreAt k) ∧ t.pstate p = 3 ∧ t.ersn p = 3) ∧
     (∀ (d : BitVec 30) (o : BitVec 46), o = d.setWidth 46 → CanIssue s (CoreId_key c) ⟨0, 12, o⟩ → x.part = some p → x.powered = true → c.k < 17 →
       s.coreHeld (some p) = false → (s.part p).stall = true → CoreId_key c ∉ (s.part p).walked → (s.part p).stalledFor g.dgroup = false →
       (∃ k ∈ s.lockCores p, k ≠ CoreId_key c ∧ k ∉ (s.part p).walked) → 0 < field o 29 14 →
       let y := s.part p
       exec (.stl c d) s = .next ((s.setPart p { y with
         stalls := if g.dgroup = 0 then y.stalls ++ [(y.wall + 64, y.wall + 63 + field o 29 14)] else y.stalls,
         detours := if g.dgroup = 0 then y.detours else addDetour y.epoch g.dgroup (field o 29 14) y.detours,
         walked := CoreId_key c :: y.walked }).setCoreAt (CoreId_key c) (x.stepped ⟨0, 12, o⟩ x))) ∧
     (∀ (d : BitVec 30) (o : BitVec 46), o = d.setWidth 46 → Issuable s c ⟨0, 14, o⟩ → x.part = some p → c.k < 17 → (s.part p).traceOn = true →
       exec (.trc c d) s = .next ((s.setRegion c.r { g with
         trace := memWrite g.trace (32 * (g.traceWr % 512)) (leBytes 8 s.now ++ leBytes 2 (field o 24 9) ++ leBytes 1 (x.logical.getD 0) ++ [0] ++
           leBytes 2 (x.pc % 4096) ++ leBytes 2 g.traceWr ++ leBytes 8 (x.rA (field o 29 25)).toNat ++ zeros 8),
         traceWr := (g.traceWr + 1) % 65536 }).setCoreAt (CoreId_key c) (x.stepped ⟨0, 14, o⟩ x)))) ∧
  (∀ (s : State) (c : CoreId) (q : SpoolReq),
     let x := s.core c
     let p := x.part.getD 64
     let done : List Flight := ⟨x.now, 4, .spoolFree q.sp⟩ :: (if q.ctr.isSome then [⟨x.now, 4, .ctrAdd (q.ctr.getD 0) 1 true⟩] else [])
     Canonical s → s.nextSpool (CoreId_key c) q.sp = some q → (s.part p).stall = false →
     (q.write = false → (s.rimRead q.rim (1024 * q.kib)).2 = 0 →
       let d := s.spoolBytes p (CoreId_key c) q (s.rimRead q.rim (1024 * q.kib)).1
       exec (.spoolCompletion c q.sp .clean) s = .next (({ s with fresh := s.fresh + 64 * q.kib }).setCoreAt (CoreId_key c) { x with
         flight := x.flight ++ ((if d.isEmpty then [] else [⟨x.now, 4, .bytes q.space q.localAddr d⟩] : List Flight) ++ done) })) ∧
     (q.write = true → (s.rimWrite q.rim (s.spoolSource (CoreId_key c) q)).2 = 0 →
       Completes (.spoolCompletion c q.sp .clean) s fun t =>
         t.rim.mem = (s.rimWrite q.rim (s.spoolSource (CoreId_key c) q)).1.rim.mem ∧ (t.core c).flight = x.flight ++ done ∧
         ∀ a, a ≠ Reg.FLT_INJ_CFG → a ≠ Reg.FLT_INJ_STAT → t.rd a = s.rd a))

/-- R210 to R217, R224, R225: a hub forwards the head unicast flit of an input by its destination's route: to the core's port at the destination hub, to the
stub of a welt endpoint, or along a ring, seven cycles on, where the next hub has room (one place straight on, two to enter a ring); a flit that fails the check
of its port is dropped, counted and logged. R60, R177, R180, R181, R213, R224: a flit ejected for a live core with its partition's key is held in the core from
the cycle it arrives in: its bytes land in the space it names, a sum is added to 16 accumulators, and the counter it names counts one; another partition's flit
is dropped. -/
def Obligations.FlitTravel : Prop :=
  (∀ (s : State) (i r inp : Nat) (f : Flit), s.fab.flits[i]? = some f → flitHub f.loc = some (r, inp) → unicast f.kind = true → s.isHead i f.loc = true →
     (s.region r).hubStopped = false →
     let u := { s with fab := { s.fab with replays := tabDrop s.fab.replays (10 * r + inp % 10) } }
     let leaves := fun (l : FlitLoc) => u.setFlits (s.fab.flits.eraseIdx i ++ [{ f with loc := l }])
     (∀ reason ekey, s.portCheck f = some (reason, ekey) →
       exec (.flitHop i false) s = .next ((u.setFlits (s.fab.flits.eraseIdx i)).violation reason f.key f.src f.dest ekey r inp)) ∧
     (∀ e, s.portCheck f = none → s.lookup f.dest = some e → s.outOf r f e = 10 →
       (∀ g ∈ s.fab.flits, g.loc = .eject r → g.dest ≠ f.dest) → exec (.flitHop i false) s = .next (leaves (.eject r))) ∧
     (∀ e q, s.portCheck f = none → s.lookup f.dest = some e → s.outOf r f e = q → q = 8 ∨ q = 9 → 10 * r + q ∉ s.fab.failedLinks →
       (∀ g ∈ s.fab.flits, g.loc ≠ .welt r q) → exec (.flitHop i false) s = .next ((leaves (.welt r q)).countFlit r q)) ∧
     (∀ e q t, s.portCheck f = none → s.lookup f.dest = some e → s.outOf r f e = q → q < 4 → s.outranked r q f = false → s.ringHub r q = some t →
       10 * r + s.ringPort r q ∉ s.fab.failedLinks → (s.region t).hubStopped = false →
       s.inBuffer (.hub t (opp (s.ringPort r q))) + placesNeeded f.loc q ≤ 4 →
       exec (.flitHop i false) s = .next ((u.setFlits (s.fab.flits.eraseIdx i ++ [{ f with
         loc := .hub t (opp (s.ringPort r q)), left := none, headSince := none, stalled := false, landing := f.landing.map (· + 7) }])).countFlit r
           (s.ringPort r q)))) ∧
  (∀ (s : State) (i r n k : Nat) (f : Flit) (e : Endpoint), s.fab.flits[i]? = some f → f.loc = .eject r → s.lookup f.dest = some e →
     e.port = .core n → s.dead r = false → f.landing = none →
     let u := s.setFlits (s.fab.flits.eraseIdx i)
     let x := s.coreAt k
     let holds := fun (l : List Eff) => u.setCoreAt k { x with
       flight := x.flight ++ l.map fun b => ⟨x.now, 4, b⟩ }
     let counts := (if f.ce then [.ctrAdd f.cn 1 true] else [] : List Eff)
     (e.key ≠ f.key → exec (.flitDelivery i) s = .next (u.violation 4 f.key f.src f.dest e.key r 10)) ∧
     (e.key = f.key → s.sliceKey r n = some k → f.kind = .send ∨ f.kind = .multicast →
       exec (.flitDelivery i) s = .next (holds (.bytes f.space f.raddr f.data :: counts))) ∧
     (e.key = f.key → s.sliceKey r n = some k → f.kind = .signal ∨ f.kind = .signalMulti → exec (.flitDelivery i) s = .next (holds counts)) ∧
     (e.key = f.key → s.sliceKey r n = some k → f.kind = .reduced → (∀ a ∈ f.accs, a.sat = false) →
       exec (.flitDelivery i) s = .next (holds ((List.range 16).map (fun j => .accAdd (f.raddr + j) [((f.accs[j]?).getD Acc.zero).val]) ++ counts))))

/-- R212, R213, R419: a replay is counted at its hub and is a corrected fault; after eight in a row the link fails at both its ends and every partition whose
routes cross it stops; the test that follows kills the hub that fails it, the receiver when neither does. R232 to R234: a period ends with a new generation of
the congestion map, an entry for each port of each hub of the last, flits and holds since the period before in 256ths of its cycles; a log is cleared and
re-armed by writing 1 to its VALID. -/
def Obligations.LinkEventsAndTelemetry : Prop :=
  (∀ (s : State) (r q : Nat), Canonical s → r < 896 → q < 10 →
     (s.linkState r q = 1 → Completes (.linkReplay r q) s fun t =>
       t.rd (Reg.RGNW_HUB_ERR r) = bumpField (s.rd (Reg.RGNW_HUB_ERR r)) 15 0 1 ∧ t.rd (Reg.FLT_CNT 0) = s.rd (Reg.FLT_CNT 0) + 1 ∧
       t.fab = { s.fab with replays := tabAdd s.fab.replays (10 * r + q) (tabGet 0 s.fab.replays (10 * r + q) + 1) }) ∧
     (s.linkState r q = 1 → 8 ≤ tabGet 0 s.fab.replays (10 * r + q) →
       let ps := s.partsWith (s.usesLink r q)
       let u := s.setFld (Reg.RGNW_HUB_LINK r) (2 * q + 1) (2 * q) 2
       let fails := fun (l : List Nat) (v : State) =>
         (({ v with fab := { s.fab with failedLinks := s.fab.failedLinks ++ l, replays := tabDrop s.fab.replays (10 * r + q) } }).bump Reg.FAB_STAT 15 8).linkFaults
           ps (linkLocus r q)
       (s.linkPeer r q = none → exec (.linkFailure r q) s = .next (fails [10 * r + q] u)) ∧
       ∀ t o, s.linkPeer r q = some (t, o) →
         exec (.linkFailure r q) s = .next (fails [10 * r + q, 10 * t + o] (u.setFld (Reg.RGNW_HUB_LINK t) (2 * o + 1) (2 * o) 2))) ∧
     (∀ t o a b, s.linkState r q = 2 → s.dead r = false → s.linkPeer r q = some (t, o) → s.dead t = false →
       exec (.hubLinkTest r q a b) s = .next (if b then (if a then s.hubDies r else s).hubDies t else s.hubDies r)) ∧
     ((s.region r).cause = 0 → ((s.hubDies r).region r).cause = 8 ∧ ((s.hubDies r).region r).hubStopped = true ∧ ((s.hubDies r).region r).hubOn = false)) ∧
  (∀ (s : State) (v : Word) (cycles : Nat), Canonical s →
     (0 < cycles → 0 < s.last.lcols → Completes (.cmapPeriodTick cycles) s fun t =>
       t.fab.cmapGen = nextGen s.fab.cmapGen ∧ t.fld Reg.FAB_STAT 31 16 = nextGen s.fab.cmapGen % 65536 ∧ OnlyRegs [Reg.FAB_STAT] { s with fab := t.fab } t ∧
       ∀ x y q, x < s.last.lcols → y < 27 → q ∈ s.mapPorts x y →
         let o := s.mapSource x y q
         tabGet (0, 0) t.fab.cmap (mapKey x y q) =
           (cmapShare (s.rd (Reg.RGNW_HUB_FLITS o.1 o.2)) (BitVec.ofNat 32 (tabGet 0 s.fab.prevFlits (10 * o.1 + o.2))) cycles,
             cmapShare (s.rd (Reg.RGNW_HUB_HOLD o.1 o.2)) (BitVec.ofNat 32 (tabGet 0 s.fab.prevHold (10 * o.1 + o.2))) cycles)) ∧
     (s.weltDown = false → Completes (.fabViolLogClear v) s (fun t => OnlyRegs [Reg.FAB_VIOL_LOG0, Reg.FAB_VIOL_LOG1, Reg.FAB_VIOL_LOG2, Reg.FAB_VIOL_LOG3, Reg.HIF_STAT] s t ∧
       ∀ a ∈ [Reg.FAB_VIOL_LOG0, Reg.FAB_VIOL_LOG1, Reg.FAB_VIOL_LOG2, Reg.FAB_VIOL_LOG3], t.rd a = if flag v 31 then 0 else s.rd a)) ∧
     (s.weltDown = false → Completes (.fabStallLogClear v) s (fun t => OnlyRegs [Reg.FAB_STALL_LOG0, Reg.FAB_STALL_LOG1, Reg.FAB_STALL_LOG2, Reg.HIF_STAT] s t ∧
       ∀ a ∈ [Reg.FAB_STALL_LOG0, Reg.FAB_STALL_LOG1, Reg.FAB_STALL_LOG2], t.rd a = if flag v 31 then 0 else s.rd a)))

/-- R226 to R228: the hub of the head multicast flit gives each branch of its bridle entry a copy as room allows, and its place is free with the last; with no
entry it is dropped with reason 6; a local branch held for the limit is captured in the stall log and is a job-fatal fault, once. -/
def Obligations.MulticastBranches : Prop :=
  ∀ (s : State) (i r inp : Nat) (f : Flit), s.fab.flits[i]? = some f → flitHub f.loc = some (r, inp) →
    (isMulticast f.kind = true → s.isHead i f.loc = true → (s.region r).hubStopped = false →
      (f.left = none → s.bridle r f.key f.index = none →
        exec (.multicastReplicate i) s = .next ((s.dropFlit i).violation 6 f.key f.src 0 0 r inp)) ∧
      (∀ l, f.left = none → s.bridle r f.key f.index = some l →
        let a := s.takeBranches f r l
        exec (.multicastReplicate i) s = .next (if a.2.isEmpty then a.1.dropFlit i
          else a.1.setFlits (a.1.fab.flits.set i { f with left := some a.2, headSince := some (f.headSince.getD a.1.time) }))) ∧
      (∀ n x y, f.left = none → s.bridle r f.key f.index = some [.core n] → s.last.logical r = some (x, y) →
        (∀ g ∈ s.fab.flits, g.loc = .eject r → g.dest ≠ s.idOf x y (.core n)) →
        exec (.multicastReplicate i) s = .next (s.setFlits ((s.fab.flits ++ [{ f with loc := .eject r, dest := s.idOf x y (.core n), left := none }]).eraseIdx i)))) ∧
    (∀ b l t p, f.left = some l → f.headSince = some t → f.stalled = false → 4 ≤ b → branchOf b ∈ l → s.keyOwner f.key = some p →
      2 ^ (s.fld Reg.FAB_CFG 27 24 + 10) ≤ s.cyclesSince t →
      let target := if b = 4 then s.seqId r else if b < 10 then 0 else if (s.last.logical r).isNone then 0
        else s.idOf ((s.last.logical r).getD (0, 0)).1 ((s.last.logical r).getD (0, 0)).2 (.core (b - 10))
      exec (.multicastStallTimeout i b) s = .next (((s.setFlits (s.fab.flits.set i { f with stalled := true })).stallLog 0 p f.index target r).jobFatal
        (some p) 34 6 (regionLocus r)))

/-- R47, R48, R85, R229, R234: the first contribution of an index opens a round, a hub holding 32 at most, and the others join it; complete, it leaves as the
exact, saturated sums of its 16 words; a round open for the limit is captured in the stall log and is a job-fatal fault, once. -/
def Obligations.ReductionRounds : Prop :=
  ∀ (s : State) (i : Nat),
    (∀ (f : Flit) (r inp : Nat) (t : TreeEntry), s.fab.flits[i]? = some f → flitHub f.loc = some (r, inp) → f.kind = .contribution →
      s.isHead i f.loc = true → (s.region r).hubStopped = false → s.tree r f.key f.index = some t →
      let same := fun (x : Round) => decide (x.r = r) && decide (x.key = f.key) && decide (x.index = f.index) && decide (x.d = f.raddr)
      ((∀ x ∈ s.fab.rounds, same x = false) → s.openRounds r < 32 →
        exec (.reduceContribution i) s = .next ((s.dropFlit i).setRounds (s.fab.rounds ++ [{
          r := r, key := f.key, index := f.index, d := f.raddr, got := [s.inputOf f.loc], parts := [f.accs], cn := f.cn, ce := f.ce, opened := s.time,
          landing := f.landing, src := f.src, faulted := false }]))) ∧
      (∀ x l m, s.fab.rounds = l ++ x :: m → (∀ y ∈ l, same y = false) → same x = true → s.inputOf f.loc ∉ x.got → f.landing = none →
        exec (.reduceContribution i) s = .next ((s.dropFlit i).setRounds (l ++ { x with
          got := x.got ++ [s.inputOf f.loc], parts := x.parts ++ [f.accs], ce := x.ce || f.ce } :: m)))) ∧
    (∀ (x : Round) (t : TreeEntry), s.fab.rounds[i]? = some x → s.tree x.r x.key x.index = some t →
      let f : Flit := ⟨.contribution, x.src, t.dest, x.key, .eject x.r, [], roundSum x.parts, 0, x.d, x.cn, x.ce, x.index, none, none,
        if 1 < t.inputs.length then x.landing.map (· + 2) else x.landing, false, 0⟩
      let gone := { s with fab := { s.fab with rounds := s.fab.rounds.eraseIdx i } }
      ((∀ b ∈ t.inputs, b ∈ x.got) → t.out = .seq ∨ (∃ n, t.out = .core n) → (∀ g ∈ s.fab.flits, g.loc = .eject x.r → g.dest ≠ t.dest) →
        exec (.reductionRoundForward i) s = .next (gone.addFlit { f with kind := .reduced })) ∧
      (∀ q u, (∀ b ∈ t.inputs, b ∈ x.got) → t.out = .dir q → gone.sendRing f x.r q (if .dir (opp q) ∈ t.inputs then 1 else 2) = some u →
        exec (.reductionRoundForward i) s = .next u) ∧
      (∀ p, x.faulted = false → 2 ^ (s.fld Reg.FAB_CFG 23 20 + 10) ≤ s.cyclesSince x.opened → missingInputs t x ≠ 0 → s.keyOwner x.key = some p →
        exec (.reductionStallTimeout i) s = .next ((({ s with fab := { s.fab with rounds := s.fab.rounds.set i { x with faulted := true } } }).stallLog 1 p x.index
          (missingInputs t x) x.r).jobFatal (some p) 34 6 (regionLocus x.r)))) ∧
    (∀ (l : List (List Acc)) (k : Nat), k < 16 → (∀ p ∈ l, let a := (p[k]?).getD Acc.zero; a.sat = false ∧ accBot ≤ a.val ∧ a.val ≤ accTop) →
      let v := (l.map fun p => ((p[k]?).getD Acc.zero).val).sum
      (roundSum l)[k]? = some (if accBot ≤ v ∧ v ≤ accTop then ⟨v, false⟩ else if 0 < v then ⟨accTop, true⟩ else ⟨accBot, true⟩))

/-- R186 to R189: the sequencer of a powered region executes the 32-bit word at its pc (here with no code error): x0 reads 0 and drops what is written to it,
the rest of the registers take the result, the pc moves on or goes where a jump or a taken branch says, and nothing else changes; what its address map or its
instruction set does not have is a sequencer fault with its code. -/
def Obligations.SequencerInstructions : Prop :=
  ∀ (s : State) (r : Nat), Canonical s →
    let g := s.region r
    let q := g.seq
    let pc := q.pc.toNat
    let w : Word := BitVec.ofNat 32 (leNat (memRead q.sram pc 4))
    let op := field w 6 0
    let rd := field w 11 7
    let f3 := field w 14 12
    let a := q.rx (field w 19 15)
    let b := q.rx (field w 24 20)
    let done := fun (d : Nat) (v : Word) (next : Nat) => s.setRegion r { g with
      seq := { (q.wx d v) with state := 2, pc := BitVec.ofNat 32 next, lastRetired := q.pc } }
    let runs := fun (t : State) => exec (.seqInstruction r .clean) s = .next t
    let at_ := (a.toNat + sx 12 (field w 31 20)) % 2 ^ 32
    g.pstate ≠ 0 → q.awake = true → pc + 4 ≤ 0x40000 → field (BitVec.ofNat 16 (leNat (memRead q.sram pc 2))) 1 0 = 3 →
    (op = 0x37 → runs (done rd (BitVec.ofNat 32 (field w 31 12 * 4096)) (pc + 4))) ∧
    (op = 0x17 → runs (done rd (BitVec.ofNat 32 (pc + field w 31 12 * 4096)) (pc + 4))) ∧
    (op = 0x6F → runs (done rd (BitVec.ofNat 32 (pc + 4))
      ((pc + sx 21 (field w 31 31 * 1048576 + field w 19 12 * 4096 + field w 20 20 * 2048 + field w 30 21 * 2)) % 2 ^ 32))) ∧
    (op = 0x67 → f3 = 0 → runs (done rd (BitVec.ofNat 32 (pc + 4)) (at_ / 2 * 2))) ∧
    (∀ t, op = 0x63 → branchTaken f3 a b = some t → runs (done 0 0 (if t then
      (pc + sx 13 (field w 31 31 * 4096 + field w 7 7 * 2048 + field w 30 25 * 32 + field w 11 8 * 2)) % 2 ^ 32 else pc + 4))) ∧
    (∀ v, op = 0x13 → immFn f3 (field w 31 20) a = some v → runs (done rd v (pc + 4))) ∧
    (∀ v, op = 0x33 → field w 31 25 ≠ 1 → aluFn f3 (field w 31 25) a b = some v → runs (done rd v (pc + 4))) ∧
    (op = 0x33 → field w 31 25 = 1 → runs (done rd (mulFn f3 a b) (pc + 4))) ∧
    (∀ n, op = 0x03 → accessSize f3 = some n → at_ % n = 0 → at_ < 0x40000 →
      runs (done rd (loadValue f3 (leNat (memRead q.sram at_ n))) (pc + 4))) ∧
    (∀ n, op = 0x03 → accessSize f3 = some n → at_ % n ≠ 0 → runs ((s.setRegion r { g with seq := { q with state := 2 } }).seqFault r 2)) ∧
    (op = 0x73 → w ≠ 0x10500073 → runs ((s.setRegion r { g with seq := { q with state := 2 } }).seqFault r 1))

/-- R191 to R193, R224: an arrival writes its bytes to sequencer SRAM and counts one on the counter it names; a ring register takes the bits it holds; an
emission takes a credit of its ring and a slot, or is counted as refused without a credit, and is then held in every core of its mask. -/
def Obligations.SequencerMessages : Prop :=
  ∀ (s : State) (r : Nat), Canonical s →
    let g := s.region r
    (∀ i f e, s.seqFlit i = some (r, f, e) → s.dead r = false →
      (e.key ≠ f.key → exec (.seqArrival i) s = .next ((s.dropFlit i).violation 4 f.key f.src f.dest e.key r 11)) ∧
      (e.key = f.key → f.kind = .send ∨ f.kind = .multicast → exec (.seqArrival i) s = .next
        (if f.ce then ((s.dropFlit i).sramWrite r (f.raddr % 262144) f.data).scAdd r f.cn else (s.dropFlit i).sramWrite r (f.raddr % 262144) f.data)) ∧
      (e.key = f.key → f.kind = .signal ∨ f.kind = .signalMulti → f.ce = true → exec (.seqArrival i) s = .next ((s.dropFlit i).setRegion r { g with
        seq := { g.seq with sc := tabSet 0 g.seq.sc f.cn (if tabGet 0 g.seq.sc f.cn = 0xFFFFFFFF then 0xFFFFFFFF else tabGet 0 g.seq.sc f.cn + 1) } }))) ∧
    (∀ off v, g.pstate ≠ 0 → Completes (.sqRingConfig r off v) s fun t => OnlyRegs [winBase r + off] s t ∧
      t.rd (winBase r + off) = if 0x730 ≤ off then v else if off % 8 = 0 then v &&& 0xFFFFFF00 else v &&& 0x000FFFC0) ∧
    (∀ v, g.pstate ≠ 0 → tabGet 0 g.seq.sc (12 + field v 31 30) = 0 →
      exec (.sqEmit r v) s = .next (s.bump (Reg.RGNW_SQ_ESTAT r) 15 8)) ∧
    (∀ v p, g.pstate ≠ 0 → tabGet 0 g.seq.sc (12 + field v 31 30) ≠ 0 → s.owner r = some p → (s.part p).stall = false →
      let i := field v 31 30
      let n := s.ringLog2 r i
      exec (.sqEmit r v) s = .next ((s.setRegion r { g with
        seq := { g.seq with sc := tabSet 0 g.seq.sc (12 + i) (tabGet 0 g.seq.sc (12 + i) - 1) },
        ringSlot := tabSet 0 g.ringSlot i (tabGet 0 g.ringSlot i + 1),
        emissions := g.emissions ++ [⟨slice (memRead g.seq.sram (16 * field v 13 0) 16) 0 16, BitVec.ofNat 16 (s.fld (Reg.RGNW_SQ_RING_A r i) 31 16),
          s.fld (Reg.RGNW_SQ_RING_A r i) 15 12, s.fld (Reg.RGNW_SQ_RING_B r i) 19 0, n, tabGet 0 g.ringSlot i % 2 ^ n, none, i, false⟩] }).wr
          (Reg.RGNW_SQ_RING_DUE r i) 0)) ∧
    (∀ e l k, g.emissions = e :: l → s.maskCores r e.mask = [k] → e.data ≠ [] →
      let x := s.coreAt k
      exec (.emissionDelivery r) s = .next ((s.setRegion r { g with emissions := l }).setCoreAt k { x with
        flight := x.flight ++ [⟨x.now, 4, .bytes 0 (e.base + 16 * e.slot) e.data⟩, ⟨x.now, 4, .ctrAdd e.cn 1 true⟩] }))

/-- R195, R196: the mover takes a descriptor of its partition's memory into a queue of 16, counts it as refused when the queue is full and faults on a wrong
one; a completion copies the oldest entry, removes it, and counts in the sequencer and in the cores of its mask. R203 to R207: in stall mode an item that is not
ready 64 epochs before its due adds a stalled cycle and, once a run of them, an event; a ready one lands at its due; a detour starts 64 epochs after its
request; a stop becomes pending in every core at its common epoch. -/
def Obligations.MoverAndLockstep : Prop :=
  (∀ (s : State) (r p : Nat), Canonical s →
     let g := s.region r
     (∀ v, g.pstate ≠ 0 → s.owner r = some p →
       let b := memRead g.seq.sram (32 * field v 12 0) 32
       (16 ≤ g.moves.length → exec (.sqMov r v) s = .next (s.bump (Reg.RGNW_SQ_ESTAT r) 15 8)) ∧
       (g.moves.length < 16 → s.moverBad r b = true → exec (.sqMov r v) s = .next (s.seqFault r 3)) ∧
       (g.moves.length < 16 → s.moverBad r b = false → s.moverRim p (moverDesc b none) = none → (s.part p).stall = false →
         exec (.sqMov r v) s = .next (s.setRegion r { g with moves := g.moves ++ [{ moverDesc b none with due := none }] }))) ∧
     (∀ m l chk, g.moves = m :: l → m.done = false → m.due = none → (∀ n ∈ l, n.done = false) →
       exec (.moverCompletion r chk) s = .next (((s.moveData r m chk).modRegion r fun h => { h with moves := l }).landMove r m))) ∧
  (∀ (s : State) (p : Nat), Canonical s →
     let x := s.part p
     (∀ i d, x.due[i]? = some d → d.ready = false → d.due ≤ x.epoch + 64 → s.pstate p = 2 →
       let w := x.wall + 64
       let t := s.setPart p { x with stalls := x.stalls ++ [(w, w)], lateRun := some w }
       exec (.dueItemLateStall p i) s = .next (if ∃ l ∈ x.lateRun, w ≤ l + 1 then t else t.bump (Reg.GLB_LOCK_EVT p) 15 0)) ∧
     (∀ i d r e, x.due[i]? = some d → d.ready = true → d.due ≤ x.epoch → d.kind = .emission r e → d.late = false →
       exec (.dueItemLand p i) s = .next ((s.setPart p { x with due := x.due.eraseIdx i }).landEmission r e)) ∧
     (∀ n g d l, x.detours = (n, g, d) :: l → x.detourNow = none → n + 64 ≤ x.epoch → x.announced = false → s.pstate p ≠ 0 →
       exec (.detourStart p) s = .next ((s.setPart p { x with detours := l, detourNow := some (g, d) }).bump (Reg.GLB_LOCK_EVT p) 31 16)) ∧
     (∀ e, x.stopEpoch = some e → e ≤ x.epoch →
       exec (.stopEpochReached p) s = .next ((s.setPart p { x with stopEpoch := none, stopPending := true, stopTime := some s.time }).setPState p 3)))

/-- R274, R275, R277 and Table 10-4: what each operation does to the page's record when its keeper performs it, nothing waiting; its conditions, and the status
of one refused, which counts in ERRS. ALLOC and COPY take a free record and a free slot of the group, whichever the keeper picks. -/
def Obligations.KeeperOperations : Prop :=
  ∀ (s : State) (r grp page : Nat) (tent : Bool), (s.region r).pstate ≠ 0 → (s.keeper r).queue = [] →
    let k := s.keeper r
    let after := fun (k' : Keeper) (st : Nat) => ((({ s with fresh := s.fresh + 2 }).setKeeper r k').kStatus r st).publishKeeper r
    let freeRec := fun (g i : Nat) => i < 65536 ∧ tabFind k.recs i = none ∧ ∀ z ∈ k.zeroing, ¬(z.index = some i ∧ z.grp = g)
    let freeSlot := fun (g sl : Nat) => sl < k.slots ∧ k.slotTaken g sl = false
    let freeRim := fun (sl : Nat) => sl < k.rslots ∧ k.rimTaken sl = false
    let new := fun (st ref g sl : Nat) => ({ grp := g, state := st, ref := ref, pin := 0, handles := 0, slot := sl, rslot := 0 } : PageRec)
    let move := fun (kind other : Nat) (t : Bool) => ({ kind := kind, page := page % 65536, other := other, src := .serving, tent := t } : PageMove)
    let dropped := fun (x : PageRec) => if x.ref = 0 ∧ x.pin = 0 ∧ (x.state = 1 ∨ x.state = 2 ∨ x.state = 5) then k.reclaim (page % 65536) x else k.put page x
    (k.owner = true → grp < k.groups → (∃ i, freeRec grp i) → (∃ sl, freeSlot grp sl) → ∃ i sl, freeRec grp i ∧ freeSlot grp sl ∧
      exec (.alloc r grp tent) s = .next (after { k with recs := tabAdd k.recs i (new (if tent then 2 else 1) 1 grp sl) } 0)) ∧
    (k.owner = false ∨ k.groups ≤ grp → exec (.alloc r grp tent) s = .next (after k 7)) ∧
    (k.owner = true → grp < k.groups → (¬∃ sl, freeSlot grp sl) → (∃ i, freeRec grp i) → exec (.alloc r grp tent) s = .next (after k 2)) ∧
    (k.owner = true → grp < k.groups → (¬∃ i, freeRec grp i) → exec (.alloc r grp tent) s = .next (after k 1)) ∧
    (k.find page = none → exec (.ref r page) s = .next (after k 7) ∧ exec (.deref r page) s = .next (after k 7) ∧ exec (.pin r page) s = .next (after k 7) ∧
      exec (.unpin r page) s = .next (after k 7) ∧ exec (.copy r page) s = .next (after k 7) ∧ exec (.commit r page) s = .next (after k 7) ∧
      exec (.evict r page) s = .next (after k 7) ∧ exec (.warm r page) s = .next (after k 7)) ∧
    (∀ x, k.find page = some x → x.state = 1 ∨ x.state = 2 ∨ x.state = 3 ∨ x.state = 4 ∨ x.state = 5 ∨ x.state = 6 →
      exec (.query r page) s = .next (after k 0) ∧
      exec (.ref r page) s = .next (if x.state = 2 ∨ x.state = 3 then after k 4 else if x.ref = 65535 then after k 6 else after (k.put page { x with ref := x.ref + 1 }) 0) ∧
      exec (.deref r page) s = .next (if x.ref = 0 then after k 5 else after (dropped { x with ref := x.ref - 1 }) 0) ∧
      exec (.pin r page) s = .next (if x.state = 4 ∨ x.state = 6 then after { k with heldPins := k.heldPins ++ [(page, .serving)] } 0
        else if x.state = 3 then after k 4 else if x.pin = 65535 then after k 6 else after (k.put page { x with pin := x.pin + 1 }) 0) ∧
      exec (.unpin r page) s = .next (if x.pin = 0 then after k 5 else after (dropped { x with pin := x.pin - 1 }) 0) ∧
      exec (.commit r page) s = .next (if x.state = 1 ∨ x.state = 2 then after (k.put page { x with state := 1 }) 0 else after k 4) ∧
      (x.state ≠ 1 ∧ x.state ≠ 2 → exec (.copy r page) s = .next (after k 4)) ∧
      ((x.state = 1 ∨ x.state = 2) → x.pin < 65535 → (∃ i, freeRec x.grp i) → (∃ sl, freeSlot x.grp sl) → ∃ i sl, freeRec x.grp i ∧ freeSlot x.grp sl ∧
        exec (.copy r page) s = .next (after { k with recs := tabAdd (tabAdd k.recs (page % 65536) { x with pin := x.pin + 1 }) i (new 3 0 x.grp sl),
                                                      moves := k.moves ++ [move 6 i (decide (x.state = 2))] } 0)) ∧
      (x.state ≠ 1 ∨ x.pin ≠ 0 → exec (.evict r page) s = .next (after k 4)) ∧
      (x.state = 1 → x.pin = 0 → (∃ sl, freeRim sl) → ∃ sl, freeRim sl ∧
        exec (.evict r page) s = .next (after { k.put page { x with state := 4, rslot := sl } with moves := k.moves ++ [move 8 0 false] } 0)) ∧
      (x.state = 1 → x.pin = 0 → (¬∃ sl, freeRim sl) → exec (.evict r page) s = .next (after k 3)) ∧
      (x.state ≠ 5 ∨ x.pin ≠ 0 → exec (.warm r page) s = .next (after k 4)) ∧
      (x.state = 5 → x.pin = 0 → (∃ sl, freeSlot x.grp sl) → ∃ sl, freeSlot x.grp sl ∧
        exec (.warm r page) s = .next (after { k.put page { x with state := 6, slot := sl } with moves := k.moves ++ [move 9 0 false] } 0)) ∧
      (x.state = 5 → x.pin = 0 → (¬∃ sl, freeSlot x.grp sl) → exec (.warm r page) s = .next (after k 2)))

/-- R275 to R277, R290, R280 and R282: a completion comes after what waits at the keeper; the copy takes over its reference and pin, a moved page leaves its old
place to be zeroed, a zeroed place returns to its pool; and the list engine presents the list's descriptors while the ring has credits. -/
def Obligations.KeeperCompletions : Prop :=
  ∀ (s : State) (r page i : Nat) (v : Word),
    let k := s.keeper r
    let u := s.kDrain r
    let ku := u.keeper r
    let le := (s.region r).le
    let npg := s.listField r le.bonded (le.addr + 12) 2
    let cleared := fun (slot : Nat) => (s.homeRegions r).foldl (fun m t => (List.range k.csplit).foldl (fun m j =>
      memClear m (partRim t.2 k.csplit (s.prows t.1) slot j) (1024 * s.prows t.1)) m) s.rim.mem
    (∀ m x y, ku.moves.find? (fun m => decide (m.kind = 6) && decide (m.other = page % 65536)) = some m → tabFind ku.recs m.page = some x →
      tabFind ku.recs m.other = some y → exec (.copyCompletion r page) s = .next (
        let z : PageRec := { y with state := if m.tent then 2 else 1, ref := 1 }
        let w := u.mapParts r x.grp fun t q _ _ sl => memCopy sl (1024 * t.slotRow q x.slot) (1024 * t.prows q) sl (1024 * t.slotRow q y.slot)
        let k' : Keeper := { ku with moves := ku.moves.filter fun n => !(decide (n.kind = 6) && decide (n.other = m.other)) }
        let k'' := (k'.put m.other z).settle m.page { x with pin := x.pin - 1, ref := x.ref - 1 }
        ((w.setKeeper r k'').kDeliver r m.src false (KAns.of 0 (pageId k'' z.grp m.other) z.word)).publishKeeper r)) ∧
    (∀ m x, ku.moves.find? (fun m => decide (m.kind ≠ 6) && decide (m.page = page % 65536)) = some m → tabFind ku.recs m.page = some x →
      ku.heldPins = [] → exec (.moveCompletion r page) s = .next (
        let out := decide (m.kind = 8)
        let w := u.moveParts r x out
        let k' : Keeper := { ku with moves := ku.moves.filter fun n => !(decide (n.kind ≠ 6) && decide (n.page = m.page)),
                                     zeroing := ku.zeroing ++ [{ rim := !out, grp := x.grp, slot := if out then x.slot else x.rslot, index := none }] }
        ((w.setKeeper r (k'.settle m.page { x with state := if out then 5 else 1 })).heldPinsOf r m.page).publishKeeper r)) ∧
    (∀ z, k.zeroing[i]? = some z → z.rim = false → exec (.pageZeroReported r i) s = .next (((s.mapParts r z.grp fun t q _ _ sl =>
      memClear sl (1024 * t.slotRow q z.slot) (1024 * t.prows q)).setKeeper r { k with zeroing := k.zeroing.eraseIdx i }).publishKeeper r)) ∧
    (∀ z, k.zeroing[i]? = some z → z.rim = true → exec (.pageZeroReported r i) s = .next
      ((({ s with rim := { s.rim with mem := cleared z.slot } } : State).setKeeper r { k with zeroing := k.zeroing.eraseIdx i }).publishKeeper r)) ∧
    ((s.region r).pstate ≠ 0 → k.queue.length < 64 → exec (.pkCmdPresent r v) s = .next (
      let b := memRead (s.region r).seq.sram (16 * field v 13 0) 16
      let op : KeeperOp := { code := byteAt b 0, tent := decide (128 ≤ byteAt b 1), grp := byteAt b 1 % 16, page := leAt b 2 3, src := .sequencer (field v 13 0) (field v 31 28) }
      (s.setKeeper r { k with queue := k.queue ++ [op] }).setFld (Reg.RGNW_PK_STAT r) 31 24 (k.queue.length + 1))) ∧
    ((s.region r).pstate ≠ 0 → 64 ≤ k.queue.length → exec (.pkCmdPresent r v) s = .next (s.bump (Reg.RGNW_PK_STAT r) 23 16)) ∧
    ((s.region r).pstate ≠ 0 → le.busy = true → exec (.leCmdStart r v) s = .next (s.bump (Reg.RGNW_LE_STAT r) 23 16)) ∧
    ((s.region r).pstate ≠ 0 → le.busy = false → exec (.leCmdStart r v) s = .next (
      (s.noteList r (flag v 29) (16 * field v 28 0)).modRegion r fun g =>
        { g with le := { busy := true, ring := field v 31 30, bonded := flag v 29, addr := 16 * field v 28 0, k := 0, assist := none } })) ∧
    (le.busy = true → npg ≤ le.k → le.assist = none → (s.presentEmission r le.ring (s.pageDesc r le.bonded le.addr le.k) true).2 = true →
      exec (.listWalkDone r) s = .next ((((s.presentEmission r le.ring (s.pageDesc r le.bonded le.addr le.k) true).1).bump (Reg.RGNW_LE_STAT r) 15 0).modRegion r
        fun g => { g with le := ListEngine.idle })) ∧
    (le.busy = true → (s.presentEmission r le.ring (s.pageDesc r le.bonded le.addr le.k) true).2 = false →
      exec (.listWalkDone r) s = .next (s.presentEmission r le.ring (s.pageDesc r le.bonded le.addr le.k) true).1)

/-- R295: ADMIT makes its checks in order and stops at the first that fails, with that check's status; accepted, the lowest free identifier gets a home, a first
page or the handle's prefix, its reservations and the adapter's reference, and waits for its prompt, or, continuing from a prefix, is ready. -/
def Obligations.AdmissionResults : Prop :=
  ∀ (s u : State) (p : Nat) (e : Bytes) (toks : List Nat), byteAt e 0 = 1 → s.takeRing p false e = some u →
    let plen := leAt e 12 4
    let hw := !(u.hostMode p 0)
    let ac := u.acct (leAt e 2 2 % 4096)
    let ad := decide (byteAt e 1 / 64 % 2 = 1)
    let slot := u.activeSlot p (leAt e 4 2)
    let x := newSeq p e hw
    let w := if hw then u.ledger x.account (Ledger.reserve plen) else u
    let ends := fun (n : Nat) => exec (.admitSeq p e) s = .next (u.finish p e n)
    let bind := fun (t : State) (i : Nat) (y : Seq) => if ad then
      (t.setAdapter (slot.getD 0) { t.adapter (slot.getD 0) with refs := (t.adapter (slot.getD 0)).refs + 1 }).setSeq i
        (some { y with adapter := some (slot.getD 0, (t.adapter (slot.getD 0)).gen) }) else t
    (u.servingRec p = none → ends 9) ∧
    (∀ sv, u.servingRec p = some sv → u.freeSeq = none ∨ ((u.part p).seqmax ≠ 0 ∧ (u.part p).seqmax ≤ (u.seqsOf p).length) → ends 1) ∧
    (∀ sv i, u.servingRec p = some sv → u.freeSeq = some i → (u.part p).seqmax = 0 ∨ (u.seqsOf p).length < (u.part p).seqmax →
      (ac.en = false ∨ ac.key ≠ (u.part p).key → ends 2) ∧
      (ac.en = true → ac.key = (u.part p).key →
        (hw = true → ac.led.bal < plen → ends 3) ∧
        (hw = false ∨ plen ≤ ac.led.bal →
          (ad = true → slot = none → ends 4) ∧
          (ad = false ∨ slot.isSome = true →
            (byteAt e 1 < 128 → u.admitBad p sv e = true → ends 7) ∧
            (byteAt e 1 < 128 → u.admitBad p sv e = false → ∀ rr g t v a, w.bestHome p x.model = some (rr, g) → w.ownerOf p x.model rr = some t →
              w.kServe t 1 0 g false = (v, a) → (a.status ≠ 0 → ends 8) ∧
              (a.status = 0 → sv.ctxmax < plen + x.prm.maxnew → ends 11) ∧
              (a.status = 0 → plen + x.prm.maxnew ≤ sv.ctxmax → u.outRoom p = 0 → ends 12) ∧
              (a.status = 0 → plen + x.prm.maxnew ≤ sv.ctxmax → u.outRoom p ≠ 0 →
                let y : Seq := { x with rsel := rr, grp := g, list := [{ page := a.page, tent := false }] }
                exec (.admitSeq p e) s = .next (bind (v.setSeq i (some y)) i y))) ∧
            (128 ≤ byteAt e 1 → ∀ k h n, w.findHandle p (BitVec.ofNat 64 (leAt e 24 8)) = (some (k, h), n) →
              (h.model ≠ x.model → ends 6) ∧ (h.model = x.model → w.admitBad p sv e = true → ends 7) ∧
              (h.model = x.model → w.admitBad p sv e = false → ∀ t v v', w.ownerOf p h.model h.rsel = some t → w.refPages t h.list [] = (some v, v') →
                h.lh + plen + x.prm.maxnew ≤ sv.ctxmax → u.outRoom p ≠ 0 →
                let y : Seq := { x with rsel := h.rsel, grp := h.grp, len := h.lh, tlen := h.lh, dlen := h.lh, dtlen := h.lh, pending := h.token, list := h.list }
                let b := bind ((v.setSeq i (some y)).publishPrefix p n) i y
                (plen ≠ 0 → exec (.admitSeq p e) s = .next b) ∧
                (plen = 0 → ∃ z, b.seq i = some z ∧ exec (.admitSeq p e) s = .next ((b.setSeq i (some { z with state := 2 })).cmdAnswer p e 0 (leBytes 2 i)))))))))
    ∧ (∀ q y, s.seq q = some y → y.state = 0 → toks.length = y.plen → exec (.promptFetched q (some toks)) s =
        .next ((s.setSeq q (some { y with prompt := toks.map (· % 2 ^ 32), state := 1 })).complete y.part 1 0 0 (leBytes 4 y.tag.toNat) (leBytes 2 q)))
    ∧ (∀ q y, s.seq q = some y → y.state = 0 → s.hostMode y.part 2 = true → exec (.promptFetched q none) s =
        .next ((s.dropSeq q).complete y.part 1 10 0 (leBytes 4 y.tag.toNat) []))

/-- R299, R315, R484, R284 and R296: what a partition's ABORT, MASK, CHOOSE, HCREATE and HDELETE do once their entries are taken, and the statuses of those
refused. -/
def Obligations.SequenceCommands : Prop :=
  ∀ (s u : State) (p : Nat) (e : Bytes) (bitmap : Bytes), s.takeRing p false e = some u →
    let i := leAt e 2 2 % 16384
    let h := BitVec.ofNat 64 (leAt e 24 8)
    let lh := leAt e 12 4
    let tok := leAt e 16 4
    let ends := fun (c : Instr) (n : Nat) => exec c s = .next (u.finish p e n)
    (byteAt e 0 = 2 → u.servingRec p = none → ends (.abort p e) 9) ∧ (byteAt e 0 = 3 → u.servingRec p = none → ends (.mask p e (some bitmap)) 9) ∧
    (byteAt e 0 = 8 → u.servingRec p = none → ends (.choose p e) 9) ∧ (byteAt e 0 = 6 → u.servingRec p = none → ends (.hcreate p e) 9) ∧
    (byteAt e 0 = 7 → u.servingRec p = none → ends (.hdelete p e) 9) ∧
    (∀ sv, u.servingRec p = some sv →
      (u.liveSeq p i = none → (byteAt e 0 = 2 → ends (.abort p e) 13) ∧ (byteAt e 0 = 3 → ends (.mask p e (some bitmap)) 13) ∧
        (byteAt e 0 = 8 → ends (.choose p e) 13) ∧ (byteAt e 0 = 6 → ends (.hcreate p e) 13)) ∧
      (byteAt e 0 = 7 → ∃ t st, u.deleteHandle p h = (t, st) ∧ exec (.hdelete p e) s = .next (t.finish p e st) ∧
        (∀ k y n, u.findHandle p h = (some (k, y), n) → st = 0) ∧ (∀ n, u.findHandle p h = (none, n) → st = 5)) ∧
      (∀ x, u.liveSeq p i = some x →
        (byteAt e 0 = 2 → x.state = 3 → exec (.abort p e) s = .next ((u.setSeq i (some { x with aborting := some 4 })).finish p e 0)) ∧
        (byteAt e 0 = 2 → x.state ≠ 3 → exec (.abort p e) s = .next (((u.endSeq i 4).finish p e 0).wakeWaiting p)) ∧
        (byteAt e 0 = 3 → x.prm.mask = false ∨ u.nextPos i x ≠ some lh → ends (.mask p e (some bitmap)) 20) ∧
        (byteAt e 0 = 3 → x.prm.mask = true → u.nextPos i x = some lh → ends (.mask p e none) 10) ∧
        (byteAt e 0 = 3 → x.prm.mask = true → u.nextPos i x = some lh → ∀ q,
          let kept := x.masks.filter fun m => decide (m.1 ≠ lh)
          (u.setSeq i (some { x with masks := kept })).maskUnit = some q → exec (.mask p e (some bitmap)) s =
            .next ((((u.setSeq i (some { x with masks := kept })).setSeq i (some { x with masks := kept ++ [(lh, q, bitmap)] })).finish p e 0).wakeWaiting p)) ∧
        (byteAt e 0 = 8 → u.hostMode p 1 = false → ends (.choose p e) 21) ∧
        (byteAt e 0 = 8 → u.hostMode p 1 = true → sv.vocab ≤ tok → ends (.choose p e) 22) ∧
        (byteAt e 0 = 8 → u.hostMode p 1 = true → tok < sv.vocab → ∀ y r, (u.part p).passes.find? (fun y => decide (x.pass = some y.number)) = some y →
          y.awaiting.find? (fun r => decide ((y.rows[r]?).map (·.seq) = some i)) = some r → exec (.choose p e) s =
            .next ((u.setPass p { y with awaiting := y.awaiting.filter fun q => decide (q ≠ r),
                                         results := y.results.map fun z => if z.row = r then { z with tok := some tok } else z }).finish p e 0)) ∧
        (byteAt e 0 = 6 → ∀ t st, u.createHandle p h i lh tok = (t, st) →
          (st = 14 ∨ st = 15 → exec (.hcreate p e) s = .next (t.finish p e st)) ∧
          (st = 16 → x.prm.train = true ∨ x.len < lh ∨ lh = 0 → ends (.hcreate p e) 16) ∧
          (st = 0 → lh < x.len → sv.vocab ≤ tok → ends (.hcreate p e) 22) ∧
          (st = 0 → lh = x.len ∨ tok < sv.vocab → x.tlen ≠ x.len →
            exec (.hcreate p e) s = .next (u.modPart p fun y => { y with heldCreates := y.heldCreates ++ [(h, i, lh, tok, leAt e 8 4)] })) ∧
          (st = 0 → lh = x.len ∨ tok < sv.vocab → x.tlen = x.len → exec (.hcreate p e) s = .next (t.finish p e 0)))))
    ∧ (∀ sv x q, s.servingRec p = some sv → s.liveSeq p q = some x → x.tlen = x.len → (∀ y ∈ (s.part p).heldCreates, y.2.1 ≠ q) →
        exec (.prefixCreate p h q lh tok) s = .next (s.createHandle p h q lh tok).1 ∧
        (∀ k y n, s.findHandle p h = (some (k, y), n) → (s.createHandle p h q lh tok).2 = 14))

/-- R306 to R308: ADAPTER_LOAD takes a free slot, or with its FORCE flag ends the sequences bound to the active one, or waits for a slot; ADAPTER_DROP retires
the active slot; and the end of an adapter's ingest makes its slot the active one, the slot before it retiring, or frees it with status 19. -/
def Obligations.AdapterCommands : Prop :=
  ∀ (s u : State) (p : Nat) (e m : Bytes), s.takeRing p false e = some u →
    let adid := leAt e 4 2
    let ends := fun (c : Instr) (n : Nat) => exec c s = .next (u.finish p e n)
    let bound := fun (i : Nat) => (u.srv.seqs.filter fun q => decide ((q.2.adapter.map (·.1)) = some i)).map (·.1)
    (byteAt e 0 = 4 → u.servingRec p = none → ends (.adapterLoad p e (some m)) 9) ∧ (byteAt e 0 = 5 → u.servingRec p = none → ends (.adapterDrop p e) 9) ∧
    (∀ sv, u.servingRec p = some sv →
      (byteAt e 0 = 4 → ends (.adapterLoad p e none) 10) ∧
      (byteAt e 0 = 4 → (∃ i, i < 2048 ∧ (u.adapter i).state = 0) → ∃ i, i < 2048 ∧ (u.adapter i).state = 0 ∧
        exec (.adapterLoad p e (some m)) s = .next (({ u with fresh := u.fresh + 1 }.setAdapter i
          { state := 1, part := p, adid := adid, gen := ((u.adapter i).gen + 1) % 256, rank := leAt e 12 2, refs := 0, base := 0,
            tag := BitVec.ofNat 32 (leAt e 8 4), manifest := m }).adapterStart)) ∧
      (byteAt e 0 = 4 → (∀ i, i < 2048 → (u.adapter i).state ≠ 0) →
        (byteAt e 1 % 2 = 1 → u.activeSlot p adid = none → ends (.adapterLoad p e (some m)) 17) ∧
        (∀ i, byteAt e 1 % 2 = 1 → u.activeSlot p adid = some i → exec (.adapterLoad p e (some m)) s =
          .next ((((bound i).foldl (fun (s : State) q => s.endSeq q 5) u).modPart p fun x => { x with adDir := tabDrop x.adDir adid }).loadSlot p i e m)) ∧
        (byteAt e 1 % 2 = 0 → 16 ≤ (u.part p).adQueue.length → ends (.adapterLoad p e (some m)) 18) ∧
        (byteAt e 1 % 2 = 0 → (u.part p).adQueue.length < 16 →
          exec (.adapterLoad p e (some m)) s = .next (u.modPart p fun x => { x with adQueue := x.adQueue ++ [(e, m)] }))) ∧
      (byteAt e 0 = 5 → u.activeSlot p adid = none → ends (.adapterDrop p e) 0) ∧
      (∀ i, byteAt e 0 = 5 → u.activeSlot p adid = some i → exec (.adapterDrop p e) s =
        .next ((((u.setAdapter i { u.adapter i with state := 3 }).settleAdapter i).modPart p fun x => { x with adDir := tabDrop x.adDir adid }).finish p e 0)))
    ∧ (∀ q e' m' t i, (s.part q).adQueue = (e', m') :: t → s.freeSlot = some i → (s.adapter i).state = 0 ∧
        exec (.adapterLoadDequeue q) s = .next ({ s.modPart q fun x => { x with adQueue := t } with fresh := s.fresh + 1 }.loadSlot q i e' m'))
    ∧ (∀ q, (s.part q).adQueue = [] → exec (.adapterLoadDequeue q) s = .next s.adapterStart)
    ∧ (∀ i st, (s.adapter i).state = 1 → s.ing.purpose = 1 → s.ing.slot = i →
        let x := s.adapter i
        let c := ({ s with ing := Ingest.idle } : State)
        let d := c.setAdapter i { x with state := 2 }
        (s.fld Reg.LDR_ING_STAT 31 29 = 3 → st = 0 → ∀ o, d.activeSlot x.part x.adid = some o → exec (.adapterIngestDone i st) s =
          .next (((((d.setAdapter o { d.adapter o with state := 3 }).settleAdapter o).modPart x.part fun y => { y with adDir := tabAdd y.adDir x.adid i }).complete
            x.part 4 0 0 (leBytes 4 x.tag.toNat) []).adapterStart)) ∧
        (s.fld Reg.LDR_ING_STAT 31 29 = 3 → st = 0 → d.activeSlot x.part x.adid = none → exec (.adapterIngestDone i st) s =
          .next (((d.modPart x.part fun y => { y with adDir := tabAdd y.adDir x.adid i }).complete x.part 4 0 0 (leBytes 4 x.tag.toNat) []).adapterStart)) ∧
        (s.fld Reg.LDR_ING_STAT 31 29 = 4 → st = s.fld Reg.LDR_ING_STAT 27 24 → st ≠ 0 → exec (.adapterIngestDone i st) s =
          .next (((c.setAdapter i { Adapter.zero with gen := x.gen }).complete x.part 4 19 0 (leBytes 4 x.tag.toNat) (zeros 4 ++ leBytes 1 st)).adapterStart)))

/-- R297, R298, R91, R310, R311, R316 and R319: a batch of one decode row and one with none; a fallback report in its pass, or counted; where a candidate flit
is kept, discarded or completes its row; the sampled-row fault; and the commit of a pass whose rows are answered, token by token. -/
def Obligations.PassResults : Prop :=
  ∀ (s : State) (p : Nat) (g : Bytes) (sv : ServingRec), s.servingRec p = some sv →
    let want := min (byteAt g 9) sv.maxrows
    let pass := (s.part p).nextPass
    let on := flag (s.rd (Reg.SRV_OUT_CFG p)) 31
    let answered := fun (t : State) (n u k : Nat) (rows : Bytes) => t.reply p (BitVec.ofNat 64 (leAt g 0 8)) (byteAt g 10 % 16)
      (leBytes 4 pass ++ leBytes 1 n ++ leBytes 1 u ++ leBytes 1 k ++ zeros 25 ++ rows)
    (s.srv.frozen = true → exec (.batchRequest p g) s = .next s) ∧
    (s.srv.frozen = false → on = false ∨ want = 0 → exec (.batchRequest p g) s = .next (answered s 0 0 0 [])) ∧
    (∀ i x u k, s.srv.frozen = false → on = true → 0 < want → s.seqsOf p = [i] → s.seq i = some x → x.state = 2 → x.prompt = [] → x.prm.spec = 0 →
      x.model = byteAt g 8 → (s.setSeq i (some x)).causes sv i x = [] → (s.setSeq i (some x)).mayRun p = true →
      (s.setSeq i (some x)).freeBuf (s.part p).smpRound = some (u, k) → exec (.batchRequest p g) s = .next (
        let a := s.setSeq i (some x)
        let b := if x.budgeted then a.ledger x.account (Ledger.reserve 1) else a
        let c := b.setSeq i (some { x with state := 3, wait := 0, pass := some pass, heldPass := x.heldPass + (if x.budgeted then 1 else 0), ringHeld := 2 })
        let d := c.setAcct x.account { c.acct x.account with rowsMs := tabAdd (c.acct x.account).rowsMs p ((tabFind (c.acct x.account).rowsMs p).getD 0 + 1) }
        let f := d.modPart p fun q => { q with lastTaken := tabAdd q.lastTaken (byteAt g 8) (i + 1) }
        let row : PassRow := { seq := i, role := 2, node := 0, pos := x.len, tok := x.pending }
        let h := f.modPart p fun q => { q with nextPass := (pass + 1) % 2 ^ 32, smpRound := (u + 1) % 8,
                                               passes := q.passes ++ [{ number := pass, model := byteAt g 8, rows := [row], unit := some (u, k), results := [],
                                                                        fallbacks := 0, failed := false, awaiting := [] }] }
        let t := h.setUnit u { h.unit u with bufs := tabAdd (h.unit u).bufs k { part := p, pass := pass, rows := [(0, SampRow.empty)], firstFlit := none,
                                                                                lastSent := 0, timedOut := false } }
        answered t 1 u k (t.rowBytes row))) ∧
    (∀ y, (s.part p).passes.find? (fun y => decide (y.number = leAt g 0 4) && decide (y.model = byteAt g 7)) = some y →
      exec (.fallbackReport p g) s = .next (s.setPass p { y with fallbacks := y.fallbacks + 1, failed := y.failed || decide (byteAt g 6 % 2 = 1) })) ∧
    ((s.part p).passes.find? (fun y => decide (y.number = leAt g 0 4) && decide (y.model = byteAt g 7)) = none →
      exec (.fallbackReport p g) s = .next (s.bump (Reg.SRV_PARTSTAT p) 23 16)) ∧
    (∀ u key src dsp raddr data ce, let b := raddr / 2 ^ 22 % 4
      let row := raddr / 2 ^ 16 % 64
      let off := raddr % 2 ^ 16
      let kept := ¬(1 < b ∨ 1 < dsp ∨ (if dsp = 0 then 32768 else 4096) < off + data.length)
      let flit := Instr.sampleCandidateFlit u key src dsp raddr data ce
      let ep := (s.lookup (s.weltId (.sampling u))).map fun e => (e.x, e.y)
      (¬kept → exec flit s = .next (s.bump (Reg.SMP_ERR u) 15 0)) ∧
      (kept → tabFind (s.unit u).bufs b = none → exec flit s = .next ((s.bump (Reg.SMP_ERR u) 15 0).violation 5 key src (s.weltId (.sampling u)) 0xFFFF
        ((s.last.phys (ep.getD (0, 0)).1 (ep.getD (0, 0)).2).getD 0) 9)) ∧
      (∀ buf, kept → tabFind (s.unit u).bufs b = some buf → s.keyOwner key = some buf.part →
        let buf1 := { buf with firstFlit := some (buf.firstFlit.getD s.time), lastSent := max buf.lastSent (s.part buf.part).epoch }
        let s1 := s.setUnit u { s.unit u with bufs := tabAdd (s.unit u).bufs b buf1 }
        ∀ r v y, tabFind buf.rows row = some r → (s.part buf.part).serving = some v → s.passOf buf.part u b = some y → r.sampled = false → buf.timedOut = false →
          let n := r.ceCount + (if ce then 1 else 0)
          let buf2 := fun (full : Bool) => { buf1 with rows := tabAdd buf.rows row { r.take dsp off data with ceCount := n, sampled := full } }
          (n < v.nshard → exec flit s = .next (s1.setUnit u { s.unit u with bufs := tabAdd (s.unit u).bufs b (buf2 false) })) ∧
          let bufs2 := if (buf2 true).done then tabDrop (s.unit u).bufs b else tabAdd (s.unit u).bufs b (buf2 true)
          (v.nshard ≤ n → exec flit s = .next (((s1.setUnit u { s.unit u with bufs := bufs2 }).sampleRow buf.part u y row
            { r.take dsp off data with ceCount := n, sampled := false }).armFeedback buf.part y.number (max buf.lastSent (s.part buf.part).epoch))))) ∧
    (∀ u b buf t, tabFind (s.unit u).bufs b = some buf → buf.firstFlit = some t → buf.timedOut = false → buf.done = false →
      10 * 2 ^ (s.fld Reg.FAB_CFG 27 24 + 10) ≤ (s.now - t.toNat) * 14 → exec (.sampledRowTimeout u b) s =
        .next (((s.setUnit u { s.unit u with bufs := tabAdd (s.unit u).bufs b { buf with timedOut := true } }).bump (Reg.SMP_STORE u) 15 8).jobFatal (some buf.part) 34 6 0)) ∧
    (∀ n y, (s.part p).passes.find? (fun y => decide (y.number = n)) = some y → s.srv.frozen = false → y.seqs.all y.answered = true →
      exec (.passCommit p n) s = .next ((y.seqs.foldl (fun (s : State) i => s.commitSeq p sv y i)
        (s.modPart p fun q => { q with passes := q.passes.filter fun z => decide (z.number ≠ n) })).wakeWaiting p)) ∧
    (∀ i y x pos d, s.seq i = some x →
      let hist := (x.hist ++ [d.tok]).drop (x.hist.length + 1 - 256)
      let hit := ((sv.rules[x.prm.ruleset]?).getD []).find? fun r => r.hits hist
      let records := fun (st : Nat) => s.recordToken i y d pos st
      (∀ r, hit = some r → r.incl = true → s.commitTokens i sv y pos [] [d] = ((records 1).1, [(records 1).2], some 1)) ∧
      (∀ r, hit = some r → r.incl = false → s.commitTokens i sv y pos [] [d] = (s, [⟨1, 2, 0xFFFFFFFF, pos, 0⟩], some 1)) ∧
      (hit = none → x.prm.maxnew ≤ x.committed + 1 → s.commitTokens i sv y pos [] [d] = ((records 2).1, [(records 2).2], some 2)) ∧
      (hit = none → x.committed + 1 < x.prm.maxnew → sv.ctxmax < pos + 1 → s.commitTokens i sv y pos [] [d] = ((records 3).1, [(records 3).2], some 3)) ∧
      (hit = none → x.committed + 1 < x.prm.maxnew → pos + 1 ≤ sv.ctxmax → y.failed = false →
        s.commitTokens i sv y pos [] [d] = ((records 0).1, [(records 0).2], none)))

/-- R301, R303 to R305, R324: a refill mints up to the cap, a grant mints and a revoke retires, in the account and the totals alike, and none of it while the
ledgers are frozen; a snapshot lands sixteen words and counts; a millisecond's energy goes to accounts, idle meters and the overhead meter. -/
def Obligations.AccountResults : Prop :=
  ∀ (s : State) (a n : Nat) (v : Word),
    let led := fun (a : Nat) => (s.acct a).led
    let moved := fun (a : Nat) (f : Ledger → Ledger) => ({ s with srv := { s.srv with
      accts := tabSet Acct.zero s.srv.accts a { s.acct a with led := f (led a) }, totals := f s.srv.totals } } : State)
    (exec .accountRefill s = .next ((tabKeys s.srv.accts).foldl State.refill s).wakeAll) ∧
    ((s.acct a).en = false ∨ (s.acct a).cap ≤ (led a).bal ∨ s.srv.frozen = true → s.refill a = s) ∧
    (s.srv.frozen = false → (s.acct a).en = true → (led a).bal < (s.acct a).cap → 0 < (s.acct a).rate → (s.acct a).cap < 2 ^ 32 → (led a).balanced = true →
      s.refill a = moved a (Ledger.mintBy (min (s.acct a).rate ((s.acct a).cap - (led a).bal)))) ∧
    (s.srv.frozen = true → exec (.acctGrant v) s = .next s.wakeAll) ∧
    (s.srv.frozen = false → flag v 31 = true → (led s.selAcct).balanced = true →
      exec (.acctGrant v) s = .next (moved s.selAcct (Ledger.revoke (min (field v 30 0) (led s.selAcct).bal))).wakeAll) ∧
    (s.srv.frozen = false → flag v 31 = false → 0 < field v 30 0 → (led s.selAcct).bal + field v 30 0 < 2 ^ 32 → (led s.selAcct).balanced = true →
      exec (.acctGrant v) s = .next (moved s.selAcct (Ledger.mintBy (field v 30 0))).wakeAll) ∧
    (Canonical s → Completes (.acctIdxWrite v) s fun t => t.rd Reg.SRV_ACCT_IDX = ((v &&& 0x1FFF) ||| (s.rd Reg.SRV_ACCT_IDX &&& ~~~(0x1FFF : Word))) ∧
      t.srv = { s.srv with snapshot := some (field v 12 0) } ∧ OnlyRegs [Reg.SRV_ACCT_IDX, Reg.HIF_STAT] { s with srv := t.srv } t) ∧
    (∀ k, Canonical s → s.srv.snapshot = some k → k < 8192 →
      let l := if k / 4096 % 2 = 1 then s.srv.totals else led (k % 4096)
      let ws := l.words (if k / 4096 % 2 = 1 then s.srv.totals.energy + s.idleEnergy + s.srv.overhead else l.energy)
      Completes .snapshotLand s fun t => (∀ j, j < 16 → t.rd (Reg.SRV_SNAP_D j) = ws.getD j 0) ∧
        t.fld Reg.SRV_SNAP_SEQ 31 16 = (s.fld Reg.SRV_SNAP_SEQ 31 16 + 1) % 65536 ∧ t.fld Reg.SRV_SNAP_SEQ 12 0 = k ∧ t.srv = { s.srv with snapshot := none } ∧
        OnlyRegs (Reg.SRV_SNAP_SEQ :: (List.range 16).map Reg.SRV_SNAP_D) { s with srv := t.srv } t) ∧
    (s.srv.snapshot = none → exec .snapshotLand s = .next s) ∧
    (s.srv.frozen = true → exec (.energyMeterTick n) s = .next s) ∧
    (s.srv.frozen = false → s.liveParts = [] → (∀ r, r < 896 → s.regionJoules r = 0) → exec (.energyMeterTick n) s = .next { s with srv := { s.srv with
      overhead := s.srv.overhead + n, measured := s.srv.measured + n, accts := s.srv.accts.filterMap fun x =>
        if { x.2 with rowsMs := [] } = Acct.zero then none else some (x.1, { x.2 with rowsMs := [] }) } }) ∧
    (∀ p, (∀ x ∈ s.srv.accts, tabFind x.2.rowsMs p = none) → s.meterPart p n = { s with srv := { s.srv with
      idle := tabSet 0 s.srv.idle p (tabGet 0 s.srv.idle p + n), measured := s.srv.measured + n } }) ∧
    (∀ rows : List (Nat × Nat), (rows.map (·.1)).Nodup → (∃ x ∈ rows, 0 < x.2) → ((shares n rows).map (·.2)).foldl (· + ·) 0 = n) ∧
    (Canonical s → Completes (.srvInexactClear v) s fun t => t.fld Reg.SRV_STAT 31 31 = (if flag v 31 then 0 else s.fld Reg.SRV_STAT 31 31) ∧
      OnlyRegs [Reg.SRV_STAT, Reg.HIF_STAT] s t)

/-- R321 to R323: the host's consumer index moves forward to at most PI, else it is counted in BADCI; base and size are kept while the ring is on; a record goes
out with its phase and moves the index, or is held while the ring is off and goes out when it is turned on. -/
def Obligations.OutputRing : Prop :=
  ∀ (s : State) (p : Nat) (v : Word) (d : Bytes),
    let ci := s.rd (Reg.SRV_OUT_CI p)
    let pi := s.rd (Reg.SRV_OUT_PI p)
    let n := 2 ^ s.outLog p
    let q := s.outPi p
    let base := s.rd64 (Reg.SRV_OUT_BASE_LO p) (Reg.SRV_OUT_BASE_HI p)
    let on := flag (s.rd (Reg.SRV_OUT_CFG p)) 31
    (s.weltDown = false → (v - ci).toNat ≤ (pi - ci).toNat → exec (.outCiWrite p v) s = .next ((s.wr (Reg.SRV_OUT_CI p) v).wakeWaiting p)) ∧
    (s.weltDown = false → (pi - ci).toNat < (v - ci).toNat → exec (.outCiWrite p v) s = .next (s.bump (Reg.SRV_PARTSTAT p) 31 24)) ∧
    (on = true → exec (.outCfgWrite p 0 v) s = .next s ∧ exec (.outCfgWrite p 1 v) s = .next s) ∧
    (s.weltDown = false → Canonical s → p < 64 → on = false → Rewrites (.outCfgWrite p 0 v) s (Reg.SRV_OUT_BASE_LO p) 0xFFFFFFC0 0x3F v ∧
      Rewrites (.outCfgWrite p 1 v) s (Reg.SRV_OUT_BASE_HI p) 0xFFFFFFFF 0 v ∧
      (flag v 31 = false → Rewrites (.outCfgWrite p 2 v) s (Reg.SRV_OUT_CFG p) 0x8000001F 0 v) ∧
      (flag v 31 = true → exec (.outCfgWrite p 2 v) s = .next ((s.part p).outHeld.foldl (fun t r => t.putRecord p r)
        ((s.writeRW (Reg.SRV_OUT_CFG p) 0x8000001F 0 v).modPart p fun x => { x with outHeld := [] })))) ∧
    (s.weltDown = false → Canonical s → p < 64 → on = true → flag v 31 = false → Rewrites (.outCfgWrite p 2 v) s (Reg.SRV_OUT_CFG p) 0x80000000 0x1F v) ∧
    (on = false → s.emitRecord p d = s.modPart p fun x => { x with outHeld := x.outHeld ++ [d] }) ∧
    (on = true → s.emitRecord p d = (((s.hostWriteAdv (s.homePort p) (base + 32 * (q % n))
      (splice d 0 (leBytes 2 (byteAt d 0 + 256 * (byteAt d 1 % 64) + 32768 * ((q / n + 1) % 2)))) (100 + p)).hostWrite (s.homePort p) (base + 32 * n)
        (leBytes 4 (q + 1))).signal p))

/-- R337 to R341, R349: LOAD counts as dropped while the device is not ready or a load is under way; it is refused with status 13 for a loaded partition; else
it takes the partition to STATE 1, checks the image it read in the order of its steps and places it, or refuses it with the status of the first failure. R337
step 7, R338, R94, R209, R291, R324: when the weights of the load under way are sealed and its cores are awake the job starts: STATE 2, the load over, every
core with a role running from bundle 0 at cycle 0, epoch 0, and the partition's counts clear. -/
def Obligations.LoadAndJobStart : Prop :=
  (∀ (s : State) (v : Word) (image : Option Bytes),
     let p := field v 27 22
     let u := (((((s.setFld Reg.LDR_STAT 31 31 1).setFld Reg.LDR_STAT 27 22 p).setPState p 1).wr (Reg.LDR_PART_SHAPE p) 0).wr (Reg.LDR_PART_PWR p) 0).wr
       (Reg.LDR_PART_BUDGET p) 0
     let w := (u.setFld (Reg.GLB_PMODE p) 21 16 (u.fld (Reg.GLB_PMODE p) 5 0)).loadStep 1
     let img := (image.getD []).take (w.rd Reg.LDR_IMG_LEN).toNat
     let cmd := if flag v 21 then some (field v 20 15, field v 14 10) else none
     let y := ({ w with load := some { p := p, port := 0, image := img, placed := [], stopAsked := false, waitingIngest := true } }).setPart p
       (partOf img (w.keyEntry p).1)
     let stepping := (y.boot.fuses.map (·.stepping)).getD 0
     let c := checkImage img stepping (if y.lastFinal then y.last.grade else 3) y.last.lcols
     field v 31 28 = 1 → v &&& 0x3FF = 0 →
     ((flag (s.rd Reg.LDR_STAT) 31 = true ∨ flag (s.rd Reg.STG_STAT) 31 = false) → exec (.load v image) s = .next (s.bump Reg.LDR_STAT 15 8)) ∧
     (flag (s.rd Reg.LDR_STAT) 31 = false → flag (s.rd Reg.STG_STAT) 31 = true →
       (s.pstate p ≠ 0 → exec (.load v image) s = .next ((s.setFld (Reg.LDR_PART p) 28 24 13).loadFinished)) ∧
       (s.pstate p = 0 → image = none → exec (.load v image) s = .next (w.refuseLoad p 16 0)) ∧
       (s.pstate p = 0 → image ≠ none → checkFormat img ≠ 0 → exec (.load v image) s = .next (w.refuseLoad p (checkFormat img) 0)) ∧
       (s.pstate p = 0 → image ≠ none → checkFormat img = 0 → c ≠ 0 → exec (.load v image) s = .next (y.refuseLoad p c 0)) ∧
       (s.pstate p = 0 → image ≠ none → checkFormat img = 0 → c = 0 → exec (.load v image) s = .next (y.placeLoad p img cmd)))) ∧
  (∀ (s : State) (l : LoadJob), Canonical s → s.load = some l → l.p < 64 → s.startReady l.p = true → l.stopAsked = false → (s.part l.p).heldReason = none →
     Completes .jobStart s fun t =>
       t.pstate l.p = 2 ∧ t.ersn l.p = 0 ∧ t.load = none ∧ t.ing = Ingest.idle ∧
       t.rd (Reg.GLB_LOCK_STALL l.p) = 0 ∧ t.rd (Reg.KVC_PG l.p) = 0 ∧ t.rd (Reg.SRV_OUT_PI l.p) = 0 ∧ t.rd (Reg.SRV_OUT_CI l.p) = 0 ∧
       (t.part l.p).epoch = 0 ∧ (t.part l.p).wall = 0 ∧ (t.part l.p).due = [] ∧ (∀ q, q ≠ l.p → t.part q = s.part q) ∧
       (∀ k ∈ (t.part l.p).started, (s.coreAt k).powered = true → (s.coreAt k).phase = .idle →
         t.coreAt k = { s.coreAt k with phase := .running, now := 0, nextIssue := 0, pc := 0 }) ∧
       ∀ k, k ∉ (t.part l.p).started → t.coreAt k = s.coreAt k)

/-- R345, R346, R240, R349: KILL stops a running partition with reason 2; RELEASE clears held weights of a region no partition uses, which reads RELEASING until
it is done and then holds no pool units; a core that has not halted within STOP_TMO is halted and FORCED reads 1. -/
def Obligations.KillAndRelease : Prop :=
  ∀ (s : State) (v : Word) (p r : Nat), Canonical s → p < 64 → r < 896 →
    (field v 31 28 = 2 → field v 27 22 = p → s.pstate p = 2 → (s.part p).stall = false → (s.part p).stopEpoch = none →
      Completes (.kill v) s fun t => t.pstate p = 3 ∧ t.ersn p = 2 ∧ t.part p = { s.part p with stopPending := true, stopTime := some s.time } ∧
        (∀ q, q ≠ p → t.part q = s.part q) ∧ t.cores = s.cores ∧ OnlyRegs [Reg.LDR_PART p, Reg.HIF_STAT] { s with parts := t.parts } t) ∧
    (field v 31 28 = 3 → flag v 21 = true → v &&& 0x3FF = 0 → s.last.phys (field v 20 15) (field v 14 10) = some r → s.holds r = true →
      (s.region r).part = none → Completes (.release v) s fun t =>
        t.holds r = false ∧ t.sealedW r = false ∧ t.releasing r = true ∧ t.rd (Reg.RGNW_POOL_ID r) = 0 ∧ (t.region r).heldKey = 0) ∧
    (s.releasing r = true → (s.region r).part = none → s.ing.part = none →
      Completes (.heldWeightReleaseDone r) s fun t => t.rd (Reg.RGNW_POOL r) = 0xFF000000 ∧ OnlyRegs [Reg.RGNW_POOL r] s t) ∧
    (∀ t0, s.pstate p = 3 → (s.part p).stopTime = some t0 → s.elapsed t0 (1000 * (s.part p).stopTmo) = true →
      (∃ k ∈ (s.part p).started, (s.coreAt k).phase = .running) → Completes (.stopTimeout p) s fun t =>
        t.fld (Reg.LDR_PART p) 15 15 = 1 ∧ OnlyRegs [Reg.LDR_PART p] { s with cores := t.cores } t ∧
        ∀ k, t.coreAt k = if k ∈ (s.part p).started ∧ (s.coreAt k).phase = .running then { s.coreAt k with phase := .haltedTB } else s.coreAt k)

/-- R346, R459 to R461, R243: once no started core runs the job's serving ends and zeroization begins; when every item has read back as zero its regions are
cleared, the partition is free, and the end is logged with its duration; an extent being cleared is free when its clearing ends. -/
def Obligations.JobEnds : Prop :=
  ∀ (s : State) (p : Nat), Canonical s → p < 64 →
    (s.pstate p = 3 → s.sparing p = false → (∀ k ∈ (s.part p).started, (s.coreAt k).phase ≠ .running) → s.flt.current = none → s.seqsOf p = [] →
      (∀ e ∈ s.srv.adapters, ¬(e.2.part = p ∧ e.2.state = 1)) → (s.part p).adQueue = [] → (tabGet Rings.zero s.hif.rings p).busy = [] →
      let u := s.setPart p { s.part p with passes := [] }
      exec (.allCoresHalted p) s = .next (u.beginZeroize p) ∧ (u.beginZeroize p).pstate p = 4 ∧
        ∀ g ∈ (s.part p).placed, ((u.beginZeroize p).region g.r).zeroizing = true) ∧
    (s.pstate p = 4 → s.flt.current = none → s.flt.queue = [] →
      let rs := (s.part p).placed.map (·.r)
      let t0 := if (s.part p).stopTime.isSome then ((s.part p).stopTime.getD 0).toNat else s.now
      let u := (rs.foldl (fun (t : State) r => t.clearRegion r) s).freePart p
      exec (.zeroizeDone p []) s = .next (rs.foldl (fun (t : State) r => t.restRegion r) (u.logEvent 20 p (leBytes 4 (u.now - t0) ++ [0]))) ∧
      u.pstate p = 0 ∧ u.part p = Part.zero) ∧
    (∀ e l, s.rim.clearing = e :: l →
      let u := { s with rim := { s.rim with clearing := l, mem := memClear s.rim.mem ((96 * e.stack + e.base) * 2 ^ 30) (e.len * 2 ^ 30) } }
      exec .rimClearDone s = .next (if l = [] then u.setFld Reg.MGT_STAT 27 27 0 else u))

/-- R255 to R258, R260, R266: a whole segment, alone in the sources and held by nothing, is checked in the order of its statuses and its rows are taken; a
source error ends the ingest with status 12; a segment held by temperature for HOLD_TMO ends it with status 10. -/
def Obligations.IngestSegments : Prop :=
  ∀ (s : State) (p : Nat) (b : Bytes) (last : Bool), s.ing.part = some p →
    let i := leAt b 4 2
    let u := ({ s with ing := { s.ing with closed := s.ing.closed || last, heldSince := none, bufs := [] } }).setFld Reg.LDR_ING_STAT 31 29 1
    let crcOk := crc32 (slice b 32 (leAt b 16 4)) = leAt b 24 4
    exec (.ingestSegment none last) s = .next (s.ingFail 12 0) ∧
    (s.ing.bufs = [] → 32 ≤ b.length → b.length = 32 + leAt b 16 4 → s.fld Reg.LDR_ING_STAT 31 29 ≠ 4 →
      (∀ t r, s.tensorOf i = some t → r ∈ s.tensorRegions p t → s.ingestHeld r = false ∧ s.releasing r = false) →
      (u.segHeadBad b = true → exec (.ingestSegment (some b) last) s = .next (u.ingFail 1 i)) ∧
      (u.segHeadBad b = false → ¬crcOk → exec (.ingestSegment (some b) last) s = .next (u.ingFail 2 i)) ∧
      (u.segHeadBad b = false → crcOk → segPayload b = none → exec (.ingestSegment (some b) last) s = .next (u.ingFail 3 i)) ∧
      (u.segHeadBad b = false → crcOk → segPayload b ≠ none → u.tensorOf i = none → exec (.ingestSegment (some b) last) s = .next (u.ingFail 4 i)) ∧
      (∀ d t, u.segHeadBad b = false → crcOk → segPayload b = some d → u.tensorOf i = some t → (tabFind u.ing.tensors i).isSome = true →
        (t.ship = 1 ↔ 2 ≤ byteAt b 6) → let a := u.takeRows p t b d
          exec (.ingestSegment (some b) last) s = .next (if a.2 = 0 then a.1.ingEnd p else a.1.ingFail a.2 i))) ∧
    (∀ t0, s.ing.heldSince = some t0 → s.elapsed t0 (1000000 * max 1 (s.fld Reg.LDR_ING_CFG 15 0)) = true → s.segReady 3 = true → s.segHot p 3 = true →
      exec .ingestHoldTimeout s = .next (s.ingFail 10 (leAt (s.ingSource 3) 4 2)))

/-- R244 to R249: the scrubber reads the row at its position and moves on, from the last row to the next slice and from the last slice to a new pass; a row
corrected in two passes running is marked, and switched to a spare row while its slice has one; a write-back leaves nothing pending for its row. R58, R244,
R245: a scrub of a trained rim stack, or of a local memory that has power, counts a corrected error, whose content is written back, and reports an uncorrectable
one; a channel that fails degrades its stack and is one deferred fault. -/
def Obligations.ScrubResults : Prop :=
  (∀ (s : State) (r : Nat), Canonical s → r < 896 →
     let g := s.region r
     let a := Reg.RGNW_SCRUB r
     let k := s.fld a 20 16
     let row := s.fld a 15 0
     (g.pstate ≠ 0 → s.dead r = false → k ≤ 16 → Completes (.scrubRow r .clean) s fun t =>
       t.fld a 15 0 = (if row = 65535 then 0 else row + 1) ∧ t.fld a 20 16 = (if row < 65535 then k else if k < 16 then k + 1 else 0) ∧
       t.fld a 28 21 = (if row = 65535 ∧ k = 16 then (s.fld a 28 21 + 1) % 256 else s.fld a 28 21) ∧
       t.fld a 31 31 = (if s.jobRuns r then 0 else 1) ∧ OnlyRegs [a] { s with regions := t.regions } t) ∧
     (∀ n, g.pstate ≠ 0 → s.dead r = false → s.injHit 0 r (sliceWords k (1024 * row) 1024) = false → row < 65535 →
       exec (.scrubRow r (.corrected n)) s = .next ((((s.bondCheck r k row 3 (.corrected n)).modRegion r fun h =>
         h.scrubFound (65536 * k + row) (.corrected n)).setFld a 31 31 (if s.jobRuns r then 0 else 1)).setFld a 15 0 (row + 1))) ∧
     (∀ key n, key ∈ g.lastPass → key ∈ (g.scrubFound key (.corrected n)).marked) ∧
     (∀ j n, exec (.correctionWriteback r j n) s = .next (s.setRegion r { g with
       writeBacks := g.writeBacks.filter fun x => decide (x ≠ 65536 * j + n),
       injected := if 65536 * j + n ∈ g.writeBacks then g.injected.filter fun e => !(decide (e.1 = 0) && (sliceWords j (1024 * n) 1024).contains e.2)
         else g.injected })) ∧
     (∀ j n, 65536 * j + n ∈ g.marked →
       (0 < g.sparesOf j → Completes (.rowRepairSwitch r j n) s fun t =>
         65536 * j + n ∉ (t.region r).marked ∧ 65536 * j + n ∈ (t.region r).remapped ∧ (t.region r).rowsUsed = tabSet 0 g.rowsUsed j (tabGet 0 g.rowsUsed j + 1) ∧
         t.cores = s.cores ∧ t.rd (Reg.FLT_CNT 0) = s.rd (Reg.FLT_CNT 0) + 1) ∧
       (g.sparesOf j = 0 → g.exhausted = true → exec (.rowRepairSwitch r j n) s = .next s) ∧
       (g.sparesOf j = 0 → g.exhausted = false → exec (.rowRepairSwitch r j n) s = .next ((s.setRegion r { g with exhausted := true }).deferred 12 none
         (regionLocus r))))) ∧
  (∀ (s : State) (c : CoreId) (k g ch addr : Nat), Canonical s → k < 16 → ch < 32 →
     let f := s.fld (Reg.RIM_STACK k) 31 30
     let a := k * (96 * gib) + 1024 * g
     let scrub := fun (st : Store) (cls : Nat) (ws : List Nat) =>
       exec (.scratchpadScrub c st addr .clean) s = .next s ∧
       (∀ n, exec (.scratchpadScrub c st addr (.corrected n)) s = .next ((s.corrected 1 (regionLocus c.r) (s.injHit cls c.r ws)).modRegion c.r fun h =>
         { h with injected := h.injected.filter fun e => !(decide (e.1 = cls) && ws.contains e.2) })) ∧
       exec (.scratchpadScrub c st addr .uncorrectable) s = .next (s.memFatalD (s.owner c.r) (regionLocus c.r) (s.injHit cls c.r ws))
     (f = 1 ∨ f = 2 → exec (.rimScrub k g .clean) s = .next s ∧
       (∀ n, exec (.rimScrub k g (.corrected n)) s = .next ((s.bump (Reg.RIM_ERR (a / (96 * gib))) 31 16).corrected 2 (rimLocus a 0) false)) ∧
       exec (.rimScrub k g .uncorrectable) s = .next ((s.bumpBy (Reg.RIM_ERR (a / (96 * gib))) 15 0 1).memFatal none (rimLocus a 0))) ∧
     (flag (s.rd (Reg.RIM_CHAN k)) ch = true → flag (s.rd (Reg.RIM_FAIL k)) ch = false →
       exec (.rimChannelFail k ch) s = .next (((s.setFld (Reg.RIM_FAIL k) ch ch 1).setFld (Reg.RIM_STACK k) 31 30 2).deferred 20 none
         (locus 6 0 (ch * 16 + k)))) ∧
     ((s.core c).powered = true → scrub .am 1 (scratchWords c.k 0 addr 1) ∧ scrub .wsb 1 (scratchWords c.k 1 addr 1) ∧
       scrub .psm 1 (scratchWords c.k 2 addr 1) ∧ scrub .im 1 (scratchWords c.k 3 addr 1)) ∧
     ((s.region c.r).pstate ≠ 0 → scrub .seqSram 3 (codewords 0 addr 1) ∧ scrub .keeper 3 []))

/-- R350 to R352, R498: a feed within range becomes valid, and its regain after a loss is logged; a valid feed out of range or opened is lost, counted and
logged; with both invalid the hold-up begins: everything is stretched, ballast is suspended and the power loss is logged with the running partitions. R353,
R354, R356: a converter that goes off lowers its field's capacity and is a deferred fault, the last of a field a device-fatal one; a current above the capacity
raises the field's level by one, at most every 10 µs, and each 100 µs below 95 % of it lowers it by one; the first failed phase of a rail is one deferred fault
of the region's owner. -/
def Obligations.FeedAndFieldEvents : Prop :=
  (∀ (s : State) (f cv : Nat), s.boot.alwaysOn = true → f < 2 →
     let ok := ({ s with pwr := { s.pwr with present := s.pwr.present.set f true, valid := s.pwr.valid.set f true, volts := s.pwr.volts.set f cv } }).showFeeds
     let n := if f = 0 then ok.fld Reg.PWR_FEED_EVT 31 24 else ok.fld Reg.PWR_FEED_EVT 23 16
     let bad := ({ s with pwr := { s.pwr with valid := s.pwr.valid.set f false, volts := s.pwr.volts.set f cv } }).showFeeds
     let gone := ({ s with pwr := { s.pwr with present := s.pwr.present.set f false, valid := s.pwr.valid.set f false } }).showFeeds
     (s.pwr.holdUp = false → 4000 ≤ cv → cv ≤ 6000 →
       (n = 0 ∨ s.pwr.valid.getD f false = true →
         exec (.feedValid f cv) s = .next ok.checkConditions) ∧
       (0 < n → s.pwr.valid.getD f false = false →
         exec (.feedValid f cv) s = .next (ok.logEvent 7 (2 + f) (leBytes 2 cv)).checkConditions)) ∧
     (cv < 3900 ∨ 6100 < cv → exec (.feedInvalid f cv) s = .next (if s.pwr.valid.getD f false then bad.feedLost f else bad)) ∧
     exec (.feedPresentOpen f) s = .next (if s.pwr.valid.getD f false then gone.feedLost f else gone) ∧
     (s.pwr.holdUp = false → s.pwr.valid.getD 0 false = false → s.pwr.valid.getD 1 false = false →
       let u := ((({ s with pwr := { s.pwr with holdUp := true, ballastOff := true } }).showFeeds).ungovern).announceAll
       exec .holdupStart s = .next ((u.logEvent 8 0 (leBytes 8 u.runningMask)).checkConditions)) ∧
     (Canonical s → f < s.pwr.valid.length → f < s.pwr.volts.length → cv < 16384 →
       ok.fld (feedReg f) 31 30 = 1 ∧ ok.fld (feedReg f) 29 16 = cv ∧ bad.fld (feedReg f) 31 30 ≠ 1 ∧ bad.fld (feedReg f) 29 16 = cv)) ∧
  (∀ (s : State) (f i r amps : Nat), Canonical s → f < 56 → r < 896 →
     let off := ({ s with pwr := { s.pwr with converters := setFlag s.pwr.converters i false } }).showField (i / 3)
     (flag s.pwr.converters i = true → exec (.converterFail i) s = .next ((if off.convertersOf (i / 3) = 0 then off.deviceFatal 40 (locus 2 1 (i / 3))
       else off.deferred 10 none (locus 1 1 i)).checkConditions)) ∧
     (let u := (s.setFld (Reg.PWR_FIELD f) 25 16 (min amps 1023)).showField f;
       let c := s.fieldCap f
       let k := s.fld (Reg.PWR_FIELD f) 28 26
       (c < amps → rateOk s.pwr.lastCapUp f 10000 s.now = true → exec (.fieldCapAdjust f amps) s = .next (({ u with pwr := { s.pwr with
         belowSince := tabDrop s.pwr.belowSince f, lastCapUp := tabAdd s.pwr.lastCapUp f s.time } }).setFcap f (min 7 (k + 1)))) ∧
       (c < amps → rateOk s.pwr.lastCapUp f 10000 s.now = false →
         exec (.fieldCapAdjust f amps) s = .next { u with pwr := { s.pwr with belowSince := tabDrop s.pwr.belowSince f } }) ∧
       (∀ t, amps ≤ c → 100 * amps < 95 * c → tabFind s.pwr.belowSince f = some t → s.elapsed t 100000 = true →
         exec (.fieldCapAdjust f amps) s = .next (({ u with pwr := { s.pwr with belowSince := tabAdd s.pwr.belowSince f s.time } }).setFcap f (k - 1))) ∧
       (amps ≤ c → 95 * c ≤ 100 * amps → exec (.fieldCapAdjust f amps) s = .next { u with pwr := { s.pwr with belowSince := tabDrop s.pwr.belowSince f } })) ∧
     (∀ m b, b = (if m then 16 + i else 8 + i) → i < 4 → (s.region r).pstate ≠ 0 → flag (s.rd (Reg.RGNW_PWR_PHASE r)) b = false →
       let u := (s.setFld (Reg.RGNW_PWR_PHASE r) b b 1).showLimit r
       exec (.phaseFail r m i) s = .next (if u.phasesLost r m = 1 then u.deferred 11 (s.owner r) (regionLocus r) else u)))

/-- R357 to R359: the second failed phase of a rail starts a power-down, which stops the partition with reason 5 and, when its cores have halted or 1 ms has
passed, kills the region with cause 5; a limiter that trips kills it with cause 6 at once, with the flits its hub holds for it. -/
def Obligations.RegionPowerDowns : Prop :=
  ∀ (s : State) (r p : Nat),
    let g := s.region r
    let u := (s.setRegion r { g with poweringDown := true, downSince := some s.time }).ungovern
    (g.poweringDown = false → s.dead r = false → g.pstate ≠ 0 → 2 ≤ s.phasesLost r true ∨ 2 ≤ s.phasesLost r false →
      (s.owner r = none → exec (.regionPowerDown r) s = .next u) ∧ (Canonical s → s.owner r = some p → exec (.regionPowerDown r) s = .next (u.stopPart p 5))) ∧
    (g.poweringDown = true → s.owner r = none ∨ s.regionHalted r = true ∨ (∃ t ∈ g.downSince, s.elapsed t 1000000 = true) →
      exec (.powerDownProceed r) s = .next ((s.regionDies r 5 (s.owner r)).checkConditions)) ∧
    (Canonical s → g.pstate ≠ 0 → s.dead r = false → (∀ f ∈ s.fab.flits, ∀ k, f.loc = FlitLoc.inject r k → k < 17) →
      let l := s.fab.flits.filter fun f => decide (f.loc ≠ FlitLoc.eject r) && !((List.range 17).any fun k => decide (f.loc = FlitLoc.inject r k))
      exec (.currentLimiterTrip r) s = .next (((({ s with fab := { s.fab with flits := l } }).setRegion r { g with limiterOpen := true }).ungovern.regionDies r 6
        (s.owner r)).checkConditions)) ∧
    (Canonical s → g.cause = 0 → ∀ n, n ≠ 0 → let t := s.regionDies r n (some p)
      (t.region r).cause = n ∧ (t.region r).pstate = 0 ∧ (∀ k, k < 17 → (t.coreAt (17 * r + k)).powered = false) ∧
      t.rd (Reg.FLT_CNT 2) = s.rd (Reg.FLT_CNT 2) + 1)

/-- R360 to R362: a waking region asks for its four stages in turn; a stage is granted when the field's headroom covers its rush current; after the last its
uncore, then its cores, have power; a stage that has waited 40 µs stretches the rest of the field until every wake then pending is complete. -/
def Obligations.StagedWakes : Prop :=
  ∀ (s : State) (r f : Nat), Canonical s → r < 896 → f < 56 →
    let g := s.region r
    let q := (tabFind s.pwr.wakeQueue f).getD []
    (∀ m n t, g.wake = some (m, n, t, none) → n < 4 → s.dead r = false → fieldOf r = f →
      exec (.wakeStageRequest r) s = .next ((({ s with pwr := { s.pwr with wakeQueue := tabAdd s.pwr.wakeQueue f (q ++ [r]) } }).setRegion r
        { g with wake := some (m, n, t, some s.time) }).showWakes f)) ∧
    (∀ m n t w, q.find? (s.wakeTurn f) = some r → g.wake = some (m, n, t, some w) →
      (10 * s.fld (Reg.PWR_FIELD f) 25 16 + s.rushNow f + rushOf n ≤ 10 * s.fieldCap f → exec (.wakeStageGrant f) s = .next
        ((({ s with pwr := { s.pwr with wakeQueue := tabAdd s.pwr.wakeQueue f (q.filter fun x => decide (x ≠ r)) } }).setRegion r
          { g with wake := some (m, n + 1, t, none) }).bump (Reg.PWR_FIELD_GRANT f) 15 0)) ∧
      (10 * s.fieldCap f < 10 * s.fld (Reg.PWR_FIELD f) 25 16 + s.rushNow f + rushOf n → exec (.wakeStageGrant f) s = .next s)) ∧
    (∀ m t, g.wake = some (m, 4, t, none) → Completes (.wakeComplete r) s fun u =>
      u.fld (Reg.RGNW_WAKE r) 15 0 = (s.fld (Reg.RGNW_WAKE r) 15 0 + 1) % 65536 ∧ u.fld (Reg.RGNW_WAKE r) 31 16 = (s.now - t.toNat) / 1000 % 65536 ∧
      (flag m 17 = true → (u.region r).pstate = max 1 g.pstate ∧ (u.region r).hubOn = true ∧ u.cores = s.cores ∧
        (u.region r).wake = if setField m 17 17 0 = 0 then none else some (setField m 17 17 0, 0, t, none)) ∧
      (flag m 17 = false → (u.region r).pstate = 2 ∧ (u.region r).wake = none ∧ ∀ k, k < 17 → flag m k = true → (s.coreAt (17 * r + k)).phase = .off →
        u.coreAt (17 * r + k) = { s.coreAt (17 * r + k) with powered := true, phase := .idle })) ∧
    (∀ m n t w, q.head? = some r → g.wake = some (m, n, t, some w) → s.elapsed w 40000 = true → tabFind s.pwr.rush f = none →
      let u := ((({ s with pwr := { s.pwr with rush := tabAdd s.pwr.rush f r, prioList := tabAdd s.pwr.prioList f (s.waking f) } }).setFld
        (Reg.PWR_FIELD_GRANT f) 26 26 1).bump (Reg.PWR_FIELD f) 15 8)
      exec (.rushPriorityRaise f) s = .next (((fieldRegions f).foldl (fun (s : State) r => s.announce r) u).checkConditions)) ∧
    (∀ x, tabFind s.pwr.rush f = some x → (∀ y ∈ (tabFind s.pwr.prioList f).getD [], (s.region y).wake = none) →
      let u := ({ s with pwr := { s.pwr with rush := tabDrop s.pwr.rush f, prioList := tabDrop s.pwr.prioList f } }).setFld (Reg.PWR_FIELD_GRANT f) 26 26 0
      exec (.rushPriorityLift f) s = .next (((fieldRegions f).foldl (fun (s : State) r => s.announce r) u).checkConditions))

/-- R343, R344, R356, R363 to R367: an activity above its window's budget, or a microsecond above its limit, is counted, throttles its region and is a deferred
fault at most; ballast lets the total fall by BAL_STEP a window; a clock step is a change until its glide is done; a strictly lower voltage is the record. -/
def Obligations.PowerTelemetry : Prop :=
  ∀ (s : State) (r p : Nat) (v : Word), Canonical s → r < 896 → p < 64 →
    let g := s.region r
    (∀ sum, s.owner r = some p → 128 * g.dotmax < sum → exec (.activityWindowEnd r sum) s = .next (((s.bump (Reg.LDR_PART_PWR p) 31 16).overrun r p).modRegion r
      fun h => { h with windowDirty := false })) ∧
    (∀ sum, s.owner r = some p → sum ≤ 128 * g.dotmax → g.windowDirty = false → g.cleanWindows < 15 → exec (.activityWindowEnd r sum) s = .next
      (s.setRegion r { g with cleanWindows := g.cleanWindows + 1 })) ∧
    (∀ mw ma, g.pstate ≠ 0 → s.owner r = none → mw < 655360 →
      let core := ma * s.fld (Reg.RGNW_PWR_RAIL r) 31 22 / 10000
      core ≤ mw / 10 → Completes (.powerOverrunCheck r mw ma) s fun t =>
        t.fld (Reg.RGNW_PWR_MEAS r) 31 16 = core ∧ t.fld (Reg.RGNW_PWR_MEAS r) 15 0 = mw / 10 - core ∧ (t.region r).energy = g.energy + mw ∧
        t.rd64 (Reg.RGNW_PWR_E_LO r) (Reg.RGNW_PWR_E_HI r) = (g.energy + mw) / 1000 % 2 ^ 64 ∧
        OnlyRegs [Reg.RGNW_PWR_MEAS r, Reg.RGNW_PWR_E_LO r, Reg.RGNW_PWR_E_HI r] { s with regions := t.regions } t) ∧
    (∀ act, g.pstate ≠ 0 → exec (.ballastWindow r act) s = .next (s.setRegion r { g with
      ballastLast := if s.pwr.ballastOff = true ∨ flag (s.rd Reg.THM_STAT) 28 = true ∨ flag (s.rd Reg.THM_STAT) 31 = true then act
        else max act (g.ballastLast - max 1 (min 8 (s.fld Reg.PWR_BALLAST 3 0))) })) ∧
    Completes (.clockStepChange v) s (fun t => t.fld Reg.PWR_CLK 1 0 = field v 1 0 ∧ t.fld Reg.PWR_CLK 5 4 = s.fld Reg.PWR_CLK 5 4 ∧
      (field v 1 0 = s.fld Reg.PWR_CLK 1 0 → OnlyRegs [Reg.PWR_CLK, Reg.HIF_STAT] s t) ∧
      (field v 1 0 ≠ s.fld Reg.PWR_CLK 1 0 → t.fld Reg.PWR_CLK 3 3 = 1 ∧ t.thm.governed = false)) ∧
    (s.fld Reg.PWR_CLK 3 3 = 1 → Completes .glideDone s fun t => t.fld Reg.PWR_CLK 5 4 = s.fld Reg.PWR_CLK 1 0 ∧ t.fld Reg.PWR_CLK 3 3 = 0 ∧
      t.fld Reg.PWR_CLK 1 0 = s.fld Reg.PWR_CLK 1 0) ∧
    (∀ m mv, g.pstate ≠ 0 → mv < 1024 → let a := vminReg r m
      Completes (.railVoltageSample r m mv) s fun t =>
        (flag (s.rd a) 31 = false ∨ mv < s.fld a 9 0 → flag (t.rd a) 31 = true ∧ t.fld a 9 0 = mv ∧ t.rd64 (vminTime r m).1 (vminTime r m).2 = s.now) ∧
        (flag (s.rd a) 31 = true → s.fld a 9 0 ≤ mv → t = s) ∧ OnlyRegs [a, (vminTime r m).1, (vminTime r m).2] s t)

/-- R185, R367, R472: a write to a window register of a powered region waits in RGNW_BUSY until it is applied, and a second one is dropped and counted; without
power the welt's mirror is written at once and the trace index not at all. -/
def Obligations.PostedWrites : Prop :=
  ∀ (s : State) (r : Nat) (v : Word), Canonical s → r < 896 →
    let g := s.region r
    let posts := fun (c : Instr) (w : Posted) =>
      (g.posted = none → Completes c s fun t => (t.region r).posted = some w ∧ flag (t.rd (Reg.RGNW_BUSY r)) 31 = true ∧
        OnlyRegs [Reg.RGNW_BUSY r, Reg.HIF_STAT] { s with regions := t.regions } t) ∧
      (g.posted ≠ none → Completes c s fun t => t.fld (Reg.RGNW_BUSY r) 15 0 = (s.fld (Reg.RGNW_BUSY r) 15 0 + 1) % 65536 ∧
        t.fld Reg.HIF_STAT 31 24 = (s.fld Reg.HIF_STAT 31 24 + 1) % 256 ∧ OnlyRegs [Reg.RGNW_BUSY r, Reg.HIF_STAT] s t)
    (g.pstate ≠ 0 → posts (.rgnwTrcIdxWrite r v) (.trcIdx v) ∧ ∀ m, posts (.vminValidClear r m v) (if flag v 31 then .vmin m else .none_)) ∧
    (g.pstate = 0 → exec (.rgnwTrcIdxWrite r v) s = .next s ∧ ∀ m, Completes (.vminValidClear r m v) s fun t =>
      t.rd (vminReg r m) = (if flag v 31 then setField (s.rd (vminReg r m)) 31 31 0 else s.rd (vminReg r m)) ∧ OnlyRegs [vminReg r m, Reg.HIF_STAT] s t) ∧
    (∀ w, g.posted = some w → Completes (.postedWriteApply r) s fun t => (t.region r).posted = none ∧ flag (t.rd (Reg.RGNW_BUSY r)) 31 = false ∧
      (∀ u, w = .trcIdx u → t.rd (Reg.RGNW_TRC_IDX r) = ((u &&& 0x1FF) ||| (s.rd (Reg.RGNW_TRC_IDX r) &&& ~~~0x1FF)) ∧
        OnlyRegs [Reg.RGNW_BUSY r, Reg.RGNW_TRC_IDX r, Reg.HIF_STAT] { s with regions := t.regions } t) ∧
      (∀ m, w = .vmin m → t.rd (vminReg r m) = setField (s.rd (vminReg r m)) 31 31 0 ∧
        OnlyRegs [Reg.RGNW_BUSY r, vminReg r m] { s with regions := t.regions } t))

/-- R370, R379, R392, R393, Table 14-4: a cold start begins ST0 with nothing loaded, the time at 0 and one more start; what flash and fuses hold is kept, as is
host memory; at the end of the hold-up the module is off and log entries that had not reached flash are gone. -/
def Obligations.ColdStartAndPowerLoss : Prop :=
  ∀ (s : State),
    (s.boot.alwaysOn = false → Completes .coldStart s fun t =>
      t.boot.alwaysOn = true ∧ t.boot.stage = some 0 ∧ t.boot.restarting = none ∧ t.time = 0 ∧ t.mgt.coldStarts = s.mgt.coldStarts + 1 ∧
      t.cores = [] ∧ t.regions = [] ∧ t.parts = [] ∧ t.rim = State.reset.rim ∧ t.fab = State.reset.fab ∧ t.srv = State.reset.srv ∧
      t.hostMem = s.hostMem ∧ t.pending = s.pending ∧ t.sec.cntM = s.sec.cntM ∧ t.sec.cntS = s.sec.cntS ∧ t.sec.testMode = false ∧
      t.mgt.entries = s.mgt.entries.filter (fun e => decide (e.1 ≤ s.mgt.flashed)) ∧ t.fld Reg.STG_STAT 27 24 = 0 ∧ t.fld Reg.STG_STAT 23 16 = 1 ∧
      flag (t.rd Reg.STG_STAT) 31 = false ∧ t.fld (Reg.STG_REC_A 0) 27 24 = 1 ∧ ∀ n, 0 < n → n < 12 → t.fld (Reg.STG_REC_A n) 27 24 = 0) ∧
    (s.boot.alwaysOn = true → s.pwr.holdUp = true → Completes .holdupEnd s fun t =>
      t.boot.alwaysOn = false ∧ t.regs = State.reset.regs ∧ t.cores = [] ∧ t.regions = [] ∧ t.parts = [] ∧ t.hostMem = s.hostMem ∧
      t.pwr.valid = [false, false] ∧ t.mgt.entries = s.mgt.entries.filter (fun e => decide (e.1 ≤ s.mgt.flashed)) ∧ t.mgt.coldStarts = s.mgt.coldStarts)

/-- R382, R387, R390, R391: a stage that ends with loci is passed with loss, the first locus and their number in its record, and the next begins with CUR; a
stage that fails halts bring-up: STATUS 5, HALTED, no stage under way and ALIVE_OUT low. R350, R353, R373, R375, R382, R436, R437, R451: ST0 passes with a valid
feed; ST1 boots the preferred bank, or the other when it fails, and halts when both do or the self-test fails; ST2 halts without fuses; ST3 waits for the flow,
and halts after 20 s; ST4 passes without the nodes named, and halts after 3 ms. -/
def Obligations.EarlyBringup : Prop :=
  (∀ (s : State) (n : Nat) (ws : List Word), Canonical s → n < 11 → s.rd (Reg.STG_REC_A n) = BitVec.ofNat 32 (n * 2 ^ 28 + 2 ^ 24) → ws.length < 65536 →
     (let t := s.passStage n ws;
       t.boot.stage = some (n + 1) ∧ t.fld Reg.STG_STAT 27 24 = n + 1 ∧ t.fld (Reg.STG_REC_A n) 27 24 = (if ws = [] then 2 else 3) ∧
       t.fld (Reg.STG_REC_A n) 15 0 = ws.length ∧ (∀ w, ws.head? = some w → t.rd (Reg.STG_REC_D n) = w) ∧
       t.fld (Reg.STG_REC_A (n + 1)) 27 24 = 1 ∧ t.rd (Reg.STG_REC_C (n + 1)) = BitVec.ofNat 32 (s.now / 1000)) ∧
     (let t := s.haltStage n ws;
       t.boot.stage = none ∧ t.boot.haltedIn = some n ∧ t.boot.aliveOut = false ∧ flag (t.rd Reg.STG_STAT) 30 = true ∧
       t.fld (Reg.STG_REC_A n) 27 24 = 5 ∧ t.fld (Reg.STG_REC_A n) 15 0 = ws.length)) ∧
  (∀ (s : State), Canonical s →
     (s.boot.stage = some 0 → s.pwr.valid.getD 0 false = true ∨ s.pwr.valid.getD 1 false = true → exec .st0FeedsPresent s = .next (s.passStage 0 [])) ∧
     (∀ a b ups, s.boot.stage = some 1 →
       let v := ({ s with boot := { s.boot with referenceOk := [true, true] } }).showRefs 1
       let u := { v with sec := { v.sec with error := false, sessions := [] } }
       let reads := fun (n : Nat) => if n = 0 then u.bankRead 0 a else u.bankRead 1 b
       let q := s.mgt.preferred % 2
       (∀ r0 r1, Completes (.st1ManagementBoot r0 r1 false a b ups) s fun t => t.boot.haltedIn = some 1 ∧ t.boot.stage = none ∧ t.sec.error = true ∧
         flag (t.rd Reg.STG_STAT) 30 = true) ∧
       (u.bankCause (reads q) = 0 → Completes (.st1ManagementBoot true true true a b ups) s fun t => t.boot.stage = some 2 ∧ t.mgt.booted = q ∧
         t.boot.aliveOn = true ∧ t.boot.referenceOk = [true, true] ∧ ∀ i, i < 2 → ups.getLsbD i = true → t.portUp i = true) ∧
       (u.bankCause (reads q) ≠ 0 → u.bankCause (reads (1 - q)) = 0 → Completes (.st1ManagementBoot true true true a b ups) s fun t =>
         t.boot.stage = some 2 ∧ t.mgt.booted = 1 - q) ∧
       (u.bankCause (reads q) ≠ 0 → u.bankCause (reads (1 - q)) ≠ 0 → Completes (.st1ManagementBoot true true true a b ups) s fun t =>
         t.boot.haltedIn = some 1 ∧ t.boot.stage = none)) ∧
     (s.boot.stage = some 2 → exec (.st2FuseRead none) s = .next (s.haltStage 2 [locus 12 1 0]) ∧
       ∀ f, Completes (.st2FuseRead (some f)) s fun t => t.boot.stage = some 3 ∧ t.boot.fuses = some f ∧
         t.rd64 Reg.GLB_SERIAL_LO Reg.GLB_SERIAL_HI = f.serial.toNat ∧ ∀ r, r < 896 → r ∈ f.dead → (t.region r).cause = 1 ∧ (t.region r).hubOn = false) ∧
     (∀ l, s.boot.stage = some 3 → s.flowOk = true → Completes (.st3StackRailRamp l) s fun t => t.boot.stage = some 4 ∧ t.boot.railsDown = false ∧
       t.pwr.converters = BitVec.ofNat 168 (maskOf ((List.range 168).filter fun i => !l.contains i))) ∧
     (s.boot.stage = some 3 → s.flowOk = false → s.elapsed (tabGet 0 s.boot.stageStart 3) 20000000000 = true →
       exec .coolantWaitTimeout s = .next (s.haltStage 3 [locus 14 (if flag (s.rd Reg.THM_FLOW) 31 then 1 else 2) 0])) ∧
     (∀ l, s.boot.stage = some 4 → Completes (.st4MeshLock l) s fun t => t.boot.stage = some 5 ∧ t.fld Reg.CLK_STAT 29 29 = 1 ∧
       ∀ r, r < 896 → 0 < s.convertersOf (fieldOf r) → t.fld (Reg.RGNW_CLK r) 31 30 = (if r ∈ l then 2 else 1)) ∧
     (s.boot.stage = some 4 → s.elapsed (tabGet 0 s.boot.stageStart 4) 3000000 = true → exec .meshLockTimeout s = .next (s.haltStage 4 [])))

/-- R16, R23, R220, R241, R382 to R389: ST5 tests every region with power and a node, ST6 builds the last, ST7 leaves every row zero and the last final, ST8
trains the stacks, ST9 brings the ports in use up, ST10 launches edge training and records it when it has settled, and ST11 is READY. -/
def Obligations.LateStages : Prop :=
  ∀ (s : State), Canonical s →
    (∀ f l sk, s.boot.stage = some 5 → s.boot.fuses = some f →
      let one := fun (t : State) (r : Nat) => if t.dead r || f.removed.contains (r % 32) then t
        else if t.convertersOf (fieldOf r) = 0 || t.boot.decoupled.contains r then (t.deadAtStart r 2).addLocus 5 (locus 3 2 (regionPlace r))
        else t.selfTestRegion f ((l.find? fun x => decide (x.r = r)).getD ⟨r, 0, [], 0, 0⟩)
      let u := (List.range 896).foldl one s
      exec (.st5RegionSelfTest l sk) s = .next (({ u with boot := { u.boot with skipFailed := sk } }).passStage 5 [])) ∧
    (∀ f r, f.badCores = [] → let t := s.selfTestRegion f ⟨r, 0, [], 0, 0⟩
      (t.region r).pstate = 1 ∧ (t.region r).hubOn = true ∧ (t.region r).cause = (s.region r).cause ∧ ∀ c, c ≠ 0 →
        ((s.selfTestRegion f ⟨r, c, [], 0, 0⟩).region r).cause = c) ∧
    (s.boot.stage = some 6 → let u := ({ s with last := s.computeLast }).addLoci 6 ({ s with last := s.computeLast }).columnLoci
      exec .st6BuildLast s = .next ((if s.computeLast.noGrid then u.closeRecord 6 4 else u.endStage 6).beginStage 7)) ∧
    (∀ l, s.boot.stage = some 7 → Completes (.st7MemoryTest l) s fun t => t.boot.stage = some 8 ∧ t.lastFinal = true ∧ t.pendLast = none ∧
      ∀ k, (t.coreAt k).slice = []) ∧
    (∀ l, s.boot.stage = some 8 → Completes (.st8RimTraining l) s fun t => t.boot.stage = some 9 ∧ t.rim.mem = [] ∧ ∀ i, i < 16 →
      t.rd (Reg.RIM_CHAN i) = l.getD i 0 ∧ t.fld (Reg.RIM_STACK i) 31 30 = (if l.getD i 0 = 0 then 3 else 1) ∧
      t.fld (Reg.RIM_STACK i) 29 24 = (bitsOf (l.getD i 0)).length) ∧
    (s.boot.stage = some 9 → Completes (.st9MeshRoutes []) s fun t => t.boot.stage = some 10 ∧ t.fab.failedLinks = [] ∧ ∀ a ∈ s.grid,
      ∀ e ∈ s.portsInUse a.1 a.2, t.linkState e.1 e.2 = 1) ∧
    (s.boot.stage = some 10 → Completes .st10EdgeTraining s fun t => t.boot.stage = some 11 ∧ t.boot.st10Open = true ∧ t.boot.launched = some s.time) ∧
    (s.boot.st10Open = true → (∀ k, k < 32 → s.fld (Reg.EDG_PORT k) 31 29 ≠ 1) ∨ s.elapsed (tabGet 0 s.boot.stageStart 10) 500000000 = true →
      Completes .st10Record s fun t => t.boot.st10Open = false ∧ t.boot.stage = s.boot.stage ∧
        (t.fld (Reg.STG_REC_A 10) 27 24 = 2 ∨ t.fld (Reg.STG_REC_A 10) 27 24 = 3)) ∧
    (s.boot.stage = some 11 → Completes .st11Readiness s fun t => t.boot.stage = none ∧ flag (t.rd Reg.STG_STAT) 31 = true ∧
      (t.fld (Reg.STG_REC_A 11) 27 24 = 2 ∨ t.fld (Reg.STG_REC_A 11) 27 24 = 3))

/-- R379 to R381, R393, R451: a host or contact restart clears READY, ends test mode and stops every running job with reason 2; with every partition free the
rails go down and everything outside the always-on group is as at reset; ST2 begins once MOD_RESET_N is high, or ST1 when the restart runs from it. -/
def Obligations.Restarts : Prop :=
  ∀ (s : State) (v : Word), Canonical s → s.boot.alwaysOn = true → flag (s.rd Reg.THM_STAT) 31 = false →
    (field v 31 28 = 1 → v &&& 0x0FFFFFFF = 0 →
      (s.starting = true → exec (.restartByHost v) s = .next (s.bump Reg.STG_STAT 15 8)) ∧
      (s.starting = false → exec (.restartByHost v) s = .next (s.acceptRestart 1))) ∧
    (∀ k, k = 1 ∨ k = 2 → let t := s.acceptRestart k
      t.boot.restarting = some k ∧ t.boot.stage = none ∧ t.boot.haltedIn = none ∧ t.sec.testMode = false ∧ t.sec.debugMask = 0 ∧
      flag (t.rd Reg.STG_STAT) 31 = false ∧ flag (t.rd Reg.STG_STAT) 30 = false ∧ t.fld Reg.STG_STAT 29 28 = k ∧
      ∀ p, p < 64 → s.pstate p = 2 → (s.part p).stall = false → (s.part p).stopEpoch = none → t.pstate p = 3 ∧ t.ersn p = 2) ∧
    (s.boot.stage = none → let t := s.acceptRestart 2
      exec .restartByContact s = .next { t with boot := { t.boot with resetLow := true } }) ∧
    (∀ b, s.boot.restarting.isSome = true → s.boot.downDone = false → s.liveParts = [] → s.sec.error = false →
      let u := s.powerDownAll.restartReset
      exec (.restartPowerDown b) s = .next (if u.boot.resetLow then { u with boot := { u.boot with downDone := true } } else u.leaveRestart) ∧
      u.cores = [] ∧ u.regions = [] ∧ u.parts = [] ∧ u.rim = State.reset.rim ∧ u.fab = State.reset.fab ∧ u.mgt = s.powerDownAll.mgt ∧ u.sec = s.powerDownAll.sec) ∧
    (s.boot.downDone = true → s.boot.restarting.isSome = true →
      exec .modResetNRelease s = .next ({ s with boot := { s.boot with resetLow := false } }).leaveRestart) ∧
    (s.sec.error = false → Completes .modResetNRelease { s with boot := { s.boot with downDone := true, restarting := some 1 } } fun t =>
      t.boot.restarting = none ∧ t.boot.stage = some (if s.fld (Reg.STG_REC_A 1) 27 24 = 0 then 1 else 2) ∧ flag (t.rd Reg.FLT_STAT) 31 = false)

/-- R374, R375, R392, R425: a node that decouples kills its region with cause 7; a lost reference gives way to the other one and is a deferred fault, and one
that returns is used by a mesh running free; ALIVE_OUT changes its level while the device is well, and is low otherwise. -/
def Obligations.ClocksAndAlive : Prop :=
  ∀ (s : State) (r ref : Nat), Canonical s → r < 896 → s.boot.alwaysOn = true →
    (s.fld (Reg.RGNW_CLK r) 31 30 = 1 → (s.region r).cause = 0 → Completes (.nodeDecouple r) s fun t =>
      t.fld (Reg.RGNW_CLK r) 31 30 = 2 ∧ (t.region r).cause = 7 ∧ (t.region r).pstate = 0 ∧
      ((s.region r).hubOn = true → (t.region r).hubStopped = true)) ∧
    (s.fld Reg.CLK_STAT 31 30 = ref + 1 → ref < 2 → s.boot.referenceOk.length = 2 → Completes .refSwitchover s fun t =>
      t.boot.referenceOk = s.boot.referenceOk.set ref false ∧ t.rd (Reg.FLT_CNT 1) = s.rd (Reg.FLT_CNT 1) + 1 ∧
      t.fld Reg.CLK_STAT 31 30 = (if s.boot.referenceOk.getD (1 - ref) false then 2 - ref else 0) ∧
      t.fld Reg.CLK_STAT 15 8 = (if s.boot.referenceOk.getD (1 - ref) false then (s.fld Reg.CLK_STAT 15 8 + 1) % 256 else s.fld Reg.CLK_STAT 15 8)) ∧
    (ref < 2 → Completes (.refReturn ref) s fun t => t.boot = { s.boot with referenceOk := s.boot.referenceOk.set ref true } ∧
      t.fld Reg.CLK_STAT 31 30 = (if s.fld Reg.CLK_STAT 31 30 = 0 then ref + 1 else s.fld Reg.CLK_STAT 31 30) ∧
      OnlyRegs [Reg.CLK_STAT] { s with boot := t.boot } t) ∧
    exec .aliveOutToggle s = .next { s with boot := { s.boot with aliveOut := (s.boot.aliveOn && !flag (s.rd Reg.FLT_STAT) 31 && s.boot.haltedIn.isNone &&
        !flag (s.rd Reg.THM_STAT) 31 && !s.boot.aliveOut) } }

/-- R63, R395 to R402, R406: what a sample of each sensor changes and how the level follows the temperature; a suspect pair caps its region's stretch and is one
deferred fault; enforcement begins at 2, rises each 10 ms at 105 °C and falls each 100 ms below 100 °C; a converter too hot for 1 ms goes off. -/
def Obligations.JunctionTemperatures : Prop :=
  ∀ (s : State) (c : CoreId) (r i n : Nat) (v : Option Nat), Canonical s → r < 896 →
    let key := CoreId_key c
    let x := s.core c
    let g := s.region r
    let stat := Reg.RGNW_THM_STAT r
    let since := fun (o : Option Long) (ns : Nat) => ∃ t ∈ o, s.elapsed t ns = true
    let never := fun (o : Option Long) (ns : Nat) => ∀ t ∈ o, s.elapsed t ns = false
    let hotC := if 756 < n then some ((tabFind s.thm.hotConverter i).getD s.time) else none
    let ends := fun (u : State) (sn : Sensor) => ((u.showThermal).watchHot sn v).checkConditions
    (x.powered = true →
      exec (.sensorSample (.coreDiode c) v) s = .next (ends (((((s.modCoreAt key fun y =>
        { y with tempD := v, missingSince := if v.isNone || y.tempR.isNone then some (y.missingSince.getD s.time) else none }).comparePair key).suspectCap (key / 17)).thermUpdate c.r)) (.coreDiode c)) ∧
      exec (.sensorSample (.coreRing c) v) s = .next (ends ((((s.modCoreAt key fun y =>
        { y with tempR := v.map (fun z => z / 2 * 2), missingSince := if y.tempD.isNone || v.isNone then some (y.missingSince.getD s.time) else none }).suspectCap (key / 17)).thermUpdate c.r)) (.coreRing c))) ∧
    (x.powered = false → exec (.sensorSample (.coreDiode c) v) s = .next ((((s.thermUpdate c.r).showThermal).watchHot (.coreDiode c) none).checkConditions)) ∧
    (exec (.sensorSample (.regulator r i) v) s = .next ((((s.regulatorSample r i v).thermUpdate r).showThermal).watchHot (.regulator r i)
      (if g.pstate = 0 then none else v)).checkConditions) ∧
    (exec (.sensorSample (.welt i) v) s = .next (ends (s.weltSample i v) (.welt i))) ∧
    (exec (.sensorSample (.converter i) (some n)) s = .next { s with thm := { s.thm with converters := tabPut s.thm.converters i (some n), hotConverter := tabPut s.thm.hotConverter i hotC } }) ∧
    (exec (.sensorSample .flash (some n)) s = .next (({ s with mgt := { s.mgt with flashTemp := some n } }).setFld Reg.THM_GATE 9 0 n)) ∧
    (∀ (sn : Sensor) (u : State), 736 ≤ n → u.thm.hotSensors.contains sn = true → ∃ w : State, u.watchHot sn (some n) = w.shutdown 1 ∧ w = { u with thm := w.thm }) ∧
    (∀ (sn : Sensor) (u : State), n < 736 → (∃ l, u.watchHot sn (some n) = { u with thm := { u.thm with hotSensors := l } } ∧ sn ∉ l)) ∧
    (∀ old, levelFor old (some n) = if 676 ≤ n ∨ (old = 2 ∧ 656 ≤ n) then 2 else if 636 ≤ n ∨ (1 ≤ old ∧ 616 ≤ n) then 1 else 0) ∧
    (∀ k, s.regionTemp r = some k → k < 1024 → s.weltLevelOf r ≤ 2 → flag (s.rd stat) 29 = false →
      (s.thermUpdate r).levelOf r = max (levelFor g.ownLevel (some k)) (s.weltLevelOf r) ∧ (s.thermUpdate r).fld stat 9 0 = k) ∧
    (x.powered = true → x.suspect = false → since x.suspectSince 1000000000 ∨ since x.missingSince 1000000 →
      let z := ((((s.modCore c fun y => { y with suspect := true }).bump Reg.THM_EVT 7 0).suspectCap c.r).showKt c.r).announce c.r
      exec (.sensorPairSuspect c) s = .next ((z.deferred 17 (z.owner c.r) (coreLocus key)).checkConditions)) ∧
    (x.powered = false ∨ x.suspect = true → exec (.sensorPairSuspect c) s = .next s) ∧
    (∀ t, g.throttleSince = some t → s.levelOf r = 2 → flag (s.rd Reg.GLB_MODE) 2 = false → s.elapsed t (1000000 * s.fld Reg.THM_CFG 15 0) = true →
      exec (.throttleGraceExpire r) s = .next (((((s.enforce r).showKt r).showCounts).announce r).checkConditions)) ∧
    (g.throttleSince = none ∨ s.levelOf r ≠ 2 ∨ flag (s.rd Reg.GLB_MODE) 2 = true → exec (.throttleGraceExpire r) s = .next s) ∧
    (flag (s.rd stat) 29 = false → g.pstate ≠ 0 → ((s.enforce r).region r).kTherm = 2 ∧ flag ((s.enforce r).rd stat) 29 = true) ∧
    (flag (s.rd stat) 29 = true → since g.hotSince 10000000 → exec (.thermalStretchAdjust r) s =
      .next ((((s.modRegion r fun y => { y with kTherm := min 7 (y.kTherm + 1), hotSince := some s.time }).showKt r).announce r).checkConditions)) ∧
    (flag (s.rd stat) 29 = true → never g.hotSince 10000000 → since g.coolSince 100000000 → 1 < g.kTherm → exec (.thermalStretchAdjust r) s =
      .next (((((s.modRegion r fun y => { y with kTherm := y.kTherm - 1, coolSince := some s.time }).showKt r).showCounts).announce r).checkConditions)) ∧
    (flag (s.rd stat) 29 = true → never g.hotSince 10000000 → since g.coolSince 100000000 → g.kTherm ≤ 1 → exec (.thermalStretchAdjust r) s =
      .next (((((((s.modRegion r fun y => { y with kTherm := y.kTherm - 1, coolSince := some s.time }).setFld stat 29 29 0).thermUpdate r).showKt r).showCounts).announce r).checkConditions)) ∧
    (flag (s.rd stat) 29 = false ∨ (never g.hotSince 10000000 ∧ never g.coolSince 100000000) → exec (.thermalStretchAdjust r) s = .next s) ∧
    (∀ t, tabFind s.thm.hotConverter i = some t → s.elapsed t 1000000 = true → exec (.converterOvertemp i) s = .next (s.converterOff i).checkConditions) ∧
    ((∀ t ∈ tabFind s.thm.hotConverter i, s.elapsed t 1000000 = false) → exec (.converterOvertemp i) s = .next s)

/-- R407 to R416: polls of the tray's sensors and the tenth failure in a row; the flow clamp, which lasts 20 s before the shutdown; the governor's band about
the mean power, its hold of the input power within the band, and the filler it asks for below it. -/
def Obligations.CoolantAndGovernor : Prop :=
  ∀ (s : State) (sn : CoolantSensor) (v : BitVec 16) (w : Nat), Canonical s → s.boot.alwaysOn = true →
    let none_ : BitVec 16 := if sn = .flow then 0xFFFF else 0x8000
    let i := coolIdx sn
    let fails := tabGet 0 s.thm.failedPolls i + 1
    let failed := ({ s with thm := { s.thm with failedPolls := tabAdd s.thm.failedPolls i fails } } : State)
    let lost : State := { failed with thm := { failed.thm with hist := [], pollsLow := if i = 2 then 0 else s.thm.pollsLow, pollsOk := if i = 2 then 0 else s.thm.pollsOk } }
    let read := (({ s with thm := { s.thm with failedPolls := tabSet 0 s.thm.failedPolls i 0 } }).setFld (coolReg sn) 31 31 1).setFld (coolReg sn) 15 0 v.toNat
    let on := flag (s.rd Reg.THM_STAT) 28
    let g := s.fld Reg.THM_GOV 31 24
    let band := s.thm.governed
    let down := band && decide (10 * w < s.thm.floor)
    let g' := if band = true ∧ s.thm.ceiling < 10 * w then min 255 (g + 8) else g - 1
    (fails ≠ 10 → exec (.coolantPoll sn none) s = .next failed ∧ exec (.coolantPoll sn (some none_)) s = .next failed) ∧
    (fails = 10 → exec (.coolantPoll sn none) s = .next (((lost.setFld (coolReg sn) 31 31 0).bump Reg.THM_COOL_EVT 7 0).deferred 18 none (locus 14 2 0))) ∧
    (sn ≠ .flow → v ≠ none_ → exec (.coolantPoll sn (some v)) s = .next (read.coolChecks).checkConditions) ∧
    (sn = .flow → v ≠ none_ → flag (s.rd Reg.THM_COOL_IN) 31 = true → flag (s.rd Reg.THM_COOL_OUT) 31 = true →
      let dt := signed 16 (s.fld Reg.THM_COOL_OUT 15 0) - signed 16 (s.fld Reg.THM_COOL_IN 15 0)
      let low := v.toNat < 900
      let h := ((v.toNat, dt, s.fld Reg.PWR_STAT 15 0) :: s.thm.hist).take 100
      let n := if low then s.thm.pollsLow + 1 else 0
      let polled : State := { read with thm := { read.thm with pollsLow := n, pollsOk := if low then 0 else s.thm.pollsOk + 1, hist := h } }
      exec (.coolantPoll sn (some v)) s = .next ((polled.flowClamp).coolChecks).checkConditions) ∧
    (on = false → 10 ≤ s.thm.pollsLow → s.boot.railsDown = false → s.flowClamp =
      { ((s.setFld Reg.THM_STAT 28 28 1).bump Reg.THM_COOL_EVT 31 24).ungovern with thm := { s.thm with governed := false, clampSince := some s.time } }.announceAll) ∧
    (on = true → 10 ≤ s.thm.pollsOk → s.flowClamp = { (s.setFld Reg.THM_STAT 28 28 0).ungovern with thm := { s.thm with governed := false, clampSince := none } }.announceAll) ∧
    (∀ t, s.thm.clampSince = some t → on = true → flag (s.rd Reg.THM_FLOW) 31 = true → s.elapsed t 20000000000 = true →
      exec .flowClampTimeout s = .next (s.shutdown 2).checkConditions) ∧
    (on = false ∨ s.thm.clampSince = none → exec .flowClampTimeout s = .next s) ∧
    (10 ≤ tabGet 0 s.thm.failedPolls i → rateOk s.thm.readdressed i 1000000000 s.now = true → exec (.coolantSensorReaddress sn) s =
      .next { s with thm := { s.thm with readdressed := tabAdd s.thm.readdressed i s.time } }) ∧
    (tabGet 0 s.thm.failedPolls i < 10 → exec (.coolantSensorReaddress sn) s = .next s) ∧
    (s.thm.floor ≤ 10 * w ∨ band = false → exec (.governorLimitUpdate w) s = .next
      (({ s with thm := { s.thm with ceiling := 10 * w + s.ramp, floor := 10 * w - s.ramp, governed := true } }).setFld Reg.THM_GOV 15 0 ((10 * w + s.ramp) / 10))) ∧
    (down = true → (∀ t ∈ s.thm.lastFall, s.elapsed t 1000000000 = true) → exec (.governorLimitUpdate w) s =
      .next (let t := ({ s with thm := { s.thm with lastFall := some s.time } }).logEvent 13 (ceilDiv (s.thm.floor - 10 * w) 10) [];
        ({ t with thm := { t.thm with ceiling := 10 * w + t.ramp, floor := 10 * w - t.ramp, governed := true } }).setFld Reg.THM_GOV 15 0 ((10 * w + t.ramp) / 10))) ∧
    (let t := (((s.setFld Reg.PWR_STAT 15 0 (min w 65535)).setFld Reg.THM_GOV 31 24 g').setFld Reg.THM_STAT 27 27 (if 0 < g' then 1 else 0)).setFld Reg.THM_STAT 26 26 (if down then 1 else 0);
      let t := if g' = g then t else t.announceAll
      (down = false → exec (.governorHoldAdjust w) s = .next (t.demandRest).checkConditions) ∧
      (down = true → exec (.governorHoldAdjust w) s = .next (({ t with thm := { t.thm with demandLast := some t.time } }).demandWake).checkConditions)) ∧
    (s.thm.demandLast = none → s.demandRest = s)

/-- R419 to R423: a fault is counted in its class and, when its rate allows, written to the ring under the next number: a corrected one once a second for its
place, a deferred one once a millisecond for its partition, a job-fatal one always, and it begins the stop of its owner with its reason, in stall mode at epoch
E + 64; a device-fatal one sets FATAL with its source and stops every partition with reason 8. -/
def Obligations.FaultReactions : Prop :=
  ∀ (s : State) (src reason p : Nat) (loc : Word), Canonical s → p < 64 → src < 256 → reason < 16 →
    let w := (s.rd Reg.FLT_LOG_WR).toNat
    let ring := fun (cls part detail : Nat) => tabAdd s.flt.ring (w % 256) (faultBytes s.now false s.hostReact cls src part detail loc)
    (let t := s.jobFatal (some p) src reason loc;
      t.rd (Reg.FLT_CNT 2) = s.rd (Reg.FLT_CNT 2) + 1 ∧ t.rd Reg.FLT_LOG_WR = s.rd Reg.FLT_LOG_WR + 1 ∧ t.flt.ring = ring 2 p reason ∧
      (s.pstate p = 2 → (s.part p).stopEpoch = none → t.ersn p = reason ∧
        ((s.part p).stall = false → t.pstate p = 3 ∧ (t.part p).stopPending = true) ∧
        ((s.part p).stall = true → t.pstate p = 2 ∧ (t.part p).stopEpoch = some ((s.part p).epoch + 64))) ∧
      (s.pstate p = 1 → reason ≠ 2 → reason ≠ 8 → t.pstate p = 1 ∧ (t.part p).heldReason = some ((s.part p).heldReason.getD reason))) ∧
    (let t := s.deferred src (some p) loc;
      t.rd (Reg.FLT_CNT 1) = s.rd (Reg.FLT_CNT 1) + 1 ∧
      t.flt.ring = (if rateOk s.flt.lastDeferred p 1000000 s.now then ring 1 p 0 else s.flt.ring) ∧ t.pstate p = s.pstate p) ∧
    (let t := s.corrected src loc false;
      t.rd (Reg.FLT_CNT 0) = s.rd (Reg.FLT_CNT 0) + 1 ∧
      t.flt.ring = (if rateOk s.flt.lastCorrected (256 * loc.toNat + src) 1000000000 s.now then ring 0 255 0 else s.flt.ring) ∧ t.hif = s.hif) ∧
    (flag (s.rd Reg.FLT_STAT) 31 = false →
      let t := s.deviceFatal src loc
      t.rd (Reg.FLT_CNT 3) = s.rd (Reg.FLT_CNT 3) + 1 ∧ t.flt.ring = ring 3 255 0 ∧ flag (t.rd Reg.FLT_STAT) 31 = true ∧
      t.fld Reg.FLT_FATAL 31 24 = src ∧ t.rd Reg.FLT_FATAL_LOC = loc ∧ t.boot.aliveOut = false ∧ t.srv.frozen = true ∧
      (s.pstate p = 2 → (s.part p).stopEpoch = none → (s.part p).stall = false → t.pstate p = 3 ∧ t.ersn p = 8))

/-- R422, R424, R432: the watchdog's end is a device-fatal fault of source 43; recovery restarts the device when it may and its quiet period is over, and is
asked for or armed; REARM arms it and forgets recent recoveries, which leave RECENT after an hour; a command out of place counts as dropped. -/
def Obligations.RecoveryCommands : Prop :=
  ∀ (s : State) (v : Word), Canonical s →
    let recovers := fun (c : Instr) => Completes c s fun t =>
      t.boot.restarting = some 3 ∧ t.fld Reg.STG_STAT 29 28 = 3 ∧ t.fld Reg.FLT_STAT 15 0 = (s.fld Reg.FLT_STAT 15 0 + 1) % 65536 ∧ t.flt.recoverAsked = false
    (s.boot.alwaysOn = true → s.boot.stage ≠ some 0 → s.boot.stage ≠ some 1 → s.boot.haltedIn = none →
      exec .mgmtWatchdogExpire s = .next (s.deviceFatal 43 0)) ∧
    (s.mayRecover = true → s.quietOver = true → s.flt.recoverAsked = true ∨ (flag (s.rd Reg.FLT_STAT) 30 = true ∧ s.hostReact = false) →
      recovers .recoveryQuietExpire) ∧
    Completes .recentRecoveryExpire s (fun t => t.flt = { s.flt with recent := s.flt.recent.filter fun u => !(s.elapsed u 3600000000000) } ∧
      t.fld Reg.FLT_STAT 29 27 = min 4 (s.flt.recent.filter fun u => !(s.elapsed u 3600000000000)).length ∧ OnlyRegs [Reg.FLT_STAT] { s with flt := t.flt } t) ∧
    (field v 31 28 = 1 → Completes (.rearm v) s fun t => t.flt = { s.flt with recent := [] } ∧ flag (t.rd Reg.FLT_STAT) 30 = true ∧
      t.fld Reg.FLT_STAT 29 27 = 0 ∧ t.fld Reg.FLT_STAT 26 0 = s.fld Reg.FLT_STAT 26 0 ∧ OnlyRegs [Reg.FLT_STAT, Reg.HIF_STAT] { s with flt := t.flt } t) ∧
    (field v 31 28 = 2 → v &&& 0x3FFFFF = 0 →
      (s.mayRecover = false → exec (.recover v) s = .next (s.bump Reg.FLT_FATAL 23 16)) ∧
      (s.mayRecover = true → s.quietOver = true → recovers (.recover v)) ∧
      (s.mayRecover = true → s.quietOver = false → exec (.recover v) s = .next { s with flt := { s.flt with recoverAsked := true } })) ∧
    Completes (.fltCfgWrite v) s (fun t => t.rd Reg.FLT_CFG = ((v &&& 0x00FFFF00) ||| (s.rd Reg.FLT_CFG &&& ~~~0x00FFFF00)) ∧
      (field v 23 16 = s.fld Reg.FLT_CFG 23 16 → OnlyRegs [Reg.FLT_CFG, Reg.HIF_STAT] s t) ∧
      (field v 23 16 ≠ s.fld Reg.FLT_CFG 23 16 → t.mgt.nextNumber = s.mgt.nextNumber + 1))

/-- R426, R427, R17, R18: a core that fails takes its region with it when its spare is used; in an unowned region the spare takes its place at once; in a
partition's region the spare procedure begins or waits its turn, and its commands and its timer move it on or end the job. -/
def Obligations.CoreFailuresAndRepair : Prop :=
  ∀ (s : State) (c : CoreId) (v : Word) (p : Nat), Canonical s → c.r < 896 → c.k < 17 →
    let f := s.failCore c.r c.k
    (s.dead c.r = false → s.coreFailed c.r c.k = false → s.injArmed 6 (some c.r) = false →
      (s.spareFree c.r = false → exec (.coreFailure c) s = .next (f.regionDies c.r 4 (s.owner c.r))) ∧
      (s.spareFree c.r = true → c.k < 16 → s.owner c.r = none → s.holds c.r = false →
        exec (.coreFailure c) s = .next ((f.takeSpare c.r c.k none).deferredD 23 none 32 (coreLocus (CoreId_key c)) false)) ∧
      (s.spareFree c.r = true → c.k < 16 → s.owner c.r = some p → s.flt.current.isSome = true → Completes (.coreFailure c) s fun t =>
        t.flt.queue = s.flt.queue ++ [(c.r, c.k)] ∧ t.flt.current = s.flt.current ∧ t.rd (Reg.FLT_CNT 2) = s.rd (Reg.FLT_CNT 2) + 1 ∧
        t.core c = { s.core c with phase := .failed, logical := none } ∧ flag (t.region c.r).failed c.k = true)) ∧
    (∀ key n, s.flt.current = some (p, key, n) →
      let st := s.fld Reg.FLT_REPAIR 31 29
      (field v 31 28 = 3 → v &&& 0x3FFFFF = 0 → field v 27 22 = p → st = 5 → exec (.resumeRepair v) s = .next (s.setFld Reg.FLT_REPAIR 31 29 6)) ∧
      (field v 31 28 = 3 → v &&& 0x3FFFFF = 0 → st ≠ 5 → exec (.resumeRepair v) s = .next (s.bump Reg.FLT_FATAL 23 16)) ∧
      (field v 31 28 = 4 → v &&& 0x3FFFFF = 0 → field v 27 22 = p → st = 4 ∨ st = 5 → exec (.endRepair v) s = .next (s.endJob p)) ∧
      (∀ t, s.flt.shipSince = some t → st = 4 → s.elapsed t 60000000000 = true → exec .spareShipmentTimeout s = .next (s.endJob p)) ∧
      (∀ b, n = 0 → st = 1 ∨ st = 2 → s.pstate p = 3 → (∀ k ∈ (s.part p).started, (s.coreAt k).phase ≠ .running) →
        (s.coreAt (17 * (key / 17) + 16)).powered = false → exec (.spareProcedureStep b) s = .next (s.setFld Reg.FLT_REPAIR 31 29 2)) ∧
      (n = 0 → st = 4 → s.ing.purpose = 2 → s.ing.part = none → s.ing.closed = true →
        exec (.spareProcedureStep true) s = .next ({ s with ing := Ingest.idle, flt := { s.flt with shipSince := none } }).spareHold) ∧
      (∀ t, n = 0 → st = 6 → s.pstate p = 3 → s.step5 p = some t → s.flt.queue = [] →
        let u := (t.part p).placed.foldl (fun (t : State) g => t.modRegion g.r fun x =>
          { x with emissions := [], moves := [], le := ListEngine.idle, ringSlot := [], ringHigh := [] }) t
        exec .jobResume s = .next (((u.startPart p).modPart p fun x =>
          { x with stopPending := false, stopEpoch := none, stopTime := none, heldReason := none, uncorrectable := false }).setPState p 2).spareOver))

/-- R428 to R431: a window of the in-service test that passes moves its region to the next slice, and a first failure is counted and run again; injection is
armed in test mode only, with a class and mask the table allows. -/
def Obligations.InServiceTestAndInjection : Prop :=
  ∀ (s : State) (r : Nat) (v : Word), Canonical s → r < 896 →
    let a := Reg.RGNW_IST r
    (∀ k u g, s.dead r = false → (s.region r).pstate ≠ 0 → (s.region r).poweringDown = false → s.owner r = none → s.istNext r (s.fld a 31 27) = some k →
      k < 17 → (s.coreAt (17 * r + k)).suspect = false → (s.region r).istFailed = 0 →
      (s.fld a 26 21 < 63 → Completes (.istWindow r true u g) s fun t =>
        t.fld a 26 21 = s.fld a 26 21 + 1 ∧ t.fld a 31 27 = k ∧ OnlyRegs [a] { s with regions := t.regions } t ∧ (t.region r).istFailed = 0) ∧
      Completes (.istWindow r false u g) s fun t =>
        t.fld a 12 5 = (s.fld a 12 5 + 1) % 256 ∧ t.fld a 31 27 = k ∧ t.fld a 26 21 = s.fld a 26 21 ∧
        OnlyRegs [a] { s with regions := t.regions } t ∧ (t.region r).istFailed = (if u then 2 else 1)) ∧
    (s.sec.testMode = false → exec (.faultInjectArm v) s = .next (s.bump Reg.FLT_INJ_STAT 31 24)) ∧
    (s.sec.testMode = true → flag v 31 = true → injRefused (field v 29 26) (s.rd Reg.FLT_INJ_MASK) = true →
      exec (.faultInjectArm v) s = .next (s.bump Reg.FLT_INJ_STAT 31 24)) ∧
    (s.sec.testMode = true → flag v 31 = true → injRefused (field v 29 26) (s.rd Reg.FLT_INJ_MASK) = false → field v 29 26 ≠ 7 →
      Completes (.faultInjectArm v) s fun t => t.rd Reg.FLT_INJ_CFG = v ∧ t.fld Reg.FLT_INJ_STAT 15 0 = 0 ∧
        t.fld Reg.FLT_INJ_STAT 31 24 = s.fld Reg.FLT_INJ_STAT 31 24 ∧ OnlyRegs [Reg.FLT_INJ_CFG, Reg.FLT_INJ_STAT] s t)

/-- R404, R405, R436, R438, R439, R442 to R444, R458: the management command at the head of the queue completes with its result or the status of its first
failed check, and a STAGE or SELECT that meets a closed flash gate waits for it; entries held back go to flash when the gate opens; the counters follow the
booted version when the fuse gate allows. -/
def Obligations.ManagementCommands : Prop :=
  ∀ (s : State) (m : MgtCmd) (b img : Bytes), s.mgt.cmds.head? = some m → s.mgt.gateWait = none → m.block = none →
    let n := leAt b 8 4
    let fits := 512 ≤ n ∧ n ≤ 96 * 2 ^ 20
    let image := slice img 0 n
    let approved := s.sec.stageOpen = true ∨ s.sec.approved = some (slice image 24 64)
    let u := if s.sec.stageOpen then s else { s with sec := { s.sec with approved := none } }
    let r := 32 * byteAt b 1 + byteAt b 0
    let fused := s.sec.fusedDead.contains r = true ∨ (∃ f ∈ s.boot.fuses, f.dead.contains r = true)
    let entries := (List.range (leAt b 16 4)).map fun i => s.logBytes (leAt b 8 8 + i)
    let part := byteAt b 8
    let space := byteAt b 9 / 2 % 8
    let a := leAt b 16 8
    let len := leAt b 24 4
    let opened := s.sec.debugMask.getLsbD part = true ∧ (s.pstate part = 2 ∨ s.pstate part = 3)
    (m.op = 1 → exec (.logCopy none) s = .next (s.cmdDone 2 0)) ∧
    (m.op = 1 → leAt b 16 4 = 0 ∨ 65536 < leAt b 16 4 → exec (.logCopy (some b)) s = .next (s.cmdDone 1 0)) ∧
    (m.op = 1 → 0 < leAt b 16 4 → leAt b 16 4 ≤ 65536 → exec (.logCopy (some b)) s = .next ((s.hostWrite m.port (leAt b 0 8) entries.flatten).cmdDone 0
      (entries.filter fun e => decide (leAt e 0 8 ≠ 0)).length)) ∧
    (m.op = 2 → ¬fits → exec (.stage (some b) (some img)) s = .next (s.cmdDone 1 0)) ∧
    (m.op = 2 → fits → exec (.stage (some b) none) s = .next (s.cmdDone 2 0)) ∧
    (m.op = 2 → fits → ¬approved → exec (.stage (some b) (some img)) s = .next (u.cmdDone 5 0)) ∧
    (m.op = 2 → fits → approved → u.flashOpen = true → exec (.stage (some b) (some img)) s = .next (u.finishStage image)) ∧
    (m.op = 2 → fits → approved → u.flashOpen = false → exec (.stage (some b) (some img)) s = .next ((u.setFld Reg.MGT_STAT 29 28 1).waitGate 2 image)) ∧
    (∀ st, let h := slice image 0 512
      let w := s.setBank s.inactiveBank { header := h, payload := image.drop 512 }
      (st = (s.stageImage image).2 → st = if imageSigned h (image.drop 512) = false then 3
        else if w.svnOk h = false ∨ byteAt h 12 < s.sec.minM ∨ byteAt h 13 < s.sec.minS then 4 else 0)) ∧
    (m.op = 3 → s.fld Reg.MGT_STAT 29 28 < 2 → exec .select s = .next (s.cmdDone 6 0)) ∧
    (m.op = 3 → 2 ≤ s.fld Reg.MGT_STAT 29 28 → s.flashOpen = false → exec .select s = .next (s.waitGate 3 [])) ∧
    (m.op = 3 → 2 ≤ s.fld Reg.MGT_STAT 29 28 → s.flashOpen = true → exec .select s = .next (
      let t := (({ s with mgt := { s.mgt with preferred := s.inactiveBank } }).setFld Reg.MGT_STAT 29 28 3).setFld Reg.MGT_STAT 30 30 s.inactiveBank
      (t.logEvent 16 2 (t.firmwareData ((s.mgt.banks.map (·.header)).getD s.inactiveBank []))).cmdDone 0 0)) ∧
    (m.op = 4 → 31 < byteAt b 0 ∨ 27 < byteAt b 1 → exec (.svcClear (some b)) s = .next (s.cmdDone 1 0)) ∧
    (m.op = 4 → byteAt b 0 ≤ 31 → byteAt b 1 ≤ 27 → fused ∨ tabFind s.mgt.deaths r = none → exec (.svcClear (some b)) s = .next (s.cmdDone 8 0)) ∧
    (m.op = 4 → byteAt b 0 ≤ 31 → byteAt b 1 ≤ 27 → ¬fused → (tabFind s.mgt.deaths r).isSome = true → exec (.svcClear (some b)) s = .next
      ((({ s with mgt := { s.mgt with deaths := tabDrop s.mgt.deaths r } }).logEvent 19 0 [BitVec.ofNat 8 (byteAt b 0), BitVec.ofNat 8 (byteAt b 1)]).cmdDone 0 0)) ∧
    (m.op = 6 → 63 < part ∨ 5 < space ∨ 2 ^ 20 < len → exec (.debugAccess (some b) (some img)) s = .next (s.cmdDone 1 0)) ∧
    (m.op = 6 → part ≤ 63 → space ≤ 5 → len ≤ 2 ^ 20 → ¬opened → exec (.debugAccess (some b) (some img)) s = .next (s.cmdDone 9 0)) ∧
    (m.op = 6 → part ≤ 63 → space ≤ 5 → len ≤ 2 ^ 20 → opened → ∀ q, ((s.part part).placed[leAt b 10 2]?).map (·.r) = some q →
      (debugSize space < a + len → exec (.debugAccess (some b) (some img)) s = .next (s.cmdDone 10 0)) ∧
      (∀ k, s.physCore q (byteAt b 12) = some k → a + len ≤ debugSize space →
        let write := decide (byteAt b 9 % 2 = 1)
        let done := fun (t : State) => (t.logEvent 21 part [BitVec.ofNat 8 space, BitVec.ofNat 8 (if write then 1 else 0)]).cmdDone 0 0
        (write = true → space < 5 → exec (.debugAccess (some b) (some img)) s =
          .next (done (s.modCoreAt (17 * q + k) fun x => debugWrite x space a (slice img 0 len)))) ∧
        (write = false → space < 5 → exec (.debugAccess (some b) (some img)) s =
          .next (done (s.hostWrite m.port (leAt b 0 8) (debugRead (s.coreAt (17 * q + k)) space a len)))) ∧
        (write = false → space = 5 → exec (.debugAccess (some b) (some img)) s =
          .next (done (s.hostWrite m.port (leAt b 0 8) (memRead (s.region q).seq.sram a len))))))
    ∧ (s.flashOpen = false → exec .flashWriteResume s = .next s)
    ∧ (s.flashOpen = true → s.mgt.lostPending = 0 → exec .flashWriteResume s =
        .next (({ s with mgt := { s.mgt with flashed := s.mgt.nextNumber, lostPending := 0 } }).setFld Reg.MGT_LOG_STAT 15 0 0))
    ∧ (s.flashOpen = true → s.mgt.lostPending ≠ 0 → ∀ t : State, t.mgt.gateWait = none →
        t = (({ s with mgt := { s.mgt with flashed := s.mgt.nextNumber, lostPending := 0 } }).setFld Reg.MGT_LOG_STAT 15 0 0).logEvent 15 s.mgt.lostPending [] →
        exec .flashWriteResume s = .next t)
    ∧ exec .stageFlashGateTimeout s = .next s
    ∧ (∀ t : State, ∀ since i, t.mgt.gateWait = some (2, since, i) → t.elapsed since 60000000000 = true →
        exec .stageFlashGateTimeout t = .next ((({ t with mgt := { t.mgt with gateWait := none } }).setFld Reg.MGT_STAT 29 28 0).cmdDone 7 0))
    ∧ (s.sec.rbAuto = false ∨ flag (s.rd Reg.STG_STAT) 31 = false → exec .rollbackCounterAdvance s = .next s)
    ∧ (s.sec.rbAuto = true → flag (s.rd Reg.STG_STAT) 31 = true → exec .rollbackCounterAdvance s = .next ((s.advanceCounter false).advanceCounter true))
    ∧ (s.fld Reg.MGT_SVN 31 24 ≤ s.sec.cntM → s.advanceCounter false = s) ∧ (s.sec.cntM < s.fld Reg.MGT_SVN 31 24 → s.fuseGate = false → s.advanceCounter false = s.fuseRefused)
    ∧ (s.sec.cntM < s.fld Reg.MGT_SVN 31 24 → s.fuseGate = true → (s.advanceCounter false).sec = { s.sec with cntM := s.fld Reg.MGT_SVN 31 24 })

/-- R404, R451 to R458: a request is queued or refused; handled at the queue's head it passes or fails the checks of Table 17-7 in order; accepted, it makes its
one change and the counter moves with it, else it names its refusal; a failed self-test or entropy check stops the security core. -/
def Obligations.ProtectionChanges : Prop :=
  ∀ (s : State) (q : Bytes) (seq : Option Nat) (rest : List (Bytes × Option Nat)), s.sec.queue = (q, seq) :: rest → s.sec.error = false →
    let b := reqBody q
    let p := byteAt b 0
    let key := leAt b 2 2
    let u : State := { s with sec := { s.sec with queue := rest } }
    let c := u.requestCheck q
    let refuse := fun (i : Instr) (st : Nat) => exec i s = .next (u.requestEnd seq (reqOp q) st)
    let accept := fun (i : Instr) (x : Security) => exec i s = .next (({ s with sec := { x with ctr := s.sec.ctr + 1 } }).requestEnd seq (reqOp q) 32)
    let x := u.sec
    let ready := c = 0 ∧ (s.sec.setupOk = true ∨ u.firstEnrol q = true)
    (c ≠ 0 → (reqOp q = 1 → refuse (.setKey q) c) ∧ (reqOp q = 2 → refuse (.setPolicy q) c) ∧ (reqOp q = 3 → refuse (.debug q) c) ∧
      (reqOp q = 4 → refuse (.updatePolicy q) c) ∧ (reqOp q = 5 → refuse (.enrol q) c) ∧ (reqOp q = 6 → refuse (.remove q) c) ∧
      (reqOp q = 7 → refuse (.fuse q) c) ∧ (reqOp q = 8 → refuse (.approve q) c)) ∧
    (reqOp q = 1 → c = 0 → s.pstate p ≠ 0 → refuse (.setKey q) 38) ∧
    (reqOp q = 1 → c = 0 → s.pstate p = 0 → key = 0xFFFF → refuse (.setKey q) 42) ∧
    (reqOp q = 1 → ready → s.pstate p = 0 → key ≠ 0xFFFF → key = 0 ∨ (∀ e ∈ s.sec.keys, e.1 ≠ p → e.2.1 ≠ key) →
      accept (.setKey q) { x with keys := tabSet (0, 0) s.sec.keys p (key, byteAt b 1) }) ∧
    (reqOp q = 2 → ready → accept (.setPolicy q) { x with listed := decide (byteAt b 0 = 1), models := policyModels b }) ∧
    (reqOp q = 3 → c = 0 → s.debugFused = true → leAt b 0 8 ≠ 0 → refuse (.debug q) 39) ∧
    (reqOp q = 3 → ready → s.debugFused = false ∨ leAt b 0 8 = 0 →
      accept (.debug q) { x with debugMask := BitVec.ofNat 64 (leAt b 0 8), testMode := decide (byteAt b 8 % 2 = 1) }) ∧
    (reqOp q = 4 → ready → accept (.updatePolicy q) { x with stageOpen := decide (byteAt b 0 % 2 = 1), rbAuto := decide (byteAt b 0 / 2 % 2 = 1),
                                                             minM := byteAt b 1, minS := byteAt b 2 }) ∧
    (reqOp q = 5 → c = 0 → u.firstEnrol q = true → accept (.enrol q) { x with roster := tabAdd (tabAdd s.sec.roster p (slice b 1 133)) 1 (slice b 135 133), setupOk := true }) ∧
    (reqOp q = 5 → ready → u.firstEnrol q = false → reqLen q ≠ 268 → tabFind s.sec.roster p = none →
      accept (.enrol q) { x with roster := tabAdd s.sec.roster p (slice b 1 133), setupOk := true }) ∧
    (reqOp q = 5 → c = 0 → u.firstEnrol q = false → reqLen q = 268 ∨ (tabFind s.sec.roster p).isSome = true → refuse (.enrol q) 40) ∧
    (reqOp q = 6 → c = 0 → s.sec.roster.length ≤ 2 ∨ tabFind s.sec.roster p = none → refuse (.remove q) 40) ∧
    (reqOp q = 6 → ready → 2 < s.sec.roster.length → (tabFind s.sec.roster p).isSome = true → accept (.remove q) { x with roster := tabDrop s.sec.roster p }) ∧
    (reqOp q = 7 → c = 0 → p = 1 → byteAt b 1 ≤ s.sec.cntM → refuse (.fuse q) 42) ∧
    (reqOp q = 7 → c = 0 → p = 3 → s.fuseGate = false → exec (.fuse q) s = .next (u.fuseRefused.requestEnd seq 7 41)) ∧
    (reqOp q = 7 → ready → p = 1 → s.sec.cntM < byteAt b 1 → s.fuseGate = true → exec (.fuse q) s = .next (
      let t := ({ s with sec := { x with cntM := byteAt b 1 } }).showCounters
      ({ t with sec := { t.sec with ctr := t.sec.ctr + 1 } }).requestEnd seq 7 32)) ∧
    (reqOp q = 8 → ready → accept (.approve q) { x with approved := some (slice b 0 64) }) ∧
    (c = 0 → s.sec.setupOk = false → u.firstEnrol q = false → reqOp q = 8 → refuse (.approve q) 44)
    ∧ (∀ m blk, s.mgt.cmds.head? = some m → m.op = 5 → s.mgt.gateWait = none → m.block = none →
        let n := leAt blk 8 4
        (n < 336 ∨ 20816 < n → exec (.pcr (some blk) (some q)) s = .next (s.cmdDone 1 0)) ∧
        (336 ≤ n → n ≤ 20816 → 4 ≤ s.sec.queue.length → exec (.pcr (some blk) (some q)) s = .next (s.dropCmd.requestEnd m.seq (reqOp (slice q 0 n)) 43)) ∧
        (336 ≤ n → n ≤ 20816 → s.sec.queue.length < 4 → 1 ≤ reqOp (slice q 0 n) → reqOp (slice q 0 n) ≤ 8 → exec (.pcr (some blk) (some q)) s =
          .next ({ s.dropCmd with sec := { s.sec with queue := s.sec.queue ++ [(slice q 0 n, m.seq)] } }).showSec))
    ∧ exec (.secSelfTestPeriodic true) s = .next s
    ∧ (s.boot.alwaysOn = true → let f := (({ s with sec := { s.sec with error := true, sessions := [] } }).showSec).deviceFatal 44 0
        exec (.secSelfTestPeriodic false) s = .next f ∧ exec .entropyHealthFail s = .next f)

/-- R445, R447, R448: the SPDM requests of the subset are answered, their response an open value but for what the spec fixes; another version, another request
or the error state is answered with its error; four sessions open at most; and management commands arrive by MCTP too. -/
def Obligations.SecureMessages : Prop :=
  ∀ (s : State) (id : Nat) (req : Bytes), s.boot.alwaysOn = true →
    let ok := s.sec.error = false ∧ byteAt req 0 = 0x13
    let answered := fun (i : Instr) (t : State) (known : Bytes) => exec i s = .next { t with fresh := s.fresh + 1, sec := { t.sec with
      answer := .response (known ++ Config.spdm s.fresh req) } }
    let tells := fun (i : Instr) (a : Answer) => exec i s = .next { s with sec := { s.sec with answer := a } }
    let sess := fun (l : List Session) => ({ s with sec := { s.sec with sessions := l } } : State)
    let isOpen := s.sec.sessions.any (fun x => decide (x.id = id)) = true
    (∀ i, i = Instr.getVersion req ∨ i = Instr.getCapabilities req ∨ i = Instr.negotiateAlgorithms req ∨ i = Instr.getDigests req ∨ i = Instr.getCertificate req ∨
        i = Instr.challenge req →
      (s.sec.error = true → tells i .errorState) ∧ (ok → answered i s []) ∧ (s.sec.error = false → byteAt req 0 ≠ 0x13 → byteAt req 0 ≠ 0x10 → tells i .versionMismatch)) ∧
    (s.sec.error = false → byteAt req 0 = 0x10 → answered (.getVersion req) s [] ∧ tells (.challenge req) .versionMismatch) ∧
    (ok → answered (.getMeasurements req) s ((askedMeasurements req).flatMap s.measurement)) ∧
    (ok → s.freeSession = none → tells (.keyExchange req) .busy) ∧
    (∀ i, ok → s.freeSession = some i → answered (.keyExchange req) (sess (s.sec.sessions ++ [⟨i, false, 0⟩])) []) ∧
    (ok → isOpen → answered (.finish id req) (sess (finishSession id s.sec.sessions)) [] ∧ answered (.heartbeat id req) s [] ∧
      answered (.keyUpdate id req) (sess (rekeySession id s.sec.sessions)) [] ∧ answered (.endSession id req) (sess (closeSession id s.sec.sessions)) []) ∧
    (ok → ¬isOpen → tells (.finish id req) .unsupportedRequest ∧ tells (.heartbeat id req) .unsupportedRequest ∧ tells (.keyUpdate id req) .unsupportedRequest ∧
      tells (.endSession id req) .unsupportedRequest) ∧
    ((∀ i, i < 4 → ∃ x ∈ s.sec.sessions, x.id = i) → s.freeSession = none) ∧
    (∀ i, 16 ≤ i → i < 80 → s.measurement i = if s.pstate (i - 16) = 0 then zeros 64 else sha512 (leBytes 2 (s.part (i - 16)).key ++ slice (s.part (i - 16)).image 64 64)) ∧
    (byteAt req 1 = 0xE0 → ok → answered (.mctpMessage 5 req) s ((askedMeasurements req).flatMap s.measurement)) ∧
    (byteAt req 1 = 0 → ok → tells (.mctpMessage 5 req) .unsupportedRequest) ∧
    (1 ≤ byteAt req 0 → byteAt req 0 ≤ 6 → exec (.mctpMessage 0x7E req) s = .next { s with mgt := { s.mgt with
      cmds := s.mgt.cmds ++ [{ op := byteAt req 0, port := 0, seq := none, block := some (req.drop 1) }] } })

/-- R475 to R477, R480: a doorbell moves its index when the move is forward and within the ring, and is counted in BAD otherwise; sizes and ports are kept while
a ring is on, and turning it on clears its indices; an entry is fetched when the ring is on, its port is up, an entry is there and its completion has room. -/
def Obligations.HostRings : Prop :=
  ∀ (s : State) (p n : Nat) (v : Word) (assist : Bool) (e : Bytes), Canonical s → p < 64 → n < 2 →
    let x := s.rings p
    let i := field v 15 0
    let on := s.ringOn p
    let xs := Reg.HIF_XFERn_STAT n
    let xon := flag (s.rd (Reg.HIF_XFERn_CFG n)) 31
    let moves := fun (pi ci size : Nat) => indexDiff pi ci ≤ indexDiff i ci ∧ indexDiff i ci ≤ size
    let bad := s.bump (Reg.HIF_CSTAT p) 7 0
    let cci := s.fld (Reg.HIF_RSTAT p) 31 16
    let aci := s.fld (Reg.HIF_RSTAT p) 15 0
    let cpi := s.fld (Reg.HIF_CSTAT p) 31 16
    (moves x.cmdPi cci (s.cmdSize p) → exec (.cmdPi p v) s = .next (s.setRings p { x with cmdPi := i, cmdEarly := x.cmdEarly || !on })) ∧
    (¬moves x.cmdPi cci (s.cmdSize p) → exec (.cmdPi p v) s = .next bad) ∧
    (moves x.assPi aci (s.assSize p) → exec (.assPi p v) s = .next (s.setRings p { x with assPi := i, assEarly := x.assEarly || !on })) ∧
    (¬moves x.assPi aci (s.assSize p) → exec (.assPi p v) s = .next bad) ∧
    (indexDiff i x.cplCi ≤ indexDiff cpi x.cplCi → exec (.cplCi p v) s = .next (s.setRings p { x with cplCi := i })) ∧
    (indexDiff cpi x.cplCi < indexDiff i x.cplCi → exec (.cplCi p v) s = .next bad) ∧
    (exec (.outCi p v) s = exec (.outCiWrite p v) s) ∧
    (moves (s.fld xs 31 16) (s.fld xs 15 0) (s.xferSize n) → xon = true → exec (.xferPi n v) s = .next (s.setFld xs 31 16 i)) ∧
    (moves (s.fld xs 31 16) (s.fld xs 15 0) (s.xferSize n) → xon = false → exec (.xferPi n v) s = .next { s.setFld xs 31 16 i with
      hif := { s.hif with xferEarly := s.hif.xferEarly.set n true } }) ∧
    (¬moves (s.fld xs 31 16) (s.fld xs 15 0) (s.xferSize n) → exec (.xferPi n v) s = .next s) ∧
    (on = true → Rewrites (.ringCfgWrite p v) s (Reg.HIF_RCFG p) 0x80000000 0x40000FFF v) ∧
    (on = false → flag v 31 = false → Rewrites (.ringCfgWrite p v) s (Reg.HIF_RCFG p) 0xC0000FFF 0 v) ∧
    (on = false → flag v 31 = true → Completes (.ringCfgWrite p v) s fun t => t.ringOn p = true ∧ t.rd (Reg.HIF_RSTAT p) = 0 ∧ t.fld (Reg.HIF_CSTAT p) 31 16 = 0 ∧
      t.fld (Reg.HIF_CSTAT p) 7 0 = s.fld (Reg.HIF_CSTAT p) 7 0 ∧ t.hif = { s.hif with rings := tabSet Rings.zero s.hif.rings p { x with
        cmdPi := if x.cmdEarly then x.cmdPi else 0, assPi := if x.assEarly then x.assPi else 0, cplCi := 0, cmdEarly := false, assEarly := false } } ∧
      OnlyRegs [Reg.HIF_RCFG p, Reg.HIF_RSTAT p, Reg.HIF_CSTAT p, Reg.HIF_STAT] { s with hif := t.hif } t) ∧
    (xon = true → Rewrites (.xferCfgWrite n v) s (Reg.HIF_XFERn_CFG n) 0x80000000 0x4000000F v) ∧
    (xon = false → flag v 31 = false → Rewrites (.xferCfgWrite n v) s (Reg.HIF_XFERn_CFG n) 0x8000000F 0x40000000 v) ∧
    (xon = false → flag v 31 = true → s.hif.xferEarly.getD n false = false → Completes (.xferCfgWrite n v) s fun t =>
      flag (t.rd (Reg.HIF_XFERn_CFG n)) 31 = true ∧ flag (t.rd (Reg.HIF_XFERn_CFG n)) 30 = false ∧ t.rd xs = 0) ∧
    (s.mayFetch p assist = false → exec (.ringEntryFetch p assist (some e)) s = .next s) ∧
    (s.mayFetch p assist = true →
      let t := if assist then s.bump (Reg.HIF_RSTAT p) 15 0 else s.bump (Reg.HIF_RSTAT p) 31 16
      let w := t.setRings p { x with reserved := x.reserved + 1 }
      exec (.ringEntryFetch p assist none) s = .next ((s.setFld (Reg.HIF_RCFG p) 31 31 0).setFld (Reg.HIF_CSTAT p) 15 15 1) ∧
      (assist = false → byteAt e 0 = 0 ∨ 8 < byteAt e 0 → exec (.ringEntryFetch p assist (some e)) s = .next (w.complete p (byteAt e 0) 7 0 (slice e 8 4) [])) ∧
      (assist = true → byteAt e 0 = 0 ∨ 3 < byteAt e 0 → exec (.ringEntryFetch p assist (some e)) s = .next (w.complete p (byteAt e 0) 1 1 (slice e 8 4) [])) ∧
      (1 ≤ byteAt e 0 → byteAt e 0 ≤ (if assist then 3 else 8) → exec (.ringEntryFetch p assist (some e)) s =
        .next (w.setRings p { w.rings p with taken := (w.rings p).taken ++ [(assist, e)] })))

/-- R479, R480, R195, R282, R290: an assist entry is refused for its mode, form or region, or starts the keeper's operation, the list walk or the move that it
names and is under way until its completion; a transfer entry's buffer joins the ring's stream, and a host memory error stops the ring and the ingest. -/
def Obligations.AssistAndTransferEntries : Prop :=
  ∀ (s t : State) (p n : Nat) (e l : Bytes), s.takeRing p true e = some t →
    let ends := fun (i : Instr) (st : Nat) => exec i s = .next (t.assistDone p e st)
    let off := leAt e 28 4
    let cmd := BitVec.ofNat 32 (byteAt e 3 * 2 ^ 30 + 2 ^ 29 + off / 16)
    let wellMade := byteAt e 2 < 16 ∧ byteAt e 3 ≤ 3 ∧ off % 16 = 0
    let moved := slice e 32 32
    (byteAt e 0 = 1 → s.hostMode p 2 = false → s.hostMode p 3 = false → ends (.keeper p e) 6) ∧
    (byteAt e 0 = 1 → s.hostMode p 2 = true ∨ s.hostMode p 3 = true →
      (16 ≤ byteAt e 2 → ends (.keeper p e) 1) ∧ (byteAt e 2 < 16 → s.ownerOf p (byteAt e 2) (byteAt e 3) = none → ends (.keeper p e) 2) ∧
      (∀ r, byteAt e 2 < 16 → s.ownerOf p (byteAt e 2) (byteAt e 3) = some r → (s.keeper r).queue.length < 64 → exec (.keeper p e) s =
        .next (((t.assistBusy p e).setKeeper r { s.keeper r with queue := (s.keeper r).queue ++ [assistOp p e] }).setFld (Reg.RGNW_PK_STAT r) 31 24
          ((s.keeper r).queue.length + 1))) ∧
      (∀ r, byteAt e 2 < 16 → s.ownerOf p (byteAt e 2) (byteAt e 3) = some r → 64 ≤ (s.keeper r).queue.length → exec (.keeper p e) s = .next s)) ∧
    (byteAt e 0 = 2 → s.hostMode p 2 = false → ends (.walk p e (some l)) 6) ∧
    (byteAt e 0 = 2 → s.hostMode p 2 = true → ¬wellMade → ends (.walk p e (some l)) 1) ∧
    (byteAt e 0 = 2 → s.hostMode p 2 = true → wellMade →
      (s.ridx p (leAt e 12 4) = none → ends (.walk p e (some l)) 2) ∧
      (∀ r, s.ridx p (leAt e 12 4) = some r →
        (s.geometry p (byteAt e 2) = none → ends (.walk p e (some l)) 2) ∧
        ((s.geometry p (byteAt e 2)).isSome = true → s.inTrows r off (leAt e 24 4) = false → ends (.walk p e (some l)) 3) ∧
        ((s.geometry p (byteAt e 2)).isSome = true → s.inTrows r off (leAt e 24 4) = true → ends (.walk p e none) 4 ∧
          ((s.region r).le.busy = true → exec (.walk p e (some l)) s = .next (((t.bondWrite r off (slice l 0 (leAt e 24 4))).leStart r cmd none).assistDone p e 5)) ∧
          ((s.region r).le.busy = false → exec (.walk p e (some l)) s =
            .next (((t.bondWrite r off (slice l 0 (leAt e 24 4))).assistBusy p e).leStart r cmd (some (p, leAt e 8 4))))))) ∧
    (byteAt e 0 = 3 → s.hostMode p 4 = false → ends (.mover p e) 6) ∧
    (byteAt e 0 = 3 → s.hostMode p 4 = true → s.ridx p (leAt e 12 4) = none → ends (.mover p e) 2) ∧
    (∀ r, byteAt e 0 = 3 → s.hostMode p 4 = true → s.ridx p (leAt e 12 4) = some r →
      let refused := s.moverBad r moved || (s.moverRim ((s.owner r).getD 64) (moverDesc moved none)).isSome
      (16 ≤ (s.region r).moves.length → exec (.mover p e) s = .next ((t.presentMove r moved none).assistDone p e 5)) ∧
      ((s.region r).moves.length < 16 → refused = true → exec (.mover p e) s = .next ((t.presentMove r moved none).assistDone p e 1)) ∧
      ((s.region r).moves.length < 16 → refused = false → exec (.mover p e) s = .next ((t.assistBusy p e).presentMove r moved (some (p, leAt e 8 4)))))
    ∧ (let src := s.fld Reg.HIF_XFER_CFG 1 0
        let st := Reg.HIF_XFERn_STAT n
        let open_ := s.ing.part.isSome = true ∧ s.ing.closed = false ∧ (src = n ∨ src = 3) ∧ flag (s.rd (Reg.HIF_XFERn_CFG n)) 31 = true ∧ s.portUp n = true ∧
          s.fld st 31 16 ≠ s.fld st 15 0 ∧ s.hif.xferEnd.getD n false = false
        (¬open_ → exec (.xferEntryFetch n (some e) (some l)) s = .next s) ∧
        (open_ → exec (.xferEntryFetch n none none) s = .next (s.xferError n) ∧ exec (.xferEntryFetch n (some e) none) s = .next (s.xferError n)) ∧
        (open_ → l.length = leAt e 8 4 → byteAt e 12 % 2 = 0 → s.hif.xferEnd.all id = false →
          let u := { (s.bump st 15 0).setSource n ((s.bump st 15 0).ingSource n ++ l) with ing := { ((s.bump st 15 0).setSource n ((s.bump st 15 0).ingSource n ++ l)).ing with closed := false } }
          exec (.xferEntryFetch n (some e) (some l)) s = .next (u.pumpAll ((u.ingSource n).length / 32 + 1))))

/-- R467, R470, R474, R481, R483: a port's reset takes its link, its vectors and its ring enables but no index; its link coming up issues the held writes in
order; a hold-off's end sends one message for the causes that waited; GLB_MODE's FAULT shows in FLT_STAT; and a register write needs every byte enable. -/
def Obligations.HostPortsAndRegisters : Prop :=
  ∀ (s : State) (port vector speed width addr : Nat) (v : Word) (en : BitVec 4), Canonical s → port < 2 → speed < 8 → width < 16 →
    let mine := s.hif.held.filter fun h => decide (h.port = port)
    let key := 256 * port + vector
    let x := tabGet Machine.Vector.zero s.hif.msix key
    Completes (.hostPortReset port) s (fun t => t.portUp port = false ∧
      t.fld (Reg.HIF_PORT port) 23 16 = (s.fld (Reg.HIF_PORT port) 23 16 + 1) % 256 ∧ flag (t.rd (Reg.HIF_XFERn_CFG port)) 31 = false ∧
      (∀ p, p < 64 → s.homePort p = port → t.ringOn p = false) ∧ (∀ p, p < 64 → s.homePort p ≠ port → t.rd (Reg.HIF_RCFG p) = s.rd (Reg.HIF_RCFG p)) ∧
      t.hif = { s.hif with msix := s.hif.msix.filter fun e => decide (e.1 / 256 ≠ port) } ∧
      OnlyRegs (Reg.HIF_PORT port :: Reg.HIF_XFERn_CFG port :: (List.range 64).map Reg.HIF_RCFG) { s with hif := t.hif } t) ∧
    (s.portUp port = true → exec (.hostPortLinkUp port speed width) s = .next s) ∧
    (s.portUp port = false → exec (.hostPortLinkUp port speed width) s = .next (mine.foldl State.issueHeld
      { ((s.setFld (Reg.HIF_PORT port) 31 31 1).setFld (Reg.HIF_PORT port) 30 28 speed).setFld (Reg.HIF_PORT port) 27 24 width with
        hif := { s.hif with held := s.hif.held.filter fun h => decide (h.port ≠ port) } })) ∧
    (s.portUp port = false → mine = [] → Completes (.hostPortLinkUp port speed width) s fun t => t.portUp port = true ∧ t.fld (Reg.HIF_PORT port) 30 28 = speed ∧
      t.fld (Reg.HIF_PORT port) 27 24 = width) ∧
    (∀ d adv, s.portUp port = false → s.hostWriteAdv port addr d adv = { s with hif := { s.hif with held := s.hif.held ++ [⟨port, addr, d, adv⟩] } }) ∧
    (∀ d, s.portUp port = true → s.hostWrite port addr d = { s with hostMem := memWrite s.hostMem addr d }) ∧
    (∀ u, x.until_ = some u → x.waiting = true → u.toNat ≤ s.now → x.masked = false → exec (.msixHoldoffExpire port vector) s = .next { s with
      hif := { s.hif with msix := tabSet Machine.Vector.zero s.hif.msix key { x with
        sent := x.sent + 1, pendingBit := false, waiting := false, until_ := some (BitVec.ofNat 64 (s.now + 1000 * s.fld Reg.HIF_ICFG 15 0)) } } }) ∧
    (∀ u, x.until_ = some u → x.waiting = true → u.toNat ≤ s.now → x.masked = true → exec (.msixHoldoffExpire port vector) s = .next { s with
      hif := { s.hif with msix := tabSet Machine.Vector.zero s.hif.msix key { x with pendingBit := true, waiting := false } } }) ∧
    (x.until_ = none ∨ x.waiting = false → exec (.msixHoldoffExpire port vector) s = .next s) ∧
    Completes (.glbModeWrite v) s (fun t => t.fld Reg.GLB_MODE 4 1 = field v 4 1 ∧ t.fld Reg.FLT_STAT 26 26 = field v 1 1 ∧
      OnlyRegs [Reg.GLB_MODE, Reg.FLT_STAT, Reg.HIF_STAT] s t) ∧
    (en ≠ 0xF ∨ addr % 4 ≠ 0 → exec (.registerWrite port addr en v) s = .next (s.bump Reg.HIF_STAT 15 8)) ∧
    (s.weltDown = false → ∀ r ∈ plainRegs, Rewrites (.registerWrite port r.1 0xF v) s r.1 r.2.1 r.2.2 v) ∧
    (s.weltDown = true → onRail addr = true → en = 0xF → addr % 4 = 0 → exec (.registerWrite port addr en v) s = .next s) ∧
    (exec (.registerWrite port Reg.SRV_ACCT_RATE 0xF v) s = .next (s.setAcct s.selAcct { s.acct s.selAcct with rate := v.toNat })) ∧
    (exec (.registerWrite port Reg.SRV_ACCT_CAP 0xF v) s = .next (s.setAcct s.selAcct { s.acct s.selAcct with cap := v.toNat })) ∧
    (flag (s.rd Reg.MGT_RES) 15 = true → v &&& 0x0FFF0000 = 0 → exec (.registerWrite port Reg.MGT_CMD 0xF v) s = .next (s.bump Reg.MGT_RES 14 8)) ∧
    (flag (s.rd Reg.MGT_RES) 15 = false → v &&& 0x0FFF0000 = 0 → 1 ≤ field v 31 28 → field v 31 28 ≤ 6 → exec (.registerWrite port Reg.MGT_CMD 0xF v) s =
      .next { s.setFld Reg.MGT_RES 15 15 1 with mgt := { s.mgt with cmds := s.mgt.cmds ++ [⟨field v 31 28, port, some (field v 15 0), none⟩] } })

/-- R489 to R495: a SND to an edge port becomes a frame in its queue, waits while the queue is full, or is dropped and counted; a frame passes the link when it
is whole and the next in order; a data frame whose channel is bound enters the fabric; stream frames join the ingest in order; control frames return credits. -/
def Obligations.EdgeFrames : Prop :=
  ∀ (s : State) (k key src raddr n : Nat) (d f : Bytes),
    let x := s.edgePort k
    let seq := leAt f 0 2 % 4096
    let passes := s.edgeUp k = true ∧ linkOk f = true ∧ seq = (x.lastIn + 1) % 4096
    let taken := ((s.setEdgePort k { x with lastIn := seq, owed := x.owed + 1, ackOwed := true }).bump (Reg.EDG_RX k) 31 0).edgeAck k f
    let hub := s.lookup (s.weltId (.edge k))
    let place := (hub.map fun e => (s.last.phys e.x e.y).getD 0).getD 0
    let drop := s.noBind.violation 5 key src (s.weltId (.edge k)) 0xFFFF place 9
    (∀ p, s.keyOwner key = some p →
      let g := 16 * p + raddr % 16
      let a := s.chanA g
      let body := frameBody (field (s.chanB g) 15 0) s.modId (field a 19 10) g (d.take 16) (d.drop 16)
      let bound := 16 ≤ d.length ∧ flag a 31 = true ∧ s.modId ≠ 0 ∧ s.currentPort g = some k
      (bound → x.txq.length < 256 → exec (.edgeSend k key src raddr d true) s =
        .next ((s.setEdgePort k { x with txq := x.txq ++ [(g, body)] }).settleChannels.edgePump k)) ∧
      (bound → 256 ≤ x.txq.length → exec (.edgeSend k key src raddr d true) s = .next s) ∧
      (¬bound → exec (.edgeSend k key src raddr d true) s = .next drop) ∧ exec (.edgeSend k key src raddr d false) s = .next drop) ∧
    (s.keyOwner key = none → exec (.edgeSend k key src raddr d true) s = .next drop) ∧
    (frameType f = 1 → s.edgeRoom k = false → exec (.edgeFrameRx k f) s = .next s) ∧
    (frameType f = 1 → s.edgeRoom k = true →
      let g := leAt f 8 2 % 1024
      let bound := leAt f 4 2 = taken.modId ∧ flag (taken.chanA g) 31 = true ∧ field (taken.chanB g) 15 0 = leAt f 6 2 ∧
        field (taken.chanA g) 19 10 = leAt f 10 2 % 1024 ∧ taken.pstate (g / 16) = 2
      (¬passes → exec (.edgeFrameRx k f) s = .next s) ∧ (passes → endCrcBad f = true → exec (.edgeFrameRx k f) s = .next (taken.bump Reg.EDG_DROP 15 0)) ∧
      (passes → endCrcBad f = false → bound → exec (.edgeFrameRx k f) s = .next (taken.edgeDeliver k (g / 16) f)) ∧
      (passes → endCrcBad f = false → ¬bound → exec (.edgeFrameRx k f) s = .next taken.noBind)) ∧
    (3 ≤ frameType f → s.edgeRoom k = true → passes → endCrcBad f = false → exec (.edgeFrameRx k f) s = .next taken) ∧
    (frameType f = 2 → ¬passes → exec (.edgeIngestFrame k f) s = .next s) ∧
    (frameType f = 2 → passes → endCrcBad f = true → exec (.edgeIngestFrame k f) s = .next (taken.bump Reg.EDG_DROP 15 0)) ∧
    (frameType f = 2 → passes → endCrcBad f = false →
      let i := leAt f 16 4
      let wanted := taken.edgeLoad = true ∧ flag (taken.rd Reg.EDG_ING) k = true ∧ leAt f 4 2 = taken.modId
      let known := i < (taken.rd Reg.EDG_ING_SEQ).toNat ∨ (tabFind taken.edg.ingest i).isSome = true
      let put : State := { taken with edg := { taken.edg with ingest := tabAdd taken.edg.ingest i (slice f 32 (leAt f 12 2)), ingestEnd := if byteAt f 20 % 2 = 1 then some i else taken.edg.ingestEnd } }
      let joined := put.edgeJoin (put.edg.ingest.length + 1)
      (¬wanted → exec (.edgeIngestFrame k f) s = .next taken.noBind) ∧ (wanted → known → exec (.edgeIngestFrame k f) s = .next taken) ∧
      (wanted → ¬known → exec (.edgeIngestFrame k f) s = .next (joined.pumpAll ((joined.ingSource 2).length / 32 + 1)))) ∧
    (frameType f = 0 → s.edgeUp k = true → linkOk f = true → leAt f 12 2 = 0 → exec (.edgeControlFrame k f) s = .next (
      let t := s.bump (Reg.EDG_RX k) 31 0
      (t.setEdgePort k { x with credits := x.credits + leAt f 2 2 / 4096, replay := ackFrames (leAt f 2 2 % 4096) x.replay }).edgePump k)) ∧
    (frameType f ≠ 0 ∨ s.edgeUp k = false ∨ linkOk f = false → exec (.edgeControlFrame k f) s = .next s) ∧
    (s.edgeUp k = true → x.ackOwed = true ∨ 0 < x.owed ∨ s.elapsed x.lastControl 1000 = true → exec (.edgeControlTimer k) s =
      .next ((s.setEdgePort k { x with ackOwed := false, owed := x.owed - 15, lastControl := s.time }).bump (Reg.EDG_TX k) 31 0)) ∧
    (s.edgeUp k = false ∨ (x.ackOwed = false ∧ x.owed = 0 ∧ s.elapsed x.lastControl 1000 = false) → exec (.edgeControlTimer k) s = .next s) ∧
    (s.edgeUp k = true → exec (.edgeReplay k none) s = .next (s.bump (Reg.EDG_ERR k) 31 16)) ∧
    (∀ i, s.edgeUp k = true → x.replay.findIdx? (fun f => decide (f.1 = n)) = some i → exec (.edgeReplay k (some n)) s =
      .next ((s.bump (Reg.EDG_ERR k) 31 16).bumpBy (Reg.EDG_TX k) 31 0 (x.replay.length - i))) ∧
    (s.edgeUp k = false → exec (.edgeReplay k (some n)) s = .next s)

/-- R388, R488, R496: a port that loses its link, or is told to retrain, discards its buffers and trains; training ends with the port up at its width or down to
try again a second later, and source 21 reports one that came back narrower or stays down after a loss; a port may be disabled and enabled. -/
def Obligations.EdgeLinks : Prop :=
  ∀ (s : State) (k : Nat) (v : Word) (lanes : BitVec 8) (width : Nat),
    let x := s.edgePort k
    let j := field v 4 0
    let u := s.reservedBits 0 v 0x0FFFFFE0
    let trains := fun (t : State) (k : Nat) => (((t.setFld (Reg.EDG_PORT k) 31 29 1).setFld (Reg.EDG_PORT k) 28 25 0).setFld (Reg.EDG_PORT k) 24 17 0).bump (Reg.EDG_PORT k) 16 9
    let settled := fun (w : Nat) => ((s.setFld (Reg.EDG_PORT k) 31 29 (if w = 0 then 3 else 2)).setFld (Reg.EDG_PORT k) 28 25 w).setFld (Reg.EDG_PORT k) 24 17 lanes.toNat
    let lane := ((List.range 8).find? fun l => !(lanes.getLsbD l)).getD 0
    (s.edgeUp k = true → exec (.edgeLinkLoss k) s = .next (trains (s.edgeDown k) k).settleChannels) ∧ (s.edgeUp k = false → exec (.edgeLinkLoss k) s = .next s) ∧
    (s.weltDown = false → field v 31 28 = 1 → 1 ≤ u.edgeState j → u.edgeState j ≤ 3 → exec (.retrain v) s = .next (trains (u.edgeDown j) j).settleChannels) ∧
    (s.weltDown = false → field v 31 28 = 1 → u.edgeState j = 0 ∨ 4 ≤ u.edgeState j → exec (.retrain v) s = .next u) ∧
    (s.weltDown = false → field v 31 28 = 2 → exec (.disable v) s = .next (((((u.edgeDown j).setEdgePort j EdgePort.zero).setFld (Reg.EDG_PORT j) 31 29 4).setFld (Reg.EDG_PORT j) 28 25 0).setFld
      (Reg.EDG_PORT j) 24 17 0).settleChannels) ∧
    (s.weltDown = false → field v 31 28 = 3 → u.edgeState j = 4 → exec (.enable v) s = .next (trains u j)) ∧ (s.weltDown = false → field v 31 28 = 3 → u.edgeState j ≠ 4 → exec (.enable v) s = .next u) ∧
    (∀ t, s.edgeState k = 3 → x.retryAt = some t → t.toNat ≤ s.now → exec (.edgeTrainRetry k) s = .next (trains s k)) ∧
    (s.edgeState k ≠ 3 ∨ x.retryAt = none → exec (.edgeTrainRetry k) s = .next s) ∧
    (s.edgeState k ≠ 1 → exec (.edgeTrainingSettled k ⟨width, lanes⟩) s = .next s) ∧
    (s.edgeState k = 1 →
      (let t := (settled 0).setEdgePort k { EdgePort.zero with wasWidth := x.wasWidth, retryAt := some (BitVec.ofNat 64 (s.now + 1000000000)) };
        exec (.edgeTrainingSettled k ⟨0, lanes⟩) s = .next (if x.wasWidth ≠ 0 ∧ x.retryAt = none then t.deferred 21 none (locus 7 2 (256 + 8 * k)) else t).settleChannels) ∧
      (width ≠ 0 → let t := (settled width).setEdgePort k { EdgePort.zero with credits := 64, lastControl := s.time }
        exec (.edgeTrainingSettled k ⟨width, lanes⟩) s = .next (if width < x.wasWidth then t.deferred 21 none (locus 7 1 (8 * k + lane)) else t).settleChannels)) ∧
    (Canonical s → k < 32 → width < 16 → s.edgeState k = 1 → width ≠ 0 → (settled width).edgeState k = 2 ∧ (settled 0).edgeState k = 3 ∧ (trains s k).edgeState k = 1)

/-- R473: a configuration register takes the bits software may change and keeps the rest; a write that changes a reserved bit is counted in RSVD, or marked in a
test restart; no other register and no other state changes. R370, R386: while the stack rails are down, a write to a block they feed is ignored. -/
def Obligations.ConfigurationWrites : Prop :=
  ∀ (s : State) (v : Word) (p : Nat), Canonical s → p < 64 →
    (s.weltDown = false → Rewrites (.fabCfgWrite v) s Reg.FAB_CFG 0x0FF0FFFF 0 v) ∧
    (s.weltDown = true → ∀ i ∈ [Instr.fabCfgWrite v, .fabViolLogClear v, .fabStallLogClear v, .outCiWrite p v, .outCfgWrite p 2 v, .retrain v, .disable v,
      .enable v], exec i s = .next s) ∧
    Rewrites (.precisionCfgWrite p v) s (Reg.GLB_PRECISION_CFG p) 0x000001FF 0 v ∧
    Rewrites (.pmodeWrite p v) s (Reg.GLB_PMODE p) 0x0000003F 0x003F0000 v ∧
    Rewrites (.ldrIngCfgWrite v) s Reg.LDR_ING_CFG 0x0000FFFF 0 v ∧
    Rewrites (.ldrPwrLimitWrite v) s Reg.LDR_PWR_LIMIT 0x0000FFFF 0 v ∧
    Rewrites (.pwrBallastWrite v) s Reg.PWR_BALLAST 0x0000000F 0 v ∧
    Rewrites (.distIdxWrite v) s Reg.GLB_DIST_IDX 0x000FFFE0 0 v ∧
    Rewrites (.thmCfgWrite v) s Reg.THM_CFG 0x00FFFFFF 0 v

/-- R469: a read of the low half of a wide value captures the high half for the same port, which that port's next read of the high half returns; a read of the
first word of an entry captures the others. Nothing but the captures changes. -/
def Obligations.CapturedReads : Prop :=
  ∀ (s : State) (port p r : Nat), port < 2 → p < 64 → r < 896 → Canonical s →
    Captures (.clkTimeLoRead port) s port Reg.CLK_TIME_HI (BitVec.ofNat 32 (s.now / 2 ^ 32)) ∧
    Captures (.pwrEnergyLoRead port) s port Reg.PWR_ENERGY_HI (s.rd Reg.PWR_ENERGY_HI) ∧
    Captures (.ldrIngBytesLoRead port) s port Reg.LDR_ING_BYTES_HI (s.rd Reg.LDR_ING_BYTES_HI) ∧
    Captures (.mgtLogLoRead port) s port Reg.MGT_LOG_HI (s.rd Reg.MGT_LOG_HI) ∧
    Captures (.secCtrLoRead port) s port Reg.SEC_CTR_HI (s.rd Reg.SEC_CTR_HI) ∧
    Captures (.secDbgLoRead port) s port Reg.SEC_DBG_HI (s.rd Reg.SEC_DBG_HI) ∧
    Captures (.glbSerialLoRead port) s port Reg.GLB_SERIAL_HI (s.rd Reg.GLB_SERIAL_HI) ∧
    Captures (.rgnwVminTcLoRead port r) s port (Reg.RGNW_VMIN_TC_HI r) (s.rd (Reg.RGNW_VMIN_TC_HI r)) ∧
    Captures (.rgnwVminTmLoRead port r) s port (Reg.RGNW_VMIN_TM_HI r) (s.rd (Reg.RGNW_VMIN_TM_HI r)) ∧
    Captures (.rgnwPwrELoRead port r) s port (Reg.RGNW_PWR_E_HI r) (if (s.region r).pstate = 0 then 0 else s.rd (Reg.RGNW_PWR_E_HI r)) ∧
    Captures (.srvPidleLoRead port p) s port (Reg.SRV_PIDLE_HI p) (BitVec.ofNat 32 (tabGet 0 s.srv.idle p / 2 ^ 32)) ∧
    Captures (.glbLockEpochLoRead port p) s port (Reg.GLB_LOCK_EPOCH_HI p) (BitVec.ofNat 32 (s.lockEpoch p / 2 ^ 32)) ∧
    Captures (.stgLocData0Read port) s port Reg.STG_LOC_DATA1 s.locusWords.2 ∧
    Captures (.fabCmapData0Read port) s port Reg.FAB_CMAP_DATA1 s.cmapWords.2 ∧
    Completes (.fltLogData0Read port) s fun t => t = { s with capt := t.capt } ∧
      ∀ i, 0 < i → i < 4 → t.hostRead port (Reg.FLT_LOG_DATA i) = BitVec.ofNat 32 (leAt s.fltEntry (4 * i) 4)
end

