-- ==== Sys2Proof/Laws/Fields.lean ====
section
/-! SUPPORT. What a field of a word reads after a field of it is written. -/

namespace Sys2Proof.Machine

theorem getLsbD_setField {w : Nat} (x : BitVec w) (hi lo v i : Nat) :
    (setField x hi lo v).getLsbD i = if lo ≤ i ∧ i ≤ hi then decide (i < w) && v.testBit (i - lo) else x.getLsbD i := by
  have hm : ∀ y : Nat, (BitVec.ofNat w (y <<< lo)).getLsbD i = (decide (i < w) && (decide (lo ≤ i) && y.testBit (i - lo))) := by
    intro y
    rw [BitVec.getLsbD_ofNat, Nat.testBit_shiftLeft]
  rw [setField]
  simp only [BitVec.getLsbD_or, BitVec.getLsbD_and, BitVec.getLsbD_not, hm, Nat.testBit_two_pow_sub_one]
  by_cases hw : i < w
  · by_cases hl : lo ≤ i
    · by_cases hh : i ≤ hi
      · have : i - lo < hi + 1 - lo := by omega
        simp [hw, hl, hh, this]
      · have : ¬ (i - lo < hi + 1 - lo) := by omega
        simp [hw, hl, hh, this]
    · simp [hw, hl]
  · rw [BitVec.getLsbD_of_ge _ _ (by omega)]
    simp [hw]

theorem testBit_field {w : Nat} (x : BitVec w) (hi lo j : Nat) :
    (field x hi lo).testBit j = (decide (j < hi + 1 - lo) && x.getLsbD (lo + j)) := by
  simp [field, Nat.testBit_mod_two_pow, Nat.testBit_shiftRight, BitVec.getLsbD]

/-- A field reads what was written to it, as far as it is wide. -/
theorem field_setField {w : Nat} (x : BitVec w) (hi lo v : Nat) (h : hi < w) :
    field (setField x hi lo v) hi lo = v % 2 ^ (hi + 1 - lo) := by
  apply Nat.eq_of_testBit_eq
  intro j
  rw [testBit_field, getLsbD_setField, Nat.testBit_mod_two_pow]
  by_cases hj : j < hi + 1 - lo
  · have h1 : lo ≤ lo + j ∧ lo + j ≤ hi := by omega
    have h2 : lo + j < w := by omega
    simp [hj, h1, h2]
  · simp [hj]

/-- A field apart from the one written keeps its value. -/
theorem field_setField_apart {w : Nat} (x : BitVec w) (hi lo v hi' lo' : Nat) (h : hi < lo' ∨ hi' < lo) :
    field (setField x hi lo v) hi' lo' = field x hi' lo' := by
  apply Nat.eq_of_testBit_eq
  intro j
  rw [testBit_field, testBit_field, getLsbD_setField]
  by_cases hj : j < hi' + 1 - lo'
  · have : ¬ (lo ≤ lo' + j ∧ lo' + j ≤ hi) := by omega
    rw [if_neg this]
  · simp [hj]

theorem flag_setField {w : Nat} (x : BitVec w) (i v : Nat) (h : i < w) : flag (setField x i i v) i = v.testBit 0 := by
  rw [flag, getLsbD_setField]
  simp [h]

theorem flag_setField_apart {w : Nat} (x : BitVec w) (hi lo v i : Nat) (h : i < lo ∨ hi < i) : flag (setField x hi lo v) i = flag x i := by
  rw [flag, flag, getLsbD_setField, if_neg (by omega)]

theorem flag_eq_field {w : Nat} (x : BitVec w) (i : Nat) : flag x i = decide (field x i i = 1) := by
  have h : field x i i = if flag x i then 1 else 0 := by
    apply Nat.eq_of_testBit_eq
    intro j
    rw [testBit_field, flag]
    cases j with
    | zero => cases x.getLsbD i <;> simp
    | succ j => cases x.getLsbD i <;> simp [Nat.testBit_succ]
  rw [h]
  cases flag x i <;> simp

theorem field_bumpField {w : Nat} (x : BitVec w) (hi lo n : Nat) (h : hi < w) :
    field (bumpField x hi lo n) hi lo = (field x hi lo + n) % 2 ^ (hi + 1 - lo) := field_setField x hi lo _ h

theorem field_bumpField_apart {w : Nat} (x : BitVec w) (hi lo n hi' lo' : Nat) (h : hi < lo' ∨ hi' < lo) :
    field (bumpField x hi lo n) hi' lo' = field x hi' lo' := field_setField_apart x hi lo _ hi' lo' h

end Sys2Proof.Machine
end

