-- ==== Sys2Proof/Laws/Tables.lean ====
section
/-! SUPPORT. Sparse tables and byte memories: what a write leaves, and that every operation keeps the canonical form. -/

namespace Sys2Proof.Machine

/-! ### Sortedness -/

theorem tabSorted_iff {α : Type} (t : Tab α) : tabSorted t = true ↔ t.Pairwise fun a b => a.1 < b.1 := by
  induction t with
  | nil => simp [tabSorted]
  | cons a t ih =>
    cases t with
    | nil => simp [tabSorted]
    | cons b r =>
      simp only [tabSorted, Bool.and_eq_true, decide_eq_true_eq, ih]
      constructor
      · rintro ⟨h1, h2⟩
        refine List.pairwise_cons.2 ⟨?_, h2⟩
        intro c hc
        rcases List.mem_cons.1 hc with rfl | hc
        · exact h1
        · exact lt_trans h1 ((List.pairwise_cons.1 h2).1 c hc)
      · intro h
        exact ⟨(List.pairwise_cons.1 h).1 b (by simp), (List.pairwise_cons.1 h).2⟩

theorem tabPut_cons {α : Type} (j : Nat) (w : α) (r : Tab α) (k : Nat) (v : Option α) :
    tabPut ((j, w) :: r) k v =
      if k < j then (match v with
        | some x => (k, x) :: (j, w) :: r
        | none => (j, w) :: r)
      else if k = j then (match v with
        | some x => (k, x) :: r
        | none => r)
      else (j, w) :: tabPut r k v := by
  cases v <;> rfl

/-- Every entry after a write is the one written or was there before, at another key. -/
theorem mem_tabPut {α : Type} (t : Tab α) (k : Nat) (v : Option α) (e : Nat × α) (h : e ∈ tabPut t k v) :
    (e.1 = k ∧ v = some e.2) ∨ e ∈ t := by
  induction t with
  | nil =>
    cases v with
    | none => simp [tabPut] at h
    | some x => simp [tabPut] at h; subst h; simp
  | cons a r ih =>
    obtain ⟨j, w⟩ := a
    rw [tabPut_cons] at h
    split at h
    · cases v with
      | none => exact .inr h
      | some x =>
        rcases List.mem_cons.1 h with rfl | h
        · simp
        · exact .inr h
    · split at h
      · cases v with
        | none => exact .inr (List.mem_cons_of_mem _ h)
        | some x =>
          rcases List.mem_cons.1 h with rfl | h
          · simp
          · exact .inr (List.mem_cons_of_mem _ h)
      · rcases List.mem_cons.1 h with rfl | h
        · exact .inr (by simp)
        · rcases ih h with h | h
          · exact .inl h
          · exact .inr (List.mem_cons_of_mem _ h)

theorem tabPut_sorted {α : Type} (t : Tab α) (k : Nat) (v : Option α) (h : tabSorted t = true) : tabSorted (tabPut t k v) = true := by
  rw [tabSorted_iff] at h ⊢
  induction t with
  | nil => cases v <;> simp [tabPut]
  | cons a r ih =>
    obtain ⟨j, w⟩ := a
    have hr := List.pairwise_cons.1 h
    rw [tabPut_cons]
    split
    · rename_i hk
      cases v with
      | none => exact h
      | some x =>
        refine List.pairwise_cons.2 ⟨?_, h⟩
        intro c hc
        rcases List.mem_cons.1 hc with rfl | hc
        · exact hk
        · exact lt_trans hk (hr.1 c hc)
    · split
      · rename_i hk
        subst hk
        cases v with
        | none => exact hr.2
        | some x => exact List.pairwise_cons.2 ⟨fun c hc => hr.1 c hc, hr.2⟩
      · rename_i h1 h2
        refine List.pairwise_cons.2 ⟨?_, ih hr.2⟩
        intro c hc
        rcases mem_tabPut _ _ _ _ hc with hc | hc
        · show j < c.1
          omega
        · exact hr.1 c hc

theorem tabFind_none_of_lt {α : Type} (t : Tab α) (k : Nat) (h : ∀ e ∈ t, k < e.1) : tabFind t k = none := by
  induction t with
  | nil => rfl
  | cons a r ih =>
    obtain ⟨j, w⟩ := a
    have : k < j := h (j, w) (by simp)
    rw [tabFind, if_neg (by omega)]
    exact ih fun e he => h e (List.mem_cons_of_mem _ he)

/-- What a table holds after a write. -/
theorem tabFind_tabPut {α : Type} (t : Tab α) (k i : Nat) (v : Option α) (h : tabSorted t = true) :
    tabFind (tabPut t k v) i = if i = k then v else tabFind t i := by
  rw [tabSorted_iff] at h
  induction t with
  | nil => cases v <;> by_cases hi : i = k <;> simp [tabPut, tabFind, hi] <;> omega
  | cons a r ih =>
    obtain ⟨j, w⟩ := a
    have hr := List.pairwise_cons.1 h
    rw [tabPut_cons]
    split
    · rename_i hk
      have hnone : tabFind ((j, w) :: r) k = none :=
        tabFind_none_of_lt _ _ fun e he => by
          rcases List.mem_cons.1 he with rfl | he
          · exact hk
          · exact lt_trans hk (hr.1 e he)
      by_cases hi : i = k
      · subst hi
        cases v with
        | none => simp only [if_true]; exact hnone
        | some x => simp [tabFind]
      · cases v with
        | none => simp [hi]
        | some x => simp only [hi, if_false]; rw [tabFind, if_neg (by omega)]
    · split
      · rename_i hk
        subst hk
        have hnone : tabFind r k = none := tabFind_none_of_lt _ _ fun e he => hr.1 e he
        by_cases hi : i = k
        · subst hi
          cases v with
          | none => simpa using hnone
          | some x => simp [tabFind]
        · cases v with
          | none => simp only [hi, if_false]; rw [tabFind, if_neg (by omega)]
          | some x =>
            simp only [hi, if_false]
            rw [tabFind, if_neg (by omega), tabFind, if_neg (by omega)]
      · rename_i h1 h2
        by_cases hj : j = i
        · subst hj
          rw [tabFind, if_pos rfl, if_neg (by omega), tabFind, if_pos rfl]
        · rw [tabFind, if_neg hj, ih hr.2]
          congr 1
          rw [tabFind, if_neg hj]

/-! ### The canonical form -/

theorem tabWf_iff {α : Type} [DecidableEq α] (d : α) (t : Tab α) : tabWf d t = true ↔ tabSorted t = true ∧ ∀ e ∈ t, e.2 ≠ d := by
  simp [tabWf]

theorem tabWf_sorted {α : Type} [DecidableEq α] {d : α} {t : Tab α} (h : tabWf d t = true) : tabSorted t = true := ((tabWf_iff d t).1 h).1

theorem tabSet_wf {α : Type} [DecidableEq α] {d : α} {t : Tab α} (k : Nat) (v : α) (h : tabWf d t = true) : tabWf d (tabSet d t k v) = true := by
  obtain ⟨h1, h2⟩ := (tabWf_iff d t).1 h
  refine (tabWf_iff d _).2 ⟨tabPut_sorted _ _ _ h1, ?_⟩
  intro e he
  rcases mem_tabPut _ _ _ _ he with ⟨_, hv⟩ | he
  · split at hv
    · cases hv
    · rename_i hd
      cases hv
      exact hd
  · exact h2 e he

theorem tabGet_tabSet {α : Type} [DecidableEq α] {d : α} {t : Tab α} (k i : Nat) (v : α) (h : tabSorted t = true) :
    tabGet d (tabSet d t k v) i = if i = k then v else tabGet d t i := by
  rw [tabGet, tabSet, tabFind_tabPut _ _ _ _ h]
  by_cases hi : i = k
  · by_cases hv : v = d <;> simp [hi, hv]
  · simp [hi, tabGet]

theorem tabSorted_filter {α : Type} {t : Tab α} (p : Nat × α → Bool) (h : tabSorted t = true) : tabSorted (t.filter p) = true := by
  rw [tabSorted_iff] at h ⊢
  exact h.filter p

theorem tabWf_filter {α : Type} [DecidableEq α] {d : α} {t : Tab α} (p : Nat × α → Bool) (h : tabWf d t = true) : tabWf d (t.filter p) = true := by
  obtain ⟨h1, h2⟩ := (tabWf_iff d t).1 h
  exact (tabWf_iff d _).2 ⟨tabSorted_filter p h1, fun e he => h2 e (List.mem_filter.1 he).1⟩

theorem tabMap_wf {α : Type} [DecidableEq α] {d : α} {t : Tab α} (f : α → α) (h : tabSorted t = true) : tabWf d (tabMap d f t) = true := by
  refine (tabWf_iff d _).2 ⟨?_, ?_⟩
  · apply tabSorted_filter
    rw [tabSorted_iff] at h ⊢
    exact List.pairwise_map.2 h
  · intro e he
    simpa using (List.mem_filter.1 he).2

/-! ### Byte memories -/

theorem memSet_wf {m : Mem} (a : Nat) (b : Byte) (h : memWf m = true) : memWf (memSet m a b) = true := tabSet_wf a b h

theorem memGet_memSet {m : Mem} (a x : Nat) (b : Byte) (h : memWf m = true) : memGet (memSet m a b) x = if x = a then b else memGet m x :=
  tabGet_tabSet a x b (tabWf_sorted h)

theorem memWrite_wf {m : Mem} (a : Nat) (d : Bytes) (h : memWf m = true) : memWf (memWrite m a d) = true := by
  induction d generalizing m a with
  | nil => exact h
  | cons b r ih => exact ih _ (memSet_wf a b h)

theorem memClear_wf {m : Mem} (a n : Nat) (h : memWf m = true) : memWf (memClear m a n) = true := tabWf_filter _ h

theorem memCopy_wf {m d : Mem} (a n b : Nat) (h : memWf d = true) : memWf (memCopy m a n d b) = true := by
  have hf : ∀ (l : List (Nat × Byte)) (u : Mem), memWf u = true → memWf (l.foldl (fun d c => memSet d (c.1 - a + b) c.2) u) = true := by
    intro l
    induction l with
    | nil => exact fun u hu => hu
    | cons c l ih => exact fun u hu => ih _ (memSet_wf _ _ hu)
  exact hf _ _ (memClear_wf b n h)

/-- A byte outside those written reads as before. -/
theorem memGet_memWrite_out {m : Mem} (a x : Nat) (d : Bytes) (h : memWf m = true) (hx : x < a ∨ a + d.length ≤ x) :
    memGet (memWrite m a d) x = memGet m x := by
  induction d generalizing m a with
  | nil => rfl
  | cons b r ih =>
    simp only [List.length_cons] at hx
    rw [memWrite, ih _ (memSet_wf a b h) (by omega), memGet_memSet _ _ _ h, if_neg (by omega)]

/-- A byte written reads as written. -/
theorem memGet_memWrite_in {m : Mem} (a i : Nat) (d : Bytes) (h : memWf m = true) (hi : i < d.length) : memGet (memWrite m a d) (a + i) = d[i] := by
  induction d generalizing m a i with
  | nil => exact absurd hi (by simp)
  | cons b r ih =>
    cases i with
    | zero =>
      rw [memWrite, memGet_memWrite_out _ _ _ (memSet_wf a b h) (by omega), memGet_memSet _ _ _ h]
      simp
    | succ i =>
      simp only [List.length_cons] at hi
      have := ih (a + 1) i (memSet_wf a b h) (by omega)
      rw [memWrite, show a + (i + 1) = a + 1 + i by omega, this]
      simp

theorem tabFind_filter {α : Type} {t : Tab α} (p : Nat → Bool) (k : Nat) :
    tabFind (t.filter fun e => p e.1) k = if p k = true then tabFind t k else none := by
  induction t with
  | nil => simp [tabFind]
  | cons a r ih =>
    obtain ⟨j, w⟩ := a
    by_cases hp : p j = true
    · rw [List.filter_cons_of_pos (by simpa using hp), tabFind, tabFind, ih]
      by_cases hj : j = k
      · subst hj; simp [hp]
      · simp [hj]
    · rw [List.filter_cons_of_neg (by simpa using hp), ih, tabFind]
      by_cases hj : j = k
      · subst hj; simp [hp]
      · simp [hj]

/-- A cleared range reads 0, and other bytes as before. -/
theorem memGet_memClear {m : Mem} (a n x : Nat) : memGet (memClear m a n) x = if a ≤ x ∧ x < a + n then 0 else memGet m x := by
  have := tabFind_filter (t := m) (fun y => decide (y < a) || decide (a + n ≤ y)) x
  rw [memGet, tabGet, memClear, this]
  by_cases h : a ≤ x ∧ x < a + n
  · rw [if_neg (by simp; omega), if_pos h]; rfl
  · rw [if_pos (by simp; omega), if_neg h]; rfl

end Sys2Proof.Machine
end

