-- ==== Sys2Proof/Laws/Kept.lean ====
section
/-! SUPPORT. What every command keeps: the queue as it finds it, and the canonical form. -/

namespace Sys2Proof.Machine

/-- The queue is q, and the state is canonical. -/
structure Kept (q : List Instr) (s : State) : Prop where
  queue : s.pending = q
  ok : Canonical s

/-- A change of other fields keeps both. -/
theorem kept_congr {q : List Instr} {s t : State} (h : Kept q s) (hp : t.pending = s.pending) (hr : t.regs = s.regs) (hc : t.capt = s.capt)
    (ho : t.cores = s.cores) (hg : t.regions = s.regions) (ha : t.parts = s.parts) (hm : t.rim.mem = s.rim.mem) (hh : t.hostMem = s.hostMem) :
    Kept q t :=
  ⟨hp.trans h.queue, ⟨hr ▸ h.ok.regs, hc ▸ h.ok.capt, ho ▸ h.ok.cores, hg ▸ h.ok.regions, ha ▸ h.ok.parts, hm ▸ h.ok.rimMem, hh ▸ h.ok.hostMem⟩⟩

/-- A change of fields that hold neither the queue nor a table. -/
theorem kept_mk_iff {q : List Instr} {s : State} {fresh : Nat} {time : Long} {last : Last} {pendLast : Option Last} {load : Option LoadJob} {fab : Fabric} {ing : Ingest} {srv : Serving} {smp : Tab SampUnit} {kvc : Tab Prefix} {pwr : Power} {boot : Boot} {thm : Thermal} {flt : Faults} {mgt : Mgmt} {sec : Security} {hif : HostIf} {edg : Edge} :
    Kept q (State.mk s.pending fresh time s.regs s.capt s.cores s.regions s.parts last pendLast load fab s.rim ing srv smp kvc pwr boot thm flt mgt sec hif edg s.hostMem) ↔ Kept q s :=
  ⟨fun h => kept_congr h rfl rfl rfl rfl rfl rfl rfl rfl, fun h => kept_congr h rfl rfl rfl rfl rfl rfl rfl rfl⟩

/-- The same, with a change of what rim memory keeps beside its bytes. -/
theorem kept_mk_rim_iff {q : List Instr} {s : State} {fresh : Nat} {time : Long} {last : Last} {pendLast : Option Last} {load : Option LoadJob} {fab : Fabric} {ing : Ingest} {srv : Serving} {smp : Tab SampUnit} {kvc : Tab Prefix} {pwr : Power} {boot : Boot} {thm : Thermal} {flt : Faults} {mgt : Mgmt} {sec : Security} {hif : HostIf} {edg : Edge} {clearing sharedExts : List Extent} :
    Kept q (State.mk s.pending fresh time s.regs s.capt s.cores s.regions s.parts last pendLast load fab { mem := s.rim.mem, clearing := clearing, sharedExts := sharedExts } ing srv smp kvc pwr boot thm flt mgt sec hif edg s.hostMem) ↔ Kept q s :=
  ⟨fun h => kept_congr h rfl rfl rfl rfl rfl rfl rfl rfl, fun h => kept_congr h rfl rfl rfl rfl rfl rfl rfl rfl⟩

theorem kept_ite {q : List Instr} {c : Prop} [Decidable c] {a b : State} (ha : Kept q a) (hb : Kept q b) : Kept q (if c then a else b) := by
  split
  · exact ha
  · exact hb

theorem kept_foldl {q : List Instr} {α : Type} {f : State → α → State} {l : List α} {s : State} (hf : ∀ s a, Kept q s → Kept q (f s a)) (h : Kept q s) :
    Kept q (l.foldl f s) := by
  induction l generalizing s with
  | nil => exact h
  | cons a l ih => exact ih (hf s a h)

/-- The first component of a fold over pairs. -/
theorem kept_foldl_fst {q : List Instr} {α β : Type} {f : State × β → α → State × β} {l : List α} {x : State × β}
    (hf : ∀ x a, Kept q x.1 → Kept q (f x a).1) (h : Kept q x.1) : Kept q (l.foldl f x).1 := by
  induction l generalizing x with
  | nil => exact h
  | cons a l ih => exact ih (hf x a h)

/-- A fold that may stop with an error: whatever state it answers. -/
theorem kept_foldl_ok {q : List Instr} {α ε : Type} {f : Except ε State → α → Except ε State} {l : List α} {r : Except ε State}
    (hf : ∀ r a, (∀ t, r = .ok t → Kept q t) → ∀ t, f r a = .ok t → Kept q t) (h : ∀ t, r = .ok t → Kept q t) :
    ∀ t, l.foldl f r = .ok t → Kept q t := by
  induction l generalizing r with
  | nil => exact h
  | cons a l ih => exact ih (hf r a h)

theorem regsCanonical_put {t : Tab Word} (a : Nat) (v : Word) (h : regsCanonical t) :
    regsCanonical (tabPut t a (if v = regReset a then none else some v)) := by
  refine ⟨tabPut_sorted _ _ _ h.1, ?_⟩
  intro e he
  rcases mem_tabPut _ _ _ _ he with ⟨hk, hv⟩ | he
  · split at hv
    · cases hv
    · rename_i hd
      cases hv
      rw [hk]
      exact hd
  · exact h.2 e he

theorem State.wr_kept {q : List Instr} {s : State} (h : Kept q s) (a : Nat) (v : Word) : Kept q (s.wr a v) :=
  ⟨h.queue, { h.ok with regs := regsCanonical_put a v h.ok.regs }⟩

theorem kept_hostMem {q : List Instr} {s : State} (a : Nat) (d : Bytes) (h : Kept q s) : Kept q { s with hostMem := memWrite s.hostMem a d } :=
  ⟨h.queue, { h.ok with hostMem := memWrite_wf a d h.ok.hostMem }⟩

theorem kept_rimMem {q : List Instr} {s : State} {m : Mem} {clearing sharedExts : List Extent} (hm : memWf m = true) (h : Kept q s) :
    Kept q { s with rim := { mem := m, clearing := clearing, sharedExts := sharedExts } } :=
  ⟨h.queue, { h.ok with rimMem := hm }⟩

theorem State.capture_kept {q : List Instr} {s : State} (h : Kept q s) (port hiAddr : Nat) (v : Word) : Kept q (s.capture port hiAddr v) :=
  ⟨h.queue, { h.ok with capt := tabSet_wf _ _ h.ok.capt }⟩

theorem State.setCoreAt_kept {q : List Instr} {s : State} (h : Kept q s) (key : Nat) (x : Core) : Kept q (s.setCoreAt key x) :=
  ⟨h.queue, { h.ok with cores := tabSet_wf _ _ h.ok.cores }⟩

theorem State.setRegion_kept {q : List Instr} {s : State} (h : Kept q s) (r : Nat) (x : Region) : Kept q (s.setRegion r x) :=
  ⟨h.queue, { h.ok with regions := tabSet_wf _ _ h.ok.regions }⟩

theorem State.setPart_kept {q : List Instr} {s : State} (h : Kept q s) (p : Nat) (x : Part) : Kept q (s.setPart p x) :=
  ⟨h.queue, { h.ok with parts := tabSet_wf _ _ h.ok.parts }⟩

end Sys2Proof.Machine
end

