-- ==== Sys2Proof/Laws/KeptOps.lean ====
section
/-! SUPPORT. What each operation and command keeps of queue and canonical form: the shared operations. -/

namespace Sys2Proof.Machine

/-! ### State -/



/-! ### Regs -/

theorem State.setFld_kept {qs : List Instr} {s : State} (h : Kept qs s) (a : Nat) (hi : Nat) (lo : Nat) (v : Nat) :
    Kept qs (State.setFld s a hi lo v) := by
  unfold State.setFld
  repeat' first
    | (with_reducible first | exact h | apply State.wr_kept)

theorem State.bump_kept {qs : List Instr} {s : State} (h : Kept qs s) (a : Nat) (hi : Nat) (lo : Nat) :
    Kept qs (State.bump s a hi lo) := by
  unfold State.bump
  repeat' first
    | (with_reducible first | exact h | apply State.wr_kept)

theorem State.bumpSat_kept {qs : List Instr} {s : State} (h : Kept qs s) (a : Nat) (hi : Nat) (lo : Nat) :
    Kept qs (State.bumpSat s a hi lo) := by
  unfold State.bumpSat
  repeat' first
    | (with_reducible first | exact h | apply State.wr_kept)

theorem State.bumpBy_kept {qs : List Instr} {s : State} (h : Kept qs s) (a : Nat) (hi : Nat) (lo : Nat) (n : Nat) :
    Kept qs (State.bumpBy s a hi lo n) := by
  unfold State.bumpBy
  repeat' first
    | (with_reducible first | exact h | apply State.wr_kept)

theorem State.wr64_kept {qs : List Instr} {s : State} (h : Kept qs s) (lo : Nat) (hi : Nat) (v : Nat) :
    Kept qs (State.wr64 s lo hi v) := by
  unfold State.wr64
  repeat' first
    | (with_reducible first | exact h | apply State.wr_kept)

theorem State.setCore_kept {qs : List Instr} {s : State} (h : Kept qs s) (c : CoreId) (x : Core) :
    Kept qs (State.setCore s c x) := by
  unfold State.setCore
  repeat' first
    | (with_reducible first | exact h | apply State.setCoreAt_kept)

theorem State.modCoreAt_kept {qs : List Instr} {s : State} (h : Kept qs s) (key : Nat) (f : Core → Core) :
    Kept qs (State.modCoreAt s key f) := by
  unfold State.modCoreAt
  repeat' first
    | (with_reducible first | exact h | apply State.setCoreAt_kept)

theorem State.modCore_kept {qs : List Instr} {s : State} (h : Kept qs s) (c : CoreId) (f : Core → Core) :
    Kept qs (State.modCore s c f) := by
  unfold State.modCore
  repeat' first
    | (with_reducible first | exact h | apply State.modCoreAt_kept)

theorem State.modRegion_kept {qs : List Instr} {s : State} (h : Kept qs s) (r : Nat) (f : Region → Region) :
    Kept qs (State.modRegion s r f) := by
  unfold State.modRegion
  repeat' first
    | (with_reducible first | exact h | apply State.setRegion_kept)

theorem State.modPart_kept {qs : List Instr} {s : State} (h : Kept qs s) (p : Nat) (f : Part → Part) :
    Kept qs (State.modPart s p f) := by
  unfold State.modPart
  repeat' first
    | (with_reducible first | exact h | apply State.setPart_kept)

/-! ### Last -/

theorem State.publishLast_kept {qs : List Instr} {s : State} (h : Kept qs s) :
    Kept qs (State.publishLast s) := by
  unfold State.publishLast
  repeat' first
    | (with_reducible first | exact h | apply State.wr_kept | apply State.setFld_kept)

/-! ### Ops -/

theorem State.writeRW_kept {qs : List Instr} {s : State} (h : Kept qs s) (a : Nat) (m : Word) (ro : Word) (v : Word) :
    Kept qs (State.writeRW s a m ro v) := by
  unfold State.writeRW
  repeat' first
    | (with_reducible first | exact h | assumption | apply State.setFld_kept | apply State.bump_kept | apply State.wr_kept | apply kept_ite)
    | split

theorem State.reservedBits_kept {qs : List Instr} {s : State} (h : Kept qs s) (old : Word) (v : Word) (reserved : Word) :
    Kept qs (State.reservedBits s old v reserved) := by
  unfold State.reservedBits
  repeat' first
    | (with_reducible first | exact h | assumption | apply State.setFld_kept | apply State.bump_kept | apply kept_ite)
    | split

theorem State.issueWrite_kept {qs : List Instr} {s : State} (h : Kept qs s) (addr : Nat) (d : Bytes) (adv : Nat) :
    Kept qs (State.issueWrite s addr d adv) := by
  unfold State.issueWrite
  repeat' first
    | (with_reducible first | exact h | assumption | apply State.bump_kept | apply kept_hostMem | (apply kept_foldl; intro s a h) | apply kept_ite)
    | simp only [kept_mk_iff, kept_mk_rim_iff]
    | split

theorem State.hostWriteAdv_kept {qs : List Instr} {s : State} (h : Kept qs s) (port : Nat) (addr : Nat) (d : Bytes) (adv : Nat) :
    Kept qs (State.hostWriteAdv s port addr d adv) := by
  unfold State.hostWriteAdv
  repeat' first
    | (with_reducible first | exact h | assumption | apply State.issueWrite_kept | apply kept_ite)
    | simp only [kept_mk_iff]
    | split

theorem State.hostWrite_kept {qs : List Instr} {s : State} (h : Kept qs s) (port : Nat) (addr : Nat) (d : Bytes) :
    Kept qs (State.hostWrite s port addr d) := by
  unfold State.hostWrite
  repeat' first
    | (with_reducible first | exact h | apply State.hostWriteAdv_kept)

theorem State.signalPort_kept {qs : List Instr} {s : State} (h : Kept qs s) (port : Nat) (v : Nat) :
    Kept qs (State.signalPort s port v) := by
  unfold State.signalPort
  repeat' first
    | (with_reducible first | exact h | assumption | apply kept_hostMem | (apply kept_foldl; intro s a h) | apply kept_ite)
    | simp only [kept_mk_iff, kept_mk_rim_iff]
    | split

theorem State.signal_kept {qs : List Instr} {s : State} (h : Kept qs s) (v : Nat) :
    Kept qs (State.signal s v) := by
  unfold State.signal
  repeat' first
    | (with_reducible first | exact h | assumption | apply State.signalPort_kept | apply kept_ite)
    | split

theorem State.setPState_kept {qs : List Instr} {s : State} (h : Kept qs s) (p : Nat) (v : Nat) :
    Kept qs (State.setPState s p v) := by
  unfold State.setPState
  repeat' first
    | (with_reducible first | exact h | apply State.setFld_kept)

theorem State.logRaw_kept {qs : List Instr} {s : State} (h : Kept qs s) (code : Nat) (arg : Word) (body : Bytes) :
    Kept qs (State.logRaw s code arg body) := by
  unfold State.logRaw
  repeat' first
    | (with_reducible first | exact h | assumption | apply State.bump_kept | apply State.bumpBy_kept | apply State.wr64_kept
                             | apply State.setFld_kept | apply kept_hostMem | (apply kept_foldl; intro s a h) | apply kept_ite)
    | simp only [kept_mk_iff, kept_mk_rim_iff]
    | split

theorem State.logEvent_kept {qs : List Instr} {s : State} (h : Kept qs s) (code : Nat) (arg : Nat) (data : Bytes) :
    Kept qs (State.logEvent s code arg data) := by
  unfold State.logEvent
  repeat' first
    | (with_reducible first | exact h | apply State.logRaw_kept)

theorem State.writeRecord_kept {qs : List Instr} {s : State} (h : Kept qs s) (inj : Bool) (cls : Nat) (src : Nat) (part : Nat) (detail : Nat) (loc : Word) :
    Kept qs (State.writeRecord s inj cls src part detail loc) := by
  unfold State.writeRecord
  repeat' first
    | (with_reducible first | exact h | assumption | apply State.wr_kept | apply State.logRaw_kept | apply State.signal_kept | apply kept_hostMem
                             | (apply kept_foldl; intro s a h) | apply kept_ite)
    | simp only [kept_mk_iff, kept_mk_rim_iff]
    | split

theorem State.countClass_kept {qs : List Instr} {s : State} (h : Kept qs s) (cls : Nat) :
    Kept qs (State.countClass s cls) := by
  unfold State.countClass
  repeat' first
    | (with_reducible first | exact h | apply State.bump_kept)

theorem State.corrected_kept {qs : List Instr} {s : State} (h : Kept qs s) (src : Nat) (loc : Word) (inj : Bool) :
    Kept qs (State.corrected s src loc inj) := by
  unfold State.corrected
  repeat' first
    | (with_reducible first | exact h | assumption | apply State.countClass_kept | apply State.writeRecord_kept | apply kept_hostMem
                             | (apply kept_foldl; intro s a h) | apply kept_ite)
    | simp only [kept_mk_iff, kept_mk_rim_iff]
    | split

theorem State.deferredD_kept {qs : List Instr} {s : State} (h : Kept qs s) (src : Nat) (part : Option Nat) (detail : Nat) (loc : Word) (inj : Bool) :
    Kept qs (State.deferredD s src part detail loc inj) := by
  unfold State.deferredD
  repeat' first
    | (with_reducible first | exact h | assumption | apply State.countClass_kept | apply State.writeRecord_kept | apply kept_hostMem
                             | (apply kept_foldl; intro s a h) | apply kept_ite)
    | simp only [kept_mk_iff, kept_mk_rim_iff]
    | split

theorem State.deferred_kept {qs : List Instr} {s : State} (h : Kept qs s) (src : Nat) (part : Option Nat) (loc : Word) :
    Kept qs (State.deferred s src part loc) := by
  unfold State.deferred
  repeat' first
    | (with_reducible first | exact h | apply State.deferredD_kept)

theorem State.interruptSpare_kept {qs : List Instr} {s : State} (h : Kept qs s) (p : Nat) (reason : Nat) :
    Kept qs (State.interruptSpare s p reason) := by
  unfold State.interruptSpare
  repeat' first
    | (with_reducible first | exact h | assumption | apply kept_hostMem | (apply kept_foldl; intro s a h) | apply kept_ite)
    | simp only [kept_mk_iff, kept_mk_rim_iff]
    | split

theorem State.stopPart_kept {qs : List Instr} {s : State} (h : Kept qs s) (p : Nat) (reason : Nat) :
    Kept qs (State.stopPart s p reason) := by
  unfold State.stopPart
  repeat' first
    | (with_reducible first | exact h | assumption | apply State.setPart_kept | apply State.interruptSpare_kept | apply State.setFld_kept
                             | apply State.setPState_kept | apply kept_ite)
    | simp only [kept_mk_iff]
    | split

theorem State.jobFatalD_kept {qs : List Instr} {s : State} (h : Kept qs s) (part : Option Nat) (src : Nat) (reason : Nat) (loc : Word) (inj : Bool) :
    Kept qs (State.jobFatalD s part src reason loc inj) := by
  unfold State.jobFatalD
  repeat' first
    | (with_reducible first | exact h | assumption | apply State.deferredD_kept | apply State.stopPart_kept | apply State.writeRecord_kept
                             | apply State.countClass_kept | apply kept_ite)
    | simp only [kept_mk_iff]
    | split

theorem State.jobFatal_kept {qs : List Instr} {s : State} (h : Kept qs s) (part : Option Nat) (src : Nat) (reason : Nat) (loc : Word) :
    Kept qs (State.jobFatal s part src reason loc) := by
  unfold State.jobFatal
  repeat' first
    | (with_reducible first | exact h | apply State.jobFatalD_kept)

theorem State.closeRecord_kept {qs : List Instr} {s : State} (h : Kept qs s) (n : Nat) (status : Nat) :
    Kept qs (State.closeRecord s n status) := by
  unfold State.closeRecord
  repeat' first
    | (with_reducible first | exact h | apply State.setFld_kept | apply State.wr_kept)

theorem State.abandonStage_kept {qs : List Instr} {s : State} (h : Kept qs s) :
    Kept qs (State.abandonStage s) := by
  unfold State.abandonStage
  repeat' first
    | (with_reducible first | exact h | assumption | apply State.closeRecord_kept | apply kept_ite)
    | simp only [kept_mk_iff]
    | split

theorem State.deviceFatalD_kept {qs : List Instr} {s : State} (h : Kept qs s) (src : Nat) (loc : Word) (inj : Bool) :
    Kept qs (State.deviceFatalD s src loc inj) := by
  unfold State.deviceFatalD
  repeat' first
    | (with_reducible first | exact h | assumption | apply State.writeRecord_kept | apply State.countClass_kept | apply State.wr_kept
                             | apply State.setFld_kept | apply State.abandonStage_kept | apply State.stopPart_kept | apply kept_hostMem
                             | (apply kept_foldl; intro s a h) | apply kept_ite)
    | simp only [kept_mk_iff, kept_mk_rim_iff]
    | split

theorem State.deviceFatal_kept {qs : List Instr} {s : State} (h : Kept qs s) (src : Nat) (loc : Word) :
    Kept qs (State.deviceFatal s src loc) := by
  unfold State.deviceFatal
  repeat' first
    | (with_reducible first | exact h | apply State.deviceFatalD_kept)

theorem State.mapCores_kept {qs : List Instr} {s : State} (h : Kept qs s) (r : Nat) (f : Nat → Core → Core) :
    Kept qs (State.mapCores s r f) := by
  unfold State.mapCores
  repeat' first
    | (with_reducible first | exact h | assumption | apply State.modCoreAt_kept | apply kept_hostMem | (apply kept_foldl; intro s a h)
                             | apply kept_ite)
    | simp only [kept_mk_iff, kept_mk_rim_iff]
    | split

theorem State.cutPower_kept {qs : List Instr} {s : State} (h : Kept qs s) (r : Nat) :
    Kept qs (State.cutPower s r) := by
  unfold State.cutPower
  repeat' first
    | (with_reducible first | exact h | apply State.modRegion_kept | apply State.mapCores_kept)

theorem State.lastPending_kept {qs : List Instr} {s : State} (h : Kept qs s) :
    Kept qs (State.lastPending s) := by
  unfold State.lastPending
  repeat' first
    | (with_reducible first | exact h | assumption | apply State.publishLast_kept | apply State.signal_kept | apply State.logEvent_kept
                             | apply kept_hostMem | (apply kept_foldl; intro s a h) | apply kept_ite)
    | simp only [kept_mk_iff, kept_mk_rim_iff]
    | split

theorem State.regionDies_kept {qs : List Instr} {s : State} (h : Kept qs s) (r : Nat) (cause : Nat) (owner : Option Nat) :
    Kept qs (State.regionDies s r cause owner) := by
  unfold State.regionDies
  repeat' first
    | (with_reducible first | exact h | assumption | apply State.cutPower_kept | apply State.modRegion_kept | apply State.lastPending_kept
                             | apply State.jobFatal_kept | apply kept_ite)
    | simp only [kept_mk_iff]
    | split

theorem State.injCount_kept {qs : List Instr} {s : State} (h : Kept qs s) (n : Nat) :
    Kept qs (State.injCount s n) := by
  unfold State.injCount
  repeat' first
    | (with_reducible first | exact h | assumption | apply State.bumpBy_kept | apply State.setFld_kept | apply kept_ite)
    | split

theorem State.injSend_kept {qs : List Instr} {s : State} (h : Kept qs s) (c : Nat) (r : Option Nat) (n : Nat) :
    Kept qs (State.injSend s c r n) := by
  unfold State.injSend
  repeat' first
    | (with_reducible first | exact h | assumption | apply State.injCount_kept | apply kept_ite)
    | split

theorem State.injStore_kept {qs : List Instr} {s : State} (h : Kept qs s) (c : Nat) (r : Nat) (ws : List Nat) :
    Kept qs (State.injStore s c r ws) := by
  unfold State.injStore
  repeat' first
    | (with_reducible first | exact h | assumption | apply State.modRegion_kept | apply State.injCount_kept | apply State.setFld_kept
                             | apply kept_ite)
    | split

theorem State.memFatalD_kept {qs : List Instr} {s : State} (h : Kept qs s) (part : Option Nat) (loc : Word) (inj : Bool) :
    Kept qs (State.memFatalD s part loc inj) := by
  unfold State.memFatalD
  repeat' first
    | (with_reducible first | exact h | assumption | apply State.modPart_kept | apply State.jobFatalD_kept | apply kept_ite)
    | split

theorem State.memFatal_kept {qs : List Instr} {s : State} (h : Kept qs s) (part : Option Nat) (loc : Word) :
    Kept qs (State.memFatal s part loc) := by
  unfold State.memFatal
  repeat' first
    | (with_reducible first | exact h | apply State.memFatalD_kept)

/-! ### FabricOps -/

theorem State.violation_kept {qs : List Instr} {s : State} (h : Kept qs s) (reason : Nat) (key : Nat) (src : Nat) (dest : Nat) (ekey : Nat) (r : Nat) (port : Nat) :
    Kept qs (State.violation s reason key src dest ekey r port) := by
  unfold State.violation
  repeat' first
    | (with_reducible first | exact h | assumption | apply State.bump_kept | apply State.wr_kept | apply State.deferred_kept | apply kept_ite)
    | split

theorem State.rimRefused_kept {qs : List Instr} {s : State} (h : Kept qs s) (key : Nat) (src : Nat) (x : Nat) (y : Nat) (a : Nat) :
    Kept qs (State.rimRefused s key src x y a) := by
  unfold State.rimRefused
  repeat' first
    | (with_reducible first | exact h | apply State.violation_kept)
    | simp only [kept_mk_iff]

/-! ### MemOps -/

theorem State.rimWrite_kept {qs : List Instr} {s : State} (h : Kept qs s) (a : Nat) (d : Bytes) :
    Kept qs (State.rimWrite s a d).1 := by
  unfold State.rimWrite
  apply State.injSend_kept
  refine kept_rimMem ?_ h
  generalize kibsOf a d.length = ps
  have := h.ok.rimMem
  revert this
  generalize s.rim.mem = m
  intro hm
  induction ps generalizing m with
  | nil => exact hm
  | cons b ps ih =>
    refine ih _ ?_
    dsimp only
    split
    · exact hm
    · exact memWrite_wf _ _ hm

theorem State.rimCheck_kept {qs : List Instr} {s : State} (h : Kept qs s) (p : Option Nat) (a : Nat) (bad : Nat) (chk : CodeCheck) :
    Kept qs (State.rimCheck s p a bad chk) := by
  unfold State.rimCheck
  repeat' first
    | (with_reducible first | exact h | assumption | apply State.corrected_kept | apply State.bump_kept | apply State.memFatal_kept
                             | apply State.bumpBy_kept | apply kept_ite)
    | split

theorem State.bondWrite1_kept {qs : List Instr} {s : State} (h : Kept qs s) (r : Nat) (off : Nat) (d : Bytes) :
    Kept qs (State.bondWrite1 s r off d) := by
  unfold State.bondWrite1
  repeat' first
    | (with_reducible first | exact h | assumption | apply State.injStore_kept | apply State.modCoreAt_kept | apply kept_ite)
    | split

theorem State.bondWrite_kept {qs : List Instr} {s : State} (h : Kept qs s) (r : Nat) (off : Nat) (d : Bytes) :
    Kept qs (State.bondWrite s r off d) := by
  unfold State.bondWrite
  repeat' first
    | (with_reducible first | exact h | assumption | apply State.bondWrite1_kept | apply kept_hostMem | (apply kept_foldl; intro s a h)
                             | apply kept_ite)
    | simp only [kept_mk_iff, kept_mk_rim_iff]
    | split

theorem State.bondCheck_kept {qs : List Instr} {s : State} (h : Kept qs s) (r : Nat) (k : Nat) (row : Nat) (src : Nat) (chk : CodeCheck) :
    Kept qs (State.bondCheck s r k row src chk) := by
  unfold State.bondCheck
  repeat' first
    | (with_reducible first | exact h | assumption | apply State.corrected_kept | apply State.bump_kept | apply State.modRegion_kept
                             | apply State.wr_kept | apply State.memFatalD_kept | apply State.deferredD_kept | apply kept_hostMem
                             | (apply kept_foldl; intro s a h) | apply kept_ite)
    | simp only [kept_mk_iff, kept_mk_rim_iff]
    | split

theorem State.complete_kept {qs : List Instr} {s : State} (h : Kept qs s) (p : Nat) (op : Nat) (status : Nat) (ring : Nat) (tag : Bytes) (result : Bytes) :
    Kept qs (State.complete s p op status ring tag result) := by
  unfold State.complete
  repeat' first
    | (with_reducible first | exact h | assumption | apply State.hostWriteAdv_kept | apply State.signal_kept | apply kept_hostMem
                             | (apply kept_foldl; intro s a h) | apply kept_ite)
    | simp only [kept_mk_iff, kept_mk_rim_iff]
    | split

theorem State.scAdd_kept {qs : List Instr} {s : State} (h : Kept qs s) (r : Nat) (n : Nat) :
    Kept qs (State.scAdd s r n) := by
  unfold State.scAdd
  repeat' first
    | (with_reducible first | exact h | apply State.modRegion_kept)

theorem State.sramWrite_kept {qs : List Instr} {s : State} (h : Kept qs s) (r : Nat) (a : Nat) (d : Bytes) :
    Kept qs (State.sramWrite s r a d) := by
  unfold State.sramWrite
  repeat' first
    | (with_reducible first | exact h | apply State.injStore_kept | apply State.modRegion_kept)
    | simp only [kept_mk_iff]

theorem State.seqFault_kept {qs : List Instr} {s : State} (h : Kept qs s) (r : Nat) (code : Nat) :
    Kept qs (State.seqFault s r code) := by
  unfold State.seqFault
  repeat' first
    | (with_reducible first | exact h | apply State.modRegion_kept | apply State.jobFatal_kept)
    | simp only [kept_mk_iff]

theorem State.toCore_kept {qs : List Instr} {s : State} (h : Kept qs s) (key : Nat) (space : Nat) (addr : Nat) (d : Bytes) (ctr : Option Nat) :
    Kept qs (State.toCore s key space addr d ctr) := by
  unfold State.toCore
  repeat' first
    | (with_reducible first | exact h | apply State.modCoreAt_kept)

/-! ### KeeperOps -/

theorem State.setKeeper_kept {qs : List Instr} {s : State} (h : Kept qs s) (r : Nat) (k : Keeper) :
    Kept qs (State.setKeeper s r k) := by
  unfold State.setKeeper
  repeat' first
    | (with_reducible first | exact h | apply State.modRegion_kept)
    | simp only [kept_mk_iff]

theorem State.mapParts_kept {qs : List Instr} {s : State} (h : Kept qs s) (r : Nat) (grp : Nat) (f : State → Nat → Nat → Nat → Mem → Mem) :
    Kept qs (State.mapParts s r grp f) := by
  unfold State.mapParts
  repeat' first
    | (with_reducible first | exact h | assumption | apply State.modCoreAt_kept | apply kept_hostMem | (apply kept_foldl; intro s a h)
                             | apply kept_ite)
    | simp only [kept_mk_iff, kept_mk_rim_iff]
    | split

theorem State.keeperViolation_kept {qs : List Instr} {s : State} (h : Kept qs s) (r : Nat) (kind : Nat) (inj : Bool) :
    Kept qs (State.keeperViolation s r kind inj) := by
  unfold State.keeperViolation
  repeat' first
    | (with_reducible first | exact h | assumption | apply State.wr_kept | apply State.deviceFatalD_kept | apply kept_ite)
    | split

theorem State.publishKeeper_kept {qs : List Instr} {s : State} (h : Kept qs s) (r : Nat) :
    Kept qs (State.publishKeeper s r) := by
  unfold State.publishKeeper
  repeat' first
    | (with_reducible first | exact h | assumption | apply State.setFld_kept | apply State.wr_kept | apply State.keeperViolation_kept
                             | apply kept_ite)
    | split

theorem State.kDeliver_kept {qs : List Instr} {s : State} (h : Kept qs s) (r : Nat) (src : KeeperSrc) (query : Bool) (a : KAns) :
    Kept qs (State.kDeliver s r src query a) := by
  unfold State.kDeliver
  repeat' first
    | (with_reducible first | exact h | assumption | apply State.sramWrite_kept | apply State.scAdd_kept | apply State.complete_kept | apply kept_ite)
    | split

theorem State.kStatus_kept {qs : List Instr} {s : State} (h : Kept qs s) (r : Nat) (status : Nat) :
    Kept qs (State.kStatus s r status) := by
  unfold State.kStatus
  repeat' first
    | (with_reducible first | exact h | assumption | apply State.deferred_kept | apply State.bump_kept | apply kept_ite)
    | split

theorem State.kPerform_kept {qs : List Instr} {s : State} (h : Kept qs s) (r : Nat) (op : KeeperOp) :
    Kept qs (State.kPerform s r op).1 := by
  unfold State.kPerform
  repeat' first
    | (with_reducible first | exact h | assumption | apply State.setKeeper_kept | apply State.kStatus_kept | apply State.kDeliver_kept
                             | apply State.publishKeeper_kept | apply kept_hostMem | (apply kept_foldl; intro s a h) | apply kept_ite)
    | simp only [kept_mk_iff, kept_mk_rim_iff]
    | split

theorem State.kDrain_kept {qs : List Instr} {s : State} (h : Kept qs s) (r : Nat) :
    Kept qs (State.kDrain s r) := by
  unfold State.kDrain
  repeat' first
    | (with_reducible first | exact h | assumption | apply State.kPerform_kept | apply State.setKeeper_kept | apply kept_hostMem
                             | (apply kept_foldl; intro s a h) | apply kept_ite)
    | simp only [kept_mk_iff, kept_mk_rim_iff]
    | split

theorem State.kServe_kept {qs : List Instr} {s : State} (h : Kept qs s) (r : Nat) (code : Nat) (page : Nat) (grp : Nat) (tent : Bool) :
    Kept qs (State.kServe s r code page grp tent).1 := by
  unfold State.kServe
  repeat' first
    | (with_reducible first | exact h | apply State.kPerform_kept | apply State.kDrain_kept)

theorem State.pkPresent_kept {qs : List Instr} {s : State} (h : Kept qs s) (r : Nat) (v : Word) :
    Kept qs (State.pkPresent s r v) := by
  unfold State.pkPresent
  repeat' first
    | (with_reducible first | exact h | assumption | apply State.bump_kept | apply State.setFld_kept | apply State.setKeeper_kept | apply kept_ite)
    | split

theorem State.keeperCmd_kept {qs : List Instr} {s : State} (h : Kept qs s) (r : Nat) (code : Nat) (page : Nat) (grp : Nat) (tent : Bool) :
    Kept qs (State.keeperCmd s r code page grp tent) := by
  unfold State.keeperCmd
  repeat' first
    | (with_reducible first | exact h | assumption | apply State.kPerform_kept | apply State.setKeeper_kept | apply kept_hostMem
                             | (apply kept_foldl; intro s a h) | apply kept_ite)
    | simp only [kept_mk_iff, kept_mk_rim_iff]
    | split

theorem State.copyDone_kept {qs : List Instr} {s : State} (h : Kept qs s) (r : Nat) (i : Nat) :
    Kept qs (State.copyDone s r i) := by
  unfold State.copyDone
  repeat' first
    | (with_reducible first | exact h | assumption | apply State.kDrain_kept | apply State.mapParts_kept | apply State.publishKeeper_kept
                             | apply State.kDeliver_kept | apply State.setKeeper_kept | apply kept_hostMem | (apply kept_foldl; intro s a h)
                             | apply kept_ite)
    | simp only [kept_mk_iff, kept_mk_rim_iff]
    | split

theorem State.moveParts_kept {qs : List Instr} {s : State} (h : Kept qs s) (r : Nat) (x : PageRec) (toRim : Bool) :
    Kept qs (State.moveParts s r x toRim) := by
  unfold State.moveParts
  repeat' first
    | (with_reducible first | exact h | assumption | apply State.rimWrite_kept | apply State.mapParts_kept | apply kept_hostMem
                             | (apply kept_foldl; intro s a h) | apply kept_ite)
    | simp only [kept_mk_iff, kept_mk_rim_iff]
    | split

theorem State.heldPinsOf_kept {qs : List Instr} {s : State} (h : Kept qs s) (r : Nat) (i : Nat) :
    Kept qs (State.heldPinsOf s r i) := by
  unfold State.heldPinsOf
  repeat' first
    | (with_reducible first | exact h | assumption | apply State.kPerform_kept | apply State.setKeeper_kept | apply kept_hostMem
                             | (apply kept_foldl; intro s a h) | apply kept_ite)
    | simp only [kept_mk_iff, kept_mk_rim_iff]
    | split

theorem State.moveDone_kept {qs : List Instr} {s : State} (h : Kept qs s) (r : Nat) (i : Nat) :
    Kept qs (State.moveDone s r i) := by
  unfold State.moveDone
  repeat' first
    | (with_reducible first | exact h | assumption | apply State.kDrain_kept | apply State.moveParts_kept | apply State.setKeeper_kept
                             | apply State.publishKeeper_kept | apply State.heldPinsOf_kept | apply kept_hostMem | (apply kept_foldl; intro s a h)
                             | apply kept_ite)
    | simp only [kept_mk_iff, kept_mk_rim_iff]
    | split

theorem State.zeroReported_kept {qs : List Instr} {s : State} (h : Kept qs s) (r : Nat) (i : Nat) :
    Kept qs (State.zeroReported s r i) := by
  unfold State.zeroReported
  dsimp only
  split
  · exact h
  · apply State.publishKeeper_kept
    apply State.setKeeper_kept
    split
    · apply kept_foldl _ h
      intro s a h
      apply kept_foldl _ h
      intro s a h
      exact kept_rimMem (memClear_wf _ _ h.ok.rimMem) h
    · exact State.mapParts_kept h _ _ _

/-! ### Stretch -/

theorem State.showLimit_kept {qs : List Instr} {s : State} (h : Kept qs s) (r : Nat) :
    Kept qs (State.showLimit s r) := by
  unfold State.showLimit
  repeat' first
    | (with_reducible first | exact h | apply State.setFld_kept)

theorem State.announcePart_kept {qs : List Instr} {s : State} (h : Kept qs s) (p : Nat) :
    Kept qs (State.announcePart s p) := by
  unfold State.announcePart
  repeat' first
    | (with_reducible first | exact h | assumption | apply State.setPart_kept | apply kept_ite)
    | split

theorem State.announce_kept {qs : List Instr} {s : State} (h : Kept qs s) (r : Nat) :
    Kept qs (State.announce s r) := by
  unfold State.announce
  repeat' first
    | (with_reducible first | exact h | assumption | apply State.announcePart_kept | apply kept_ite)
    | split

theorem State.announceAll_kept {qs : List Instr} {s : State} (h : Kept qs s) :
    Kept qs (State.announceAll s) := by
  unfold State.announceAll
  repeat' first
    | (with_reducible first | exact h | apply State.announcePart_kept | (apply kept_foldl; intro s a h))

theorem State.checkConditions_kept {qs : List Instr} {s : State} (h : Kept qs s) :
    Kept qs (State.checkConditions s) := by
  unfold State.checkConditions
  repeat' first
    | (with_reducible first | exact h | assumption | apply State.logEvent_kept | apply kept_hostMem | (apply kept_foldl; intro s a h)
                             | apply kept_ite)
    | simp only [kept_mk_iff, kept_mk_rim_iff]
    | split

/-! ### Emitter -/

theorem State.ringConfig_kept {qs : List Instr} {s : State} (h : Kept qs s) (r : Nat) (off : Nat) (v : Word) :
    Kept qs (State.ringConfig s r off v) := by
  unfold State.ringConfig
  repeat' first
    | (with_reducible first | exact h | assumption | apply State.wr_kept | apply kept_ite)
    | split

theorem State.presentEmission_kept {qs : List Instr} {s : State} (h : Kept qs s) (r : Nat) (i : Nat) (d : Bytes) (fromList : Bool) :
    Kept qs (State.presentEmission s r i d fromList).1 := by
  unfold State.presentEmission
  repeat' first
    | (with_reducible first | exact h | assumption | apply State.bump_kept | apply State.modRegion_kept | apply State.wr_kept
                             | apply State.modPart_kept | apply kept_ite)
    | simp only [kept_mk_iff]
    | split

theorem State.sqEmit_kept {qs : List Instr} {s : State} (h : Kept qs s) (r : Nat) (v : Word) :
    Kept qs (State.sqEmit s r v) := by
  unfold State.sqEmit
  repeat' first
    | (with_reducible first | exact h | apply State.presentEmission_kept)

theorem State.landEmission_kept {qs : List Instr} {s : State} (h : Kept qs s) (r : Nat) (e : Emission) :
    Kept qs (State.landEmission s r e) := by
  unfold State.landEmission
  repeat' first
    | (with_reducible first | exact h | assumption | apply State.toCore_kept | apply kept_hostMem | (apply kept_foldl; intro s a h) | apply kept_ite)
    | simp only [kept_mk_iff, kept_mk_rim_iff]
    | split

theorem State.presentMove_kept {qs : List Instr} {s : State} (h : Kept qs s) (r : Nat) (b : Bytes) (assist : Option (Nat × Nat)) :
    Kept qs (State.presentMove s r b assist) := by
  unfold State.presentMove
  repeat' first
    | (with_reducible first | exact h | assumption | apply State.bump_kept | apply State.seqFault_kept | apply State.rimRefused_kept
                             | apply State.modRegion_kept | apply State.modPart_kept | apply kept_hostMem | (apply kept_foldl; intro s a h)
                             | apply kept_ite)
    | simp only [kept_mk_iff, kept_mk_rim_iff]
    | split

theorem State.sqMov_kept {qs : List Instr} {s : State} (h : Kept qs s) (r : Nat) (v : Word) :
    Kept qs (State.sqMov s r v) := by
  unfold State.sqMov
  repeat' first
    | (with_reducible first | exact h | apply State.presentMove_kept)

theorem State.moveData_kept {qs : List Instr} {s : State} (h : Kept qs s) (r : Nat) (m : Move) (chk : CodeCheck) :
    Kept qs (State.moveData s r m chk) := by
  unfold State.moveData
  repeat' first
    | (with_reducible first | exact h | assumption | apply State.rimCheck_kept | apply State.bondCheck_kept | apply State.rimWrite_kept
                             | apply State.bondWrite_kept | apply kept_ite)
    | split

theorem State.landMove_kept {qs : List Instr} {s : State} (h : Kept qs s) (r : Nat) (m : Move) :
    Kept qs (State.landMove s r m) := by
  unfold State.landMove
  repeat' first
    | (with_reducible first | exact h | assumption | apply State.scAdd_kept | apply State.toCore_kept | apply State.complete_kept
                             | apply kept_hostMem | (apply kept_foldl; intro s a h) | apply kept_ite)
    | simp only [kept_mk_iff, kept_mk_rim_iff]
    | split

theorem State.landFront_kept {qs : List Instr} {s : State} (h : Kept qs s) (r : Nat) (x2 : Nat) :
    Kept qs (State.landFront s r x2) := by
  induction x2 generalizing s with
  | zero => exact h
  | succ k ih =>
    unfold State.landFront
    repeat' first
      | (with_reducible first | exact h | assumption | apply ih | apply State.landMove_kept | apply State.modRegion_kept | apply kept_ite)
      | split

theorem State.moverDone_kept {qs : List Instr} {s : State} (h : Kept qs s) (r : Nat) (chk : CodeCheck) :
    Kept qs (State.moverDone s r chk) := by
  unfold State.moverDone
  repeat' first
    | (with_reducible first | exact h | assumption | apply State.moveData_kept | apply State.modRegion_kept | apply State.modPart_kept
                             | apply State.landFront_kept | apply kept_hostMem | (apply kept_foldl; intro s a h) | apply kept_ite)
    | simp only [kept_mk_iff, kept_mk_rim_iff]
    | split

theorem State.landDueMove_kept {qs : List Instr} {s : State} (h : Kept qs s) (r : Nat) (m : Move) :
    Kept qs (State.landDueMove s r m) := by
  unfold State.landDueMove
  repeat' first
    | (with_reducible first | exact h | apply State.modRegion_kept | apply State.landFront_kept)

theorem State.noteList_kept {qs : List Instr} {s : State} (h : Kept qs s) (r : Nat) (bonded : Bool) (base : Nat) :
    Kept qs (State.noteList s r bonded base) := by
  unfold State.noteList
  repeat' first
    | (with_reducible first | exact h | assumption | apply kept_hostMem | (apply kept_foldl; intro s a h) | apply kept_ite)
    | simp only [kept_mk_iff, kept_mk_rim_iff]
    | split

theorem State.leStart_kept {qs : List Instr} {s : State} (h : Kept qs s) (r : Nat) (v : Word) (assist : Option (Nat × Nat)) :
    Kept qs (State.leStart s r v assist) := by
  unfold State.leStart
  repeat' first
    | (with_reducible first | exact h | assumption | apply State.bump_kept | apply State.modRegion_kept | apply State.noteList_kept | apply kept_ite)
    | split

theorem State.walkList_kept {qs : List Instr} {s : State} (h : Kept qs s) (r : Nat) (x2 : Nat) :
    Kept qs (State.walkList s r x2) := by
  induction x2 generalizing s with
  | zero => exact h
  | succ k ih =>
    unfold State.walkList
    dsimp only
    repeat' first
      | (with_reducible first | exact h | assumption | apply ih | apply State.presentEmission_kept | apply State.bump_kept
                               | apply State.modRegion_kept | apply State.complete_kept | apply kept_ite)
      | split

theorem State.listWalk_kept {qs : List Instr} {s : State} (h : Kept qs s) (r : Nat) :
    Kept qs (State.listWalk s r) := by
  unfold State.listWalk
  repeat' first
    | (with_reducible first | exact h | assumption | apply State.walkList_kept | apply kept_ite)
    | split

end Sys2Proof.Machine
end

