-- ==== Sys2Proof/Laws/State.lean ====
section
/-! SUPPORT. Reading a field of State after an update: what each update leaves, true by definition; and what a register, a core, a region or a
partition reads after it is written, in a canonical state. -/

namespace Sys2Proof.Machine

/-! ### Frames -/

/-! wr -/

@[simp] theorem State.wr_pending (s : State) (a : Nat) (v : Word) : (s.wr a v).pending = s.pending := rfl
@[simp] theorem State.wr_fresh (s : State) (a : Nat) (v : Word) : (s.wr a v).fresh = s.fresh := rfl
@[simp] theorem State.wr_time (s : State) (a : Nat) (v : Word) : (s.wr a v).time = s.time := rfl
@[simp] theorem State.wr_capt (s : State) (a : Nat) (v : Word) : (s.wr a v).capt = s.capt := rfl
@[simp] theorem State.wr_cores (s : State) (a : Nat) (v : Word) : (s.wr a v).cores = s.cores := rfl
@[simp] theorem State.wr_regions (s : State) (a : Nat) (v : Word) : (s.wr a v).regions = s.regions := rfl
@[simp] theorem State.wr_parts (s : State) (a : Nat) (v : Word) : (s.wr a v).parts = s.parts := rfl
@[simp] theorem State.wr_last (s : State) (a : Nat) (v : Word) : (s.wr a v).last = s.last := rfl
@[simp] theorem State.wr_pendLast (s : State) (a : Nat) (v : Word) : (s.wr a v).pendLast = s.pendLast := rfl
@[simp] theorem State.wr_load (s : State) (a : Nat) (v : Word) : (s.wr a v).load = s.load := rfl
@[simp] theorem State.wr_fab (s : State) (a : Nat) (v : Word) : (s.wr a v).fab = s.fab := rfl
@[simp] theorem State.wr_rim (s : State) (a : Nat) (v : Word) : (s.wr a v).rim = s.rim := rfl
@[simp] theorem State.wr_ing (s : State) (a : Nat) (v : Word) : (s.wr a v).ing = s.ing := rfl
@[simp] theorem State.wr_srv (s : State) (a : Nat) (v : Word) : (s.wr a v).srv = s.srv := rfl
@[simp] theorem State.wr_smp (s : State) (a : Nat) (v : Word) : (s.wr a v).smp = s.smp := rfl
@[simp] theorem State.wr_kvc (s : State) (a : Nat) (v : Word) : (s.wr a v).kvc = s.kvc := rfl
@[simp] theorem State.wr_pwr (s : State) (a : Nat) (v : Word) : (s.wr a v).pwr = s.pwr := rfl
@[simp] theorem State.wr_boot (s : State) (a : Nat) (v : Word) : (s.wr a v).boot = s.boot := rfl
@[simp] theorem State.wr_thm (s : State) (a : Nat) (v : Word) : (s.wr a v).thm = s.thm := rfl
@[simp] theorem State.wr_flt (s : State) (a : Nat) (v : Word) : (s.wr a v).flt = s.flt := rfl
@[simp] theorem State.wr_mgt (s : State) (a : Nat) (v : Word) : (s.wr a v).mgt = s.mgt := rfl
@[simp] theorem State.wr_sec (s : State) (a : Nat) (v : Word) : (s.wr a v).sec = s.sec := rfl
@[simp] theorem State.wr_hif (s : State) (a : Nat) (v : Word) : (s.wr a v).hif = s.hif := rfl
@[simp] theorem State.wr_edg (s : State) (a : Nat) (v : Word) : (s.wr a v).edg = s.edg := rfl
@[simp] theorem State.wr_hostMem (s : State) (a : Nat) (v : Word) : (s.wr a v).hostMem = s.hostMem := rfl
@[simp] theorem State.wr_coreAt_frame (s : State) (a : Nat) (v : Word) (i : Nat) : (s.wr a v).coreAt i = s.coreAt i := rfl
@[simp] theorem State.wr_region_frame (s : State) (a : Nat) (v : Word) (i : Nat) : (s.wr a v).region i = s.region i := rfl
@[simp] theorem State.wr_part_frame (s : State) (a : Nat) (v : Word) (i : Nat) : (s.wr a v).part i = s.part i := rfl

/-! setFld -/

@[simp] theorem State.setFld_pending (s : State) (a hi lo v : Nat) : (s.setFld a hi lo v).pending = s.pending := rfl
@[simp] theorem State.setFld_fresh (s : State) (a hi lo v : Nat) : (s.setFld a hi lo v).fresh = s.fresh := rfl
@[simp] theorem State.setFld_time (s : State) (a hi lo v : Nat) : (s.setFld a hi lo v).time = s.time := rfl
@[simp] theorem State.setFld_capt (s : State) (a hi lo v : Nat) : (s.setFld a hi lo v).capt = s.capt := rfl
@[simp] theorem State.setFld_cores (s : State) (a hi lo v : Nat) : (s.setFld a hi lo v).cores = s.cores := rfl
@[simp] theorem State.setFld_regions (s : State) (a hi lo v : Nat) : (s.setFld a hi lo v).regions = s.regions := rfl
@[simp] theorem State.setFld_parts (s : State) (a hi lo v : Nat) : (s.setFld a hi lo v).parts = s.parts := rfl
@[simp] theorem State.setFld_last (s : State) (a hi lo v : Nat) : (s.setFld a hi lo v).last = s.last := rfl
@[simp] theorem State.setFld_pendLast (s : State) (a hi lo v : Nat) : (s.setFld a hi lo v).pendLast = s.pendLast := rfl
@[simp] theorem State.setFld_load (s : State) (a hi lo v : Nat) : (s.setFld a hi lo v).load = s.load := rfl
@[simp] theorem State.setFld_fab (s : State) (a hi lo v : Nat) : (s.setFld a hi lo v).fab = s.fab := rfl
@[simp] theorem State.setFld_rim (s : State) (a hi lo v : Nat) : (s.setFld a hi lo v).rim = s.rim := rfl
@[simp] theorem State.setFld_ing (s : State) (a hi lo v : Nat) : (s.setFld a hi lo v).ing = s.ing := rfl
@[simp] theorem State.setFld_srv (s : State) (a hi lo v : Nat) : (s.setFld a hi lo v).srv = s.srv := rfl
@[simp] theorem State.setFld_smp (s : State) (a hi lo v : Nat) : (s.setFld a hi lo v).smp = s.smp := rfl
@[simp] theorem State.setFld_kvc (s : State) (a hi lo v : Nat) : (s.setFld a hi lo v).kvc = s.kvc := rfl
@[simp] theorem State.setFld_pwr (s : State) (a hi lo v : Nat) : (s.setFld a hi lo v).pwr = s.pwr := rfl
@[simp] theorem State.setFld_boot (s : State) (a hi lo v : Nat) : (s.setFld a hi lo v).boot = s.boot := rfl
@[simp] theorem State.setFld_thm (s : State) (a hi lo v : Nat) : (s.setFld a hi lo v).thm = s.thm := rfl
@[simp] theorem State.setFld_flt (s : State) (a hi lo v : Nat) : (s.setFld a hi lo v).flt = s.flt := rfl
@[simp] theorem State.setFld_mgt (s : State) (a hi lo v : Nat) : (s.setFld a hi lo v).mgt = s.mgt := rfl
@[simp] theorem State.setFld_sec (s : State) (a hi lo v : Nat) : (s.setFld a hi lo v).sec = s.sec := rfl
@[simp] theorem State.setFld_hif (s : State) (a hi lo v : Nat) : (s.setFld a hi lo v).hif = s.hif := rfl
@[simp] theorem State.setFld_edg (s : State) (a hi lo v : Nat) : (s.setFld a hi lo v).edg = s.edg := rfl
@[simp] theorem State.setFld_hostMem (s : State) (a hi lo v : Nat) : (s.setFld a hi lo v).hostMem = s.hostMem := rfl
@[simp] theorem State.setFld_coreAt_frame (s : State) (a hi lo v : Nat) (i : Nat) : (s.setFld a hi lo v).coreAt i = s.coreAt i := rfl
@[simp] theorem State.setFld_region_frame (s : State) (a hi lo v : Nat) (i : Nat) : (s.setFld a hi lo v).region i = s.region i := rfl
@[simp] theorem State.setFld_part_frame (s : State) (a hi lo v : Nat) (i : Nat) : (s.setFld a hi lo v).part i = s.part i := rfl

/-! bump -/

@[simp] theorem State.bump_pending (s : State) (a hi lo : Nat) : (s.bump a hi lo).pending = s.pending := rfl
@[simp] theorem State.bump_fresh (s : State) (a hi lo : Nat) : (s.bump a hi lo).fresh = s.fresh := rfl
@[simp] theorem State.bump_time (s : State) (a hi lo : Nat) : (s.bump a hi lo).time = s.time := rfl
@[simp] theorem State.bump_capt (s : State) (a hi lo : Nat) : (s.bump a hi lo).capt = s.capt := rfl
@[simp] theorem State.bump_cores (s : State) (a hi lo : Nat) : (s.bump a hi lo).cores = s.cores := rfl
@[simp] theorem State.bump_regions (s : State) (a hi lo : Nat) : (s.bump a hi lo).regions = s.regions := rfl
@[simp] theorem State.bump_parts (s : State) (a hi lo : Nat) : (s.bump a hi lo).parts = s.parts := rfl
@[simp] theorem State.bump_last (s : State) (a hi lo : Nat) : (s.bump a hi lo).last = s.last := rfl
@[simp] theorem State.bump_pendLast (s : State) (a hi lo : Nat) : (s.bump a hi lo).pendLast = s.pendLast := rfl
@[simp] theorem State.bump_load (s : State) (a hi lo : Nat) : (s.bump a hi lo).load = s.load := rfl
@[simp] theorem State.bump_fab (s : State) (a hi lo : Nat) : (s.bump a hi lo).fab = s.fab := rfl
@[simp] theorem State.bump_rim (s : State) (a hi lo : Nat) : (s.bump a hi lo).rim = s.rim := rfl
@[simp] theorem State.bump_ing (s : State) (a hi lo : Nat) : (s.bump a hi lo).ing = s.ing := rfl
@[simp] theorem State.bump_srv (s : State) (a hi lo : Nat) : (s.bump a hi lo).srv = s.srv := rfl
@[simp] theorem State.bump_smp (s : State) (a hi lo : Nat) : (s.bump a hi lo).smp = s.smp := rfl
@[simp] theorem State.bump_kvc (s : State) (a hi lo : Nat) : (s.bump a hi lo).kvc = s.kvc := rfl
@[simp] theorem State.bump_pwr (s : State) (a hi lo : Nat) : (s.bump a hi lo).pwr = s.pwr := rfl
@[simp] theorem State.bump_boot (s : State) (a hi lo : Nat) : (s.bump a hi lo).boot = s.boot := rfl
@[simp] theorem State.bump_thm (s : State) (a hi lo : Nat) : (s.bump a hi lo).thm = s.thm := rfl
@[simp] theorem State.bump_flt (s : State) (a hi lo : Nat) : (s.bump a hi lo).flt = s.flt := rfl
@[simp] theorem State.bump_mgt (s : State) (a hi lo : Nat) : (s.bump a hi lo).mgt = s.mgt := rfl
@[simp] theorem State.bump_sec (s : State) (a hi lo : Nat) : (s.bump a hi lo).sec = s.sec := rfl
@[simp] theorem State.bump_hif (s : State) (a hi lo : Nat) : (s.bump a hi lo).hif = s.hif := rfl
@[simp] theorem State.bump_edg (s : State) (a hi lo : Nat) : (s.bump a hi lo).edg = s.edg := rfl
@[simp] theorem State.bump_hostMem (s : State) (a hi lo : Nat) : (s.bump a hi lo).hostMem = s.hostMem := rfl
@[simp] theorem State.bump_coreAt_frame (s : State) (a hi lo : Nat) (i : Nat) : (s.bump a hi lo).coreAt i = s.coreAt i := rfl
@[simp] theorem State.bump_region_frame (s : State) (a hi lo : Nat) (i : Nat) : (s.bump a hi lo).region i = s.region i := rfl
@[simp] theorem State.bump_part_frame (s : State) (a hi lo : Nat) (i : Nat) : (s.bump a hi lo).part i = s.part i := rfl

/-! bumpSat -/

@[simp] theorem State.bumpSat_pending (s : State) (a hi lo : Nat) : (s.bumpSat a hi lo).pending = s.pending := rfl
@[simp] theorem State.bumpSat_fresh (s : State) (a hi lo : Nat) : (s.bumpSat a hi lo).fresh = s.fresh := rfl
@[simp] theorem State.bumpSat_time (s : State) (a hi lo : Nat) : (s.bumpSat a hi lo).time = s.time := rfl
@[simp] theorem State.bumpSat_capt (s : State) (a hi lo : Nat) : (s.bumpSat a hi lo).capt = s.capt := rfl
@[simp] theorem State.bumpSat_cores (s : State) (a hi lo : Nat) : (s.bumpSat a hi lo).cores = s.cores := rfl
@[simp] theorem State.bumpSat_regions (s : State) (a hi lo : Nat) : (s.bumpSat a hi lo).regions = s.regions := rfl
@[simp] theorem State.bumpSat_parts (s : State) (a hi lo : Nat) : (s.bumpSat a hi lo).parts = s.parts := rfl
@[simp] theorem State.bumpSat_last (s : State) (a hi lo : Nat) : (s.bumpSat a hi lo).last = s.last := rfl
@[simp] theorem State.bumpSat_pendLast (s : State) (a hi lo : Nat) : (s.bumpSat a hi lo).pendLast = s.pendLast := rfl
@[simp] theorem State.bumpSat_load (s : State) (a hi lo : Nat) : (s.bumpSat a hi lo).load = s.load := rfl
@[simp] theorem State.bumpSat_fab (s : State) (a hi lo : Nat) : (s.bumpSat a hi lo).fab = s.fab := rfl
@[simp] theorem State.bumpSat_rim (s : State) (a hi lo : Nat) : (s.bumpSat a hi lo).rim = s.rim := rfl
@[simp] theorem State.bumpSat_ing (s : State) (a hi lo : Nat) : (s.bumpSat a hi lo).ing = s.ing := rfl
@[simp] theorem State.bumpSat_srv (s : State) (a hi lo : Nat) : (s.bumpSat a hi lo).srv = s.srv := rfl
@[simp] theorem State.bumpSat_smp (s : State) (a hi lo : Nat) : (s.bumpSat a hi lo).smp = s.smp := rfl
@[simp] theorem State.bumpSat_kvc (s : State) (a hi lo : Nat) : (s.bumpSat a hi lo).kvc = s.kvc := rfl
@[simp] theorem State.bumpSat_pwr (s : State) (a hi lo : Nat) : (s.bumpSat a hi lo).pwr = s.pwr := rfl
@[simp] theorem State.bumpSat_boot (s : State) (a hi lo : Nat) : (s.bumpSat a hi lo).boot = s.boot := rfl
@[simp] theorem State.bumpSat_thm (s : State) (a hi lo : Nat) : (s.bumpSat a hi lo).thm = s.thm := rfl
@[simp] theorem State.bumpSat_flt (s : State) (a hi lo : Nat) : (s.bumpSat a hi lo).flt = s.flt := rfl
@[simp] theorem State.bumpSat_mgt (s : State) (a hi lo : Nat) : (s.bumpSat a hi lo).mgt = s.mgt := rfl
@[simp] theorem State.bumpSat_sec (s : State) (a hi lo : Nat) : (s.bumpSat a hi lo).sec = s.sec := rfl
@[simp] theorem State.bumpSat_hif (s : State) (a hi lo : Nat) : (s.bumpSat a hi lo).hif = s.hif := rfl
@[simp] theorem State.bumpSat_edg (s : State) (a hi lo : Nat) : (s.bumpSat a hi lo).edg = s.edg := rfl
@[simp] theorem State.bumpSat_hostMem (s : State) (a hi lo : Nat) : (s.bumpSat a hi lo).hostMem = s.hostMem := rfl
@[simp] theorem State.bumpSat_coreAt_frame (s : State) (a hi lo : Nat) (i : Nat) : (s.bumpSat a hi lo).coreAt i = s.coreAt i := rfl
@[simp] theorem State.bumpSat_region_frame (s : State) (a hi lo : Nat) (i : Nat) : (s.bumpSat a hi lo).region i = s.region i := rfl
@[simp] theorem State.bumpSat_part_frame (s : State) (a hi lo : Nat) (i : Nat) : (s.bumpSat a hi lo).part i = s.part i := rfl

/-! bumpBy -/

@[simp] theorem State.bumpBy_pending (s : State) (a hi lo n : Nat) : (s.bumpBy a hi lo n).pending = s.pending := rfl
@[simp] theorem State.bumpBy_fresh (s : State) (a hi lo n : Nat) : (s.bumpBy a hi lo n).fresh = s.fresh := rfl
@[simp] theorem State.bumpBy_time (s : State) (a hi lo n : Nat) : (s.bumpBy a hi lo n).time = s.time := rfl
@[simp] theorem State.bumpBy_capt (s : State) (a hi lo n : Nat) : (s.bumpBy a hi lo n).capt = s.capt := rfl
@[simp] theorem State.bumpBy_cores (s : State) (a hi lo n : Nat) : (s.bumpBy a hi lo n).cores = s.cores := rfl
@[simp] theorem State.bumpBy_regions (s : State) (a hi lo n : Nat) : (s.bumpBy a hi lo n).regions = s.regions := rfl
@[simp] theorem State.bumpBy_parts (s : State) (a hi lo n : Nat) : (s.bumpBy a hi lo n).parts = s.parts := rfl
@[simp] theorem State.bumpBy_last (s : State) (a hi lo n : Nat) : (s.bumpBy a hi lo n).last = s.last := rfl
@[simp] theorem State.bumpBy_pendLast (s : State) (a hi lo n : Nat) : (s.bumpBy a hi lo n).pendLast = s.pendLast := rfl
@[simp] theorem State.bumpBy_load (s : State) (a hi lo n : Nat) : (s.bumpBy a hi lo n).load = s.load := rfl
@[simp] theorem State.bumpBy_fab (s : State) (a hi lo n : Nat) : (s.bumpBy a hi lo n).fab = s.fab := rfl
@[simp] theorem State.bumpBy_rim (s : State) (a hi lo n : Nat) : (s.bumpBy a hi lo n).rim = s.rim := rfl
@[simp] theorem State.bumpBy_ing (s : State) (a hi lo n : Nat) : (s.bumpBy a hi lo n).ing = s.ing := rfl
@[simp] theorem State.bumpBy_srv (s : State) (a hi lo n : Nat) : (s.bumpBy a hi lo n).srv = s.srv := rfl
@[simp] theorem State.bumpBy_smp (s : State) (a hi lo n : Nat) : (s.bumpBy a hi lo n).smp = s.smp := rfl
@[simp] theorem State.bumpBy_kvc (s : State) (a hi lo n : Nat) : (s.bumpBy a hi lo n).kvc = s.kvc := rfl
@[simp] theorem State.bumpBy_pwr (s : State) (a hi lo n : Nat) : (s.bumpBy a hi lo n).pwr = s.pwr := rfl
@[simp] theorem State.bumpBy_boot (s : State) (a hi lo n : Nat) : (s.bumpBy a hi lo n).boot = s.boot := rfl
@[simp] theorem State.bumpBy_thm (s : State) (a hi lo n : Nat) : (s.bumpBy a hi lo n).thm = s.thm := rfl
@[simp] theorem State.bumpBy_flt (s : State) (a hi lo n : Nat) : (s.bumpBy a hi lo n).flt = s.flt := rfl
@[simp] theorem State.bumpBy_mgt (s : State) (a hi lo n : Nat) : (s.bumpBy a hi lo n).mgt = s.mgt := rfl
@[simp] theorem State.bumpBy_sec (s : State) (a hi lo n : Nat) : (s.bumpBy a hi lo n).sec = s.sec := rfl
@[simp] theorem State.bumpBy_hif (s : State) (a hi lo n : Nat) : (s.bumpBy a hi lo n).hif = s.hif := rfl
@[simp] theorem State.bumpBy_edg (s : State) (a hi lo n : Nat) : (s.bumpBy a hi lo n).edg = s.edg := rfl
@[simp] theorem State.bumpBy_hostMem (s : State) (a hi lo n : Nat) : (s.bumpBy a hi lo n).hostMem = s.hostMem := rfl
@[simp] theorem State.bumpBy_coreAt_frame (s : State) (a hi lo n : Nat) (i : Nat) : (s.bumpBy a hi lo n).coreAt i = s.coreAt i := rfl
@[simp] theorem State.bumpBy_region_frame (s : State) (a hi lo n : Nat) (i : Nat) : (s.bumpBy a hi lo n).region i = s.region i := rfl
@[simp] theorem State.bumpBy_part_frame (s : State) (a hi lo n : Nat) (i : Nat) : (s.bumpBy a hi lo n).part i = s.part i := rfl

/-! wr64 -/

@[simp] theorem State.wr64_pending (s : State) (lo hi v : Nat) : (s.wr64 lo hi v).pending = s.pending := rfl
@[simp] theorem State.wr64_fresh (s : State) (lo hi v : Nat) : (s.wr64 lo hi v).fresh = s.fresh := rfl
@[simp] theorem State.wr64_time (s : State) (lo hi v : Nat) : (s.wr64 lo hi v).time = s.time := rfl
@[simp] theorem State.wr64_capt (s : State) (lo hi v : Nat) : (s.wr64 lo hi v).capt = s.capt := rfl
@[simp] theorem State.wr64_cores (s : State) (lo hi v : Nat) : (s.wr64 lo hi v).cores = s.cores := rfl
@[simp] theorem State.wr64_regions (s : State) (lo hi v : Nat) : (s.wr64 lo hi v).regions = s.regions := rfl
@[simp] theorem State.wr64_parts (s : State) (lo hi v : Nat) : (s.wr64 lo hi v).parts = s.parts := rfl
@[simp] theorem State.wr64_last (s : State) (lo hi v : Nat) : (s.wr64 lo hi v).last = s.last := rfl
@[simp] theorem State.wr64_pendLast (s : State) (lo hi v : Nat) : (s.wr64 lo hi v).pendLast = s.pendLast := rfl
@[simp] theorem State.wr64_load (s : State) (lo hi v : Nat) : (s.wr64 lo hi v).load = s.load := rfl
@[simp] theorem State.wr64_fab (s : State) (lo hi v : Nat) : (s.wr64 lo hi v).fab = s.fab := rfl
@[simp] theorem State.wr64_rim (s : State) (lo hi v : Nat) : (s.wr64 lo hi v).rim = s.rim := rfl
@[simp] theorem State.wr64_ing (s : State) (lo hi v : Nat) : (s.wr64 lo hi v).ing = s.ing := rfl
@[simp] theorem State.wr64_srv (s : State) (lo hi v : Nat) : (s.wr64 lo hi v).srv = s.srv := rfl
@[simp] theorem State.wr64_smp (s : State) (lo hi v : Nat) : (s.wr64 lo hi v).smp = s.smp := rfl
@[simp] theorem State.wr64_kvc (s : State) (lo hi v : Nat) : (s.wr64 lo hi v).kvc = s.kvc := rfl
@[simp] theorem State.wr64_pwr (s : State) (lo hi v : Nat) : (s.wr64 lo hi v).pwr = s.pwr := rfl
@[simp] theorem State.wr64_boot (s : State) (lo hi v : Nat) : (s.wr64 lo hi v).boot = s.boot := rfl
@[simp] theorem State.wr64_thm (s : State) (lo hi v : Nat) : (s.wr64 lo hi v).thm = s.thm := rfl
@[simp] theorem State.wr64_flt (s : State) (lo hi v : Nat) : (s.wr64 lo hi v).flt = s.flt := rfl
@[simp] theorem State.wr64_mgt (s : State) (lo hi v : Nat) : (s.wr64 lo hi v).mgt = s.mgt := rfl
@[simp] theorem State.wr64_sec (s : State) (lo hi v : Nat) : (s.wr64 lo hi v).sec = s.sec := rfl
@[simp] theorem State.wr64_hif (s : State) (lo hi v : Nat) : (s.wr64 lo hi v).hif = s.hif := rfl
@[simp] theorem State.wr64_edg (s : State) (lo hi v : Nat) : (s.wr64 lo hi v).edg = s.edg := rfl
@[simp] theorem State.wr64_hostMem (s : State) (lo hi v : Nat) : (s.wr64 lo hi v).hostMem = s.hostMem := rfl
@[simp] theorem State.wr64_coreAt_frame (s : State) (lo hi v : Nat) (i : Nat) : (s.wr64 lo hi v).coreAt i = s.coreAt i := rfl
@[simp] theorem State.wr64_region_frame (s : State) (lo hi v : Nat) (i : Nat) : (s.wr64 lo hi v).region i = s.region i := rfl
@[simp] theorem State.wr64_part_frame (s : State) (lo hi v : Nat) (i : Nat) : (s.wr64 lo hi v).part i = s.part i := rfl

/-! capture -/

@[simp] theorem State.capture_pending (s : State) (port a : Nat) (v : Word) : (s.capture port a v).pending = s.pending := rfl
@[simp] theorem State.capture_fresh (s : State) (port a : Nat) (v : Word) : (s.capture port a v).fresh = s.fresh := rfl
@[simp] theorem State.capture_time (s : State) (port a : Nat) (v : Word) : (s.capture port a v).time = s.time := rfl
@[simp] theorem State.capture_regs (s : State) (port a : Nat) (v : Word) : (s.capture port a v).regs = s.regs := rfl
@[simp] theorem State.capture_cores (s : State) (port a : Nat) (v : Word) : (s.capture port a v).cores = s.cores := rfl
@[simp] theorem State.capture_regions (s : State) (port a : Nat) (v : Word) : (s.capture port a v).regions = s.regions := rfl
@[simp] theorem State.capture_parts (s : State) (port a : Nat) (v : Word) : (s.capture port a v).parts = s.parts := rfl
@[simp] theorem State.capture_last (s : State) (port a : Nat) (v : Word) : (s.capture port a v).last = s.last := rfl
@[simp] theorem State.capture_pendLast (s : State) (port a : Nat) (v : Word) : (s.capture port a v).pendLast = s.pendLast := rfl
@[simp] theorem State.capture_load (s : State) (port a : Nat) (v : Word) : (s.capture port a v).load = s.load := rfl
@[simp] theorem State.capture_fab (s : State) (port a : Nat) (v : Word) : (s.capture port a v).fab = s.fab := rfl
@[simp] theorem State.capture_rim (s : State) (port a : Nat) (v : Word) : (s.capture port a v).rim = s.rim := rfl
@[simp] theorem State.capture_ing (s : State) (port a : Nat) (v : Word) : (s.capture port a v).ing = s.ing := rfl
@[simp] theorem State.capture_srv (s : State) (port a : Nat) (v : Word) : (s.capture port a v).srv = s.srv := rfl
@[simp] theorem State.capture_smp (s : State) (port a : Nat) (v : Word) : (s.capture port a v).smp = s.smp := rfl
@[simp] theorem State.capture_kvc (s : State) (port a : Nat) (v : Word) : (s.capture port a v).kvc = s.kvc := rfl
@[simp] theorem State.capture_pwr (s : State) (port a : Nat) (v : Word) : (s.capture port a v).pwr = s.pwr := rfl
@[simp] theorem State.capture_boot (s : State) (port a : Nat) (v : Word) : (s.capture port a v).boot = s.boot := rfl
@[simp] theorem State.capture_thm (s : State) (port a : Nat) (v : Word) : (s.capture port a v).thm = s.thm := rfl
@[simp] theorem State.capture_flt (s : State) (port a : Nat) (v : Word) : (s.capture port a v).flt = s.flt := rfl
@[simp] theorem State.capture_mgt (s : State) (port a : Nat) (v : Word) : (s.capture port a v).mgt = s.mgt := rfl
@[simp] theorem State.capture_sec (s : State) (port a : Nat) (v : Word) : (s.capture port a v).sec = s.sec := rfl
@[simp] theorem State.capture_hif (s : State) (port a : Nat) (v : Word) : (s.capture port a v).hif = s.hif := rfl
@[simp] theorem State.capture_edg (s : State) (port a : Nat) (v : Word) : (s.capture port a v).edg = s.edg := rfl
@[simp] theorem State.capture_hostMem (s : State) (port a : Nat) (v : Word) : (s.capture port a v).hostMem = s.hostMem := rfl
@[simp] theorem State.capture_rd_frame (s : State) (port a : Nat) (v : Word) (i : Nat) : (s.capture port a v).rd i = s.rd i := rfl
@[simp] theorem State.capture_fld_frame (s : State) (port a : Nat) (v : Word) (i h l : Nat) : (s.capture port a v).fld i h l = s.fld i h l := rfl
@[simp] theorem State.capture_coreAt_frame (s : State) (port a : Nat) (v : Word) (i : Nat) : (s.capture port a v).coreAt i = s.coreAt i := rfl
@[simp] theorem State.capture_region_frame (s : State) (port a : Nat) (v : Word) (i : Nat) : (s.capture port a v).region i = s.region i := rfl
@[simp] theorem State.capture_part_frame (s : State) (port a : Nat) (v : Word) (i : Nat) : (s.capture port a v).part i = s.part i := rfl

/-! setCoreAt -/

@[simp] theorem State.setCoreAt_pending (s : State) (k : Nat) (x : Core) : (s.setCoreAt k x).pending = s.pending := rfl
@[simp] theorem State.setCoreAt_fresh (s : State) (k : Nat) (x : Core) : (s.setCoreAt k x).fresh = s.fresh := rfl
@[simp] theorem State.setCoreAt_time (s : State) (k : Nat) (x : Core) : (s.setCoreAt k x).time = s.time := rfl
@[simp] theorem State.setCoreAt_regs (s : State) (k : Nat) (x : Core) : (s.setCoreAt k x).regs = s.regs := rfl
@[simp] theorem State.setCoreAt_capt (s : State) (k : Nat) (x : Core) : (s.setCoreAt k x).capt = s.capt := rfl
@[simp] theorem State.setCoreAt_regions (s : State) (k : Nat) (x : Core) : (s.setCoreAt k x).regions = s.regions := rfl
@[simp] theorem State.setCoreAt_parts (s : State) (k : Nat) (x : Core) : (s.setCoreAt k x).parts = s.parts := rfl
@[simp] theorem State.setCoreAt_last (s : State) (k : Nat) (x : Core) : (s.setCoreAt k x).last = s.last := rfl
@[simp] theorem State.setCoreAt_pendLast (s : State) (k : Nat) (x : Core) : (s.setCoreAt k x).pendLast = s.pendLast := rfl
@[simp] theorem State.setCoreAt_load (s : State) (k : Nat) (x : Core) : (s.setCoreAt k x).load = s.load := rfl
@[simp] theorem State.setCoreAt_fab (s : State) (k : Nat) (x : Core) : (s.setCoreAt k x).fab = s.fab := rfl
@[simp] theorem State.setCoreAt_rim (s : State) (k : Nat) (x : Core) : (s.setCoreAt k x).rim = s.rim := rfl
@[simp] theorem State.setCoreAt_ing (s : State) (k : Nat) (x : Core) : (s.setCoreAt k x).ing = s.ing := rfl
@[simp] theorem State.setCoreAt_srv (s : State) (k : Nat) (x : Core) : (s.setCoreAt k x).srv = s.srv := rfl
@[simp] theorem State.setCoreAt_smp (s : State) (k : Nat) (x : Core) : (s.setCoreAt k x).smp = s.smp := rfl
@[simp] theorem State.setCoreAt_kvc (s : State) (k : Nat) (x : Core) : (s.setCoreAt k x).kvc = s.kvc := rfl
@[simp] theorem State.setCoreAt_pwr (s : State) (k : Nat) (x : Core) : (s.setCoreAt k x).pwr = s.pwr := rfl
@[simp] theorem State.setCoreAt_boot (s : State) (k : Nat) (x : Core) : (s.setCoreAt k x).boot = s.boot := rfl
@[simp] theorem State.setCoreAt_thm (s : State) (k : Nat) (x : Core) : (s.setCoreAt k x).thm = s.thm := rfl
@[simp] theorem State.setCoreAt_flt (s : State) (k : Nat) (x : Core) : (s.setCoreAt k x).flt = s.flt := rfl
@[simp] theorem State.setCoreAt_mgt (s : State) (k : Nat) (x : Core) : (s.setCoreAt k x).mgt = s.mgt := rfl
@[simp] theorem State.setCoreAt_sec (s : State) (k : Nat) (x : Core) : (s.setCoreAt k x).sec = s.sec := rfl
@[simp] theorem State.setCoreAt_hif (s : State) (k : Nat) (x : Core) : (s.setCoreAt k x).hif = s.hif := rfl
@[simp] theorem State.setCoreAt_edg (s : State) (k : Nat) (x : Core) : (s.setCoreAt k x).edg = s.edg := rfl
@[simp] theorem State.setCoreAt_hostMem (s : State) (k : Nat) (x : Core) : (s.setCoreAt k x).hostMem = s.hostMem := rfl
@[simp] theorem State.setCoreAt_rd_frame (s : State) (k : Nat) (x : Core) (i : Nat) : (s.setCoreAt k x).rd i = s.rd i := rfl
@[simp] theorem State.setCoreAt_fld_frame (s : State) (k : Nat) (x : Core) (i h l : Nat) : (s.setCoreAt k x).fld i h l = s.fld i h l := rfl
@[simp] theorem State.setCoreAt_region_frame (s : State) (k : Nat) (x : Core) (i : Nat) : (s.setCoreAt k x).region i = s.region i := rfl
@[simp] theorem State.setCoreAt_part_frame (s : State) (k : Nat) (x : Core) (i : Nat) : (s.setCoreAt k x).part i = s.part i := rfl

/-! modCoreAt -/

@[simp] theorem State.modCoreAt_pending (s : State) (k : Nat) (f : Core → Core) : (s.modCoreAt k f).pending = s.pending := rfl
@[simp] theorem State.modCoreAt_fresh (s : State) (k : Nat) (f : Core → Core) : (s.modCoreAt k f).fresh = s.fresh := rfl
@[simp] theorem State.modCoreAt_time (s : State) (k : Nat) (f : Core → Core) : (s.modCoreAt k f).time = s.time := rfl
@[simp] theorem State.modCoreAt_regs (s : State) (k : Nat) (f : Core → Core) : (s.modCoreAt k f).regs = s.regs := rfl
@[simp] theorem State.modCoreAt_capt (s : State) (k : Nat) (f : Core → Core) : (s.modCoreAt k f).capt = s.capt := rfl
@[simp] theorem State.modCoreAt_regions (s : State) (k : Nat) (f : Core → Core) : (s.modCoreAt k f).regions = s.regions := rfl
@[simp] theorem State.modCoreAt_parts (s : State) (k : Nat) (f : Core → Core) : (s.modCoreAt k f).parts = s.parts := rfl
@[simp] theorem State.modCoreAt_last (s : State) (k : Nat) (f : Core → Core) : (s.modCoreAt k f).last = s.last := rfl
@[simp] theorem State.modCoreAt_pendLast (s : State) (k : Nat) (f : Core → Core) : (s.modCoreAt k f).pendLast = s.pendLast := rfl
@[simp] theorem State.modCoreAt_load (s : State) (k : Nat) (f : Core → Core) : (s.modCoreAt k f).load = s.load := rfl
@[simp] theorem State.modCoreAt_fab (s : State) (k : Nat) (f : Core → Core) : (s.modCoreAt k f).fab = s.fab := rfl
@[simp] theorem State.modCoreAt_rim (s : State) (k : Nat) (f : Core → Core) : (s.modCoreAt k f).rim = s.rim := rfl
@[simp] theorem State.modCoreAt_ing (s : State) (k : Nat) (f : Core → Core) : (s.modCoreAt k f).ing = s.ing := rfl
@[simp] theorem State.modCoreAt_srv (s : State) (k : Nat) (f : Core → Core) : (s.modCoreAt k f).srv = s.srv := rfl
@[simp] theorem State.modCoreAt_smp (s : State) (k : Nat) (f : Core → Core) : (s.modCoreAt k f).smp = s.smp := rfl
@[simp] theorem State.modCoreAt_kvc (s : State) (k : Nat) (f : Core → Core) : (s.modCoreAt k f).kvc = s.kvc := rfl
@[simp] theorem State.modCoreAt_pwr (s : State) (k : Nat) (f : Core → Core) : (s.modCoreAt k f).pwr = s.pwr := rfl
@[simp] theorem State.modCoreAt_boot (s : State) (k : Nat) (f : Core → Core) : (s.modCoreAt k f).boot = s.boot := rfl
@[simp] theorem State.modCoreAt_thm (s : State) (k : Nat) (f : Core → Core) : (s.modCoreAt k f).thm = s.thm := rfl
@[simp] theorem State.modCoreAt_flt (s : State) (k : Nat) (f : Core → Core) : (s.modCoreAt k f).flt = s.flt := rfl
@[simp] theorem State.modCoreAt_mgt (s : State) (k : Nat) (f : Core → Core) : (s.modCoreAt k f).mgt = s.mgt := rfl
@[simp] theorem State.modCoreAt_sec (s : State) (k : Nat) (f : Core → Core) : (s.modCoreAt k f).sec = s.sec := rfl
@[simp] theorem State.modCoreAt_hif (s : State) (k : Nat) (f : Core → Core) : (s.modCoreAt k f).hif = s.hif := rfl
@[simp] theorem State.modCoreAt_edg (s : State) (k : Nat) (f : Core → Core) : (s.modCoreAt k f).edg = s.edg := rfl
@[simp] theorem State.modCoreAt_hostMem (s : State) (k : Nat) (f : Core → Core) : (s.modCoreAt k f).hostMem = s.hostMem := rfl
@[simp] theorem State.modCoreAt_rd_frame (s : State) (k : Nat) (f : Core → Core) (i : Nat) : (s.modCoreAt k f).rd i = s.rd i := rfl
@[simp] theorem State.modCoreAt_fld_frame (s : State) (k : Nat) (f : Core → Core) (i h l : Nat) : (s.modCoreAt k f).fld i h l = s.fld i h l := rfl
@[simp] theorem State.modCoreAt_region_frame (s : State) (k : Nat) (f : Core → Core) (i : Nat) : (s.modCoreAt k f).region i = s.region i := rfl
@[simp] theorem State.modCoreAt_part_frame (s : State) (k : Nat) (f : Core → Core) (i : Nat) : (s.modCoreAt k f).part i = s.part i := rfl

/-! setRegion -/

@[simp] theorem State.setRegion_pending (s : State) (r : Nat) (x : Region) : (s.setRegion r x).pending = s.pending := rfl
@[simp] theorem State.setRegion_fresh (s : State) (r : Nat) (x : Region) : (s.setRegion r x).fresh = s.fresh := rfl
@[simp] theorem State.setRegion_time (s : State) (r : Nat) (x : Region) : (s.setRegion r x).time = s.time := rfl
@[simp] theorem State.setRegion_regs (s : State) (r : Nat) (x : Region) : (s.setRegion r x).regs = s.regs := rfl
@[simp] theorem State.setRegion_capt (s : State) (r : Nat) (x : Region) : (s.setRegion r x).capt = s.capt := rfl
@[simp] theorem State.setRegion_cores (s : State) (r : Nat) (x : Region) : (s.setRegion r x).cores = s.cores := rfl
@[simp] theorem State.setRegion_parts (s : State) (r : Nat) (x : Region) : (s.setRegion r x).parts = s.parts := rfl
@[simp] theorem State.setRegion_last (s : State) (r : Nat) (x : Region) : (s.setRegion r x).last = s.last := rfl
@[simp] theorem State.setRegion_pendLast (s : State) (r : Nat) (x : Region) : (s.setRegion r x).pendLast = s.pendLast := rfl
@[simp] theorem State.setRegion_load (s : State) (r : Nat) (x : Region) : (s.setRegion r x).load = s.load := rfl
@[simp] theorem State.setRegion_fab (s : State) (r : Nat) (x : Region) : (s.setRegion r x).fab = s.fab := rfl
@[simp] theorem State.setRegion_rim (s : State) (r : Nat) (x : Region) : (s.setRegion r x).rim = s.rim := rfl
@[simp] theorem State.setRegion_ing (s : State) (r : Nat) (x : Region) : (s.setRegion r x).ing = s.ing := rfl
@[simp] theorem State.setRegion_srv (s : State) (r : Nat) (x : Region) : (s.setRegion r x).srv = s.srv := rfl
@[simp] theorem State.setRegion_smp (s : State) (r : Nat) (x : Region) : (s.setRegion r x).smp = s.smp := rfl
@[simp] theorem State.setRegion_kvc (s : State) (r : Nat) (x : Region) : (s.setRegion r x).kvc = s.kvc := rfl
@[simp] theorem State.setRegion_pwr (s : State) (r : Nat) (x : Region) : (s.setRegion r x).pwr = s.pwr := rfl
@[simp] theorem State.setRegion_boot (s : State) (r : Nat) (x : Region) : (s.setRegion r x).boot = s.boot := rfl
@[simp] theorem State.setRegion_thm (s : State) (r : Nat) (x : Region) : (s.setRegion r x).thm = s.thm := rfl
@[simp] theorem State.setRegion_flt (s : State) (r : Nat) (x : Region) : (s.setRegion r x).flt = s.flt := rfl
@[simp] theorem State.setRegion_mgt (s : State) (r : Nat) (x : Region) : (s.setRegion r x).mgt = s.mgt := rfl
@[simp] theorem State.setRegion_sec (s : State) (r : Nat) (x : Region) : (s.setRegion r x).sec = s.sec := rfl
@[simp] theorem State.setRegion_hif (s : State) (r : Nat) (x : Region) : (s.setRegion r x).hif = s.hif := rfl
@[simp] theorem State.setRegion_edg (s : State) (r : Nat) (x : Region) : (s.setRegion r x).edg = s.edg := rfl
@[simp] theorem State.setRegion_hostMem (s : State) (r : Nat) (x : Region) : (s.setRegion r x).hostMem = s.hostMem := rfl
@[simp] theorem State.setRegion_rd_frame (s : State) (r : Nat) (x : Region) (i : Nat) : (s.setRegion r x).rd i = s.rd i := rfl
@[simp] theorem State.setRegion_fld_frame (s : State) (r : Nat) (x : Region) (i h l : Nat) : (s.setRegion r x).fld i h l = s.fld i h l := rfl
@[simp] theorem State.setRegion_coreAt_frame (s : State) (r : Nat) (x : Region) (i : Nat) : (s.setRegion r x).coreAt i = s.coreAt i := rfl
@[simp] theorem State.setRegion_part_frame (s : State) (r : Nat) (x : Region) (i : Nat) : (s.setRegion r x).part i = s.part i := rfl

/-! modRegion -/

@[simp] theorem State.modRegion_pending (s : State) (r : Nat) (f : Region → Region) : (s.modRegion r f).pending = s.pending := rfl
@[simp] theorem State.modRegion_fresh (s : State) (r : Nat) (f : Region → Region) : (s.modRegion r f).fresh = s.fresh := rfl
@[simp] theorem State.modRegion_time (s : State) (r : Nat) (f : Region → Region) : (s.modRegion r f).time = s.time := rfl
@[simp] theorem State.modRegion_regs (s : State) (r : Nat) (f : Region → Region) : (s.modRegion r f).regs = s.regs := rfl
@[simp] theorem State.modRegion_capt (s : State) (r : Nat) (f : Region → Region) : (s.modRegion r f).capt = s.capt := rfl
@[simp] theorem State.modRegion_cores (s : State) (r : Nat) (f : Region → Region) : (s.modRegion r f).cores = s.cores := rfl
@[simp] theorem State.modRegion_parts (s : State) (r : Nat) (f : Region → Region) : (s.modRegion r f).parts = s.parts := rfl
@[simp] theorem State.modRegion_last (s : State) (r : Nat) (f : Region → Region) : (s.modRegion r f).last = s.last := rfl
@[simp] theorem State.modRegion_pendLast (s : State) (r : Nat) (f : Region → Region) : (s.modRegion r f).pendLast = s.pendLast := rfl
@[simp] theorem State.modRegion_load (s : State) (r : Nat) (f : Region → Region) : (s.modRegion r f).load = s.load := rfl
@[simp] theorem State.modRegion_fab (s : State) (r : Nat) (f : Region → Region) : (s.modRegion r f).fab = s.fab := rfl
@[simp] theorem State.modRegion_rim (s : State) (r : Nat) (f : Region → Region) : (s.modRegion r f).rim = s.rim := rfl
@[simp] theorem State.modRegion_ing (s : State) (r : Nat) (f : Region → Region) : (s.modRegion r f).ing = s.ing := rfl
@[simp] theorem State.modRegion_srv (s : State) (r : Nat) (f : Region → Region) : (s.modRegion r f).srv = s.srv := rfl
@[simp] theorem State.modRegion_smp (s : State) (r : Nat) (f : Region → Region) : (s.modRegion r f).smp = s.smp := rfl
@[simp] theorem State.modRegion_kvc (s : State) (r : Nat) (f : Region → Region) : (s.modRegion r f).kvc = s.kvc := rfl
@[simp] theorem State.modRegion_pwr (s : State) (r : Nat) (f : Region → Region) : (s.modRegion r f).pwr = s.pwr := rfl
@[simp] theorem State.modRegion_boot (s : State) (r : Nat) (f : Region → Region) : (s.modRegion r f).boot = s.boot := rfl
@[simp] theorem State.modRegion_thm (s : State) (r : Nat) (f : Region → Region) : (s.modRegion r f).thm = s.thm := rfl
@[simp] theorem State.modRegion_flt (s : State) (r : Nat) (f : Region → Region) : (s.modRegion r f).flt = s.flt := rfl
@[simp] theorem State.modRegion_mgt (s : State) (r : Nat) (f : Region → Region) : (s.modRegion r f).mgt = s.mgt := rfl
@[simp] theorem State.modRegion_sec (s : State) (r : Nat) (f : Region → Region) : (s.modRegion r f).sec = s.sec := rfl
@[simp] theorem State.modRegion_hif (s : State) (r : Nat) (f : Region → Region) : (s.modRegion r f).hif = s.hif := rfl
@[simp] theorem State.modRegion_edg (s : State) (r : Nat) (f : Region → Region) : (s.modRegion r f).edg = s.edg := rfl
@[simp] theorem State.modRegion_hostMem (s : State) (r : Nat) (f : Region → Region) : (s.modRegion r f).hostMem = s.hostMem := rfl
@[simp] theorem State.modRegion_rd_frame (s : State) (r : Nat) (f : Region → Region) (i : Nat) : (s.modRegion r f).rd i = s.rd i := rfl
@[simp] theorem State.modRegion_fld_frame (s : State) (r : Nat) (f : Region → Region) (i h l : Nat) : (s.modRegion r f).fld i h l = s.fld i h l := rfl
@[simp] theorem State.modRegion_coreAt_frame (s : State) (r : Nat) (f : Region → Region) (i : Nat) : (s.modRegion r f).coreAt i = s.coreAt i := rfl
@[simp] theorem State.modRegion_part_frame (s : State) (r : Nat) (f : Region → Region) (i : Nat) : (s.modRegion r f).part i = s.part i := rfl

/-! setPart -/

@[simp] theorem State.setPart_pending (s : State) (p : Nat) (x : Part) : (s.setPart p x).pending = s.pending := rfl
@[simp] theorem State.setPart_fresh (s : State) (p : Nat) (x : Part) : (s.setPart p x).fresh = s.fresh := rfl
@[simp] theorem State.setPart_time (s : State) (p : Nat) (x : Part) : (s.setPart p x).time = s.time := rfl
@[simp] theorem State.setPart_regs (s : State) (p : Nat) (x : Part) : (s.setPart p x).regs = s.regs := rfl
@[simp] theorem State.setPart_capt (s : State) (p : Nat) (x : Part) : (s.setPart p x).capt = s.capt := rfl
@[simp] theorem State.setPart_cores (s : State) (p : Nat) (x : Part) : (s.setPart p x).cores = s.cores := rfl
@[simp] theorem State.setPart_regions (s : State) (p : Nat) (x : Part) : (s.setPart p x).regions = s.regions := rfl
@[simp] theorem State.setPart_last (s : State) (p : Nat) (x : Part) : (s.setPart p x).last = s.last := rfl
@[simp] theorem State.setPart_pendLast (s : State) (p : Nat) (x : Part) : (s.setPart p x).pendLast = s.pendLast := rfl
@[simp] theorem State.setPart_load (s : State) (p : Nat) (x : Part) : (s.setPart p x).load = s.load := rfl
@[simp] theorem State.setPart_fab (s : State) (p : Nat) (x : Part) : (s.setPart p x).fab = s.fab := rfl
@[simp] theorem State.setPart_rim (s : State) (p : Nat) (x : Part) : (s.setPart p x).rim = s.rim := rfl
@[simp] theorem State.setPart_ing (s : State) (p : Nat) (x : Part) : (s.setPart p x).ing = s.ing := rfl
@[simp] theorem State.setPart_srv (s : State) (p : Nat) (x : Part) : (s.setPart p x).srv = s.srv := rfl
@[simp] theorem State.setPart_smp (s : State) (p : Nat) (x : Part) : (s.setPart p x).smp = s.smp := rfl
@[simp] theorem State.setPart_kvc (s : State) (p : Nat) (x : Part) : (s.setPart p x).kvc = s.kvc := rfl
@[simp] theorem State.setPart_pwr (s : State) (p : Nat) (x : Part) : (s.setPart p x).pwr = s.pwr := rfl
@[simp] theorem State.setPart_boot (s : State) (p : Nat) (x : Part) : (s.setPart p x).boot = s.boot := rfl
@[simp] theorem State.setPart_thm (s : State) (p : Nat) (x : Part) : (s.setPart p x).thm = s.thm := rfl
@[simp] theorem State.setPart_flt (s : State) (p : Nat) (x : Part) : (s.setPart p x).flt = s.flt := rfl
@[simp] theorem State.setPart_mgt (s : State) (p : Nat) (x : Part) : (s.setPart p x).mgt = s.mgt := rfl
@[simp] theorem State.setPart_sec (s : State) (p : Nat) (x : Part) : (s.setPart p x).sec = s.sec := rfl
@[simp] theorem State.setPart_hif (s : State) (p : Nat) (x : Part) : (s.setPart p x).hif = s.hif := rfl
@[simp] theorem State.setPart_edg (s : State) (p : Nat) (x : Part) : (s.setPart p x).edg = s.edg := rfl
@[simp] theorem State.setPart_hostMem (s : State) (p : Nat) (x : Part) : (s.setPart p x).hostMem = s.hostMem := rfl
@[simp] theorem State.setPart_rd_frame (s : State) (p : Nat) (x : Part) (i : Nat) : (s.setPart p x).rd i = s.rd i := rfl
@[simp] theorem State.setPart_fld_frame (s : State) (p : Nat) (x : Part) (i h l : Nat) : (s.setPart p x).fld i h l = s.fld i h l := rfl
@[simp] theorem State.setPart_coreAt_frame (s : State) (p : Nat) (x : Part) (i : Nat) : (s.setPart p x).coreAt i = s.coreAt i := rfl
@[simp] theorem State.setPart_region_frame (s : State) (p : Nat) (x : Part) (i : Nat) : (s.setPart p x).region i = s.region i := rfl

/-! modPart -/

@[simp] theorem State.modPart_pending (s : State) (p : Nat) (f : Part → Part) : (s.modPart p f).pending = s.pending := rfl
@[simp] theorem State.modPart_fresh (s : State) (p : Nat) (f : Part → Part) : (s.modPart p f).fresh = s.fresh := rfl
@[simp] theorem State.modPart_time (s : State) (p : Nat) (f : Part → Part) : (s.modPart p f).time = s.time := rfl
@[simp] theorem State.modPart_regs (s : State) (p : Nat) (f : Part → Part) : (s.modPart p f).regs = s.regs := rfl
@[simp] theorem State.modPart_capt (s : State) (p : Nat) (f : Part → Part) : (s.modPart p f).capt = s.capt := rfl
@[simp] theorem State.modPart_cores (s : State) (p : Nat) (f : Part → Part) : (s.modPart p f).cores = s.cores := rfl
@[simp] theorem State.modPart_regions (s : State) (p : Nat) (f : Part → Part) : (s.modPart p f).regions = s.regions := rfl
@[simp] theorem State.modPart_last (s : State) (p : Nat) (f : Part → Part) : (s.modPart p f).last = s.last := rfl
@[simp] theorem State.modPart_pendLast (s : State) (p : Nat) (f : Part → Part) : (s.modPart p f).pendLast = s.pendLast := rfl
@[simp] theorem State.modPart_load (s : State) (p : Nat) (f : Part → Part) : (s.modPart p f).load = s.load := rfl
@[simp] theorem State.modPart_fab (s : State) (p : Nat) (f : Part → Part) : (s.modPart p f).fab = s.fab := rfl
@[simp] theorem State.modPart_rim (s : State) (p : Nat) (f : Part → Part) : (s.modPart p f).rim = s.rim := rfl
@[simp] theorem State.modPart_ing (s : State) (p : Nat) (f : Part → Part) : (s.modPart p f).ing = s.ing := rfl
@[simp] theorem State.modPart_srv (s : State) (p : Nat) (f : Part → Part) : (s.modPart p f).srv = s.srv := rfl
@[simp] theorem State.modPart_smp (s : State) (p : Nat) (f : Part → Part) : (s.modPart p f).smp = s.smp := rfl
@[simp] theorem State.modPart_kvc (s : State) (p : Nat) (f : Part → Part) : (s.modPart p f).kvc = s.kvc := rfl
@[simp] theorem State.modPart_pwr (s : State) (p : Nat) (f : Part → Part) : (s.modPart p f).pwr = s.pwr := rfl
@[simp] theorem State.modPart_boot (s : State) (p : Nat) (f : Part → Part) : (s.modPart p f).boot = s.boot := rfl
@[simp] theorem State.modPart_thm (s : State) (p : Nat) (f : Part → Part) : (s.modPart p f).thm = s.thm := rfl
@[simp] theorem State.modPart_flt (s : State) (p : Nat) (f : Part → Part) : (s.modPart p f).flt = s.flt := rfl
@[simp] theorem State.modPart_mgt (s : State) (p : Nat) (f : Part → Part) : (s.modPart p f).mgt = s.mgt := rfl
@[simp] theorem State.modPart_sec (s : State) (p : Nat) (f : Part → Part) : (s.modPart p f).sec = s.sec := rfl
@[simp] theorem State.modPart_hif (s : State) (p : Nat) (f : Part → Part) : (s.modPart p f).hif = s.hif := rfl
@[simp] theorem State.modPart_edg (s : State) (p : Nat) (f : Part → Part) : (s.modPart p f).edg = s.edg := rfl
@[simp] theorem State.modPart_hostMem (s : State) (p : Nat) (f : Part → Part) : (s.modPart p f).hostMem = s.hostMem := rfl
@[simp] theorem State.modPart_rd_frame (s : State) (p : Nat) (f : Part → Part) (i : Nat) : (s.modPart p f).rd i = s.rd i := rfl
@[simp] theorem State.modPart_fld_frame (s : State) (p : Nat) (f : Part → Part) (i h l : Nat) : (s.modPart p f).fld i h l = s.fld i h l := rfl
@[simp] theorem State.modPart_coreAt_frame (s : State) (p : Nat) (f : Part → Part) (i : Nat) : (s.modPart p f).coreAt i = s.coreAt i := rfl
@[simp] theorem State.modPart_region_frame (s : State) (p : Nat) (f : Part → Part) (i : Nat) : (s.modPart p f).region i = s.region i := rfl

/-! ### Canonical form is kept -/

theorem Canonical.kept {s : State} (h : Canonical s) : Kept s.pending s := ⟨rfl, h⟩

theorem Canonical.wr {s : State} (h : Canonical s) (a : Nat) (v : Word) : Canonical (s.wr a v) := (State.wr_kept h.kept a v).ok
theorem Canonical.setFld {s : State} (h : Canonical s) (a hi lo v : Nat) : Canonical (s.setFld a hi lo v) := h.wr _ _
theorem Canonical.bump {s : State} (h : Canonical s) (a hi lo : Nat) : Canonical (s.bump a hi lo) := h.wr _ _
theorem Canonical.bumpBy {s : State} (h : Canonical s) (a hi lo n : Nat) : Canonical (s.bumpBy a hi lo n) := h.wr _ _
theorem Canonical.bumpSat {s : State} (h : Canonical s) (a hi lo : Nat) : Canonical (s.bumpSat a hi lo) := h.wr _ _
theorem Canonical.setCoreAt {s : State} (h : Canonical s) (k : Nat) (x : Core) : Canonical (s.setCoreAt k x) := (State.setCoreAt_kept h.kept k x).ok
theorem Canonical.modCoreAt {s : State} (h : Canonical s) (k : Nat) (f : Core → Core) : Canonical (s.modCoreAt k f) := h.setCoreAt _ _
theorem Canonical.setRegion {s : State} (h : Canonical s) (r : Nat) (x : Region) : Canonical (s.setRegion r x) := (State.setRegion_kept h.kept r x).ok
theorem Canonical.modRegion {s : State} (h : Canonical s) (r : Nat) (f : Region → Region) : Canonical (s.modRegion r f) := h.setRegion _ _
theorem Canonical.setPart {s : State} (h : Canonical s) (p : Nat) (x : Part) : Canonical (s.setPart p x) := (State.setPart_kept h.kept p x).ok
theorem Canonical.modPart {s : State} (h : Canonical s) (p : Nat) (f : Part → Part) : Canonical (s.modPart p f) := h.setPart _ _

/-! ### Registers -/

theorem State.rd_wr {s : State} (h : Canonical s) (a b : Nat) (v : Word) : (s.wr a v).rd b = if b = a then v else s.rd b := by
  rw [State.rd, State.wr, State.rd]
  simp only
  rw [tabFind_tabPut _ _ _ _ h.regs.1]
  by_cases hb : b = a
  · subst hb
    by_cases hv : v = regReset b <;> simp [hv]
  · simp [hb]

theorem State.rd_wr_same {s : State} (h : Canonical s) (a : Nat) (v : Word) : (s.wr a v).rd a = v := by simp [State.rd_wr h]
theorem State.rd_wr_ne {s : State} (h : Canonical s) {a b : Nat} (v : Word) (hb : b ≠ a) : (s.wr a v).rd b = s.rd b := by simp [State.rd_wr h, hb]
theorem State.rd_setFld {s : State} (h : Canonical s) (a hi lo v b : Nat) :
    (s.setFld a hi lo v).rd b = if b = a then setField (s.rd a) hi lo v else s.rd b := State.rd_wr h _ _ _
theorem State.rd_bump {s : State} (h : Canonical s) (a hi lo b : Nat) :
    (s.bump a hi lo).rd b = if b = a then bumpField (s.rd a) hi lo 1 else s.rd b := State.rd_wr h _ _ _
theorem State.rd_bumpBy {s : State} (h : Canonical s) (a hi lo n b : Nat) :
    (s.bumpBy a hi lo n).rd b = if b = a then bumpField (s.rd a) hi lo n else s.rd b := State.rd_wr h _ _ _

/-- The field written reads the value, as far as it is wide. -/
theorem State.fld_setFld {s : State} (h : Canonical s) (a hi lo v : Nat) (hw : hi < 32) : (s.setFld a hi lo v).fld a hi lo = v % 2 ^ (hi + 1 - lo) := by
  rw [State.fld, State.rd_setFld h, if_pos rfl, field_setField _ _ _ _ hw]

/-- A field apart from it keeps its value. -/
theorem State.fld_setFld_apart {s : State} (h : Canonical s) (a hi lo v hi' lo' : Nat) (hd : hi < lo' ∨ hi' < lo) :
    (s.setFld a hi lo v).fld a hi' lo' = s.fld a hi' lo' := by
  rw [State.fld, State.rd_setFld h, if_pos rfl, field_setField_apart _ _ _ _ _ _ hd, State.fld]

theorem State.fld_setFld_ne {s : State} (h : Canonical s) {a b : Nat} (hi lo v hi' lo' : Nat) (hb : b ≠ a) :
    (s.setFld a hi lo v).fld b hi' lo' = s.fld b hi' lo' := by
  rw [State.fld, State.rd_setFld h, if_neg hb, State.fld]

theorem State.fld_bump {s : State} (h : Canonical s) (a hi lo : Nat) (hw : hi < 32) :
    (s.bump a hi lo).fld a hi lo = (s.fld a hi lo + 1) % 2 ^ (hi + 1 - lo) := State.fld_setFld h a hi lo _ hw

/-! ### Cores, regions, partitions -/

theorem State.coreAt_setCoreAt {s : State} (h : Canonical s) (k i : Nat) (x : Core) : (s.setCoreAt k x).coreAt i = if i = k then x else s.coreAt i :=
  tabGet_tabSet k i x (tabWf_sorted h.cores)
theorem State.coreAt_modCoreAt {s : State} (h : Canonical s) (k i : Nat) (f : Core → Core) :
    (s.modCoreAt k f).coreAt i = if i = k then f (s.coreAt k) else s.coreAt i := State.coreAt_setCoreAt h _ _ _
theorem State.region_setRegion {s : State} (h : Canonical s) (r i : Nat) (x : Region) : (s.setRegion r x).region i = if i = r then x else s.region i :=
  tabGet_tabSet r i x (tabWf_sorted h.regions)
theorem State.region_modRegion {s : State} (h : Canonical s) (r i : Nat) (f : Region → Region) :
    (s.modRegion r f).region i = if i = r then f (s.region r) else s.region i := State.region_setRegion h _ _ _
theorem State.part_setPart {s : State} (h : Canonical s) (p i : Nat) (x : Part) : (s.setPart p x).part i = if i = p then x else s.part i :=
  tabGet_tabSet p i x (tabWf_sorted h.parts)
theorem State.part_modPart {s : State} (h : Canonical s) (p i : Nat) (f : Part → Part) :
    (s.modPart p f).part i = if i = p then f (s.part p) else s.part i := State.part_setPart h _ _ _

/-- Writing back what a key reads changes nothing. -/
theorem tabSet_get {α : Type} [DecidableEq α] {d : α} {t : Tab α} (k : Nat) (h : tabWf d t = true) : tabSet d t k (tabGet d t k) = t := by
  obtain ⟨hs, hd⟩ := (tabWf_iff d t).1 h
  rw [tabSorted_iff] at hs
  clear h
  induction t with
  | nil => simp [tabSet, tabGet, tabFind, tabPut]
  | cons e r ih =>
    obtain ⟨j, w⟩ := e
    rw [List.pairwise_cons] at hs
    have hr := ih hs.2 fun e he => hd e (List.mem_cons_of_mem _ he)
    have hw : w ≠ d := hd (j, w) (by simp)
    by_cases hj : j = k
    · subst hj
      simp [tabSet, tabGet, tabFind, tabPut, hw]
    · rw [tabSet, tabGet, tabFind, if_neg hj]
      rw [tabSet, tabGet] at hr
      by_cases hk : k < j
      · have hn : tabFind r k = none := tabFind_none_of_lt r k fun e he => lt_trans hk (hs.1 e he)
        simp [tabPut, hk, hn]
      · have hkj : ¬ k = j := fun h => hj h.symm
        simp only [tabPut, if_neg hk, if_neg hkj, hr]

theorem State.setCoreAt_coreAt {s : State} (h : Canonical s) (k : Nat) : s.setCoreAt k (s.coreAt k) = s := by
  have := tabSet_get (d := Core.zero) (t := s.cores) k h.cores
  rw [State.setCoreAt, State.coreAt, this]

/-- The last write at a key counts. -/
theorem tabPut_tabPut {α : Type} {t : Tab α} (k : Nat) (v w : Option α) (h : tabSorted t = true) : tabPut (tabPut t k v) k w = tabPut t k w := by
  rw [tabSorted_iff] at h
  induction t with
  | nil => cases v <;> cases w <;> simp [tabPut]
  | cons e r ih =>
    obtain ⟨j, x⟩ := e
    rw [List.pairwise_cons] at h
    have hr := ih h.2
    have hput : ∀ u : Option α, (∀ e ∈ r, k < e.1) → tabPut r k u = (match u with
        | some y => (k, y) :: r
        | none => r) := by
      intro u hu
      cases r with
      | nil => cases u <;> rfl
      | cons e r => cases u <;> simp [tabPut, hu e (by simp)]
    by_cases h1 : k < j
    · cases v <;> cases w <;> simp [tabPut, h1]
    · by_cases h2 : k = j
      · subst h2
        cases v with
        | none =>
          simp only [tabPut, lt_irrefl, if_false, if_true]
          exact hput w fun e he => h.1 e he
        | some y => cases w <;> simp [tabPut]
      · simp only [tabPut, if_neg h1, if_neg h2, hr]

theorem State.setCoreAt_setCoreAt {s : State} (h : Canonical s) (k : Nat) (x y : Core) : (s.setCoreAt k x).setCoreAt k y = s.setCoreAt k y := by
  have := tabPut_tabPut k (if x = Core.zero then none else some x) (if y = Core.zero then none else some y) (tabWf_sorted h.cores)
  simp only [State.setCoreAt, tabSet]
  rw [this]

theorem State.coreAt_set {s : State} (h : Canonical s) (k : Nat) (x : Core) : (s.setCoreAt k x).coreAt k = x := by
  rw [State.coreAt_setCoreAt h, if_pos rfl]

end Sys2Proof.Machine
end

