-- ==== Sys2Proof/Laws/Issue.lean ====
section
/-! SUPPORT. What one cycle of a core does when a single instruction issues in it and nothing lands. -/

namespace Sys2Proof.Machine

/-- With nothing due, no effect lands. -/
theorem Core.due_nil {x : Core} (h : ∀ f ∈ x.flight, x.now < f.due) : x.due = [] := by
  rw [Core.due, List.flatMap_eq_nil_iff]
  intro k _
  rw [List.map_eq_nil_iff, List.filter_eq_nil_iff]
  intro f hf
  have := h f hf
  simp [Nat.not_le.2 this]

theorem Core.land_nil {x : Core} (h : ∀ f ∈ x.flight, x.now < f.due) : x.land = (x, []) := by
  have hk : x.keep = x := by
    rw [Core.keep, List.filter_eq_self.2]
    intro f hf
    simp [h f hf]
  rw [Core.land, Core.due_nil h, hk]
  simp [Core.accumulateAll, ctrsOf, Core.landCtrs, List.filter_eq_nil_iff.2]

theorem State.refuseSealed_nil {s : State} (ok : Canonical s) {key : Nat} (h : ∀ f ∈ (s.coreAt key).flight, (s.coreAt key).now < f.due) :
    s.refuseSealed key = s := by
  rw [State.refuseSealed]
  have h1 : ∀ f ∈ (s.coreAt key).flight, decide (f.due ≤ (s.coreAt key).now) = false := fun f hf => by simp [h f hf]
  dsimp only
  rw [List.filter_eq_self.2 (by intro f hf; simp [h1 f hf]), List.filter_eq_nil_iff.2 (by intro f hf; simp [h1 f hf])]
  exact State.setCoreAt_coreAt ok key

theorem State.injLanding_nil {s : State} {key : Nat} (h : ∀ f ∈ (s.coreAt key).flight, (s.coreAt key).now < f.due) : s.injLanding key = s := by
  rw [State.injLanding, Core.due_nil h]
  simp

theorem Core.micros_nil {x : Core} (h : ∀ f ∈ x.flight, x.now < f.due) : x.dueMicros = [] ∧ x.dropMicros = x := by
  constructor
  · rw [Core.dueMicros, List.filterMap_eq_nil_iff]
    intro f hf
    have := Nat.not_le.2 (h f hf)
    split <;> simp [this]
  · rw [Core.dropMicros, List.filter_eq_self.2]
    intro f hf
    simp [h f hf]

/-- The cycle that issues one instruction alone: `u` is the state its start leaves, `w` that with the core stepped and the job ended if it completes;
what the core samples in this cycle leaves core z and raises nothing. -/
theorem State.coreCycle_ends {s : State} {k : Nat} {i : SlotIns} {get : Core → Option (List SlotIns × Bool)} (h : CanIssue s k i)
    (hg : get (s.coreAt k) = some ([i], false)) {u w : State} (hs : (s.modCoreAt k fun x => { x with hold := 0 }).startIns k i = u)
    (hz : (u.coreAt k).hold = 0) (ow : Canonical w)
    (hw : (u.setCoreAt k { (s.coreAt k).stepped i (u.coreAt k) with now := (u.coreAt k).now }).jobCompletes (s.coreAt k).part = w) {z : Core}
    (hq : runMicros (w.coreMode k) (w.coreAt k).dropMicros (w.coreAt k).dueMicros = (z, [])) :
    s.coreCycle k get = w.setCoreAt k { z with now := z.now + 1 } := by
  obtain ⟨ok, hrun, hdue, ⟨p, hpart, hstarted⟩, hstill, hdef, hwait, hroom, hfree, hcheck⟩ := h
  generalize hx : s.coreAt k = x at *
  generalize hy : u.coreAt k = y at *
  have hset : s.setCoreAt k x = s := by rw [← hx]; exact State.setCoreAt_coreAt ok k
  have hroom' : ((s.corePart k).stall = false ∧ i.slot = 4 ∧ 32 ≤ (s.injectQueue k).length) = False := by
    simp only [eq_iff_iff, iff_false, not_and, not_le]
    exact fun _ => hroom
  have hfail : s.failing k [i] = none := by simp [State.failing, hx, hfree, hcheck]
  have hz2 : (s.modCoreAt k fun x => { x with hold := 0 }).coreAt k = { x with hold := 0 } := by
    rw [State.modCoreAt, State.coreAt_set ok, hx]
  have hocc : Core.occupied { x with hold := 0 } i = false := hfree
  have hstart : (s.modCoreAt k fun x => { x with hold := 0 }).startAll k [i] = u := by
    simp only [State.startAll, hz2, hocc, Bool.false_eq_true, if_false]
    exact hs
  have hissue : s.issue k [i] false = w := by
    rw [State.issue]
    simp only [hx, hwait, hfail, hstart, List.any_cons, List.any_nil, Bool.or_false, Bool.false_and,
      Bool.and_eq_true, Bool.not_eq_true', decide_eq_true_eq, and_assoc, hroom', if_false, Bool.false_eq_true]
    rw [State.modCoreAt, hy]
    rw [← hw]
    simp [Core.stepped, hz]
  rw [State.coreCycle, State.refuseSealed_nil ok (by rw [hx]; exact hstill), State.injLanding_nil (by rw [hx]; exact hstill), hx,
    Core.land_nil hstill]
  simp only [hset, hrun, hdue, hg, if_true, true_and]
  rw [hissue]
  simp only [hq, State.setCoreAt_setCoreAt ow, State.raiseLate, List.foldl_nil]

/-- A core whose job is not in stall mode passes its own cycle. -/
theorem State.cycle_unlocked {s : State} {c : CoreId} {i : SlotIns} (h : Issuable s c i) (get : Core → Option (List SlotIns × Bool)) :
    s.cycle c get = s.coreCycle (CoreId_key c) get := by
  obtain ⟨p, hpart, -⟩ := h.job
  have hstall : (s.part p).stall = false := h.unlocked p hpart
  have hheld : s.coreHeld (some p) = false := hpart ▸ h.notHeld
  have hpow : (s.coreAt (CoreId_key c)).powered = true := h.powered
  rw [State.cycle]
  simp only [hpow, h.running, hheld, hpart, hstall]
  simp

theorem State.slotCycle_ends {s : State} {c : CoreId} {slot op : Nat} {o : BitVec 46} (h : Issuable s c { slot := slot, op := op, o := o }) {u w : State}
    (hs : (s.modCoreAt (CoreId_key c) fun x => { x with hold := 0 }).startIns (CoreId_key c) { slot := slot, op := op, o := o } = u)
    (hz : (u.coreAt (CoreId_key c)).hold = 0) (ow : Canonical w)
    (hw : (u.setCoreAt (CoreId_key c) { (s.core c).stepped { slot := slot, op := op, o := o } (u.coreAt (CoreId_key c)) with
        now := (u.coreAt (CoreId_key c)).now }).jobCompletes (s.core c).part = w) {z : Core}
    (hq : runMicros (w.coreMode (CoreId_key c)) (w.coreAt (CoreId_key c)).dropMicros (w.coreAt (CoreId_key c)).dueMicros = (z, [])) :
    s.slotCycle c slot op o = w.setCoreAt (CoreId_key c) { z with now := z.now + 1 } := by
  rw [State.slotCycle, State.cycle_unlocked h]
  exact State.coreCycle_ends h.toCanIssue (by simp [h.defined]) hs hz ow hw hq

/-- A started core that does not end in this cycle: the job does not complete. -/
theorem State.jobCompletes_running {u : State} (ou : Canonical u) {k : Nat} {q : Option Nat} (hst : ∀ p, q = some p → k ∈ (u.part p).started) (v : Core)
    (hv : v.phase = .running) : (u.setCoreAt k v).jobCompletes q = u.setCoreAt k v := by
  cases q with
  | none => rfl
  | some p =>
    simp only [State.jobCompletes]
    rw [if_neg]
    rintro ⟨-, -, -, hall⟩
    have := List.all_eq_true.1 hall k (hst p rfl)
    rw [State.coreAt_set ou, hv] at this
    simp at this

/-- The same, where the core runs on. -/
theorem State.slotCycle_start {s : State} {c : CoreId} {slot op : Nat} {o : BitVec 46} (h : Issuable s c { slot := slot, op := op, o := o }) {u : State}
    (hs : (s.modCoreAt (CoreId_key c) fun x => { x with hold := 0 }).startIns (CoreId_key c) { slot := slot, op := op, o := o } = u)
    (ou : Canonical u) (hr : (u.coreAt (CoreId_key c)).phase = .running) (hz : (u.coreAt (CoreId_key c)).hold = 0)
    (hst : ∀ p, (s.core c).part = some p → CoreId_key c ∈ (u.part p).started) {z : Core}
    (hq : runMicros ((u.setCoreAt (CoreId_key c) { (s.core c).stepped { slot := slot, op := op, o := o } (u.coreAt (CoreId_key c)) with
          now := (u.coreAt (CoreId_key c)).now }).coreMode (CoreId_key c))
        ({ (s.core c).stepped { slot := slot, op := op, o := o } (u.coreAt (CoreId_key c)) with now := (u.coreAt (CoreId_key c)).now } : Core).dropMicros
        ({ (s.core c).stepped { slot := slot, op := op, o := o } (u.coreAt (CoreId_key c)) with now := (u.coreAt (CoreId_key c)).now } : Core).dueMicros
      = (z, [])) :
    s.slotCycle c slot op o = u.setCoreAt (CoreId_key c) { z with now := z.now + 1 } := by
  rw [State.slotCycle_ends h hs hz (ou.setCoreAt _ _) (State.jobCompletes_running ou hst _ hr) (z := z), State.setCoreAt_setCoreAt ou]
  rw [State.coreAt_set ou]
  exact hq

/-- When the instruction's start samples nothing in this cycle. -/
theorem State.slotCycle_quiet {s : State} {c : CoreId} {slot op : Nat} {o : BitVec 46} (h : Issuable s c { slot := slot, op := op, o := o }) {u : State}
    (hs : (s.modCoreAt (CoreId_key c) fun x => { x with hold := 0 }).startIns (CoreId_key c) { slot := slot, op := op, o := o } = u)
    (ou : Canonical u) (hr : (u.coreAt (CoreId_key c)).phase = .running) (hz : (u.coreAt (CoreId_key c)).hold = 0)
    (hst : ∀ p, (s.core c).part = some p → CoreId_key c ∈ (u.part p).started)
    (hn : (u.coreAt (CoreId_key c)).now = (s.core c).now) (hf : ∀ g ∈ (u.coreAt (CoreId_key c)).flight, (u.coreAt (CoreId_key c)).now < g.due) :
    s.slotCycle c slot op o = u.setCoreAt (CoreId_key c) ((s.core c).stepped { slot := slot, op := op, o := o } (u.coreAt (CoreId_key c))) := by
  have hm := Core.micros_nil
    (x := { (s.core c).stepped { slot := slot, op := op, o := o } (u.coreAt (CoreId_key c)) with now := (u.coreAt (CoreId_key c)).now }) hf
  rw [State.slotCycle_start h hs ou hr hz hst
    (z := { (s.core c).stepped { slot := slot, op := op, o := o } (u.coreAt (CoreId_key c)) with now := (u.coreAt (CoreId_key c)).now })
    (by rw [hm.1, hm.2]; rfl)]
  simp only [Core.stepped, hn]

/-- A start that changes core x to f x; what it samples in this cycle leaves core z and raises nothing. -/
theorem State.slotCycle_samples {s : State} {c : CoreId} {slot op : Nat} {o : BitVec 46} (h : Issuable s c { slot := slot, op := op, o := o })
    (f : Core → Core)
    (hs : (s.modCoreAt (CoreId_key c) fun x => { x with hold := 0 }).startIns (CoreId_key c) { slot := slot, op := op, o := o }
      = (s.modCoreAt (CoreId_key c) fun x => { x with hold := 0 }).modCoreAt (CoreId_key c) f)
    (hh : f { s.core c with hold := 0 } = { f (s.core c) with hold := 0 })
    (hr : (f (s.core c)).phase = .running) (hn : (f (s.core c)).now = (s.core c).now)
    (hpt : (f (s.core c)).part = (s.core c).part) {z : Core}
    (hq : runMicros (s.coreMode (CoreId_key c))
        ({ (s.core c).stepped { slot := slot, op := op, o := o } (f (s.core c)) with now := (s.core c).now } : Core).dropMicros
        ({ (s.core c).stepped { slot := slot, op := op, o := o } (f (s.core c)) with now := (s.core c).now } : Core).dueMicros = (z, [])) :
    s.slotCycle c slot op o = s.setCoreAt (CoreId_key c) { z with now := z.now + 1 } := by
  have ok := h.ok
  have hu : (s.modCoreAt (CoreId_key c) fun x => { x with hold := 0 }).modCoreAt (CoreId_key c) f
      = s.setCoreAt (CoreId_key c) { f (s.core c) with hold := 0 } := by
    rw [State.modCoreAt, State.modCoreAt, State.coreAt_set ok, State.setCoreAt_setCoreAt ok]
    exact congrArg _ hh
  have hy : (s.setCoreAt (CoreId_key c) { f (s.core c) with hold := 0 }).coreAt (CoreId_key c) = { f (s.core c) with hold := 0 } :=
    State.coreAt_set ok _ _
  obtain ⟨p, hpart, hstarted⟩ := h.job
  rw [State.slotCycle_start h (hs.trans hu) (ok.setCoreAt _ _) (by rw [hy]; exact hr) (by rw [hy])
    (fun q hq => by
      rw [State.core, hpart] at hq
      injection hq with hq
      exact hq ▸ hstarted) (z := z), State.setCoreAt_setCoreAt ok]
  rw [hy]
  have hmode : ∀ v : Core, v.part = (s.core c).part →
      ((s.setCoreAt (CoreId_key c) { f (s.core c) with hold := 0 }).setCoreAt (CoreId_key c) v).coreMode (CoreId_key c) = s.coreMode (CoreId_key c) := by
    intro v hv
    rw [State.setCoreAt_setCoreAt ok]
    simp only [State.coreMode, State.corePart, State.coreAt_set ok, hv]
    rfl
  rw [hmode _ (by simp [Core.stepped, hpt])]
  simp only [Core.stepped, hn] at hq ⊢
  exact hq

/-- The same, when the instruction samples nothing in this cycle. -/
theorem State.slotCycle_issuable {s : State} {c : CoreId} {slot op : Nat} {o : BitVec 46} (h : Issuable s c { slot := slot, op := op, o := o })
    (f : Core → Core)
    (hs : (s.modCoreAt (CoreId_key c) fun x => { x with hold := 0 }).startIns (CoreId_key c) { slot := slot, op := op, o := o }
      = (s.modCoreAt (CoreId_key c) fun x => { x with hold := 0 }).modCoreAt (CoreId_key c) f)
    (hh : f { s.core c with hold := 0 } = { f (s.core c) with hold := 0 })
    (hr : (f (s.core c)).phase = .running) (hn : (f (s.core c)).now = (s.core c).now)
    (hpt : (f (s.core c)).part = (s.core c).part)
    (hf : ∀ g ∈ (f (s.core c)).flight, (s.core c).now < g.due) :
    s.slotCycle c slot op o = s.setCoreAt (CoreId_key c) ((s.core c).stepped { slot := slot, op := op, o := o } (f (s.core c))) := by
  have hm := Core.micros_nil (x := { (s.core c).stepped { slot := slot, op := op, o := o } (f (s.core c)) with now := (s.core c).now }) hf
  rw [State.slotCycle_samples h f hs hh hr hn hpt (z := { (s.core c).stepped { slot := slot, op := op, o := o } (f (s.core c)) with now := (s.core c).now })
    (by rw [hm.1, hm.2]; rfl)]
  rfl

theorem flight_push {l : List Flight} {n d k : Nat} {e : Eff} (h : ∀ f ∈ l, n < f.due) (hd : n < d) :
    ∀ f ∈ l ++ [{ due := d, slot := k, eff := e }], n < f.due := by
  intro f hf
  rcases List.mem_append.1 hf with hf | hf
  · exact h f hf
  · rw [List.mem_singleton.1 hf]
    exact hd

theorem flight_pushAll {l : List Flight} {n d k : Nat} {es : List Eff} (h : ∀ f ∈ l, n < f.due) (hd : n < d) :
    ∀ f ∈ l ++ es.map fun e => ({ due := d, slot := k, eff := e } : Flight), n < f.due := by
  intro f hf
  rcases List.mem_append.1 hf with hf | hf
  · exact h f hf
  · obtain ⟨e, _, rfl⟩ := List.mem_map.1 hf
    exact hd

end Sys2Proof.Machine
end

