-- ==== Sys2Proof/Laws/KeptCores.lean ====
section
/-! SUPPORT. What each operation and command keeps of queue and canonical form: cores, sequencers, the fabric. -/

namespace Sys2Proof.Machine

/-! ### SeqCpu -/

theorem State.seqWindow_kept {qs : List Instr} {s : State} (h : Kept qs s) (r : Nat) (off : Nat) (v : Word) :
    Kept qs (State.seqWindow s r off v) := by
  unfold State.seqWindow
  repeat' first
    | (with_reducible first | exact h | assumption | apply State.ringConfig_kept | apply State.sqEmit_kept | apply State.sqMov_kept
                             | apply State.modRegion_kept | apply State.pkPresent_kept | apply State.leStart_kept | apply kept_ite)
    | split

theorem State.seqStore_kept {qs : List Instr} {s : State} (h : Kept qs s) {r : Nat} {a : Nat} {n : Nat} {v : Nat} {s1 : State} (ht : State.seqStore s r a n v = .ok s1) :
    Kept qs s1 := by
  unfold State.seqStore at ht
  repeat' split at ht
  all_goals first
    | (injection ht with ht; subst ht)
    | cases ht
  repeat' first
    | (with_reducible first | exact h | apply State.sramWrite_kept | apply State.seqWindow_kept | apply State.bondWrite_kept)

theorem State.seqCheck_kept {qs : List Instr} {s : State} (h : Kept qs s) (r : Nat) (bonded : Option Nat) (chk : CodeCheck) :
    Kept qs (State.seqCheck s r bonded chk) := by
  unfold State.seqCheck
  repeat' first
    | (with_reducible first | exact h | assumption | apply State.bondCheck_kept | apply State.corrected_kept | apply kept_ite)
    | split

theorem State.retire_kept {qs : List Instr} {s : State} (h : Kept qs s) (r : Nat) (rd : Nat) (v : Word) (pc : Nat) (next : Nat) :
    Kept qs (State.retire s r rd v pc next) := by
  unfold State.retire
  repeat' first
    | (with_reducible first | exact h | apply State.modRegion_kept)

theorem State.seqExec_kept {qs : List Instr} {s : State} (h : Kept qs s) (r : Nat) (w : Word) (pc : Nat) (len : Nat) (chk : CodeCheck) :
    Kept qs (State.seqExec s r w pc len chk) := by
  unfold State.seqExec
  repeat' first
    | (with_reducible first | exact h | assumption | apply State.retire_kept | apply State.seqFault_kept | apply State.seqCheck_kept
                             | refine State.seqStore_kept ?_ (by assumption) | apply State.modRegion_kept | apply kept_hostMem
                             | (apply kept_foldl; intro s a h) | apply kept_ite)
    | simp only [kept_mk_iff, kept_mk_rim_iff]
    | split

theorem State.seqStep_kept {qs : List Instr} {s : State} (h : Kept qs s) (r : Nat) (chk : CodeCheck) :
    Kept qs (State.seqStep s r chk) := by
  unfold State.seqStep
  repeat' first
    | (with_reducible first | exact h | assumption | apply State.seqFault_kept | apply State.seqExec_kept | apply State.seqCheck_kept
                             | apply kept_hostMem | (apply kept_foldl; intro s a h) | apply kept_ite)
    | simp only [kept_mk_iff, kept_mk_rim_iff]
    | split

/-! ### Mov -/

theorem State.startSpool_kept {qs : List Instr} {s : State} (h : Kept qs s) (key : Nat) (o : BitVec 46) (write : Bool) :
    Kept qs (State.startSpool s key o write) := by
  unfold State.startSpool
  repeat' first
    | (with_reducible first | exact h | assumption | apply State.setCoreAt_kept | apply State.rimRefused_kept | apply State.setPart_kept
                             | apply kept_ite)
    | split

/-! ### Ctl -/

theorem State.startStl_kept {qs : List Instr} {s : State} (h : Kept qs s) (key : Nat) (o : BitVec 46) :
    Kept qs (State.startStl s key o) := by
  unfold State.startStl
  repeat' first
    | (with_reducible first | exact h | assumption | apply State.setPart_kept | apply kept_ite)
    | split

theorem State.startTrc_kept {qs : List Instr} {s : State} (h : Kept qs s) (key : Nat) (o : BitVec 46) :
    Kept qs (State.startTrc s key o) := by
  unfold State.startTrc
  repeat' first
    | (with_reducible first | exact h | assumption | apply State.modRegion_kept | apply kept_hostMem | (apply kept_foldl; intro s a h)
                             | apply kept_ite)
    | simp only [kept_mk_iff, kept_mk_rim_iff]
    | split

/-! ### Net -/

theorem State.inject_kept {qs : List Instr} {s : State} (h : Kept qs s) (f : Flit) :
    Kept qs (State.inject s f) := by
  unfold State.inject
  repeat' first
    | (with_reducible first | exact h)
    | simp only [kept_mk_iff]

theorem State.startSnd_kept {qs : List Instr} {s : State} (h : Kept qs s) (key : Nat) (o : BitVec 46) :
    Kept qs (State.startSnd s key o) := by
  unfold State.startSnd
  repeat' first
    | (with_reducible first | exact h | apply State.setCoreAt_kept | apply State.inject_kept)
    | simp only [kept_mk_iff]

theorem State.startMcs_kept {qs : List Instr} {s : State} (h : Kept qs s) (key : Nat) (o : BitVec 46) :
    Kept qs (State.startMcs s key o) := by
  unfold State.startMcs
  repeat' first
    | (with_reducible first | exact h | apply State.setCoreAt_kept | apply State.inject_kept)
    | simp only [kept_mk_iff]

theorem State.startRds_kept {qs : List Instr} {s : State} (h : Kept qs s) (key : Nat) (o : BitVec 46) :
    Kept qs (State.startRds s key o) := by
  unfold State.startRds
  repeat' first
    | (with_reducible first | exact h | apply State.inject_kept)
    | simp only [kept_mk_iff]

theorem State.startSig_kept {qs : List Instr} {s : State} (h : Kept qs s) (key : Nat) (o : BitVec 46) :
    Kept qs (State.startSig s key o) := by
  unfold State.startSig
  repeat' first
    | (with_reducible first | exact h | apply State.inject_kept | apply kept_ite)
    | simp only [kept_mk_iff]

/-! ### Issue -/

theorem State.startIns_kept {qs : List Instr} {s : State} (h : Kept qs s) (key : Nat) (i : SlotIns) :
    Kept qs (State.startIns s key i) := by
  unfold State.startIns
  repeat' first
    | (with_reducible first | exact h | apply State.startStl_kept | apply State.startTrc_kept | apply State.modCoreAt_kept
                             | apply State.startSpool_kept | apply State.startSnd_kept | apply State.startMcs_kept | apply State.startRds_kept
                             | apply State.startSig_kept)
    | split

theorem State.detect_kept {qs : List Instr} {s : State} (h : Kept qs s) (key : Nat) (slot : Nat) (code : Nat) (pc : Nat) (info : Nat) :
    Kept qs (State.detect s key slot code pc info) := by
  unfold State.detect
  repeat' first
    | (with_reducible first | exact h | apply State.modCoreAt_kept | apply State.jobFatal_kept)

theorem State.startAll_kept {qs : List Instr} {s : State} (h : Kept qs s) (key : Nat) (x2 : List SlotIns) :
    Kept qs (State.startAll s key x2) := by
  induction x2 generalizing s with
  | nil => exact h
  | cons i t ih =>
    unfold State.startAll
    repeat' first
      | (with_reducible first | exact h | assumption | apply ih | apply State.modCoreAt_kept | apply State.startIns_kept | apply kept_ite)
      | split

theorem State.holdBundle_kept {qs : List Instr} {s : State} (h : Kept qs s) (key : Nat) (slot : Nat) (info : Nat) (limit : Nat) :
    Kept qs (State.holdBundle s key slot info limit) := by
  unfold State.holdBundle
  repeat' first
    | (with_reducible first | exact h | assumption | apply State.modCoreAt_kept | apply State.detect_kept | apply kept_ite)
    | split

theorem State.jobCompletes_kept {qs : List Instr} {s : State} (h : Kept qs s) (p : Option Nat) :
    Kept qs (State.jobCompletes s p) := by
  unfold State.jobCompletes
  repeat' first
    | (with_reducible first | exact h | assumption | apply State.setPState_kept | apply State.setPart_kept | apply State.setFld_kept | apply kept_ite)
    | split

theorem State.issue_kept {qs : List Instr} {s : State} (h : Kept qs s) (key : Nat) (ops : List SlotIns) (tb : Bool) :
    Kept qs (State.issue s key ops tb) := by
  unfold State.issue
  repeat' first
    | (with_reducible first | exact h | assumption | apply State.detect_kept | apply State.holdBundle_kept | apply State.startAll_kept
                             | apply State.modCoreAt_kept | apply State.jobCompletes_kept | apply kept_hostMem | (apply kept_foldl; intro s a h)
                             | apply kept_ite)
    | simp only [kept_mk_iff, kept_mk_rim_iff]
    | split

theorem State.refuseSealed_kept {qs : List Instr} {s : State} (h : Kept qs s) (key : Nat) :
    Kept qs (State.refuseSealed s key) := by
  unfold State.refuseSealed
  repeat' first
    | (with_reducible first | exact h | assumption | apply State.setCoreAt_kept | apply State.memFatal_kept | apply State.bump_kept
                             | apply kept_hostMem | (apply kept_foldl; intro s a h) | apply kept_ite)
    | simp only [kept_mk_iff, kept_mk_rim_iff]
    | split

theorem State.raiseLate_kept {qs : List Instr} {s : State} (h : Kept qs s) (key : Nat) (pc : Nat) (x3 : Late) :
    Kept qs (State.raiseLate s key pc x3) := by
  induction x3 generalizing s with
  | nil => exact h
  | cons i t ih => exact ih (State.detect_kept h _ _ _ _ _)

theorem State.injLanding_kept {qs : List Instr} {s : State} (h : Kept qs s) (key : Nat) :
    Kept qs (State.injLanding s key) := by
  unfold State.injLanding
  repeat' first
    | (with_reducible first | exact h | assumption | apply State.injStore_kept | apply kept_hostMem | (apply kept_foldl; intro s a h)
                             | apply kept_ite)
    | simp only [kept_mk_iff, kept_mk_rim_iff]
    | split

theorem State.coreCycle_kept {qs : List Instr} {s : State} (h : Kept qs s) (key : Nat) (get : Core → Option (List SlotIns × Bool)) :
    Kept qs (State.coreCycle s key get) := by
  unfold State.coreCycle
  repeat' first
    | (with_reducible first | exact h | assumption | apply State.injLanding_kept | apply State.refuseSealed_kept | apply State.setCoreAt_kept
                             | apply State.issue_kept | apply State.detect_kept | apply State.raiseLate_kept | apply kept_hostMem
                             | (apply kept_foldl; intro s a h) | apply kept_ite)
    | simp only [kept_mk_iff, kept_mk_rim_iff]
    | split

theorem State.endWall_kept {qs : List Instr} {s : State} (h : Kept qs s) (p : Nat) :
    Kept qs (State.endWall s p) := by
  unfold State.endWall
  repeat' first
    | (with_reducible first | exact h | assumption | apply State.bump_kept | apply State.setPart_kept | apply kept_ite)
    | split

theorem State.cycle_kept {qs : List Instr} {s : State} (h : Kept qs s) (c : CoreId) (get : Core → Option (List SlotIns × Bool)) :
    Kept qs (State.cycle s c get) := by
  unfold State.cycle
  repeat' first
    | (with_reducible first | exact h | assumption | apply State.coreCycle_kept | apply State.modPart_kept | apply State.endWall_kept
                             | apply kept_ite)
    | simp only [kept_mk_iff]
    | split

theorem State.slotCycle_kept {qs : List Instr} {s : State} (h : Kept qs s) (c : CoreId) (slot : Nat) (op : Nat) (o : BitVec 46) :
    Kept qs (State.slotCycle s c slot op o) := by
  unfold State.slotCycle
  repeat' first
    | (with_reducible first | exact h | apply State.cycle_kept)

/-! ### Fabric -/

theorem State.countFlit_kept {qs : List Instr} {s : State} (h : Kept qs s) (r : Nat) (q : Nat) :
    Kept qs (State.countFlit s r q) := by
  unfold State.countFlit
  repeat' first
    | (with_reducible first | exact h | assumption | apply State.bump_kept | apply State.injSend_kept | apply kept_ite)
    | split

theorem State.countHold_kept {qs : List Instr} {s : State} (h : Kept qs s) (r : Nat) (q : Nat) :
    Kept qs (State.countHold s r q) := by
  unfold State.countHold
  repeat' first
    | (with_reducible first | exact h | apply State.bump_kept)

theorem State.setFlits_kept {qs : List Instr} {s : State} (h : Kept qs s) (l : List Flit) :
    Kept qs (State.setFlits s l) := by
  unfold State.setFlits
  repeat' first
    | (with_reducible first | exact h)
    | simp only [kept_mk_iff]

theorem State.dropFlit_kept {qs : List Instr} {s : State} (h : Kept qs s) (i : Nat) :
    Kept qs (State.dropFlit s i) := by
  unfold State.dropFlit
  repeat' first
    | (with_reducible first | exact h | apply State.setFlits_kept)

theorem State.addFlit_kept {qs : List Instr} {s : State} (h : Kept qs s) (f : Flit) :
    Kept qs (State.addFlit s f) := by
  unfold State.addFlit
  repeat' first
    | (with_reducible first | exact h | apply State.setFlits_kept)

theorem State.sendRing_kept {qs : List Instr} {s : State} (h : Kept qs s) {f : Flit} {r : Nat} {q : Nat} {need : Nat} {s1 : State} (ht : State.sendRing s f r q need = some s1) :
    Kept qs s1 := by
  unfold State.sendRing at ht
  dsimp only at ht
  repeat' split at ht
  all_goals first
    | (injection ht with ht; subst ht)
    | cases ht
  repeat' first
    | (with_reducible first | exact h | apply State.countFlit_kept | apply State.addFlit_kept)

theorem State.waitFlit_kept {qs : List Instr} {s : State} (h : Kept qs s) (i : Nat) (r : Nat) (o : Nat) (f : Flit) :
    Kept qs (State.waitFlit s i r o f) := by
  unfold State.waitFlit
  repeat' first
    | (with_reducible first | exact h | apply State.countHold_kept | apply State.setFlits_kept)

theorem State.sendRing_getD_kept {qs : List Instr} {s t : State} (h : Kept qs s) (ht : Kept qs t) (f : Flit) (r q need : Nat) :
    Kept qs ((s.sendRing f r q need).getD t) := by
  cases hs : s.sendRing f r q need with
  | none => exact ht
  | some u => exact State.sendRing_kept h hs

theorem State.hop_kept {qs : List Instr} {s : State} (h : Kept qs s) (i : Nat) (singleBitError : Bool) :
    Kept qs (State.hop s i singleBitError) := by
  unfold State.hop
  repeat' first
    | (with_reducible first | exact h | assumption | apply State.sendRing_getD_kept | apply State.corrected_kept | apply State.bump_kept
                             | apply State.violation_kept | apply State.dropFlit_kept | apply State.addFlit_kept | apply State.countFlit_kept
                             | apply State.waitFlit_kept | refine State.sendRing_kept ?_ (by assumption) | apply kept_hostMem
                             | (apply kept_foldl; intro s a h) | apply kept_ite)
    | simp only [kept_mk_iff, kept_mk_rim_iff]
    | split

theorem execFlitHop_kept {qs : List Instr} {s : State} (h : Kept qs s) (i : Nat) (singleBitError : Bool) {s1 : State} (ht : execFlitHop i singleBitError s = .next s1) :
    Kept qs s1 := by
  unfold execFlitHop at ht
  first
    | (injection ht with ht; subst ht)
    | (split at ht <;> (injection ht with ht; subst ht))
  repeat' first
    | (with_reducible first | exact h | apply State.hop_kept)

theorem State.linkFaults_kept {qs : List Instr} {s : State} (h : Kept qs s) (ps : List Nat) (loc : Word) :
    Kept qs (State.linkFaults s ps loc) := by
  unfold State.linkFaults
  repeat' first
    | (with_reducible first | exact h | assumption | apply State.jobFatal_kept | apply kept_hostMem | (apply kept_foldl; intro s a h)
                             | apply kept_ite)
    | simp only [kept_mk_iff, kept_mk_rim_iff]
    | split

theorem State.hubStop_kept {qs : List Instr} {s : State} (h : Kept qs s) (r : Nat) :
    Kept qs (State.hubStop s r) := by
  unfold State.hubStop
  repeat' first
    | (with_reducible first | exact h | assumption | apply State.modRegion_kept | apply State.jobFatal_kept | apply kept_hostMem
                             | (apply kept_foldl; intro s a h) | apply kept_ite)
    | simp only [kept_mk_iff, kept_mk_rim_iff]
    | split

theorem execLinkReplay_kept {qs : List Instr} {s : State} (h : Kept qs s) (r : Nat) (q : Nat) {s1 : State} (ht : execLinkReplay r q s = .next s1) :
    Kept qs s1 := by
  unfold execLinkReplay at ht
  first
    | (injection ht with ht; subst ht)
    | (split at ht <;> (injection ht with ht; subst ht))
  repeat' first
    | (with_reducible first | exact h | assumption | apply State.corrected_kept | apply State.bump_kept | apply kept_hostMem
                             | (apply kept_foldl; intro s a h) | apply kept_ite)
    | simp only [kept_mk_iff, kept_mk_rim_iff]
    | split

theorem execLinkFailure_kept {qs : List Instr} {s : State} (h : Kept qs s) (r : Nat) (q : Nat) {s1 : State} (ht : execLinkFailure r q s = .next s1) :
    Kept qs s1 := by
  unfold execLinkFailure at ht
  first
    | (injection ht with ht; subst ht)
    | (split at ht <;> (injection ht with ht; subst ht))
  repeat' first
    | (with_reducible first | exact h | assumption | apply State.setFld_kept | apply State.linkFaults_kept | apply State.bump_kept
                             | apply kept_hostMem | (apply kept_foldl; intro s a h) | apply kept_ite)
    | simp only [kept_mk_iff, kept_mk_rim_iff]
    | split

theorem State.hubDies_kept {qs : List Instr} {s : State} (h : Kept qs s) (r : Nat) :
    Kept qs (State.hubDies s r) := by
  unfold State.hubDies
  repeat' first
    | (with_reducible first | exact h | apply State.regionDies_kept | apply State.hubStop_kept)
    | simp only [kept_mk_iff]

theorem execHubLinkTest_kept {qs : List Instr} {s : State} (h : Kept qs s) (r : Nat) (q : Nat) (receiverFails : Bool) (senderFails : Bool) {s1 : State} (ht : execHubLinkTest r q receiverFails senderFails s = .next s1) :
    Kept qs s1 := by
  unfold execHubLinkTest at ht
  first
    | (injection ht with ht; subst ht)
    | (split at ht <;> (injection ht with ht; subst ht))
  repeat' first
    | (with_reducible first | exact h | assumption | apply State.hubDies_kept | apply kept_ite)
    | split

theorem State.copyLocal_kept {qs : List Instr} {s : State} (h : Kept qs s) {f : Flit} {r : Nat} {dest : Nat} {s1 : State} (ht : State.copyLocal s f r dest = some s1) :
    Kept qs s1 := by
  unfold State.copyLocal at ht
  split at ht
  · cases ht
  · injection ht with ht
    subst ht
    exact State.addFlit_kept h _

theorem State.takeBranch_kept {qs : List Instr} {s : State} (h : Kept qs s) {f : Flit} {r : Nat} {b : Branch} {s1 : State} (ht : State.takeBranch s f r b = some s1) :
    Kept qs s1 := by
  unfold State.takeBranch at ht
  repeat' split at ht
  · exact State.sendRing_kept h ht
  · injection ht with ht
    subst ht
    exact State.countFlit_kept (State.addFlit_kept h _) _ _
  · cases ht
  · exact State.copyLocal_kept h ht
  · injection ht with ht
    exact ht ▸ h
  · exact State.copyLocal_kept h ht

theorem State.takeBranches_kept {qs : List Instr} {s : State} (h : Kept qs s) (f : Flit) (r : Nat) (x3 : List Branch) :
    Kept qs (State.takeBranches s f r x3).1 := by
  induction x3 generalizing s with
  | nil => exact h
  | cons b t ih =>
    unfold State.takeBranches
    split
    · rename_i ht
      exact ih (State.takeBranch_kept h ht)
    · apply ih
      repeat' first
        | (with_reducible first | exact h | assumption | refine State.takeBranch_kept ?_ (by assumption) | apply State.countHold_kept
                                 | apply kept_ite)
        | split

theorem State.replicate_kept {qs : List Instr} {s : State} (h : Kept qs s) (i : Nat) :
    Kept qs (State.replicate s i) := by
  unfold State.replicate
  repeat' first
    | (with_reducible first | exact h | assumption | apply State.violation_kept | apply State.dropFlit_kept | apply State.takeBranches_kept
                             | apply State.setFlits_kept | apply kept_ite)
    | simp only [kept_mk_iff]
    | split

theorem execMulticastReplicate_kept {qs : List Instr} {s : State} (h : Kept qs s) (i : Nat) {s1 : State} (ht : execMulticastReplicate i s = .next s1) :
    Kept qs s1 := by
  unfold execMulticastReplicate at ht
  first
    | (injection ht with ht; subst ht)
    | (split at ht <;> (injection ht with ht; subst ht))
  repeat' first
    | (with_reducible first | exact h | apply State.replicate_kept)

theorem State.stallLog_kept {qs : List Instr} {s : State} (h : Kept qs s) (kind : Nat) (part : Nat) (index : Nat) (target : Nat) (r : Nat) :
    Kept qs (State.stallLog s kind part index target r) := by
  unfold State.stallLog
  repeat' first
    | (with_reducible first | exact h | assumption | apply State.wr_kept | apply kept_ite)
    | split

theorem execMulticastStallTimeout_kept {qs : List Instr} {s : State} (h : Kept qs s) (i : Nat) (branch : Nat) {s1 : State} (ht : execMulticastStallTimeout i branch s = .next s1) :
    Kept qs s1 := by
  unfold execMulticastStallTimeout at ht
  first
    | (injection ht with ht; subst ht)
    | (split at ht <;> (injection ht with ht; subst ht))
  repeat' first
    | (with_reducible first | exact h | assumption | apply State.setFlits_kept | apply State.jobFatal_kept | apply State.stallLog_kept
                             | apply kept_ite)
    | split

theorem State.setRounds_kept {qs : List Instr} {s : State} (h : Kept qs s) (l : List Round) :
    Kept qs (State.setRounds s l) := by
  unfold State.setRounds
  repeat' first
    | (with_reducible first | exact h)
    | simp only [kept_mk_iff]

theorem State.contribute_kept {qs : List Instr} {s : State} (h : Kept qs s) (i : Nat) :
    Kept qs (State.contribute s i) := by
  unfold State.contribute
  repeat' first
    | (with_reducible first | exact h | assumption | apply State.violation_kept | apply State.dropFlit_kept | apply State.setRounds_kept
                             | apply kept_hostMem | (apply kept_foldl; intro s a h) | apply kept_ite)
    | simp only [kept_mk_iff, kept_mk_rim_iff]
    | split

theorem execReduceContribution_kept {qs : List Instr} {s : State} (h : Kept qs s) (i : Nat) {s1 : State} (ht : execReduceContribution i s = .next s1) :
    Kept qs s1 := by
  unfold execReduceContribution at ht
  first
    | (injection ht with ht; subst ht)
    | (split at ht <;> (injection ht with ht; subst ht))
  repeat' first
    | (with_reducible first | exact h | apply State.contribute_kept)

theorem State.forwardRound_kept {qs : List Instr} {s : State} (h : Kept qs s) (i : Nat) :
    Kept qs (State.forwardRound s i) := by
  unfold State.forwardRound
  repeat' first
    | (with_reducible first | exact h | assumption | refine State.sendRing_kept ?_ (by assumption) | apply State.countHold_kept
                             | apply State.addFlit_kept | apply kept_hostMem | (apply kept_foldl; intro s a h) | apply kept_ite)
    | simp only [kept_mk_iff, kept_mk_rim_iff]
    | split

theorem execReductionRoundForward_kept {qs : List Instr} {s : State} (h : Kept qs s) (i : Nat) {s1 : State} (ht : execReductionRoundForward i s = .next s1) :
    Kept qs s1 := by
  unfold execReductionRoundForward at ht
  first
    | (injection ht with ht; subst ht)
    | (split at ht <;> (injection ht with ht; subst ht))
  repeat' first
    | (with_reducible first | exact h | apply State.forwardRound_kept)

theorem execReductionStallTimeout_kept {qs : List Instr} {s : State} (h : Kept qs s) (i : Nat) {s1 : State} (ht : execReductionStallTimeout i s = .next s1) :
    Kept qs s1 := by
  unfold execReductionStallTimeout at ht
  first
    | (injection ht with ht; subst ht)
    | (split at ht <;> (injection ht with ht; subst ht))
  repeat' first
    | (with_reducible first | exact h | assumption | apply State.jobFatal_kept | apply State.stallLog_kept | apply kept_hostMem
                             | (apply kept_foldl; intro s a h) | apply kept_ite)
    | simp only [kept_mk_iff, kept_mk_rim_iff]
    | split

theorem State.buildMap_kept {qs : List Instr} {s : State} (h : Kept qs s) (cycles : Nat) :
    Kept qs (State.buildMap s cycles) := by
  unfold State.buildMap
  repeat' first
    | (with_reducible first | exact h | assumption | apply State.setFld_kept | apply kept_hostMem | (apply kept_foldl; intro s a h) | apply kept_ite)
    | simp only [kept_mk_iff, kept_mk_rim_iff]
    | split

theorem execCmapPeriodTick_kept {qs : List Instr} {s : State} (h : Kept qs s) (cycles : Nat) {s1 : State} (ht : execCmapPeriodTick cycles s = .next s1) :
    Kept qs s1 := by
  unfold execCmapPeriodTick at ht
  first
    | (injection ht with ht; subst ht)
    | (split at ht <;> (injection ht with ht; subst ht))
  repeat' first
    | (with_reducible first | exact h | apply State.buildMap_kept)

theorem execFabCfgWrite_kept {qs : List Instr} {s : State} (h : Kept qs s) (v : Word) {s1 : State} (ht : execFabCfgWrite v s = .next s1) :
    Kept qs s1 := by
  unfold execFabCfgWrite at ht
  first
    | (injection ht with ht; subst ht)
    | (split at ht <;> (injection ht with ht; subst ht))
  repeat' first
    | (with_reducible first | exact h | apply State.writeRW_kept | apply kept_ite)

theorem execFabViolLogClear_kept {qs : List Instr} {s : State} (h : Kept qs s) (v : Word) {s1 : State} (ht : execFabViolLogClear v s = .next s1) :
    Kept qs s1 := by
  unfold execFabViolLogClear at ht
  first
    | (injection ht with ht; subst ht)
    | (split at ht <;> (injection ht with ht; subst ht))
  repeat' first
    | (with_reducible first | exact h | assumption | apply State.reservedBits_kept | apply State.wr_kept | apply kept_ite)
    | split

theorem execFabStallLogClear_kept {qs : List Instr} {s : State} (h : Kept qs s) (v : Word) {s1 : State} (ht : execFabStallLogClear v s = .next s1) :
    Kept qs s1 := by
  unfold execFabStallLogClear at ht
  first
    | (injection ht with ht; subst ht)
    | (split at ht <;> (injection ht with ht; subst ht))
  repeat' first
    | (with_reducible first | exact h | assumption | apply State.reservedBits_kept | apply State.wr_kept | apply kept_ite)
    | split

theorem execFabCmapData0Read_kept {qs : List Instr} {s : State} (h : Kept qs s) (port : Nat) {s1 : State} (ht : execFabCmapData0Read port s = .next s1) :
    Kept qs s1 := by
  unfold execFabCmapData0Read at ht
  first
    | (injection ht with ht; subst ht)
    | (split at ht <;> (injection ht with ht; subst ht))
  repeat' first
    | (with_reducible first | exact h | apply State.capture_kept)

/-! ### SeqCmds -/

theorem execSeqInstruction_kept {qs : List Instr} {s : State} (h : Kept qs s) (r : Nat) (chk : CodeCheck) {s1 : State} (ht : execSeqInstruction r chk s = .next s1) :
    Kept qs s1 := by
  unfold execSeqInstruction at ht
  first
    | (injection ht with ht; subst ht)
    | (split at ht <;> (injection ht with ht; subst ht))
  repeat' first
    | (with_reducible first | exact h | assumption | apply State.seqStep_kept | apply State.modRegion_kept | apply kept_ite)
    | split

theorem execSeqArrival_kept {qs : List Instr} {s : State} (h : Kept qs s) (i : Nat) {s1 : State} (ht : execSeqArrival i s = .next s1) :
    Kept qs s1 := by
  unfold execSeqArrival at ht
  first
    | (injection ht with ht; subst ht)
    | (split at ht <;> (injection ht with ht; subst ht))
  repeat' first
    | (with_reducible first | exact h | assumption | apply State.dropFlit_kept | apply State.violation_kept | apply State.sramWrite_kept
                             | apply State.scAdd_kept | apply kept_ite)
    | split

theorem execSqRingConfig_kept {qs : List Instr} {s : State} (h : Kept qs s) (r : Nat) (off : Nat) (v : Word) {s1 : State} (ht : execSqRingConfig r off v s = .next s1) :
    Kept qs s1 := by
  unfold execSqRingConfig at ht
  first
    | (injection ht with ht; subst ht)
    | (split at ht <;> (injection ht with ht; subst ht))
  repeat' first
    | (with_reducible first | exact h | assumption | apply State.ringConfig_kept | apply kept_ite)
    | split

theorem execSqEmit_kept {qs : List Instr} {s : State} (h : Kept qs s) (r : Nat) (v : Word) {s1 : State} (ht : execSqEmit r v s = .next s1) :
    Kept qs s1 := by
  unfold execSqEmit at ht
  first
    | (injection ht with ht; subst ht)
    | (split at ht <;> (injection ht with ht; subst ht))
  repeat' first
    | (with_reducible first | exact h | assumption | apply State.sqEmit_kept | apply kept_ite)
    | split

theorem execEmissionDelivery_kept {qs : List Instr} {s : State} (h : Kept qs s) (r : Nat) {s1 : State} (ht : execEmissionDelivery r s = .next s1) :
    Kept qs s1 := by
  unfold execEmissionDelivery at ht
  first
    | (injection ht with ht; subst ht)
    | (split at ht <;> (injection ht with ht; subst ht))
  repeat' first
    | (with_reducible first | exact h | assumption | apply State.landEmission_kept | apply State.modRegion_kept | apply kept_ite)
    | split

theorem execSqMov_kept {qs : List Instr} {s : State} (h : Kept qs s) (r : Nat) (v : Word) {s1 : State} (ht : execSqMov r v s = .next s1) :
    Kept qs s1 := by
  unfold execSqMov at ht
  first
    | (injection ht with ht; subst ht)
    | (split at ht <;> (injection ht with ht; subst ht))
  repeat' first
    | (with_reducible first | exact h | assumption | apply State.sqMov_kept | apply kept_ite)
    | split

theorem execMoverCompletion_kept {qs : List Instr} {s : State} (h : Kept qs s) (r : Nat) (chk : CodeCheck) {s1 : State} (ht : execMoverCompletion r chk s = .next s1) :
    Kept qs s1 := by
  unfold execMoverCompletion at ht
  first
    | (injection ht with ht; subst ht)
    | (split at ht <;> (injection ht with ht; subst ht))
  repeat' first
    | (with_reducible first | exact h | apply State.moverDone_kept)

theorem execAlloc_kept {qs : List Instr} {s : State} (h : Kept qs s) (r : Nat) (grp : Nat) (tent : Bool) {s1 : State} (ht : execAlloc r grp tent s = .next s1) :
    Kept qs s1 := by
  unfold execAlloc at ht
  first
    | (injection ht with ht; subst ht)
    | (split at ht <;> (injection ht with ht; subst ht))
  repeat' first
    | (with_reducible first | exact h | apply State.keeperCmd_kept)

theorem execRef_kept {qs : List Instr} {s : State} (h : Kept qs s) (r : Nat) (page : Nat) {s1 : State} (ht : execRef r page s = .next s1) :
    Kept qs s1 := by
  unfold execRef at ht
  first
    | (injection ht with ht; subst ht)
    | (split at ht <;> (injection ht with ht; subst ht))
  repeat' first
    | (with_reducible first | exact h | apply State.keeperCmd_kept)

theorem execDeref_kept {qs : List Instr} {s : State} (h : Kept qs s) (r : Nat) (page : Nat) {s1 : State} (ht : execDeref r page s = .next s1) :
    Kept qs s1 := by
  unfold execDeref at ht
  first
    | (injection ht with ht; subst ht)
    | (split at ht <;> (injection ht with ht; subst ht))
  repeat' first
    | (with_reducible first | exact h | apply State.keeperCmd_kept)

theorem execPin_kept {qs : List Instr} {s : State} (h : Kept qs s) (r : Nat) (page : Nat) {s1 : State} (ht : execPin r page s = .next s1) :
    Kept qs s1 := by
  unfold execPin at ht
  first
    | (injection ht with ht; subst ht)
    | (split at ht <;> (injection ht with ht; subst ht))
  repeat' first
    | (with_reducible first | exact h | apply State.keeperCmd_kept)

theorem execUnpin_kept {qs : List Instr} {s : State} (h : Kept qs s) (r : Nat) (page : Nat) {s1 : State} (ht : execUnpin r page s = .next s1) :
    Kept qs s1 := by
  unfold execUnpin at ht
  first
    | (injection ht with ht; subst ht)
    | (split at ht <;> (injection ht with ht; subst ht))
  repeat' first
    | (with_reducible first | exact h | apply State.keeperCmd_kept)

theorem execCopy_kept {qs : List Instr} {s : State} (h : Kept qs s) (r : Nat) (page : Nat) {s1 : State} (ht : execCopy r page s = .next s1) :
    Kept qs s1 := by
  unfold execCopy at ht
  first
    | (injection ht with ht; subst ht)
    | (split at ht <;> (injection ht with ht; subst ht))
  repeat' first
    | (with_reducible first | exact h | apply State.keeperCmd_kept)

theorem execCommit_kept {qs : List Instr} {s : State} (h : Kept qs s) (r : Nat) (page : Nat) {s1 : State} (ht : execCommit r page s = .next s1) :
    Kept qs s1 := by
  unfold execCommit at ht
  first
    | (injection ht with ht; subst ht)
    | (split at ht <;> (injection ht with ht; subst ht))
  repeat' first
    | (with_reducible first | exact h | apply State.keeperCmd_kept)

theorem execEvict_kept {qs : List Instr} {s : State} (h : Kept qs s) (r : Nat) (page : Nat) {s1 : State} (ht : execEvict r page s = .next s1) :
    Kept qs s1 := by
  unfold execEvict at ht
  first
    | (injection ht with ht; subst ht)
    | (split at ht <;> (injection ht with ht; subst ht))
  repeat' first
    | (with_reducible first | exact h | apply State.keeperCmd_kept)

theorem execWarm_kept {qs : List Instr} {s : State} (h : Kept qs s) (r : Nat) (page : Nat) {s1 : State} (ht : execWarm r page s = .next s1) :
    Kept qs s1 := by
  unfold execWarm at ht
  first
    | (injection ht with ht; subst ht)
    | (split at ht <;> (injection ht with ht; subst ht))
  repeat' first
    | (with_reducible first | exact h | apply State.keeperCmd_kept)

theorem execQuery_kept {qs : List Instr} {s : State} (h : Kept qs s) (r : Nat) (page : Nat) {s1 : State} (ht : execQuery r page s = .next s1) :
    Kept qs s1 := by
  unfold execQuery at ht
  first
    | (injection ht with ht; subst ht)
    | (split at ht <;> (injection ht with ht; subst ht))
  repeat' first
    | (with_reducible first | exact h | apply State.keeperCmd_kept)

theorem execCopyCompletion_kept {qs : List Instr} {s : State} (h : Kept qs s) (r : Nat) (page : Nat) {s1 : State} (ht : execCopyCompletion r page s = .next s1) :
    Kept qs s1 := by
  unfold execCopyCompletion at ht
  first
    | (injection ht with ht; subst ht)
    | (split at ht <;> (injection ht with ht; subst ht))
  repeat' first
    | (with_reducible first | exact h | apply State.copyDone_kept)

theorem execMoveCompletion_kept {qs : List Instr} {s : State} (h : Kept qs s) (r : Nat) (page : Nat) {s1 : State} (ht : execMoveCompletion r page s = .next s1) :
    Kept qs s1 := by
  unfold execMoveCompletion at ht
  first
    | (injection ht with ht; subst ht)
    | (split at ht <;> (injection ht with ht; subst ht))
  repeat' first
    | (with_reducible first | exact h | apply State.moveDone_kept)

theorem execPageZeroReported_kept {qs : List Instr} {s : State} (h : Kept qs s) (r : Nat) (i : Nat) {s1 : State} (ht : execPageZeroReported r i s = .next s1) :
    Kept qs s1 := by
  unfold execPageZeroReported at ht
  first
    | (injection ht with ht; subst ht)
    | (split at ht <;> (injection ht with ht; subst ht))
  repeat' first
    | (with_reducible first | exact h | apply State.zeroReported_kept)

theorem execPkCmdPresent_kept {qs : List Instr} {s : State} (h : Kept qs s) (r : Nat) (v : Word) {s1 : State} (ht : execPkCmdPresent r v s = .next s1) :
    Kept qs s1 := by
  unfold execPkCmdPresent at ht
  first
    | (injection ht with ht; subst ht)
    | (split at ht <;> (injection ht with ht; subst ht))
  repeat' first
    | (with_reducible first | exact h | assumption | apply State.pkPresent_kept | apply kept_ite)
    | split

theorem execLeCmdStart_kept {qs : List Instr} {s : State} (h : Kept qs s) (r : Nat) (v : Word) {s1 : State} (ht : execLeCmdStart r v s = .next s1) :
    Kept qs s1 := by
  unfold execLeCmdStart at ht
  first
    | (injection ht with ht; subst ht)
    | (split at ht <;> (injection ht with ht; subst ht))
  repeat' first
    | (with_reducible first | exact h | assumption | apply State.leStart_kept | apply kept_ite)
    | split

theorem execListWalkDone_kept {qs : List Instr} {s : State} (h : Kept qs s) (r : Nat) {s1 : State} (ht : execListWalkDone r s = .next s1) :
    Kept qs s1 := by
  unfold execListWalkDone at ht
  first
    | (injection ht with ht; subst ht)
    | (split at ht <;> (injection ht with ht; subst ht))
  repeat' first
    | (with_reducible first | exact h | apply State.listWalk_kept)

/-! ### Lockstep -/

theorem State.landSpool_kept {qs : List Instr} {s : State} (h : Kept qs s) (key : Nat) (q : SpoolReq) :
    Kept qs (State.landSpool s key q) := by
  unfold State.landSpool
  repeat' first
    | (with_reducible first | exact h | apply State.modCoreAt_kept)

theorem State.spoolDone_kept {qs : List Instr} {s : State} (h : Kept qs s) (key : Nat) (sp : Nat) (chk : CodeCheck) :
    Kept qs (State.spoolDone s key sp chk) := by
  unfold State.spoolDone
  repeat' first
    | (with_reducible first | exact h | assumption | apply State.rimWrite_kept | apply State.modCoreAt_kept | apply State.rimCheck_kept
                             | apply State.toCore_kept | apply State.modPart_kept | apply State.landSpool_kept | apply kept_hostMem
                             | (apply kept_foldl; intro s a h) | apply kept_ite)
    | simp only [kept_mk_iff, kept_mk_rim_iff]
    | split

theorem execSpoolCompletion_kept {qs : List Instr} {s : State} (h : Kept qs s) (c : CoreId) (sp : Nat) (chk : CodeCheck) {s1 : State} (ht : execSpoolCompletion c sp chk s = .next s1) :
    Kept qs s1 := by
  unfold execSpoolCompletion at ht
  first
    | (injection ht with ht; subst ht)
    | (split at ht <;> (injection ht with ht; subst ht))
  repeat' first
    | (with_reducible first | exact h | apply State.spoolDone_kept)

theorem State.deliverCore_kept {qs : List Instr} {s : State} (h : Kept qs s) (f : Flit) (r : Nat) (n : Nat) (ekey : Nat) :
    Kept qs (State.deliverCore s f r n ekey) := by
  unfold State.deliverCore
  repeat' first
    | (with_reducible first | exact h | assumption | apply State.violation_kept | apply State.modCoreAt_kept | apply State.jobFatal_kept
                             | apply kept_ite)
    | simp only [kept_mk_iff]
    | split

theorem State.lateStall_kept {qs : List Instr} {s : State} (h : Kept qs s) (p : Nat) :
    Kept qs (State.lateStall s p) := by
  unfold State.lateStall
  repeat' first
    | (with_reducible first | exact h | assumption | apply State.setPart_kept | apply State.bump_kept | apply kept_ite)
    | split

theorem execDueItemLateStall_kept {qs : List Instr} {s : State} (h : Kept qs s) (p : Nat) (i : Nat) {s1 : State} (ht : execDueItemLateStall p i s = .next s1) :
    Kept qs s1 := by
  unfold execDueItemLateStall at ht
  first
    | (injection ht with ht; subst ht)
    | (split at ht <;> (injection ht with ht; subst ht))
  repeat' first
    | (with_reducible first | exact h | assumption | apply State.lateStall_kept | apply kept_ite)
    | split

theorem State.feedback_kept {qs : List Instr} {s : State} (h : Kept qs s) (cores : List Nat) (seqs : List Nat) (addr : Nat) (cn : Nat) (data : Bytes) :
    Kept qs (State.feedback s cores seqs addr cn data) := by
  unfold State.feedback
  repeat' first
    | (with_reducible first | exact h | assumption | apply State.toCore_kept | apply State.scAdd_kept | apply State.sramWrite_kept
                             | apply kept_hostMem | (apply kept_foldl; intro s a h) | apply kept_ite)
    | simp only [kept_mk_iff, kept_mk_rim_iff]
    | split

theorem State.landItem_kept {qs : List Instr} {s : State} (h : Kept qs s) (d : DueItem) :
    Kept qs (State.landItem s d) := by
  unfold State.landItem
  repeat' first
    | (with_reducible first | exact h | assumption | apply State.landSpool_kept | apply State.landEmission_kept | apply State.landDueMove_kept
                             | apply State.feedback_kept | apply kept_ite)
    | split

theorem execDueItemLand_kept {qs : List Instr} {s : State} (h : Kept qs s) (p : Nat) (i : Nat) {s1 : State} (ht : execDueItemLand p i s = .next s1) :
    Kept qs s1 := by
  unfold execDueItemLand at ht
  first
    | (injection ht with ht; subst ht)
    | (split at ht <;> (injection ht with ht; subst ht))
  repeat' first
    | (with_reducible first | exact h | assumption | apply State.landItem_kept | apply State.modPart_kept | apply State.bump_kept | apply kept_ite)
    | split

theorem execDetourStart_kept {qs : List Instr} {s : State} (h : Kept qs s) (p : Nat) {s1 : State} (ht : execDetourStart p s = .next s1) :
    Kept qs s1 := by
  unfold execDetourStart at ht
  first
    | (injection ht with ht; subst ht)
    | (split at ht <;> (injection ht with ht; subst ht))
  repeat' first
    | (with_reducible first | exact h | assumption | apply State.bump_kept | apply State.setPart_kept | apply kept_hostMem
                             | (apply kept_foldl; intro s a h) | apply kept_ite)
    | simp only [kept_mk_iff, kept_mk_rim_iff]
    | split

theorem execStopEpochReached_kept {qs : List Instr} {s : State} (h : Kept qs s) (p : Nat) {s1 : State} (ht : execStopEpochReached p s = .next s1) :
    Kept qs s1 := by
  unfold execStopEpochReached at ht
  first
    | (injection ht with ht; subst ht)
    | (split at ht <;> (injection ht with ht; subst ht))
  repeat' first
    | (with_reducible first | exact h | assumption | apply State.setPState_kept | apply State.setPart_kept | apply kept_hostMem
                             | (apply kept_foldl; intro s a h) | apply kept_ite)
    | simp only [kept_mk_iff, kept_mk_rim_iff]
    | split

theorem execGlbLockEpochLoRead_kept {qs : List Instr} {s : State} (h : Kept qs s) (port : Nat) (p : Nat) {s1 : State} (ht : execGlbLockEpochLoRead port p s = .next s1) :
    Kept qs s1 := by
  unfold execGlbLockEpochLoRead at ht
  first
    | (injection ht with ht; subst ht)
    | (split at ht <;> (injection ht with ht; subst ht))
  repeat' first
    | (with_reducible first | exact h | apply State.capture_kept)

end Sys2Proof.Machine
end

