-- ==== Sys2Proof/Laws/KeptServing.lean ====
section
/-! SUPPORT. What each operation and command keeps of queue and canonical form: serving, sampling, accounts, placement, ingest. -/

namespace Sys2Proof.Machine

/-! ### Sampler -/

theorem State.setUnit_kept {qs : List Instr} {s : State} (h : Kept qs s) (u : Nat) (x : SampUnit) :
    Kept qs (State.setUnit s u x) := by
  unfold State.setUnit
  repeat' first
    | (with_reducible first | exact h)
    | simp only [kept_mk_iff]

theorem State.setPass_kept {qs : List Instr} {s : State} (h : Kept qs s) (p : Nat) (y : Pass) :
    Kept qs (State.setPass s p y) := by
  unfold State.setPass
  repeat' first
    | (with_reducible first | exact h | apply State.modPart_kept | apply kept_ite)
    | simp only [kept_mk_iff]

theorem State.sampleRow_kept {qs : List Instr} {s : State} (h : Kept qs s) (p : Nat) (u : Nat) (y : Pass) (row : Nat) (r : SampRow) :
    Kept qs (State.sampleRow s p u y row r) := by
  unfold State.sampleRow
  repeat' first
    | (with_reducible first | exact h | assumption | apply State.bumpBy_kept | apply State.setPass_kept | apply State.bump_kept
                             | apply State.hostWrite_kept | apply State.hostWriteAdv_kept | apply State.signal_kept | apply kept_hostMem
                             | (apply kept_foldl; intro s a h) | apply kept_ite)
    | simp only [kept_mk_iff, kept_mk_rim_iff]
    | split

theorem State.armFeedback_kept {qs : List Instr} {s : State} (h : Kept qs s) (p : Nat) (pass : Nat) (sent : Nat) :
    Kept qs (State.armFeedback s p pass sent) := by
  unfold State.armFeedback
  repeat' first
    | (with_reducible first | exact h | assumption | apply State.setPart_kept | apply kept_hostMem | (apply kept_foldl; intro s a h) | apply kept_ite)
    | simp only [kept_mk_iff, kept_mk_rim_iff]
    | split

theorem State.candidateFlit_kept {qs : List Instr} {s : State} (h : Kept qs s) (u : Nat) (key : Nat) (src : Nat) (sent : Nat) (dsp : Nat) (raddr : Nat) (d : Bytes) (ce : Bool) :
    Kept qs (State.candidateFlit s u key src sent dsp raddr d ce) := by
  unfold State.candidateFlit
  repeat' first
    | (with_reducible first | exact h | assumption | apply State.bump_kept | apply State.violation_kept | apply State.setUnit_kept
                             | apply State.armFeedback_kept | apply State.sampleRow_kept | apply kept_hostMem | (apply kept_foldl; intro s a h)
                             | apply kept_ite)
    | simp only [kept_mk_iff, kept_mk_rim_iff]
    | split

theorem execSampleCandidateFlit_kept {qs : List Instr} {s : State} (h : Kept qs s) (u : Nat) (key : Nat) (src : Nat) (dsp : Nat) (raddr : Nat) (data : Bytes) (ce : Bool) {s1 : State} (ht : execSampleCandidateFlit u key src dsp raddr data ce s = .next s1) :
    Kept qs s1 := by
  unfold execSampleCandidateFlit at ht
  first
    | (injection ht with ht; subst ht)
    | (split at ht <;> (injection ht with ht; subst ht))
  repeat' first
    | (with_reducible first | exact h | apply State.candidateFlit_kept)

theorem execSampledRowTimeout_kept {qs : List Instr} {s : State} (h : Kept qs s) (u : Nat) (b : Nat) {s1 : State} (ht : execSampledRowTimeout u b s = .next s1) :
    Kept qs s1 := by
  unfold execSampledRowTimeout at ht
  first
    | (injection ht with ht; subst ht)
    | (split at ht <;> (injection ht with ht; subst ht))
  repeat' first
    | (with_reducible first | exact h | assumption | apply State.setUnit_kept | apply State.jobFatal_kept | apply State.bump_kept | apply kept_ite)
    | simp only [kept_mk_iff]
    | split

/-! ### Output -/

theorem State.putRecord_kept {qs : List Instr} {s : State} (h : Kept qs s) (p : Nat) (rec_ : Bytes) :
    Kept qs (State.putRecord s p rec_) := by
  unfold State.putRecord
  repeat' first
    | (with_reducible first | exact h | apply State.hostWriteAdv_kept | apply State.signal_kept | apply State.hostWrite_kept)
    | simp only [kept_mk_iff]

theorem State.emitRecord_kept {qs : List Instr} {s : State} (h : Kept qs s) (p : Nat) (rec_ : Bytes) :
    Kept qs (State.emitRecord s p rec_) := by
  unfold State.emitRecord
  repeat' first
    | (with_reducible first | exact h | assumption | apply State.putRecord_kept | apply State.modPart_kept | apply kept_ite)
    | split

theorem State.flushRecords_kept {qs : List Instr} {s : State} (h : Kept qs s) (p : Nat) :
    Kept qs (State.flushRecords s p) := by
  unfold State.flushRecords
  repeat' first
    | (with_reducible first | exact h | assumption | apply State.putRecord_kept | apply State.modPart_kept | apply kept_hostMem
                             | (apply kept_foldl; intro s a h) | apply kept_ite)
    | simp only [kept_mk_iff, kept_mk_rim_iff]
    | split

theorem State.lostRecord_kept {qs : List Instr} {s : State} (h : Kept qs s) (k : KeptSeq) :
    Kept qs (State.lostRecord s k) := by
  unfold State.lostRecord
  repeat' first
    | (with_reducible first | exact h | assumption | apply State.putRecord_kept | apply State.bump_kept | apply kept_ite)
    | split

theorem State.lostRecords_kept {qs : List Instr} {s : State} (h : Kept qs s) :
    Kept qs (State.lostRecords s) := by
  unfold State.lostRecords
  repeat' first
    | (with_reducible first | exact h | assumption | apply State.lostRecord_kept | apply kept_hostMem | (apply kept_foldl; intro s a h)
                             | apply kept_ite)
    | simp only [kept_mk_iff, kept_mk_rim_iff]
    | split

/-! ### Accounts -/

theorem State.setAcct_kept {qs : List Instr} {s : State} (h : Kept qs s) (a : Nat) (x : Acct) :
    Kept qs (State.setAcct s a x) := by
  unfold State.setAcct
  repeat' first
    | (with_reducible first | exact h)
    | simp only [kept_mk_iff]

theorem State.ledgerViolation_kept {qs : List Instr} {s : State} (h : Kept qs s) (kind : Nat) (a : Nat) (inj : Bool) :
    Kept qs (State.ledgerViolation s kind a inj) := by
  unfold State.ledgerViolation
  repeat' first
    | (with_reducible first | exact h | assumption | apply State.wr_kept | apply State.deviceFatalD_kept | apply kept_ite)
    | split

theorem State.ledger_kept {qs : List Instr} {s : State} (h : Kept qs s) (a : Nat) (f : Ledger → Ledger) :
    Kept qs (State.ledger s a f) := by
  unfold State.ledger
  repeat' first
    | (with_reducible first | exact h | assumption | apply State.setAcct_kept | apply State.ledgerViolation_kept | apply kept_hostMem
                             | (apply kept_foldl; intro s a h) | apply kept_ite)
    | simp only [kept_mk_iff, kept_mk_rim_iff]
    | split

theorem State.mint_kept {qs : List Instr} {s : State} (h : Kept qs s) (a : Nat) (n : Nat) :
    Kept qs (State.mint s a n) := by
  unfold State.mint
  repeat' first
    | (with_reducible first | exact h | assumption | apply State.ledger_kept | apply State.ledgerViolation_kept | apply State.setAcct_kept
                             | apply kept_ite)
    | split

theorem State.returnAll_kept {qs : List Instr} {s : State} (h : Kept qs s) :
    Kept qs (State.returnAll s) := by
  unfold State.returnAll
  repeat' first
    | (with_reducible first | exact h | assumption | apply State.ledger_kept | apply kept_hostMem | (apply kept_foldl; intro s a h) | apply kept_ite)
    | simp only [kept_mk_iff, kept_mk_rim_iff]
    | split

theorem State.refill_kept {qs : List Instr} {s : State} (h : Kept qs s) (a : Nat) :
    Kept qs (State.refill s a) := by
  unfold State.refill
  repeat' first
    | (with_reducible first | exact h | assumption | apply State.mint_kept | apply kept_ite)
    | split

theorem State.grant_kept {qs : List Instr} {s : State} (h : Kept qs s) (v : Word) :
    Kept qs (State.grant s v) := by
  unfold State.grant
  repeat' first
    | (with_reducible first | exact h | assumption | apply State.ledger_kept | apply State.mint_kept | apply kept_ite)
    | split

theorem execAcctIdxWrite_kept {qs : List Instr} {s : State} (h : Kept qs s) (v : Word) {s1 : State} (ht : execAcctIdxWrite v s = .next s1) :
    Kept qs s1 := by
  unfold execAcctIdxWrite at ht
  first
    | (injection ht with ht; subst ht)
    | (split at ht <;> (injection ht with ht; subst ht))
  repeat' first
    | (with_reducible first | exact h | assumption | apply State.writeRW_kept | apply kept_hostMem | (apply kept_foldl; intro s a h) | apply kept_ite)
    | simp only [kept_mk_iff, kept_mk_rim_iff]
    | split

theorem execSnapshotLand_kept {qs : List Instr} {s : State} (h : Kept qs s) {s1 : State} (ht : execSnapshotLand s = .next s1) :
    Kept qs s1 := by
  unfold execSnapshotLand at ht
  first
    | (injection ht with ht; subst ht)
    | (split at ht <;> (injection ht with ht; subst ht))
  repeat' first
    | (with_reducible first | exact h | assumption | apply State.wr_kept | apply State.setFld_kept | apply State.bump_kept | apply kept_hostMem
                             | (apply kept_foldl; intro s a h) | apply kept_ite)
    | simp only [kept_mk_iff, kept_mk_rim_iff]
    | split

theorem State.meterPart_kept {qs : List Instr} {s : State} (h : Kept qs s) (p : Nat) (e : Nat) :
    Kept qs (State.meterPart s p e) := by
  unfold State.meterPart
  repeat' first
    | (with_reducible first | exact h | assumption | apply State.ledger_kept | apply kept_hostMem | (apply kept_foldl; intro s a h) | apply kept_ite)
    | simp only [kept_mk_iff, kept_mk_rim_iff]
    | split

theorem State.meterTick_kept {qs : List Instr} {s : State} (h : Kept qs s) (feedMicroJ : Nat) :
    Kept qs (State.meterTick s feedMicroJ) := by
  unfold State.meterTick
  repeat' first
    | (with_reducible first | exact h | assumption | apply State.meterPart_kept | apply State.modRegion_kept | apply kept_hostMem
                             | (apply kept_foldl; intro s a h) | apply kept_ite)
    | simp only [kept_mk_iff, kept_mk_rim_iff]
    | split

theorem execEnergyMeterTick_kept {qs : List Instr} {s : State} (h : Kept qs s) (feedMicroJ : Nat) {s1 : State} (ht : execEnergyMeterTick feedMicroJ s = .next s1) :
    Kept qs s1 := by
  unfold execEnergyMeterTick at ht
  first
    | (injection ht with ht; subst ht)
    | (split at ht <;> (injection ht with ht; subst ht))
  repeat' first
    | (with_reducible first | exact h | apply State.meterTick_kept)

theorem execSrvInexactClear_kept {qs : List Instr} {s : State} (h : Kept qs s) (v : Word) {s1 : State} (ht : execSrvInexactClear v s = .next s1) :
    Kept qs s1 := by
  unfold execSrvInexactClear at ht
  first
    | (injection ht with ht; subst ht)
    | (split at ht <;> (injection ht with ht; subst ht))
  repeat' first
    | (with_reducible first | exact h | assumption | apply State.reservedBits_kept | apply State.setFld_kept | apply kept_ite)
    | split

theorem execSrvPidleLoRead_kept {qs : List Instr} {s : State} (h : Kept qs s) (port : Nat) (p : Nat) {s1 : State} (ht : execSrvPidleLoRead port p s = .next s1) :
    Kept qs s1 := by
  unfold execSrvPidleLoRead at ht
  first
    | (injection ht with ht; subst ht)
    | (split at ht <;> (injection ht with ht; subst ht))
  repeat' first
    | (with_reducible first | exact h | apply State.capture_kept)

/-! ### Place -/

theorem State.assignEndpoints_kept {qs : List Instr} {s : State} (h : Kept qs s) :
    Kept qs (State.assignEndpoints s) := by
  unfold State.assignEndpoints
  repeat' first
    | (with_reducible first | exact h | assumption | apply kept_hostMem | (apply kept_foldl; intro s a h) | apply kept_ite)
    | simp only [kept_mk_iff, kept_mk_rim_iff]
    | split

theorem State.giveEndpoints_kept {qs : List Instr} {s : State} (h : Kept qs s) (p : Nat) (key : Nat) (rs : List Placed) (tbl : List (Dest × Nat × Nat)) :
    Kept qs (State.giveEndpoints s p key rs tbl) := by
  unfold State.giveEndpoints
  repeat' first
    | (with_reducible first | exact h | assumption | apply kept_hostMem | (apply kept_foldl; intro s a h) | apply kept_ite)
    | simp only [kept_mk_iff, kept_mk_rim_iff]
    | split

theorem State.buildTables_kept {qs : List Instr} {s : State} (h : Kept qs s) {key : Nat} {img : Bytes} {rs : List Placed} {s1 : State} (ht : State.buildTables s key img rs = some s1) :
    Kept qs s1 := by
  unfold State.buildTables at ht
  dsimp only at ht
  split at ht
  · cases ht
  · split at ht
    · cases ht
    · injection ht with ht
      subst ht
      exact kept_congr h rfl rfl rfl rfl rfl rfl rfl rfl

theorem State.withPlacement_kept {qs : List Instr} {s : State} (h : Kept qs s) {p : Nat} {key : Nat} {img : Bytes} {rs : List Placed} {s1 : State} (ht : State.withPlacement s p key img rs = some s1) :
    Kept qs s1 := by
  unfold State.withPlacement at ht
  repeat' first
    | (with_reducible first | exact h | apply State.modPart_kept | refine State.buildTables_kept ?_ (by assumption) | apply State.giveEndpoints_kept)

/-! ### JobOps -/

theorem State.clearRows_kept {qs : List Instr} {s : State} (h : Kept qs s) (r : Nat) (from_ : Nat) (n : Nat) :
    Kept qs (State.clearRows s r from_ n) := by
  unfold State.clearRows
  repeat' first
    | (with_reducible first | exact h | assumption | apply State.modCoreAt_kept | apply kept_hostMem | (apply kept_foldl; intro s a h)
                             | apply kept_ite)
    | simp only [kept_mk_iff, kept_mk_rim_iff]
    | split

theorem State.releaseHeld_kept {qs : List Instr} {s : State} (h : Kept qs s) (r : Nat) :
    Kept qs (State.releaseHeld s r) := by
  unfold State.releaseHeld
  repeat' first
    | (with_reducible first | exact h | apply State.clearRows_kept | apply State.setFld_kept | apply State.modRegion_kept | apply State.wr_kept)

theorem State.purgeFabric_kept {qs : List Instr} {s : State} (h : Kept qs s) (p : Nat) :
    Kept qs (State.purgeFabric s p) := by
  unfold State.purgeFabric
  repeat' first
    | (with_reducible first | exact h | assumption | apply kept_hostMem | (apply kept_foldl; intro s a h) | apply kept_ite)
    | simp only [kept_mk_iff, kept_mk_rim_iff]
    | split

theorem State.beginZeroize_kept {qs : List Instr} {s : State} (h : Kept qs s) (p : Nat) :
    Kept qs (State.beginZeroize s p) := by
  unfold State.beginZeroize
  repeat' first
    | (with_reducible first | exact h | assumption | apply State.modPart_kept | apply State.setPState_kept | apply State.purgeFabric_kept
                             | apply State.mapCores_kept | apply State.modRegion_kept | apply kept_hostMem | (apply kept_foldl; intro s a h)
                             | apply kept_ite)
    | simp only [kept_mk_iff, kept_mk_rim_iff]
    | split

theorem State.clearRegion_kept {qs : List Instr} {s : State} (h : Kept qs s) (r : Nat) :
    Kept qs (State.clearRegion s r) := by
  unfold State.clearRegion
  repeat' first
    | (with_reducible first | exact h | assumption | apply State.clearRows_kept | apply State.mapCores_kept | apply State.modRegion_kept
                             | apply State.wr_kept | apply State.setFld_kept | apply kept_hostMem | (apply kept_foldl; intro s a h) | apply kept_ite)
    | simp only [kept_mk_iff, kept_mk_rim_iff]
    | split

theorem State.endExtents_kept {qs : List Instr} {s : State} (h : Kept qs s) (p : Nat) :
    Kept qs (State.endExtents s p) := by
  unfold State.endExtents
  repeat' first
    | (with_reducible first | exact h | assumption | apply State.setFld_kept | apply kept_hostMem | (apply kept_foldl; intro s a h) | apply kept_ite)
    | simp only [kept_mk_iff, kept_mk_rim_iff]
    | split

theorem State.clearWelt_kept {qs : List Instr} {s : State} (h : Kept qs s) (p : Nat) :
    Kept qs (State.clearWelt s p) := by
  unfold State.clearWelt
  repeat' first
    | (with_reducible first | exact h | apply State.setFld_kept)
    | simp only [kept_mk_iff]

theorem State.freePart_kept {qs : List Instr} {s : State} (h : Kept qs s) (p : Nat) :
    Kept qs (State.freePart s p) := by
  unfold State.freePart
  repeat' first
    | (with_reducible first | exact h | assumption | apply State.wr64_kept | apply State.setPart_kept | apply State.clearWelt_kept
                             | apply State.endExtents_kept | apply State.setFld_kept | apply State.setPState_kept | apply kept_hostMem
                             | (apply kept_foldl; intro s a h) | apply kept_ite)
    | simp only [kept_mk_iff, kept_mk_rim_iff]
    | split

theorem State.loadFinished_kept {qs : List Instr} {s : State} (h : Kept qs s) :
    Kept qs (State.loadFinished s) := by
  unfold State.loadFinished
  repeat' first
    | (with_reducible first | exact h | apply State.wr_kept | apply State.signal_kept)

theorem State.loadStatus_kept {qs : List Instr} {s : State} (h : Kept qs s) (p : Nat) (status : Nat) (ingest : Nat) :
    Kept qs (State.loadStatus s p status ingest) := by
  unfold State.loadStatus
  repeat' first
    | (with_reducible first | exact h | apply State.setFld_kept)

theorem State.refuseLoad_kept {qs : List Instr} {s : State} (h : Kept qs s) (p : Nat) (status : Nat) (ingest : Nat) :
    Kept qs (State.refuseLoad s p status ingest) := by
  unfold State.refuseLoad
  repeat' first
    | (with_reducible first | exact h | assumption | apply State.loadFinished_kept | apply State.loadStatus_kept | apply State.setFld_kept
                             | apply State.freePart_kept | apply State.beginZeroize_kept | apply kept_hostMem | (apply kept_foldl; intro s a h)
                             | apply kept_ite)
    | simp only [kept_mk_iff, kept_mk_rim_iff]
    | split

theorem State.writeRows_kept {qs : List Instr} {s : State} (h : Kept qs s) (r : Nat) (n : Nat) (row : Nat) (d : Bytes) :
    Kept qs (State.writeRows s r n row d) := by
  unfold State.writeRows
  repeat' first
    | (with_reducible first | exact h | assumption | apply State.injStore_kept | apply State.modCoreAt_kept | apply kept_ite)
    | split

theorem State.ingBytes_kept {qs : List Instr} {s : State} (h : Kept qs s) (n : Nat) :
    Kept qs (State.ingBytes s n) := by
  unfold State.ingBytes
  repeat' first
    | (with_reducible first | exact h | apply State.wr64_kept)

theorem State.openStream_kept {qs : List Instr} {s : State} (h : Kept qs s) :
    Kept qs (State.openStream s) := by
  unfold State.openStream
  repeat' first
    | (with_reducible first | exact h | apply State.wr_kept)
    | simp only [kept_mk_iff]

theorem State.ingState_kept {qs : List Instr} {s : State} (h : Kept qs s) (st : Nat) :
    Kept qs (State.ingState s st) := by
  unfold State.ingState
  repeat' first
    | (with_reducible first | exact h | assumption | apply State.setFld_kept | apply State.signal_kept | apply kept_ite)
    | split

theorem State.dropUnsealed_kept {qs : List Instr} {s : State} (h : Kept qs s) (p : Nat) :
    Kept qs (State.dropUnsealed s p) := by
  unfold State.dropUnsealed
  repeat' first
    | (with_reducible first | exact h | assumption | apply State.clearRows_kept | apply kept_hostMem | (apply kept_foldl; intro s a h)
                             | apply kept_ite)
    | simp only [kept_mk_iff, kept_mk_rim_iff]
    | split

theorem State.ingFail_kept {qs : List Instr} {s : State} (h : Kept qs s) (status : Nat) (tensor : Nat) :
    Kept qs (State.ingFail s status tensor) := by
  unfold State.ingFail
  repeat' first
    | (with_reducible first | exact h | assumption | apply State.ingState_kept | apply State.setFld_kept | apply State.refuseLoad_kept
                             | apply State.dropUnsealed_kept | apply kept_ite)
    | simp only [kept_mk_iff]
    | split

theorem State.sealReady_kept {qs : List Instr} {s : State} (h : Kept qs s) (p : Nat) :
    Kept qs (State.sealReady s p) := by
  unfold State.sealReady
  repeat' first
    | (with_reducible first | exact h | assumption | apply State.wr_kept | apply State.setFld_kept | apply State.modRegion_kept | apply kept_hostMem
                             | (apply kept_foldl; intro s a h) | apply kept_ite)
    | simp only [kept_mk_iff, kept_mk_rim_iff]
    | split

theorem State.shareExtents_kept {qs : List Instr} {s : State} (h : Kept qs s) (p : Nat) :
    Kept qs (State.shareExtents s p) := by
  unfold State.shareExtents
  dsimp only
  split
  · exact h
  · refine kept_rimMem (s := s.modPart p _) h.ok.rimMem ?_
    exact State.modPart_kept h _ _

theorem State.ingFinish_kept {qs : List Instr} {s : State} (h : Kept qs s) (p : Nat) :
    Kept qs (State.ingFinish s p) := by
  unfold State.ingFinish
  repeat' first
    | (with_reducible first | exact h | assumption | apply State.sealReady_kept | apply State.ingState_kept | apply State.shareExtents_kept
                             | apply kept_hostMem | (apply kept_foldl; intro s a h) | apply kept_ite)
    | simp only [kept_mk_iff, kept_mk_rim_iff]
    | split

theorem State.fromShadow_kept {qs : List Instr} {s : State} (h : Kept qs s) {p : Nat} {img : Bytes} {t : Tensor} {s1 : State} (ht : State.fromShadow s p img t = .ok s1) :
    Kept qs s1 := by
  unfold State.fromShadow at ht
  refine kept_foldl_ok ?_ ?_ s1 ht
  · intro r a hr u hu
    split at hu
    · cases hu
    · have h := hr _ rfl
      dsimp only at hu
      repeat' split at hu
      all_goals first
        | (injection hu with hu; subst hu)
        | cases hu
      repeat' first
        | (with_reducible first | exact h | apply State.ingBytes_kept | apply State.writeRows_kept)
  · intro u hu
    injection hu with hu
    exact hu ▸ h

theorem State.startIngest_kept {qs : List Instr} {s : State} (h : Kept qs s) (p : Nat) (img : Bytes) :
    Kept qs (State.startIngest s p img) := by
  unfold State.startIngest
  split
  · exact h
  · dsimp only
    split
    ·
      repeat' first
        | (with_reducible first | exact h | assumption | apply State.wr64_kept | apply State.wr_kept | apply State.openStream_kept
                                 | apply State.ingState_kept | apply State.ingFail_kept | refine State.fromShadow_kept ?_ (by assumption)
                                 | apply State.ingFinish_kept | apply kept_hostMem | (apply kept_foldl; intro s a h) | apply kept_ite)
        | simp only [kept_mk_iff, kept_mk_rim_iff]
        | split
    · split
      ·
        repeat' first
          | (with_reducible first | exact h | assumption | apply State.wr64_kept | apply State.wr_kept | apply State.openStream_kept
                                   | apply State.ingState_kept | apply State.ingFail_kept | refine State.fromShadow_kept ?_ (by assumption)
                                   | apply State.ingFinish_kept | apply kept_hostMem | (apply kept_foldl; intro s a h) | apply kept_ite)
          | simp only [kept_mk_iff, kept_mk_rim_iff]
          | split
      · rename_i hr
        apply State.ingFinish_kept
        refine kept_foldl_ok ?_ ?_ _ hr
        · intro r a hr u hu
          split at hu
          · cases hu
          · have h := hr _ rfl
            split at hu
            · cases hu
            · rename_i hs
              injection hu with hu
              subst hu
              simp only [kept_mk_iff]
              exact State.fromShadow_kept h hs
        · intro u hu
          injection hu with hu
          subst hu
          repeat' first
            | (with_reducible first | exact h | assumption | apply State.wr64_kept | apply State.wr_kept | apply State.openStream_kept
                                     | apply State.ingState_kept | apply State.ingFail_kept | refine State.fromShadow_kept ?_ (by assumption)
                                     | apply State.ingFinish_kept | apply kept_hostMem | (apply kept_foldl; intro s a h) | apply kept_ite)
            | simp only [kept_mk_iff, kept_mk_rim_iff]
            | split

theorem execHeldWeightReleaseDone_kept {qs : List Instr} {s : State} (h : Kept qs s) (r : Nat) {s1 : State} (ht : execHeldWeightReleaseDone r s = .next s1) :
    Kept qs s1 := by
  unfold execHeldWeightReleaseDone at ht
  first
    | (injection ht with ht; subst ht)
    | (split at ht <;> (injection ht with ht; subst ht))
  repeat' first
    | (with_reducible first | exact h | assumption | apply State.setFld_kept | apply State.wr_kept | apply State.ingFinish_kept | apply kept_hostMem
                             | (apply kept_foldl; intro s a h) | apply kept_ite)
    | simp only [kept_mk_iff, kept_mk_rim_iff]
    | split

/-! ### IngestCmds -/

theorem State.ingRim_kept {qs : List Instr} {s : State} (h : Kept qs s) (p : Nat) (a : Nat) (d : Bytes) :
    Kept qs (State.ingRim s p a d).1 := by
  unfold State.ingRim
  repeat' first
    | (with_reducible first | exact h | assumption | apply State.rimWrite_kept | apply State.ingBytes_kept | apply State.rimCheck_kept
                             | apply kept_hostMem | (apply kept_foldl; intro s a h) | apply kept_ite)
    | simp only [kept_mk_iff, kept_mk_rim_iff]
    | split

theorem State.ingSlice_kept {qs : List Instr} {s : State} (h : Kept qs s) (p : Nat) (pl : Place) (d : Bytes) :
    Kept qs (State.ingSlice s p pl d).1 := by
  unfold State.ingSlice
  repeat' first
    | (with_reducible first | exact h | assumption | apply State.ingBytes_kept | apply State.writeRows_kept | apply kept_ite)
    | split

theorem State.putGroup_kept {qs : List Instr} {s : State} (h : Kept qs s) (p : Nat) (t : Tensor) (e : Nat) (d : Bytes) :
    Kept qs (State.putGroup s p t e d).1 := by
  unfold State.putGroup
  repeat' first
    | (with_reducible first | exact h | assumption | apply State.ingRim_kept | apply State.ingSlice_kept | apply kept_hostMem
                             | (apply kept_foldl; intro s a h) | apply kept_ite)
    | simp only [kept_mk_iff, kept_mk_rim_iff]
    | split

theorem State.putGroups_kept {qs : List Instr} {s : State} (h : Kept qs s) (p : Nat) (t : Tensor) (rows : List (List Bytes)) (raw : List Bytes) (x5 : List Nat) :
    Kept qs (State.putGroups s p t rows raw x5).1 := by
  induction x5 generalizing s with
  | nil => exact h
  | cons e es ih =>
    unfold State.putGroups
    split
    · exact h
    · dsimp only
      split
      · exact ih (State.putGroup_kept h _ _ _ _)
      · exact State.putGroup_kept h _ _ _ _

theorem State.tensorDone_kept {qs : List Instr} {s : State} (h : Kept qs s) (t : Tensor) (acc : Bytes) :
    Kept qs (State.tensorDone s t acc).1 := by
  unfold State.tensorDone
  repeat' first
    | (with_reducible first | exact h | assumption | apply State.setFld_kept | apply kept_hostMem | (apply kept_foldl; intro s a h) | apply kept_ite)
    | simp only [kept_mk_iff, kept_mk_rim_iff]
    | split

theorem State.takeRows_kept {qs : List Instr} {s : State} (h : Kept qs s) (p : Nat) (t : Tensor) (b : Bytes) (d : Bytes) :
    Kept qs (State.takeRows s p t b d).1 := by
  unfold State.takeRows
  repeat' first
    | (with_reducible first | exact h | assumption | apply State.putGroups_kept | apply State.tensorDone_kept | apply kept_hostMem
                             | (apply kept_foldl; intro s a h) | apply kept_ite)
    | simp only [kept_mk_iff, kept_mk_rim_iff]
    | split

theorem State.ingEnd_kept {qs : List Instr} {s : State} (h : Kept qs s) (p : Nat) :
    Kept qs (State.ingEnd s p) := by
  unfold State.ingEnd
  repeat' first
    | (with_reducible first | exact h | assumption | apply State.ingFinish_kept | apply State.ingState_kept | apply kept_hostMem
                             | (apply kept_foldl; intro s a h) | apply kept_ite)
    | simp only [kept_mk_iff, kept_mk_rim_iff]
    | split

theorem State.takeSegment_kept {qs : List Instr} {s : State} (h : Kept qs s) (p : Nat) (b : Bytes) :
    Kept qs (State.takeSegment s p b) := by
  unfold State.takeSegment
  repeat' first
    | (with_reducible first | exact h | assumption | apply State.ingFail_kept | apply State.takeRows_kept | apply State.ingEnd_kept | apply kept_ite)
    | split

theorem State.setSource_kept {qs : List Instr} {s : State} (h : Kept qs s) (k : Nat) (b : Bytes) :
    Kept qs (State.setSource s k b) := by
  unfold State.setSource
  repeat' first
    | (with_reducible first | exact h | apply kept_ite)
    | simp only [kept_mk_iff]

theorem State.ingPump_kept {qs : List Instr} {s : State} (h : Kept qs s) :
    Kept qs (State.ingPump s) := by
  unfold State.ingPump
  repeat' first
    | (with_reducible first | exact h | assumption | apply State.setFld_kept | apply State.setSource_kept | apply State.takeSegment_kept
                             | apply State.ingFail_kept | apply kept_ite)
    | simp only [kept_mk_iff]
    | split

theorem execIngestSegment_kept {qs : List Instr} {s : State} (h : Kept qs s) (seg : Option Bytes) (last : Bool) {s1 : State} (ht : execIngestSegment seg last s = .next s1) :
    Kept qs s1 := by
  unfold execIngestSegment at ht
  first
    | (injection ht with ht; subst ht)
    | (split at ht <;> (injection ht with ht; subst ht))
  repeat' first
    | (with_reducible first | exact h | assumption | apply State.ingFail_kept | apply State.setSource_kept | apply State.ingPump_kept
                             | apply kept_ite)
    | simp only [kept_mk_iff]
    | split

theorem execIngestHoldTimeout_kept {qs : List Instr} {s : State} (h : Kept qs s) {s1 : State} (ht : execIngestHoldTimeout s = .next s1) :
    Kept qs s1 := by
  unfold execIngestHoldTimeout at ht
  first
    | (injection ht with ht; subst ht)
    | (split at ht <;> (injection ht with ht; subst ht))
  repeat' first
    | (with_reducible first | exact h | assumption | apply State.ingFail_kept | apply kept_ite)
    | split

theorem execLdrIngCfgWrite_kept {qs : List Instr} {s : State} (h : Kept qs s) (v : Word) {s1 : State} (ht : execLdrIngCfgWrite v s = .next s1) :
    Kept qs s1 := by
  unfold execLdrIngCfgWrite at ht
  first
    | (injection ht with ht; subst ht)
    | (split at ht <;> (injection ht with ht; subst ht))
  repeat' first
    | (with_reducible first | exact h | apply State.writeRW_kept | apply kept_ite)

theorem execLdrIngBytesLoRead_kept {qs : List Instr} {s : State} (h : Kept qs s) (port : Nat) {s1 : State} (ht : execLdrIngBytesLoRead port s = .next s1) :
    Kept qs s1 := by
  unfold execLdrIngBytesLoRead at ht
  first
    | (injection ht with ht; subst ht)
    | (split at ht <;> (injection ht with ht; subst ht))
  repeat' first
    | (with_reducible first | exact h | apply State.capture_kept)

/-! ### Serving -/

theorem State.setRings_kept {qs : List Instr} {s : State} (h : Kept qs s) (p : Nat) (x : Rings) :
    Kept qs (State.setRings s p x) := by
  unfold State.setRings
  repeat' first
    | (with_reducible first | exact h | apply kept_ite)
    | simp only [kept_mk_iff]

theorem State.takeRing_kept {qs : List Instr} {s : State} (h : Kept qs s) {p : Nat} {assist : Bool} {e : Bytes} {s1 : State} (ht : State.takeRing s p assist e = some s1) :
    Kept qs s1 := by
  obtain ⟨t, _, rfl⟩ := Option.map_eq_some_iff.1 ht
  exact State.setRings_kept h _ _

theorem State.cmdAnswer_kept {qs : List Instr} {s : State} (h : Kept qs s) (p : Nat) (e : Bytes) (status : Nat) (result : Bytes) :
    Kept qs (State.cmdAnswer s p e status result) := by
  unfold State.cmdAnswer
  repeat' first
    | (with_reducible first | exact h | apply State.complete_kept)
    | simp only [kept_mk_iff]

theorem State.finish_kept {qs : List Instr} {s : State} (h : Kept qs s) (p : Nat) (e : Bytes) (status : Nat) :
    Kept qs (State.finish s p e status) := by
  unfold State.finish
  repeat' first
    | (with_reducible first | exact h | apply State.cmdAnswer_kept)

theorem State.setSeq_kept {qs : List Instr} {s : State} (h : Kept qs s) (i : Nat) (x : Option Seq) :
    Kept qs (State.setSeq s i x) := by
  unfold State.setSeq
  repeat' first
    | (with_reducible first | exact h)
    | simp only [kept_mk_iff]

theorem State.wakeWaiting_kept {qs : List Instr} {s : State} (h : Kept qs s) (p : Nat) :
    Kept qs (State.wakeWaiting s p) := by
  unfold State.wakeWaiting
  repeat' first
    | (with_reducible first | exact h | assumption | apply State.setSeq_kept | apply kept_hostMem | (apply kept_foldl; intro s a h) | apply kept_ite)
    | simp only [kept_mk_iff, kept_mk_rim_iff]
    | split

theorem State.wakeAll_kept {qs : List Instr} {s : State} (h : Kept qs s) :
    Kept qs (State.wakeAll s) := by
  unfold State.wakeAll
  repeat' first
    | (with_reducible first | exact h | apply State.wakeWaiting_kept | (apply kept_foldl; intro s a h))

theorem execAccountRefill_kept {qs : List Instr} {s : State} (h : Kept qs s) {s1 : State} (ht : execAccountRefill s = .next s1) :
    Kept qs s1 := by
  unfold execAccountRefill at ht
  first
    | (injection ht with ht; subst ht)
    | (split at ht <;> (injection ht with ht; subst ht))
  repeat' first
    | (with_reducible first | exact h | assumption | apply State.wakeAll_kept | apply State.refill_kept | apply kept_hostMem
                             | (apply kept_foldl; intro s a h) | apply kept_ite)
    | simp only [kept_mk_iff, kept_mk_rim_iff]
    | split

theorem execAcctGrant_kept {qs : List Instr} {s : State} (h : Kept qs s) (v : Word) {s1 : State} (ht : execAcctGrant v s = .next s1) :
    Kept qs s1 := by
  unfold execAcctGrant at ht
  first
    | (injection ht with ht; subst ht)
    | (split at ht <;> (injection ht with ht; subst ht))
  repeat' first
    | (with_reducible first | exact h | apply State.wakeAll_kept | apply State.grant_kept)

theorem State.forPages_kept {qs : List Instr} {s : State} (h : Kept qs s) (t : Nat) (code : Nat) (l : List ListEntry) :
    Kept qs (State.forPages s t code l) := by
  unfold State.forPages
  repeat' first
    | (with_reducible first | exact h | assumption | apply State.kServe_kept | apply kept_hostMem | (apply kept_foldl; intro s a h) | apply kept_ite)
    | simp only [kept_mk_iff, kept_mk_rim_iff]
    | split

theorem State.refPages_kept {qs : List Instr} {s : State} (h : Kept qs s) (t : Nat) (l done : List ListEntry) :
    Kept qs (State.refPages s t l done).2 := by
  induction l generalizing s done with
  | nil => exact h
  | cons e r ih =>
    unfold State.refPages
    dsimp only
    split
    · exact ih (State.kServe_kept h _ _ _ _ _) _
    · exact State.forPages_kept (State.kServe_kept h _ _ _ _ _) _ _ _

theorem State.refPages_some_kept {qs : List Instr} {s u : State} (h : Kept qs s) {t : Nat} {l done : List ListEntry} (ht : (State.refPages s t l done).1 = some u) :
    Kept qs u := by
  induction l generalizing s done with
  | nil => injection ht with ht; exact ht ▸ h
  | cons e r ih =>
    unfold State.refPages at ht
    dsimp only at ht
    split at ht
    · exact ih (State.kServe_kept h _ _ _ _ _) ht
    · cases ht

theorem State.refPages_none_kept {qs : List Instr} {s u : State} {o : Option State} (h : Kept qs s) {t : Nat} {l done : List ListEntry}
    (ht : State.refPages s t l done = (o, u)) : Kept qs u := by
  have := State.refPages_kept h t l done
  rw [ht] at this
  exact this

theorem State.setAdapter_kept {qs : List Instr} {s : State} (h : Kept qs s) (i : Nat) (x : Adapter) :
    Kept qs (State.setAdapter s i x) := by
  unfold State.setAdapter
  repeat' first
    | (with_reducible first | exact h)
    | simp only [kept_mk_iff]

theorem State.settleAdapter_kept {qs : List Instr} {s : State} (h : Kept qs s) (i : Nat) :
    Kept qs (State.settleAdapter s i) := by
  unfold State.settleAdapter
  repeat' first
    | (with_reducible first | exact h | assumption | apply State.setAdapter_kept | apply kept_ite)
    | simp only [kept_mk_iff]
    | split

theorem State.dropAdapter_kept {qs : List Instr} {s : State} (h : Kept qs s) (a : Option (Nat × Nat)) :
    Kept qs (State.dropAdapter s a) := by
  unfold State.dropAdapter
  repeat' first
    | (with_reducible first | exact h | apply State.settleAdapter_kept | apply State.setAdapter_kept)
    | simp only [kept_mk_iff]
    | split

theorem State.dropDraft_kept {qs : List Instr} {s : State} (h : Kept qs s) (d : Draft) :
    Kept qs (State.dropDraft s d) := by
  unfold State.dropDraft
  repeat' first
    | (with_reducible first | exact h | assumption | apply State.setUnit_kept | apply kept_ite)
    | split

theorem State.dropSeq_kept {qs : List Instr} {s : State} (h : Kept qs s) (i : Nat) :
    Kept qs (State.dropSeq s i) := by
  unfold State.dropSeq
  repeat' first
    | (with_reducible first | exact h | assumption | apply State.ledger_kept | apply State.dropAdapter_kept | apply State.forPages_kept
                             | apply State.dropDraft_kept | apply State.modPart_kept | apply State.complete_kept | apply State.setSeq_kept
                             | apply kept_hostMem | (apply kept_foldl; intro s a h) | apply kept_ite)
    | simp only [kept_mk_iff, kept_mk_rim_iff]
    | split

theorem State.endSeq_kept {qs : List Instr} {s : State} (h : Kept qs s) (i : Nat) (status : Nat) :
    Kept qs (State.endSeq s i status) := by
  unfold State.endSeq
  repeat' first
    | (with_reducible first | exact h | assumption | apply State.emitRecord_kept | apply State.dropSeq_kept | apply kept_ite)
    | simp only [kept_mk_iff]
    | split

theorem State.publishPrefix_kept {qs : List Instr} {s : State} (h : Kept qs s) (p : Nat) (probes : Nat) :
    Kept qs (State.publishPrefix s p probes) := by
  unfold State.publishPrefix
  repeat' first
    | (with_reducible first | exact h | assumption | apply State.setFld_kept | apply kept_ite)
    | split

theorem State.admitPages_kept {qs : List Instr} {s : State} (h : Kept qs s) {p : Nat} {sv : ServingRec} {i : Nat} {e : Bytes} {x : Seq} {s1 : State} (ht : State.admitPages s p sv i e x = .ok s1) :
    Kept qs s1 := by
  unfold State.admitPages at ht
  dsimp only at ht
  repeat' split at ht
  all_goals first
    | (injection ht with ht; subst ht)
    | cases ht
  · rename_i hr
    apply State.publishPrefix_kept
    apply State.setSeq_kept
    exact State.refPages_some_kept h (congrArg Prod.fst hr)
  · apply State.setSeq_kept
    exact State.kServe_kept h _ _ _ _ _

theorem State.admitEntry_kept {qs : List Instr} {s : State} (h : Kept qs s) {p : Nat} {e : Bytes} {x1 : Nat × State} (ht : State.admitEntry s p e = .ok x1) :
    Kept qs x1.2 := by
  unfold State.admitEntry at ht
  dsimp only at ht
  split at ht
  · cases ht
  split at ht
  · cases ht
  iterate 5
    split at ht
    · cases ht
  split at ht
  · cases ht
  · rename_i ha
    have hk := State.admitPages_kept (kept_ite (State.ledger_kept h _ _) h) ha
    repeat' split at ht
    all_goals first
      | cases ht
      | (injection ht with ht; subst ht; dsimp only)
    all_goals
      repeat' first
        | with_reducible exact hk
        | with_reducible apply State.setSeq_kept
        | with_reducible apply State.setAdapter_kept

theorem execAdmit_kept {qs : List Instr} {s : State} (h : Kept qs s) (p : Nat) (e : Bytes) {s1 : State} (ht : execAdmit p e s = .next s1) :
    Kept qs s1 := by
  unfold execAdmit at ht
  first
    | (injection ht with ht; subst ht)
    | (split at ht <;> (injection ht with ht; subst ht))
  repeat' first
    | (with_reducible first | exact h | assumption | refine State.takeRing_kept ?_ (by assumption) | refine State.admitEntry_kept ?_ (by assumption)
                             | apply State.publishPrefix_kept | apply State.finish_kept | apply State.cmdAnswer_kept | apply State.setSeq_kept
                             | apply kept_ite)
    | simp only [kept_mk_iff]
    | split

theorem execPromptFetched_kept {qs : List Instr} {s : State} (h : Kept qs s) (seq : Nat) (toks : Option (List Nat)) {s1 : State} (ht : execPromptFetched seq toks s = .next s1) :
    Kept qs s1 := by
  unfold execPromptFetched at ht
  first
    | (injection ht with ht; subst ht)
    | (split at ht <;> (injection ht with ht; subst ht))
  repeat' first
    | (with_reducible first | exact h | assumption | apply State.complete_kept | apply State.setSeq_kept | apply State.forPages_kept
                             | apply State.dropSeq_kept | apply kept_ite)
    | simp only [kept_mk_iff]
    | split

theorem execAbort_kept {qs : List Instr} {s : State} (h : Kept qs s) (p : Nat) (e : Bytes) {s1 : State} (ht : execAbort p e s = .next s1) :
    Kept qs s1 := by
  unfold execAbort at ht
  first
    | (injection ht with ht; subst ht)
    | (split at ht <;> (injection ht with ht; subst ht))
  repeat' first
    | (with_reducible first | exact h | assumption | refine State.takeRing_kept ?_ (by assumption) | apply State.finish_kept
                             | apply State.setSeq_kept | apply State.wakeWaiting_kept | apply State.endSeq_kept | apply kept_hostMem
                             | (apply kept_foldl; intro s a h) | apply kept_ite)
    | simp only [kept_mk_iff, kept_mk_rim_iff]
    | split

theorem execMask_kept {qs : List Instr} {s : State} (h : Kept qs s) (p : Nat) (e : Bytes) (bitmap : Option Bytes) {s1 : State} (ht : execMask p e bitmap s = .next s1) :
    Kept qs s1 := by
  unfold execMask at ht
  first
    | (injection ht with ht; subst ht)
    | (split at ht <;> (injection ht with ht; subst ht))
  repeat' first
    | (with_reducible first | exact h | assumption | refine State.takeRing_kept ?_ (by assumption) | apply State.finish_kept
                             | apply State.setSeq_kept | apply State.wakeWaiting_kept | apply kept_hostMem | (apply kept_foldl; intro s a h)
                             | apply kept_ite)
    | simp only [kept_mk_iff, kept_mk_rim_iff]
    | split

theorem execChoose_kept {qs : List Instr} {s : State} (h : Kept qs s) (p : Nat) (e : Bytes) {s1 : State} (ht : execChoose p e s = .next s1) :
    Kept qs s1 := by
  unfold execChoose at ht
  first
    | (injection ht with ht; subst ht)
    | (split at ht <;> (injection ht with ht; subst ht))
  repeat' first
    | (with_reducible first | exact h | assumption | refine State.takeRing_kept ?_ (by assumption) | apply State.finish_kept
                             | apply State.setPass_kept | apply kept_hostMem | (apply kept_foldl; intro s a h) | apply kept_ite)
    | simp only [kept_mk_iff, kept_mk_rim_iff]
    | split

theorem State.adapterStart_kept {qs : List Instr} {s : State} (h : Kept qs s) :
    Kept qs (State.adapterStart s) := by
  unfold State.adapterStart
  repeat' first
    | (with_reducible first | exact h | assumption | apply State.setAdapter_kept | apply State.ingState_kept | apply State.wr64_kept
                             | apply State.wr_kept | apply State.openStream_kept | apply State.ingFail_kept | apply kept_hostMem
                             | (apply kept_foldl; intro s a h) | apply kept_ite)
    | simp only [kept_mk_iff, kept_mk_rim_iff]
    | split

theorem State.loadSlot_kept {qs : List Instr} {s : State} (h : Kept qs s) (p : Nat) (i : Nat) (e : Bytes) (manifest : Bytes) :
    Kept qs (State.loadSlot s p i e manifest) := by
  unfold State.loadSlot
  repeat' first
    | (with_reducible first | exact h | apply State.adapterStart_kept | apply State.setAdapter_kept)

theorem execAdapterLoad_kept {qs : List Instr} {s : State} (h : Kept qs s) (p : Nat) (e : Bytes) (manifest : Option Bytes) {s1 : State} (ht : execAdapterLoad p e manifest s = .next s1) :
    Kept qs s1 := by
  unfold execAdapterLoad at ht
  first
    | (injection ht with ht; subst ht)
    | (split at ht <;> (injection ht with ht; subst ht))
  repeat' first
    | (with_reducible first | exact h | assumption | refine State.takeRing_kept ?_ (by assumption) | apply State.finish_kept
                             | apply State.loadSlot_kept | apply State.endSeq_kept | apply State.modPart_kept | apply kept_hostMem
                             | (apply kept_foldl; intro s a h) | apply kept_ite)
    | simp only [kept_mk_iff, kept_mk_rim_iff]
    | split

theorem execAdapterLoadDequeue_kept {qs : List Instr} {s : State} (h : Kept qs s) (p : Nat) {s1 : State} (ht : execAdapterLoadDequeue p s = .next s1) :
    Kept qs s1 := by
  unfold execAdapterLoadDequeue at ht
  first
    | (injection ht with ht; subst ht)
    | (split at ht <;> (injection ht with ht; subst ht))
  repeat' first
    | (with_reducible first | exact h | assumption | apply State.loadSlot_kept | apply State.modPart_kept | apply State.adapterStart_kept
                             | apply kept_ite)
    | simp only [kept_mk_iff]
    | split

theorem execAdapterIngestDone_kept {qs : List Instr} {s : State} (h : Kept qs s) (slot : Nat) (status : Nat) {s1 : State} (ht : execAdapterIngestDone slot status s = .next s1) :
    Kept qs s1 := by
  unfold execAdapterIngestDone at ht
  first
    | (injection ht with ht; subst ht)
    | (split at ht <;> (injection ht with ht; subst ht))
  repeat' first
    | (with_reducible first | exact h | assumption | apply State.setAdapter_kept | apply State.settleAdapter_kept | apply State.modPart_kept
                             | apply State.adapterStart_kept | apply State.complete_kept | apply kept_ite)
    | simp only [kept_mk_iff]
    | split

theorem execAdapterDrop_kept {qs : List Instr} {s : State} (h : Kept qs s) (p : Nat) (e : Bytes) {s1 : State} (ht : execAdapterDrop p e s = .next s1) :
    Kept qs s1 := by
  unfold execAdapterDrop at ht
  first
    | (injection ht with ht; subst ht)
    | (split at ht <;> (injection ht with ht; subst ht))
  repeat' first
    | (with_reducible first | exact h | assumption | refine State.takeRing_kept ?_ (by assumption) | apply State.finish_kept
                             | apply State.settleAdapter_kept | apply State.setAdapter_kept | apply State.modPart_kept | apply kept_ite)
    | split

theorem State.shareBy_kept {qs : List Instr} {s : State} (h : Kept qs s) (t : Nat) (l : List ListEntry) (f : Nat → Nat) :
    Kept qs (State.shareBy s t l f) := by
  unfold State.shareBy
  repeat' first
    | (with_reducible first | exact h | assumption | apply State.setKeeper_kept | apply kept_hostMem | (apply kept_foldl; intro s a h)
                             | apply kept_ite)
    | simp only [kept_mk_iff, kept_mk_rim_iff]
    | split

theorem State.createHandle_kept {qs : List Instr} {s : State} (h : Kept qs s) (p : Nat) (hd : Long) (i : Nat) (lh : Nat) (token : Nat) :
    Kept qs (State.createHandle s p hd i lh token).1 := by
  unfold State.createHandle
  dsimp only
  split
  · exact h
  · split
    · exact State.publishPrefix_kept h _ _
    · split
      · exact State.publishPrefix_kept h _ _
      · split
        · exact h
        · split
          · exact h
          · split
            · rename_i hr
              exact State.refPages_none_kept h hr
            · rename_i hr
              apply State.publishPrefix_kept
              simp only [kept_mk_iff]
              exact State.shareBy_kept (State.refPages_some_kept h (congrArg Prod.fst hr)) _ _ _

theorem State.deleteHandle_kept {qs : List Instr} {s : State} (h : Kept qs s) (p : Nat) (h : Long) :
    Kept qs (State.deleteHandle s p h).1 := by
  unfold State.deleteHandle
  repeat' first
    | (with_reducible first | exact h | assumption | apply State.publishPrefix_kept | apply State.forPages_kept | apply State.shareBy_kept
                             | apply kept_hostMem | (apply kept_foldl; intro s a h) | apply kept_ite)
    | simp only [kept_mk_iff, kept_mk_rim_iff]
    | split

theorem State.readyCreates_kept {qs : List Instr} {s : State} (h : Kept qs s) (p : Nat) (i : Nat) :
    Kept qs (State.readyCreates s p i) := by
  unfold State.readyCreates
  repeat' first
    | (with_reducible first | exact h | assumption | apply State.modPart_kept | apply State.createHandle_kept | apply State.complete_kept
                             | apply kept_hostMem | (apply kept_foldl; intro s a h) | apply kept_ite)
    | simp only [kept_mk_iff, kept_mk_rim_iff]
    | split

theorem execHcreate_kept {qs : List Instr} {s : State} (h : Kept qs s) (p : Nat) (e : Bytes) {s1 : State} (ht : execHcreate p e s = .next s1) :
    Kept qs s1 := by
  unfold execHcreate at ht
  first
    | (injection ht with ht; subst ht)
    | (split at ht <;> (injection ht with ht; subst ht))
  repeat' first
    | (with_reducible first | exact h | assumption | refine State.takeRing_kept ?_ (by assumption) | apply State.finish_kept
                             | apply State.createHandle_kept | apply State.modPart_kept | apply kept_hostMem | (apply kept_foldl; intro s a h)
                             | apply kept_ite)
    | simp only [kept_mk_iff, kept_mk_rim_iff]
    | split

theorem execHdelete_kept {qs : List Instr} {s : State} (h : Kept qs s) (p : Nat) (e : Bytes) {s1 : State} (ht : execHdelete p e s = .next s1) :
    Kept qs s1 := by
  unfold execHdelete at ht
  first
    | (injection ht with ht; subst ht)
    | (split at ht <;> (injection ht with ht; subst ht))
  repeat' first
    | (with_reducible first | exact h | assumption | refine State.takeRing_kept ?_ (by assumption) | apply State.finish_kept
                             | apply State.deleteHandle_kept | apply kept_ite)
    | split

theorem execPrefixCreate_kept {qs : List Instr} {s : State} (h : Kept qs s) (p : Nat) (handle : Long) (seq : Nat) (lh : Nat) (token : Nat) {s1 : State} (ht : execPrefixCreate p handle seq lh token s = .next s1) :
    Kept qs s1 := by
  unfold execPrefixCreate at ht
  first
    | (injection ht with ht; subst ht)
    | (split at ht <;> (injection ht with ht; subst ht))
  repeat' first
    | (with_reducible first | exact h | assumption | apply State.readyCreates_kept | apply State.createHandle_kept | apply kept_ite)
    | simp only [kept_mk_iff]
    | split

/-! ### Pass -/

theorem State.reply_kept {qs : List Instr} {s : State} (h : Kept qs s) (p : Nat) (aw : Long) (cn : Nat) (d : Bytes) :
    Kept qs (State.reply s p aw cn d) := by
  unfold State.reply
  repeat' first
    | (with_reducible first | exact h | assumption | apply State.violation_kept | apply State.toCore_kept | apply State.scAdd_kept
                             | apply State.sramWrite_kept | apply kept_ite)
    | simp only [kept_mk_iff]
    | split

theorem Batch.consider_kept {qs : List Instr} {b : Batch} (h : Kept qs b.st) (p : Nat) (sv : ServingRec) (model want pass i : Nat) :
    Kept qs (b.consider p sv model want pass i).st := by
  unfold Batch.consider
  dsimp only
  split
  · exact h
  · rename_i x0 _
    generalize (if x0.state = 4 ∧ !((b.st.causes sv i x0).contains x0.wait) then { x0 with state := if x0.prompt = [] then 2 else 1, wait := 0 } else x0) = x
    have hs : ∀ x, Kept qs (b.st.setSeq i x) := fun x => State.setSeq_kept h i x
    split
    · exact hs _
    · split
      · exact hs _
      · split
        · exact State.setSeq_kept (hs _) _ _
        · split
          all_goals split
          all_goals first
            | exact hs _
            | (dsimp only; refine State.modPart_kept (State.setAcct_kept (State.setSeq_kept ?_ _ _) _ _) _ _
               exact kept_ite (hs _) (State.ledger_kept (hs _) _ _))

theorem batch_fold_kept {qs : List Instr} {b : Batch} (h : Kept qs b.st) (l : List Nat) (p : Nat) (sv : ServingRec) (model want pass : Nat) :
    Kept qs (l.foldl (fun (b : Batch) i => b.consider p sv model want pass i) b).st := by
  induction l generalizing b with
  | nil => exact h
  | cons a l ih => exact ih (Batch.consider_kept h _ _ _ _ _ _)

theorem State.batchRequest_kept {qs : List Instr} {s : State} (h : Kept qs s) (p : Nat) (g : Bytes) :
    Kept qs (State.batchRequest s p g) := by
  unfold State.batchRequest
  dsimp only
  repeat' first
    | (with_reducible first | exact h | assumption | (refine batch_fold_kept (b := Batch.mk _ _ _ _) ?_ _ _ _ _ _ _) | apply Batch.st_kept
                             | apply State.modPart_kept | apply State.setUnit_kept | apply State.reply_kept | apply kept_ite)
    | split

theorem execBatchRequest_kept {qs : List Instr} {s : State} (h : Kept qs s) (p : Nat) (g : Bytes) {s1 : State} (ht : execBatchRequest p g s = .next s1) :
    Kept qs s1 := by
  unfold execBatchRequest at ht
  first
    | (injection ht with ht; subst ht)
    | (split at ht <;> (injection ht with ht; subst ht))
  repeat' first
    | (with_reducible first | exact h | apply State.batchRequest_kept)

theorem State.fallback_kept {qs : List Instr} {s : State} (h : Kept qs s) (p : Nat) (g : Bytes) :
    Kept qs (State.fallback s p g) := by
  unfold State.fallback
  repeat' first
    | (with_reducible first | exact h | apply State.setPass_kept | apply State.bump_kept)
    | simp only [kept_mk_iff]
    | split

theorem execFallbackReport_kept {qs : List Instr} {s : State} (h : Kept qs s) (p : Nat) (g : Bytes) {s1 : State} (ht : execFallbackReport p g s = .next s1) :
    Kept qs s1 := by
  unfold execFallbackReport at ht
  first
    | (injection ht with ht; subst ht)
    | (split at ht <;> (injection ht with ht; subst ht))
  repeat' first
    | (with_reducible first | exact h | assumption | apply State.fallback_kept | apply kept_ite)
    | split

theorem State.pressure_kept {qs : List Instr} {s : State} (h : Kept qs s) (i : Nat) (pos : Nat) (count : Nat) :
    Kept qs (State.pressure s i pos count) := by
  unfold State.pressure
  repeat' first
    | (with_reducible first | exact h | assumption | apply State.bump_kept | apply State.setSeq_kept | apply State.signal_kept
                             | apply State.logEvent_kept | apply kept_ite)
    | split

theorem State.recordToken_kept {qs : List Instr} {s : State} (h : Kept qs s) (i : Nat) (y : Pass) (d : Decided) (pos : Nat) (status : Nat) :
    Kept qs (State.recordToken s i y d pos status).1 := by
  unfold State.recordToken
  repeat' first
    | (with_reducible first | exact h | assumption | apply State.ledger_kept | apply State.setSeq_kept | apply State.pressure_kept | apply kept_ite)
    | split

theorem State.commitTokens_kept {qs : List Instr} {s : State} (h : Kept qs s) (i : Nat) (sv : ServingRec) (y : Pass) (pos : Nat) (recs : List Rec) (x6 : List Decided) :
    Kept qs (State.commitTokens s i sv y pos recs x6).1 := by
  induction x6 generalizing s pos recs with
  | nil => exact h
  | cons d t ih =>
    unfold State.commitTokens
    dsimp only
    repeat' first
      | with_reducible exact h
      | with_reducible apply ih
      | with_reducible apply State.recordToken_kept
      | split

theorem State.stopTokens_kept {qs : List Instr} {s : State} (h : Kept qs s) (i : Nat) (y : Pass) (pos : Nat) (recs : List Rec) (x5 : List Decided) :
    Kept qs (State.stopTokens s i y pos recs x5).1 := by
  induction x5 generalizing s pos recs with
  | nil => exact h
  | cons d t ih => exact ih (State.recordToken_kept h _ _ _ _ _) _ _

theorem State.meterPrompt_kept {qs : List Instr} {s : State} (h : Kept qs s) (i : Nat) (y : Pass) :
    Kept qs (State.meterPrompt s i y) := by
  unfold State.meterPrompt
  repeat' first
    | (with_reducible first | exact h | assumption | apply State.ledger_kept | apply State.setSeq_kept | apply kept_ite)
    | split

theorem State.trimList_kept {qs : List Instr} {s : State} (h : Kept qs s) (t : Nat) (len : Nat) (l : List ListEntry) :
    Kept qs (State.trimList s t len l).1 := by
  unfold State.trimList
  repeat' first
    | (with_reducible first | exact h | assumption | apply State.forPages_kept | apply State.kServe_kept | apply kept_hostMem
                             | (apply kept_foldl; intro s a h) | apply kept_ite)
    | simp only [kept_mk_iff, kept_mk_rim_iff]
    | split

theorem State.notice_kept {qs : List Instr} {s : State} (h : Kept qs s) (p : Nat) (sv : ServingRec) (i : Nat) (model : Nat) (len : Nat) (tlen : Nat) :
    Kept qs (State.notice s p sv i model len tlen) := by
  unfold State.notice
  repeat' first
    | (with_reducible first | exact h | assumption | apply State.scAdd_kept | apply State.sramWrite_kept | apply State.modPart_kept | apply kept_ite)
    | split

theorem State.fixLength_kept {qs : List Instr} {s : State} (h : Kept qs s) (p : Nat) (sv : ServingRec) (i : Nat) (len : Nat) (verified : Bool) :
    Kept qs (State.fixLength s p sv i len verified) := by
  unfold State.fixLength
  repeat' first
    | (with_reducible first | exact h | assumption | apply State.trimList_kept | apply State.setSeq_kept | apply State.notice_kept
                             | apply kept_hostMem | (apply kept_foldl; intro s a h) | apply kept_ite)
    | simp only [kept_mk_iff, kept_mk_rim_iff]
    | split

theorem State.release_kept {qs : List Instr} {s : State} (h : Kept qs s) (i : Nat) :
    Kept qs (State.release s i) := by
  unfold State.release
  repeat' first
    | (with_reducible first | exact h | assumption | apply State.ledger_kept | apply State.dropDraft_kept | apply State.setSeq_kept
                             | apply kept_hostMem | (apply kept_foldl; intro s a h) | apply kept_ite)
    | simp only [kept_mk_iff, kept_mk_rim_iff]
    | split

theorem State.writeRecs_kept {qs : List Instr} {s : State} (h : Kept qs s) (p : Nat) (i : Nat) (tag : Word) (l : List Rec) :
    Kept qs (State.writeRecs s p i tag l) := by
  unfold State.writeRecs
  repeat' first
    | (with_reducible first | exact h | assumption | apply State.emitRecord_kept | apply kept_hostMem | (apply kept_foldl; intro s a h)
                             | apply kept_ite)
    | simp only [kept_mk_iff, kept_mk_rim_iff]
    | split

theorem State.commitDraft_kept {qs : List Instr} {s : State} (h : Kept qs s) (i : Nat) (y : Pass) :
    Kept qs (State.commitDraft s i y) := by
  unfold State.commitDraft
  repeat' first
    | (with_reducible first | exact h | assumption | apply State.endSeq_kept | apply State.setUnit_kept | apply State.setSeq_kept
                             | apply kept_hostMem | (apply kept_foldl; intro s a h) | apply kept_ite)
    | simp only [kept_mk_iff, kept_mk_rim_iff]
    | split

theorem State.sendFeedback_kept {qs : List Instr} {s : State} (h : Kept qs s) (p : Nat) (sv : ServingRec) (y : Pass) (row : Nat) (i : Nat) (d : Bytes) :
    Kept qs (State.sendFeedback s p sv y row i d) := by
  unfold State.sendFeedback
  repeat' first
    | (with_reducible first | exact h | assumption | apply State.modPart_kept | apply State.feedback_kept | apply kept_ite)
    | split

theorem State.commitSeq_kept {qs : List Instr} {s : State} (h : Kept qs s) (p : Nat) (sv : ServingRec) (y : Pass) (i : Nat) :
    Kept qs (State.commitSeq s p sv y i) := by
  unfold State.commitSeq
  repeat' first
    | (with_reducible first | exact h | assumption | apply State.sendFeedback_kept | apply State.endSeq_kept | apply State.commitDraft_kept
                             | apply State.meterPrompt_kept | apply State.commitTokens_kept | apply State.writeRecs_kept | apply State.dropSeq_kept
                             | apply State.setSeq_kept | apply State.readyCreates_kept | apply State.release_kept | apply State.fixLength_kept
                             | apply kept_hostMem | (apply kept_foldl; intro s a h) | apply kept_ite)
    | simp only [kept_mk_iff, kept_mk_rim_iff]
    | split

theorem execPassCommit_kept {qs : List Instr} {s : State} (h : Kept qs s) (p : Nat) (pass : Nat) {s1 : State} (ht : execPassCommit p pass s = .next s1) :
    Kept qs s1 := by
  unfold execPassCommit at ht
  first
    | (injection ht with ht; subst ht)
    | (split at ht <;> (injection ht with ht; subst ht))
  repeat' first
    | (with_reducible first | exact h | assumption | apply State.modPart_kept | apply State.wakeWaiting_kept | apply State.commitSeq_kept
                             | apply kept_hostMem | (apply kept_foldl; intro s a h) | apply kept_ite)
    | simp only [kept_mk_iff, kept_mk_rim_iff]
    | split

end Sys2Proof.Machine
end

