-- ==== Sys2Proof/Laws/KeptJobs.lean ====
section
/-! SUPPORT. What each operation and command keeps of queue and canonical form: loads, spare repair, the end of a job, edge links, security and service records. -/

namespace Sys2Proof.Machine

/-! ### Loader -/

theorem State.setRegionUp_kept {qs : List Instr} {s : State} (h : Kept qs s) (p : Nat) (key : Nat) (ridx : Nat) (img : Bytes) (shape : Placed) (g : Placed) (gs : List Geometry) (all : List Placed) :
    Kept qs (State.setRegionUp s p key ridx img shape g gs all) := by
  unfold State.setRegionUp
  repeat' first
    | (with_reducible first | exact h | assumption | apply State.releaseHeld_kept | apply State.wr_kept | apply State.setFld_kept
                             | apply State.modRegion_kept | apply State.publishKeeper_kept | apply kept_hostMem | (apply kept_foldl; intro s a h)
                             | apply kept_ite)
    | simp only [kept_mk_iff, kept_mk_rim_iff]
    | split

theorem State.writeCore_kept {qs : List Instr} {s : State} (h : Kept qs s) (p : Nat) (rs : List Placed) (o : Nat × Nat) (img : Bytes) (cs : Contents) (i : Nat) (n : Nat) (role : Nat) (key : Nat) :
    Kept qs (State.writeCore s p rs o img cs i n role key) := by
  unfold State.writeCore
  repeat' first
    | (with_reducible first | exact h | apply State.modCoreAt_kept)

theorem State.writeRegion_kept {qs : List Instr} {s : State} (h : Kept qs s) (p : Nat) (rs : List Placed) (o : Nat × Nat) (img : Bytes) (cs : Contents) (i : Nat) (g : Placed) :
    Kept qs (State.writeRegion s p rs o img cs i g) := by
  unfold State.writeRegion
  repeat' first
    | (with_reducible first | exact h | assumption | apply State.modCoreAt_kept | apply State.writeCore_kept | apply State.modRegion_kept
                             | apply kept_hostMem | (apply kept_foldl; intro s a h) | apply kept_ite)
    | simp only [kept_mk_iff, kept_mk_rim_iff]
    | split

theorem State.askWake_kept {qs : List Instr} {s : State} (h : Kept qs s) (r : Nat) (m : BitVec 18) :
    Kept qs (State.askWake s r m) := by
  unfold State.askWake
  repeat' first
    | (with_reducible first | exact h | assumption | apply State.modRegion_kept | apply kept_ite)
    | split

theorem State.step5_kept {qs : List Instr} {s : State} (h : Kept qs s) {p : Nat} {s1 : State} (ht : State.step5 s p = some s1) :
    Kept qs s1 := by
  unfold State.step5 at ht
  dsimp only at ht
  split at ht
  · cases ht
  · injection ht with ht
    subst ht
    repeat' first
      | (with_reducible first | exact h | assumption | apply State.writeRegion_kept | apply State.askWake_kept | apply kept_hostMem
                               | (apply kept_foldl; intro s a h) | apply kept_ite)
      | simp only [kept_mk_iff, kept_mk_rim_iff]
      | split

theorem State.applyPending_kept {qs : List Instr} {s : State} (h : Kept qs s) :
    Kept qs (State.applyPending s) := by
  unfold State.applyPending
  repeat' first
    | (with_reducible first | exact h | assumption | apply State.setFld_kept | apply State.publishLast_kept | apply State.logEvent_kept | apply State.signal_kept
                             | apply State.releaseHeld_kept | apply State.askWake_kept | apply State.assignEndpoints_kept | apply kept_hostMem
                             | (apply kept_foldl; intro s a h) | apply kept_ite)
    | simp only [kept_mk_iff, kept_mk_rim_iff]
    | split

theorem State.loadStep_kept {qs : List Instr} {s : State} (h : Kept qs s) (n : Nat) :
    Kept qs (State.loadStep s n) := by
  unfold State.loadStep
  repeat' first
    | (with_reducible first | exact h | apply State.setFld_kept)

theorem State.bind_kept {qs : List Instr} {s : State} (h : Kept qs s) (p : Nat) (key : Nat) (img : Bytes) (rs : List Placed) (exts : List Extent) :
    Kept qs (State.bind s p key img rs exts) := by
  unfold State.bind
  repeat' first
    | (with_reducible first | exact h | assumption | apply State.loadStep_kept | apply State.modPart_kept | apply State.wr_kept
                             | apply State.setFld_kept | refine State.buildTables_kept ?_ (by assumption) | apply State.giveEndpoints_kept
                             | apply State.refuseLoad_kept | apply State.setRegionUp_kept | refine State.step5_kept ?_ (by assumption)
                             | apply State.startIngest_kept | apply kept_hostMem | (apply kept_foldl; intro s a h) | apply kept_ite)
    | simp only [kept_mk_iff, kept_mk_rim_iff]
    | split

theorem State.placeLoad_kept {qs : List Instr} {s : State} (h : Kept qs s) (p : Nat) (img : Bytes) (cmd : Option (Nat × Nat)) :
    Kept qs (State.placeLoad s p img cmd) := by
  unfold State.placeLoad
  repeat' first
    | (with_reducible first | exact h | assumption | apply State.applyPending_kept | apply State.loadStep_kept | apply State.refuseLoad_kept
                             | apply State.bind_kept | apply kept_ite)
    | split

theorem State.doLoad_kept {qs : List Instr} {s : State} (h : Kept qs s) (v : Word) (image : Option Bytes) :
    Kept qs (State.doLoad s v image) := by
  unfold State.doLoad
  repeat' first
    | (with_reducible first | exact h | assumption | apply State.bump_kept | apply State.loadFinished_kept | apply State.setFld_kept
                             | apply State.setPState_kept | apply State.wr_kept | apply State.loadStep_kept | apply State.refuseLoad_kept
                             | apply State.setPart_kept | apply State.placeLoad_kept | apply kept_hostMem | (apply kept_foldl; intro s a h)
                             | apply kept_ite)
    | simp only [kept_mk_iff, kept_mk_rim_iff]
    | split

theorem execLoad_kept {qs : List Instr} {s : State} (h : Kept qs s) (v : Word) (image : Option Bytes) {s1 : State} (ht : execLoad v image s = .next s1) :
    Kept qs s1 := by
  unfold execLoad at ht
  first
    | (injection ht with ht; subst ht)
    | (split at ht <;> (injection ht with ht; subst ht))
  repeat' first
    | (with_reducible first | exact h | assumption | apply State.doLoad_kept | apply State.reservedBits_kept | apply kept_ite)
    | simp only [kept_mk_iff]
    | split

theorem State.startPart_kept {qs : List Instr} {s : State} (h : Kept qs s) (p : Nat) :
    Kept qs (State.startPart s p) := by
  unfold State.startPart
  repeat' first
    | (with_reducible first | exact h | assumption | apply State.modCoreAt_kept | apply State.modRegion_kept | apply State.modPart_kept
                             | apply kept_hostMem | (apply kept_foldl; intro s a h) | apply kept_ite)
    | simp only [kept_mk_iff, kept_mk_rim_iff]
    | split

theorem State.clearJobRegs_kept {qs : List Instr} {s : State} (h : Kept qs s) (p : Nat) :
    Kept qs (State.clearJobRegs s p) := by
  unfold State.clearJobRegs
  repeat' first
    | (with_reducible first | exact h | assumption | apply State.wr_kept | apply kept_hostMem | (apply kept_foldl; intro s a h) | apply kept_ite)
    | simp only [kept_mk_iff, kept_mk_rim_iff]
    | split

theorem execJobStart_kept {qs : List Instr} {s : State} (h : Kept qs s) {s1 : State} (ht : execJobStart s = .next s1) :
    Kept qs s1 := by
  unfold execJobStart at ht
  first
    | (injection ht with ht; subst ht)
    | (split at ht <;> (injection ht with ht; subst ht))
  repeat' first
    | (with_reducible first | exact h | assumption | apply State.refuseLoad_kept | apply State.loadStep_kept | apply State.clearJobRegs_kept
                             | apply State.setPState_kept | apply State.startPart_kept | apply State.loadFinished_kept | apply State.loadStatus_kept
                             | apply State.stopPart_kept | apply kept_hostMem | (apply kept_foldl; intro s a h) | apply kept_ite)
    | simp only [kept_mk_iff, kept_mk_rim_iff]
    | split

theorem execKill_kept {qs : List Instr} {s : State} (h : Kept qs s) (v : Word) {s1 : State} (ht : execKill v s = .next s1) :
    Kept qs s1 := by
  unfold execKill at ht
  first
    | (injection ht with ht; subst ht)
    | (split at ht <;> (injection ht with ht; subst ht))
  repeat' first
    | (with_reducible first | exact h | assumption | apply State.stopPart_kept | apply State.reservedBits_kept | apply kept_ite)
    | split

theorem State.releaseFree_kept {qs : List Instr} {s : State} (h : Kept qs s) (r : Nat) :
    Kept qs (State.releaseFree s r) := by
  unfold State.releaseFree
  repeat' first
    | (with_reducible first | exact h | assumption | apply State.releaseHeld_kept | apply kept_ite)
    | split

theorem execRelease_kept {qs : List Instr} {s : State} (h : Kept qs s) (v : Word) {s1 : State} (ht : execRelease v s = .next s1) :
    Kept qs s1 := by
  unfold execRelease at ht
  first
    | (injection ht with ht; subst ht)
    | (split at ht <;> (injection ht with ht; subst ht))
  repeat' first
    | (with_reducible first | exact h | assumption | apply State.reservedBits_kept | apply State.releaseFree_kept | apply kept_hostMem
                             | (apply kept_foldl; intro s a h) | apply kept_ite)
    | simp only [kept_mk_iff, kept_mk_rim_iff]
    | split

theorem execLdrPwrLimitWrite_kept {qs : List Instr} {s : State} (h : Kept qs s) (v : Word) {s1 : State} (ht : execLdrPwrLimitWrite v s = .next s1) :
    Kept qs s1 := by
  unfold execLdrPwrLimitWrite at ht
  first
    | (injection ht with ht; subst ht)
    | (split at ht <;> (injection ht with ht; subst ht))
  repeat' first
    | (with_reducible first | exact h | apply State.writeRW_kept | apply kept_ite)

/-! ### Spare -/

theorem State.takeSpare_kept {qs : List Instr} {s : State} (h : Kept qs s) (r : Nat) (k : Nat) (p : Option Nat) :
    Kept qs (State.takeSpare s r k p) := by
  unfold State.takeSpare
  repeat' first
    | (with_reducible first | exact h | apply State.modRegion_kept | apply State.modCoreAt_kept)

theorem State.repairState_kept {qs : List Instr} {s : State} (h : Kept qs s) (n : Nat) :
    Kept qs (State.repairState s n) := by
  unfold State.repairState
  repeat' first
    | (with_reducible first | exact h | apply State.setFld_kept)

theorem State.spareBegin_kept {qs : List Instr} {s : State} (h : Kept qs s) (p : Nat) (r : Nat) (k : Nat) :
    Kept qs (State.spareBegin s p r k) := by
  unfold State.spareBegin
  repeat' first
    | (with_reducible first | exact h | assumption | apply State.stopPart_kept | apply State.wr_kept | apply State.askWake_kept | apply kept_hostMem
                             | (apply kept_foldl; intro s a h) | apply kept_ite)
    | simp only [kept_mk_iff, kept_mk_rim_iff]
    | split

theorem State.spareNext_kept {qs : List Instr} {s : State} (h : Kept qs s) (x1 : List (Nat × Nat)) :
    Kept qs (State.spareNext s x1) := by
  induction x1 generalizing s with
  | nil => exact State.wr_kept (kept_mk_iff.2 h) _ _
  | cons a t ih =>
    unfold State.spareNext
    dsimp only
    repeat' first
      | (with_reducible first | exact h | assumption | apply ih | apply State.wr_kept | apply State.spareBegin_kept | apply State.modRegion_kept
                               | apply State.takeSpare_kept | apply State.releaseHeld_kept | apply kept_hostMem | (apply kept_foldl; intro s a h)
                               | apply kept_ite)
      | simp only [kept_mk_iff, kept_mk_rim_iff]
      | split

theorem State.spareOver_kept {qs : List Instr} {s : State} (h : Kept qs s) :
    Kept qs (State.spareOver s) := by
  unfold State.spareOver
  repeat' first
    | (with_reducible first | exact h | assumption | apply State.spareNext_kept | apply kept_hostMem | (apply kept_foldl; intro s a h)
                             | apply kept_ite)
    | simp only [kept_mk_iff, kept_mk_rim_iff]
    | split

theorem State.spareSeq_kept {qs : List Instr} {s : State} (h : Kept qs s) (p : Nat) (r : Nat) (n : Nat) (sv : ServingRec) (i : Nat) :
    Kept qs (State.spareSeq s p r n sv i) := by
  unfold State.spareSeq
  repeat' first
    | (with_reducible first | exact h | assumption | apply State.endSeq_kept | apply State.release_kept | apply State.fixLength_kept
                             | apply State.setSeq_kept | apply kept_ite)
    | simp only [kept_mk_iff]
    | split

theorem State.spareServing_kept {qs : List Instr} {s : State} (h : Kept qs s) (p : Nat) (r : Nat) (n : Nat) :
    Kept qs (State.spareServing s p r n) := by
  unfold State.spareServing
  repeat' first
    | (with_reducible first | exact h | assumption | apply State.spareSeq_kept | apply State.deleteHandle_kept | apply State.setUnit_kept
                             | apply State.modPart_kept | apply kept_hostMem | (apply kept_foldl; intro s a h) | apply kept_ite)
    | simp only [kept_mk_iff, kept_mk_rim_iff]
    | split

theorem State.clearPins_kept {qs : List Instr} {s : State} (h : Kept qs s) (p : Nat) :
    Kept qs (State.clearPins s p) := by
  unfold State.clearPins
  repeat' first
    | (with_reducible first | exact h | assumption | apply State.publishKeeper_kept | apply State.setKeeper_kept | apply kept_hostMem
                             | (apply kept_foldl; intro s a h) | apply kept_ite)
    | simp only [kept_mk_iff, kept_mk_rim_iff]
    | split

theorem State.coreFromShadow_kept {qs : List Instr} {s : State} (h : Kept qs s) {r : Nat} {n : Nat} {img : Bytes} {t : Tensor} {x5 : List Nat} {s1 : State} (ht : State.coreFromShadow s r n img t x5 = some s1) :
    Kept qs s1 := by
  induction x5 generalizing s with
  | nil => injection ht with ht; exact ht ▸ h
  | cons e es ih =>
    unfold State.coreFromShadow at ht
    dsimp only at ht
    split at ht
    · cases ht
    · exact ih (State.writeRows_kept h _ _ _ _) ht

theorem State.spareWeights_kept {qs : List Instr} {s : State} (h : Kept qs s) (p : Nat) (r : Nat) (n : Nat) :
    Kept qs (State.spareWeights s p r n).1 := by
  unfold State.spareWeights
  dsimp only
  have h' := State.modCoreAt_kept h (17 * r + 16) (fun c => { c with slice := [] })
  split
  · exact h'
  · refine kept_foldl_fst ?_ h'
    intro a t ha
    split
    · exact ha
    · split
      · rename_i hs
        split at hs
        · exact State.coreFromShadow_kept ha hs
        · cases hs
      · exact ha

theorem State.spareShip_kept {qs : List Instr} {s : State} (h : Kept qs s) (p : Nat) (r : Nat) (n : Nat) (todo : List Nat) :
    Kept qs (State.spareShip s p r n todo) := by
  unfold State.spareShip
  repeat' first
    | (with_reducible first | exact h | assumption | apply State.ingState_kept | apply State.wr64_kept | apply State.wr_kept
                             | apply State.openStream_kept | apply State.repairState_kept | apply kept_hostMem | (apply kept_foldl; intro s a h)
                             | apply kept_ite)
    | simp only [kept_mk_iff, kept_mk_rim_iff]
    | split

theorem State.spareHold_kept {qs : List Instr} {s : State} (h : Kept qs s) :
    Kept qs (State.spareHold s) := by
  unfold State.spareHold
  repeat' first
    | (with_reducible first | exact h | apply State.repairState_kept)

theorem State.spareSteps_kept {qs : List Instr} {s : State} (h : Kept qs s) (p : Nat) (key : Nat) :
    Kept qs (State.spareSteps s p key) := by
  unfold State.spareSteps
  repeat' first
    | (with_reducible first | exact h | assumption | apply State.repairState_kept | apply State.takeSpare_kept | apply State.clearPins_kept
                             | apply State.spareServing_kept | apply State.spareWeights_kept | apply State.spareHold_kept
                             | apply State.spareShip_kept | apply kept_ite)
    | split

theorem State.spareStep_kept {qs : List Instr} {s : State} (h : Kept qs s) (shipped : Bool) :
    Kept qs (State.spareStep s shipped) := by
  unfold State.spareStep
  repeat' first
    | (with_reducible first | exact h | assumption | apply State.spareNext_kept | apply State.spareSteps_kept | apply State.spareHold_kept
                             | apply kept_hostMem | (apply kept_foldl; intro s a h) | apply kept_ite)
    | simp only [kept_mk_iff, kept_mk_rim_iff]
    | split

theorem State.spareResume_kept {qs : List Instr} {s : State} (h : Kept qs s) :
    Kept qs (State.spareResume s) := by
  unfold State.spareResume
  repeat' first
    | (with_reducible first | exact h | assumption | refine State.step5_kept ?_ (by assumption) | apply State.modRegion_kept
                             | apply State.modPart_kept | apply State.startPart_kept | apply State.spareOver_kept | apply State.setPState_kept
                             | apply kept_hostMem | (apply kept_foldl; intro s a h) | apply kept_ite)
    | simp only [kept_mk_iff, kept_mk_rim_iff]
    | split

/-! ### JobEnd -/

theorem execStopTimeout_kept {qs : List Instr} {s : State} (h : Kept qs s) (p : Nat) {s1 : State} (ht : execStopTimeout p s = .next s1) :
    Kept qs s1 := by
  unfold execStopTimeout at ht
  first
    | (injection ht with ht; subst ht)
    | (split at ht <;> (injection ht with ht; subst ht))
  repeat' first
    | (with_reducible first | exact h | assumption | apply State.setFld_kept | apply State.modCoreAt_kept | apply kept_hostMem
                             | (apply kept_foldl; intro s a h) | apply kept_ite)
    | simp only [kept_mk_iff, kept_mk_rim_iff]
    | split

theorem State.endServed_kept {qs : List Instr} {s : State} (h : Kept qs s) (p : Nat) (i : Nat) :
    Kept qs (State.endServed s p i) := by
  unfold State.endServed
  repeat' first
    | (with_reducible first | exact h | assumption | apply State.dropSeq_kept | apply State.complete_kept | apply State.endSeq_kept
                             | apply State.stopTokens_kept | apply State.meterPrompt_kept | apply State.writeRecs_kept | apply kept_ite)
    | simp only [kept_mk_iff]
    | split

theorem State.endServing_kept {qs : List Instr} {s : State} (h : Kept qs s) (p : Nat) :
    Kept qs (State.endServing s p) := by
  unfold State.endServing
  repeat' first
    | (with_reducible first | exact h | assumption | apply State.endServed_kept | apply State.modPart_kept | apply State.complete_kept
                             | apply kept_hostMem | (apply kept_foldl; intro s a h) | apply kept_ite)
    | simp only [kept_mk_iff, kept_mk_rim_iff]
    | split

theorem State.endAssists_kept {qs : List Instr} {s : State} (h : Kept qs s) (p : Nat) :
    Kept qs (State.endAssists s p) := by
  unfold State.endAssists
  repeat' first
    | (with_reducible first | exact h | assumption | apply State.complete_kept | apply kept_hostMem | (apply kept_foldl; intro s a h)
                             | apply kept_ite)
    | simp only [kept_mk_iff, kept_mk_rim_iff]
    | split

theorem State.endJob_kept {qs : List Instr} {s : State} (h : Kept qs s) (p : Nat) :
    Kept qs (State.endJob s p) := by
  unfold State.endJob
  repeat' first
    | (with_reducible first | exact h | assumption | apply State.beginZeroize_kept | apply State.endAssists_kept | apply State.endServing_kept
                             | apply State.spareOver_kept | apply kept_hostMem | (apply kept_foldl; intro s a h) | apply kept_ite)
    | simp only [kept_mk_iff, kept_mk_rim_iff]
    | split

theorem execAllCoresHalted_kept {qs : List Instr} {s : State} (h : Kept qs s) (p : Nat) {s1 : State} (ht : execAllCoresHalted p s = .next s1) :
    Kept qs s1 := by
  unfold execAllCoresHalted at ht
  first
    | (injection ht with ht; subst ht)
    | (split at ht <;> (injection ht with ht; subst ht))
  repeat' first
    | (with_reducible first | exact h | assumption | apply State.endJob_kept | apply kept_ite)
    | split

theorem State.restRegion_kept {qs : List Instr} {s : State} (h : Kept qs s) (r : Nat) :
    Kept qs (State.restRegion s r) := by
  unfold State.restRegion
  repeat' first
    | (with_reducible first | exact h | assumption | apply State.modRegion_kept | apply State.mapCores_kept | apply kept_ite)
    | split

theorem execZeroizeDone_kept {qs : List Instr} {s : State} (h : Kept qs s) (p : Nat) (verifyFailed : List Nat) {s1 : State} (ht : execZeroizeDone p verifyFailed s = .next s1) :
    Kept qs s1 := by
  unfold execZeroizeDone at ht
  first
    | (injection ht with ht; subst ht)
    | (split at ht <;> (injection ht with ht; subst ht))
  repeat' first
    | (with_reducible first | exact h | assumption | apply State.clearRegion_kept | apply State.freePart_kept | apply State.logEvent_kept
                             | apply State.regionDies_kept | apply State.restRegion_kept | apply State.spareNext_kept | apply kept_hostMem
                             | (apply kept_foldl; intro s a h) | apply kept_ite)
    | simp only [kept_mk_iff, kept_mk_rim_iff]
    | split

theorem execRimClearDone_kept {qs : List Instr} {s : State} (h : Kept qs s) {s1 : State} (ht : execRimClearDone s = .next s1) :
    Kept qs s1 := by
  unfold execRimClearDone at ht
  injection ht with ht
  subst ht
  split
  · exact h
  · rename_i e t _
    have h' := kept_rimMem (clearing := t) (sharedExts := s.rim.sharedExts)
      (memClear_wf ((96 * e.stack + e.base) * 2 ^ 30) (e.len * 2 ^ 30) h.ok.rimMem) h
    dsimp only
    split
    · exact State.setFld_kept h' _ _ _ _
    · exact h'

/-! ### Edge -/

theorem State.setEdgePort_kept {qs : List Instr} {s : State} (h : Kept qs s) (k : Nat) (x : EdgePort) :
    Kept qs (State.setEdgePort s k x) := by
  unfold State.setEdgePort
  repeat' first
    | (with_reducible first | exact h)
    | simp only [kept_mk_iff]

theorem State.noBind_kept {qs : List Instr} {s : State} (h : Kept qs s) :
    Kept qs (State.noBind s) := by
  unfold State.noBind
  repeat' first
    | (with_reducible first | exact h | apply State.bump_kept)

theorem State.settleChannels_kept {qs : List Instr} {s : State} (h : Kept qs s) :
    Kept qs (State.settleChannels s) := by
  unfold State.settleChannels
  repeat' first
    | (with_reducible first | exact h | assumption | apply kept_hostMem | (apply kept_foldl; intro s a h) | apply kept_ite)
    | simp only [kept_mk_iff, kept_mk_rim_iff]
    | split

theorem State.edgePump_kept {qs : List Instr} {s : State} (h : Kept qs s) (k : Nat) :
    Kept qs (State.edgePump s k) := by
  unfold State.edgePump
  repeat' first
    | (with_reducible first | exact h | apply State.injSend_kept | apply State.settleChannels_kept | apply State.bumpBy_kept
                             | apply State.setEdgePort_kept | apply kept_ite)

theorem State.edgeAck_kept {qs : List Instr} {s : State} (h : Kept qs s) (k : Nat) (h : Bytes) :
    Kept qs (State.edgeAck s k h) := by
  unfold State.edgeAck
  repeat' first
    | (with_reducible first | exact h | assumption | apply State.edgePump_kept | apply State.setEdgePort_kept | apply kept_ite)
    | split

theorem State.edgeTake_kept {qs : List Instr} {s : State} (h : Kept qs s) {k : Nat} {b : Bytes} {s1 : State} (ht : State.edgeTake s k b = some s1) :
    Kept qs s1 := by
  unfold State.edgeTake at ht
  dsimp only at ht
  split at ht
  · cases ht
  · injection ht with ht
    subst ht
    repeat' first
      | (with_reducible first | exact h | apply State.setEdgePort_kept | apply State.edgeAck_kept | apply State.bump_kept)

theorem execEdgeControlFrame_kept {qs : List Instr} {s : State} (h : Kept qs s) (k : Nat) (frame : Bytes) {s1 : State} (ht : execEdgeControlFrame k frame s = .next s1) :
    Kept qs s1 := by
  unfold execEdgeControlFrame at ht
  first
    | (injection ht with ht; subst ht)
    | (split at ht <;> (injection ht with ht; subst ht))
  repeat' first
    | (with_reducible first | exact h | assumption | apply State.edgeAck_kept | apply State.bump_kept | apply kept_ite)
    | split

theorem execEdgeControlTimer_kept {qs : List Instr} {s : State} (h : Kept qs s) (k : Nat) {s1 : State} (ht : execEdgeControlTimer k s = .next s1) :
    Kept qs s1 := by
  unfold execEdgeControlTimer at ht
  first
    | (injection ht with ht; subst ht)
    | (split at ht <;> (injection ht with ht; subst ht))
  repeat' first
    | (with_reducible first | exact h | assumption | apply State.bump_kept | apply State.setEdgePort_kept | apply kept_ite)
    | split

theorem execEdgeReplay_kept {qs : List Instr} {s : State} (h : Kept qs s) (k : Nat) (fromLseq : Option Nat) {s1 : State} (ht : execEdgeReplay k fromLseq s = .next s1) :
    Kept qs s1 := by
  unfold execEdgeReplay at ht
  first
    | (injection ht with ht; subst ht)
    | (split at ht <;> (injection ht with ht; subst ht))
  repeat' first
    | (with_reducible first | exact h | assumption | apply State.bump_kept | apply State.bumpBy_kept | apply kept_ite)
    | simp only [kept_mk_iff]
    | split

theorem State.edgeSend_kept {qs : List Instr} {s : State} (h : Kept qs s) {k : Nat} {key : Nat} {src : Nat} {raddr : Nat} {data : Bytes} {isSnd : Bool} {s1 : State} (ht : State.edgeSend s k key src raddr data isSnd = some s1) :
    Kept qs s1 := by
  unfold State.edgeSend at ht
  dsimp only at ht
  repeat' split at ht
  all_goals first
    | (injection ht with ht; subst ht)
    | cases ht
  repeat' first
    | (with_reducible first | exact h | apply State.violation_kept | apply State.noBind_kept | apply State.edgePump_kept
                             | apply State.settleChannels_kept | apply State.setEdgePort_kept)

theorem execEdgeSend_kept {qs : List Instr} {s : State} (h : Kept qs s) (k : Nat) (key : Nat) (src : Nat) (raddr : Nat) (data : Bytes) (isSnd : Bool) {s1 : State} (ht : execEdgeSend k key src raddr data isSnd s = .next s1) :
    Kept qs s1 := by
  injection ht with ht
  subst ht
  cases hs : s.edgeSend k key src raddr data isSnd with
  | none => exact h
  | some u => exact State.edgeSend_kept h hs

theorem State.edgeDeliver_kept {qs : List Instr} {s : State} (h : Kept qs s) (k : Nat) (p : Nat) (b : Bytes) :
    Kept qs (State.edgeDeliver s k p b) := by
  unfold State.edgeDeliver
  repeat' first
    | (with_reducible first | exact h | assumption | apply State.violation_kept | apply State.addFlit_kept | apply kept_ite)
    | simp only [kept_mk_iff]
    | split

theorem execEdgeFrameRx_kept {qs : List Instr} {s : State} (h : Kept qs s) (k : Nat) (frame : Bytes) {s1 : State} (ht : execEdgeFrameRx k frame s = .next s1) :
    Kept qs s1 := by
  unfold execEdgeFrameRx at ht
  first
    | (injection ht with ht; subst ht)
    | (split at ht <;> (injection ht with ht; subst ht))
  repeat' first
    | (with_reducible first | exact h | assumption | refine State.edgeTake_kept ?_ (by assumption) | apply State.bump_kept
                             | apply State.edgeDeliver_kept | apply State.noBind_kept | apply kept_ite)
    | split

theorem State.edgeJoin_kept {qs : List Instr} {s : State} (h : Kept qs s) (x1 : Nat) :
    Kept qs (State.edgeJoin s x1) := by
  induction x1 generalizing s with
  | zero => exact h
  | succ n ih =>
    unfold State.edgeJoin
    dsimp only
    repeat' first
      | (with_reducible first | exact h | assumption | apply ih | apply State.wr_kept | apply State.setSource_kept | apply kept_hostMem
                               | (apply kept_foldl; intro s a h) | apply kept_ite)
      | simp only [kept_mk_iff, kept_mk_rim_iff]
      | split

theorem State.pumpAll_kept {qs : List Instr} {s : State} (h : Kept qs s) (x1 : Nat) :
    Kept qs (State.pumpAll s x1) := by
  induction x1 generalizing s with
  | zero => exact h
  | succ n ih =>
    unfold State.pumpAll
    repeat' first
      | (with_reducible first | exact h | assumption | apply ih | apply State.ingPump_kept | apply kept_ite)
      | split

theorem execEdgeIngestFrame_kept {qs : List Instr} {s : State} (h : Kept qs s) (k : Nat) (frame : Bytes) {s1 : State} (ht : execEdgeIngestFrame k frame s = .next s1) :
    Kept qs s1 := by
  unfold execEdgeIngestFrame at ht
  first
    | (injection ht with ht; subst ht)
    | (split at ht <;> (injection ht with ht; subst ht))
  repeat' first
    | (with_reducible first | exact h | assumption | refine State.edgeTake_kept ?_ (by assumption) | apply State.bump_kept | apply State.noBind_kept
                             | apply State.edgeJoin_kept | apply State.pumpAll_kept | apply kept_hostMem | (apply kept_foldl; intro s a h)
                             | apply kept_ite)
    | simp only [kept_mk_iff, kept_mk_rim_iff]
    | split

theorem State.edgeDown_kept {qs : List Instr} {s : State} (h : Kept qs s) (k : Nat) :
    Kept qs (State.edgeDown s k) := by
  unfold State.edgeDown
  repeat' first
    | (with_reducible first | exact h | assumption | apply State.setEdgePort_kept | apply State.bumpBy_kept | apply State.ingFail_kept
                             | apply kept_ite)
    | split

theorem State.trainPort_kept {qs : List Instr} {s : State} (h : Kept qs s) (k : Nat) :
    Kept qs (State.trainPort s k) := by
  unfold State.trainPort
  repeat' first
    | (with_reducible first | exact h | apply State.bump_kept | apply State.setFld_kept)

theorem execEdgeLinkLoss_kept {qs : List Instr} {s : State} (h : Kept qs s) (k : Nat) {s1 : State} (ht : execEdgeLinkLoss k s = .next s1) :
    Kept qs s1 := by
  unfold execEdgeLinkLoss at ht
  first
    | (injection ht with ht; subst ht)
    | (split at ht <;> (injection ht with ht; subst ht))
  repeat' first
    | (with_reducible first | exact h | assumption | apply State.settleChannels_kept | apply State.trainPort_kept | apply State.edgeDown_kept
                             | apply kept_ite)
    | split

theorem execEdgeTrainRetry_kept {qs : List Instr} {s : State} (h : Kept qs s) (k : Nat) {s1 : State} (ht : execEdgeTrainRetry k s = .next s1) :
    Kept qs s1 := by
  unfold execEdgeTrainRetry at ht
  first
    | (injection ht with ht; subst ht)
    | (split at ht <;> (injection ht with ht; subst ht))
  repeat' first
    | (with_reducible first | exact h | assumption | apply State.trainPort_kept | apply kept_ite)
    | split

theorem execEdgeTrainingSettled_kept {qs : List Instr} {s : State} (h : Kept qs s) (k : Nat) (result : TrainResult) {s1 : State} (ht : execEdgeTrainingSettled k result s = .next s1) :
    Kept qs s1 := by
  unfold execEdgeTrainingSettled at ht
  first
    | (injection ht with ht; subst ht)
    | (split at ht <;> (injection ht with ht; subst ht))
  repeat' first
    | (with_reducible first | exact h | assumption | apply State.setFld_kept | apply State.setEdgePort_kept | apply State.settleChannels_kept
                             | apply State.deferred_kept | apply kept_ite)
    | split

theorem execRetrain_kept {qs : List Instr} {s : State} (h : Kept qs s) (v : Word) {s1 : State} (ht : execRetrain v s = .next s1) :
    Kept qs s1 := by
  unfold execRetrain at ht
  first
    | (injection ht with ht; subst ht)
    | (split at ht <;> (injection ht with ht; subst ht))
  repeat' first
    | (with_reducible first | exact h | assumption | apply State.reservedBits_kept | apply State.settleChannels_kept | apply State.trainPort_kept
                             | apply State.edgeDown_kept | apply kept_ite)
    | simp only [kept_mk_iff]
    | split

theorem execDisable_kept {qs : List Instr} {s : State} (h : Kept qs s) (v : Word) {s1 : State} (ht : execDisable v s = .next s1) :
    Kept qs s1 := by
  unfold execDisable at ht
  first
    | (injection ht with ht; subst ht)
    | (split at ht <;> (injection ht with ht; subst ht))
  repeat' first
    | (with_reducible first | exact h | assumption | apply State.setEdgePort_kept | apply State.edgeDown_kept | apply State.reservedBits_kept
                             | apply State.settleChannels_kept | apply State.setFld_kept | apply kept_ite)
    | simp only [kept_mk_iff]
    | split

theorem execEnable_kept {qs : List Instr} {s : State} (h : Kept qs s) (v : Word) {s1 : State} (ht : execEnable v s = .next s1) :
    Kept qs s1 := by
  unfold execEnable at ht
  first
    | (injection ht with ht; subst ht)
    | (split at ht <;> (injection ht with ht; subst ht))
  repeat' first
    | (with_reducible first | exact h | assumption | apply State.reservedBits_kept | apply State.trainPort_kept | apply kept_ite)
    | simp only [kept_mk_iff]
    | split

/-! ### Delivery -/

theorem State.weltRefuse_kept {qs : List Instr} {s : State} (h : Kept qs s) (f : Flit) (r : Nat) (q : Nat) :
    Kept qs (State.weltRefuse s f r q) := by
  unfold State.weltRefuse
  repeat' first
    | (with_reducible first | exact h | apply State.violation_kept)
    | simp only [kept_mk_iff]

theorem State.weltDeliver_kept {qs : List Instr} {s : State} (h : Kept qs s) {f : Flit} {r : Nat} {q : Nat} {w : WeltEp} {s1 : State} (ht : State.weltDeliver s f r q w = some s1) :
    Kept qs s1 := by
  unfold State.weltDeliver at ht
  split at ht
  · split at ht
    · injection ht with ht
      subst ht
      exact kept_ite (State.weltRefuse_kept h _ _ _) (State.batchRequest_kept h _ _)
    · split at ht
      · injection ht with ht
        subst ht
        exact kept_ite (State.weltRefuse_kept h _ _ _) (State.fallback_kept h _ _)
      · injection ht with ht
        subst ht
        exact State.weltRefuse_kept h _ _ _
  · split at ht
    all_goals
      injection ht with ht
      subst ht
    · exact State.candidateFlit_kept h _ _ _ _ _ _ _ _
    · exact State.weltRefuse_kept h _ _ _
  · exact State.edgeSend_kept h ht
  · injection ht with ht
    subst ht
    exact State.weltRefuse_kept h _ _ _

theorem State.weltDeliver_getD_kept {qs : List Instr} {s t : State} (h : Kept qs s) (ht : Kept qs t) (f : Flit) (r q : Nat) (w : WeltEp) :
    Kept qs ((s.weltDeliver f r q w).getD t) := by
  cases hs : s.weltDeliver f r q w with
  | none => exact ht
  | some u => exact State.weltDeliver_kept h hs

theorem State.deliverFlit_kept {qs : List Instr} {s : State} (h : Kept qs s) (i : Nat) :
    Kept qs (State.deliverFlit s i) := by
  unfold State.deliverFlit
  repeat' first
    | (with_reducible first | exact h | assumption | apply State.weltDeliver_getD_kept | apply State.deliverCore_kept | apply State.dropFlit_kept
                             | apply State.violation_kept | refine State.weltDeliver_kept ?_ (by assumption) | apply State.weltRefuse_kept
                             | apply kept_ite)
    | split

theorem execFlitDelivery_kept {qs : List Instr} {s : State} (h : Kept qs s) (i : Nat) {s1 : State} (ht : execFlitDelivery i s = .next s1) :
    Kept qs s1 := by
  unfold execFlitDelivery at ht
  first
    | (injection ht with ht; subst ht)
    | (split at ht <;> (injection ht with ht; subst ht))
  repeat' first
    | (with_reducible first | exact h | apply State.deliverFlit_kept)

theorem State.outConsume_kept {qs : List Instr} {s : State} (h : Kept qs s) (p : Nat) (v : Word) :
    Kept qs (State.outConsume s p v) := by
  unfold State.outConsume
  repeat' first
    | (with_reducible first | exact h | assumption | apply State.bump_kept | apply State.wakeWaiting_kept | apply State.wr_kept | apply kept_ite)
    | split

theorem execOutCiWrite_kept {qs : List Instr} {s : State} (h : Kept qs s) (p : Nat) (v : Word) {s1 : State} (ht : execOutCiWrite p v s = .next s1) :
    Kept qs s1 := by
  unfold execOutCiWrite at ht
  first
    | (injection ht with ht; subst ht)
    | (split at ht <;> (injection ht with ht; subst ht))
  repeat' first
    | (with_reducible first | exact h | apply State.outConsume_kept | apply kept_ite)

theorem execOutCfgWrite_kept {qs : List Instr} {s : State} (h : Kept qs s) (p : Nat) (off : Nat) (v : Word) {s1 : State} (ht : execOutCfgWrite p off v s = .next s1) :
    Kept qs s1 := by
  unfold execOutCfgWrite at ht
  first
    | (injection ht with ht; subst ht)
    | (split at ht <;> (injection ht with ht; subst ht))
  repeat' first
    | (with_reducible first | exact h | assumption | apply State.writeRW_kept | apply State.flushRecords_kept | apply kept_ite)
    | split

theorem execPrecisionCfgWrite_kept {qs : List Instr} {s : State} (h : Kept qs s) (p : Nat) (v : Word) {s1 : State} (ht : execPrecisionCfgWrite p v s = .next s1) :
    Kept qs s1 := by
  unfold execPrecisionCfgWrite at ht
  first
    | (injection ht with ht; subst ht)
    | (split at ht <;> (injection ht with ht; subst ht))
  repeat' first
    | (with_reducible first | exact h | apply State.writeRW_kept | apply kept_ite)

/-! ### SecOps -/

theorem State.showSec_kept {qs : List Instr} {s : State} (h : Kept qs s) :
    Kept qs (State.showSec s) := by
  unfold State.showSec
  repeat' first
    | (with_reducible first | exact h | assumption | apply State.wr_kept | apply State.wr64_kept | apply kept_hostMem
                             | (apply kept_foldl; intro s a h) | apply kept_ite)
    | simp only [kept_mk_iff, kept_mk_rim_iff]
    | split

theorem State.showCounters_kept {qs : List Instr} {s : State} (h : Kept qs s) :
    Kept qs (State.showCounters s) := by
  unfold State.showCounters
  repeat' first
    | (with_reducible first | exact h | apply State.setFld_kept)

theorem State.fuseRefused_kept {qs : List Instr} {s : State} (h : Kept qs s) :
    Kept qs (State.fuseRefused s) := by
  unfold State.fuseRefused
  repeat' first
    | (with_reducible first | exact h | apply State.bump_kept)

theorem State.secFails_kept {qs : List Instr} {s : State} (h : Kept qs s) :
    Kept qs (State.secFails s) := by
  unfold State.secFails
  repeat' first
    | (with_reducible first | exact h | assumption | apply State.deviceFatal_kept | apply State.showSec_kept | apply kept_hostMem
                             | (apply kept_foldl; intro s a h) | apply kept_ite)
    | simp only [kept_mk_iff, kept_mk_rim_iff]
    | split

/-! ### Mgmt -/

theorem State.mailDone_kept {qs : List Instr} {s : State} (h : Kept qs s) (seq : Option Nat) (status : Nat) (data : Nat) :
    Kept qs (State.mailDone s seq status data) := by
  unfold State.mailDone
  repeat' first
    | (with_reducible first | exact h | assumption | apply State.wr_kept | apply State.setFld_kept | apply State.signal_kept | apply kept_ite)
    | split

theorem State.dropCmd_kept {qs : List Instr} {s : State} (h : Kept qs s) :
    Kept qs (State.dropCmd s) := by
  unfold State.dropCmd
  repeat' first
    | (with_reducible first | exact h)
    | simp only [kept_mk_iff]

theorem State.cmdDone_kept {qs : List Instr} {s : State} (h : Kept qs s) (status : Nat) (data : Nat) :
    Kept qs (State.cmdDone s status data) := by
  unfold State.cmdDone
  repeat' first
    | (with_reducible first | exact h | assumption | apply State.mailDone_kept | apply State.dropCmd_kept | apply kept_ite)
    | split

theorem State.acceptCmd_kept {qs : List Instr} {s : State} (h : Kept qs s) (c : MgtCmd) :
    Kept qs (State.acceptCmd s c) := by
  unfold State.acceptCmd
  repeat' first
    | (with_reducible first | exact h | assumption | apply State.mailDone_kept | apply kept_ite)
    | simp only [kept_mk_iff]
    | split

theorem State.mgtCmdWrite_kept {qs : List Instr} {s : State} (h : Kept qs s) (port : Nat) (v : Word) :
    Kept qs (State.mgtCmdWrite s port v) := by
  unfold State.mgtCmdWrite
  repeat' first
    | (with_reducible first | exact h | assumption | apply State.bump_kept | apply State.acceptCmd_kept | apply State.setFld_kept | apply kept_ite)
    | split

theorem execLogCopy_kept {qs : List Instr} {s : State} (h : Kept qs s) (block : Option Bytes) {s1 : State} (ht : execLogCopy block s = .next s1) :
    Kept qs s1 := by
  unfold execLogCopy at ht
  first
    | (injection ht with ht; subst ht)
    | (split at ht <;> (injection ht with ht; subst ht))
  repeat' first
    | (with_reducible first | exact h | assumption | apply State.cmdDone_kept | apply State.hostWrite_kept | apply kept_ite)
    | split

theorem State.setBank_kept {qs : List Instr} {s : State} (h : Kept qs s) (b : Nat) (x : Bank) :
    Kept qs (State.setBank s b x) := by
  unfold State.setBank
  repeat' first
    | (with_reducible first | exact h)
    | simp only [kept_mk_iff]

theorem State.stageImage_kept {qs : List Instr} {s : State} (h : Kept qs s) (img : Bytes) :
    Kept qs (State.stageImage s img).1 := by
  unfold State.stageImage
  repeat' first
    | (with_reducible first | exact h | assumption | apply State.setBank_kept | apply State.setFld_kept | apply State.logEvent_kept
                             | apply kept_hostMem | (apply kept_foldl; intro s a h) | apply kept_ite)
    | simp only [kept_mk_iff, kept_mk_rim_iff]
    | split

theorem State.finishStage_kept {qs : List Instr} {s : State} (h : Kept qs s) (img : Bytes) :
    Kept qs (State.finishStage s img) := by
  unfold State.finishStage
  repeat' first
    | (with_reducible first | exact h | apply State.stageImage_kept | apply State.cmdDone_kept)

theorem State.waitGate_kept {qs : List Instr} {s : State} (h : Kept qs s) (op : Nat) (img : Bytes) :
    Kept qs (State.waitGate s op img) := by
  unfold State.waitGate
  repeat' first
    | (with_reducible first | exact h | apply State.bump_kept)
    | simp only [kept_mk_iff]

theorem execStage_kept {qs : List Instr} {s : State} (h : Kept qs s) (block : Option Bytes) (image : Option Bytes) {s1 : State} (ht : execStage block image s = .next s1) :
    Kept qs s1 := by
  unfold execStage at ht
  first
    | (injection ht with ht; subst ht)
    | (split at ht <;> (injection ht with ht; subst ht))
  repeat' first
    | (with_reducible first | exact h | assumption | apply State.cmdDone_kept | apply State.finishStage_kept | apply State.waitGate_kept
                             | apply State.setFld_kept | apply kept_ite)
    | simp only [kept_mk_iff]
    | split

theorem State.finishSelect_kept {qs : List Instr} {s : State} (h : Kept qs s) :
    Kept qs (State.finishSelect s) := by
  unfold State.finishSelect
  repeat' first
    | (with_reducible first | exact h | apply State.setFld_kept | apply State.cmdDone_kept | apply State.logEvent_kept)
    | simp only [kept_mk_iff]

theorem execSelect_kept {qs : List Instr} {s : State} (h : Kept qs s) {s1 : State} (ht : execSelect s = .next s1) :
    Kept qs s1 := by
  unfold execSelect at ht
  first
    | (injection ht with ht; subst ht)
    | (split at ht <;> (injection ht with ht; subst ht))
  repeat' first
    | (with_reducible first | exact h | assumption | apply State.cmdDone_kept | apply State.finishSelect_kept | apply State.waitGate_kept
                             | apply kept_ite)
    | split

theorem execFlashWriteResume_kept {qs : List Instr} {s : State} (h : Kept qs s) {s1 : State} (ht : execFlashWriteResume s = .next s1) :
    Kept qs s1 := by
  unfold execFlashWriteResume at ht
  first
    | (injection ht with ht; subst ht)
    | (split at ht <;> (injection ht with ht; subst ht))
  repeat' first
    | (with_reducible first | exact h | assumption | apply State.setFld_kept | apply State.logEvent_kept | apply State.finishStage_kept
                             | apply State.finishSelect_kept | apply kept_hostMem | (apply kept_foldl; intro s a h) | apply kept_ite)
    | simp only [kept_mk_iff, kept_mk_rim_iff]
    | split

theorem execStageFlashGateTimeout_kept {qs : List Instr} {s : State} (h : Kept qs s) {s1 : State} (ht : execStageFlashGateTimeout s = .next s1) :
    Kept qs s1 := by
  unfold execStageFlashGateTimeout at ht
  first
    | (injection ht with ht; subst ht)
    | (split at ht <;> (injection ht with ht; subst ht))
  repeat' first
    | (with_reducible first | exact h | assumption | apply State.cmdDone_kept | apply State.setFld_kept | apply kept_hostMem
                             | (apply kept_foldl; intro s a h) | apply kept_ite)
    | simp only [kept_mk_iff, kept_mk_rim_iff]
    | split

theorem State.advanceCounter_kept {qs : List Instr} {s : State} (h : Kept qs s) (sub : Bool) :
    Kept qs (State.advanceCounter s sub) := by
  unfold State.advanceCounter
  repeat' first
    | (with_reducible first | exact h | assumption | apply State.fuseRefused_kept | apply State.logEvent_kept | apply State.showCounters_kept
                             | apply kept_hostMem | (apply kept_foldl; intro s a h) | apply kept_ite)
    | simp only [kept_mk_iff, kept_mk_rim_iff]
    | split

theorem execRollbackCounterAdvance_kept {qs : List Instr} {s : State} (h : Kept qs s) {s1 : State} (ht : execRollbackCounterAdvance s = .next s1) :
    Kept qs s1 := by
  unfold execRollbackCounterAdvance at ht
  first
    | (injection ht with ht; subst ht)
    | (split at ht <;> (injection ht with ht; subst ht))
  repeat' first
    | (with_reducible first | exact h | assumption | apply State.advanceCounter_kept | apply kept_ite)
    | simp only [kept_mk_iff]
    | split

theorem execSvcClear_kept {qs : List Instr} {s : State} (h : Kept qs s) (block : Option Bytes) {s1 : State} (ht : execSvcClear block s = .next s1) :
    Kept qs s1 := by
  unfold execSvcClear at ht
  first
    | (injection ht with ht; subst ht)
    | (split at ht <;> (injection ht with ht; subst ht))
  repeat' first
    | (with_reducible first | exact h | assumption | apply State.cmdDone_kept | apply State.logEvent_kept | apply kept_hostMem
                             | (apply kept_foldl; intro s a h) | apply kept_ite)
    | simp only [kept_mk_iff, kept_mk_rim_iff]
    | split

theorem execDebugAccess_kept {qs : List Instr} {s : State} (h : Kept qs s) (block : Option Bytes) (buffer : Option Bytes) {s1 : State} (ht : execDebugAccess block buffer s = .next s1) :
    Kept qs s1 := by
  unfold execDebugAccess at ht
  first
    | (injection ht with ht; subst ht)
    | (split at ht <;> (injection ht with ht; subst ht))
  repeat' first
    | (with_reducible first | exact h | assumption | apply State.cmdDone_kept | apply State.logEvent_kept | apply State.modRegion_kept
                             | apply State.modCoreAt_kept | apply State.hostWrite_kept | apply kept_ite)
    | split

end Sys2Proof.Machine
end

