-- ==== Sys2Proof/Laws/KeptPlant.lean ====
section
/-! SUPPORT. What each operation and command keeps of queue and canonical form: power, cooling, scrubbing, bring-up, faults. -/

namespace Sys2Proof.Machine

/-! ### Power -/

theorem State.showFeeds_kept {qs : List Instr} {s : State} (h : Kept qs s) :
    Kept qs (State.showFeeds s) := by
  unfold State.showFeeds
  repeat' first
    | (with_reducible first | exact h | assumption | apply State.setFld_kept | apply kept_hostMem | (apply kept_foldl; intro s a h) | apply kept_ite)
    | simp only [kept_mk_iff, kept_mk_rim_iff]
    | split

theorem State.feedLost_kept {qs : List Instr} {s : State} (h : Kept qs s) (f : Nat) :
    Kept qs (State.feedLost s f) := by
  unfold State.feedLost
  repeat' first
    | (with_reducible first | exact h | apply State.bump_kept | apply State.checkConditions_kept | apply State.logEvent_kept)

theorem execFeedValid_kept {qs : List Instr} {s : State} (h : Kept qs s) (f : Nat) (centivolt : Nat) {s1 : State} (ht : execFeedValid f centivolt s = .next s1) :
    Kept qs s1 := by
  unfold execFeedValid at ht
  first
    | (injection ht with ht; subst ht)
    | (split at ht <;> (injection ht with ht; subst ht))
  repeat' first
    | (with_reducible first | exact h | assumption | apply State.showFeeds_kept | apply State.logEvent_kept | apply State.checkConditions_kept
                             | apply kept_ite)
    | simp only [kept_mk_iff]
    | split

theorem execFeedInvalid_kept {qs : List Instr} {s : State} (h : Kept qs s) (f : Nat) (centivolt : Nat) {s1 : State} (ht : execFeedInvalid f centivolt s = .next s1) :
    Kept qs s1 := by
  unfold execFeedInvalid at ht
  first
    | (injection ht with ht; subst ht)
    | (split at ht <;> (injection ht with ht; subst ht))
  repeat' first
    | (with_reducible first | exact h | assumption | apply State.feedLost_kept | apply State.showFeeds_kept | apply kept_hostMem
                             | (apply kept_foldl; intro s a h) | apply kept_ite)
    | simp only [kept_mk_iff, kept_mk_rim_iff]
    | split

theorem execFeedPresentOpen_kept {qs : List Instr} {s : State} (h : Kept qs s) (f : Nat) {s1 : State} (ht : execFeedPresentOpen f s = .next s1) :
    Kept qs s1 := by
  unfold execFeedPresentOpen at ht
  first
    | (injection ht with ht; subst ht)
    | (split at ht <;> (injection ht with ht; subst ht))
  repeat' first
    | (with_reducible first | exact h | assumption | apply State.feedLost_kept | apply State.showFeeds_kept | apply kept_hostMem
                             | (apply kept_foldl; intro s a h) | apply kept_ite)
    | simp only [kept_mk_iff, kept_mk_rim_iff]
    | split

theorem State.ungovern_kept {qs : List Instr} {s : State} (h : Kept qs s) :
    Kept qs (State.ungovern s) := by
  unfold State.ungovern
  repeat' first
    | (with_reducible first | exact h | assumption | apply kept_hostMem | (apply kept_foldl; intro s a h) | apply kept_ite)
    | simp only [kept_mk_iff, kept_mk_rim_iff]
    | split

theorem execHoldupStart_kept {qs : List Instr} {s : State} (h : Kept qs s) {s1 : State} (ht : execHoldupStart s = .next s1) :
    Kept qs s1 := by
  unfold execHoldupStart at ht
  first
    | (injection ht with ht; subst ht)
    | (split at ht <;> (injection ht with ht; subst ht))
  repeat' first
    | (with_reducible first | exact h | assumption | apply State.ungovern_kept | apply State.showFeeds_kept | apply State.announceAll_kept
                             | apply State.logEvent_kept | apply State.checkConditions_kept | apply kept_hostMem | (apply kept_foldl; intro s a h)
                             | apply kept_ite)
    | simp only [kept_mk_iff, kept_mk_rim_iff]
    | split

theorem State.showField_kept {qs : List Instr} {s : State} (h : Kept qs s) (f : Nat) :
    Kept qs (State.showField s f) := by
  unfold State.showField
  repeat' first
    | (with_reducible first | exact h | assumption | apply State.setFld_kept | apply State.showLimit_kept | apply kept_hostMem
                             | (apply kept_foldl; intro s a h) | apply kept_ite)
    | simp only [kept_mk_iff, kept_mk_rim_iff]
    | split

theorem State.converterOff_kept {qs : List Instr} {s : State} (h : Kept qs s) (i : Nat) :
    Kept qs (State.converterOff s i) := by
  unfold State.converterOff
  repeat' first
    | (with_reducible first | exact h | assumption | apply State.showField_kept | apply State.deviceFatal_kept | apply State.deferred_kept
                             | apply kept_hostMem | (apply kept_foldl; intro s a h) | apply kept_ite)
    | simp only [kept_mk_iff, kept_mk_rim_iff]
    | split

theorem execConverterFail_kept {qs : List Instr} {s : State} (h : Kept qs s) (i : Nat) {s1 : State} (ht : execConverterFail i s = .next s1) :
    Kept qs s1 := by
  unfold execConverterFail at ht
  first
    | (injection ht with ht; subst ht)
    | (split at ht <;> (injection ht with ht; subst ht))
  repeat' first
    | (with_reducible first | exact h | apply State.checkConditions_kept | apply State.converterOff_kept)

theorem State.setFcap_kept {qs : List Instr} {s : State} (h : Kept qs s) (f : Nat) (k : Nat) :
    Kept qs (State.setFcap s f k) := by
  unfold State.setFcap
  repeat' first
    | (with_reducible first | exact h | assumption | apply State.setFld_kept | apply State.checkConditions_kept | apply State.announce_kept
                             | apply kept_hostMem | (apply kept_foldl; intro s a h) | apply kept_ite)
    | simp only [kept_mk_iff, kept_mk_rim_iff]
    | split

theorem execFieldCapAdjust_kept {qs : List Instr} {s : State} (h : Kept qs s) (f : Nat) (amps : Nat) {s1 : State} (ht : execFieldCapAdjust f amps s = .next s1) :
    Kept qs s1 := by
  unfold execFieldCapAdjust at ht
  first
    | (injection ht with ht; subst ht)
    | (split at ht <;> (injection ht with ht; subst ht))
  repeat' first
    | (with_reducible first | exact h | assumption | apply State.setFld_kept | apply State.showField_kept | apply State.setFcap_kept
                             | apply kept_hostMem | (apply kept_foldl; intro s a h) | apply kept_ite)
    | simp only [kept_mk_iff, kept_mk_rim_iff]
    | split

theorem execPhaseFail_kept {qs : List Instr} {s : State} (h : Kept qs s) (r : Nat) (memRail : Bool) (i : Nat) {s1 : State} (ht : execPhaseFail r memRail i s = .next s1) :
    Kept qs s1 := by
  unfold execPhaseFail at ht
  first
    | (injection ht with ht; subst ht)
    | (split at ht <;> (injection ht with ht; subst ht))
  repeat' first
    | (with_reducible first | exact h | assumption | apply State.showLimit_kept | apply State.setFld_kept | apply State.deferred_kept
                             | apply kept_ite)
    | split

theorem execRegionPowerDown_kept {qs : List Instr} {s : State} (h : Kept qs s) (r : Nat) {s1 : State} (ht : execRegionPowerDown r s = .next s1) :
    Kept qs s1 := by
  unfold execRegionPowerDown at ht
  first
    | (injection ht with ht; subst ht)
    | (split at ht <;> (injection ht with ht; subst ht))
  repeat' first
    | (with_reducible first | exact h | assumption | apply State.ungovern_kept | apply State.modRegion_kept | apply State.stopPart_kept
                             | apply kept_ite)
    | simp only [kept_mk_iff]
    | split

theorem execPowerDownProceed_kept {qs : List Instr} {s : State} (h : Kept qs s) (r : Nat) {s1 : State} (ht : execPowerDownProceed r s = .next s1) :
    Kept qs s1 := by
  unfold execPowerDownProceed at ht
  first
    | (injection ht with ht; subst ht)
    | (split at ht <;> (injection ht with ht; subst ht))
  repeat' first
    | (with_reducible first | exact h | assumption | apply State.checkConditions_kept | apply State.regionDies_kept | apply kept_ite)
    | split

theorem execCurrentLimiterTrip_kept {qs : List Instr} {s : State} (h : Kept qs s) (r : Nat) {s1 : State} (ht : execCurrentLimiterTrip r s = .next s1) :
    Kept qs s1 := by
  unfold execCurrentLimiterTrip at ht
  first
    | (injection ht with ht; subst ht)
    | (split at ht <;> (injection ht with ht; subst ht))
  repeat' first
    | (with_reducible first | exact h | assumption | apply State.ungovern_kept | apply State.modRegion_kept | apply State.checkConditions_kept
                             | apply State.regionDies_kept | apply kept_ite)
    | simp only [kept_mk_iff]
    | split

theorem State.showWakes_kept {qs : List Instr} {s : State} (h : Kept qs s) (f : Nat) :
    Kept qs (State.showWakes s f) := by
  unfold State.showWakes
  repeat' first
    | (with_reducible first | exact h | apply State.setFld_kept)

theorem execWakeStageRequest_kept {qs : List Instr} {s : State} (h : Kept qs s) (r : Nat) {s1 : State} (ht : execWakeStageRequest r s = .next s1) :
    Kept qs s1 := by
  unfold execWakeStageRequest at ht
  first
    | (injection ht with ht; subst ht)
    | (split at ht <;> (injection ht with ht; subst ht))
  repeat' first
    | (with_reducible first | exact h | assumption | apply State.modRegion_kept | apply State.showWakes_kept | apply kept_hostMem
                             | (apply kept_foldl; intro s a h) | apply kept_ite)
    | simp only [kept_mk_iff, kept_mk_rim_iff]
    | split

theorem State.wakeGrant_kept {qs : List Instr} {s : State} (h : Kept qs s) (f : Nat) :
    Kept qs (State.wakeGrant s f) := by
  unfold State.wakeGrant
  repeat' first
    | (with_reducible first | exact h | apply State.bump_kept | apply State.modRegion_kept | apply kept_ite)
    | simp only [kept_mk_iff]
    | split

theorem execWakeStageGrant_kept {qs : List Instr} {s : State} (h : Kept qs s) (f : Nat) {s1 : State} (ht : execWakeStageGrant f s = .next s1) :
    Kept qs s1 := by
  unfold execWakeStageGrant at ht
  first
    | (injection ht with ht; subst ht)
    | (split at ht <;> (injection ht with ht; subst ht))
  repeat' first
    | (with_reducible first | exact h | apply State.wakeGrant_kept)

theorem State.powerCores_kept {qs : List Instr} {s : State} (h : Kept qs s) (r : Nat) (m : BitVec 18) :
    Kept qs (State.powerCores s r m) := by
  unfold State.powerCores
  repeat' first
    | (with_reducible first | exact h | apply State.mapCores_kept)

theorem execWakeComplete_kept {qs : List Instr} {s : State} (h : Kept qs s) (r : Nat) {s1 : State} (ht : execWakeComplete r s = .next s1) :
    Kept qs s1 := by
  unfold execWakeComplete at ht
  first
    | (injection ht with ht; subst ht)
    | (split at ht <;> (injection ht with ht; subst ht))
  repeat' first
    | (with_reducible first | exact h | assumption | apply State.modRegion_kept | apply State.powerCores_kept | apply State.showLimit_kept
                             | apply State.bump_kept | apply State.setFld_kept | apply State.showWakes_kept | apply kept_hostMem
                             | (apply kept_foldl; intro s a h) | apply kept_ite)
    | simp only [kept_mk_iff, kept_mk_rim_iff]
    | split

theorem execRushPriorityRaise_kept {qs : List Instr} {s : State} (h : Kept qs s) (f : Nat) {s1 : State} (ht : execRushPriorityRaise f s = .next s1) :
    Kept qs s1 := by
  unfold execRushPriorityRaise at ht
  first
    | (injection ht with ht; subst ht)
    | (split at ht <;> (injection ht with ht; subst ht))
  repeat' first
    | (with_reducible first | exact h | assumption | apply State.bump_kept | apply State.setFld_kept | apply State.checkConditions_kept
                             | apply State.announce_kept | apply kept_hostMem | (apply kept_foldl; intro s a h) | apply kept_ite)
    | simp only [kept_mk_iff, kept_mk_rim_iff]
    | split

theorem execRushPriorityLift_kept {qs : List Instr} {s : State} (h : Kept qs s) (f : Nat) {s1 : State} (ht : execRushPriorityLift f s = .next s1) :
    Kept qs s1 := by
  unfold execRushPriorityLift at ht
  first
    | (injection ht with ht; subst ht)
    | (split at ht <;> (injection ht with ht; subst ht))
  repeat' first
    | (with_reducible first | exact h | assumption | apply State.setFld_kept | apply State.checkConditions_kept | apply State.announce_kept
                             | apply kept_hostMem | (apply kept_foldl; intro s a h) | apply kept_ite)
    | simp only [kept_mk_iff, kept_mk_rim_iff]
    | split

theorem execBallastWindow_kept {qs : List Instr} {s : State} (h : Kept qs s) (r : Nat) (activity : Nat) {s1 : State} (ht : execBallastWindow r activity s = .next s1) :
    Kept qs s1 := by
  unfold execBallastWindow at ht
  first
    | (injection ht with ht; subst ht)
    | (split at ht <;> (injection ht with ht; subst ht))
  repeat' first
    | (with_reducible first | exact h | assumption | apply State.modRegion_kept | apply kept_ite)
    | split

theorem execClockStepChange_kept {qs : List Instr} {s : State} (h : Kept qs s) (v : Word) {s1 : State} (ht : execClockStepChange v s = .next s1) :
    Kept qs s1 := by
  unfold execClockStepChange at ht
  first
    | (injection ht with ht; subst ht)
    | (split at ht <;> (injection ht with ht; subst ht))
  repeat' first
    | (with_reducible first | exact h | assumption | apply State.writeRW_kept | apply State.ungovern_kept | apply State.setFld_kept
                             | apply State.checkConditions_kept | apply State.logEvent_kept | apply kept_ite)
    | simp only [kept_mk_iff]
    | split

theorem State.showRail_kept {qs : List Instr} {s : State} (h : Kept qs s) (r : Nat) :
    Kept qs (State.showRail s r) := by
  unfold State.showRail
  repeat' first
    | (with_reducible first | exact h | apply State.setFld_kept)

theorem execGlideDone_kept {qs : List Instr} {s : State} (h : Kept qs s) {s1 : State} (ht : execGlideDone s = .next s1) :
    Kept qs s1 := by
  unfold execGlideDone at ht
  first
    | (injection ht with ht; subst ht)
    | (split at ht <;> (injection ht with ht; subst ht))
  repeat' first
    | (with_reducible first | exact h | assumption | apply State.setFld_kept | apply State.showRail_kept | apply State.checkConditions_kept
                             | apply kept_hostMem | (apply kept_foldl; intro s a h) | apply kept_ite)
    | simp only [kept_mk_iff, kept_mk_rim_iff]
    | split

theorem execPwrBallastWrite_kept {qs : List Instr} {s : State} (h : Kept qs s) (v : Word) {s1 : State} (ht : execPwrBallastWrite v s = .next s1) :
    Kept qs s1 := by
  unfold execPwrBallastWrite at ht
  first
    | (injection ht with ht; subst ht)
    | (split at ht <;> (injection ht with ht; subst ht))
  repeat' first
    | (with_reducible first | exact h | apply State.writeRW_kept | apply kept_ite)

theorem State.overrun_kept {qs : List Instr} {s : State} (h : Kept qs s) (r : Nat) (p : Nat) :
    Kept qs (State.overrun s r p) := by
  unfold State.overrun
  repeat' first
    | (with_reducible first | exact h | apply State.modRegion_kept | apply State.checkConditions_kept | apply State.announce_kept
                             | apply State.deferred_kept)

theorem execActivityWindowEnd_kept {qs : List Instr} {s : State} (h : Kept qs s) (r : Nat) (sum : Nat) {s1 : State} (ht : execActivityWindowEnd r sum s = .next s1) :
    Kept qs s1 := by
  unfold execActivityWindowEnd at ht
  first
    | (injection ht with ht; subst ht)
    | (split at ht <;> (injection ht with ht; subst ht))
  repeat' first
    | (with_reducible first | exact h | assumption | apply State.overrun_kept | apply State.bump_kept | apply State.modRegion_kept
                             | apply State.checkConditions_kept | apply State.announce_kept | apply kept_ite)
    | split

theorem execPowerOverrunCheck_kept {qs : List Instr} {s : State} (h : Kept qs s) (r : Nat) (milliwatt : Nat) (coreMilliamp : Nat) {s1 : State} (ht : execPowerOverrunCheck r milliwatt coreMilliamp s = .next s1) :
    Kept qs s1 := by
  unfold execPowerOverrunCheck at ht
  first
    | (injection ht with ht; subst ht)
    | (split at ht <;> (injection ht with ht; subst ht))
  repeat' first
    | (with_reducible first | exact h | assumption | apply State.setFld_kept | apply State.modRegion_kept | apply State.wr64_kept
                             | apply State.overrun_kept | apply State.bump_kept | apply kept_hostMem | (apply kept_foldl; intro s a h)
                             | apply kept_ite)
    | simp only [kept_mk_iff, kept_mk_rim_iff]
    | split

theorem execPwrEnergyLoRead_kept {qs : List Instr} {s : State} (h : Kept qs s) (port : Nat) {s1 : State} (ht : execPwrEnergyLoRead port s = .next s1) :
    Kept qs s1 := by
  unfold execPwrEnergyLoRead at ht
  first
    | (injection ht with ht; subst ht)
    | (split at ht <;> (injection ht with ht; subst ht))
  repeat' first
    | (with_reducible first | exact h | apply State.capture_kept)

theorem execRgnwPwrELoRead_kept {qs : List Instr} {s : State} (h : Kept qs s) (port : Nat) (r : Nat) {s1 : State} (ht : execRgnwPwrELoRead port r s = .next s1) :
    Kept qs s1 := by
  unfold execRgnwPwrELoRead at ht
  first
    | (injection ht with ht; subst ht)
    | (split at ht <;> (injection ht with ht; subst ht))
  repeat' first
    | (with_reducible first | exact h | apply State.capture_kept)
    | simp only [kept_mk_iff]

theorem execRgnwVminTcLoRead_kept {qs : List Instr} {s : State} (h : Kept qs s) (port : Nat) (r : Nat) {s1 : State} (ht : execRgnwVminTcLoRead port r s = .next s1) :
    Kept qs s1 := by
  unfold execRgnwVminTcLoRead at ht
  first
    | (injection ht with ht; subst ht)
    | (split at ht <;> (injection ht with ht; subst ht))
  repeat' first
    | (with_reducible first | exact h | apply State.capture_kept)

theorem execRgnwVminTmLoRead_kept {qs : List Instr} {s : State} (h : Kept qs s) (port : Nat) (r : Nat) {s1 : State} (ht : execRgnwVminTmLoRead port r s = .next s1) :
    Kept qs s1 := by
  unfold execRgnwVminTmLoRead at ht
  first
    | (injection ht with ht; subst ht)
    | (split at ht <;> (injection ht with ht; subst ht))
  repeat' first
    | (with_reducible first | exact h | apply State.capture_kept)

theorem execRailVoltageSample_kept {qs : List Instr} {s : State} (h : Kept qs s) (r : Nat) (memRail : Bool) (mv : Nat) {s1 : State} (ht : execRailVoltageSample r memRail mv s = .next s1) :
    Kept qs s1 := by
  unfold execRailVoltageSample at ht
  first
    | (injection ht with ht; subst ht)
    | (split at ht <;> (injection ht with ht; subst ht))
  repeat' first
    | (with_reducible first | exact h | assumption | apply State.setFld_kept | apply State.wr64_kept | apply kept_ite)
    | split

theorem State.post_kept {qs : List Instr} {s : State} (h : Kept qs s) (r : Nat) (w : Posted) :
    Kept qs (State.post s r w) := by
  unfold State.post
  repeat' first
    | (with_reducible first | exact h | assumption | apply State.bump_kept | apply State.setFld_kept | apply State.modRegion_kept | apply kept_ite)
    | split

theorem State.clearVmin_kept {qs : List Instr} {s : State} (h : Kept qs s) (r : Nat) (memRail : Bool) :
    Kept qs (State.clearVmin s r memRail) := by
  unfold State.clearVmin
  repeat' first
    | (with_reducible first | exact h | apply State.setFld_kept)

theorem execVminValidClear_kept {qs : List Instr} {s : State} (h : Kept qs s) (r : Nat) (memRail : Bool) (v : Word) {s1 : State} (ht : execVminValidClear r memRail v s = .next s1) :
    Kept qs s1 := by
  unfold execVminValidClear at ht
  first
    | (injection ht with ht; subst ht)
    | (split at ht <;> (injection ht with ht; subst ht))
  repeat' first
    | (with_reducible first | exact h | assumption | apply State.reservedBits_kept | apply State.clearVmin_kept | apply State.post_kept
                             | apply kept_ite)
    | simp only [kept_mk_iff]
    | split

theorem execRgnwTrcIdxWrite_kept {qs : List Instr} {s : State} (h : Kept qs s) (r : Nat) (v : Word) {s1 : State} (ht : execRgnwTrcIdxWrite r v s = .next s1) :
    Kept qs s1 := by
  unfold execRgnwTrcIdxWrite at ht
  first
    | (injection ht with ht; subst ht)
    | (split at ht <;> (injection ht with ht; subst ht))
  repeat' first
    | (with_reducible first | exact h | assumption | apply State.post_kept | apply kept_ite)
    | simp only [kept_mk_iff]
    | split

theorem execPostedWriteApply_kept {qs : List Instr} {s : State} (h : Kept qs s) (r : Nat) {s1 : State} (ht : execPostedWriteApply r s = .next s1) :
    Kept qs s1 := by
  unfold execPostedWriteApply at ht
  first
    | (injection ht with ht; subst ht)
    | (split at ht <;> (injection ht with ht; subst ht))
  repeat' first
    | (with_reducible first | exact h | assumption | apply State.setFld_kept | apply State.modRegion_kept | apply State.writeRW_kept
                             | apply State.clearVmin_kept | apply kept_ite)
    | split

theorem execDistIdxWrite_kept {qs : List Instr} {s : State} (h : Kept qs s) (v : Word) {s1 : State} (ht : execDistIdxWrite v s = .next s1) :
    Kept qs s1 := by
  unfold execDistIdxWrite at ht
  first
    | (injection ht with ht; subst ht)
    | (split at ht <;> (injection ht with ht; subst ht))
  repeat' first
    | (with_reducible first | exact h | apply State.writeRW_kept | apply kept_ite)

/-! ### Thermal -/

theorem State.powerDownAll_kept {qs : List Instr} {s : State} (h : Kept qs s) :
    Kept qs (State.powerDownAll s) := by
  unfold State.powerDownAll
  repeat' first
    | (with_reducible first | exact h | assumption | apply State.cutPower_kept | apply State.freePart_kept | apply State.purgeFabric_kept
                             | apply kept_hostMem | (apply kept_foldl; intro s a h) | apply kept_ite)
    | simp only [kept_mk_iff, kept_mk_rim_iff]
    | split

theorem State.shutdown_kept {qs : List Instr} {s : State} (h : Kept qs s) (cause : Nat) :
    Kept qs (State.shutdown s cause) := by
  unfold State.shutdown
  repeat' first
    | (with_reducible first | exact h | assumption | apply State.setFld_kept | apply State.ungovern_kept | apply State.powerDownAll_kept
                             | apply State.deviceFatal_kept | apply kept_hostMem | (apply kept_foldl; intro s a h) | apply kept_ite)
    | simp only [kept_mk_iff, kept_mk_rim_iff]
    | split

theorem State.showCounts_kept {qs : List Instr} {s : State} (h : Kept qs s) :
    Kept qs (State.showCounts s) := by
  unfold State.showCounts
  repeat' first
    | (with_reducible first | exact h | apply State.setFld_kept)

theorem State.enforce_kept {qs : List Instr} {s : State} (h : Kept qs s) (r : Nat) :
    Kept qs (State.enforce s r) := by
  unfold State.enforce
  repeat' first
    | (with_reducible first | exact h | assumption | apply State.modRegion_kept | apply State.setFld_kept | apply kept_ite)
    | split

theorem State.showKt_kept {qs : List Instr} {s : State} (h : Kept qs s) (r : Nat) :
    Kept qs (State.showKt s r) := by
  unfold State.showKt
  repeat' first
    | (with_reducible first | exact h | apply State.setFld_kept)

theorem State.levelEvent_kept {qs : List Instr} {s : State} (h : Kept qs s) (r : Nat) (level : Nat) (left : Bool) :
    Kept qs (State.levelEvent s r level left) := by
  unfold State.levelEvent
  repeat' first
    | (with_reducible first | exact h | assumption | apply State.logEvent_kept | apply State.signal_kept | apply State.modRegion_kept
                             | apply kept_ite)
    | split

theorem State.thermUpdate_kept {qs : List Instr} {s : State} (h : Kept qs s) (r : Nat) :
    Kept qs (State.thermUpdate s r) := by
  unfold State.thermUpdate
  repeat' first
    | (with_reducible first | exact h | assumption | apply State.setFld_kept | apply State.modRegion_kept | apply State.bump_kept
                             | apply State.levelEvent_kept | apply State.enforce_kept | apply State.announce_kept | apply State.showKt_kept
                             | apply kept_ite)
    | simp only [kept_mk_iff]
    | split

theorem State.showThermal_kept {qs : List Instr} {s : State} (h : Kept qs s) :
    Kept qs (State.showThermal s) := by
  unfold State.showThermal
  repeat' first
    | (with_reducible first | exact h | assumption | apply State.setFld_kept | apply State.wr_kept | apply State.showCounts_kept | apply kept_ite)
    | split

theorem State.suspectCap_kept {qs : List Instr} {s : State} (h : Kept qs s) (r : Nat) :
    Kept qs (State.suspectCap s r) := by
  unfold State.suspectCap
  repeat' first
    | (with_reducible first | exact h | apply State.modRegion_kept)

theorem State.comparePair_kept {qs : List Instr} {s : State} (h : Kept qs s) (key : Nat) :
    Kept qs (State.comparePair s key) := by
  unfold State.comparePair
  repeat' first
    | (with_reducible first | exact h | assumption | apply State.bump_kept | apply State.logEvent_kept | apply State.modCoreAt_kept
                             | apply kept_hostMem | (apply kept_foldl; intro s a h) | apply kept_ite)
    | simp only [kept_mk_iff, kept_mk_rim_iff]
    | split

theorem State.coreSample_kept {qs : List Instr} {s : State} (h : Kept qs s) (key : Nat) (diode : Bool) (code : Option Nat) :
    Kept qs (State.coreSample s key diode code) := by
  unfold State.coreSample
  repeat' first
    | (with_reducible first | exact h | assumption | apply State.modCoreAt_kept | apply State.comparePair_kept | apply State.suspectCap_kept
                             | apply kept_ite)
    | split

theorem State.regulatorSample_kept {qs : List Instr} {s : State} (h : Kept qs s) (r : Nat) (i : Nat) (code : Option Nat) :
    Kept qs (State.regulatorSample s r i code) := by
  unfold State.regulatorSample
  repeat' first
    | (with_reducible first | exact h | assumption | apply State.modRegion_kept | apply State.setFld_kept | apply State.deferred_kept
                             | apply kept_ite)
    | simp only [kept_mk_iff]
    | split

theorem State.watchHot_kept {qs : List Instr} {s : State} (h : Kept qs s) (sn : Sensor) (code : Option Nat) :
    Kept qs (State.watchHot s sn code) := by
  unfold State.watchHot
  repeat' first
    | (with_reducible first | exact h | assumption | apply State.shutdown_kept | apply kept_hostMem | (apply kept_foldl; intro s a h)
                             | apply kept_ite)
    | simp only [kept_mk_iff, kept_mk_rim_iff]
    | split

theorem State.weltSample_kept {qs : List Instr} {s : State} (h : Kept qs s) (i : Nat) (code : Option Nat) :
    Kept qs (State.weltSample s i code) := by
  unfold State.weltSample
  repeat' first
    | (with_reducible first | exact h | assumption | apply State.thermUpdate_kept | apply kept_hostMem | (apply kept_foldl; intro s a h)
                             | apply kept_ite)
    | simp only [kept_mk_iff, kept_mk_rim_iff]
    | split

theorem execSensorSample_kept {qs : List Instr} {s : State} (h : Kept qs s) (sn : Sensor) (code : Option Nat) {s1 : State} (ht : execSensorSample sn code s = .next s1) :
    Kept qs s1 := by
  unfold execSensorSample at ht
  first
    | (injection ht with ht; subst ht)
    | (split at ht <;> (injection ht with ht; subst ht))
  repeat' first
    | (with_reducible first | exact h | assumption | apply State.checkConditions_kept | apply State.watchHot_kept | apply State.showThermal_kept
                             | apply State.thermUpdate_kept | apply State.coreSample_kept | apply State.regulatorSample_kept
                             | apply State.weltSample_kept | apply State.setFld_kept | apply kept_ite)
    | simp only [kept_mk_iff]
    | split

theorem execSensorPairSuspect_kept {qs : List Instr} {s : State} (h : Kept qs s) (c : CoreId) {s1 : State} (ht : execSensorPairSuspect c s = .next s1) :
    Kept qs s1 := by
  unfold execSensorPairSuspect at ht
  first
    | (injection ht with ht; subst ht)
    | (split at ht <;> (injection ht with ht; subst ht))
  repeat' first
    | (with_reducible first | exact h | assumption | apply State.bump_kept | apply State.modCore_kept | apply State.announce_kept
                             | apply State.showKt_kept | apply State.suspectCap_kept | apply State.checkConditions_kept | apply State.deferred_kept
                             | apply kept_ite)
    | simp only [kept_mk_iff]
    | split

theorem execThrottleGraceExpire_kept {qs : List Instr} {s : State} (h : Kept qs s) (r : Nat) {s1 : State} (ht : execThrottleGraceExpire r s = .next s1) :
    Kept qs s1 := by
  unfold execThrottleGraceExpire at ht
  first
    | (injection ht with ht; subst ht)
    | (split at ht <;> (injection ht with ht; subst ht))
  repeat' first
    | (with_reducible first | exact h | assumption | apply State.checkConditions_kept | apply State.announce_kept | apply State.showCounts_kept
                             | apply State.showKt_kept | apply State.enforce_kept | apply kept_ite)
    | split

theorem execThermalStretchAdjust_kept {qs : List Instr} {s : State} (h : Kept qs s) (r : Nat) {s1 : State} (ht : execThermalStretchAdjust r s = .next s1) :
    Kept qs s1 := by
  unfold execThermalStretchAdjust at ht
  first
    | (injection ht with ht; subst ht)
    | (split at ht <;> (injection ht with ht; subst ht))
  repeat' first
    | (with_reducible first | exact h | assumption | apply State.checkConditions_kept | apply State.announce_kept | apply State.showKt_kept
                             | apply State.modRegion_kept | apply State.thermUpdate_kept | apply State.setFld_kept | apply State.showCounts_kept
                             | apply kept_ite)
    | split

theorem execConverterOvertemp_kept {qs : List Instr} {s : State} (h : Kept qs s) (i : Nat) {s1 : State} (ht : execConverterOvertemp i s = .next s1) :
    Kept qs s1 := by
  unfold execConverterOvertemp at ht
  first
    | (injection ht with ht; subst ht)
    | (split at ht <;> (injection ht with ht; subst ht))
  repeat' first
    | (with_reducible first | exact h | assumption | apply State.checkConditions_kept | apply State.converterOff_kept | apply kept_ite)
    | split

theorem State.pollFailed_kept {qs : List Instr} {s : State} (h : Kept qs s) (sn : CoolantSensor) :
    Kept qs (State.pollFailed s sn) := by
  unfold State.pollFailed
  repeat' first
    | (with_reducible first | exact h | assumption | apply State.deferred_kept | apply State.bump_kept | apply State.setFld_kept | apply kept_hostMem
                             | (apply kept_foldl; intro s a h) | apply kept_ite)
    | simp only [kept_mk_iff, kept_mk_rim_iff]
    | split

theorem State.coolEvent_kept {qs : List Instr} {s : State} (h : Kept qs s) (row : Nat) (cleared : Bool) :
    Kept qs (State.coolEvent s row cleared) := by
  unfold State.coolEvent
  repeat' first
    | (with_reducible first | exact h | apply State.logEvent_kept)

theorem State.coolCond_kept {qs : List Instr} {s : State} (h : Kept qs s) (key : Nat) (row : Nat) (need : Nat) (since : Option Long) (raise_ : State → State)
    (hr : ∀ t, Kept qs t → Kept qs (raise_ t)) : Kept qs (State.coolCond s key row need since raise_) := by
  unfold State.coolCond
  repeat' first
    | (with_reducible first | exact h | assumption | apply hr | apply State.coolEvent_kept | apply kept_hostMem | (apply kept_foldl; intro s a h)
                             | apply kept_ite)
    | simp only [kept_mk_iff, kept_mk_rim_iff]
    | split

theorem State.flowClamp_kept {qs : List Instr} {s : State} (h : Kept qs s) :
    Kept qs (State.flowClamp s) := by
  unfold State.flowClamp
  repeat' first
    | (with_reducible first | exact h | assumption | apply State.ungovern_kept | apply State.bump_kept | apply State.setFld_kept
                             | apply State.announceAll_kept | apply kept_hostMem | (apply kept_foldl; intro s a h) | apply kept_ite)
    | simp only [kept_mk_iff, kept_mk_rim_iff]
    | split

theorem State.coolChecks_kept {qs : List Instr} {s : State} (h : Kept qs s) :
    Kept qs (State.coolChecks s) := by
  unfold State.coolChecks
  repeat' first
    | (with_reducible first | exact h | assumption | apply State.coolCond_kept | apply State.bump_kept | apply State.deferred_kept | intro s h
                             | apply kept_hostMem | (apply kept_foldl; intro s a h) | apply kept_ite)
    | simp only [kept_mk_iff, kept_mk_rim_iff]
    | split

theorem State.pollOk_kept {qs : List Instr} {s : State} (h : Kept qs s) (sn : CoolantSensor) (v : Nat) :
    Kept qs (State.pollOk s sn v) := by
  unfold State.pollOk
  repeat' first
    | (with_reducible first | exact h | assumption | apply State.setFld_kept | apply State.flowClamp_kept | apply kept_hostMem
                             | (apply kept_foldl; intro s a h) | apply kept_ite)
    | simp only [kept_mk_iff, kept_mk_rim_iff]
    | split

theorem execCoolantPoll_kept {qs : List Instr} {s : State} (h : Kept qs s) (sn : CoolantSensor) (raw : Option (BitVec 16)) {s1 : State} (ht : execCoolantPoll sn raw s = .next s1) :
    Kept qs s1 := by
  unfold execCoolantPoll at ht
  first
    | (injection ht with ht; subst ht)
    | (split at ht <;> (injection ht with ht; subst ht))
  repeat' first
    | (with_reducible first | exact h | assumption | apply State.pollFailed_kept | apply State.checkConditions_kept | apply State.coolChecks_kept
                             | apply State.pollOk_kept | apply kept_ite)
    | split

theorem execFlowClampTimeout_kept {qs : List Instr} {s : State} (h : Kept qs s) {s1 : State} (ht : execFlowClampTimeout s = .next s1) :
    Kept qs s1 := by
  unfold execFlowClampTimeout at ht
  first
    | (injection ht with ht; subst ht)
    | (split at ht <;> (injection ht with ht; subst ht))
  repeat' first
    | (with_reducible first | exact h | assumption | apply State.checkConditions_kept | apply State.shutdown_kept | apply kept_ite)
    | split

theorem execCoolantSensorReaddress_kept {qs : List Instr} {s : State} (h : Kept qs s) (sn : CoolantSensor) {s1 : State} (ht : execCoolantSensorReaddress sn s = .next s1) :
    Kept qs s1 := by
  unfold execCoolantSensorReaddress at ht
  first
    | (injection ht with ht; subst ht)
    | (split at ht <;> (injection ht with ht; subst ht))
  repeat' first
    | (with_reducible first | exact h | assumption | apply kept_hostMem | (apply kept_foldl; intro s a h) | apply kept_ite)
    | simp only [kept_mk_iff, kept_mk_rim_iff]
    | split

theorem execGovernorLimitUpdate_kept {qs : List Instr} {s : State} (h : Kept qs s) (meanWatts : Nat) {s1 : State} (ht : execGovernorLimitUpdate meanWatts s = .next s1) :
    Kept qs s1 := by
  unfold execGovernorLimitUpdate at ht
  first
    | (injection ht with ht; subst ht)
    | (split at ht <;> (injection ht with ht; subst ht))
  repeat' first
    | (with_reducible first | exact h | assumption | apply State.logEvent_kept | apply State.setFld_kept | apply kept_hostMem
                             | (apply kept_foldl; intro s a h) | apply kept_ite)
    | simp only [kept_mk_iff, kept_mk_rim_iff]
    | split

theorem State.demandWake_kept {qs : List Instr} {s : State} (h : Kept qs s) :
    Kept qs (State.demandWake s) := by
  unfold State.demandWake
  repeat' first
    | (with_reducible first | exact h | assumption | apply State.modRegion_kept | apply kept_hostMem | (apply kept_foldl; intro s a h)
                             | apply kept_ite)
    | simp only [kept_mk_iff, kept_mk_rim_iff]
    | split

theorem State.demandRest_kept {qs : List Instr} {s : State} (h : Kept qs s) :
    Kept qs (State.demandRest s) := by
  unfold State.demandRest
  repeat' first
    | (with_reducible first | exact h | assumption | apply State.modRegion_kept | apply State.mapCores_kept | apply kept_hostMem
                             | (apply kept_foldl; intro s a h) | apply kept_ite)
    | simp only [kept_mk_iff, kept_mk_rim_iff]
    | split

theorem execGovernorHoldAdjust_kept {qs : List Instr} {s : State} (h : Kept qs s) (watts : Nat) {s1 : State} (ht : execGovernorHoldAdjust watts s = .next s1) :
    Kept qs s1 := by
  unfold execGovernorHoldAdjust at ht
  first
    | (injection ht with ht; subst ht)
    | (split at ht <;> (injection ht with ht; subst ht))
  repeat' first
    | (with_reducible first | exact h | assumption | apply State.setFld_kept | apply State.announceAll_kept | apply State.demandWake_kept
                             | apply State.demandRest_kept | apply State.checkConditions_kept | apply kept_ite)
    | simp only [kept_mk_iff]
    | split

theorem execThmCfgWrite_kept {qs : List Instr} {s : State} (h : Kept qs s) (v : Word) {s1 : State} (ht : execThmCfgWrite v s = .next s1) :
    Kept qs s1 := by
  unfold execThmCfgWrite at ht
  first
    | (injection ht with ht; subst ht)
    | (split at ht <;> (injection ht with ht; subst ht))
  repeat' first
    | (with_reducible first | exact h | apply State.writeRW_kept | apply kept_ite)

/-! ### MemCare -/

theorem State.showSpares_kept {qs : List Instr} {s : State} (h : Kept qs s) (r : Nat) :
    Kept qs (State.showSpares s r) := by
  unfold State.showSpares
  repeat' first
    | (with_reducible first | exact h | apply State.setFld_kept)

theorem execScrubRow_kept {qs : List Instr} {s : State} (h : Kept qs s) (r : Nat) (chk : CodeCheck) {s1 : State} (ht : execScrubRow r chk s = .next s1) :
    Kept qs s1 := by
  unfold execScrubRow at ht
  first
    | (injection ht with ht; subst ht)
    | (split at ht <;> (injection ht with ht; subst ht))
  repeat' first
    | (with_reducible first | exact h | assumption | apply State.modRegion_kept | apply State.bondCheck_kept | apply State.setFld_kept
                             | apply State.bump_kept | apply kept_ite)
    | simp only [kept_mk_iff]
    | split

theorem execCorrectionWriteback_kept {qs : List Instr} {s : State} (h : Kept qs s) (r : Nat) (k : Nat) (row : Nat) {s1 : State} (ht : execCorrectionWriteback r k row s = .next s1) :
    Kept qs s1 := by
  unfold execCorrectionWriteback at ht
  first
    | (injection ht with ht; subst ht)
    | (split at ht <;> (injection ht with ht; subst ht))
  repeat' first
    | (with_reducible first | exact h | apply State.modRegion_kept)

theorem execRowRepairSwitch_kept {qs : List Instr} {s : State} (h : Kept qs s) (r : Nat) (k : Nat) (row : Nat) {s1 : State} (ht : execRowRepairSwitch r k row s = .next s1) :
    Kept qs s1 := by
  unfold execRowRepairSwitch at ht
  first
    | (injection ht with ht; subst ht)
    | (split at ht <;> (injection ht with ht; subst ht))
  repeat' first
    | (with_reducible first | exact h | assumption | apply State.modRegion_kept | apply State.bumpSat_kept | apply State.corrected_kept
                             | apply State.showSpares_kept | apply State.deferred_kept | apply kept_ite)
    | simp only [kept_mk_iff]
    | split

theorem execRimScrub_kept {qs : List Instr} {s : State} (h : Kept qs s) (stack : Nat) (granule : Nat) (chk : CodeCheck) {s1 : State} (ht : execRimScrub stack granule chk s = .next s1) :
    Kept qs s1 := by
  unfold execRimScrub at ht
  first
    | (injection ht with ht; subst ht)
    | (split at ht <;> (injection ht with ht; subst ht))
  repeat' first
    | (with_reducible first | exact h | assumption | apply State.rimCheck_kept | apply kept_ite)
    | split

theorem execRimChannelFail_kept {qs : List Instr} {s : State} (h : Kept qs s) (stack : Nat) (channel : Nat) {s1 : State} (ht : execRimChannelFail stack channel s = .next s1) :
    Kept qs s1 := by
  unfold execRimChannelFail at ht
  first
    | (injection ht with ht; subst ht)
    | (split at ht <;> (injection ht with ht; subst ht))
  repeat' first
    | (with_reducible first | exact h | assumption | apply State.setFld_kept | apply State.deferred_kept | apply kept_ite)
    | split

/-! ### Bringup -/

theorem State.blankRecord_kept {qs : List Instr} {s : State} (h : Kept qs s) (n : Nat) (status : Nat) :
    Kept qs (State.blankRecord s n status) := by
  unfold State.blankRecord
  repeat' first
    | (with_reducible first | exact h | apply State.wr_kept)

theorem State.beginStage_kept {qs : List Instr} {s : State} (h : Kept qs s) (n : Nat) :
    Kept qs (State.beginStage s n) := by
  unfold State.beginStage
  repeat' first
    | (with_reducible first | exact h | assumption | apply State.wr_kept | apply State.blankRecord_kept | apply State.setFld_kept
                             | apply kept_hostMem | (apply kept_foldl; intro s a h) | apply kept_ite)
    | simp only [kept_mk_iff, kept_mk_rim_iff]
    | split

theorem State.addLocus_kept {qs : List Instr} {s : State} (h : Kept qs s) (n : Nat) (w : Word) :
    Kept qs (State.addLocus s n w) := by
  unfold State.addLocus
  repeat' first
    | (with_reducible first | exact h | assumption | apply State.wr_kept | apply State.bumpSat_kept | apply kept_hostMem
                             | (apply kept_foldl; intro s a h) | apply kept_ite)
    | simp only [kept_mk_iff, kept_mk_rim_iff]
    | split

theorem State.addLoci_kept {qs : List Instr} {s : State} (h : Kept qs s) (n : Nat) (ws : List Word) :
    Kept qs (State.addLoci s n ws) := by
  unfold State.addLoci
  repeat' first
    | (with_reducible first | exact h | apply State.addLocus_kept | (apply kept_foldl; intro s a h))

theorem State.endStage_kept {qs : List Instr} {s : State} (h : Kept qs s) (n : Nat) :
    Kept qs (State.endStage s n) := by
  unfold State.endStage
  repeat' first
    | (with_reducible first | exact h | apply State.closeRecord_kept)
    | simp only [kept_mk_iff]

theorem State.passStage_kept {qs : List Instr} {s : State} (h : Kept qs s) (n : Nat) (ws : List Word) :
    Kept qs (State.passStage s n ws) := by
  unfold State.passStage
  repeat' first
    | (with_reducible first | exact h | apply State.beginStage_kept | apply State.endStage_kept | apply State.addLoci_kept)
    | simp only [kept_mk_iff]

theorem State.haltStage_kept {qs : List Instr} {s : State} (h : Kept qs s) (n : Nat) (ws : List Word) :
    Kept qs (State.haltStage s n ws) := by
  unfold State.haltStage
  repeat' first
    | (with_reducible first | exact h | assumption | apply State.setFld_kept | apply State.closeRecord_kept | apply State.addLoci_kept
                             | apply State.powerDownAll_kept | apply kept_hostMem | (apply kept_foldl; intro s a h) | apply kept_ite)
    | simp only [kept_mk_iff, kept_mk_rim_iff]
    | split

theorem State.unpowered_kept {qs : List Instr} {s : State} (h : Kept qs s) :
    Kept qs (State.unpowered s) :=
  ⟨h.queue, ⟨⟨rfl, fun _ h => nomatch h⟩, rfl, rfl, rfl, rfl, rfl, h.ok.hostMem⟩⟩

theorem execHoldupEnd_kept {qs : List Instr} {s : State} (h : Kept qs s) {s1 : State} (ht : execHoldupEnd s = .next s1) :
    Kept qs s1 := by
  unfold execHoldupEnd at ht
  first
    | (injection ht with ht; subst ht)
    | (split at ht <;> (injection ht with ht; subst ht))
  repeat' first
    | (with_reducible first | exact h | assumption | apply State.unpowered_kept | apply kept_hostMem | (apply kept_foldl; intro s a h)
                             | apply kept_ite)
    | simp only [kept_mk_iff, kept_mk_rim_iff]
    | split

theorem execColdStart_kept {qs : List Instr} {s : State} (h : Kept qs s) {s1 : State} (ht : execColdStart s = .next s1) :
    Kept qs s1 := by
  unfold execColdStart at ht
  first
    | (injection ht with ht; subst ht)
    | (split at ht <;> (injection ht with ht; subst ht))
  repeat' first
    | (with_reducible first | exact h | assumption | apply State.unpowered_kept | apply State.blankRecord_kept | apply State.wr64_kept
                             | apply State.setFld_kept | apply State.beginStage_kept | apply State.showFeeds_kept | apply kept_hostMem
                             | (apply kept_foldl; intro s a h) | apply kept_ite)
    | simp only [kept_mk_iff, kept_mk_rim_iff]
    | split

theorem execSt0FeedsPresent_kept {qs : List Instr} {s : State} (h : Kept qs s) {s1 : State} (ht : execSt0FeedsPresent s = .next s1) :
    Kept qs s1 := by
  unfold execSt0FeedsPresent at ht
  first
    | (injection ht with ht; subst ht)
    | (split at ht <;> (injection ht with ht; subst ht))
  repeat' first
    | (with_reducible first | exact h | assumption | apply State.passStage_kept | apply kept_ite)
    | split

theorem State.showRefs_kept {qs : List Instr} {s : State} (h : Kept qs s) (ref : Nat) :
    Kept qs (State.showRefs s ref) := by
  unfold State.showRefs
  repeat' first
    | (with_reducible first | exact h | apply State.setFld_kept)

theorem State.bootBank_kept {qs : List Instr} {s : State} (h : Kept qs s) (b : Nat) (h : Bytes) :
    Kept qs (State.bootBank s b h) := by
  unfold State.bootBank
  repeat' first
    | (with_reducible first | exact h | assumption | apply State.wr_kept | apply State.setFld_kept | apply State.showCounters_kept
                             | apply kept_hostMem | (apply kept_foldl; intro s a h) | apply kept_ite)
    | simp only [kept_mk_iff, kept_mk_rim_iff]
    | split

theorem execSt1ManagementBoot_kept {qs : List Instr} {s : State} (h : Kept qs s) (ref0 : Bool) (ref1 : Bool) (selfTest : Bool) (bankA : BankRead) (bankB : BankRead) (portsUp : BitVec 2) {s1 : State} (ht : execSt1ManagementBoot ref0 ref1 selfTest bankA bankB portsUp s = .next s1) :
    Kept qs s1 := by
  unfold execSt1ManagementBoot at ht
  first
    | (injection ht with ht; subst ht)
    | (split at ht <;> (injection ht with ht; subst ht))
  repeat' first
    | (with_reducible first | exact h | assumption | apply State.showRefs_kept | apply State.addLoci_kept | apply State.secFails_kept
                             | apply State.haltStage_kept | apply State.showSec_kept | apply State.bootBank_kept | apply State.addLocus_kept
                             | apply State.setFld_kept | apply State.passStage_kept | apply kept_hostMem | (apply kept_foldl; intro s a h)
                             | apply kept_ite)
    | simp only [kept_mk_iff, kept_mk_rim_iff]
    | split

theorem State.failCore_kept {qs : List Instr} {s : State} (h : Kept qs s) (r : Nat) (k : Nat) :
    Kept qs (State.failCore s r k) := by
  unfold State.failCore
  repeat' first
    | (with_reducible first | exact h | apply State.modRegion_kept | apply State.setFld_kept | apply State.modCoreAt_kept)

theorem State.deadAtStart_kept {qs : List Instr} {s : State} (h : Kept qs s) (r : Nat) (cause : Nat) :
    Kept qs (State.deadAtStart s r cause) := by
  unfold State.deadAtStart
  repeat' first
    | (with_reducible first | exact h | apply State.modRegion_kept | apply State.cutPower_kept)

theorem execSt2FuseRead_kept {qs : List Instr} {s : State} (h : Kept qs s) (fuses : Option Fuses) {s1 : State} (ht : execSt2FuseRead fuses s = .next s1) :
    Kept qs s1 := by
  unfold execSt2FuseRead at ht
  first
    | (injection ht with ht; subst ht)
    | (split at ht <;> (injection ht with ht; subst ht))
  repeat' first
    | (with_reducible first | exact h | assumption | apply State.haltStage_kept | apply State.wr_kept | apply State.showSec_kept
                             | apply State.showCounters_kept | apply State.wr64_kept | apply State.modRegion_kept | apply State.deadAtStart_kept
                             | apply State.passStage_kept | apply kept_hostMem | (apply kept_foldl; intro s a h) | apply kept_ite)
    | simp only [kept_mk_iff, kept_mk_rim_iff]
    | split

theorem execSt3StackRailRamp_kept {qs : List Instr} {s : State} (h : Kept qs s) (failedConverters : List Nat) {s1 : State} (ht : execSt3StackRailRamp failedConverters s = .next s1) :
    Kept qs s1 := by
  unfold execSt3StackRailRamp at ht
  first
    | (injection ht with ht; subst ht)
    | (split at ht <;> (injection ht with ht; subst ht))
  repeat' first
    | (with_reducible first | exact h | assumption | apply State.showField_kept | apply State.passStage_kept | apply kept_hostMem
                             | (apply kept_foldl; intro s a h) | apply kept_ite)
    | simp only [kept_mk_iff, kept_mk_rim_iff]
    | split

theorem execCoolantWaitTimeout_kept {qs : List Instr} {s : State} (h : Kept qs s) {s1 : State} (ht : execCoolantWaitTimeout s = .next s1) :
    Kept qs s1 := by
  unfold execCoolantWaitTimeout at ht
  first
    | (injection ht with ht; subst ht)
    | (split at ht <;> (injection ht with ht; subst ht))
  repeat' first
    | (with_reducible first | exact h | assumption | apply State.haltStage_kept | apply kept_ite)
    | simp only [kept_mk_iff]
    | split

theorem execSt4MeshLock_kept {qs : List Instr} {s : State} (h : Kept qs s) (decoupled : List Nat) {s1 : State} (ht : execSt4MeshLock decoupled s = .next s1) :
    Kept qs s1 := by
  unfold execSt4MeshLock at ht
  first
    | (injection ht with ht; subst ht)
    | (split at ht <;> (injection ht with ht; subst ht))
  repeat' first
    | (with_reducible first | exact h | assumption | apply State.setFld_kept | apply State.passStage_kept | apply kept_hostMem
                             | (apply kept_foldl; intro s a h) | apply kept_ite)
    | simp only [kept_mk_iff, kept_mk_rim_iff]
    | split

theorem execMeshLockTimeout_kept {qs : List Instr} {s : State} (h : Kept qs s) {s1 : State} (ht : execMeshLockTimeout s = .next s1) :
    Kept qs s1 := by
  unfold execMeshLockTimeout at ht
  first
    | (injection ht with ht; subst ht)
    | (split at ht <;> (injection ht with ht; subst ht))
  repeat' first
    | (with_reducible first | exact h | assumption | apply State.haltStage_kept | apply kept_ite)
    | split

theorem State.mapSpare_kept {qs : List Instr} {s : State} (h : Kept qs s) (r : Nat) :
    Kept qs (State.mapSpare s r) := by
  unfold State.mapSpare
  repeat' first
    | (with_reducible first | exact h | apply State.modRegion_kept | apply State.mapCores_kept)

theorem State.selfTestRegion_kept {qs : List Instr} {s : State} (h : Kept qs s) (f : Fuses) (t : SelfTest) :
    Kept qs (State.selfTestRegion s f t) := by
  unfold State.selfTestRegion
  repeat' first
    | (with_reducible first | exact h | assumption | apply State.addLocus_kept | apply State.failCore_kept | apply State.deadAtStart_kept
                             | apply State.setFld_kept | apply State.modRegion_kept | apply State.showRail_kept | apply State.showLimit_kept
                             | apply State.mapSpare_kept | apply kept_hostMem | (apply kept_foldl; intro s a h) | apply kept_ite)
    | simp only [kept_mk_iff, kept_mk_rim_iff]
    | split

theorem execSt5RegionSelfTest_kept {qs : List Instr} {s : State} (h : Kept qs s) (results : List SelfTest) (skipFailed : List Nat) {s1 : State} (ht : execSt5RegionSelfTest results skipFailed s = .next s1) :
    Kept qs s1 := by
  unfold execSt5RegionSelfTest at ht
  first
    | (injection ht with ht; subst ht)
    | (split at ht <;> (injection ht with ht; subst ht))
  repeat' first
    | (with_reducible first | exact h | assumption | apply State.addLocus_kept | apply State.deadAtStart_kept | apply State.selfTestRegion_kept
                             | apply State.passStage_kept | apply kept_hostMem | (apply kept_foldl; intro s a h) | apply kept_ite)
    | simp only [kept_mk_iff, kept_mk_rim_iff]
    | split

theorem execSt6BuildLast_kept {qs : List Instr} {s : State} (h : Kept qs s) {s1 : State} (ht : execSt6BuildLast s = .next s1) :
    Kept qs s1 := by
  unfold execSt6BuildLast at ht
  first
    | (injection ht with ht; subst ht)
    | (split at ht <;> (injection ht with ht; subst ht))
  repeat' first
    | (with_reducible first | exact h | assumption | apply State.addLoci_kept | apply State.beginStage_kept | apply State.closeRecord_kept
                             | apply State.endStage_kept | apply kept_hostMem | (apply kept_foldl; intro s a h) | apply kept_ite)
    | simp only [kept_mk_iff, kept_mk_rim_iff]
    | split

theorem State.memTest_kept {qs : List Instr} {s : State} (h : Kept qs s) (t : MemTest) :
    Kept qs (State.memTest s t) := by
  unfold State.memTest
  repeat' first
    | (with_reducible first | exact h | assumption | apply State.addLocus_kept | apply State.deadAtStart_kept | apply State.failCore_kept
                             | apply State.modRegion_kept | apply kept_ite)
    | split

theorem State.clearSlices_kept {qs : List Instr} {s : State} (h : Kept qs s) :
    Kept qs (State.clearSlices s) :=
  ⟨h.queue, { h.ok with cores := tabMap_wf (d := Core.zero) (fun (c : Core) => { c with slice := [] }) (tabWf_sorted h.ok.cores) }⟩

theorem execSt7MemoryTest_kept {qs : List Instr} {s : State} (h : Kept qs s) (results : List MemTest) {s1 : State} (ht : execSt7MemoryTest results s = .next s1) :
    Kept qs s1 := by
  unfold execSt7MemoryTest at ht
  first
    | (injection ht with ht; subst ht)
    | (split at ht <;> (injection ht with ht; subst ht))
  repeat' first
    | (with_reducible first | exact h | assumption | apply State.memTest_kept | apply State.clearSlices_kept | apply State.setFld_kept
                             | apply State.publishLast_kept | apply State.showSpares_kept | apply State.modRegion_kept | apply State.cutPower_kept
                             | apply State.passStage_kept | apply kept_hostMem | (apply kept_foldl; intro s a h) | apply kept_ite)
    | simp only [kept_mk_iff, kept_mk_rim_iff]
    | split

theorem State.trainStack_kept {qs : List Instr} {s : State} (h : Kept qs s) (i : Nat) (m : BitVec 32) :
    Kept qs (State.trainStack s i m) := by
  unfold State.trainStack
  repeat' first
    | (with_reducible first | exact h | assumption | apply State.wr_kept | apply State.addLocus_kept | apply State.addLoci_kept | apply kept_ite)
    | split

theorem execSt8RimTraining_kept {qs : List Instr} {s : State} (h : Kept qs s) (live : List (BitVec 32)) {s1 : State} (ht : execSt8RimTraining live s = .next s1) :
    Kept qs s1 := by
  injection ht with ht
  subst ht
  split
  · exact h
  · refine State.passStage_kept (kept_rimMem rfl (State.wr_kept ?_ _ _)) _ _
    exact kept_foldl (fun s a h => State.trainStack_kept h _ _) h

theorem execSt9MeshRoutes_kept {qs : List Instr} {s : State} (h : Kept qs s) (failedLinks : List (Nat × Nat)) {s1 : State} (ht : execSt9MeshRoutes failedLinks s = .next s1) :
    Kept qs s1 := by
  unfold execSt9MeshRoutes at ht
  first
    | (injection ht with ht; subst ht)
    | (split at ht <;> (injection ht with ht; subst ht))
  repeat' first
    | (with_reducible first | exact h | assumption | apply State.assignEndpoints_kept | apply State.wr_kept | apply State.setFld_kept
                             | apply State.bump_kept | apply State.addLocus_kept | apply State.hubDies_kept | apply State.passStage_kept
                             | apply kept_hostMem | (apply kept_foldl; intro s a h) | apply kept_ite)
    | simp only [kept_mk_iff, kept_mk_rim_iff]
    | split

theorem execSt10EdgeTraining_kept {qs : List Instr} {s : State} (h : Kept qs s) {s1 : State} (ht : execSt10EdgeTraining s = .next s1) :
    Kept qs s1 := by
  unfold execSt10EdgeTraining at ht
  first
    | (injection ht with ht; subst ht)
    | (split at ht <;> (injection ht with ht; subst ht))
  repeat' first
    | (with_reducible first | exact h | assumption | apply State.trainPort_kept | apply State.beginStage_kept | apply kept_hostMem
                             | (apply kept_foldl; intro s a h) | apply kept_ite)
    | simp only [kept_mk_iff, kept_mk_rim_iff]
    | split

theorem execSt10Record_kept {qs : List Instr} {s : State} (h : Kept qs s) {s1 : State} (ht : execSt10Record s = .next s1) :
    Kept qs s1 := by
  unfold execSt10Record at ht
  first
    | (injection ht with ht; subst ht)
    | (split at ht <;> (injection ht with ht; subst ht))
  repeat' first
    | (with_reducible first | exact h | assumption | apply State.endStage_kept | apply State.addLoci_kept | apply State.signal_kept
                             | apply kept_hostMem | (apply kept_foldl; intro s a h) | apply kept_ite)
    | simp only [kept_mk_iff, kept_mk_rim_iff]
    | split

theorem execSt11Readiness_kept {qs : List Instr} {s : State} (h : Kept qs s) {s1 : State} (ht : execSt11Readiness s = .next s1) :
    Kept qs s1 := by
  unfold execSt11Readiness at ht
  first
    | (injection ht with ht; subst ht)
    | (split at ht <;> (injection ht with ht; subst ht))
  repeat' first
    | (with_reducible first | exact h | assumption | apply State.setFld_kept | apply State.endStage_kept | apply State.checkConditions_kept
                             | apply State.signal_kept | apply kept_hostMem | (apply kept_foldl; intro s a h) | apply kept_ite)
    | simp only [kept_mk_iff, kept_mk_rim_iff]
    | split

theorem State.rdrop_kept {qs : List Instr} {s : State} (h : Kept qs s) :
    Kept qs (State.rdrop s) := by
  unfold State.rdrop
  repeat' first
    | (with_reducible first | exact h | apply State.bump_kept)

theorem State.acceptRestart_kept {qs : List Instr} {s : State} (h : Kept qs s) (k : Nat) :
    Kept qs (State.acceptRestart s k) := by
  unfold State.acceptRestart
  repeat' first
    | (with_reducible first | exact h | assumption | apply State.bump_kept | apply State.setFld_kept | apply State.blankRecord_kept
                             | apply State.showSec_kept | apply State.lostRecords_kept | apply State.modPart_kept | apply State.stopPart_kept
                             | apply kept_hostMem | (apply kept_foldl; intro s a h) | apply kept_ite)
    | simp only [kept_mk_iff, kept_mk_rim_iff]
    | split

theorem execRestartByHost_kept {qs : List Instr} {s : State} (h : Kept qs s) (v : Word) {s1 : State} (ht : execRestartByHost v s = .next s1) :
    Kept qs s1 := by
  unfold execRestartByHost at ht
  first
    | (injection ht with ht; subst ht)
    | (split at ht <;> (injection ht with ht; subst ht))
  repeat' first
    | (with_reducible first | exact h | assumption | apply State.reservedBits_kept | apply State.rdrop_kept | apply State.acceptRestart_kept
                             | apply kept_ite)
    | simp only [kept_mk_iff]
    | split

theorem execRestartByContact_kept {qs : List Instr} {s : State} (h : Kept qs s) {s1 : State} (ht : execRestartByContact s = .next s1) :
    Kept qs s1 := by
  unfold execRestartByContact at ht
  first
    | (injection ht with ht; subst ht)
    | (split at ht <;> (injection ht with ht; subst ht))
  repeat' first
    | (with_reducible first | exact h | assumption | apply State.rdrop_kept | apply State.acceptRestart_kept | apply State.abandonStage_kept
                             | apply State.setFld_kept | apply kept_hostMem | (apply kept_foldl; intro s a h) | apply kept_ite)
    | simp only [kept_mk_iff, kept_mk_rim_iff]
    | split

theorem State.restartReset_kept {qs : List Instr} {s : State} (h : Kept qs s) :
    Kept qs (State.restartReset s) := by
  unfold State.restartReset
  dsimp only
  apply State.showFeeds_kept
  repeat' apply State.setFld_kept
  refine ⟨h.queue, ⟨⟨?_, ?_⟩, h.ok.capt, rfl, rfl, rfl, rfl, h.ok.hostMem⟩⟩
  · exact tabSorted_filter _ h.ok.regs.1
  · exact fun e he => h.ok.regs.2 e (List.mem_of_mem_filter he)

theorem State.leaveRestart_kept {qs : List Instr} {s : State} (h : Kept qs s) :
    Kept qs (State.leaveRestart s) := by
  unfold State.leaveRestart
  repeat' first
    | (with_reducible first | exact h | assumption | apply State.beginStage_kept | apply State.setFld_kept | apply State.returnAll_kept
                             | apply State.haltStage_kept | apply kept_hostMem | (apply kept_foldl; intro s a h) | apply kept_ite)
    | simp only [kept_mk_iff, kept_mk_rim_iff]
    | split

theorem execRestartPowerDown_kept {qs : List Instr} {s : State} (h : Kept qs s) (selfTest : Bool) {s1 : State} (ht : execRestartPowerDown selfTest s = .next s1) :
    Kept qs s1 := by
  unfold execRestartPowerDown at ht
  first
    | (injection ht with ht; subst ht)
    | (split at ht <;> (injection ht with ht; subst ht))
  repeat' first
    | (with_reducible first | exact h | assumption | apply State.restartReset_kept | apply State.powerDownAll_kept | apply State.showSec_kept
                             | apply State.leaveRestart_kept | apply kept_hostMem | (apply kept_foldl; intro s a h) | apply kept_ite)
    | simp only [kept_mk_iff, kept_mk_rim_iff]
    | split

theorem execModResetNRelease_kept {qs : List Instr} {s : State} (h : Kept qs s) {s1 : State} (ht : execModResetNRelease s = .next s1) :
    Kept qs s1 := by
  unfold execModResetNRelease at ht
  first
    | (injection ht with ht; subst ht)
    | (split at ht <;> (injection ht with ht; subst ht))
  repeat' first
    | (with_reducible first | exact h | assumption | apply State.leaveRestart_kept | apply kept_ite)
    | simp only [kept_mk_iff]
    | split

theorem execNodeDecouple_kept {qs : List Instr} {s : State} (h : Kept qs s) (r : Nat) {s1 : State} (ht : execNodeDecouple r s = .next s1) :
    Kept qs s1 := by
  unfold execNodeDecouple at ht
  first
    | (injection ht with ht; subst ht)
    | (split at ht <;> (injection ht with ht; subst ht))
  repeat' first
    | (with_reducible first | exact h | assumption | apply State.bumpSat_kept | apply State.setFld_kept | apply State.regionDies_kept
                             | apply State.checkConditions_kept | apply State.hubStop_kept | apply kept_ite)
    | simp only [kept_mk_iff]
    | split

theorem execRefSwitchover_kept {qs : List Instr} {s : State} (h : Kept qs s) {s1 : State} (ht : execRefSwitchover s = .next s1) :
    Kept qs s1 := by
  unfold execRefSwitchover at ht
  first
    | (injection ht with ht; subst ht)
    | (split at ht <;> (injection ht with ht; subst ht))
  repeat' first
    | (with_reducible first | exact h | assumption | apply State.bump_kept | apply State.showRefs_kept | apply State.deferred_kept
                             | apply kept_hostMem | (apply kept_foldl; intro s a h) | apply kept_ite)
    | simp only [kept_mk_iff, kept_mk_rim_iff]
    | split

theorem execRefReturn_kept {qs : List Instr} {s : State} (h : Kept qs s) (ref : Nat) {s1 : State} (ht : execRefReturn ref s = .next s1) :
    Kept qs s1 := by
  unfold execRefReturn at ht
  first
    | (injection ht with ht; subst ht)
    | (split at ht <;> (injection ht with ht; subst ht))
  repeat' first
    | (with_reducible first | exact h | assumption | apply State.showRefs_kept | apply kept_hostMem | (apply kept_foldl; intro s a h)
                             | apply kept_ite)
    | simp only [kept_mk_iff, kept_mk_rim_iff]
    | split

theorem execClkTimeLoRead_kept {qs : List Instr} {s : State} (h : Kept qs s) (port : Nat) {s1 : State} (ht : execClkTimeLoRead port s = .next s1) :
    Kept qs s1 := by
  unfold execClkTimeLoRead at ht
  first
    | (injection ht with ht; subst ht)
    | (split at ht <;> (injection ht with ht; subst ht))
  repeat' first
    | (with_reducible first | exact h | apply State.capture_kept)

theorem execStgLocData0Read_kept {qs : List Instr} {s : State} (h : Kept qs s) (port : Nat) {s1 : State} (ht : execStgLocData0Read port s = .next s1) :
    Kept qs s1 := by
  unfold execStgLocData0Read at ht
  first
    | (injection ht with ht; subst ht)
    | (split at ht <;> (injection ht with ht; subst ht))
  repeat' first
    | (with_reducible first | exact h | apply State.capture_kept)

theorem execAliveOutToggle_kept {qs : List Instr} {s : State} (h : Kept qs s) {s1 : State} (ht : execAliveOutToggle s = .next s1) :
    Kept qs s1 := by
  unfold execAliveOutToggle at ht
  first
    | (injection ht with ht; subst ht)
    | (split at ht <;> (injection ht with ht; subst ht))
  repeat' first
    | (with_reducible first | exact h | assumption | apply kept_hostMem | (apply kept_foldl; intro s a h) | apply kept_ite)
    | simp only [kept_mk_iff, kept_mk_rim_iff]
    | split

/-! ### Faults -/

theorem execMgmtWatchdogExpire_kept {qs : List Instr} {s : State} (h : Kept qs s) {s1 : State} (ht : execMgmtWatchdogExpire s = .next s1) :
    Kept qs s1 := by
  unfold execMgmtWatchdogExpire at ht
  first
    | (injection ht with ht; subst ht)
    | (split at ht <;> (injection ht with ht; subst ht))
  repeat' first
    | (with_reducible first | exact h | assumption | apply State.deviceFatal_kept | apply kept_ite)
    | simp only [kept_mk_iff]
    | split

theorem State.showRecent_kept {qs : List Instr} {s : State} (h : Kept qs s) :
    Kept qs (State.showRecent s) := by
  unfold State.showRecent
  repeat' first
    | (with_reducible first | exact h | apply State.setFld_kept)

theorem State.recover_kept {qs : List Instr} {s : State} (h : Kept qs s) :
    Kept qs (State.recover s) := by
  unfold State.recover
  repeat' first
    | (with_reducible first | exact h | assumption | apply State.bump_kept | apply State.acceptRestart_kept | apply State.showRecent_kept
                             | apply kept_hostMem | (apply kept_foldl; intro s a h) | apply kept_ite)
    | simp only [kept_mk_iff, kept_mk_rim_iff]
    | split

theorem execRecoveryQuietExpire_kept {qs : List Instr} {s : State} (h : Kept qs s) {s1 : State} (ht : execRecoveryQuietExpire s = .next s1) :
    Kept qs s1 := by
  unfold execRecoveryQuietExpire at ht
  first
    | (injection ht with ht; subst ht)
    | (split at ht <;> (injection ht with ht; subst ht))
  repeat' first
    | (with_reducible first | exact h | assumption | apply State.recover_kept | apply kept_ite)
    | split

theorem execRecentRecoveryExpire_kept {qs : List Instr} {s : State} (h : Kept qs s) {s1 : State} (ht : execRecentRecoveryExpire s = .next s1) :
    Kept qs s1 := by
  unfold execRecentRecoveryExpire at ht
  first
    | (injection ht with ht; subst ht)
    | (split at ht <;> (injection ht with ht; subst ht))
  repeat' first
    | (with_reducible first | exact h | assumption | apply State.showRecent_kept | apply kept_hostMem | (apply kept_foldl; intro s a h)
                             | apply kept_ite)
    | simp only [kept_mk_iff, kept_mk_rim_iff]
    | split

theorem State.cmdDrop_kept {qs : List Instr} {s : State} (h : Kept qs s) :
    Kept qs (State.cmdDrop s) := by
  unfold State.cmdDrop
  repeat' first
    | (with_reducible first | exact h | apply State.bump_kept)

theorem execRearm_kept {qs : List Instr} {s : State} (h : Kept qs s) (v : Word) {s1 : State} (ht : execRearm v s = .next s1) :
    Kept qs s1 := by
  unfold execRearm at ht
  first
    | (injection ht with ht; subst ht)
    | (split at ht <;> (injection ht with ht; subst ht))
  repeat' first
    | (with_reducible first | exact h | assumption | apply State.reservedBits_kept | apply State.setFld_kept | apply State.showRecent_kept
                             | apply kept_hostMem | (apply kept_foldl; intro s a h) | apply kept_ite)
    | simp only [kept_mk_iff, kept_mk_rim_iff]
    | split

theorem execRecover_kept {qs : List Instr} {s : State} (h : Kept qs s) (v : Word) {s1 : State} (ht : execRecover v s = .next s1) :
    Kept qs s1 := by
  unfold execRecover at ht
  first
    | (injection ht with ht; subst ht)
    | (split at ht <;> (injection ht with ht; subst ht))
  repeat' first
    | (with_reducible first | exact h | assumption | apply State.reservedBits_kept | apply State.cmdDrop_kept | apply State.recover_kept
                             | apply kept_hostMem | (apply kept_foldl; intro s a h) | apply kept_ite)
    | simp only [kept_mk_iff, kept_mk_rim_iff]
    | split

theorem execResumeRepair_kept {qs : List Instr} {s : State} (h : Kept qs s) (v : Word) {s1 : State} (ht : execResumeRepair v s = .next s1) :
    Kept qs s1 := by
  unfold execResumeRepair at ht
  first
    | (injection ht with ht; subst ht)
    | (split at ht <;> (injection ht with ht; subst ht))
  repeat' first
    | (with_reducible first | exact h | assumption | apply State.reservedBits_kept | apply State.repairState_kept | apply State.cmdDrop_kept
                             | apply kept_ite)
    | split

theorem execEndRepair_kept {qs : List Instr} {s : State} (h : Kept qs s) (v : Word) {s1 : State} (ht : execEndRepair v s = .next s1) :
    Kept qs s1 := by
  unfold execEndRepair at ht
  first
    | (injection ht with ht; subst ht)
    | (split at ht <;> (injection ht with ht; subst ht))
  repeat' first
    | (with_reducible first | exact h | assumption | apply State.reservedBits_kept | apply State.endJob_kept | apply State.cmdDrop_kept
                             | apply kept_ite)
    | split

theorem execSpareProcedureStep_kept {qs : List Instr} {s : State} (h : Kept qs s) (shipped : Bool) {s1 : State} (ht : execSpareProcedureStep shipped s = .next s1) :
    Kept qs s1 := by
  unfold execSpareProcedureStep at ht
  first
    | (injection ht with ht; subst ht)
    | (split at ht <;> (injection ht with ht; subst ht))
  repeat' first
    | (with_reducible first | exact h | apply State.spareStep_kept)

theorem execSpareShipmentTimeout_kept {qs : List Instr} {s : State} (h : Kept qs s) {s1 : State} (ht : execSpareShipmentTimeout s = .next s1) :
    Kept qs s1 := by
  unfold execSpareShipmentTimeout at ht
  first
    | (injection ht with ht; subst ht)
    | (split at ht <;> (injection ht with ht; subst ht))
  repeat' first
    | (with_reducible first | exact h | assumption | apply State.endJob_kept | apply kept_ite)
    | simp only [kept_mk_iff]
    | split

theorem execJobResume_kept {qs : List Instr} {s : State} (h : Kept qs s) {s1 : State} (ht : execJobResume s = .next s1) :
    Kept qs s1 := by
  unfold execJobResume at ht
  first
    | (injection ht with ht; subst ht)
    | (split at ht <;> (injection ht with ht; subst ht))
  repeat' first
    | (with_reducible first | exact h | apply State.spareResume_kept)

theorem State.coreFails_kept {qs : List Instr} {s : State} (h : Kept qs s) (key : Nat) :
    Kept qs (State.coreFails s key) := by
  unfold State.coreFails
  repeat' first
    | (with_reducible first | exact h | assumption | apply State.injCount_kept | apply State.failCore_kept | apply State.deferredD_kept
                             | apply State.regionDies_kept | apply State.takeSpare_kept | apply State.releaseHeld_kept | apply State.writeRecord_kept
                             | apply State.countClass_kept | apply State.spareNext_kept | apply State.setFld_kept | apply kept_hostMem
                             | (apply kept_foldl; intro s a h) | apply kept_ite)
    | simp only [kept_mk_iff, kept_mk_rim_iff]
    | split

theorem execCoreFailure_kept {qs : List Instr} {s : State} (h : Kept qs s) (c : CoreId) {s1 : State} (ht : execCoreFailure c s = .next s1) :
    Kept qs s1 := by
  unfold execCoreFailure at ht
  first
    | (injection ht with ht; subst ht)
    | (split at ht <;> (injection ht with ht; subst ht))
  repeat' first
    | (with_reducible first | exact h | apply State.coreFails_kept)

theorem State.istWafer_kept {qs : List Instr} {s : State} (h : Kept qs s) :
    Kept qs (State.istWafer s) := by
  unfold State.istWafer
  repeat' first
    | (with_reducible first | exact h | assumption | apply State.setFld_kept | apply State.bump_kept | apply kept_ite)
    | split

theorem State.istAdvance_kept {qs : List Instr} {s : State} (h : Kept qs s) (r : Nat) :
    Kept qs (State.istAdvance s r) := by
  unfold State.istAdvance
  repeat' first
    | (with_reducible first | exact h | assumption | apply State.bump_kept | apply State.setFld_kept | apply State.istWafer_kept
                             | apply State.modRegion_kept | apply kept_hostMem | (apply kept_foldl; intro s a h) | apply kept_ite)
    | simp only [kept_mk_iff, kept_mk_rim_iff]
    | split

theorem State.istSensors_kept {qs : List Instr} {s : State} (h : Kept qs s) (key : Nat) (agree : Bool) :
    Kept qs (State.istSensors s key agree) := by
  unfold State.istSensors
  repeat' first
    | (with_reducible first | exact h | assumption | apply State.modCoreAt_kept | apply State.announce_kept | apply State.showKt_kept
                             | apply State.suspectCap_kept | apply State.deferred_kept | apply kept_ite)
    | split

theorem State.istStall_kept {qs : List Instr} {s : State} (h : Kept qs s) (p : Nat) :
    Kept qs (State.istStall s p) := by
  unfold State.istStall
  repeat' first
    | (with_reducible first | exact h | assumption | apply State.setPart_kept | apply kept_ite)
    | split

theorem State.istOutcome_kept {qs : List Instr} {s : State} (h : Kept qs s) (r : Nat) (key : Nat) (pass : Bool) (kind : Nat) :
    Kept qs (State.istOutcome s r key pass kind) := by
  unfold State.istOutcome
  repeat' first
    | (with_reducible first | exact h | assumption | apply State.deferred_kept | apply State.istAdvance_kept | apply State.modRegion_kept
                             | apply State.bump_kept | apply State.coreFails_kept | apply State.regionDies_kept | apply kept_ite)
    | split

theorem execIstWindow_kept {qs : List Instr} {s : State} (h : Kept qs s) (r : Nat) (pass : Bool) (uncore : Bool) (sensorsAgree : Bool) {s1 : State} (ht : execIstWindow r pass uncore sensorsAgree s = .next s1) :
    Kept qs s1 := by
  unfold execIstWindow at ht
  first
    | (injection ht with ht; subst ht)
    | (split at ht <;> (injection ht with ht; subst ht))
  repeat' first
    | (with_reducible first | exact h | assumption | apply State.modRegion_kept | apply State.setFld_kept | apply State.istStall_kept
                             | apply State.istOutcome_kept | apply State.istSensors_kept | apply kept_ite)
    | split

theorem execFltCfgWrite_kept {qs : List Instr} {s : State} (h : Kept qs s) (v : Word) {s1 : State} (ht : execFltCfgWrite v s = .next s1) :
    Kept qs s1 := by
  unfold execFltCfgWrite at ht
  first
    | (injection ht with ht; subst ht)
    | (split at ht <;> (injection ht with ht; subst ht))
  repeat' first
    | (with_reducible first | exact h | assumption | apply State.writeRW_kept | apply State.logEvent_kept | apply kept_ite)
    | simp only [kept_mk_iff]
    | split

theorem execFltLogData0Read_kept {qs : List Instr} {s : State} (h : Kept qs s) (port : Nat) {s1 : State} (ht : execFltLogData0Read port s = .next s1) :
    Kept qs s1 := by
  unfold execFltLogData0Read at ht
  first
    | (injection ht with ht; subst ht)
    | (split at ht <;> (injection ht with ht; subst ht))
  repeat' first
    | (with_reducible first | exact h | assumption | apply State.capture_kept | apply kept_hostMem | (apply kept_foldl; intro s a h) | apply kept_ite)
    | simp only [kept_mk_iff, kept_mk_rim_iff]
    | split

theorem State.injCompare_kept {qs : List Instr} {s : State} (h : Kept qs s) :
    Kept qs (State.injCompare s) := by
  unfold State.injCompare
  repeat' first
    | (with_reducible first | exact h | assumption | apply State.ledgerViolation_kept | apply State.injCount_kept | apply State.keeperViolation_kept
                             | apply kept_ite)
    | split

theorem execFaultInjectArm_kept {qs : List Instr} {s : State} (h : Kept qs s) (v : Word) {s1 : State} (ht : execFaultInjectArm v s = .next s1) :
    Kept qs s1 := by
  unfold execFaultInjectArm at ht
  first
    | (injection ht with ht; subst ht)
    | (split at ht <;> (injection ht with ht; subst ht))
  repeat' first
    | (with_reducible first | exact h | assumption | apply State.bump_kept | apply State.injCompare_kept | apply State.setFld_kept
                             | apply State.wr_kept | apply kept_ite)
    | split

theorem execScratchpadScrub_kept {qs : List Instr} {s : State} (h : Kept qs s) (c : CoreId) (st : Store) (addr : Nat) (chk : CodeCheck) {s1 : State} (ht : execScratchpadScrub c st addr chk s = .next s1) :
    Kept qs s1 := by
  unfold execScratchpadScrub at ht
  first
    | (injection ht with ht; subst ht)
    | (split at ht <;> (injection ht with ht; subst ht))
  repeat' first
    | (with_reducible first | exact h | assumption | apply State.modRegion_kept | apply State.corrected_kept | apply State.memFatalD_kept
                             | apply kept_ite)
    | split

end Sys2Proof.Machine
end

