-- ==== Sys2Proof/Laws/KeptHost.lean ====
section
/-! SUPPORT. What each operation and command keeps of queue and canonical form: the host interface, moves, security requests, and time passing. -/

namespace Sys2Proof.Machine

/-! ### HostIf -/

theorem execHostPortReset_kept {qs : List Instr} {s : State} (h : Kept qs s) (port : Nat) {s1 : State} (ht : execHostPortReset port s = .next s1) :
    Kept qs s1 := by
  unfold execHostPortReset at ht
  first
    | (injection ht with ht; subst ht)
    | (split at ht <;> (injection ht with ht; subst ht))
  repeat' first
    | (with_reducible first | exact h | assumption | apply State.bump_kept | apply State.setFld_kept | apply kept_hostMem
                             | (apply kept_foldl; intro s a h) | apply kept_ite)
    | simp only [kept_mk_iff, kept_mk_rim_iff]
    | split

theorem State.issueHeld_kept {qs : List Instr} {s : State} (h : Kept qs s) (h : HostWrite) :
    Kept qs (State.issueHeld s h) := by
  unfold State.issueHeld
  repeat' first
    | (with_reducible first | exact h | assumption | apply State.issueWrite_kept | apply State.signalPort_kept | apply kept_ite)
    | split

theorem execHostPortLinkUp_kept {qs : List Instr} {s : State} (h : Kept qs s) (port : Nat) (speed : Nat) (width : Nat) {s1 : State} (ht : execHostPortLinkUp port speed width s = .next s1) :
    Kept qs s1 := by
  unfold execHostPortLinkUp at ht
  first
    | (injection ht with ht; subst ht)
    | (split at ht <;> (injection ht with ht; subst ht))
  repeat' first
    | (with_reducible first | exact h | assumption | apply State.setFld_kept | apply State.issueHeld_kept | apply kept_hostMem
                             | (apply kept_foldl; intro s a h) | apply kept_ite)
    | simp only [kept_mk_iff, kept_mk_rim_iff]
    | split

theorem State.badBell_kept {qs : List Instr} {s : State} (h : Kept qs s) (p : Nat) :
    Kept qs (State.badBell s p) := by
  unfold State.badBell
  repeat' first
    | (with_reducible first | exact h | apply State.bump_kept)

theorem execCmdPi_kept {qs : List Instr} {s : State} (h : Kept qs s) (p : Nat) (v : Word) {s1 : State} (ht : execCmdPi p v s = .next s1) :
    Kept qs s1 := by
  unfold execCmdPi at ht
  first
    | (injection ht with ht; subst ht)
    | (split at ht <;> (injection ht with ht; subst ht))
  repeat' first
    | (with_reducible first | exact h | assumption | apply State.setRings_kept | apply State.badBell_kept | apply kept_ite)
    | split

theorem execAssPi_kept {qs : List Instr} {s : State} (h : Kept qs s) (p : Nat) (v : Word) {s1 : State} (ht : execAssPi p v s = .next s1) :
    Kept qs s1 := by
  unfold execAssPi at ht
  first
    | (injection ht with ht; subst ht)
    | (split at ht <;> (injection ht with ht; subst ht))
  repeat' first
    | (with_reducible first | exact h | assumption | apply State.setRings_kept | apply State.badBell_kept | apply kept_ite)
    | split

theorem execCplCi_kept {qs : List Instr} {s : State} (h : Kept qs s) (p : Nat) (v : Word) {s1 : State} (ht : execCplCi p v s = .next s1) :
    Kept qs s1 := by
  unfold execCplCi at ht
  first
    | (injection ht with ht; subst ht)
    | (split at ht <;> (injection ht with ht; subst ht))
  repeat' first
    | (with_reducible first | exact h | assumption | apply State.setRings_kept | apply State.badBell_kept | apply kept_ite)
    | split

theorem execOutCi_kept {qs : List Instr} {s : State} (h : Kept qs s) (p : Nat) (v : Word) {s1 : State} (ht : execOutCi p v s = .next s1) :
    Kept qs s1 := by
  unfold execOutCi at ht
  first
    | (injection ht with ht; subst ht)
    | (split at ht <;> (injection ht with ht; subst ht))
  repeat' first
    | (with_reducible first | exact h | apply State.outConsume_kept | apply kept_ite)

theorem execXferPi_kept {qs : List Instr} {s : State} (h : Kept qs s) (n : Nat) (v : Word) {s1 : State} (ht : execXferPi n v s = .next s1) :
    Kept qs s1 := by
  unfold execXferPi at ht
  first
    | (injection ht with ht; subst ht)
    | (split at ht <;> (injection ht with ht; subst ht))
  repeat' first
    | (with_reducible first | exact h | assumption | apply State.setFld_kept | apply kept_hostMem | (apply kept_foldl; intro s a h) | apply kept_ite)
    | simp only [kept_mk_iff, kept_mk_rim_iff]
    | split

theorem State.enableRings_kept {qs : List Instr} {s : State} (h : Kept qs s) (p : Nat) :
    Kept qs (State.enableRings s p) := by
  unfold State.enableRings
  repeat' first
    | (with_reducible first | exact h | apply State.wr_kept | apply State.setRings_kept)

theorem execRingCfgWrite_kept {qs : List Instr} {s : State} (h : Kept qs s) (p : Nat) (v : Word) {s1 : State} (ht : execRingCfgWrite p v s = .next s1) :
    Kept qs s1 := by
  unfold execRingCfgWrite at ht
  first
    | (injection ht with ht; subst ht)
    | (split at ht <;> (injection ht with ht; subst ht))
  repeat' first
    | (with_reducible first | exact h | assumption | apply State.writeRW_kept | apply State.enableRings_kept | apply kept_ite)
    | split

theorem execXferCfgWrite_kept {qs : List Instr} {s : State} (h : Kept qs s) (n : Nat) (v : Word) {s1 : State} (ht : execXferCfgWrite n v s = .next s1) :
    Kept qs s1 := by
  unfold execXferCfgWrite at ht
  first
    | (injection ht with ht; subst ht)
    | (split at ht <;> (injection ht with ht; subst ht))
  repeat' first
    | (with_reducible first | exact h | assumption | apply State.writeRW_kept | apply State.wr_kept | apply State.setFld_kept | apply kept_ite)
    | simp only [kept_mk_iff]
    | split

theorem execRingEntryFetch_kept {qs : List Instr} {s : State} (h : Kept qs s) (p : Nat) (assist : Bool) (e : Option Bytes) {s1 : State} (ht : execRingEntryFetch p assist e s = .next s1) :
    Kept qs s1 := by
  unfold execRingEntryFetch at ht
  first
    | (injection ht with ht; subst ht)
    | (split at ht <;> (injection ht with ht; subst ht))
  repeat' first
    | (with_reducible first | exact h | assumption | apply State.setFld_kept | apply State.bump_kept | apply State.setRings_kept
                             | apply State.complete_kept | apply kept_ite)
    | simp only [kept_mk_iff]
    | split

theorem State.assistDone_kept {qs : List Instr} {s : State} (h : Kept qs s) (p : Nat) (e : Bytes) (status : Nat) :
    Kept qs (State.assistDone s p e status) := by
  unfold State.assistDone
  repeat' first
    | (with_reducible first | exact h | apply State.complete_kept)
    | simp only [kept_mk_iff]

theorem State.assistBusy_kept {qs : List Instr} {s : State} (h : Kept qs s) (p : Nat) (e : Bytes) :
    Kept qs (State.assistBusy s p e) := by
  unfold State.assistBusy
  repeat' first
    | (with_reducible first | exact h | apply State.setRings_kept)

theorem execKeeper_kept {qs : List Instr} {s : State} (h : Kept qs s) (p : Nat) (e : Bytes) {s1 : State} (ht : execKeeper p e s = .next s1) :
    Kept qs s1 := by
  unfold execKeeper at ht
  first
    | (injection ht with ht; subst ht)
    | (split at ht <;> (injection ht with ht; subst ht))
  repeat' first
    | (with_reducible first | exact h | assumption | refine State.takeRing_kept ?_ (by assumption) | apply State.assistDone_kept
                             | apply State.setFld_kept | apply State.setKeeper_kept | apply State.assistBusy_kept | apply kept_ite)
    | split

theorem execWalk_kept {qs : List Instr} {s : State} (h : Kept qs s) (p : Nat) (e : Bytes) (list : Option Bytes) {s1 : State} (ht : execWalk p e list s = .next s1) :
    Kept qs s1 := by
  unfold execWalk at ht
  first
    | (injection ht with ht; subst ht)
    | (split at ht <;> (injection ht with ht; subst ht))
  repeat' first
    | (with_reducible first | exact h | assumption | refine State.takeRing_kept ?_ (by assumption) | apply State.assistDone_kept
                             | apply State.bondWrite_kept | apply State.leStart_kept | apply State.assistBusy_kept | apply kept_ite)
    | split

theorem execMover_kept {qs : List Instr} {s : State} (h : Kept qs s) (p : Nat) (e : Bytes) {s1 : State} (ht : execMover p e s = .next s1) :
    Kept qs s1 := by
  unfold execMover at ht
  first
    | (injection ht with ht; subst ht)
    | (split at ht <;> (injection ht with ht; subst ht))
  repeat' first
    | (with_reducible first | exact h | assumption | refine State.takeRing_kept ?_ (by assumption) | apply State.assistDone_kept
                             | apply State.presentMove_kept | apply State.assistBusy_kept | apply kept_ite)
    | simp only [kept_mk_iff]
    | split

theorem State.xferError_kept {qs : List Instr} {s : State} (h : Kept qs s) (n : Nat) :
    Kept qs (State.xferError s n) := by
  unfold State.xferError
  repeat' first
    | (with_reducible first | exact h | apply State.ingFail_kept | apply State.setFld_kept)
    | simp only [kept_mk_iff]

theorem execXferEntryFetch_kept {qs : List Instr} {s : State} (h : Kept qs s) (n : Nat) (e : Option Bytes) (data : Option Bytes) {s1 : State} (ht : execXferEntryFetch n e data s = .next s1) :
    Kept qs s1 := by
  unfold execXferEntryFetch at ht
  first
    | (injection ht with ht; subst ht)
    | (split at ht <;> (injection ht with ht; subst ht))
  repeat' first
    | (with_reducible first | exact h | assumption | apply State.setSource_kept | apply State.bump_kept | apply State.pumpAll_kept
                             | apply State.xferError_kept | apply kept_hostMem | (apply kept_foldl; intro s a h) | apply kept_ite)
    | simp only [kept_mk_iff, kept_mk_rim_iff]
    | split

theorem execMsixHoldoffExpire_kept {qs : List Instr} {s : State} (h : Kept qs s) (port : Nat) (vector : Nat) {s1 : State} (ht : execMsixHoldoffExpire port vector s = .next s1) :
    Kept qs s1 := by
  unfold execMsixHoldoffExpire at ht
  first
    | (injection ht with ht; subst ht)
    | (split at ht <;> (injection ht with ht; subst ht))
  repeat' first
    | (with_reducible first | exact h | assumption | apply kept_hostMem | (apply kept_foldl; intro s a h) | apply kept_ite)
    | simp only [kept_mk_iff, kept_mk_rim_iff]
    | split

theorem execPmodeWrite_kept {qs : List Instr} {s : State} (h : Kept qs s) (p : Nat) (v : Word) {s1 : State} (ht : execPmodeWrite p v s = .next s1) :
    Kept qs s1 := by
  unfold execPmodeWrite at ht
  first
    | (injection ht with ht; subst ht)
    | (split at ht <;> (injection ht with ht; subst ht))
  repeat' first
    | (with_reducible first | exact h | apply State.writeRW_kept | apply kept_ite)

theorem execGlbModeWrite_kept {qs : List Instr} {s : State} (h : Kept qs s) (v : Word) {s1 : State} (ht : execGlbModeWrite v s = .next s1) :
    Kept qs s1 := by
  unfold execGlbModeWrite at ht
  first
    | (injection ht with ht; subst ht)
    | (split at ht <;> (injection ht with ht; subst ht))
  repeat' first
    | (with_reducible first | exact h | apply State.writeRW_kept | apply State.setFld_kept)

theorem State.msixWrite_kept {qs : List Instr} {s : State} (h : Kept qs s) (port : Nat) (off : Nat) (v : Word) :
    Kept qs (State.msixWrite s port off v) := by
  unfold State.msixWrite
  repeat' first
    | (with_reducible first | exact h | assumption | apply kept_hostMem | (apply kept_foldl; intro s a h) | apply kept_ite)
    | simp only [kept_mk_iff, kept_mk_rim_iff]
    | split

theorem State.ringBaseWrite_kept {qs : List Instr} {s : State} (h : Kept qs s) (addr : Nat) (v : Word) :
    Kept qs (State.ringBaseWrite s addr v) := by
  unfold State.ringBaseWrite
  repeat' first
    | (with_reducible first | exact h | assumption | apply State.writeRW_kept | apply State.wr_kept | apply kept_ite)
    | split

theorem State.xferBaseWrite_kept {qs : List Instr} {s : State} (h : Kept qs s) (n : Nat) (off : Nat) (v : Word) :
    Kept qs (State.xferBaseWrite s n off v) := by
  unfold State.xferBaseWrite
  repeat' first
    | (with_reducible first | exact h | assumption | apply State.writeRW_kept | apply State.wr_kept | apply kept_ite)
    | split

theorem State.acctWrite_kept {qs : List Instr} {s : State} (h : Kept qs s) (which : Nat) (v : Word) :
    Kept qs (State.acctWrite s which v) := by
  unfold State.acctWrite
  repeat' first
    | (with_reducible first | exact h | assumption | apply State.setAcct_kept | apply State.reservedBits_kept | apply kept_ite)
    | split

theorem State.channelWrite_kept {qs : List Instr} {s : State} (h : Kept qs s) (b : Bool) (v : Word) :
    Kept qs (State.channelWrite s b v) := by
  unfold State.channelWrite
  repeat' first
    | (with_reducible first | exact h | assumption | apply State.reservedBits_kept | apply State.settleChannels_kept | apply kept_hostMem
                             | (apply kept_foldl; intro s a h) | apply kept_ite)
    | simp only [kept_mk_iff, kept_mk_rim_iff]
    | split

theorem State.hostRegWrite_kept {qs : List Instr} {s : State} (h : Kept qs s) (port : Nat) (addr : Nat) (v : Word) :
    Kept qs (State.hostRegWrite s port addr v) := by
  unfold State.hostRegWrite
  repeat' first
    | (with_reducible first | exact h | assumption | apply State.msixWrite_kept | apply State.writeRW_kept | apply State.acctWrite_kept
                             | apply State.mgtCmdWrite_kept | apply State.reservedBits_kept | apply State.cmdDrop_kept
                             | apply State.channelWrite_kept | apply State.xferBaseWrite_kept | apply State.ringBaseWrite_kept | apply kept_ite)
    | simp only [kept_mk_iff]
    | split

theorem execRegisterWrite_kept {qs : List Instr} {s : State} (h : Kept qs s) (port : Nat) (addr : Nat) (enables : BitVec 4) (v : Word) {s1 : State} (ht : execRegisterWrite port addr enables v s = .next s1) :
    Kept qs s1 := by
  unfold execRegisterWrite at ht
  first
    | (injection ht with ht; subst ht)
    | (split at ht <;> (injection ht with ht; subst ht))
  repeat' first
    | (with_reducible first | exact h | assumption | apply State.bump_kept | apply State.hostRegWrite_kept | apply kept_ite)
    | split

/-! ### Idle -/

theorem idleTick_kept {qs : List Instr} {s : State} (h : Kept qs s) :
    Kept qs (idleTick s) := by
  unfold idleTick
  repeat' first
    | (with_reducible first | exact h | apply kept_ite)
    | simp only [kept_mk_iff]

/-! ### CoreCmds -/

theorem execBundleIssue_kept {qs : List Instr} {s : State} (h : Kept qs s) (c : CoreId) {s1 : State} (ht : execBundleIssue c s = .next s1) :
    Kept qs s1 := by
  unfold execBundleIssue at ht
  first
    | (injection ht with ht; subst ht)
    | (split at ht <;> (injection ht with ht; subst ht))
  repeat' first
    | (with_reducible first | exact h | apply State.cycle_kept)
    | simp only [kept_mk_iff]

theorem execWaitTimeout_kept {qs : List Instr} {s : State} (h : Kept qs s) (c : CoreId) {s1 : State} (ht : execWaitTimeout c s = .next s1) :
    Kept qs s1 := by
  unfold execWaitTimeout at ht
  first
    | (injection ht with ht; subst ht)
    | (split at ht <;> (injection ht with ht; subst ht))
  repeat' first
    | (with_reducible first | exact h | assumption | apply State.cycle_kept | apply kept_ite)
    | split

theorem execDmm_kept {qs : List Instr} {s : State} (h : Kept qs s) (c : CoreId) (o : BitVec 46) {s1 : State} (ht : execDmm c o s = .next s1) :
    Kept qs s1 := by
  unfold execDmm at ht
  first
    | (injection ht with ht; subst ht)
    | (split at ht <;> (injection ht with ht; subst ht))
  repeat' first
    | (with_reducible first | exact h | apply State.slotCycle_kept)

theorem execDmmt_kept {qs : List Instr} {s : State} (h : Kept qs s) (c : CoreId) (o : BitVec 46) {s1 : State} (ht : execDmmt c o s = .next s1) :
    Kept qs s1 := by
  unfold execDmmt at ht
  first
    | (injection ht with ht; subst ht)
    | (split at ht <;> (injection ht with ht; subst ht))
  repeat' first
    | (with_reducible first | exact h | apply State.slotCycle_kept)

theorem execDout_kept {qs : List Instr} {s : State} (h : Kept qs s) (c : CoreId) (o : BitVec 46) {s1 : State} (ht : execDout c o s = .next s1) :
    Kept qs s1 := by
  unfold execDout at ht
  first
    | (injection ht with ht; subst ht)
    | (split at ht <;> (injection ht with ht; subst ht))
  repeat' first
    | (with_reducible first | exact h | apply State.slotCycle_kept)

theorem execDadn_kept {qs : List Instr} {s : State} (h : Kept qs s) (c : CoreId) (o : BitVec 46) {s1 : State} (ht : execDadn c o s = .next s1) :
    Kept qs s1 := by
  unfold execDadn at ht
  first
    | (injection ht with ht; subst ht)
    | (split at ht <;> (injection ht with ht; subst ht))
  repeat' first
    | (with_reducible first | exact h | apply State.slotCycle_kept)

theorem execDaup_kept {qs : List Instr} {s : State} (h : Kept qs s) (c : CoreId) (o : BitVec 46) {s1 : State} (ht : execDaup c o s = .next s1) :
    Kept qs s1 := by
  unfold execDaup at ht
  first
    | (injection ht with ht; subst ht)
    | (split at ht <;> (injection ht with ht; subst ht))
  repeat' first
    | (with_reducible first | exact h | apply State.slotCycle_kept)

theorem execDrsc_kept {qs : List Instr} {s : State} (h : Kept qs s) (c : CoreId) (o : BitVec 46) {s1 : State} (ht : execDrsc c o s = .next s1) :
    Kept qs s1 := by
  unfold execDrsc at ht
  first
    | (injection ht with ht; subst ht)
    | (split at ht <;> (injection ht with ht; subst ht))
  repeat' first
    | (with_reducible first | exact h | apply State.slotCycle_kept)

theorem execVfma_kept {qs : List Instr} {s : State} (h : Kept qs s) (c : CoreId) (o : BitVec 46) {s1 : State} (ht : execVfma c o s = .next s1) :
    Kept qs s1 := by
  unfold execVfma at ht
  first
    | (injection ht with ht; subst ht)
    | (split at ht <;> (injection ht with ht; subst ht))
  repeat' first
    | (with_reducible first | exact h | apply State.slotCycle_kept)

theorem execVadd_kept {qs : List Instr} {s : State} (h : Kept qs s) (c : CoreId) (o : BitVec 46) {s1 : State} (ht : execVadd c o s = .next s1) :
    Kept qs s1 := by
  unfold execVadd at ht
  first
    | (injection ht with ht; subst ht)
    | (split at ht <;> (injection ht with ht; subst ht))
  repeat' first
    | (with_reducible first | exact h | apply State.slotCycle_kept)

theorem execVmul_kept {qs : List Instr} {s : State} (h : Kept qs s) (c : CoreId) (o : BitVec 46) {s1 : State} (ht : execVmul c o s = .next s1) :
    Kept qs s1 := by
  unfold execVmul at ht
  first
    | (injection ht with ht; subst ht)
    | (split at ht <;> (injection ht with ht; subst ht))
  repeat' first
    | (with_reducible first | exact h | apply State.slotCycle_kept)

theorem execVmin_kept {qs : List Instr} {s : State} (h : Kept qs s) (c : CoreId) (o : BitVec 46) {s1 : State} (ht : execVmin c o s = .next s1) :
    Kept qs s1 := by
  unfold execVmin at ht
  first
    | (injection ht with ht; subst ht)
    | (split at ht <;> (injection ht with ht; subst ht))
  repeat' first
    | (with_reducible first | exact h | apply State.slotCycle_kept)

theorem execVmax_kept {qs : List Instr} {s : State} (h : Kept qs s) (c : CoreId) (o : BitVec 46) {s1 : State} (ht : execVmax c o s = .next s1) :
    Kept qs s1 := by
  unfold execVmax at ht
  first
    | (injection ht with ht; subst ht)
    | (split at ht <;> (injection ht with ht; subst ht))
  repeat' first
    | (with_reducible first | exact h | apply State.slotCycle_kept)

theorem execVcmp_kept {qs : List Instr} {s : State} (h : Kept qs s) (c : CoreId) (o : BitVec 46) {s1 : State} (ht : execVcmp c o s = .next s1) :
    Kept qs s1 := by
  unfold execVcmp at ht
  first
    | (injection ht with ht; subst ht)
    | (split at ht <;> (injection ht with ht; subst ht))
  repeat' first
    | (with_reducible first | exact h | apply State.slotCycle_kept)

theorem execVsel_kept {qs : List Instr} {s : State} (h : Kept qs s) (c : CoreId) (o : BitVec 46) {s1 : State} (ht : execVsel c o s = .next s1) :
    Kept qs s1 := by
  unfold execVsel at ht
  first
    | (injection ht with ht; subst ht)
    | (split at ht <;> (injection ht with ht; subst ht))
  repeat' first
    | (with_reducible first | exact h | apply State.slotCycle_kept)

theorem execVbrl_kept {qs : List Instr} {s : State} (h : Kept qs s) (c : CoreId) (o : BitVec 46) {s1 : State} (ht : execVbrl c o s = .next s1) :
    Kept qs s1 := by
  unfold execVbrl at ht
  first
    | (injection ht with ht; subst ht)
    | (split at ht <;> (injection ht with ht; subst ht))
  repeat' first
    | (with_reducible first | exact h | apply State.slotCycle_kept)

theorem execVcvt_kept {qs : List Instr} {s : State} (h : Kept qs s) (c : CoreId) (o : BitVec 46) {s1 : State} (ht : execVcvt c o s = .next s1) :
    Kept qs s1 := by
  unfold execVcvt at ht
  first
    | (injection ht with ht; subst ht)
    | (split at ht <;> (injection ht with ht; subst ht))
  repeat' first
    | (with_reducible first | exact h | apply State.slotCycle_kept)

theorem execVacc_kept {qs : List Instr} {s : State} (h : Kept qs s) (c : CoreId) (o : BitVec 46) {s1 : State} (ht : execVacc c o s = .next s1) :
    Kept qs s1 := by
  unfold execVacc at ht
  first
    | (injection ht with ht; subst ht)
    | (split at ht <;> (injection ht with ht; subst ht))
  repeat' first
    | (with_reducible first | exact h | apply State.slotCycle_kept)

theorem execVrot_kept {qs : List Instr} {s : State} (h : Kept qs s) (c : CoreId) (o : BitVec 46) {s1 : State} (ht : execVrot c o s = .next s1) :
    Kept qs s1 := by
  unfold execVrot at ht
  first
    | (injection ht with ht; subst ht)
    | (split at ht <;> (injection ht with ht; subst ht))
  repeat' first
    | (with_reducible first | exact h | apply State.slotCycle_kept)

theorem execVrmax_kept {qs : List Instr} {s : State} (h : Kept qs s) (c : CoreId) (o : BitVec 46) {s1 : State} (ht : execVrmax c o s = .next s1) :
    Kept qs s1 := by
  unfold execVrmax at ht
  first
    | (injection ht with ht; subst ht)
    | (split at ht <;> (injection ht with ht; subst ht))
  repeat' first
    | (with_reducible first | exact h | apply State.slotCycle_kept)

theorem execVrsum_kept {qs : List Instr} {s : State} (h : Kept qs s) (c : CoreId) (o : BitVec 46) {s1 : State} (ht : execVrsum c o s = .next s1) :
    Kept qs s1 := by
  unfold execVrsum at ht
  first
    | (injection ht with ht; subst ht)
    | (split at ht <;> (injection ht with ht; subst ht))
  repeat' first
    | (with_reducible first | exact h | apply State.slotCycle_kept)

theorem execVexp_kept {qs : List Instr} {s : State} (h : Kept qs s) (c : CoreId) (o : BitVec 46) {s1 : State} (ht : execVexp c o s = .next s1) :
    Kept qs s1 := by
  unfold execVexp at ht
  first
    | (injection ht with ht; subst ht)
    | (split at ht <;> (injection ht with ht; subst ht))
  repeat' first
    | (with_reducible first | exact h | apply State.slotCycle_kept)

theorem execVrcp_kept {qs : List Instr} {s : State} (h : Kept qs s) (c : CoreId) (o : BitVec 46) {s1 : State} (ht : execVrcp c o s = .next s1) :
    Kept qs s1 := by
  unfold execVrcp at ht
  first
    | (injection ht with ht; subst ht)
    | (split at ht <;> (injection ht with ht; subst ht))
  repeat' first
    | (with_reducible first | exact h | apply State.slotCycle_kept)

theorem execVrsq_kept {qs : List Instr} {s : State} (h : Kept qs s) (c : CoreId) (o : BitVec 46) {s1 : State} (ht : execVrsq c o s = .next s1) :
    Kept qs s1 := by
  unfold execVrsq at ht
  first
    | (injection ht with ht; subst ht)
    | (split at ht <;> (injection ht with ht; subst ht))
  repeat' first
    | (with_reducible first | exact h | apply State.slotCycle_kept)

theorem execVact_kept {qs : List Instr} {s : State} (h : Kept qs s) (c : CoreId) (o : BitVec 46) {s1 : State} (ht : execVact c o s = .next s1) :
    Kept qs s1 := by
  unfold execVact at ht
  first
    | (injection ht with ht; subst ht)
    | (split at ht <;> (injection ht with ht; subst ht))
  repeat' first
    | (with_reducible first | exact h | apply State.slotCycle_kept)

theorem execVqnt_kept {qs : List Instr} {s : State} (h : Kept qs s) (c : CoreId) (o : BitVec 46) {s1 : State} (ht : execVqnt c o s = .next s1) :
    Kept qs s1 := by
  unfold execVqnt at ht
  first
    | (injection ht with ht; subst ht)
    | (split at ht <;> (injection ht with ht; subst ht))
  repeat' first
    | (with_reducible first | exact h | apply State.slotCycle_kept)

theorem execAsmx_kept {qs : List Instr} {s : State} (h : Kept qs s) (c : CoreId) (o : BitVec 46) {s1 : State} (ht : execAsmx c o s = .next s1) :
    Kept qs s1 := by
  unfold execAsmx at ht
  first
    | (injection ht with ht; subst ht)
    | (split at ht <;> (injection ht with ht; subst ht))
  repeat' first
    | (with_reducible first | exact h | apply State.slotCycle_kept)

theorem execAend_kept {qs : List Instr} {s : State} (h : Kept qs s) (c : CoreId) (o : BitVec 46) {s1 : State} (ht : execAend c o s = .next s1) :
    Kept qs s1 := by
  unfold execAend at ht
  first
    | (injection ht with ht; subst ht)
    | (split at ht <;> (injection ht with ht; subst ht))
  repeat' first
    | (with_reducible first | exact h | apply State.slotCycle_kept)

theorem execArec_kept {qs : List Instr} {s : State} (h : Kept qs s) (c : CoreId) (o : BitVec 46) {s1 : State} (ht : execArec c o s = .next s1) :
    Kept qs s1 := by
  unfold execArec at ht
  first
    | (injection ht with ht; subst ht)
    | (split at ht <;> (injection ht with ht; subst ht))
  repeat' first
    | (with_reducible first | exact h | apply State.slotCycle_kept)

/-! ### MoveCmds -/

theorem execAop_kept {qs : List Instr} {s : State} (h : Kept qs s) (c : CoreId) (o : BitVec 30) {s1 : State} (ht : execAop c o s = .next s1) :
    Kept qs s1 := by
  unfold execAop at ht
  first
    | (injection ht with ht; subst ht)
    | (split at ht <;> (injection ht with ht; subst ht))
  repeat' first
    | (with_reducible first | exact h | apply State.slotCycle_kept)

theorem execAopi_kept {qs : List Instr} {s : State} (h : Kept qs s) (c : CoreId) (o : BitVec 30) {s1 : State} (ht : execAopi c o s = .next s1) :
    Kept qs s1 := by
  unfold execAopi at ht
  first
    | (injection ht with ht; subst ht)
    | (split at ht <;> (injection ht with ht; subst ht))
  repeat' first
    | (with_reducible first | exact h | apply State.slotCycle_kept)

theorem execCmp_kept {qs : List Instr} {s : State} (h : Kept qs s) (c : CoreId) (o : BitVec 30) {s1 : State} (ht : execCmp c o s = .next s1) :
    Kept qs s1 := by
  unfold execCmp at ht
  first
    | (injection ht with ht; subst ht)
    | (split at ht <;> (injection ht with ht; subst ht))
  repeat' first
    | (with_reducible first | exact h | apply State.slotCycle_kept)

theorem execPlg_kept {qs : List Instr} {s : State} (h : Kept qs s) (c : CoreId) (o : BitVec 30) {s1 : State} (ht : execPlg c o s = .next s1) :
    Kept qs s1 := by
  unfold execPlg at ht
  first
    | (injection ht with ht; subst ht)
    | (split at ht <;> (injection ht with ht; subst ht))
  repeat' first
    | (with_reducible first | exact h | apply State.slotCycle_kept)

theorem execCsr_kept {qs : List Instr} {s : State} (h : Kept qs s) (c : CoreId) (o : BitVec 30) {s1 : State} (ht : execCsr c o s = .next s1) :
    Kept qs s1 := by
  unfold execCsr at ht
  first
    | (injection ht with ht; subst ht)
    | (split at ht <;> (injection ht with ht; subst ht))
  repeat' first
    | (with_reducible first | exact h | apply State.slotCycle_kept)

theorem execCctl_kept {qs : List Instr} {s : State} (h : Kept qs s) (c : CoreId) (o : BitVec 30) {s1 : State} (ht : execCctl c o s = .next s1) :
    Kept qs s1 := by
  unfold execCctl at ht
  first
    | (injection ht with ht; subst ht)
    | (split at ht <;> (injection ht with ht; subst ht))
  repeat' first
    | (with_reducible first | exact h | apply State.slotCycle_kept)

theorem execWait_kept {qs : List Instr} {s : State} (h : Kept qs s) (c : CoreId) (o : BitVec 30) {s1 : State} (ht : execWait c o s = .next s1) :
    Kept qs s1 := by
  unfold execWait at ht
  first
    | (injection ht with ht; subst ht)
    | (split at ht <;> (injection ht with ht; subst ht))
  repeat' first
    | (with_reducible first | exact h | apply State.slotCycle_kept)

theorem execBr_kept {qs : List Instr} {s : State} (h : Kept qs s) (c : CoreId) (o : BitVec 30) {s1 : State} (ht : execBr c o s = .next s1) :
    Kept qs s1 := by
  unfold execBr at ht
  first
    | (injection ht with ht; subst ht)
    | (split at ht <;> (injection ht with ht; subst ht))
  repeat' first
    | (with_reducible first | exact h | apply State.slotCycle_kept)

theorem execLoop_kept {qs : List Instr} {s : State} (h : Kept qs s) (c : CoreId) (o : BitVec 30) {s1 : State} (ht : execLoop c o s = .next s1) :
    Kept qs s1 := by
  unfold execLoop at ht
  first
    | (injection ht with ht; subst ht)
    | (split at ht <;> (injection ht with ht; subst ht))
  repeat' first
    | (with_reducible first | exact h | apply State.slotCycle_kept)

theorem execTset_kept {qs : List Instr} {s : State} (h : Kept qs s) (c : CoreId) (o : BitVec 30) {s1 : State} (ht : execTset c o s = .next s1) :
    Kept qs s1 := by
  unfold execTset at ht
  first
    | (injection ht with ht; subst ht)
    | (split at ht <;> (injection ht with ht; subst ht))
  repeat' first
    | (with_reducible first | exact h | apply State.slotCycle_kept)

theorem execTadj_kept {qs : List Instr} {s : State} (h : Kept qs s) (c : CoreId) (o : BitVec 30) {s1 : State} (ht : execTadj c o s = .next s1) :
    Kept qs s1 := by
  unfold execTadj at ht
  first
    | (injection ht with ht; subst ht)
    | (split at ht <;> (injection ht with ht; subst ht))
  repeat' first
    | (with_reducible first | exact h | apply State.slotCycle_kept)

theorem execStl_kept {qs : List Instr} {s : State} (h : Kept qs s) (c : CoreId) (o : BitVec 30) {s1 : State} (ht : execStl c o s = .next s1) :
    Kept qs s1 := by
  unfold execStl at ht
  first
    | (injection ht with ht; subst ht)
    | (split at ht <;> (injection ht with ht; subst ht))
  repeat' first
    | (with_reducible first | exact h | apply State.slotCycle_kept)

theorem execHalt_kept {qs : List Instr} {s : State} (h : Kept qs s) (c : CoreId) {s1 : State} (ht : execHalt c s = .next s1) :
    Kept qs s1 := by
  unfold execHalt at ht
  first
    | (injection ht with ht; subst ht)
    | (split at ht <;> (injection ht with ht; subst ht))
  repeat' first
    | (with_reducible first | exact h | apply State.slotCycle_kept)

theorem execTrc_kept {qs : List Instr} {s : State} (h : Kept qs s) (c : CoreId) (o : BitVec 30) {s1 : State} (ht : execTrc c o s = .next s1) :
    Kept qs s1 := by
  unfold execTrc at ht
  first
    | (injection ht with ht; subst ht)
    | (split at ht <;> (injection ht with ht; subst ht))
  repeat' first
    | (with_reducible first | exact h | apply State.slotCycle_kept)

theorem execLda_kept {qs : List Instr} {s : State} (h : Kept qs s) (c : CoreId) (o : BitVec 38) {s1 : State} (ht : execLda c o s = .next s1) :
    Kept qs s1 := by
  unfold execLda at ht
  first
    | (injection ht with ht; subst ht)
    | (split at ht <;> (injection ht with ht; subst ht))
  repeat' first
    | (with_reducible first | exact h | apply State.slotCycle_kept)

theorem execSta_kept {qs : List Instr} {s : State} (h : Kept qs s) (c : CoreId) (o : BitVec 38) {s1 : State} (ht : execSta c o s = .next s1) :
    Kept qs s1 := by
  unfold execSta at ht
  first
    | (injection ht with ht; subst ht)
    | (split at ht <;> (injection ht with ht; subst ht))
  repeat' first
    | (with_reducible first | exact h | apply State.slotCycle_kept)

theorem execLdv_kept {qs : List Instr} {s : State} (h : Kept qs s) (c : CoreId) (o : BitVec 38) {s1 : State} (ht : execLdv c o s = .next s1) :
    Kept qs s1 := by
  unfold execLdv at ht
  first
    | (injection ht with ht; subst ht)
    | (split at ht <;> (injection ht with ht; subst ht))
  repeat' first
    | (with_reducible first | exact h | apply State.slotCycle_kept)

theorem execStv_kept {qs : List Instr} {s : State} (h : Kept qs s) (c : CoreId) (o : BitVec 38) {s1 : State} (ht : execStv c o s = .next s1) :
    Kept qs s1 := by
  unfold execStv at ht
  first
    | (injection ht with ht; subst ht)
    | (split at ht <;> (injection ht with ht; subst ht))
  repeat' first
    | (with_reducible first | exact h | apply State.slotCycle_kept)

theorem execTld_kept {qs : List Instr} {s : State} (h : Kept qs s) (c : CoreId) (o : BitVec 38) {s1 : State} (ht : execTld c o s = .next s1) :
    Kept qs s1 := by
  unfold execTld at ht
  first
    | (injection ht with ht; subst ht)
    | (split at ht <;> (injection ht with ht; subst ht))
  repeat' first
    | (with_reducible first | exact h | apply State.slotCycle_kept)

theorem execMcp_kept {qs : List Instr} {s : State} (h : Kept qs s) (c : CoreId) (o : BitVec 38) {s1 : State} (ht : execMcp c o s = .next s1) :
    Kept qs s1 := by
  unfold execMcp at ht
  first
    | (injection ht with ht; subst ht)
    | (split at ht <;> (injection ht with ht; subst ht))
  repeat' first
    | (with_reducible first | exact h | apply State.slotCycle_kept)

theorem execVrd_kept {qs : List Instr} {s : State} (h : Kept qs s) (c : CoreId) (o : BitVec 38) {s1 : State} (ht : execVrd c o s = .next s1) :
    Kept qs s1 := by
  unfold execVrd at ht
  first
    | (injection ht with ht; subst ht)
    | (split at ht <;> (injection ht with ht; subst ht))
  repeat' first
    | (with_reducible first | exact h | apply State.slotCycle_kept)

theorem execVwr_kept {qs : List Instr} {s : State} (h : Kept qs s) (c : CoreId) (o : BitVec 38) {s1 : State} (ht : execVwr c o s = .next s1) :
    Kept qs s1 := by
  unfold execVwr at ht
  first
    | (injection ht with ht; subst ht)
    | (split at ht <;> (injection ht with ht; subst ht))
  repeat' first
    | (with_reducible first | exact h | apply State.slotCycle_kept)

theorem execSpr_kept {qs : List Instr} {s : State} (h : Kept qs s) (c : CoreId) (o : BitVec 38) {s1 : State} (ht : execSpr c o s = .next s1) :
    Kept qs s1 := by
  unfold execSpr at ht
  first
    | (injection ht with ht; subst ht)
    | (split at ht <;> (injection ht with ht; subst ht))
  repeat' first
    | (with_reducible first | exact h | apply State.slotCycle_kept)

theorem execSpw_kept {qs : List Instr} {s : State} (h : Kept qs s) (c : CoreId) (o : BitVec 38) {s1 : State} (ht : execSpw c o s = .next s1) :
    Kept qs s1 := by
  unfold execSpw at ht
  first
    | (injection ht with ht; subst ht)
    | (split at ht <;> (injection ht with ht; subst ht))
  repeat' first
    | (with_reducible first | exact h | apply State.slotCycle_kept)

theorem execSnd_kept {qs : List Instr} {s : State} (h : Kept qs s) (c : CoreId) (o : BitVec 38) {s1 : State} (ht : execSnd c o s = .next s1) :
    Kept qs s1 := by
  unfold execSnd at ht
  first
    | (injection ht with ht; subst ht)
    | (split at ht <;> (injection ht with ht; subst ht))
  repeat' first
    | (with_reducible first | exact h | apply State.slotCycle_kept)

theorem execMcs_kept {qs : List Instr} {s : State} (h : Kept qs s) (c : CoreId) (o : BitVec 38) {s1 : State} (ht : execMcs c o s = .next s1) :
    Kept qs s1 := by
  unfold execMcs at ht
  first
    | (injection ht with ht; subst ht)
    | (split at ht <;> (injection ht with ht; subst ht))
  repeat' first
    | (with_reducible first | exact h | apply State.slotCycle_kept)

theorem execRds_kept {qs : List Instr} {s : State} (h : Kept qs s) (c : CoreId) (o : BitVec 38) {s1 : State} (ht : execRds c o s = .next s1) :
    Kept qs s1 := by
  unfold execRds at ht
  first
    | (injection ht with ht; subst ht)
    | (split at ht <;> (injection ht with ht; subst ht))
  repeat' first
    | (with_reducible first | exact h | apply State.slotCycle_kept)

theorem execSig_kept {qs : List Instr} {s : State} (h : Kept qs s) (c : CoreId) (o : BitVec 38) {s1 : State} (ht : execSig c o s = .next s1) :
    Kept qs s1 := by
  unfold execSig at ht
  first
    | (injection ht with ht; subst ht)
    | (split at ht <;> (injection ht with ht; subst ht))
  repeat' first
    | (with_reducible first | exact h | apply State.slotCycle_kept)

/-! ### Security -/

theorem State.requestEnd_kept {qs : List Instr} {s : State} (h : Kept qs s) (seq : Option Nat) (op : Nat) (status : Nat) :
    Kept qs (State.requestEnd s seq op status) := by
  unfold State.requestEnd
  repeat' first
    | (with_reducible first | exact h | assumption | apply State.setFld_kept | apply State.logEvent_kept | apply State.bump_kept
                             | apply State.mailDone_kept | apply State.showSec_kept | apply kept_ite)
    | split

theorem execPcr_kept {qs : List Instr} {s : State} (h : Kept qs s) (block : Option Bytes) (request : Option Bytes) {s1 : State} (ht : execPcr block request s = .next s1) :
    Kept qs s1 := by
  unfold execPcr at ht
  first
    | (injection ht with ht; subst ht)
    | (split at ht <;> (injection ht with ht; subst ht))
  repeat' first
    | (with_reducible first | exact h | assumption | apply State.cmdDone_kept | apply State.requestEnd_kept | apply State.dropCmd_kept
                             | apply State.showSec_kept | apply kept_ite)
    | simp only [kept_mk_iff]
    | split

theorem State.handle_kept {qs : List Instr} {s : State} (h : Kept qs s) (op : Nat) (q : Bytes) (extra : State → Nat) (apply_ : State → State)
    (hf : ∀ t, Kept qs t → Kept qs (apply_ t)) : Kept qs (State.handle s op q extra apply_) := by
  unfold State.handle
  repeat' first
    | (with_reducible first | exact h | assumption | apply hf | apply State.requestEnd_kept | apply State.fuseRefused_kept | apply kept_ite)
    | simp only [kept_mk_iff]
    | split

theorem execSetKey_kept {qs : List Instr} {s : State} (h : Kept qs s) (req : Bytes) {s1 : State} (ht : execSetKey req s = .next s1) :
    Kept qs s1 := by
  unfold execSetKey at ht
  first
    | (injection ht with ht; subst ht)
    | (split at ht <;> (injection ht with ht; subst ht))
  repeat' first
    | (with_reducible first | exact h | assumption | apply State.handle_kept | intro s h | apply kept_hostMem | (apply kept_foldl; intro s a h)
                             | apply kept_ite)
    | simp only [kept_mk_iff, kept_mk_rim_iff]
    | split

theorem execSetPolicy_kept {qs : List Instr} {s : State} (h : Kept qs s) (req : Bytes) {s1 : State} (ht : execSetPolicy req s = .next s1) :
    Kept qs s1 := by
  unfold execSetPolicy at ht
  first
    | (injection ht with ht; subst ht)
    | (split at ht <;> (injection ht with ht; subst ht))
  repeat' first
    | (with_reducible first | exact h | assumption | apply State.handle_kept | intro s h | apply kept_hostMem | (apply kept_foldl; intro s a h)
                             | apply kept_ite)
    | simp only [kept_mk_iff, kept_mk_rim_iff]
    | split

theorem execDebug_kept {qs : List Instr} {s : State} (h : Kept qs s) (req : Bytes) {s1 : State} (ht : execDebug req s = .next s1) :
    Kept qs s1 := by
  unfold execDebug at ht
  first
    | (injection ht with ht; subst ht)
    | (split at ht <;> (injection ht with ht; subst ht))
  repeat' first
    | (with_reducible first | exact h | assumption | apply State.handle_kept | intro s h | apply kept_hostMem | (apply kept_foldl; intro s a h)
                             | apply kept_ite)
    | simp only [kept_mk_iff, kept_mk_rim_iff]
    | split

theorem execUpdatePolicy_kept {qs : List Instr} {s : State} (h : Kept qs s) (req : Bytes) {s1 : State} (ht : execUpdatePolicy req s = .next s1) :
    Kept qs s1 := by
  unfold execUpdatePolicy at ht
  first
    | (injection ht with ht; subst ht)
    | (split at ht <;> (injection ht with ht; subst ht))
  repeat' first
    | (with_reducible first | exact h | assumption | apply State.handle_kept | intro s h | apply kept_hostMem | (apply kept_foldl; intro s a h)
                             | apply kept_ite)
    | simp only [kept_mk_iff, kept_mk_rim_iff]
    | split

theorem execEnrol_kept {qs : List Instr} {s : State} (h : Kept qs s) (req : Bytes) {s1 : State} (ht : execEnrol req s = .next s1) :
    Kept qs s1 := by
  unfold execEnrol at ht
  first
    | (injection ht with ht; subst ht)
    | (split at ht <;> (injection ht with ht; subst ht))
  repeat' first
    | (with_reducible first | exact h | assumption | apply State.handle_kept | intro s h | apply kept_hostMem | (apply kept_foldl; intro s a h)
                             | apply kept_ite)
    | simp only [kept_mk_iff, kept_mk_rim_iff]
    | split

theorem execRemove_kept {qs : List Instr} {s : State} (h : Kept qs s) (req : Bytes) {s1 : State} (ht : execRemove req s = .next s1) :
    Kept qs s1 := by
  unfold execRemove at ht
  first
    | (injection ht with ht; subst ht)
    | (split at ht <;> (injection ht with ht; subst ht))
  repeat' first
    | (with_reducible first | exact h | assumption | apply State.handle_kept | intro s h | apply kept_hostMem | (apply kept_foldl; intro s a h)
                             | apply kept_ite)
    | simp only [kept_mk_iff, kept_mk_rim_iff]
    | split

theorem execFuse_kept {qs : List Instr} {s : State} (h : Kept qs s) (req : Bytes) {s1 : State} (ht : execFuse req s = .next s1) :
    Kept qs s1 := by
  unfold execFuse at ht
  first
    | (injection ht with ht; subst ht)
    | (split at ht <;> (injection ht with ht; subst ht))
  repeat' first
    | (with_reducible first | exact h | assumption | apply State.handle_kept | apply State.showCounters_kept | intro s h | apply kept_hostMem
                             | (apply kept_foldl; intro s a h) | apply kept_ite)
    | simp only [kept_mk_iff, kept_mk_rim_iff]
    | split

theorem execApprove_kept {qs : List Instr} {s : State} (h : Kept qs s) (req : Bytes) {s1 : State} (ht : execApprove req s = .next s1) :
    Kept qs s1 := by
  unfold execApprove at ht
  first
    | (injection ht with ht; subst ht)
    | (split at ht <;> (injection ht with ht; subst ht))
  repeat' first
    | (with_reducible first | exact h | assumption | apply State.handle_kept | intro s h | apply kept_hostMem | (apply kept_foldl; intro s a h)
                             | apply kept_ite)
    | simp only [kept_mk_iff, kept_mk_rim_iff]
    | split

theorem execSecSelfTestPeriodic_kept {qs : List Instr} {s : State} (h : Kept qs s) (pass : Bool) {s1 : State} (ht : execSecSelfTestPeriodic pass s = .next s1) :
    Kept qs s1 := by
  unfold execSecSelfTestPeriodic at ht
  first
    | (injection ht with ht; subst ht)
    | (split at ht <;> (injection ht with ht; subst ht))
  repeat' first
    | (with_reducible first | exact h | assumption | apply State.secFails_kept | apply kept_ite)
    | split

theorem execEntropyHealthFail_kept {qs : List Instr} {s : State} (h : Kept qs s) {s1 : State} (ht : execEntropyHealthFail s = .next s1) :
    Kept qs s1 := by
  unfold execEntropyHealthFail at ht
  first
    | (injection ht with ht; subst ht)
    | (split at ht <;> (injection ht with ht; subst ht))
  repeat' first
    | (with_reducible first | exact h | assumption | apply State.secFails_kept | apply kept_ite)
    | split

theorem State.answer_kept {qs : List Instr} {s : State} (h : Kept qs s) (a : Answer) :
    Kept qs (State.answer s a) := by
  unfold State.answer
  repeat' first
    | (with_reducible first | exact h)
    | simp only [kept_mk_iff]

theorem State.respond_kept {qs : List Instr} {s : State} (h : Kept qs s) (known : Bytes) (req : Bytes) :
    Kept qs (State.respond s known req) := by
  unfold State.respond
  repeat' first
    | (with_reducible first | exact h | assumption | apply State.answer_kept | apply kept_hostMem | (apply kept_foldl; intro s a h) | apply kept_ite)
    | simp only [kept_mk_iff, kept_mk_rim_iff]
    | split

theorem State.spdm_kept {qs : List Instr} {s : State} (h : Kept qs s) (versionReq : Bool) (req : Bytes) (f : State → State)
    (hf : ∀ t, Kept qs t → Kept qs (f t)) : Kept qs (State.spdm s versionReq req f) := by
  unfold State.spdm
  repeat' first
    | (with_reducible first | exact h | assumption | apply hf | apply State.answer_kept | apply kept_ite)
    | split

theorem State.inSession_kept {qs : List Instr} {s : State} (h : Kept qs s) (id : Nat) (req : Bytes) (f : List Session → List Session) :
    Kept qs (State.inSession s id req f) := by
  unfold State.inSession
  repeat' first
    | (with_reducible first | exact h | assumption | apply State.respond_kept | apply State.answer_kept | apply kept_hostMem
                             | (apply kept_foldl; intro s a h) | apply kept_ite)
    | simp only [kept_mk_iff, kept_mk_rim_iff]
    | split

theorem State.openSession_kept {qs : List Instr} {s : State} (h : Kept qs s) (req : Bytes) :
    Kept qs (State.openSession s req) := by
  unfold State.openSession
  repeat' first
    | (with_reducible first | exact h | assumption | apply State.answer_kept | apply State.respond_kept | apply kept_hostMem
                             | (apply kept_foldl; intro s a h) | apply kept_ite)
    | simp only [kept_mk_iff, kept_mk_rim_iff]
    | split

theorem execGetVersion_kept {qs : List Instr} {s : State} (h : Kept qs s) (req : Bytes) {s1 : State} (ht : execGetVersion req s = .next s1) :
    Kept qs s1 := by
  unfold execGetVersion at ht
  first
    | (injection ht with ht; subst ht)
    | (split at ht <;> (injection ht with ht; subst ht))
  repeat' first
    | (with_reducible first | exact h | apply State.spdm_kept | apply State.respond_kept | intro s h)

theorem execGetCapabilities_kept {qs : List Instr} {s : State} (h : Kept qs s) (req : Bytes) {s1 : State} (ht : execGetCapabilities req s = .next s1) :
    Kept qs s1 := by
  unfold execGetCapabilities at ht
  first
    | (injection ht with ht; subst ht)
    | (split at ht <;> (injection ht with ht; subst ht))
  repeat' first
    | (with_reducible first | exact h | apply State.spdm_kept | apply State.respond_kept | intro s h)

theorem execNegotiateAlgorithms_kept {qs : List Instr} {s : State} (h : Kept qs s) (req : Bytes) {s1 : State} (ht : execNegotiateAlgorithms req s = .next s1) :
    Kept qs s1 := by
  unfold execNegotiateAlgorithms at ht
  first
    | (injection ht with ht; subst ht)
    | (split at ht <;> (injection ht with ht; subst ht))
  repeat' first
    | (with_reducible first | exact h | apply State.spdm_kept | apply State.respond_kept | intro s h)

theorem execGetDigests_kept {qs : List Instr} {s : State} (h : Kept qs s) (req : Bytes) {s1 : State} (ht : execGetDigests req s = .next s1) :
    Kept qs s1 := by
  unfold execGetDigests at ht
  first
    | (injection ht with ht; subst ht)
    | (split at ht <;> (injection ht with ht; subst ht))
  repeat' first
    | (with_reducible first | exact h | apply State.spdm_kept | apply State.respond_kept | intro s h)

theorem execGetCertificate_kept {qs : List Instr} {s : State} (h : Kept qs s) (req : Bytes) {s1 : State} (ht : execGetCertificate req s = .next s1) :
    Kept qs s1 := by
  unfold execGetCertificate at ht
  first
    | (injection ht with ht; subst ht)
    | (split at ht <;> (injection ht with ht; subst ht))
  repeat' first
    | (with_reducible first | exact h | apply State.spdm_kept | apply State.respond_kept | intro s h)

theorem execChallenge_kept {qs : List Instr} {s : State} (h : Kept qs s) (req : Bytes) {s1 : State} (ht : execChallenge req s = .next s1) :
    Kept qs s1 := by
  unfold execChallenge at ht
  first
    | (injection ht with ht; subst ht)
    | (split at ht <;> (injection ht with ht; subst ht))
  repeat' first
    | (with_reducible first | exact h | apply State.spdm_kept | apply State.respond_kept | intro s h)

theorem execGetMeasurements_kept {qs : List Instr} {s : State} (h : Kept qs s) (req : Bytes) {s1 : State} (ht : execGetMeasurements req s = .next s1) :
    Kept qs s1 := by
  unfold execGetMeasurements at ht
  first
    | (injection ht with ht; subst ht)
    | (split at ht <;> (injection ht with ht; subst ht))
  repeat' first
    | (with_reducible first | exact h | apply State.spdm_kept | apply State.respond_kept | intro s h)

theorem execKeyExchange_kept {qs : List Instr} {s : State} (h : Kept qs s) (req : Bytes) {s1 : State} (ht : execKeyExchange req s = .next s1) :
    Kept qs s1 := by
  unfold execKeyExchange at ht
  first
    | (injection ht with ht; subst ht)
    | (split at ht <;> (injection ht with ht; subst ht))
  repeat' first
    | (with_reducible first | exact h | apply State.spdm_kept | apply State.openSession_kept | intro s h)

theorem execFinish_kept {qs : List Instr} {s : State} (h : Kept qs s) (session : Nat) (req : Bytes) {s1 : State} (ht : execFinish session req s = .next s1) :
    Kept qs s1 := by
  unfold execFinish at ht
  first
    | (injection ht with ht; subst ht)
    | (split at ht <;> (injection ht with ht; subst ht))
  repeat' first
    | (with_reducible first | exact h | apply State.spdm_kept | apply State.inSession_kept | intro s h)

theorem execHeartbeat_kept {qs : List Instr} {s : State} (h : Kept qs s) (session : Nat) (req : Bytes) {s1 : State} (ht : execHeartbeat session req s = .next s1) :
    Kept qs s1 := by
  unfold execHeartbeat at ht
  first
    | (injection ht with ht; subst ht)
    | (split at ht <;> (injection ht with ht; subst ht))
  repeat' first
    | (with_reducible first | exact h | apply State.spdm_kept | apply State.inSession_kept | intro s h)

theorem execKeyUpdate_kept {qs : List Instr} {s : State} (h : Kept qs s) (session : Nat) (req : Bytes) {s1 : State} (ht : execKeyUpdate session req s = .next s1) :
    Kept qs s1 := by
  unfold execKeyUpdate at ht
  first
    | (injection ht with ht; subst ht)
    | (split at ht <;> (injection ht with ht; subst ht))
  repeat' first
    | (with_reducible first | exact h | apply State.spdm_kept | apply State.inSession_kept | intro s h)

theorem execEndSession_kept {qs : List Instr} {s : State} (h : Kept qs s) (session : Nat) (req : Bytes) {s1 : State} (ht : execEndSession session req s = .next s1) :
    Kept qs s1 := by
  unfold execEndSession at ht
  first
    | (injection ht with ht; subst ht)
    | (split at ht <;> (injection ht with ht; subst ht))
  repeat' first
    | (with_reducible first | exact h | apply State.spdm_kept | apply State.inSession_kept | intro s h)

theorem State.spdmMessage_kept {qs : List Instr} {s : State} (h : Kept qs s) (req : Bytes) :
    Kept qs (State.spdmMessage s req) := by
  unfold State.spdmMessage
  repeat' first
    | (with_reducible first | exact h | assumption | apply State.spdm_kept | apply State.respond_kept | apply State.openSession_kept
                             | apply State.inSession_kept | apply State.answer_kept | intro s h | apply kept_ite)
    | split

theorem execMctpMessage_kept {qs : List Instr} {s : State} (h : Kept qs s) (msgType : Nat) (body : Bytes) {s1 : State} (ht : execMctpMessage msgType body s = .next s1) :
    Kept qs s1 := by
  unfold execMctpMessage at ht
  first
    | (injection ht with ht; subst ht)
    | (split at ht <;> (injection ht with ht; subst ht))
  repeat' first
    | (with_reducible first | exact h | assumption | apply State.spdmMessage_kept | apply State.acceptCmd_kept | apply kept_ite)
    | split

theorem execMgtLogLoRead_kept {qs : List Instr} {s : State} (h : Kept qs s) (port : Nat) {s1 : State} (ht : execMgtLogLoRead port s = .next s1) :
    Kept qs s1 := by
  unfold execMgtLogLoRead at ht
  first
    | (injection ht with ht; subst ht)
    | (split at ht <;> (injection ht with ht; subst ht))
  repeat' first
    | (with_reducible first | exact h | apply State.capture_kept)

theorem execSecCtrLoRead_kept {qs : List Instr} {s : State} (h : Kept qs s) (port : Nat) {s1 : State} (ht : execSecCtrLoRead port s = .next s1) :
    Kept qs s1 := by
  unfold execSecCtrLoRead at ht
  first
    | (injection ht with ht; subst ht)
    | (split at ht <;> (injection ht with ht; subst ht))
  repeat' first
    | (with_reducible first | exact h | apply State.capture_kept)

theorem execSecDbgLoRead_kept {qs : List Instr} {s : State} (h : Kept qs s) (port : Nat) {s1 : State} (ht : execSecDbgLoRead port s = .next s1) :
    Kept qs s1 := by
  unfold execSecDbgLoRead at ht
  first
    | (injection ht with ht; subst ht)
    | (split at ht <;> (injection ht with ht; subst ht))
  repeat' first
    | (with_reducible first | exact h | apply State.capture_kept)

theorem execGlbSerialLoRead_kept {qs : List Instr} {s : State} (h : Kept qs s) (port : Nat) {s1 : State} (ht : execGlbSerialLoRead port s = .next s1) :
    Kept qs s1 := by
  unfold execGlbSerialLoRead at ht
  first
    | (injection ht with ht; subst ht)
    | (split at ht <;> (injection ht with ht; subst ht))
  repeat' first
    | (with_reducible first | exact h | apply State.capture_kept)

end Sys2Proof.Machine
end

