-- ==== Sys2Proof/Laws/Pools.lean ====
section
/-! SUPPORT. What a search for a free number finds, and what a register write and a captured read leave. -/

namespace Sys2Proof.Machine

/-- A free number is found when there is one, wherever the search starts. -/
theorem firstFree_finds {n start : Nat} {taken : Nat → Bool} (h : ∃ i, i < n ∧ taken i = false) :
    ∃ i, firstFree n start taken = some i ∧ i < n ∧ taken i = false := by
  obtain ⟨i, hi, ht⟩ := h
  have hn : 0 < n := by omega
  have hs : (firstFree n start taken).isSome := by
    unfold firstFree
    rw [List.find?_isSome]
    refine ⟨i, ?_, by simp [ht]⟩
    rw [List.mem_map]
    refine ⟨(i + (n - start % n)) % n, List.mem_range.mpr (Nat.mod_lt _ hn), ?_⟩
    have h1 : start % n < n := Nat.mod_lt _ hn
    rw [Nat.add_mod, Nat.mod_mod, ← Nat.add_mod]
    have h2 : start = n * (start / n) + start % n := (Nat.div_add_mod _ _).symm
    have h3 : start + (i + (n - start % n)) = i + n * (start / n + 1) := by rw [Nat.mul_add]; omega
    rw [h3, Nat.add_mul_mod_self_left, Nat.mod_eq_of_lt hi]
  obtain ⟨j, hj⟩ := Option.isSome_iff_exists.mp hs
  unfold firstFree at hj
  refine ⟨j, hj, ?_, by simpa using List.find?_some hj⟩
  obtain ⟨a, _, rfl⟩ := List.mem_map.1 (List.mem_of_find?_eq_some hj)
  exact Nat.mod_lt _ hn

/-- ALLOC with a free record and a free slot answers status 0. -/
theorem kAlloc_status {k : Keeper} {n grp : Nat} {tent : Bool} (ho : k.owner = true) (hg : grp < k.groups)
    (hr : ∃ i, i < 65536 ∧ ((tabFind k.recs i).isSome || k.zeroing.any fun z => decide (z.index = some i) && decide (z.grp = grp)) = false)
    (hs : ∃ sl, sl < k.slots ∧ k.slotTaken grp sl = false) : (kAlloc k n grp tent).2.status = 0 := by
  obtain ⟨i, hi, -⟩ := firstFree_finds (start := Config.pick n % 65536) hr
  obtain ⟨j, hj, -⟩ := firstFree_finds (start := Config.pick (n + 1) % max 1 k.slots) hs
  have h1 : Keeper.freeRec k grp (Config.pick n % 65536) = some i := hi
  have h2 : Keeper.freeSlot k grp (Config.pick (n + 1) % max 1 k.slots) = some j := hj
  simp [kAlloc, ho, Nat.not_le.2 hg, h1, h2, KAns.of]

/-- A keeper operation answers as its table entry does. -/
theorem State.kPerform_snd (s : State) (r : Nat) (op : KeeperOp) : (s.kPerform r op).2 = (kApply (s.keeper r) s.fresh op).2 := rfl

/-- A software write under the reserved-bit rule is what `Rewrites` says. -/
theorem State.writeRW_rewrites {s : State} (ok : Canonical s) (a : Nat) (m ro v : Word) (ha : a ≠ Reg.HIF_STAT) (c : Instr)
    (hc : exec c s = .next (s.writeRW a m ro v)) : Rewrites c s a m ro v := by
  refine ⟨_, hc, ?_⟩
  unfold State.writeRW
  dsimp only
  split
  · refine ⟨by rw [State.rd_wr_same ok], by rw [State.rd_wr_ne ok _ (Ne.symm ha)], rfl, ?_⟩
    intro b hb
    simp only [List.mem_cons, List.not_mem_nil, or_false, not_or] at hb
    rw [State.rd_wr_ne ok _ hb.1]
  · split
    · have o2 := ok.setFld Reg.HIF_STAT 7 7 1
      refine ⟨by rw [State.rd_wr_same o2], by rw [State.rd_wr_ne o2 _ (Ne.symm ha), State.rd_setFld ok, if_pos rfl], rfl, ?_⟩
      intro b hb
      simp only [List.mem_cons, List.not_mem_nil, or_false, not_or] at hb
      rw [State.rd_wr_ne o2 _ hb.1, State.rd_setFld ok, if_neg hb.2]
    · have o2 := ok.bump Reg.HIF_STAT 23 16
      refine ⟨by rw [State.rd_wr_same o2], by rw [State.rd_wr_ne o2 _ (Ne.symm ha), State.rd_bump ok, if_pos rfl], rfl, ?_⟩
      intro b hb
      simp only [List.mem_cons, List.not_mem_nil, or_false, not_or] at hb
      rw [State.rd_wr_ne o2 _ hb.1, State.rd_bump ok, if_neg hb.2]

/-- A capturing read is what `Captures` says. -/
theorem State.capture_captures {s : State} (ok : Canonical s) (port hi : Nat) (v : Word) (c : Instr) (hc : exec c s = .next (s.capture port hi v))
    (h4 : hi % 4 = 0) (hi' : isCaptured hi = true) : Captures c s port hi v := by
  refine ⟨_, hc, ?_, rfl, ?_⟩
  · unfold State.hostRead
    have : hi / 4 * 4 = hi := by omega
    simp only [this, hi', if_true]
    show tabGet 0 (tabSet 0 s.capt _ v) _ = v
    rw [tabGet_tabSet _ _ _ (tabWf_sorted ok.capt)]
    simp
  · intro b hb
    show tabGet 0 (tabSet 0 s.capt _ v) _ = _
    rw [tabGet_tabSet _ _ _ (tabWf_sorted ok.capt), if_neg hb]

end Sys2Proof.Machine
end

