-- ==== Sys2Proof/Tests/Slice0.lean ====
section
/-! SUPPORT. Terms that are not well-formed, the spec's worked examples, and for each statement a state and operands that meet its premises. -/

set_option maxRecDepth 20000

namespace Sys2Proof.Tests

open Sys2Proof Sys2Proof.Machine

/-! ### Canonical form and issue, as functions -/

def canonB (s : State) : Bool :=
  tabSorted s.regs && (s.regs.all fun e => decide (e.2 ≠ regReset e.1)) && tabWf (0 : Word) s.capt && tabWf Core.zero s.cores
    && tabWf Region.zero s.regions && tabWf Part.zero s.parts && memWf s.rim.mem && memWf s.hostMem

theorem canonical_of {s : State} (h : canonB s = true) : Canonical s := by
  simp only [canonB, Bool.and_eq_true, List.all_eq_true, decide_eq_true_eq] at h
  obtain ⟨⟨⟨⟨⟨⟨⟨h1, h2⟩, h3⟩, h4⟩, h5⟩, h6⟩, h7⟩, h8⟩ := h
  exact ⟨⟨h1, h2⟩, h3, h4, h5, h6, h7, h8⟩

/-- What `CanIssue` asks, but for the job. -/
def canIssueB (s : State) (key : Nat) (i : SlotIns) : Bool :=
  let x := s.coreAt key
  canonB s && decide (x.phase = .running) && decide (x.nextIssue ≤ x.now) && (x.flight.all fun f => decide (x.now < f.due)) && opDefined i
    && (heldWait x [i]).isNone && decide (i.slot = 4 → (s.injectQueue key).length < 32) && !x.occupied i && (checkIns s key i).isNone

theorem canIssue_of {s : State} {key p : Nat} {i : SlotIns} (h : canIssueB s key i = true) (hp : (s.coreAt key).part = some p)
    (hs : key ∈ (s.part p).started) : CanIssue s key i := by
  simp only [canIssueB, Bool.and_eq_true, List.all_eq_true, decide_eq_true_eq, Bool.not_eq_true', Option.isNone_iff_eq_none] at h
  obtain ⟨⟨⟨⟨⟨⟨⟨⟨h1, h2⟩, h3⟩, h4⟩, h5⟩, h6⟩, h7⟩, h8⟩, h9⟩ := h
  exact ⟨canonical_of h1, h2, h3, ⟨p, hp, hs⟩, h4, h5, h6, h7, h8, h9⟩

theorem issuable_of {s : State} {c : CoreId} {p : Nat} {i : SlotIns}
    (h : (canIssueB s (CoreId_key c) i && (s.core c).powered && !s.coreHeld (s.core c).part && !(s.part p).stall) = true)
    (hp : (s.core c).part = some p) (hs : CoreId_key c ∈ (s.part p).started) : Issuable s c i := by
  simp only [Bool.and_eq_true, Bool.not_eq_true'] at h
  obtain ⟨⟨⟨h1, h2⟩, h3⟩, h4⟩ := h
  exact ⟨canIssue_of h1 hp hs, h2, h3, fun q hq => by rw [hp] at hq; cases hq; exact h4⟩

/-! ### A job of one core -/

/-- A tile descriptor by its fields (Table 04-6). -/
def tile (spad base stride cols rows fmt lay bsz : Nat) : BitVec 128 :=
  BitVec.ofNat 128 (spad * 2 ^ 125 + base * 2 ^ 99 + stride * 2 ^ 73 + cols * 2 ^ 57 + rows * 2 ^ 45 + fmt * 2 ^ 41 + lay * 2 ^ 39 + bsz * 2 ^ 37)

/-- Core 0 of region 0, running logical core 0 of partition 0, its tiles ready: T1 accumulators, T2 weights, T3 activations, T4 weights for the transposed
product, T5 and T6 BF16 tiles, T7 blocks to quantize into, T8 and T9 binary32 and BF16 rows of 64. -/
def core0 : Core := { Core.zero with
  phase := .running, powered := true, logical := some 0, part := some 0, imLen := 4,
  a := [(5, 0x1000000000)],
  t := [(1, tile 3 0 64 63 63 0 0 0), (2, tile 2 0 64 31 63 7 0 0), (3, tile 1 0 64 31 63 7 0 0), (4, tile 2 0 64 63 63 7 0 0),
        (5, tile 1 0 128 63 63 12 0 0), (6, tile 1 16384 128 63 63 12 0 0), (7, tile 1 0 128 63 0 7 1 0), (8, tile 1 0 256 63 63 14 0 0),
        (9, tile 1 0 128 63 63 12 0 0)] }

def place0 : Placed := { r := 0, x := 0, y := 0, roles := [0], prog := 0, wres := 0, wpage := 0, cache := 0, adpt := 0, dotmax := 8, pw := 0, dgroup := 0 }

/-- Partition 0 runs on region 0 with one started core, its LDR_PART showing STATE 2. -/
def job : State := { State.reset with
  regs := [(Reg.LDR_PART 0, 0x40000000)], cores := [(0, core0)], regions := [(0, { Region.zero with pstate := 2, hubOn := true, part := some 0 })],
  parts := [(0, { Part.zero with key := 5, started := [0], placed := [place0], nBridles := 1, nTrees := 1 })],
  fab := { State.reset.fab with trees := [{ r := 0, key := 5, index := 0, inputs := [.core 0], out := .core 0, dest := 0 }] } }

def c0 : CoreId := ⟨0, 0⟩

/-- The slot's operand of an instruction whose operand field is d. -/
def ins (slot op d : Nat) : SlotIns := ⟨slot, op, BitVec.ofNat 46 d⟩

/-! ### Terms that are not well-formed -/

theorem test_coreRange : wellFormed (.halt ⟨896, 0⟩) = false ∧ wellFormed (.halt ⟨0, 17⟩) = false ∧ wellFormed (.halt ⟨895, 16⟩) = true := by decide

theorem test_sensorRange : wellFormed (.sensorSample (.welt 26) none) = false ∧ wellFormed (.sensorSample (.regulator 0 4) none) = false ∧
    wellFormed (.sensorSample (.converter 168) none) = false ∧ wellFormed (.sensorSample .flash (some 1024)) = false ∧
    wellFormed (.sensorSample .flash (some 1023)) = true := by decide

theorem test_regionRange : wellFormed (.scrubRow 896 .clean) = false ∧ wellFormed (.rowRepairSwitch 0 17 0) = false ∧ wellFormed (.rowRepairSwitch 0 0 65536) = false ∧
    wellFormed (.linkFailure 0 10) = false ∧ wellFormed (.sqRingConfig 0 0x740 0) = false ∧ wellFormed (.phaseFail 0 true 4) = false ∧
    wellFormed (.railVoltageSample 0 false 4096) = false := by decide

theorem test_partitionRange : wellFormed (.jobStart) = true ∧ wellFormed (.stopTimeout 64) = false ∧ wellFormed (.outCfgWrite 0 3 0) = false ∧
    wellFormed (.zeroizeDone 0 [15232]) = false ∧ wellFormed (.prefixCreate 0 0 16384 0 0) = false ∧ wellFormed (.adapterIngestDone 2048 0) = false := by decide

theorem test_unitRange : wellFormed (.wakeStageGrant 56) = false ∧ wellFormed (.converterFail 168) = false ∧ wellFormed (.feedPresentOpen 2) = false ∧
    wellFormed (.rimChannelFail 16 0) = false ∧ wellFormed (.rimChannelFail 0 32) = false ∧ wellFormed (.refReturn 2) = false ∧ wellFormed (.st8RimTraining []) = false ∧
    wellFormed (.sampledRowTimeout 8 0) = false ∧ wellFormed (.sampledRowTimeout 0 2) = false := by decide

theorem test_keeperRange : wellFormed (.pin 0 16777216) = false ∧ wellFormed (.alloc 0 16 false) = false ∧ wellFormed (.spoolCompletion ⟨0, 0⟩ 16 .clean) = false ∧
    wellFormed (.multicastStallTimeout 0 26) = false := by decide

theorem test_hostRange : wellFormed (.hostPortReset 2) = false ∧ wellFormed (.msixHoldoffExpire 0 256) = false ∧ wellFormed (.registerWrite 0 2 0xF 0) = false ∧
    wellFormed (.hostPortLinkUp 0 8 1) = false ∧ wellFormed (.hostPortLinkUp 0 1 3) = false ∧ wellFormed (.xferPi 2 0) = false := by decide

theorem test_entryLength : wellFormed (.admitSeq 0 []) = false ∧ wellFormed (.keeper 0 (zeros 63)) = false ∧ wellFormed (.keeper 0 (zeros 64)) = true ∧
    wellFormed (.batchRequest 0 []) = false ∧ wellFormed (.logCopy (some [])) = false ∧ wellFormed (.xferEntryFetch 0 (some []) none) = false := by decide

theorem test_lanes : wellFormed (.edgeTrainingSettled 0 ⟨2, 0x06⟩) = false ∧ wellFormed (.edgeTrainingSettled 0 ⟨2, 0x0C⟩) = true ∧
    wellFormed (.edgeTrainingSettled 0 ⟨0, 1⟩) = false ∧ wellFormed (.edgeTrainingSettled 32 ⟨8, 0xFF⟩) = false := by decide

/-! ### The worked examples of the spec -/

/-- Chapter 03: E4M3 code 0x7E is 14 × 2^(14 − 9) = 448; chapter 04: rne and to_fp8_rne. -/
theorem test_formats : intForm 10 0x7E = some (14, 14) ∧ ({ m := 5, e := -1 } : Dy).rne = 2 ∧ ({ m := -7, e := -1 } : Dy).rne = -4 ∧
    roundDy e4m3 { m := 500, e := 0 } = 0x7E := by decide

/-- Chapter 03: a BF16 block whose largest magnitude is 7.96875, into BSI-8: e = −3, 64 and 2. -/
theorem test_quantizer : quantExp 7 { m := 255, e := -5 } = -3 ∧ quantCode 7 (-3) { m := 255, e := -5 } = 64 ∧ quantCode 7 (-3) { m := 77, e := -8 } = 2 := by decide

/-- Chapter 01: from region (10, 13) the column distance to row 0 is 7, the row distance to column 16 is 3, and to row 26 it is 7. -/
theorem test_hops : ringHops 27 13 0 0 = 7 ∧ ringHops 32 10 16 0 = 3 ∧ ringHops 27 13 26 0 = 7 := by decide

/-- Chapter 06: the slot 0x1C_0F00_0008 is WAIT on C3 with consume and the threshold 8, as what it takes from a counter that reads 9. -/
theorem test_wait : (match exec (.wait c0 0xF000008) { job with cores := [(0, { core0 with ctrs := [(3, 9)] })] } with
    | .next t => ((t.coreAt 0).flight.map (·.eff)).contains (.ctrSub 3 8)
    | _ => false) = true := by decide

/-- FIPS 180-4 and the CRC's check value, of no message and of "123456789". -/
theorem test_digests : (sha512 []).take 4 = [0xCF, 0x83, 0xE1, 0x35] ∧ crc32 [0x31, 0x32, 0x33, 0x34, 0x35, 0x36, 0x37, 0x38, 0x39] = 0xCBF43926 := by decide +kernel

/-- The opcode table gives no row any bits. -/
theorem test_noWords (nbits w : Nat) : decodeTableWord nbits w = none := rfl

/-! ### Cores -/

/-- FrontCommandRuns, EveryCommandCompletes, ResetState, StepKeepsTheInvariant. -/
theorem witness_step : Canonical { job with pending := [.csr c0 0] } ∧ QueueOk { job with pending := [.csr c0 0] } ∧ ∃ t, step { job with pending := [.csr c0 0] } = .next t :=
  ⟨canonical_of (by decide), by intro c hc; simp at hc; rw [hc]; decide, _, rfl⟩

theorem witness_counterChanges :
    (∀ u, Eff.ctrSet 3 u ∉ [.ctrAdd 3 7 true, .ctrAdd 3 2 false, .ctrSub 3 9]) ∧
    [Eff.ctrAdd 3 7 true, .ctrAdd 3 2 false, .ctrSub 3 9].Perm [.ctrSub 3 9, .ctrAdd 3 7 true, .ctrAdd 3 2 false] ∧
    ((0 : Word) = 0 + 7 + 2 - 9 ∧ (9 : Word).toNat ≤ (0 : Word).toNat + (7 : Word).toNat + (2 : Word).toNat ∧
      (0 : Word).toNat + (7 : Word).toNat + (2 : Word).toNat - (9 : Word).toNat < 2 ^ 32 ∧ core0.rC 3 = 0) :=
  ⟨by simp, by decide, by decide⟩

theorem witness_due : { core0 with flight := [⟨0, 0, .regA 3 1⟩, ⟨0, 0, .satClear⟩] }.due = [.regA 3 1, .satClear] ∧
    { core0 with flight := [⟨0, 0, .regA 3 1⟩] }.due = [.regA 3 1] ∧ Eff.satSet ∈ { core0 with flight := [⟨0, 2, .satSet⟩] }.due := by decide

/-- The instructions of one slot that the job's core issues. -/
theorem job_issues {l : List SlotIns}
    (h : (l.all fun i => canIssueB job 0 i && core0.powered && !job.coreHeld (some 0) && !(job.part 0).stall) = true) : ∀ i ∈ l, Issuable job c0 i :=
  fun i hi => issuable_of (p := 0) (List.all_eq_true.1 h i hi) rfl (by decide)

/-- StatusReads, VecLaneResults, ReductionAndAttentionResults (operand 0, and the tiles the unit's instructions name). -/
theorem witness_csr : ∀ i ∈ [ins 0 5 0, ins 0 5 (31 * 2 ^ 25 + 2 ^ 24)], Issuable job c0 i := job_issues (by decide)

theorem witness_vec : ∀ i ∈ [ins 3 1 0, ins 3 2 0, ins 3 3 0, ins 3 4 0, ins 3 5 0, ins 3 6 0, ins 3 7 0, ins 3 8 0, ins 3 9 0, ins 3 1 (2 ^ 46 - 1)],
    Issuable job c0 i := job_issues (by decide)

theorem witness_nan : (f32 0x7FC00000).isNan = true ∧ (f32 0).isNan = false ∧ (f32 0x80000000).isNan = false ∧ (f32 0xBF800000).lt (f32 0x3F800000) = true := by
  decide

theorem witness_reductions : ∀ i ∈ [ins 3 12 0, ins 3 13 0, ins 3 16 0, ins 3 17 0, ins 3 18 0, ins 3 19 0, ins 3 11 0, ins 3 10 (2 ^ 37), ins 3 24 (7 * 2 ^ 37),
    ins 3 32 (2 ^ 42 + 5 * 2 ^ 38), ins 3 33 (8 * 2 ^ 42), ins 3 34 (2 ^ 42 + 5 * 2 ^ 38 + 8 * 2 ^ 29)], Issuable job c0 i := job_issues (by decide)

theorem witness_dot : ∀ i ∈ [ins 2 1 (2 ^ 42 + 2 * 2 ^ 38 + 3 * 2 ^ 34), ins 2 2 (2 ^ 42 + 4 * 2 ^ 38 + 3 * 2 ^ 34), ins 2 3 (2 ^ 42 + 5 * 2 ^ 38 + 6 * 2 ^ 34),
    ins 2 4 (5 * 2 ^ 42 + 6 * 2 ^ 38 + 9 * 2 ^ 34), ins 2 5 (2 ^ 42 + 5 * 2 ^ 38 + 6 * 2 ^ 34), ins 2 6 (2 ^ 42)], Issuable job c0 i := job_issues (by decide)

theorem witness_control : ∀ i ∈ [ins 0 1 0, ins 0 2 0, ins 0 3 0, ins 0 4 0, ins 0 6 0, ins 0 7 0, ins 0 8 0, ins 0 9 0, ins 0 9 (2 ^ 17), ins 0 9 (7 * 2 ^ 18 + 2 ^ 17 + 3),
    ins 0 10 0, ins 0 11 0, ins 0 13 0, ins 0 14 0], Issuable job c0 i := job_issues (by decide)

theorem witness_waitMet : (0 : Word).toNat ≤ (core0.rC 0).toNat ∧ core0.pc < 7 ∧ (∀ l ∈ core0.loops, l.last ≠ core0.pc) ∧ core0.loops.length < 4 := by decide

/-- HALT: the last started core, and one of two. -/
theorem witness_halt : core0.part = some 0 ∧ (∀ k ∈ (job.part 0).started, k ≠ CoreId_key c0 → (job.coreAt k).phase = .ended) ∧ job.pstate 0 = 2 ∧
    (job.part 0).stopEpoch = none := by decide

def job2 : State := { job with parts := [(0, { job.part 0 with started := [0, 1] })] }

theorem witness_haltOne : Issuable job2 c0 (ins 0 13 0) ∧ 1 ∈ (job2.part 0).started ∧ 1 ≠ CoreId_key c0 ∧ (job2.coreAt 1).phase ≠ .ended :=
  ⟨issuable_of (p := 0) (by decide) rfl (by decide), by decide⟩

theorem witness_move : ∀ i ∈ [ins 1 1 0, ins 1 1 (2 * 2 ^ 26), ins 1 2 0, ins 1 3 (9 * 2 ^ 29), ins 1 3 (8 * 2 ^ 29), ins 1 4 (9 * 2 ^ 29), ins 1 4 (8 * 2 ^ 29), ins 1 5 0,
    ins 1 6 0, ins 1 7 0, ins 1 7 (2 ^ 27 + 2 ^ 26), ins 1 8 0, ins 1 9 0, ins 1 10 0], Issuable job c0 i := job_issues (by decide)

theorem witness_formats : dFmt (core0.rT 9) ≠ 14 ∧ dFmt (core0.rT 8) = 14 := by decide

/-- A partition that holds one GiB of stack 0 for reading and writing: its spools may post. -/
def extent0 : Extent := { stack := 0, base := 0, len := 1, write := true, shared := false, identity := [], model := [], key := 5 }

def rimJob : State := { job with parts := [(0, { job.part 0 with extents := [(0, extent0)] })] }

theorem witness_spool : (∀ i ∈ [ins 1 9 0, ins 1 10 0], Issuable rimJob c0 i) ∧ rimJob.rimAllowed 0 0 1024 false = true ∧
    rimJob.rimAllowed 0 (2 ^ 30 - 1024) 1024 true = true :=
  ⟨fun i hi => issuable_of (p := 0) (by revert i; decide) rfl (by decide), by decide, by decide⟩

theorem witness_net : core0.part = some 0 ∧ c0.k < 17 ∧ ∀ i ∈ [ins 4 1 0, ins 4 2 0, ins 4 3 (2 ^ 34), ins 4 4 0], Issuable job c0 i :=
  ⟨rfl, by decide, job_issues (by decide)⟩

/-- The job with core 0 changed to x and partition 0 to p. -/
def jobWith (x : Core) (p : Part) : State := { job with cores := [(0, x)], parts := [(0, p)] }

/-- A bundle whose CTL slot alone is enabled, with the 40 bits n from the slot's operand field on. -/
def ctlBundle (n : Nat) : Mem := memWrite [] 0 (leBytes 32 (2 ^ 7 + n * 2 ^ 8))

/-- CSR to A1, alone; and WAIT for a count of 1 in C0, which holds. -/
def csrJob : State := jobWith { core0 with imSeen := ctlBundle (5 * 2 ^ 34 + 2 ^ 25) } (job.part 0)
def waitJob (hold limit : Nat) : State :=
  jobWith { core0 with imSeen := ctlBundle (7 * 2 ^ 34 + 2 ^ 24 + 1), hold := hold } { job.part 0 with waitLimit := limit }

theorem witness_bundle : Issuable csrJob c0 (ins 0 5 (2 ^ 25)) ∧ (csrJob.core c0).fetch = some ([ins 0 5 (2 ^ 25)], false) :=
  ⟨issuable_of (p := 0) (by decide) rfl (by decide), by decide⟩

/-- A wait with a cycle left, and one in the cycle that reaches its limit. -/
theorem witness_waits : ∀ q ∈ [(0, 2), (1, 2)], let s := waitJob q.1 q.2;
    Canonical s ∧ (s.core c0).phase = .running ∧ (s.core c0).powered = true ∧ s.coreHeld (some 0) = false ∧ (s.core c0).part = some 0 ∧
      (s.part 0).stall = false ∧ (s.core c0).nextIssue ≤ (s.core c0).now ∧ (∀ f ∈ (s.core c0).flight, (s.core c0).now < f.due) ∧
      (s.core c0).fetch = some ([ins 0 7 (2 ^ 24 + 1)], false) ∧ heldWait (s.core c0) [ins 0 7 (2 ^ 24 + 1)] = some (ins 0 7 (2 ^ 24 + 1)) ∧
      ((s.core c0).hold + 1 < (s.part 0).waitLimit ∨ (s.part 0).waitLimit ≤ (s.core c0).hold + 1) ∧ s.pstate 0 = 2 ∧ (s.part 0).stopEpoch = none := by
  intro q hq
  exact ⟨canonical_of (by revert q; decide), by revert q; decide⟩

/-- STL in stall mode, another core still to pass the cycle. -/
def stallJob : State := { job with
  cores := [(0, core0), (1, { core0 with logical := some 1 })], parts := [(0, { job.part 0 with started := [0, 1], stall := true })] }

theorem witness_stl : CanIssue stallJob (CoreId_key c0) (ins 0 12 (2 ^ 14)) ∧ (stallJob.core c0).powered = true ∧ stallJob.coreHeld (some 0) = false ∧
    (stallJob.part 0).stall = true ∧ CoreId_key c0 ∉ (stallJob.part 0).walked ∧ (stallJob.part 0).stalledFor (stallJob.region 0).dgroup = false ∧
    (∃ k ∈ stallJob.lockCores 0, k ≠ CoreId_key c0 ∧ k ∉ (stallJob.part 0).walked) :=
  ⟨canIssue_of (p := 0) (by decide) rfl (by decide), by decide⟩

theorem witness_trc : Issuable (jobWith core0 { job.part 0 with traceOn := true }) c0 (ins 0 14 0) :=
  issuable_of (p := 0) (by decide) rfl (by decide)

/-- A spool entry of each kind, its granule in a live channel and its source in WSB. -/
def req (write : Bool) : SpoolReq := ⟨3, write, 1, 0, 1024, 1, some 2, false, [], []⟩

def spoolJob (write : Bool) : State :=
  { jobWith { core0 with spools := [req write] } (job.part 0) with regs := [(Reg.LDR_PART 0, 0x40000000), (Reg.RIM_CHAN 0, 0xFFFFFFFF)] }

theorem witness_spoolEnds : ∀ w ∈ [false, true], Canonical (spoolJob w) ∧
    (spoolJob w).nextSpool (CoreId_key c0) (req w).sp = some (req w) ∧ ((spoolJob w).part 0).stall = false ∧
    ((spoolJob w).rimRead (req w).rim (1024 * (req w).kib)).2 = 0 ∧ ((spoolJob w).rimWrite (req w).rim ((spoolJob w).spoolSource 0 (req w))).2 = 0 := by
  intro w hw
  exact ⟨canonical_of (by revert w; decide), by revert w; decide⟩

/-! ### Fabric -/

/-- The last of a whole grid. -/
def grid : Last := { cols := List.replicate 32 ⟨0, 27, false⟩, noGrid := false }

def place (x y : Nat) (port : EpPort) (shared : Bool) : Endpoint :=
  { tag := 0, key := 5, shared := shared, x := x, y := y, port := port, rowDir := 0, colDir := 0, part := some 0 }

/-- The job on a whole grid, with endpoints 1 core 0 and 2 the sequencer of region 0, 3 core 0 two columns on, 4 the serving unit; one flit of kind k for d. -/
def flit (k : FlitKind) (d key : Nat) (l : FlitLoc) : Flit := ⟨k, 1, d, key, l, [], [], 0, 0, 0, true, 0, none, none, none, false, 0⟩

def net (f : Flit) : State := { job with
  last := grid,
  fab := { job.fab with
    flits := [f],
    endpoints := [(1, place 0 0 (.core 0) false), (2, place 0 0 .seq false), (3, place 2 0 (.core 0) false), (4, place 0 0 (.welt .serving) true)],
    bridles := [{ r := 0, key := 5, index := 0, branches := [.core 0] }] } }

/-- FlitTravel, at the hub: no entry, another partition's key, ejection, a stub, a ring. -/
theorem witness_hop : ∀ f ∈ [flit .send 7 5 (.inject 0 0), flit .send 1 6 (.hub 0 0), flit .send 1 5 (.hub 0 0), flit .signal 4 5 (.inject 0 0), flit .send 3 5 (.inject 0 0)],
    let s := net f;
    s.fab.flits[0]? = some f ∧ (flitHub f.loc).isSome = true ∧ unicast f.kind = true ∧ s.isHead 0 f.loc = true ∧ (s.region 0).hubStopped = false := by decide

theorem witness_hopWays : (net (flit .send 7 5 (.inject 0 0))).portCheck (flit .send 7 5 (.inject 0 0)) = some (1, 0) ∧
    (net (flit .send 1 6 (.hub 0 0))).portCheck (flit .send 1 6 (.hub 0 0)) = some (2, 5) ∧
    (let f := flit .send 1 5 (.hub 0 0); let s := net f;
      s.portCheck f = none ∧ s.lookup f.dest = some (place 0 0 (.core 0) false) ∧ s.outOf 0 f (place 0 0 (.core 0) false) = 10 ∧
        ∀ g ∈ s.fab.flits, g.loc = .eject 0 → g.dest ≠ f.dest) ∧
    (let f := flit .signal 4 5 (.inject 0 0); let s := net f;
      s.portCheck f = none ∧ s.outOf 0 f (place 0 0 (.welt .serving) true) = 8 ∧ 10 * 0 + 8 ∉ s.fab.failedLinks ∧ ∀ g ∈ s.fab.flits, g.loc ≠ .welt 0 8) ∧
    (let f := flit .send 3 5 (.inject 0 0); let s := net f;
      s.portCheck f = none ∧ s.outOf 0 f (place 2 0 (.core 0) false) = 0 ∧ s.outranked 0 0 f = false ∧ s.ringHub 0 0 = some 2 ∧
        10 * 0 + s.ringPort 0 0 ∉ s.fab.failedLinks ∧ (s.region 2).hubStopped = false ∧ s.inBuffer (.hub 2 (opp (s.ringPort 0 0))) + placesNeeded f.loc 0 ≤ 4) := by
  decide

/-- At the core: another key, a SND, a SIG and a sum. -/
theorem witness_delivery : ∀ f ∈ [flit .send 1 6 (.eject 0), flit .send 1 5 (.eject 0), flit .signal 1 5 (.eject 0), { flit .reduced 1 5 (.eject 0) with accs := [Acc.zero] }],
    let s := net f;
    s.fab.flits[0]? = some f ∧ f.loc = .eject 0 ∧ s.lookup f.dest = some (place 0 0 (.core 0) false) ∧ s.dead 0 = false ∧ f.landing = none ∧
      (∀ a ∈ f.accs, a.sat = false) ∧ s.sliceKey 0 0 = some 0 := by decide

/-- LinkEventsAndTelemetry: a link in use with its replay failed eight times, at a ring port and at a stub; and one that has failed. -/
def linkAt (n : Nat) : State := { net (flit .send 1 5 (.eject 0)) with
  regs := [(Reg.LDR_PART 0, 0x40000000), (Reg.RGNW_HUB_LINK 0, BitVec.ofNat 32 (n + n * 2 ^ 16))],
  fab := { (net (flit .send 1 5 (.eject 0))).fab with replays := [(0, 8), (8, 8)] } }

theorem witness_link : Canonical (linkAt 1) ∧ (linkAt 1).linkState 0 0 = 1 ∧ (linkAt 1).linkState 0 8 = 1 ∧ 8 ≤ tabGet 0 (linkAt 1).fab.replays 0 ∧
    8 ≤ tabGet 0 (linkAt 1).fab.replays 8 ∧ (linkAt 1).linkPeer 0 8 = none ∧ (linkAt 1).linkPeer 0 0 = some (2, 1) ∧ (linkAt 2).linkState 0 0 = 2 ∧
    (linkAt 2).linkPeer 0 0 = some (2, 1) ∧ (linkAt 2).dead 0 = false ∧ (linkAt 2).dead 2 = false ∧ ((linkAt 2).region 0).cause = 0 ∧ 0 < (linkAt 1).last.lcols :=
  ⟨canonical_of (by decide), by decide⟩

/-- MulticastBranches: no entry, an entry of one branch, and a branch held for the limit. -/
def held : Flit := { flit .multicast 0 5 (.hub 0 0) with left := some [.core 0], headSince := some 0 }

def heldNet : State := { net held with time := 10000000 }

theorem witness_multicast :
    (let f := { flit .multicast 0 5 (.hub 0 0) with index := 9 }; let s := net f;
      isMulticast f.kind = true ∧ s.isHead 0 f.loc = true ∧ (s.region 0).hubStopped = false ∧ f.left = none ∧ s.bridle 0 f.key f.index = none) ∧
    (let f := flit .multicast 0 5 (.hub 0 0); let s := net f;
      s.isHead 0 f.loc = true ∧ (s.region 0).hubStopped = false ∧ s.bridle 0 f.key f.index = some [.core 0] ∧ s.last.logical 0 = some (0, 0) ∧
        ∀ g ∈ s.fab.flits, g.loc = .eject 0 → g.dest ≠ s.idOf 0 0 (.core 0)) ∧
    (held.left = some [.core 0] ∧ held.headSince = some 0 ∧ held.stalled = false ∧ branchOf 10 ∈ [Branch.core 0] ∧ heldNet.keyOwner 5 = some 0 ∧
      2 ^ (heldNet.fld Reg.FAB_CFG 27 24 + 10) ≤ heldNet.cyclesSince 0) := by decide

/-- ReductionRounds: a contribution that opens a round, one that joins it, a complete round to a core and one to a ring, one open for the limit. -/
def contribution (k : Nat) : Flit := { flit .contribution 0 5 (.inject 0 k) with accs := List.replicate 16 ⟨3, false⟩ }

def round (got : List Branch) : Round :=
  { r := 0, key := 5, index := 0, d := 0, got := got, parts := [List.replicate 16 ⟨3, false⟩], cn := 0, ce := false, opened := 0, landing := none, src := 1, faulted := false }

def tree (inputs : List Branch) (out : Branch) : TreeEntry := { r := 0, key := 5, index := 0, inputs := inputs, out := out, dest := 1 }

def roundNet (f : Flit) (rounds : List Round) (t : TreeEntry) : State :=
  { net f with fab := { (net f).fab with rounds := rounds, trees := [t] }, time := 10000000 }

theorem witness_reduce :
    (let f := contribution 0; let s := roundNet f [] (tree [.core 0] (.core 0));
      s.fab.flits[0]? = some f ∧ flitHub f.loc = some (0, 10) ∧ f.kind = .contribution ∧ s.isHead 0 f.loc = true ∧ (s.region 0).hubStopped = false ∧
        s.tree 0 5 0 = some (tree [.core 0] (.core 0)) ∧ s.openRounds 0 < 32) ∧
    (let f := contribution 0; let s := roundNet f [round [.dir 0]] (tree [.core 0, .dir 0] (.core 0));
      s.fab.rounds = [] ++ round [.dir 0] :: [] ∧ s.inputOf f.loc ∉ (round [.dir 0]).got ∧ f.landing = none) ∧
    (let s := roundNet (flit .send 1 5 (.hub 0 0)) [round [.core 0]] (tree [.core 0] (.core 0));
      s.fab.rounds[0]? = some (round [.core 0]) ∧ (∀ b ∈ [Branch.core 0], b ∈ (round [.core 0]).got) ∧ ∀ g ∈ s.fab.flits, g.loc = .eject 0 → g.dest ≠ 1) ∧
    ((roundNet (flit .send 1 5 (.hub 0 0)) [] (tree [.core 0] (.dir 0))).sendRing (flit .contribution 1 5 (.eject 0)) 0 0 2).isSome = true ∧
    (let s := roundNet (flit .send 1 5 (.hub 0 0)) [round []] (tree [.core 0] (.core 0));
      (round []).faulted = false ∧ 2 ^ (s.fld Reg.FAB_CFG 23 20 + 10) ≤ s.cyclesSince 0 ∧ missingInputs (tree [.core 0] (.core 0)) (round []) ≠ 0 ∧ s.keyOwner 5 = some 0) ∧
    (∀ p ∈ [List.replicate 16 (⟨accTop, false⟩ : Acc), List.replicate 16 ⟨1, false⟩], let a := (p[15]?).getD Acc.zero; a.sat = false ∧ accBot ≤ a.val ∧ a.val ≤ accTop) := by
  decide

/-! ### Sequencer, mover, lockstep -/

/-- Region 0's sequencer awake, x1 = 0x100, with the word w at its pc. -/
def seqAt (w : Nat) : State := { job with regions := [(0, { job.region 0 with
  seq := { Sequencer.zero with state := 2, x := [(1, 0x100)], sram := memWrite [] 0 (leBytes 4 w) } })] }

/-- LUI, AUIPC, JAL, JALR, BEQ, ADDI, ADD, MUL, LW aligned and not, EBREAK. -/
theorem witness_sequencer : ∀ w ∈ [0x000010B7, 0x00001097, 0x000000EF, 0x000080E7, 0x00000063, 0x00108093, 0x001080B3, 0x021080B3, 0x0000A083, 0x0010A083, 0x00100073],
    (let s := seqAt w;
      (s.region 0).pstate ≠ 0 ∧ (s.region 0).seq.awake = true ∧ (s.region 0).seq.pc.toNat + 4 ≤ 0x40000 ∧ leNat (memRead (s.region 0).seq.sram 0 4) = w ∧
        field (BitVec.ofNat 16 (leNat (memRead (s.region 0).seq.sram 0 2))) 1 0 = 3) := by decide

theorem witness_sequencerForms : Canonical (seqAt 0x00108093) ∧ branchTaken 0 0 0 = some true ∧ immFn 0 1 0x100 = some 0x101 ∧ aluFn 0 0 0x100 0x100 = some 0x200 ∧
    accessSize 2 = some 4 ∧ (0x100 : Nat) % 4 = 0 ∧ (0x101 : Nat) % 4 ≠ 0 ∧ (0x00100073 : Word) ≠ 0x10500073 :=
  ⟨canonical_of (by decide), by decide⟩

/-- SequencerMessages: arrivals of another key, of a SND and of a SIG; a ring with a credit; an emission for one core. -/
theorem witness_arrivals : ∀ f ∈ [flit .send 2 6 (.eject 0), flit .send 2 5 (.eject 0), flit .signal 2 5 (.eject 0)],
    (net f).seqFlit 0 = some (0, f, place 0 0 .seq false) ∧ (net f).dead 0 = false := by decide

def emission : Emission := { data := [1], mask := 1, cn := 2, base := 0x1000, log2 := 4, slot := 15, due := none, ring := 0, fromList := false }

def emitter (sc : Tab Word) : State := { job with
  regions := [(0, { job.region 0 with seq := { Sequencer.zero with sc := sc }, emissions := [emission] })] }

theorem witness_emissions : Canonical (emitter []) ∧ Canonical (emitter [(12, 1)]) ∧ ((emitter [(12, 1)]).region 0).pstate ≠ 0 ∧
    (emitter [(12, 1)]).owner 0 = some 0 ∧ ((emitter [(12, 1)]).part 0).stall = false ∧ tabGet 0 ((emitter [(12, 1)]).region 0).seq.sc (12 + field (0 : Word) 31 30) ≠ 0 ∧
    tabGet 0 ((emitter []).region 0).seq.sc (12 + field (0 : Word) 31 30) = 0 ∧ (emitter [(12, 1)]).maskCores 0 emission.mask = [0] ∧ emission.data ≠ [] :=
  ⟨canonical_of (by decide), canonical_of (by decide), by decide⟩

/-- MoverAndLockstep: a queue of 16 and one of 15, a wrong descriptor and a right one, and a completion. -/
def desc (dst : Nat) : Bytes := leBytes 8 0 ++ leBytes 8 dst ++ leBytes 2 0 ++ [0, 0] ++ leBytes 2 1 ++ zeros 10

def move (d : Bool) : Move := { src := 0, dst := 1024, kib := 1, srcRim := false, dstRim := false, scn := 0, cn := 0, mask := 1, due := none, done := d, assist := none }

def moverAt (n dst : Nat) : State := { job with
  regs := [(Reg.LDR_PART 0, 0x40000000), (Reg.RGNW_POOL 0, 0x4000)],
  regions := [(0, { job.region 0 with moves := List.replicate n (move false), seq := { Sequencer.zero with sram := memWrite [] 0 (desc dst) } })] }

theorem witness_mover : (∀ q ∈ [(16, 1024), (15, 1025), (0, 1024)], Canonical (moverAt q.1 q.2) ∧ ((moverAt q.1 q.2).region 0).pstate ≠ 0 ∧ (moverAt q.1 q.2).owner 0 = some 0) ∧
    16 ≤ ((moverAt 16 1024).region 0).moves.length ∧ (moverAt 15 1025).moverBad 0 (desc 1025) = true ∧
    (moverAt 0 1024).moverBad 0 (desc 1024) = false ∧ (moverAt 0 1024).moverRim 0 (moverDesc (desc 1024) none) = none ∧ ((moverAt 0 1024).part 0).stall = false ∧
    ((moverAt 2 1024).region 0).moves = move false :: [move false] ∧ (move false).done = false ∧ (move false).due = none ∧ ∀ m ∈ [move false], m.done = false :=
  ⟨fun q hq => ⟨canonical_of (by revert q; decide), by revert q; decide⟩, by decide⟩

/-- Lockstep: an emission due in 64 epochs and not ready, one ready at its epoch, a detour asked for 64 epochs ago, and a stop due now. -/
def lockPart (ready : Bool) (due : Nat) : Part := { job.part 0 with
  stall := true, epoch := 64, due := [{ kind := .emission 0 emission, due := due, ready := ready, late := false }], detours := [(0, 1, 4)], stopEpoch := some 64 }

theorem witness_lockstep : (∀ q ∈ [(false, 128), (true, 64)], Canonical (jobWith core0 (lockPart q.1 q.2)) ∧ (jobWith core0 (lockPart q.1 q.2)).pstate 0 = 2) ∧
    (let x := lockPart false 128; x.due[0]? = some ⟨.emission 0 emission, 128, false, false⟩ ∧ 128 ≤ x.epoch + 64) ∧
    (let x := lockPart true 64; x.due[0]? = some ⟨.emission 0 emission, 64, true, false⟩ ∧ 64 ≤ x.epoch ∧ x.detours = (0, 1, 4) :: [] ∧ x.detourNow = none ∧ 0 + 64 ≤ x.epoch ∧
      x.announced = false ∧ x.stopEpoch = some 64) :=
  ⟨fun q hq => ⟨canonical_of (by revert q; decide), by revert q; decide⟩, by decide⟩

/-! ### Page keeper -/

def page (state ref pin : Nat) : PageRec := { grp := 0, state := state, ref := ref, pin := pin, handles := 0, slot := 0, rslot := 0 }

def keeper0 : Keeper := { Keeper.zero with owner := true, slots := 8, rslots := 2, recs := [(0, page 1 1 0)] }

def keeping (k : Keeper) : State := { job with
  regs := [(Reg.LDR_PART 0, 0x40000000), (Reg.RGNW_CACHE_CFG 0, 0x1)], regions := [(0, { job.region 0 with keeper := k })] }

/-- KeeperOperations: a free record, a free slot and a free rim slot; none of each; a page in each state; no page. -/
theorem witness_keeper : ((keeping keeper0).region 0).pstate ≠ 0 ∧ ((keeping keeper0).keeper 0).queue = [] ∧ keeper0.owner = true ∧ 15 < keeper0.groups ∧
    (tabFind keeper0.recs 65535 = none ∧ ∀ z ∈ keeper0.zeroing, ¬(z.index = some 65535 ∧ z.grp = 0)) ∧ (7 < keeper0.slots ∧ keeper0.slotTaken 0 7 = false) ∧
    (0 < keeper0.rslots ∧ keeper0.rimTaken 0 = false) ∧ Keeper.zero.owner = false ∧ { keeper0 with csplit := 16 }.groups ≤ 1 ∧ keeper0.find 5 = none ∧
    (∀ st ∈ [1, 2, 3, 4, 5, 6], ∀ n ∈ [0, 1], { keeper0 with recs := [(0, page st n n)] }.find 0 = some (page st n n)) := by decide

theorem witness_keeperFull : (¬∃ sl, sl < { keeper0 with slots := 1 }.slots ∧ { keeper0 with slots := 1 }.slotTaken 0 sl = false) ∧
    (¬∃ sl, sl < { keeper0 with rslots := 0 }.rslots ∧ { keeper0 with rslots := 0 }.rimTaken sl = false) :=
  ⟨by rintro ⟨sl, h, h'⟩; have : sl = 0 := by simp only at h; omega
      subst this; revert h'; decide, by rintro ⟨sl, h, -⟩; simp only at h; omega⟩

/-- Every record in use. -/
theorem tabFind_all {x : PageRec} {n i : Nat} (hi : i < n) : tabFind ((List.range n).map fun i => (i, x)) i ≠ none := by
  have hm : (i, x) ∈ (List.range n).map fun i => (i, x) := List.mem_map.2 ⟨i, List.mem_range.2 hi, rfl⟩
  revert hm
  generalize (List.range n).map (fun i => (i, x)) = l
  intro hm h
  induction l with
  | nil => cases hm
  | cons e t ih =>
    rcases List.mem_cons.1 hm with rfl | hm
    · simp [tabFind] at h
    · refine ih hm ?_
      simp only [tabFind] at h
      split at h
      · cases h
      · exact h

def full (n : Nat) : Keeper := { keeper0 with recs := (List.range n).map fun i => (i, page 1 1 0) }

theorem full_is (n : Nat) : (full n).owner = true ∧ (full n).csplit = 1 ∧ ¬∃ i, i < n ∧ tabFind (full n).recs i = none ∧ ∀ z ∈ (full n).zeroing, ¬(z.index = some i ∧ z.grp = 0) :=
  ⟨rfl, rfl, fun ⟨_, hi, h, _⟩ => tabFind_all hi h⟩

theorem witness_noRecord : (full 65536).owner = true ∧ (full 65536).csplit = 1 ∧
    ¬∃ i, i < 65536 ∧ tabFind (full 65536).recs i = none ∧ ∀ z ∈ (full 65536).zeroing, ¬(z.index = some i ∧ z.grp = 0) := full_is 65536

/-- KeeperCompletions: a copy, an eviction, places to be zeroed, a queue of 64 and of 63, the list engine. -/
def copying : Keeper := { keeper0 with
  recs := [(0, page 1 1 1), (1, page 3 0 0), (2, page 4 1 0)], moves := [⟨6, 0, 1, .serving, false⟩, ⟨8, 2, 0, .serving, false⟩],
  zeroing := [⟨false, 0, 3, none⟩, ⟨true, 0, 0, none⟩] }

theorem witness_keeperEnds :
    (let k := ((keeping copying).kDrain 0).keeper 0;
      k.moves.find? (fun m => decide (m.kind = 6) && decide (m.other = 1 % 65536)) = some ⟨6, 0, 1, .serving, false⟩ ∧ tabFind k.recs 0 = some (page 1 1 1) ∧
        tabFind k.recs 1 = some (page 3 0 0) ∧ k.moves.find? (fun m => decide (m.kind ≠ 6) && decide (m.page = 2 % 65536)) = some ⟨8, 2, 0, .serving, false⟩ ∧
        tabFind k.recs 2 = some (page 4 1 0) ∧ k.heldPins = []) ∧
    copying.zeroing[0]? = some ⟨false, 0, 3, none⟩ ∧ copying.zeroing[1]? = some ⟨true, 0, 0, none⟩ ∧
    (let q := List.replicate 64 (⟨10, false, 0, 0, .serving⟩ : KeeperOp); 64 ≤ q.length ∧ q.tail.length < 64) := by decide

def walking (credit : Word) (k : Nat) : State := { job with
  regions := [(0, { job.region 0 with le := { busy := true, ring := 0, bonded := false, addr := 0, k := k, assist := none },
                                      seq := { Sequencer.zero with sc := if credit = 0 then [] else [(12, credit)], sram := memWrite [] 0 (zeros 12 ++ [1]) } })] }

theorem witness_list : (walking 1 1).listField 0 false 12 2 ≤ 1 ∧ ((walking 1 1).region 0).le.busy = true ∧
    ((walking 1 1).presentEmission 0 0 ((walking 1 1).pageDesc 0 false 0 1) true).2 = true ∧
    ((walking 0 0).presentEmission 0 0 ((walking 0 0).pageDesc 0 false 0 0) true).2 = false ∧ (job.region 0).le.busy = false := by decide

/-! ### Serving -/

def serving0 : ServingRec :=
  { vocab := 4, nshard := 1, maxrows := 4, pchunk := 16, ctxmax := 64, fbk := 0, fbkAddr := 0, fbkCn := 0, commitRidx := 0, commitBase := 0, commitLog2 := 0,
    commitCn := 0, trees := [], rules := [] }

def geometry0 : Geometry :=
  { model := 0, creg := 1, csplit := 1, efmt := 12, elayout := 0, train := false, qrows := 1, escale := 127, elem := 64, trows := 8, rslots := 2, layers := [[(0, 0)]] }

/-- An ADMIT's 128 bytes: flags, account, prompt length and most tokens; TOPP and REPP are 1. -/
def admit0 (flags plen maxnew : Nat) : Bytes :=
  [1, BitVec.ofNat 8 flags] ++ zeros 10 ++ leBytes 4 plen ++ zeros 28 ++ leBytes 4 0x3F800000 ++ zeros 4 ++ leBytes 4 0x3F800000 ++ zeros 12 ++ leBytes 4 maxnew ++ zeros 56

/-- The job serves: entry e is taken, account 0 has the partition's key and 9 credits, region 0's keeper is k. -/
def srv (e : Bytes) (k : Keeper) (f : Part → Part) (seqs : Tab Seq) : State := { keeping k with
  parts := [(0, f { job.part 0 with serving := some serving0, geoms := [geometry0] })],
  srv := { State.reset.srv with seqs := seqs, accts := [(0, { en := true, key := 5, rate := 0, cap := 0, led := { Ledger.zero with bal := 9, mint := 9 }, rowsMs := [] })] },
  hif := { State.reset.hif with rings := [(0, { Rings.zero with taken := [(false, e)] })] } }

/-- The state in which the entry has been taken. -/
def taken (s : State) (e : Bytes) : State := (s.takeRing 0 false e).getD s

theorem takes (s : State) (e : Bytes) (h : (s.takeRing 0 false e).isSome = true) : s.takeRing 0 false e = some (taken s e) := by
  obtain ⟨u, hu⟩ := Option.isSome_iff_exists.1 h
  rw [taken, hu, Option.getD_some]

theorem freeSeq_first {s : State} (h : s.seq 0 = none) : s.freeSeq = some 0 := by
  rw [State.freeSeq, show List.range 16384 = 0 :: List.range' 1 16383 from by rw [List.range_eq_range']; rfl, List.find?_cons_of_pos (by simp [h])]

def seq0 : Seq := newSeq 0 (admit0 0 3 2) true

/-- AdmissionResults: no serving record, SEQMAX, the account's key, its credits, no adapter, bad parameters, no page, the context, no room, and an ADMIT that passes
all its checks. -/
theorem witness_admit :
    (let e := admit0 0 3 2; let u := taken (srv e keeper0 (fun x => { x with serving := none }) []) e; byteAt e 0 = 1 ∧ u.servingRec 0 = none) ∧
    (let e := admit0 0 3 2; let u := taken (srv e keeper0 (fun x => { x with seqmax := 1 }) [(0, seq0)]) e
     u.servingRec 0 = some serving0 ∧ (u.part 0).seqmax ≠ 0 ∧ (u.part 0).seqmax ≤ (u.seqsOf 0).length) ∧
    (let e := admit0 0 3 2; let u := taken (srv e keeper0 id []) e
     (srv e keeper0 id []).takeRing 0 false e = some u ∧ u.servingRec 0 = some serving0 ∧ (u.part 0).seqmax = 0 ∧ (u.acct 0).en = true ∧ (u.acct 0).key = (u.part 0).key ∧
       3 ≤ (u.acct 0).led.bal ∧ byteAt e 1 < 128 ∧ u.admitBad 0 serving0 e = false ∧ u.outRoom 0 ≠ 0 ∧ (u.hostMode 0 0) = false ∧ 3 + 2 ≤ serving0.ctxmax) ∧
    (let e := admit0 0 10 2; let u := taken (srv e keeper0 id []) e; (u.acct 0).led.bal < 10) ∧
    (let e := admit0 0 3 2; let u := taken (srv e keeper0 (fun x => { x with key := 6 }) []) e; (u.acct 0).key ≠ (u.part 0).key) ∧
    (let e := admit0 64 3 2; let u := taken (srv e keeper0 id []) e; decide (byteAt e 1 / 64 % 2 = 1) = true ∧ u.activeSlot 0 (leAt e 4 2) = none) ∧
    (let e := admit0 0 3 0; let u := taken (srv e keeper0 id []) e; u.admitBad 0 serving0 e = true) ∧
    (let e := admit0 0 3 62; serving0.ctxmax < 3 + 62 ∧ leAt e 12 4 = 3) := by decide

def empty0 : Keeper := { keeper0 with recs := [] }

/-- The page of an ADMIT without a prefix. -/
theorem witness_admitPage :
    (let u := taken (srv (admit0 0 3 2) empty0 id []) (admit0 0 3 2); let w := u.ledger 0 (Ledger.reserve 3)
      u.freeSeq = some 0 ∧ w.bestHome 0 0 = some (0, 0) ∧ w.ownerOf 0 0 0 = some 0 ∧ (w.kServe 0 1 0 0 false).2.status = 0) ∧
    (let u := taken (srv (admit0 0 3 2) { empty0 with owner := false } id []) (admit0 0 3 2); let w := u.ledger 0 (Ledger.reserve 3)
      u.freeSeq = some 0 ∧ w.bestHome 0 0 = some (0, 0) ∧ w.ownerOf 0 0 0 = some 0 ∧ (w.kServe 0 1 0 0 false).2.status ≠ 0) := by
  refine ⟨⟨freeSeq_first rfl, by decide, by decide, ?_⟩, freeSeq_first rfl, by decide, by decide, ?_⟩
  · rw [State.kServe, State.kPerform_snd, show State.keeper _ 0 = empty0 from by decide]
    have h : 0 < empty0.slots ∧ empty0.slotTaken 0 0 = false := by decide
    have h' : ((tabFind empty0.recs 0).isSome || empty0.zeroing.any fun z => decide (z.index = some 0) && decide (z.grp = 0)) = false := by decide
    rw [kApply, if_pos rfl]
    exact kAlloc_status (by decide) (by decide) ⟨0, by norm_num, h'⟩ ⟨0, h⟩
  · rw [State.kServe, State.kPerform_snd, show State.keeper _ 0 = { empty0 with owner := false } from by decide]
    simp [kApply, kAlloc, KAns.of]

/-- A prefix of a handle of partition 0, for the model and for another. -/
def prefix0 (model : Nat) : Prefix := { handle := 0, part := 0, model := model, rsel := 0, grp := 0, lh := 8, list := [], listAddr := 0, token := 1 }

def handles (model : Nat) (plen : Nat) : State := { taken (srv (admit0 128 plen 2) keeper0 id []) (admit0 128 plen 2) with kvc := [(0, prefix0 model)] }

theorem witness_admitPrefix :
    ((handles 1 3).findHandle 0 0 = (some (0, prefix0 1), 1) ∧ (prefix0 1).model ≠ 0) ∧
    ((handles 0 0).findHandle 0 0 = (some (0, prefix0 0), 1) ∧ (prefix0 0).model = 0 ∧ 128 ≤ byteAt (admit0 128 0 2) 1 ∧
      (handles 0 0).admitBad 0 serving0 (admit0 128 0 2) = false ∧ (handles 0 0).ownerOf 0 0 0 = some 0 ∧ (prefix0 0).list = [] ∧
      (prefix0 0).lh + 0 + 2 ≤ serving0.ctxmax ∧ (handles 0 0).outRoom 0 ≠ 0) := by decide

/-- A prompt of three tokens that arrives, and one whose fetch failed in a partition whose walks the host does. -/
theorem witness_prompt : (srv [] keeper0 id [(0, seq0)]).seq 0 = some seq0 ∧ seq0.state = 0 ∧ [1, 2, 3].length = seq0.plen ∧
    ({ srv [] keeper0 id [(0, seq0)] with regs := [(Reg.GLB_PMODE 0, 0x00040000)] } : State).hostMode seq0.part 2 = true := by decide

/-! ### Sequences, adapters, passes -/

/-- A command entry: its OP, flags, ID, ADID (or FLAGS), length LH, token and handle. -/
def cmd0 (op flags id adid lh tok h : Nat) : Bytes :=
  [BitVec.ofNat 8 op, BitVec.ofNat 8 flags] ++ leBytes 2 id ++ leBytes 2 adid ++ zeros 2 ++ leBytes 4 9 ++ leBytes 4 lh ++ leBytes 4 tok ++ zeros 4 ++ leBytes 8 h ++ zeros 32

/-- A sequence that decodes at length 3, with and without a mask, in no pass and in pass 1. -/
def live (st : Nat) (mask : Bool) : Seq := { seq0 with
  state := st, len := 3, tlen := 3, prm := { seq0.prm with mask := mask }, list := [⟨0, false⟩], pass := if st = 3 then some 1 else none, pending := 2 }

def pass1 : Pass := { number := 1, model := 0, rows := [⟨0, 2, 0, 3, 2⟩], unit := some (0, 0), results := [], fallbacks := 0, failed := false, awaiting := [0] }

/-- The state in which entry e has been taken: sequence 0 is x, and the IN_FORCE bits of GLB_PMODE are m. -/
def seqs (e : Bytes) (x : Seq) (m : Nat) (f : Part → Part) : State := taken { srv e keeper0 f [(0, x)] with
  regs := [(Reg.GLB_PMODE 0, BitVec.ofNat 32 (m * 65536)), (Reg.LDR_PART 0, 0x40000000)] } e

theorem witness_noServing : (srv (cmd0 2 0 0 0 0 0 0) keeper0 (fun x => { x with serving := none }) []).takeRing 0 false (cmd0 2 0 0 0 0 0 0) =
      some (taken (srv (cmd0 2 0 0 0 0 0 0) keeper0 (fun x => { x with serving := none }) []) (cmd0 2 0 0 0 0 0 0)) ∧
    (∀ op ∈ [2, 3, 4, 5, 6, 7, 8], byteAt (cmd0 op 0 0 0 0 0 0) 0 = op ∧
      (taken (srv (cmd0 op 0 0 0 0 0 0) keeper0 (fun x => { x with serving := none }) []) (cmd0 op 0 0 0 0 0 0)).servingRec 0 = none) :=
  ⟨takes _ _ (by decide), by decide⟩

theorem witness_sequences :
    (let u := seqs (cmd0 2 0 5 0 0 0 0) (live 2 false) 0 id; u.servingRec 0 = some serving0 ∧ u.liveSeq 0 5 = none) ∧
    (let u := seqs (cmd0 2 0 0 0 0 0 0) (live 2 false) 0 id; u.liveSeq 0 0 = some (live 2 false)) ∧
    (let u := seqs (cmd0 2 0 0 0 0 0 0) (live 3 false) 0 id; u.liveSeq 0 0 = some (live 3 false)) ∧
    (let u := seqs (cmd0 3 0 0 0 4 0 0) (live 2 false) 0 id; u.liveSeq 0 0 = some (live 2 false) ∧ u.nextPos 0 (live 2 false) = some 4) ∧
    (let u := seqs (cmd0 3 0 0 0 4 0 0) (live 2 true) 0 id
     leAt (cmd0 3 0 0 0 4 0 0) 12 4 = 4 ∧ u.nextPos 0 (live 2 true) = some 4 ∧ (u.setSeq 0 (some { live 2 true with masks := [] })).maskUnit = some 0) ∧
    (let u := seqs (cmd0 8 0 0 0 0 3 0) (live 3 false) 0 id; u.hostMode 0 1 = false) ∧
    (let u := seqs (cmd0 8 0 0 0 0 4 0) (live 3 false) 2 id; u.hostMode 0 1 = true ∧ serving0.vocab ≤ 4) ∧
    (let u := seqs (cmd0 8 0 0 0 0 3 0) (live 3 false) 2 fun x => { x with passes := [pass1] }
     u.hostMode 0 1 = true ∧ 3 < serving0.vocab ∧ (u.part 0).passes.find? (fun y => decide ((live 3 false).pass = some y.number)) = some pass1 ∧
       pass1.awaiting.find? (fun r => decide ((pass1.rows[r]?).map (·.seq) = some 0)) = some 0) := by decide

/-- HCREATE: a handle in use, a length beyond the sequence's, a bad token, a cut within a page and a whole one, a transient copy behind. -/
theorem witness_handles :
    (let u := { seqs (cmd0 6 0 0 0 3 2 0) (live 2 false) 0 id with kvc := [(0, prefix0 0)] }
     (u.createHandle 0 0 0 3 2).2 = 14 ∧ (u.findHandle 0 0).1 = some (0, prefix0 0)) ∧
    (let u := seqs (cmd0 6 0 0 0 4 2 0) (live 2 false) 0 id; (u.createHandle 0 0 0 4 2).2 = 16 ∧ (live 2 false).len < 4) ∧
    (let u := seqs (cmd0 6 0 0 0 2 9 0) (live 2 false) 0 id; (u.createHandle 0 0 0 2 9).2 = 0 ∧ 2 < (live 2 false).len ∧ serving0.vocab ≤ 9) ∧
    (let u := seqs (cmd0 6 0 0 0 3 9 0) (live 2 false) 0 id; (u.createHandle 0 0 0 3 9).2 = 0 ∧ (live 2 false).tlen = (live 2 false).len) ∧
    (let x := { live 2 false with tlen := 0 }; let u := seqs (cmd0 6 0 0 0 3 9 0) x 0 id; (u.createHandle 0 0 0 3 9).2 = 0 ∧ x.tlen ≠ x.len) ∧
    (let u := seqs (cmd0 7 0 0 0 0 0 0) (live 2 false) 0 id; (u.findHandle 0 0).1 = none ∧ (u.part 0).heldCreates = []) := by decide

theorem witness_manyHandles :
    (let u := { seqs (cmd0 6 0 0 0 3 2 8) (live 2 false) 0 id with kvc := (List.range 16).map fun k => (k, { prefix0 0 with handle := 99 }) }
     (u.createHandle 0 8 0 3 2).2 = 15) := by decide

def adapter0 (st : Nat) : Adapter := { state := st, part := 0, adid := 7, gen := 1, rank := 8, refs := 0, base := 0, tag := 9, manifest := [] }

def adapting (adid flags : Nat) (tb : Tab Adapter) (f : Part → Part) : State :=
  let s := seqs (cmd0 4 flags 0 adid 0 0 0) (live 2 false) 0 f
  { s with srv := { s.srv with adapters := tb } }

/-- ADAPTER_LOAD with a free slot; ADAPTER_DROP of an absent adapter and of an active one. -/
theorem witness_adapter : (∃ i, i < 2048 ∧ ((adapting 7 0 [] id).adapter i).state = 0) ∧ (adapting 7 0 [] id).activeSlot 0 7 = none ∧
    (adapting 7 0 [(3, adapter0 2)] fun x => { x with adDir := [(7, 3)] }).activeSlot 0 7 = some 3 := ⟨⟨0, by decide⟩, by decide, by decide⟩

/-- Every slot in use. -/
def usedSlots (n : Nat) : Tab Adapter := (List.range n).map fun i => (i, adapter0 2)

theorem tabGet_all {x d : Adapter} {n i : Nat} (hi : i < n) : tabGet d ((List.range n).map fun i => (i, x)) i = x := by
  have hm : (i, x) ∈ (List.range n).map fun i => (i, x) := List.mem_map.2 ⟨i, List.mem_range.2 hi, rfl⟩
  have ha : ∀ e ∈ (List.range n).map fun i => (i, x), e.2 = x := by simp
  revert hm ha
  generalize (List.range n).map (fun i => (i, x)) = l
  intro hm ha
  induction l with
  | nil => cases hm
  | cons e t ih =>
    rcases List.mem_cons.1 hm with rfl | hm
    · simp [tabGet, tabFind]
    · simp only [tabGet, tabFind] at ih ⊢
      split
      · exact ha e List.mem_cons_self
      · exact ih hm fun e he => ha e (List.mem_cons_of_mem _ he)

theorem slotsUsed (tb : Tab Adapter) (flags : Nat) (f : Part → Part) (h : tb = usedSlots 2048) :
    ∀ i, i < 2048 → ((adapting 7 flags tb f).adapter i).state ≠ 0 := by
  intro i hi
  have : (adapting 7 flags tb f).adapter i = adapter0 2 := by rw [State.adapter, show (adapting 7 flags tb f).srv.adapters = tb from rfl, h]; exact tabGet_all hi
  rw [this]; decide

theorem witness_slotsUsed :
    (∀ i, i < 2048 → ((adapting 7 1 (usedSlots 2048) id).adapter i).state ≠ 0) ∧
    (∀ i, i < 2048 → ((adapting 7 1 (usedSlots 2048) fun x => { x with adDir := [(7, 3)] }).adapter i).state ≠ 0) ∧
    (∀ i, i < 2048 → ((adapting 7 0 (usedSlots 2048) fun x => { x with adQueue := List.replicate 16 ([], []) }).adapter i).state ≠ 0) ∧
    (byteAt (cmd0 4 1 0 7 0 0 0) 1 % 2 = 1 ∧ byteAt (cmd0 4 0 0 7 0 0 0) 1 % 2 = 0 ∧ leAt (cmd0 4 1 0 7 0 0 0) 4 2 = 7) :=
  ⟨slotsUsed _ _ _ rfl, slotsUsed _ _ _ rfl, slotsUsed _ _ _ rfl, by decide⟩

theorem witness_slotDirs (tb : Tab Adapter) : (adapting 7 1 tb id).activeSlot 0 7 = none ∧
    (adapting 7 1 tb fun x => { x with adDir := [(7, 3)] }).activeSlot 0 7 = some 3 ∧
    16 ≤ ((adapting 7 0 tb fun x => { x with adQueue := List.replicate 16 ([], []) }).part 0).adQueue.length ∧
    ((adapting 7 0 tb id).part 0).adQueue.length < 16 := ⟨by rfl, by rfl,
  by change 16 ≤ (List.replicate 16 (([] : Bytes), ([] : Bytes))).length; decide, by change ([] : List (Bytes × Bytes)).length < 16; decide⟩

/-- A load that waits and a slot that is free; an ingest that ended, well and not. -/
theorem witness_adapterQueue :
    (((adapting 7 0 [] fun x => { x with adQueue := [([], [])] }).part 0).adQueue = ([], []) :: []) ∧
    (∃ i, (adapting 7 0 [] fun x => { x with adQueue := [([], [])] }).freeSlot = some i) ∧ ((adapting 7 0 [] id).part 0).adQueue = [] :=
  ⟨by decide, by
    have := firstFree_finds (n := 2048) (start := Config.pick (adapting 7 0 [] fun x => { x with adQueue := [([], [])] }).fresh % 2048)
      (taken := fun i => decide (((adapting 7 0 [] fun x => { x with adQueue := [([], [])] }).adapter i).state ≠ 0)) ⟨0, by omega, by decide⟩
    obtain ⟨i, hi, -⟩ := this
    exact ⟨i, hi⟩, by decide⟩

def ended (stat : Word) (f : Part → Part) : State := { adapting 7 0 [(1, adapter0 2), (3, adapter0 1)] f with
  regs := [(Reg.LDR_PART 0, 0x40000000), (Reg.LDR_ING_STAT, stat)], ing := { Ingest.idle with purpose := 1, slot := 3, part := some 0 } }

theorem witness_adapterEnds :
    (∀ f ∈ [(id : Part → Part), fun x => { x with adDir := [(7, 1)] }],
      ((ended 0x60000000 f).adapter 3).state = 1 ∧ (ended 0x60000000 f).ing.purpose = 1 ∧ (ended 0x60000000 f).ing.slot = 3 ∧
      (ended 0x60000000 f).fld Reg.LDR_ING_STAT 31 29 = 3) ∧
    (ended 0x60000000 id).activeSlot 0 7 = none ∧ (ended 0x60000000 fun x => { x with adDir := [(7, 1)] }).activeSlot 0 7 = some 1 ∧
    ((ended 0x89000000 id).fld Reg.LDR_ING_STAT 31 29 = 4 ∧ 9 = (ended 0x89000000 id).fld Reg.LDR_ING_STAT 27 24) := by
  refine ⟨?_, by decide, by decide, by decide⟩
  intro f hf
  fin_cases hf <;> decide

/-- The batch's 16 bytes: model 0 and how many sequences it wants. -/
def batch0 (want : Nat) : Bytes := leBytes 8 0 ++ [0, BitVec.ofNat 8 want] ++ zeros 6

/-- One sequence that decodes; its ring is on or off. -/
def batching (on : Bool) (frozen : Bool) : State := { srv [] keeper0 id [(0, live 2 false)] with
  regs := (Reg.LDR_PART 0, 0x40000000) :: (if on then [(Reg.SRV_OUT_CFG 0, 0x80000006)] else []),
  srv := { (srv [] keeper0 id [(0, live 2 false)]).srv with frozen := frozen } }

theorem witness_batch : (∀ on fr, (batching on fr).servingRec 0 = some serving0 ∧ (batching on fr).srv.frozen = fr ∧
      flag ((batching on fr).rd (Reg.SRV_OUT_CFG 0)) 31 = on) ∧
    min (byteAt (batch0 0) 9) serving0.maxrows = 0 ∧ min (byteAt (batch0 255) 9) serving0.maxrows = 4 ∧
    (batching true false).seqsOf 0 = [0] ∧ (batching true false).seq 0 = some (live 2 false) ∧ (live 2 false).prompt = [] ∧ (live 2 false).prm.spec = 0 ∧
    (live 2 false).model = byteAt (batch0 1) 8 ∧ (let a := (batching true false).setSeq 0 (some (live 2 false))
      a.causes serving0 0 (live 2 false) = [] ∧ a.mayRun 0 = true ∧ a.freeBuf (a.part 0).smpRound = some (0, 0)) := by decide

/-- Reports for a pass in flight and for none: bytes 0 to 3 the pass, 6 the flag, 7 the model. -/
def report0 (n : Nat) : Bytes := leBytes 4 n ++ zeros 2 ++ [1, 0] ++ zeros 8

def pass2 : Pass := { pass1 with awaiting := [] }

def row0 (ce : Nat) : SampRow := { SampRow.empty with ceCount := ce }

def buf0 (ce : Nat) (t : Option Long) : PassBuf := { part := 0, pass := 1, rows := [(0, row0 ce)], firstFlit := t, lastSent := 0, timedOut := false }

/-- Pass 1 holds buffer 0 of unit 0. -/
def sampling (ce : Nat) (t : Option Long) (y : Pass) : State := { srv [] keeper0 (fun x => { x with passes := [y] }) [(0, live 3 false)] with
  time := 2000000, smp := [(0, { SampUnit.zero with bufs := [(0, buf0 ce t)] })] }

theorem witness_reports :
    (let s := sampling 0 none pass2; s.servingRec 0 = some serving0 ∧
      (s.part 0).passes.find? (fun y => decide (y.number = leAt (report0 1) 0 4) && decide (y.model = byteAt (report0 1) 7)) = some pass2 ∧
      (s.part 0).passes.find? (fun y => decide (y.number = leAt (report0 2) 0 4) && decide (y.model = byteAt (report0 2) 7)) = none) := by decide

/-- A candidate flit to a row: kept, and discarded for its buffer, its space, its length, or a buffer not held. -/
theorem witness_candidates :
    (let s := sampling 0 none pass2; tabFind (s.unit 0).bufs (0 / 2 ^ 22 % 4) = some (buf0 0 none) ∧ s.keyOwner 5 = some (buf0 0 none).part ∧
      tabFind (buf0 0 none).rows (0 / 2 ^ 16 % 64) = some (row0 0) ∧ (row0 0).sampled = false ∧ serving0.nshard ≤ (row0 0).ceCount + 1 ∧ (row0 0).ceCount < serving0.nshard ∧
      (s.part 0).serving = some serving0 ∧ s.passOf 0 0 0 = some pass2 ∧ (buf0 0 none).timedOut = false ∧ (buf0 0 none).firstFlit = none) ∧
    (¬(1 < (32768 - 8) / 2 ^ 22 % 4 ∨ 1 < 0 ∨ (if 0 = 0 then 32768 else 4096) < (32768 - 8) % 2 ^ 16 + (zeros 8).length)) ∧
    (1 < (2 * 2 ^ 22) / 2 ^ 22 % 4 ∧ 1 < 2 ∧ (if 1 = 0 then 32768 else 4096) < 4096 % 2 ^ 16 + (zeros 16).length) ∧ tabFind ((sampling 0 none pass2).unit 1).bufs 0 = none := by decide

/-- A first flit far enough in the past. -/
theorem witness_rowTimeout : (let s := sampling 0 (some 0) pass2; let buf := buf0 0 (some 0)
    tabFind (s.unit 0).bufs 0 = some buf ∧ buf.firstFlit = some 0 ∧ buf.timedOut = false ∧ buf.done = false ∧
      10 * 2 ^ (s.fld Reg.FAB_CFG 27 24 + 10) ≤ (s.now - (0 : Long).toNat) * 14) := by decide

def answered1 : Pass := { pass2 with results := [{ row := 0, tok := some 3, weights := [], draws := [], sent := [], stats := [] }] }

theorem witness_passCommit : (let s := sampling 1 (some 0) answered1
    s.servingRec 0 = some serving0 ∧ (s.part 0).passes.find? (fun y => decide (y.number = 1)) = some answered1 ∧ s.srv.frozen = false ∧
      answered1.seqs.all answered1.answered = true ∧ pass1.seqs.all pass1.answered = false) := by decide

/-- The token 3 hits a rule of each kind, or none; the most tokens, the context, and room for one more. -/
def ruled (incl : Bool) : ServingRec := { serving0 with rules := [[{ kind := 1, incl := incl, toks := [3] }]] }

theorem witness_commitToken :
    (∀ incl, ((ruled incl).rules[(live 3 false).prm.ruleset]?).getD [] = [{ kind := 1, incl := incl, toks := [3] }] ∧
      ({ kind := 1, incl := incl, toks := [3] } : StopRule).hits (((live 3 false).hist ++ [3]).drop ((live 3 false).hist.length + 1 - 256)) = true) ∧
    (((serving0.rules[(live 3 false).prm.ruleset]?).getD []).find? fun r => r.hits [3]) = none ∧
    ((live 3 false).prm.maxnew = 2 ∧ (live 3 false).committed = 0 ∧ { live 3 false with committed := 1 }.prm.maxnew ≤ 1 + 1) ∧
    (serving0.ctxmax < 64 + 1 ∧ 63 + 1 ≤ serving0.ctxmax) ∧ pass2.failed = false := by decide

/-! ### Accounts and the output ring -/

def accounts (acct : Acct) (tot : Ledger) (frozen : Bool) : State := { job with
  srv := { State.reset.srv with accts := [(0, acct)], totals := tot, frozen := frozen } }

def led9 : Ledger := { Ledger.zero with bal := 9, mint := 9 }

def acct9 (cap : Nat) : Acct := { en := true, key := 5, rate := 4, cap := cap, led := led9, rowsMs := [] }

theorem witness_accounts :
    (let s := accounts (acct9 11) led9 false; s.srv.frozen = false ∧ (s.acct 0).en = true ∧ (s.acct 0).led.bal < (s.acct 0).cap ∧ 0 < (s.acct 0).rate ∧
      (s.acct 0).cap < 2 ^ 32 ∧ (s.acct 0).led.balanced = true ∧ s.selAcct = 0) ∧
    (let s := accounts (acct9 9) led9 false; (s.acct 0).cap ≤ (s.acct 0).led.bal) ∧ (accounts Acct.zero led9 false |>.acct 0).en = false ∧
    (accounts (acct9 9) led9 true).srv.frozen = true ∧
    (flag (0x80000004 : Word) 31 = true ∧ flag (4 : Word) 31 = false ∧ 0 < field (4 : Word) 30 0 ∧ 9 + field (4 : Word) 30 0 < 2 ^ 32) ∧
    (let s := accounts (acct9 9) led9 false; canonB s = true ∧ s.srv.snapshot = none ∧ s.srv.accts.all (fun x => decide (tabFind x.2.rowsMs 0 = none)) = true) ∧
    (∀ k ∈ [0, 4096, 8191], ({ accounts (acct9 9) led9 false with srv := { (accounts (acct9 9) led9 false).srv with snapshot := some k } } : State).srv.snapshot = some k ∧
      k < 8192) ∧
    ([(0, 3), (5, 0)].map (·.1)).Nodup ∧ (∃ x ∈ [(0, 3), (5, 0)], 0 < x.2) := by decide

theorem witness_noEnergy : State.reset.srv.frozen = false ∧ State.reset.liveParts = [] ∧ ∀ r, r < 896 → State.reset.regionJoules r = 0 :=
  ⟨rfl, by decide, fun r _ => by simp [State.regionJoules, State.region, tabGet, tabFind, State.reset, Region.zero]⟩

theorem witness_outputRing :
    (let s := ({ job with regs := [(Reg.LDR_PART 0, 0x40000000), (Reg.SRV_OUT_CFG 0, 0x80000006), (Reg.SRV_OUT_PI 0, 8), (Reg.SRV_OUT_CI 0, 3)] } : State)
     canonB s = true ∧ flag (s.rd (Reg.SRV_OUT_CFG 0)) 31 = true ∧ ((8 : Word) - s.rd (Reg.SRV_OUT_CI 0)).toNat ≤ (s.rd (Reg.SRV_OUT_PI 0) - s.rd (Reg.SRV_OUT_CI 0)).toNat ∧
       (s.rd (Reg.SRV_OUT_PI 0) - s.rd (Reg.SRV_OUT_CI 0)).toNat < ((9 : Word) - s.rd (Reg.SRV_OUT_CI 0)).toNat ∧
       (s.rd (Reg.SRV_OUT_PI 0) - s.rd (Reg.SRV_OUT_CI 0)).toNat < ((2 : Word) - s.rd (Reg.SRV_OUT_CI 0)).toNat) ∧
    (canonB job = true ∧ flag (job.rd (Reg.SRV_OUT_CFG 63)) 31 = false ∧ flag (0x80000004 : Word) 31 = true ∧ flag (0x1F : Word) 31 = false) := by decide

/-! ### Loads and ends of jobs -/

/-- An image of one region without a program: the header with its digest, one section of the shape, and its entry in the table. -/
def image0 : Bytes := leBytes 64 0xfffc00000000000000001000000010000000000000000000000020201000131494a59 ++
  leBytes 64 0x6a5e6635df0707d3d451d9f438ce9956e9592582143edadcdbe9e8f2ae4b4078acf8e12e585fb84d4e240dbdd872f48ea1d0224acde4debfb0fd931afd48cf5e ++
  zeros 128 ++ leBytes 80 0x281000000000ffffffffffffffffffffffffffffffffffffffffffffffffffffffffffffffffffff0000000000000001000000000001010100000000000000400000011000000001

/-- A header alone, its digest that of no bytes: right in form, and no image. -/
def header0 : Bytes := leBytes 8 0x0131494A59 ++ zeros 56 ++
  leBytes 64 0x3eda27f97a3238a5817a4147bd31b9632fec7e87d21883ffb0f2855d3cd1d047cee96cd321a9f483dc15570b05e420d607806dd6502854f1bdb8ef7e35e183cf ++ zeros 128

/-- A device that is ready, with the whole grid, and the given registers. -/
def ready (l : List (Nat × Word)) : State := { State.reset with
  last := grid
  regs := (Reg.GLB_LAST_STAT, 1) :: (Reg.STG_STAT, 0x80000000) :: l }

theorem witness_loads : field (0x10000000 : Word) 31 28 = 1 ∧ (0x10000000 : Word) &&& 0x3FF = 0 ∧
    flag (State.reset.rd Reg.STG_STAT) 31 = false ∧ flag ((ready [(Reg.LDR_STAT, 0x80000000)]).rd Reg.LDR_STAT) 31 = true ∧
    (ready [(Reg.LDR_PART 0, 0x40000000)]).pstate 0 ≠ 0 := by decide

theorem witness_readyForLoads : ∀ l ∈ [[], [(Reg.LDR_IMG_LEN, (256 : Word))], [(Reg.LDR_IMG_LEN, 336)]], flag ((ready l).rd Reg.LDR_STAT) 31 = false ∧
    flag ((ready l).rd Reg.STG_STAT) 31 = true ∧ (ready l).pstate 0 = 0 := by decide

theorem witness_imageLengths : ((ready []).rd Reg.LDR_IMG_LEN).toNat = 0 ∧ ((ready [(Reg.LDR_IMG_LEN, 256)]).rd Reg.LDR_IMG_LEN).toNat = 256 ∧
    ((ready [(Reg.LDR_IMG_LEN, 336)]).rd Reg.LDR_IMG_LEN).toNat = 336 := by decide

theorem witness_gridForLoads (l : List (Nat × Word)) : (ready l).last.grade = 0 ∧ (ready l).last.lcols = 32 := by
  show grid.grade = 0 ∧ grid.lcols = 32
  decide

theorem witness_noForm : checkFormat ([] : Bytes) ≠ 0 := by decide +kernel

theorem witness_goodForm : checkFormat header0 = 0 ∧ checkImage header0 0 0 32 ≠ 0 := by decide +kernel

theorem witness_goodImage : checkFormat image0 = 0 ∧ checkImage image0 0 0 32 = 0 := by decide +kernel

/-- A load whose partition has nothing left to wait for: one region, one core awake with a role. -/
def starting : State := { job with
  load := some { p := 0, port := 0, image := [], placed := [], stopAsked := false, waitingIngest := true }
  regs := [(Reg.LDR_PART 0, 0x20000000)]
  cores := [(0, { core0 with phase := .idle })] }

theorem witness_jobStart : Canonical starting ∧ starting.startReady 0 = true ∧ (starting.part 0).heldReason = none ∧
    (starting.coreAt 0).powered = true ∧ (starting.coreAt 0).phase = .idle := ⟨canonical_of (by decide), by decide⟩

/-- Partition 0 runs; it stops since time 0 with STOP_TMO 0; region 0 holds weights, and releases them. -/
def holding (part pool : Word) (p : Option Nat) : State := { job with
  last := grid
  regions := [(0, { Region.zero with pstate := 2, hubOn := true, part := p, heldKey := 5 })]
  regs := [(Reg.LDR_PART 0, part), (Reg.RGNW_POOL 0, pool)].filter fun e => decide (e.2 ≠ regReset e.1)
  parts := [(0, { (job.part 0) with stopTime := some 0, stopTmo := 0 })] }

theorem witness_kill : Canonical (holding 0x40000000 0xFF000000 (some 0)) ∧ field (0x20000000 : Word) 31 28 = 2 ∧ field (0x20000000 : Word) 27 22 = 0 ∧
    (holding 0x40000000 0xFF000000 (some 0)).pstate 0 = 2 ∧ ((holding 0x40000000 0xFF000000 (some 0)).part 0).stall = false ∧
    ((holding 0x40000000 0xFF000000 (some 0)).part 0).stopEpoch = none := ⟨canonical_of (by decide), by decide⟩

theorem witness_release : Canonical (holding 0x40000000 0xFF000004 none) ∧ field (0x30200000 : Word) 31 28 = 3 ∧ flag (0x30200000 : Word) 21 = true ∧
    (0x30200000 : Word) &&& 0x3FF = 0 ∧ (holding 0x40000000 0xFF000004 none).last.phys 0 0 = some 0 ∧ (holding 0x40000000 0xFF000004 none).holds 0 = true ∧
    ((holding 0x40000000 0xFF000004 none).region 0).part = none ∧
    (holding 0x40000000 0xFF000002 none).releasing 0 = true ∧ (holding 0x40000000 0xFF000002 none).ing.part = none :=
  ⟨canonical_of (by decide), by decide⟩

theorem witness_stopTimeout : Canonical (holding 0x60000000 0xFF000000 (some 0)) ∧ (holding 0x60000000 0xFF000000 (some 0)).pstate 0 = 3 ∧
    ((holding 0x60000000 0xFF000000 (some 0)).part 0).stopTime = some 0 ∧ (holding 0x60000000 0xFF000000 (some 0)).elapsed 0 (1000 * 0) = true ∧
    (∃ k ∈ ((holding 0x60000000 0xFF000000 (some 0)).part 0).started, ((holding 0x60000000 0xFF000000 (some 0)).coreAt k).phase = .running) :=
  ⟨canonical_of (by decide), by decide⟩

theorem witness_jobEnds :
    (let s := { holding 0x60000000 0xFF000000 (some 0) with cores := [(0, { core0 with phase := .ended })] }
     s.pstate 0 = 3 ∧ s.sparing 0 = false ∧ (∀ k ∈ (s.part 0).started, (s.coreAt k).phase ≠ .running) ∧ s.flt.current = none ∧ s.seqsOf 0 = [] ∧
       (∀ e ∈ s.srv.adapters, ¬(e.2.part = 0 ∧ e.2.state = 1)) ∧ (s.part 0).adQueue = [] ∧ (tabGet Rings.zero s.hif.rings 0).busy = [] ∧ (s.part 0).placed ≠ []) ∧
    (let s := holding 0x80000000 0xFF000000 (some 0); s.pstate 0 = 4 ∧ s.flt.current = none ∧ s.flt.queue = [] ∧ (s.part 0).placed ≠ []) := by decide

theorem witness_rimClear : ∀ n ∈ [0, 1], (let e : Extent := { stack := 0, base := 0, len := 1, write := true, shared := false, identity := [], model := [], key := 5 }
    let s := { job with rim := { State.reset.rim with clearing := e :: List.replicate n e } }; s.rim.clearing = e :: List.replicate n e) := by intro n _; rfl

/-! ### Weights and memories -/

/-- A manifest of one tensor of index 7, whose one placement is core 0 of the region at (0, 0). -/
def manifest0 : Bytes := leBytes 8 1 ++ leBytes 4 7 ++ leBytes 4 64 ++ zeros 26 ++ leBytes 2 1 ++ leBytes 4 56 ++ zeros 88

/-- An ingest segment without payload: tensor index, flags, uncompressed length, CRC. -/
def segment0 (i flags ulen crc : Nat) : Bytes := segMagic ++ leBytes 2 i ++ leBytes 1 flags ++ zeros 5 ++ leBytes 4 1 ++ zeros 4 ++ leBytes 4 ulen ++ leBytes 4 crc ++ zeros 4

/-- Partition 0 ingests; THM_STAT is as given, and source 3 has the bytes b, held since time 0. -/
def ingesting (thm : Word) (b : Bytes) : State := { job with
  time := 100000000000000
  regs := if thm = 0 then job.regs else [(Reg.THM_STAT, thm), (Reg.LDR_PART 0, 0x40000000)]
  ing := { Ingest.idle with
    part := some 0
    image := manifest0
    heldSince := some 0
    bufs := if b = [] then [] else [(3, b)]
    tensors := [(7, { next := 0, done := false, acc := [] })] } }

/-- The tensor segment0 7 names, in the state the segment is taken in. -/
def ingested : State := ({ ingesting 0 [] with ing := { (ingesting 0 []).ing with closed := false || false, heldSince := none, bufs := [] } }).setFld Reg.LDR_ING_STAT 31 29 1

theorem witness_ingest : (ingesting 0 []).ing.part = some 0 ∧ (ingesting 0 []).ing.bufs = [] ∧ (ingesting 0 []).fld Reg.LDR_ING_STAT 31 29 ≠ 4 ∧
    (∀ b ∈ [segment0 7 4 0 0, segment0 7 0 0 1, segment0 7 0 1 0, segment0 8 0 0 0, segment0 7 0 0 0], 32 ≤ b.length ∧ b.length = 32 + leAt b 16 4) ∧
    ingested.segHeadBad (segment0 7 4 0 0) = true ∧
    (∀ b ∈ [segment0 7 0 0 1, segment0 7 0 1 0, segment0 8 0 0 0, segment0 7 0 0 0], ingested.segHeadBad b = false) ∧
    crc32 [] ≠ 1 ∧ crc32 [] = 0 ∧ segPayload (segment0 7 0 1 0) = none ∧ segPayload (segment0 8 0 0 0) ≠ none ∧ ingested.tensorOf 8 = none ∧
    segPayload (segment0 7 0 0 0) = some [] ∧ (ingested.tensorOf 7).map (·.ship) = some 0 ∧ (tabFind ingested.ing.tensors 7).isSome = true := by decide

theorem witness_ingestFree : (∀ i ∈ [7, 8], ∀ t, (ingesting 0 []).tensorOf i = some t → ∀ r ∈ (ingesting 0 []).tensorRegions 0 t,
    (ingesting 0 []).ingestHeld r = false ∧ (ingesting 0 []).releasing r = false) := by
  intro i hi t ht
  have a : ∀ i ∈ [7, 8], ((ingesting 0 []).tensorOf i).all (fun t => ((ingesting 0 []).tensorRegions 0 t).all fun r =>
      !(ingesting 0 []).ingestHeld r && !(ingesting 0 []).releasing r) = true := by decide
  have h := a i hi
  rw [ht] at h
  intro r hr
  simpa using List.all_eq_true.1 h r hr

theorem witness_ingestHold : (let s := ingesting 0x10000000 (segment0 7 0 0 0)
    s.ing.heldSince = some 0 ∧ s.elapsed 0 (1000000 * max 1 (s.fld Reg.LDR_ING_CFG 15 0)) = true ∧ s.segReady 3 = true ∧ s.segHot 0 3 = true) := by decide

/-- Region 0 powered, without a job, with the given registers; a row marked and found before, three spares used of slice 0, all of slice 1. -/
def scrubbing (l : List (Nat × Word)) (exhausted : Bool) : State := { State.reset with
  regs := l
  regions := [(0, { Region.zero with
    pstate := 1
    hubOn := true
    exhausted := exhausted
    lastPass := [5]
    marked := [5, 65541]
    rowsUsed := [(0, 3), (1, 128)]
    writeBacks := [5]
    injected := [] })] }

theorem witness_scrub : ∀ l ∈ [[(Reg.RGNW_SCRUB 0, (0x00000002 : Word))], [(Reg.RGNW_SCRUB 0, 0x0000FFFF)], [(Reg.RGNW_SCRUB 0, 0x0010FFFF)],
    [(Reg.RGNW_SCRUB 0, 0x0000FFFE)]], ((scrubbing l false).region 0).pstate ≠ 0 ∧ (scrubbing l false).dead 0 = false ∧
    (scrubbing l false).fld (Reg.RGNW_SCRUB 0) 20 16 ≤ 16 := by decide

theorem witness_scrubCanonical : Canonical (scrubbing [(Reg.RGNW_SCRUB 0, 0x00000002)] false) ∧ Canonical (scrubbing [(Reg.RGNW_SCRUB 0, 0x0000FFFF)] false) ∧
    Canonical (scrubbing [(Reg.RGNW_SCRUB 0, 0x0010FFFF)] false) ∧ Canonical (scrubbing [(Reg.RGNW_SCRUB 0, 0x0000FFFE)] false) :=
  ⟨canonical_of (by decide), canonical_of (by decide), canonical_of (by decide), canonical_of (by decide)⟩

theorem witness_scrubInjection (l : List (Nat × Word)) (ws : List Nat) : (scrubbing l false).injHit 0 0 ws = false := rfl

theorem witness_repairRows : (let g := (scrubbing [] true).region 0
    5 ∈ g.lastPass ∧ 65536 * 0 + 5 ∈ g.marked ∧ 0 < g.sparesOf 0 ∧ 65536 * 1 + 5 ∈ g.marked ∧ g.sparesOf 1 = 0 ∧ g.exhausted = true) ∧
    (let g := (scrubbing [] false).region 0; 65536 * 1 + 5 ∈ g.marked ∧ g.sparesOf 1 = 0 ∧ g.exhausted = false) := by decide

/-- Rim stack 0 trained with all its channels, or degraded; core 0 has power. -/
def trained (v : Word) : State := { job with
  boot := { State.reset.boot with railsDown := false }
  regs := [(Reg.LDR_PART 0, 0x40000000), (Reg.RIM_STACK 0, v), (Reg.RIM_CHAN 0, 0xFFFFFFFF)] }

theorem witness_rimScrub : Canonical (trained 0x60000000) ∧ Canonical (trained 0x9F000000) ∧ (trained 0x60000000).fld (Reg.RIM_STACK 0) 31 30 = 1 ∧
    (trained 0x9F000000).fld (Reg.RIM_STACK 0) 31 30 = 2 ∧ flag ((trained 0x60000000).rd (Reg.RIM_CHAN 0)) 31 = true ∧
    flag ((trained 0x60000000).rd (Reg.RIM_FAIL 0)) 31 = false ∧ ((trained 0x60000000).core c0).powered = true ∧ ((trained 0x60000000).region 0).pstate ≠ 0 :=
  ⟨canonical_of (by decide), canonical_of (by decide), by decide⟩

/-! ### Power -/

/-- Always-on, with the power state pw and the given registers; region 0 (of field 0) is g, and partition 0 is as in `job`. -/
def plant (l : List (Nat × Word)) (g : Region) (pw : Power) : State := { job with
  time := 200000000000
  boot := { State.reset.boot with alwaysOn := true, railsDown := false }
  regs := l
  regions := [(0, g)]
  pwr := pw }

def region0 (p : Option Nat) : Region := { Region.zero with pstate := 2, hubOn := true, part := p }

/-- Both feeds valid, all converters on. -/
def power0 : Power := { Power.zero with present := [true, true], volts := [4800, 4800], valid := [true, true], converters := (2 : BitVec 168) ^ 168 - 1 }

theorem witness_feeds : (let s := plant [] (region0 none) { power0 with valid := [false, true] };
      s.boot.alwaysOn = true ∧ s.pwr.holdUp = false ∧ s.fld Reg.PWR_FEED_EVT 31 24 = 0 ∧ s.pwr.valid.getD 1 false = true ∧ s.pwr.valid.length = 2 ∧
      s.pwr.volts.length = 2) ∧
    (let s := plant [(Reg.PWR_FEED_EVT, 0x01000000)] (region0 none) { power0 with valid := [false, true] };
      0 < s.fld Reg.PWR_FEED_EVT 31 24 ∧ s.pwr.valid.getD 0 false = false) ∧
    (let s := plant [] (region0 none) { power0 with valid := [false, false] };
      s.pwr.holdUp = false ∧ s.pwr.valid.getD 0 false = false ∧ s.pwr.valid.getD 1 false = false) ∧ Canonical (plant [] (region0 none) power0) :=
  ⟨by decide, by decide, by decide, canonical_of (by decide)⟩

theorem witness_feedEvents : (let s := plant [(Reg.PWR_FEED_EVT, 0x01000000)] (region0 none) { power0 with valid := [false, true] };
    let ok := ({ s with pwr := { s.pwr with present := s.pwr.present.set 0 true, valid := s.pwr.valid.set 0 true, volts := s.pwr.volts.set 0 4000 } }).showFeeds;
    0 < ok.fld Reg.PWR_FEED_EVT 31 24 ∧ s.pwr.valid.getD 0 false = false) := by decide

theorem witness_field : (let s := plant [] (region0 none) power0;
      flag s.pwr.converters 0 = true ∧ s.fieldCap 0 < 321 ∧ rateOk s.pwr.lastCapUp 0 10000 s.now = true ∧ 320 ≤ s.fieldCap 0 ∧ 95 * s.fieldCap 0 ≤ 100 * 304) ∧
    (let s := plant [] (region0 none) { power0 with lastCapUp := [(0, 200000000000)] }; rateOk s.pwr.lastCapUp 0 10000 s.now = false) ∧
    (let s := plant [] (region0 none) { power0 with belowSince := [(0, 0)] };
      100 * 303 < 95 * s.fieldCap 0 ∧ tabFind s.pwr.belowSince 0 = some 0 ∧ s.elapsed 0 100000 = true) ∧
    (let s := plant [] (region0 none) power0; (s.region 0).pstate ≠ 0 ∧ flag (s.rd (Reg.RGNW_PWR_PHASE 0)) 8 = false ∧
      flag (s.rd (Reg.RGNW_PWR_PHASE 0)) 19 = false) := by decide

/-- The premises of a power-down hold for RGNW_PWR_PHASE v and the owner p. -/
def powersDown (v : Word) (p : Option Nat) : Bool :=
  let s := plant [(Reg.LDR_PART 0, 0x40000000), (Reg.RGNW_PWR_PHASE 0, v)] (region0 p) power0
  !(s.region 0).poweringDown && !s.dead 0 && decide ((s.region 0).pstate ≠ 0) && (decide (2 ≤ s.phasesLost 0 true) || decide (2 ≤ s.phasesLost 0 false)) &&
    decide (s.owner 0 = p) && decide ((s.region 0).cause = 0)

theorem witness_powerDown : powersDown 0x000C0000 none = true ∧ powersDown 0x000C0000 (some 0) = true ∧ powersDown 0x00000300 none = true ∧
    Canonical (plant [(Reg.LDR_PART 0, 0x40000000), (Reg.RGNW_PWR_PHASE 0, 0x000C0000)] (region0 (some 0)) power0) :=
  ⟨by decide, by decide, by decide, canonical_of (by decide)⟩

theorem witness_powerDownProceeds : (let s := plant [(Reg.LDR_PART 0, 0x40000000)] { region0 (some 0) with poweringDown := true, downSince := some 0 } power0;
      (s.region 0).poweringDown = true ∧ s.owner 0 = some 0 ∧ (s.region 0).downSince = some 0 ∧ s.elapsed 0 1000000 = true) ∧
    (let s := plant [] { region0 none with poweringDown := true } power0; (s.region 0).poweringDown = true ∧ s.owner 0 = none) ∧
    (let s := { plant [(Reg.LDR_PART 0, 0x40000000)] { region0 (some 0) with poweringDown := true } power0 with cores := [] };
      (s.region 0).poweringDown = true ∧ s.regionHalted 0 = true) ∧
    (∀ f ∈ (plant [(Reg.LDR_PART 0, 0x40000000)] (region0 (some 0)) power0).fab.flits, ∀ k, f.loc = FlitLoc.inject 0 k → k < 17) :=
  ⟨by decide, by decide, by decide, by intro f hf; cases hf⟩

/-- Region 0 wakes: its mask, the stages granted, since 0, asked at w. -/
def waking (m : BitVec 18) (n : Nat) (w : Option Long) (l : List (Nat × Word)) (pw : Power) : State :=
  plant l { region0 none with wake := some (m, n, 0, w) } pw

theorem witness_wakes : Canonical (waking 0x20000 0 none [] power0) ∧
    (let s := waking 0x20000 0 none [] power0; (s.region 0).wake = some (0x20000, 0, 0, none) ∧ s.dead 0 = false ∧ fieldOf 0 = 0) ∧
    (let s := waking 0x20000 3 none [] power0; (s.region 0).wake = some (0x20000, 3, 0, none) ∧ s.dead 0 = false) :=
  ⟨canonical_of (by decide), by decide, by decide⟩

theorem witness_wakesComplete :
    (let s := waking 0x20000 4 none [] power0; (s.region 0).wake = some (0x20000, 4, 0, none) ∧ flag (0x20000 : BitVec 18) 17 = true) ∧
    (let s := waking 0x20001 4 none [] power0; (s.region 0).wake = some (0x20001, 4, 0, none) ∧ flag (0x20001 : BitVec 18) 17 = true) ∧
    (let s := waking 0x1FFFF 4 none [] power0; (s.region 0).wake = some (0x1FFFF, 4, 0, none) ∧ flag (0x1FFFF : BitVec 18) 17 = false ∧
      flag (0x1FFFF : BitVec 18) 16 = true ∧ (s.coreAt 16).phase = .off) := by decide

theorem witness_grants : (let s := waking 0x20000 3 (some 0) [] { power0 with wakeQueue := [(0, [0])] };
      ((tabFind s.pwr.wakeQueue 0).getD []).find? (s.wakeTurn 0) = some 0 ∧ (s.region 0).wake = some (0x20000, 3, 0, some 0) ∧
      10 * s.fld (Reg.PWR_FIELD 0) 25 16 + s.rushNow 0 + rushOf 3 ≤ 10 * s.fieldCap 0 ∧ ((tabFind s.pwr.wakeQueue 0).getD []).head? = some 0 ∧
      s.elapsed 0 40000 = true ∧ tabFind s.pwr.rush 0 = none) ∧
    (let s := waking 0x20000 3 (some 0) [(Reg.PWR_FIELD 0, 0x01350000)] { power0 with wakeQueue := [(0, [0])] };
      10 * s.fieldCap 0 < 10 * s.fld (Reg.PWR_FIELD 0) 25 16 + s.rushNow 0 + rushOf 3) ∧
    (let s := plant [] (region0 none) { power0 with rush := [(0, 0)], prioList := [(0, [0])] };
      tabFind s.pwr.rush 0 = some 0 ∧ (∀ y ∈ (tabFind s.pwr.prioList 0).getD [], (s.region y).wake = none)) := by decide

/-- PowerTelemetry: an owner, its budget at the boundary, windows clean so far; no owner and a rail of half the power; a glide; a lower voltage. -/
theorem witness_telemetry : (let s := plant [(Reg.LDR_PART 0, 0x40000000)] { region0 (some 0) with dotmax := 8 } power0;
      s.owner 0 = some 0 ∧ 128 * (s.region 0).dotmax < 1025 ∧ 1024 ≤ 128 * (s.region 0).dotmax ∧ (s.region 0).windowDirty = false ∧ (s.region 0).cleanWindows < 15) ∧
    (let s := plant [] (region0 none) power0;
      (s.region 0).pstate ≠ 0 ∧ s.owner 0 = none ∧ (∀ mw ∈ [(0 : Nat), 655359], 0 * s.fld (Reg.RGNW_PWR_RAIL 0) 31 22 / 10000 ≤ mw / 10) ∧
      flag (s.rd (vminReg 0 false)) 31 = false) ∧
    (let s := plant [(Reg.PWR_CLK, 0x00000009)] (region0 none) power0; s.fld Reg.PWR_CLK 3 3 = 1) ∧
    (let s := plant [(vminReg 0 false, 0x80000300)] (region0 none) power0;
      flag (s.rd (vminReg 0 false)) 31 = true ∧ 0x2FF < s.fld (vminReg 0 false) 9 0 ∧ s.fld (vminReg 0 false) 9 0 ≤ 0x300) := by decide

theorem witness_telemetryCanonical : Canonical (plant [(Reg.LDR_PART 0, 0x40000000)] { region0 (some 0) with dotmax := 8 } power0) ∧
    Canonical (plant [] (region0 none) power0) ∧ Canonical (plant [(Reg.PWR_CLK, 0x00000009)] (region0 none) power0) ∧
    Canonical (plant [(vminReg 0 false, 0x80000300)] (region0 none) power0) :=
  ⟨canonical_of (by decide), canonical_of (by decide), canonical_of (by decide), canonical_of (by decide)⟩

theorem witness_posted : Canonical (plant [] (region0 none) power0) ∧ ((plant [] (region0 none) power0).region 0).posted = none ∧
    ((plant [] (region0 none) power0).region 0).pstate ≠ 0 ∧
    (∀ w ∈ [Posted.trcIdx 5, .vmin false, .vmin true, .none_], ((plant [(Reg.RGNW_BUSY 0, 0x80000000)] { region0 none with posted := some w } power0).region 0).posted = some w) ∧
    (State.reset.region 0).pstate = 0 ∧ Canonical State.reset :=
  ⟨canonical_of (by decide), by decide, by decide, by decide, by decide, canonical_of (by decide)⟩

/-! ### Bring-up -/

theorem witness_coldStart : State.reset.boot.alwaysOn = false ∧
    (let s := plant [] (region0 none) { power0 with holdUp := true }; s.boot.alwaysOn = true ∧ s.pwr.holdUp = true) := by decide

def fuses0 : Fuses := ⟨7, 0, 0, 0, [], [5], [], [], [], 0, 0, false⟩

/-- Bring-up is in stage n, begun at time 0, at the given time. -/
def inStage (n : Nat) (t : Long) (l : List (Nat × Word)) : State := { State.reset with
  time := t
  regs := l
  pwr := power0
  boot := { State.reset.boot with
    alwaysOn := true
    stage := some n
    stageStart := [(n, 0)]
    railsDown := decide (n < 4)
    fuses := if n < 3 then none else some fuses0
    st10Open := decide (n = 10) } }

/-- EarlyBringup, the record of the stage as its beginning leaves it; ST0 with a valid feed; ST1 with both banks empty, whose cause is then not 0 (that a bank's
cause is 0 rests on the release key, an open value of `Config`: no state can show it); ST3 with the flow, and after 20 s without; ST4 after 3 ms. -/
theorem witness_stageRecord : Canonical (inStage 0 0 [(Reg.STG_REC_A 0, 0x01000000)]) ∧
    (inStage 0 0 [(Reg.STG_REC_A 0, 0x01000000)]).rd (Reg.STG_REC_A 0) = BitVec.ofNat 32 (0 * 2 ^ 28 + 2 ^ 24) ∧
    Canonical (inStage 10 0 [(Reg.STG_REC_A 10, 0xA1000000)]) ∧
    (inStage 10 0 [(Reg.STG_REC_A 10, 0xA1000000)]).rd (Reg.STG_REC_A 10) = BitVec.ofNat 32 (10 * 2 ^ 28 + 2 ^ 24) :=
  ⟨canonical_of (by decide), by decide, canonical_of (by decide), by decide⟩

theorem witness_early : (inStage 0 0 []).boot.stage = some 0 ∧ (inStage 0 0 []).pwr.valid.getD 0 false = true ∧ (inStage 1 0 []).boot.stage = some 1 ∧
    (∀ n ∈ [0, 1], (inStage 1 0 []).bankCause ((inStage 1 0 []).bankRead n .empty) ≠ 0) ∧ (inStage 2 0 []).boot.stage = some 2 ∧
    (let s := inStage 3 0 [(Reg.THM_FLOW, 0x80000384)]; s.boot.stage = some 3 ∧ s.flowOk = true) ∧
    (let s := inStage 3 20000000000 [(Reg.THM_FLOW, 0x80000383)]; s.boot.stage = some 3 ∧ s.flowOk = false ∧
      s.elapsed (tabGet 0 s.boot.stageStart 3) 20000000000 = true) ∧
    (let s := inStage 4 3000000 []; s.boot.stage = some 4 ∧ s.elapsed (tabGet 0 s.boot.stageStart 4) 3000000 = true ∧ 0 < s.convertersOf (fieldOf 895)) := by decide

theorem witness_banks : let s := inStage 1 0 []
    let v := ({ s with boot := { s.boot with referenceOk := [true, true] } }).showRefs 1
    let u := { v with sec := { v.sec with error := false, sessions := [] } }
    u.bankCause (u.bankRead 0 .empty) ≠ 0 ∧ u.bankCause (u.bankRead 1 .readError) ≠ 0 := by decide

theorem witness_late : (inStage 5 0 []).boot.stage = some 5 ∧ (inStage 5 0 []).boot.fuses = some fuses0 ∧ fuses0.badCores = [] ∧ fuses0.dead ≠ [] ∧
    (∀ n ∈ [6, 7, 8, 9, 10, 11], (inStage n 0 []).boot.stage = some n) ∧ (inStage 10 0 []).boot.st10Open = true ∧
    (∀ k, k < 32 → (inStage 10 0 []).fld (Reg.EDG_PORT k) 31 29 ≠ 1) := by decide

theorem witness_lateCanonical : Canonical (inStage 5 0 []) ∧ Canonical (inStage 10 0 []) ∧
    (inStage 10 500000000 [(Reg.EDG_PORT 31, 0x20000000)]).elapsed (tabGet 0 (inStage 10 500000000 [(Reg.EDG_PORT 31, 0x20000000)]).boot.stageStart 10) 500000000 = true ∧
    (inStage 10 500000000 [(Reg.EDG_PORT 31, 0x20000000)]).fld (Reg.EDG_PORT 31) 31 29 = 1 :=
  ⟨canonical_of (by decide), canonical_of (by decide), by decide, by decide⟩

/-- Always-on and in no stage, a restart of the given kind under way, partition 0 running. -/
def restarting (k : Option Nat) (down : Bool) (l : List (Nat × Word)) : State := { plant l (region0 (some 0)) power0 with
  boot := { (plant [] (region0 none) power0).boot with
    restarting := k
    downDone := down
    resetLow := down
    referenceOk := [true, true]
    aliveOn := true } }

theorem witness_restart : Canonical (restarting none false [(Reg.LDR_PART 0, 0x40000000)]) ∧
    (let s := restarting none false [(Reg.LDR_PART 0, 0x40000000)]
     s.boot.alwaysOn = true ∧ flag (s.rd Reg.THM_STAT) 31 = false ∧ field (0x10000000 : Word) 31 28 = 1 ∧ (0x10000000 : Word) &&& 0x0FFFFFFF = 0 ∧
      s.starting = false ∧ s.boot.stage = none ∧ s.pstate 0 = 2 ∧ (s.part 0).stall = false ∧ (s.part 0).stopEpoch = none ∧ s.sec.error = false) ∧
    (restarting (some 1) false []).starting = true := ⟨canonical_of (by decide), by decide, by decide⟩

theorem witness_restartDown : (let s := restarting (some 1) false [];
      s.boot.restarting.isSome = true ∧ s.boot.downDone = false ∧ s.sec.error = false) ∧ (restarting (some 1) false []).liveParts = [] ∧
    (let s := restarting (some 2) true []; s.boot.downDone = true ∧ s.boot.restarting.isSome = true) := by decide

theorem witness_clocks : Canonical (restarting none false [(Reg.CLK_STAT, 0x40000000), (Reg.RGNW_CLK 0, 0x40000000)]) ∧
    (let s := restarting none false [(Reg.CLK_STAT, 0x40000000), (Reg.RGNW_CLK 0, 0x40000000)]
     s.fld (Reg.RGNW_CLK 0) 31 30 = 1 ∧ (s.region 0).cause = 0 ∧ (s.region 0).hubOn = true ∧ s.fld Reg.CLK_STAT 31 30 = 0 + 1 ∧
      s.boot.referenceOk.length = 2) ∧
    (restarting none false [(Reg.CLK_STAT, 0x80000000)]).fld Reg.CLK_STAT 31 30 = 1 + 1 := ⟨canonical_of (by decide), by decide, by decide⟩

/-! ### Temperatures and coolant -/

/-- Region 0 is g, its core 0 is x, with the given registers and thermal state. -/
def warm (l : List (Nat × Word)) (g : Region) (x : Core) (th : Thermal) : State := { plant l g power0 with cores := [(0, x)], thm := th }

theorem witness_junctions : Canonical (warm [] (region0 none) core0 Thermal.zero) ∧
    (let s := warm [] (region0 none) { core0 with tempD := some 700, tempR := some 700 } Thermal.zero
     (s.core c0).powered = true ∧ s.weltLevelOf 0 ≤ 2 ∧ flag (s.rd (Reg.RGNW_THM_STAT 0)) 29 = false) ∧
    (let s := warm [] (region0 none) { core0 with powered := false, phase := .off } Thermal.zero; (s.core c0).powered = false) ∧
    { Thermal.zero with hotSensors := [.flash] }.hotSensors.contains .flash = true ∧
    (let s := warm [] (region0 none) { core0 with suspectSince := some 0 } Thermal.zero
     (s.core c0).suspect = false ∧ (s.core c0).suspectSince = some 0 ∧ s.elapsed 0 1000000000 = true) ∧
    (let s := warm [] (region0 none) { core0 with missingSince := some 0 } Thermal.zero
     (s.core c0).suspect = false ∧ (s.core c0).missingSince = some 0 ∧ s.elapsed 0 1000000 = true) ∧
    ((warm [] (region0 none) { core0 with suspect := true } Thermal.zero).core c0).suspect = true :=
  ⟨canonical_of (by decide), by decide, by decide, by decide, by decide, by decide, by decide⟩

theorem witness_regionTemp : (warm [] (region0 none) { core0 with tempD := some 700, tempR := some 700 } Thermal.zero).regionTemp 0 = some 700 := by decide

theorem witness_throttles : (let s := warm [(Reg.RGNW_THM_STAT 0, 0x80000000)] { region0 none with throttleSince := some 0 } core0 Thermal.zero
     (s.region 0).throttleSince = some 0 ∧ s.levelOf 0 = 2 ∧ flag (s.rd Reg.GLB_MODE) 2 = false ∧ s.elapsed 0 (1000000 * s.fld Reg.THM_CFG 15 0) = true ∧
      flag (s.rd (Reg.RGNW_THM_STAT 0)) 29 = false ∧ (s.region 0).pstate ≠ 0) ∧
    (let s := warm [(Reg.RGNW_THM_STAT 0, 0xA0000000)] { region0 none with hotSince := some 0 } core0 Thermal.zero
     flag (s.rd (Reg.RGNW_THM_STAT 0)) 29 = true ∧ (s.region 0).hotSince = some 0 ∧ s.elapsed 0 10000000 = true) ∧
    (let s := warm [(Reg.RGNW_THM_STAT 0, 0x20000000)] { region0 none with coolSince := some 0, kTherm := 2 } core0 Thermal.zero
     flag (s.rd (Reg.RGNW_THM_STAT 0)) 29 = true ∧ (s.region 0).hotSince = none ∧
      (s.region 0).coolSince = some 0 ∧ s.elapsed 0 100000000 = true ∧ 1 < (s.region 0).kTherm) ∧
    (let s := warm [(Reg.RGNW_THM_STAT 0, 0x20000000)] { region0 none with coolSince := some 0, kTherm := 1 } core0 Thermal.zero; (s.region 0).kTherm ≤ 1) ∧
    (let s := warm [(Reg.RGNW_THM_STAT 0, 0x20000000)] { region0 none with kTherm := 1 } core0 Thermal.zero
     (s.region 0).hotSince = none ∧ (s.region 0).coolSince = none) := ⟨by decide, by decide, by decide, by decide, by decide⟩

theorem witness_converters : (let s := warm [] (region0 none) core0 { Thermal.zero with hotConverter := [(0, 0)] }
     tabFind s.thm.hotConverter 0 = some 0 ∧ s.elapsed 0 1000000 = true) ∧
    (let s := warm [] (region0 none) core0 { Thermal.zero with hotConverter := [(0, 200000000000)] }
     tabFind s.thm.hotConverter 0 = some 200000000000 ∧ s.elapsed 200000000000 1000000 = false) := ⟨by decide, by decide⟩

theorem witness_coolant : (let s := warm [(Reg.THM_COOL_IN, 0x80000190), (Reg.THM_COOL_OUT, 0x800001F4)] (region0 none) core0 { Thermal.zero with failedPolls := [(0, 9), (1, 10)] }
     s.boot.alwaysOn = true ∧ tabGet 0 s.thm.failedPolls 2 + 1 ≠ 10 ∧ tabGet 0 s.thm.failedPolls 0 + 1 = 10 ∧ flag (s.rd Reg.THM_COOL_IN) 31 = true ∧
      flag (s.rd Reg.THM_COOL_OUT) 31 = true ∧ 10 ≤ tabGet 0 s.thm.failedPolls 1 ∧ rateOk s.thm.readdressed 1 1000000000 s.now = true ∧
      tabGet 0 s.thm.failedPolls 0 < 10 ∧ s.thm.demandLast = none ∧ s.thm.governed = false) ∧
    Canonical (warm [(Reg.THM_COOL_IN, 0x80000190), (Reg.THM_COOL_OUT, 0x800001F4)] (region0 none) core0 Thermal.zero) := ⟨by decide, canonical_of (by decide)⟩

theorem witness_flow : (let s := warm [] (region0 none) core0 { Thermal.zero with pollsLow := 10 }
     flag (s.rd Reg.THM_STAT) 28 = false ∧ 10 ≤ s.thm.pollsLow ∧ s.boot.railsDown = false ∧ s.thm.clampSince = none) ∧
    (let s := warm [(Reg.THM_STAT, 0x10000000)] (region0 none) core0 { Thermal.zero with pollsOk := 10 }
     flag (s.rd Reg.THM_STAT) 28 = true ∧ 10 ≤ s.thm.pollsOk) ∧
    (let s := warm [(Reg.THM_STAT, 0x10000000), (Reg.THM_FLOW, 0x80000383)] (region0 none) core0 { Thermal.zero with clampSince := some 0 }
     s.thm.clampSince = some 0 ∧ flag (s.rd Reg.THM_STAT) 28 = true ∧ flag (s.rd Reg.THM_FLOW) 31 = true ∧ s.elapsed 0 20000000000 = true) ∧
    (let s := warm [] (region0 none) core0 { Thermal.zero with governed := true, floor := 100, ceiling := 200 }
     (s.thm.governed && decide (10 * 9 < s.thm.floor)) = true ∧ s.thm.floor ≤ 10 * 10 ∧ s.thm.ceiling < 10 * 21 ∧
      s.thm.lastFall = none) := ⟨by decide, by decide, by decide, by decide⟩

/-! ### Faults, repair, test -/

theorem witness_faults : Canonical job ∧ job.pstate 0 = 2 ∧ (job.part 0).stopEpoch = none ∧ (job.part 0).stall = false ∧
    flag (job.rd Reg.FLT_STAT) 31 = false ∧ job.hostReact = false ∧
    (let s := { job with parts := [(0, { job.part 0 with stall := true })] }; s.pstate 0 = 2 ∧ (s.part 0).stall = true) ∧
    (let s := { job with regs := [(Reg.LDR_PART 0, 0x20000000)] }; s.pstate 0 = 1) :=
  ⟨canonical_of (by decide), by decide⟩

/-- After a device-fatal fault of source 43 at time 0, recovery armed. -/
def fatal (now : Long) : State := { restarting none false [(Reg.FLT_STAT, 0xC0000000)] with
  time := now
  flt := { Faults.zero with lastFatal := some 0, lastFatalSource := 43 } }

theorem witness_recovery : Canonical (fatal 200000000000) ∧
    (let s := fatal 200000000000; s.mayRecover = true ∧ s.quietOver = true ∧ flag (s.rd Reg.FLT_STAT) 30 = true ∧ s.hostReact = false ∧
      s.boot.alwaysOn = true ∧ s.boot.stage ≠ some 0 ∧ s.boot.stage ≠ some 1 ∧ s.boot.haltedIn = none ∧ s.fld Reg.FLT_CFG 23 16 ≠ 255) ∧
    (fatal 1).mayRecover = true ∧ (fatal 1).quietOver = false ∧ (restarting none false []).mayRecover = false ∧
    field (0x10000000 : Word) 31 28 = 1 ∧ field (0x20000000 : Word) 31 28 = 2 ∧ (0x20000000 : Word) &&& 0x3FFFFF = 0 :=
  ⟨canonical_of (by decide), by decide, by decide⟩

theorem witness_coreFailure : (let s := plant [] { region0 none with spareFor := some 3 } power0;
      s.dead 0 = false ∧ s.coreFailed 0 16 = false ∧ s.injArmed 6 (some 0) = false ∧ s.spareFree 0 = false ∧ s.holds 0 = false) ∧
    (let s := plant [] (region0 none) power0; s.spareFree 0 = true ∧ s.coreFailed 0 15 = false ∧ s.owner 0 = none ∧ s.holds 0 = false) ∧
    (let s := { plant [(Reg.LDR_PART 0, 0x40000000)] (region0 (some 0)) power0 with flt := { Faults.zero with current := some (0, 1, 0) } };
      s.spareFree 0 = true ∧ s.owner 0 = some 0 ∧ s.flt.current.isSome = true) ∧ Canonical (plant [] (region0 none) power0) :=
  ⟨by decide, by decide, by decide, canonical_of (by decide)⟩

/-- The spare procedure for core 1 of region 0, in state n; the ingest has ended. -/
def repairing (n : Word) : State := { job with
  time := 60000000000
  regs := [(Reg.FLT_REPAIR, n <<< 29), (Reg.LDR_PART 0, 0x60000000)]
  cores := [(0, { core0 with phase := .haltedTB })]
  ing := { Ingest.idle with purpose := 2, closed := true }
  flt := { Faults.zero with current := some (0, 1, 0), shipSince := some 0 } }

theorem witness_repair : (let s := repairing 5; s.flt.current = some (0, 1, 0) ∧ s.fld Reg.FLT_REPAIR 31 29 = 5) ∧
    (let s := repairing 4; s.fld Reg.FLT_REPAIR 31 29 = 4 ∧ s.flt.shipSince = some 0 ∧ s.elapsed 0 60000000000 = true ∧ s.ing.purpose = 2 ∧
      s.ing.part = none ∧ s.ing.closed = true) ∧
    (let s := repairing 1; s.fld Reg.FLT_REPAIR 31 29 = 1 ∧ s.pstate 0 = 3 ∧ (∀ k ∈ (s.part 0).started, (s.coreAt k).phase ≠ .running) ∧
      (s.coreAt (17 * (1 / 17) + 16)).powered = false) ∧
    (let s := repairing 6; s.fld Reg.FLT_REPAIR 31 29 = 6 ∧ s.pstate 0 = 3 ∧ s.flt.queue = []) ∧
    field (0x30000000 : Word) 31 28 = 3 ∧ (0x30000000 : Word) &&& 0x3FFFFF = 0 ∧ field (0x30000000 : Word) 27 22 = 0 ∧ field (0x40000000 : Word) 31 28 = 4 :=
  ⟨by decide, by decide, by decide, by decide, by decide⟩

theorem witness_repairCanonical : Canonical (repairing 5) ∧ Canonical (repairing 4) ∧ Canonical (repairing 1) ∧ Canonical (repairing 6) :=
  ⟨canonical_of (by decide), canonical_of (by decide), canonical_of (by decide), canonical_of (by decide)⟩

theorem witness_resumes : ((repairing 6).step5 0).isSome = true := by decide

theorem witness_inService : Canonical (plant [] (region0 none) power0) ∧
    (let s := plant [] (region0 none) power0
     s.dead 0 = false ∧ (s.region 0).poweringDown = false ∧ s.owner 0 = none ∧ s.istNext 0 (s.fld (Reg.RGNW_IST 0) 31 27) = some 0 ∧
      (s.coreAt 0).suspect = false ∧ (s.region 0).istFailed = 0 ∧ s.fld (Reg.RGNW_IST 0) 26 21 < 63 ∧ s.sec.testMode = false) ∧
    injRefused 0 0 = true ∧ injRefused 0 7 = false ∧ injRefused 0 15 = true ∧ injRefused 6 1 = false ∧
    flag (0x98000000 : Word) 31 = true ∧ field (0x98000000 : Word) 29 26 = 6 := ⟨canonical_of (by decide), by decide, by decide⟩

theorem witness_injection : (let s := { plant [(Reg.FLT_INJ_MASK, 1)] (region0 none) power0 with sec := { Security.zero with testMode := true } }
    s.sec.testMode = true ∧ injRefused 6 (s.rd Reg.FLT_INJ_MASK) = false ∧ injRefused 0 (s.rd Reg.FLT_INJ_MASK) = false) := by decide

/-! ### Management and security -/

/-- A management command of the given OP waits; the management state is f of that. -/
def managing (op : Nat) (l : List (Nat × Word)) (f : Mgmt → Mgmt) (sec : Security) : State := { job with
  time := 60000000000
  regs := l
  mgt := f { Mgmt.zero with cmds := [{ op := op, port := 0, seq := none, block := none }] }
  sec := sec }

/-- A command block whose length at byte 8 is n; whose fields at bytes 0, 1 are x and y. -/
def mblock (x y n rest len : Nat) : Bytes := [BitVec.ofNat 8 x, BitVec.ofNat 8 y] ++ zeros 6 ++ leBytes 8 n ++ leBytes 8 rest ++ leBytes 4 len ++ zeros 4

theorem witness_management : (managing 1 [] id Security.zero).mgt.cmds.head? = some ⟨1, 0, none, none⟩ ∧ (managing 1 [] id Security.zero).mgt.gateWait = none ∧
    leAt (mblock 0 0 0 0 0) 16 4 = 0 ∧ 65536 < leAt (mblock 0 0 0 65537 0) 16 4 ∧ 0 < leAt (mblock 0 0 0 65536 0) 16 4 ∧ leAt (mblock 0 0 0 65536 0) 16 4 ≤ 65536 ∧
    ¬(512 ≤ leAt (mblock 0 0 511 0 0) 8 4) ∧ 512 ≤ leAt (mblock 0 0 512 0 0) 8 4 ∧ leAt (mblock 0 0 512 0 0) 8 4 ≤ 96 * 2 ^ 20 ∧
    ¬(leAt (mblock 0 0 (96 * 2 ^ 20 + 1) 0 0) 8 4 ≤ 96 * 2 ^ 20) ∧ (managing 2 [] id Security.zero).sec.stageOpen = true ∧
    (managing 2 [] id Security.zero).flashOpen = true ∧ (managing 2 [] (fun m => { m with flashTemp := some 255 }) Security.zero).flashOpen = false ∧
    (managing 3 [(Reg.MGT_STAT, 0x10000000)] id Security.zero).fld Reg.MGT_STAT 29 28 < 2 ∧
    2 ≤ (managing 3 [(Reg.MGT_STAT, 0x20000000)] id Security.zero).fld Reg.MGT_STAT 29 28 ∧
    (managing 3 [(Reg.MGT_STAT, 0x20000000)] (fun m => { m with flashTemp := some 597 }) Security.zero).flashOpen = false := by decide

theorem witness_notApproved : (let s := managing 2 [] id { Security.zero with stageOpen := false }; s.sec.stageOpen = false ∧ s.sec.approved = none) := by decide

theorem witness_service : 31 < byteAt (mblock 32 0 0 0 0) 0 ∧ 27 < byteAt (mblock 31 28 0 0 0) 1 ∧ byteAt (mblock 31 27 0 0 0) 0 ≤ 31 ∧ byteAt (mblock 31 27 0 0 0) 1 ≤ 27 ∧
    tabFind (managing 4 [] id Security.zero).mgt.deaths 895 = none ∧ 32 * byteAt (mblock 31 27 0 0 0) 1 + byteAt (mblock 31 27 0 0 0) 0 = 895 ∧
    (let s := managing 4 [] (fun m => { m with deaths := [(895, 3)] }) Security.zero
     s.sec.fusedDead = [] ∧ s.boot.fuses = none ∧ (tabFind s.mgt.deaths 895).isSome = true) ∧
    (managing 4 [] id { Security.zero with fusedDead := [895] }).sec.fusedDead.contains 895 = true := by decide

/-- DEBUG access to partition 0, in space k, by a read or a write. -/
theorem witness_debug : 63 < byteAt (mblock 0 0 64 0 0) 8 ∧ 5 < byteAt (mblock 0 0 (256 * 12) 0 0) 9 / 2 % 8 ∧ 2 ^ 20 < leAt (mblock 0 0 0 0 (2 ^ 20 + 1)) 24 4 ∧
    (let s := managing 6 [(Reg.LDR_PART 0, 0x40000000)] id { Security.zero with debugMask := 1 }
     s.sec.debugMask.getLsbD 0 = true ∧ s.pstate 0 = 2 ∧ ((s.part 0).placed[leAt (mblock 0 0 0 0 0) 10 2]?).map (·.r) = some 0 ∧
      s.physCore 0 0 = some 0 ∧ debugSize 0 < 1048576 + 1 ∧ 1048575 + 1 ≤ debugSize 0) ∧
    (managing 6 [(Reg.LDR_PART 0, 0x40000000)] id Security.zero).sec.debugMask.getLsbD 0 = false ∧
    decide (byteAt (mblock 0 0 256 0 4) 9 % 2 = 1) = true ∧ byteAt (mblock 0 0 256 0 4) 9 / 2 % 8 = 0 ∧
    decide (byteAt (mblock 0 0 (256 * 10) 0 4) 9 % 2 = 1) = false ∧ byteAt (mblock 0 0 (256 * 10) 0 4) 9 / 2 % 8 = 5 := by decide

theorem witness_gates : (let s := managing 1 [] (fun m => { m with lostPending := 3 }) Security.zero; s.flashOpen = true ∧ s.mgt.lostPending ≠ 0 ∧ s.mgt.gateWait = none) ∧
    (let s := managing 2 [] (fun m => { m with gateWait := some (2, 0, []) }) Security.zero
     s.mgt.gateWait = some (2, 0, []) ∧ s.elapsed 0 60000000000 = true) ∧
    (managing 1 [] id Security.zero).sec.rbAuto = false ∧
    (let s := managing 1 [(Reg.STG_STAT, 0x80000000), (Reg.MGT_SVN, 0x01000000)] id { Security.zero with rbAuto := true }
     s.sec.rbAuto = true ∧ flag (s.rd Reg.STG_STAT) 31 = true ∧ s.sec.cntM < s.fld Reg.MGT_SVN 31 24 ∧ s.fuseGate = false) ∧
    (let s := { managing 1 [(Reg.MGT_SVN, 0x01000000)] id Security.zero with thm := { Thermal.zero with welt := [(0, 316)] } }; s.fuseGate = true) := by decide

/-- A request of form op, its body's length n and body b. Its version is 0, so its form is refused: c is 33. That c is 0 rests on the device's identity key, an
open value of `Config`, and on signatures under it: no state can show it; `requestCheck` is a function of that key. -/
def request0 (op n : Nat) (b : Bytes) : Bytes := zeros 4 ++ leBytes 2 op ++ zeros 2 ++ leBytes 4 n ++ zeros 52 ++ b

theorem witness_requests : (∀ op ∈ [1, 2, 3, 4, 5, 6, 7, 8], reqOp (request0 op 8 (zeros 8)) = op ∧
    ({ job with sec := { Security.zero with queue := [(request0 op 8 (zeros 8), none)] } } : State).requestCheck (request0 op 8 (zeros 8)) ≠ 0) := by decide

theorem witness_pcr : (let s := managing 5 [] id { Security.zero with queue := List.replicate 4 (request0 1 8 (zeros 8), none) }
    s.mgt.cmds.head? = some ⟨5, 0, none, none⟩ ∧ 4 ≤ s.sec.queue.length) ∧ leAt (mblock 0 0 335 0 0) 8 4 < 336 ∧ 20816 < leAt (mblock 0 0 20817 0 0) 8 4 ∧
    336 ≤ leAt (mblock 0 0 336 0 0) 8 4 ∧ leAt (mblock 0 0 20816 0 0) 8 4 ≤ 20816 ∧
    (let s := managing 5 [] id { Security.zero with queue := [(request0 1 8 (zeros 8), none)] }; s.sec.queue.length < 4 ∧ s.sec.error = false) := by decide

/-- The security core has the sessions l and the error state e. -/
def talking (e : Bool) (l : List Session) : State := { plant [] (region0 none) power0 with sec := { Security.zero with error := e, sessions := l } }

theorem witness_messages : (talking false []).boot.alwaysOn = true ∧ (talking true []).sec.error = true ∧
    (∀ v ∈ [0x13, 0x10, 0x12], byteAt [(v : Byte)] 0 = v.toNat) ∧ (talking false [⟨0, false, 0⟩, ⟨1, true, 0⟩, ⟨2, true, 0⟩, ⟨3, true, 0⟩]).freeSession = none ∧
    (talking false [⟨0, true, 0⟩]).freeSession = some 1 ∧ (talking false [⟨0, true, 0⟩]).sec.sessions.any (fun x => decide (x.id = 0)) = true ∧
    (talking false []).sec.sessions.any (fun x => decide (x.id = 0)) = false ∧ byteAt [0x13, (0xE0 : Byte)] 1 = 0xE0 ∧ byteAt [0x13, (0 : Byte)] 1 = 0 := by decide

/-! ### Host interface -/

/-- Registers l, rings x of partition 0. -/
def ringing (l : List (Nat × Word)) (x : Rings) : State := { job with
  boot := { State.reset.boot with alwaysOn := true, railsDown := false }
  regs := l
  hif := { HostIf.zero with rings := [(0, x)] } }

theorem witness_rings : Canonical (ringing [(Reg.HIF_XFERn_CFG 1, 0x80000000), (Reg.HIF_RCFG 0, 0x80000000)] { Rings.zero with reserved := 1 }) ∧
    (let s := ringing [(Reg.HIF_XFERn_CFG 1, 0x80000000), (Reg.HIF_RCFG 0, 0x80000000)] { Rings.zero with reserved := 1 }
     s.ringOn 0 = true ∧ indexDiff 0 0 ≤ indexDiff 16 0 ∧ indexDiff 16 0 ≤ s.cmdSize 0 ∧ ¬(indexDiff 17 0 ≤ s.cmdSize 0) ∧ indexDiff 16 0 ≤ s.assSize 0 ∧
      ¬(indexDiff 17 0 ≤ s.assSize 0) ∧ indexDiff 0 0 ≤ indexDiff (s.fld (Reg.HIF_CSTAT 0) 31 16) 0 ∧ indexDiff (s.fld (Reg.HIF_CSTAT 0) 31 16) 0 < indexDiff 1 0 ∧
      indexDiff 16 0 ≤ s.xferSize 1 ∧ ¬(indexDiff 17 0 ≤ s.xferSize 1) ∧ flag (s.rd (Reg.HIF_XFERn_CFG 1)) 31 = true ∧ flag (s.rd (Reg.HIF_XFERn_CFG 0)) 31 = false ∧
      s.mayFetch 0 false = false ∧ s.hif.xferEarly.getD 0 false = false) ∧
    (ringing [] { Rings.zero with reserved := 1 }).ringOn 0 = false := ⟨canonical_of (by decide), by decide, by decide⟩

theorem witness_fetch : (let s := ringing [(Reg.HIF_PORT 0, 0x80000000), (Reg.HIF_RCFG 0, 0x80000000)] { Rings.zero with cmdPi := 1, assPi := 1 }
    s.mayFetch 0 false = true ∧ s.mayFetch 0 true = true) := by decide

/-- An assist entry of 64 bytes: OP, model, ring, tag, region index, length and offset. -/
def assist0 (op model ring idx n off : Nat) : Bytes :=
  [BitVec.ofNat 8 op, 0, BitVec.ofNat 8 model, BitVec.ofNat 8 ring] ++ zeros 8 ++ leBytes 4 idx ++ zeros 8 ++ leBytes 4 n ++ leBytes 4 off ++ zeros 32

/-- Partition 0 serves with the IN_FORCE bits m; the region is f of the keeping one; CACHE_ROWS has one row. -/
def assisting (m : Word) (f : Region → Region) : State := { keeping keeper0 with
  regs := [(Reg.GLB_PMODE 0, m <<< 16), (Reg.LDR_PART 0, 0x40000000), (Reg.RGNW_POOL 0, 0xFF010000), (Reg.RGNW_CACHE_ROWS 0, 1)]
  regions := [(0, f ((keeping keeper0).region 0))]
  parts := [(0, { job.part 0 with serving := some serving0, geoms := [geometry0] })]
  hif := { HostIf.zero with rings := [(0, { Rings.zero with taken := [(true, assist0 1 0 0 0 0 0)] })] } }

theorem witness_taken : ((assisting 4 id).takeRing 0 true (assist0 1 0 0 0 0 0)).isSome = true := by decide

theorem witness_assist : byteAt (assist0 1 0 0 0 0 0) 0 = 1 ∧ (assisting 0 id).hostMode 0 2 = false ∧ (assisting 0 id).hostMode 0 3 = false ∧
    (assisting 4 id).hostMode 0 2 = true ∧ 16 ≤ byteAt (assist0 1 16 0 0 0 0) 2 ∧ (assisting 4 id).ownerOf 0 15 0 = none ∧ (assisting 4 id).ownerOf 0 0 0 = some 0 ∧
    ((assisting 4 id).keeper 0).queue.length < 64 ∧
    64 ≤ ((assisting 4 fun g => { g with keeper := { keeper0 with queue := List.replicate 64 ⟨10, false, 0, 0, .serving⟩ } }).keeper 0).queue.length := by decide

theorem witness_walk : byteAt (assist0 2 0 0 0 32 0) 0 = 2 ∧ 16 ≤ byteAt (assist0 2 16 0 0 32 0) 2 ∧ leAt (assist0 2 0 0 0 32 8) 28 4 % 16 ≠ 0 ∧
    leAt (assist0 2 0 0 0 32 0) 28 4 % 16 = 0 ∧ byteAt (assist0 2 0 3 0 32 0) 3 ≤ 3 ∧ (assisting 4 id).ridx 0 1 = none ∧ (assisting 4 id).ridx 0 0 = some 0 ∧
    (assisting 4 id).geometry 0 15 = none ∧ ((assisting 4 id).geometry 0 0).isSome = true ∧ (assisting 4 id).inTrows 0 0 1025 = false ∧
    (assisting 4 id).inTrows 0 0 1024 = true ∧ ((assisting 4 id).region 0).le.busy = false ∧
    ((assisting 4 fun g => { g with le := { ListEngine.idle with busy := true } }).region 0).le.busy = true := by decide

theorem witness_assistMove : byteAt (assist0 3 0 0 0 0 0) 0 = 3 ∧ (assisting 0 id).hostMode 0 4 = false ∧ (assisting 16 id).hostMode 0 4 = true ∧
    (assisting 16 id).ridx 0 0 = some 0 ∧ ((assisting 16 id).region 0).moves.length < 16 ∧
    (assisting 16 id).moverBad 0 (zeros 18 ++ [0x20] ++ zeros 13) = true ∧ (assisting 16 id).moverBad 0 (zeros 32) = false ∧
    ((assisting 16 id).moverRim 0 (moverDesc (zeros 32) none)).isSome = false := by decide

theorem witness_transfer : (let s := { ringing [(Reg.HIF_PORT 0, 0x80000000), (Reg.HIF_XFER_CFG, 3), (Reg.HIF_XFERn_CFG 0, 0x80000000), (Reg.HIF_XFERn_STAT 0, 0x00010000)] Rings.zero with
      ing := { Ingest.idle with part := some 0 } }
    s.ing.part.isSome = true ∧ s.ing.closed = false ∧ s.fld Reg.HIF_XFER_CFG 1 0 = 3 ∧ flag (s.rd (Reg.HIF_XFERn_CFG 0)) 31 = true ∧ s.portUp 0 = true ∧
      s.fld (Reg.HIF_XFERn_STAT 0) 31 16 ≠ s.fld (Reg.HIF_XFERn_STAT 0) 15 0 ∧ s.hif.xferEnd.getD 0 false = false ∧ s.hif.xferEnd.all id = false) ∧
    job.ing.part.isSome = false := by decide

/-- Vector 3 of port 0 holds off until time 0, with a cause waiting, masked or not. -/
def signalling (masked : Bool) : State := { ringing [(Reg.HIF_PORT 0, 0x80000000)] { Rings.zero with reserved := 1 } with
  hif := { HostIf.zero with msix := [(3, { Machine.Vector.zero with masked := masked, until_ := some 0, waiting := true })] } }

theorem witness_port : Canonical (signalling true) ∧
    (let s := signalling true; s.portUp 0 = true ∧ s.portUp 1 = false ∧ (s.hif.held.filter fun h => decide (h.port = 1)) = [] ∧ s.weltDown = false ∧
      (tabGet Machine.Vector.zero s.hif.msix 3).until_ = some 0 ∧ (tabGet Machine.Vector.zero s.hif.msix 3).waiting = true ∧ (0 : Long).toNat ≤ s.now ∧
      (tabGet Machine.Vector.zero s.hif.msix 3).masked = true ∧ (tabGet Machine.Vector.zero s.hif.msix 4).until_ = none ∧ s.homePort 0 = 0) ∧
    (tabGet Machine.Vector.zero (signalling false).hif.msix 3).masked = false ∧ (0x7 : BitVec 4) ≠ 0xF ∧ State.reset.weltDown = true ∧ onRail Reg.FAB_CFG = true ∧
    Reg.FAB_CFG % 4 = 0 ∧ flag ((ringing [(Reg.MGT_RES, 0x00008000)] Rings.zero).rd Reg.MGT_RES) 15 = true ∧ flag ((signalling true).rd Reg.MGT_RES) 15 = false ∧
    (0x60000000 : Word) &&& 0x0FFF0000 = 0 ∧ 1 ≤ field (0x10000000 : Word) 31 28 ∧ field (0x60000000 : Word) 31 28 ≤ 6 :=
  ⟨canonical_of (by decide), by decide, by decide, by decide, by decide, by decide, by decide, by decide, by decide, by decide, by decide, by decide⟩

/-! ### Edge -/

/-- A frame of a type and sequence number, with ACK and CRED, for DMOD and DCH, of SMOD and SCH, its payload d; end CRC and link CRC are right, or off by x and y. -/
def frame0 (ty seq ack dmod smod dch sch : Nat) (d : Bytes) (x : Nat) : Bytes :=
  let b := leBytes 2 dmod ++ leBytes 2 smod ++ leBytes 2 dch ++ leBytes 2 sch ++ leBytes 2 d.length ++ zeros 18 ++ d
  let a := leBytes 2 (4096 * ty + seq) ++ leBytes 2 ack ++ b ++ leBytes 4 (crc32 b + x)
  a ++ leBytes 4 (crc32 a)

/-- Module 1 with edge port 0 up and in the state x; channel 0 of partition 0, whose key is 5, is bound to it; ingest is from the edge. -/
def edging (x : EdgePort) (l : List (Nat × Word)) : State := { job with
  boot := { State.reset.boot with alwaysOn := true, railsDown := false }
  time := 1000
  regs := l
  ing := { Ingest.idle with part := some 0 }
  edg := { Edge.zero with ports := [(0, x)], chanA := [(0, 0x80000000)], chanB := [(0, 2)] } }

def upRegs : List (Nat × Word) := [(Reg.HIF_XFER_CFG, 2), (Reg.LDR_PART 0, 0x40000000), (Reg.EDG_CFG, 1), (Reg.EDG_ING, 1), (Reg.EDG_PORT 0, 0x40000000)]

theorem witness_edgeSend : (let s := edging { EdgePort.zero with credits := 64 } upRegs
    s.edgeUp 0 = true ∧ s.keyOwner 5 = some 0 ∧ flag (s.chanA 0) 31 = true ∧ s.modId ≠ 0 ∧ s.currentPort 0 = some 0 ∧ (s.edgePort 0).txq.length < 256 ∧
      s.keyOwner 6 = none ∧ s.currentPort 1 ≠ some 1) ∧ (zeros 16).length = 16 ∧ ¬16 ≤ (zeros 15).length ∧
    256 ≤ ((edging { EdgePort.zero with txq := List.replicate 256 (0, []) } upRegs).edgePort 0).txq.length :=
  ⟨by decide, by decide, by decide, by simp [edging, State.edgePort, tabGet, tabFind]⟩

theorem witness_frames : linkOk (frame0 1 0 0 1 2 0 0 [] 0) = true ∧ endCrcBad (frame0 1 0 0 1 2 0 0 [] 0) = false ∧ endCrcBad (frame0 1 0 0 1 2 0 0 [] 1) = true ∧
    frameType (frame0 1 0 0 1 2 0 0 [] 0) = 1 ∧ leAt (frame0 1 0 0 1 2 0 0 [] 0) 0 2 % 4096 = (4095 + 1) % 4096 ∧ linkOk [] = false ∧
    linkOk (frame0 2 0 0 1 2 0 0 [] 0) = true ∧ endCrcBad (frame0 2 0 0 1 2 0 0 [] 0) = false ∧ frameType (frame0 2 0 0 1 2 0 0 [] 0) = 2 ∧
    endCrcBad (frame0 2 0 0 1 2 0 0 [] 1) = true ∧ linkOk (frame0 2 0 0 1 2 0 0 [] 1) = true ∧ linkOk (frame0 1 0 0 1 2 0 0 [] 1) = true ∧
    linkOk (frame0 3 0 0 1 2 0 0 [] 0) = true ∧ endCrcBad (frame0 3 0 0 1 2 0 0 [] 0) = false ∧ frameType (frame0 15 0 0 1 2 0 0 [] 0) = 15 ∧
    linkOk (frame0 0 0 0 0 0 0 0 [] 0) = true ∧ frameType (frame0 0 0 0 0 0 0 0 [] 0) = 0 ∧ leAt (frame0 0 0 0 0 0 0 0 [] 0) 12 2 = 0 := by decide +kernel

theorem witness_edgeRx : (let s := edging { EdgePort.zero with credits := 64 } upRegs
    s.edgeRoom 0 = true ∧ (s.edgePort 0).lastIn = 4095 ∧ (s.edgePort 0).ackOwed = false ∧ s.elapsed (s.edgePort 0).lastControl 1000 = true ∧ s.edgeLoad = true ∧
      flag (s.rd Reg.EDG_ING) 0 = true ∧ (tabFind s.edg.ingest 0).isSome = false ∧ (s.rd Reg.EDG_ING_SEQ).toNat = 0 ∧ s.modId = 1 ∧ field (s.chanB 0) 15 0 = 2 ∧
      s.pstate 0 = 2) ∧
    (let s := edging { EdgePort.zero with replay := [(7, [])], lastControl := 1 } upRegs
     (s.edgePort 0).replay.findIdx? (fun f => decide (f.1 = 7)) = some 0 ∧ (s.edgePort 0).ackOwed = false ∧ (s.edgePort 0).owed = 0 ∧
      s.elapsed (s.edgePort 0).lastControl 1000 = false) ∧
    (edging EdgePort.zero []).edgeUp 0 = false := by decide

theorem witness_edgeFull : (let s := { edging EdgePort.zero upRegs with
      last := grid
      fab := { State.reset.fab with
        endpoints := [(1, place 0 0 (.welt (.edge 0)) true)]
        flits := List.replicate 4 (flit .send 1 5 (.hub 0 9)) } }
    s.edgeRoom 0 = false) := by decide

theorem witness_edgeLinks : (let s := edging { EdgePort.zero with wasWidth := 8 } upRegs; s.edgeUp 0 = true ∧ s.edgeState 0 = 2 ∧ s.weltDown = false ∧ s.edgeState 0 ≠ 3) ∧
    (let s := edging { EdgePort.zero with wasWidth := 8 } [(Reg.LDR_PART 0, 0x40000000), (Reg.EDG_PORT 0, 0x20000000)]; s.edgeState 0 = 1 ∧ s.edgeUp 0 = false) ∧
    (let s := edging { EdgePort.zero with retryAt := some 1000 } [(Reg.LDR_PART 0, 0x40000000), (Reg.EDG_PORT 0, 0x60000000)]
     s.edgeState 0 = 3 ∧ (s.edgePort 0).retryAt = some 1000 ∧ (1000 : Long).toNat ≤ s.now) ∧
    (edging EdgePort.zero [(Reg.EDG_PORT 0, 0x80000000)]).edgeState 0 = 4 ∧ (edging EdgePort.zero []).edgeState 0 = 0 ∧
    field (0x10000000 : Word) 4 0 = 0 ∧ (0x30000000 : Word) &&& 0x0FFFFFE0 = 0     := ⟨by decide, by decide, by decide, by decide, by decide, by decide, by decide⟩

/-- ConfigurationWrites and CapturedReads. -/
theorem witness_plain : Canonical (edging { EdgePort.zero with credits := 64 } upRegs) ∧ (edging { EdgePort.zero with credits := 64 } upRegs).weltDown = false ∧
    Canonical State.reset ∧ State.reset.weltDown = true := ⟨canonical_of (by decide), rfl, canonical_of (by decide), rfl⟩

end Sys2Proof.Tests
end

/-! SUPPORT. The statements of chapter 01's family: the state at reset (O3), and the stages ST5 to ST11 of bring-up (O42). -/

namespace Sys2Proof.Machine

/-! ### The state at reset (O3) -/

/-- Every table of the state at reset is empty. -/
theorem canonical_reset : Canonical State.reset :=
  ⟨⟨rfl, fun _ he => absurd he List.not_mem_nil⟩, rfl, rfl, rfl, rfl, rfl, rfl⟩

/-- With no register listed, each reads its reset value. -/
@[simp] theorem rd_reset (a : Nat) : State.reset.rd a = regReset a := rfl

theorem pstate_reset : ∀ p, p < 64 → State.reset.pstate p = 0 := by decide

/-- The output ring, ring set and precision configuration registers of each partition are not 0 at reset. -/
theorem regReset_partition : ∀ p, p < 64 →
    regReset (Reg.SRV_OUT_CFG p) = 6 ∧ regReset (Reg.HIF_RCFG p) = 0x544 ∧ regReset (Reg.GLB_PRECISION_CFG p) = 0x108 := by decide

/-- Settles O3: every table of the reset state is empty, so each part reads its default and each register its table's reset value. That this is
the module before its first cold start, with units idle and the always-on group off, is the model's choice (notes/assumptions/3.md), as is that memory reads 0
where nothing is listed (10.md). -/
theorem resetState : Obligations.ResetState := by
  have hregs : regReset Reg.GLB_LAST_SHAPE = 0x03000000 ∧ regReset Reg.FAB_CFG = 0x066003E8 ∧ regReset Reg.SRV_CFG = 1 ∧
      regReset Reg.LDR_PWR_LIMIT = 0x7530 ∧ regReset Reg.PWR_BALLAST = 8 ∧ regReset Reg.THM_CFG = 0x001E00C8 ∧ regReset Reg.FLT_CFG = 0x003C0A00 := by
    decide
  obtain ⟨hshape, hfab, hsrv, hldr, hpwr, hthm, hflt⟩ := hregs
  exact ⟨rfl, canonical_reset, fun c hc => absurd hc List.not_mem_nil, rfl, rfl, rfl, rfl, rd_reset, fun _ => rfl, fun _ => rfl, pstate_reset, rfl,
    fun _ => rfl, hshape, hfab, hsrv, hldr, hpwr, hthm, hflt, regReset_partition⟩

/-! ### Folds over the state -/

/-- A fold each of whose steps sets its own property, and under I leaves those of the others, ends with all of them. -/
theorem foldl_sets {α : Type} {I : State → Prop} {Q : α → State → Prop} {f : State → α → State} {l : List α} {s : State}
    (keep : ∀ t, I t → ∀ a ∈ l, I (f t a)) (own : ∀ t, I t → ∀ a ∈ l, Q a (f t a))
    (other : ∀ t, I t → ∀ a ∈ l, ∀ b ∈ l, Q a t → Q a (f t b)) (h : I s) : I (l.foldl f s) ∧ ∀ a ∈ l, Q a (l.foldl f s) := by
  induction l generalizing s with
  | nil => exact ⟨h, fun _ ha => absurd ha List.not_mem_nil⟩
  | cons b l ih =>
    have hb : I (f s b) := keep s h b List.mem_cons_self
    obtain ⟨hI, hQ⟩ := @ih (f s b) (fun t ht a ha => keep t ht a (List.mem_cons_of_mem _ ha)) (fun t ht a ha => own t ht a (List.mem_cons_of_mem _ ha))
      (fun t ht a ha c hc => other t ht a (List.mem_cons_of_mem _ ha) c (List.mem_cons_of_mem _ hc)) hb
    refine ⟨hI, fun a ha => ?_⟩
    rcases List.mem_cons.1 ha with rfl | ha
    · have hstay : I (l.foldl f (f s a)) ∧ Q a (l.foldl f (f s a)) :=
        List.foldlRecOn (motive := fun t => I t ∧ Q a t) l f ⟨hb, own s h a List.mem_cons_self⟩ fun t ht c hc =>
          ⟨keep t ht.1 c (List.mem_cons_of_mem _ hc), other t ht.1 a List.mem_cons_self c (List.mem_cons_of_mem _ hc) ht.2⟩
      exact hstay.2
    · exact hQ a ha

/-- What every step of a fold leaves, the fold leaves. -/
theorem foldl_leaves {α β : Type} (g : State → β) {f : State → α → State} (step : ∀ t a, g (f t a) = g t) (l : List α) (s : State) :
    g (l.foldl f s) = g s :=
  List.foldlRecOn (motive := fun t => g t = g s) l f rfl fun t ht a _ => (step t a).trans ht

/-! ### Which registers an operation may write -/

/-- The tables and memories that the canonical form speaks of. -/
def State.tables (s : State) : Tab Word × Tab Word × Tab Core × Tab Region × Tab Part × Mem × Mem :=
  (s.regs, s.capt, s.cores, s.regions, s.parts, s.rim.mem, s.hostMem)

/-- A state with the same tables is canonical as well. -/
theorem Canonical.of_tables {s t : State} (h : Canonical s) (ht : t.tables = s.tables) : Canonical t := by
  simp only [State.tables, Prod.mk.injEq] at ht
  obtain ⟨hregs, hcapt, hcores, hregions, hparts, hrim, hhost⟩ := ht
  exact ⟨hregs ▸ h.regs, hcapt ▸ h.capt, hcores ▸ h.cores, hregions ▸ h.regions, hparts ▸ h.parts, hrim ▸ h.rimMem, hhost ▸ h.hostMem⟩

/-- State t is canonical, and of its registers only those of w may differ from s. -/
structure WritesIn (w : Nat → Prop) (s t : State) : Prop where
  ok : Canonical t
  rd : ∀ a, ¬w a → t.rd a = s.rd a

theorem WritesIn.refl {w : Nat → Prop} {s : State} (h : Canonical s) : WritesIn w s s := ⟨h, fun _ _ => rfl⟩

theorem WritesIn.fld {w : Nat → Prop} {s t : State} (h : WritesIn w s t) {a : Nat} (ha : ¬w a) (hi lo : Nat) : t.fld a hi lo = s.fld a hi lo := by
  rw [State.fld, h.rd a ha, State.fld]

theorem WritesIn.wr {w : Nat → Prop} {s t : State} (h : WritesIn w s t) {a : Nat} (ha : w a) (v : Word) : WritesIn w s (t.wr a v) :=
  ⟨h.ok.wr a v, fun b hb => by rw [State.rd_wr_ne h.ok v (fun e : b = a => hb (e ▸ ha)), h.rd b hb]⟩

theorem WritesIn.setFld {w : Nat → Prop} {s t : State} (h : WritesIn w s t) {a : Nat} (ha : w a) (hi lo v : Nat) : WritesIn w s (t.setFld a hi lo v) :=
  h.wr ha _

/-- A change that leaves the register table as it is writes no register. -/
theorem WritesIn.of_regs {w : Nat → Prop} {s t u : State} (h : WritesIn w s t) (ok : Canonical u) (hr : u.regs = t.regs) : WritesIn w s u :=
  ⟨ok, fun a ha => by rw [State.rd, hr]; exact h.rd a ha⟩

theorem WritesIn.foldl {α : Type} {w : Nat → Prop} {f : State → α → State} {l : List α} {s t : State}
    (step : ∀ u a, a ∈ l → WritesIn w s u → WritesIn w s (f u a)) (h : WritesIn w s t) : WritesIn w s (l.foldl f t) :=
  List.foldlRecOn l f h fun u hu a ha => step u a ha hu

/-! ### Stage records (R390, R391) -/

/-- The space of STG_STAT and the records of the twelve stages. -/
def stageReg (a : Nat) : Prop := 0x20000 ≤ a ∧ a < 0x201C0

/-- Registers below that space and above it are apart from it. -/
theorem not_stageReg {a : Nat} (h : a < 0x20000 ∨ 0x201C0 ≤ a) : ¬stageReg a := by
  rw [stageReg]
  omega

theorem stageReg_stat : stageReg Reg.STG_STAT := by simp [stageReg, Reg.STG_STAT]

theorem stageReg_record {n : Nat} (hn : n < 12) :
    stageReg (Reg.STG_REC_A n) ∧ stageReg (Reg.STG_REC_B n) ∧ stageReg (Reg.STG_REC_C n) ∧ stageReg (Reg.STG_REC_D n) := by
  simp only [stageReg, Reg.STG_REC_A, Reg.STG_REC_B, Reg.STG_REC_C, Reg.STG_REC_D]
  omega

theorem State.addLocus_writesIn {s t : State} (h : WritesIn stageReg s t) {n : Nat} (hn : n < 12) (w : Word) : WritesIn stageReg s (t.addLocus n w) := by
  obtain ⟨ha, -, -, hd⟩ := stageReg_record hn
  have hrec : WritesIn stageReg s ((if t.fld (Reg.STG_REC_A n) 15 0 = 0 then t.wr (Reg.STG_REC_D n) w else t).bumpSat (Reg.STG_REC_A n) 15 0) := by
    split
    · exact (h.wr hd w).wr ha _
    · exact h.wr ha _
  refine hrec.of_regs (State.addLocus_kept h.ok.kept n w).ok ?_
  rw [State.addLocus]
  dsimp only
  split
  · split <;> rfl
  · split <;> rfl

theorem State.addLoci_writesIn {s t : State} (h : WritesIn stageReg s t) {n : Nat} (hn : n < 12) (ws : List Word) : WritesIn stageReg s (t.addLoci n ws) :=
  h.foldl fun _ w _ hu => State.addLocus_writesIn hu hn w

theorem State.endStage_writesIn {s t : State} (h : WritesIn stageReg s t) {n : Nat} (hn : n < 12) : WritesIn stageReg s (t.endStage n) :=
  (h.setFld (stageReg_record hn).1 _ _ _).wr (stageReg_record hn).2.1 _

theorem State.beginStage_writesIn {s t : State} (h : WritesIn stageReg s t) {n : Nat} (hn : n < 12) : WritesIn stageReg s (t.beginStage n) := by
  obtain ⟨ha, hb, hc, hd⟩ := stageReg_record hn
  have hblank : WritesIn stageReg s (t.blankRecord n 1) := (((h.wr ha _).wr hb _).wr hc _).wr hd _
  exact ((hblank.wr hc _).setFld stageReg_stat 27 24 n).of_regs (State.beginStage_kept h.ok.kept n).ok rfl

theorem State.passStage_writesIn {s t : State} (h : WritesIn stageReg s t) {n : Nat} (hn : n + 1 < 12) (ws : List Word) :
    WritesIn stageReg s (t.passStage n ws) :=
  State.beginStage_writesIn (State.endStage_writesIn (State.addLoci_writesIn h (Nat.lt_of_succ_lt hn) ws) (Nat.lt_of_succ_lt hn)) hn

/-- What bring-up builds and tests, beside its records. -/
structure Built where
  last : Last
  pendLast : Option Last
  cores : Tab Core
  regions : Tab Region
  rim : Rim
  fab : Fabric

def State.built (s : State) : Built := ⟨s.last, s.pendLast, s.cores, s.regions, s.rim, s.fab⟩

theorem State.addLocus_leaves (s : State) (n : Nat) (w : Word) :
    (s.addLocus n w).built = s.built ∧ (s.addLocus n w).boot.stage = s.boot.stage := by
  rw [State.addLocus]
  dsimp only
  split
  · split <;> simp [State.built]
  · split <;> simp [State.built]

/-- Loci go to a stage's record and to the log of loci. -/
theorem State.addLoci_built (s : State) (n : Nat) (ws : List Word) : (s.addLoci n ws).built = s.built :=
  foldl_leaves State.built (fun t w => (t.addLocus_leaves n w).1) ws s

@[simp] theorem State.addLoci_stage (s : State) (n : Nat) (ws : List Word) : (s.addLoci n ws).boot.stage = s.boot.stage :=
  foldl_leaves (fun t => t.boot.stage) (fun t w => (t.addLocus_leaves n w).2) ws s

@[simp] theorem State.addLoci_last (s : State) (n : Nat) (ws : List Word) : (s.addLoci n ws).last = s.last :=
  congrArg Built.last (s.addLoci_built n ws)

/-- A stage that ends has passed, with loss or without (R390). -/
theorem State.endStage_status {s : State} (h : Canonical s) (n : Nat) :
    (s.endStage n).fld (Reg.STG_REC_A n) 27 24 = 2 ∨ (s.endStage n).fld (Reg.STG_REC_A n) 27 24 = 3 := by
  have hne : Reg.STG_REC_A n ≠ Reg.STG_REC_B n := by simp only [Reg.STG_REC_A, Reg.STG_REC_B]; omega
  have hst : ∀ v, (s.closeRecord n v).fld (Reg.STG_REC_A n) 27 24 = v % 16 := fun v => by
    rw [State.closeRecord, State.fld, State.rd_wr_ne (h.setFld _ _ _ _) _ hne]
    exact State.fld_setFld h _ 27 24 v (by decide)
  rw [State.endStage, hst]
  split
  · exact .inl rfl
  · exact .inr rfl

/-- Passing a stage writes records, and what bring-up keeps of its stages. -/
theorem State.passStage_built (s : State) (n : Nat) (ws : List Word) : (s.passStage n ws).built = s.built := by
  have hbegin : ∀ t : State, (t.beginStage (n + 1)).built = t.built := fun t => by simp [State.built, State.beginStage, State.blankRecord]
  have hend : ∀ t : State, (t.endStage n).built = t.built := fun t => by simp [State.built, State.endStage, State.closeRecord]
  rw [State.passStage, hbegin, hend, State.addLoci_built]

@[simp] theorem State.passStage_pendLast (s : State) (n : Nat) (ws : List Word) : (s.passStage n ws).pendLast = s.pendLast :=
  congrArg Built.pendLast (s.passStage_built n ws)
@[simp] theorem State.passStage_coreAt (s : State) (n : Nat) (ws : List Word) (k : Nat) : (s.passStage n ws).coreAt k = s.coreAt k := by
  have hcores : (s.passStage n ws).cores = s.cores := congrArg Built.cores (s.passStage_built n ws)
  rw [State.coreAt, hcores, State.coreAt]
@[simp] theorem State.passStage_rim (s : State) (n : Nat) (ws : List Word) : (s.passStage n ws).rim = s.rim :=
  congrArg Built.rim (s.passStage_built n ws)
@[simp] theorem State.passStage_fab (s : State) (n : Nat) (ws : List Word) : (s.passStage n ws).fab = s.fab :=
  congrArg Built.fab (s.passStage_built n ws)

/-! ### The cores of a region and its power -/

/-- What each core reads after the cores of a region change: core k of region r has key 17r + k. -/
theorem State.coreAt_mapCores {s : State} (h : Canonical s) (r : Nat) (f : Nat → Core → Core) (i : Nat) :
    (s.mapCores r f).coreAt i = if 17 * r ≤ i ∧ i < 17 * r + 17 then f (i - 17 * r) (s.coreAt i) else s.coreAt i := by
  have hpre : ∀ n, Canonical ((List.range n).foldl (fun s k => s.modCoreAt (17 * r + k) (f k)) s) ∧
      ((List.range n).foldl (fun s k => s.modCoreAt (17 * r + k) (f k)) s).coreAt i =
        if 17 * r ≤ i ∧ i < 17 * r + n then f (i - 17 * r) (s.coreAt i) else s.coreAt i := by
    intro n
    induction n with
    | zero => exact ⟨h, by rw [if_neg (by omega)]; rfl⟩
    | succ n ih =>
      obtain ⟨ok, hc⟩ := ih
      rw [List.range_succ, List.foldl_append, List.foldl_cons, List.foldl_nil]
      refine ⟨ok.modCoreAt _ _, ?_⟩
      rw [State.coreAt_modCoreAt ok]
      by_cases hi : i = 17 * r + n
      · subst hi
        rw [if_pos rfl, hc, if_neg (by omega), if_pos (by omega), Nat.add_sub_cancel_left]
      · rw [if_neg hi, hc]
        exact if_congr (by omega) rfl rfl
  exact (hpre 17).2

@[simp] theorem State.mapCores_regs (s : State) (r : Nat) (f : Nat → Core → Core) : (s.mapCores r f).regs = s.regs := by
  rw [State.mapCores]
  exact foldl_leaves State.regs (fun t k => t.modCoreAt_regs _ _) _ s
@[simp] theorem State.mapCores_regions (s : State) (r : Nat) (f : Nat → Core → Core) : (s.mapCores r f).regions = s.regions := by
  rw [State.mapCores]
  exact foldl_leaves State.regions (fun t k => t.modCoreAt_regions _ _) _ s
@[simp] theorem State.mapCores_pendLast (s : State) (r : Nat) (f : Nat → Core → Core) : (s.mapCores r f).pendLast = s.pendLast := by
  rw [State.mapCores]
  exact foldl_leaves State.pendLast (fun t k => t.modCoreAt_pendLast _ _) _ s
@[simp] theorem State.mapCores_region (s : State) (r : Nat) (f : Nat → Core → Core) (i : Nat) : (s.mapCores r f).region i = s.region i := by
  rw [State.region, State.mapCores_regions, State.region]

theorem Canonical.cutPower {s : State} (h : Canonical s) (r : Nat) : Canonical (s.cutPower r) := (State.cutPower_kept h.kept r).ok

@[simp] theorem State.cutPower_regs (s : State) (r : Nat) : (s.cutPower r).regs = s.regs := by
  rw [State.cutPower, State.modRegion_regs, State.mapCores_regs]
@[simp] theorem State.cutPower_pendLast (s : State) (r : Nat) : (s.cutPower r).pendLast = s.pendLast := by
  rw [State.cutPower, State.modRegion_pendLast, State.mapCores_pendLast]

/-- A region without power has lost the bonded memory of its slices; those of other regions stay. -/
theorem State.slice_cutPower {s : State} (h : Canonical s) (r i : Nat) :
    ((s.cutPower r).coreAt i).slice = if 17 * r ≤ i ∧ i < 17 * r + 17 then [] else (s.coreAt i).slice := by
  rw [State.cutPower, State.modRegion_coreAt_frame, State.coreAt_mapCores h]
  split <;> rfl

/-- A region dead from the start shows its cause. -/
theorem State.cause_deadAtStart {s : State} (h : Canonical s) (r cause : Nat) : ((s.deadAtStart r cause).region r).cause = cause := by
  rw [State.deadAtStart, State.region_modRegion (h.cutPower r), if_pos rfl]

/-! ### ST5: a region's self-test -/

/-- The state of a region that passes: rails and hub on, its service program running. -/
def Region.passed (g : Region) : Region := { g with pstate := 1, hubOn := true, seq := { g.seq with state := 1 } }

/-- Mapping the spare changes nothing of a region but the core it serves for. -/
theorem State.region_mapSpare {s : State} (h : Canonical s) (r : Nat) :
    ∃ spare, (s.mapSpare r).region r = { s.region r with spareFor := spare } :=
  ⟨_, by rw [State.mapSpare, State.mapCores_region, State.region_modRegion h, if_pos rfl]⟩

/-- The fields of RGNW_PWR_PHASE that ST5 writes of a region without a failed phase. -/
def State.noPhasesLost (s : State) (r : Nat) : State := (s.setFld (Reg.RGNW_PWR_PHASE r) 15 8 0).setFld (Reg.RGNW_PWR_PHASE r) 19 16 0

/-- A region without a failed core or phase, and without a cause of its own, passes (R383). -/
theorem State.selfTestRegion_pass (s : State) (f : Fuses) (hf : f.badCores = []) (r : Nat) :
    s.selfTestRegion f ⟨r, 0, [], 0, 0⟩ = ((((s.noPhasesLost r).modRegion r Region.passed).mapSpare r).showLimit r).showRail r := by
  have hbits : bitsOf (BitVec.ofNat 8 0) = [] := by decide
  simp [State.selfTestRegion, hf, hbits]
  rfl

/-- A region whose test names a cause is dead with it (R383). -/
theorem State.selfTestRegion_cause (s : State) (f : Fuses) (hf : f.badCores = []) (r : Nat) {c : Nat} (hc : c ≠ 0) :
    s.selfTestRegion f ⟨r, c, [], 0, 0⟩ = (s.deadAtStart r c).addLocus 5 (locus 3 c (regionPlace r)) := by
  simp [State.selfTestRegion, hf, hc]

/-- What a region passes with (R383). -/
theorem State.region_selfTestRegion_pass {s : State} (h : Canonical s) (f : Fuses) (hf : f.badCores = []) (r : Nat) :
    ∃ spare, (s.selfTestRegion f ⟨r, 0, [], 0, 0⟩).region r = { (s.region r).passed with spareFor := spare } := by
  have hphase : Canonical (s.noPhasesLost r) := (h.setFld _ 15 8 0).setFld _ 19 16 0
  obtain ⟨spare, hspare⟩ := State.region_mapSpare (hphase.modRegion r Region.passed) r
  refine ⟨spare, ?_⟩
  rw [State.selfTestRegion_pass s f hf, State.showRail, State.setFld_region_frame, State.setFld_region_frame, State.showLimit, State.setFld_region_frame,
    hspare, State.region_modRegion hphase, if_pos rfl, State.noPhasesLost, State.setFld_region_frame, State.setFld_region_frame]

theorem State.cause_selfTestRegion {s : State} (h : Canonical s) (f : Fuses) (hf : f.badCores = []) (r : Nat) {c : Nat} (hc : c ≠ 0) :
    ((s.selfTestRegion f ⟨r, c, [], 0, 0⟩).region r).cause = c := by
  have hframe := ((s.deadAtStart r c).addLocus_leaves 5 (locus 3 c (regionPlace r))).1
  have hregions : ((s.deadAtStart r c).addLocus 5 (locus 3 c (regionPlace r))).regions = (s.deadAtStart r c).regions :=
    congrArg Built.regions hframe
  rw [State.selfTestRegion_cause s f hf r hc, State.region, hregions]
  exact State.cause_deadAtStart h r c

/-! ### ST7: zero rows, and the last that is final -/

/-- ST7 makes the last of what is left alive the one in force, final and with none pending. -/
def State.makeFinal (s : State) : State :=
  ((({ s with last := s.computeLast, pendLast := none }).setFld Reg.GLB_LAST_STAT 0 0 1).setFld Reg.GLB_LAST_STAT 31 16 1).publishLast

/-- ST7 shows a powered region's spare rows, and takes its power when it is outside the grid. -/
def State.keepInGrid (s : State) (r : Nat) : State :=
  if (s.region r).pstate = 0 then s
  else
    let s := s.showSpares r
    if s.last.inGrid r || s.last.noGrid && decide ((s.last.col (r % 32)).removed = 0) then s
    else (s.cutPower r).modRegion r fun g => { g with hubOn := false }

theorem execSt7MemoryTest_of_stage {s : State} (h : s.inStage 7 = true) (l : List MemTest) :
    execSt7MemoryTest l s = .next (((List.range 896).foldl State.keepInGrid (l.foldl State.memTest s).clearSlices.makeFinal).passStage 7 []) := by
  rw [execSt7MemoryTest, h, if_neg (by decide)]
  unfold State.makeFinal State.keepInGrid
  rfl

/-- Every row of bonded memory reads zero, and the last is final with none pending. -/
structure Zeroed (s : State) : Prop where
  ok : Canonical s
  final : s.lastFinal = true
  noPend : s.pendLast = none
  slices : ∀ k, (s.coreAt k).slice = []

theorem Zeroed.cutPower {s : State} (h : Zeroed s) (r : Nat) : Zeroed (s.cutPower r) where
  ok := h.ok.cutPower r
  final := by rw [State.lastFinal, State.rd, State.cutPower_regs]; exact h.final
  noPend := by rw [State.cutPower_pendLast, h.noPend]
  slices k := by rw [State.slice_cutPower h.ok, h.slices k, ite_self]

theorem Zeroed.modRegion {s : State} (h : Zeroed s) (r : Nat) (f : Region → Region) : Zeroed (s.modRegion r f) :=
  ⟨h.ok.modRegion r f, h.final, h.noPend, h.slices⟩

theorem Zeroed.setFld {s : State} (h : Zeroed s) {a : Nat} (ha : Reg.GLB_LAST_STAT ≠ a) (hi lo v : Nat) : Zeroed (s.setFld a hi lo v) :=
  ⟨h.ok.setFld a hi lo v, by rw [State.lastFinal, State.rd_setFld h.ok, if_neg ha]; exact h.final, h.noPend, h.slices⟩

theorem Zeroed.keepInGrid {s : State} (h : Zeroed s) (r : Nat) : Zeroed (s.keepInGrid r) := by
  have hne : Reg.GLB_LAST_STAT ≠ Reg.RGNW_MEM_REPAIR r := by
    simp only [Reg.GLB_LAST_STAT, Reg.RGNW_MEM_REPAIR, winBase]
    omega
  have hshow : Zeroed (s.showSpares r) := (h.setFld hne 20 16 _).setFld hne 7 0 _
  rw [State.keepInGrid]
  split
  · exact h
  · dsimp only
    split
    · exact hshow
    · exact (hshow.cutPower r).modRegion r _

/-- Writing GLB_LAST_STAT above bit 0 leaves FINAL. -/
theorem State.lastFinal_setFld {s : State} (h : Canonical s) {hi lo v : Nat} (hlo : 0 < lo) :
    (s.setFld Reg.GLB_LAST_STAT hi lo v).lastFinal = s.lastFinal := by
  rw [State.lastFinal, State.rd_setFld h, if_pos rfl, flag_setField_apart _ _ _ _ _ (.inl hlo), State.lastFinal]

/-- Showing a last leaves FINAL. -/
theorem State.lastFinal_publishLast {s : State} (h : Canonical s) : s.publishLast.lastFinal = s.lastFinal := by
  have hwr : ∀ t : State, Canonical t → ∀ {a : Nat}, Reg.GLB_LAST_STAT ≠ a → ∀ v, (t.wr a v).lastFinal = t.lastFinal := fun t ht a ha v => by
    rw [State.lastFinal, State.rd_wr_ne ht v ha, State.lastFinal]
  have hshape := h.wr Reg.GLB_LAST_SHAPE s.last.shapeWord
  have hpend := hshape.wr Reg.GLB_LAST_PEND_SHAPE (s.pendLast.getD s.last).shapeWord
  rw [State.publishLast, State.lastFinal_setFld ((hpend.setFld _ _ _ _).setFld _ _ _ _) (by decide), State.lastFinal_setFld (hpend.setFld _ _ _ _) (by decide),
    State.lastFinal_setFld hpend (by decide), hwr _ hshape (by decide), hwr _ h (by decide)]

/-- What holds of a table's default and of its entries holds of what it reads. -/
theorem tabGet_of_forall {α : Type} {P : α → Prop} {d : α} {t : Tab α} (hd : P d) (ht : ∀ e ∈ t, P e.2) (k : Nat) : P (tabGet d t k) := by
  induction t with
  | nil => exact hd
  | cons e r ih =>
    rw [tabGet, tabFind]
    split
    · exact ht e List.mem_cons_self
    · exact ih fun e he => ht e (List.mem_cons_of_mem _ he)

/-- A slice that has been cleared reads zero. -/
theorem State.slice_clearSlices (s : State) (k : Nat) : (s.clearSlices.coreAt k).slice = [] := by
  refine tabGet_of_forall (P := fun c : Core => c.slice = []) rfl (fun e he => ?_) k
  obtain ⟨e, -, rfl⟩ := List.mem_map.1 (List.mem_filter.1 he).1
  rfl

theorem State.makeFinal_zeroed {s : State} (h : Canonical s) (hz : ∀ k, (s.coreAt k).slice = []) : Zeroed s.makeFinal := by
  have hs : Canonical { s with last := s.computeLast, pendLast := none } := h.of_tables rfl
  have hfin := hs.setFld Reg.GLB_LAST_STAT 0 0 1
  have hgen := hfin.setFld Reg.GLB_LAST_STAT 31 16 1
  refine ⟨(State.publishLast_kept hgen.kept).ok, ?_, rfl, hz⟩
  rw [State.makeFinal, State.lastFinal_publishLast hgen, State.lastFinal_setFld hfin (by decide), State.lastFinal, State.rd_setFld hs, if_pos rfl,
    flag_setField _ _ _ (by decide)]
  rfl

/-- ST7 leaves every row zero and the last final, and passes to ST8 (R384). -/
theorem st7_zeroes {s : State} (ok : Canonical s) (h : s.boot.stage = some 7) (l : List MemTest) : Completes (.st7MemoryTest l) s fun t =>
    t.boot.stage = some 8 ∧ t.lastFinal = true ∧ t.pendLast = none ∧ ∀ k, (t.coreAt k).slice = [] := by
  have htests : Canonical (l.foldl State.memTest s) := (kept_foldl (fun _ t hu => State.memTest_kept hu t) ok.kept).ok
  have hstart : Zeroed (l.foldl State.memTest s).clearSlices.makeFinal :=
    State.makeFinal_zeroed (State.clearSlices_kept htests.kept).ok (State.slice_clearSlices _)
  have hend : Zeroed ((List.range 896).foldl State.keepInGrid (l.foldl State.memTest s).clearSlices.makeFinal) :=
    List.foldlRecOn _ _ hstart fun _ ht r _ => ht.keepInGrid r
  refine ⟨_, execSt7MemoryTest_of_stage (decide_eq_true h) l, rfl, ?_, ?_, fun k => ?_⟩
  · have hrecs := State.passStage_writesIn (WritesIn.refl hend.ok) (n := 7) (by decide) []
    rw [State.lastFinal, hrecs.rd _ (not_stageReg (.inl (by decide)))]
    exact hend.final
  · rw [State.passStage_pendLast, hend.noPend]
  · rw [State.passStage_coreAt, hend.slices k]

/-! ### ST8: the rim stacks -/

/-- RIM_STACK of a stack with these live channels: STATE, LIVE and CAP_GIB (Table 09-10). -/
def stackWord (m : Word) : Word :=
  BitVec.ofNat 32 ((if (bitsOf m).length = 0 then 3 else 1) * 2 ^ 30 + (bitsOf m).length * 2 ^ 24 + 3 * (bitsOf m).length * 2 ^ 17)

theorem length_bitsOf_le {w : Nat} (x : BitVec w) : (bitsOf x).length ≤ w :=
  (List.length_filter_le _ _).trans_eq List.length_range

/-- A word without set bits is 0. -/
theorem length_bitsOf_eq_zero {w : Nat} (x : BitVec w) : (bitsOf x).length = 0 ↔ x = 0 := by
  rw [List.length_eq_zero_iff, bitsOf, List.filter_eq_nil_iff]
  constructor
  · intro h
    apply BitVec.eq_of_getLsbD_eq
    intro i hi
    simpa using h i (List.mem_range.2 hi)
  · rintro rfl i -
    simp

theorem field_stackWord (m : Word) :
    field (stackWord m) 31 30 = (if m = 0 then 3 else 1) ∧ field (stackWord m) 29 24 = (bitsOf m).length := by
  have hle := length_bitsOf_le m
  have hst : (if (bitsOf m).length = 0 then 3 else 1 : Nat) = if m = 0 then 3 else 1 := if_congr (length_bitsOf_eq_zero m) rfl rfl
  have hst' : (if m = 0 then 3 else 1 : Nat) ≤ 3 := by split <;> omega
  simp only [field, stackWord, hst, BitVec.toNat_ofNat, Nat.shiftRight_eq_div_pow]
  generalize (if m = 0 then 3 else 1 : Nat) = st at *
  have hlt : st * 2 ^ 30 + (bitsOf m).length * 2 ^ 24 + 3 * (bitsOf m).length * 2 ^ 17 < 2 ^ 32 := by omega
  have hstate : (st * 2 ^ 30 + (bitsOf m).length * 2 ^ 24 + 3 * (bitsOf m).length * 2 ^ 17) / 2 ^ 30 = st := by omega
  have hchans : (st * 2 ^ 30 + (bitsOf m).length * 2 ^ 24 + 3 * (bitsOf m).length * 2 ^ 17) / 2 ^ 24 = 64 * st + (bitsOf m).length := by omega
  rw [Nat.mod_eq_of_lt hlt, hstate, hchans]
  omega

theorem not_stageReg_rim (i : Nat) : ¬stageReg (Reg.RIM_STACK i) ∧ ¬stageReg (Reg.RIM_CHAN i) :=
  ⟨not_stageReg (.inr (by simp only [Reg.RIM_STACK]; omega)), not_stageReg (.inr (by simp only [Reg.RIM_CHAN]; omega))⟩

/-- Training a stack writes its two registers, and loci. -/
theorem State.trainStack_writesIn {s : State} (h : Canonical s) (i : Nat) (m : Word) :
    WritesIn stageReg ((s.wr (Reg.RIM_STACK i) (stackWord m)).wr (Reg.RIM_CHAN i) m) (s.trainStack i m) := by
  have hstart := WritesIn.refl (w := stageReg) ((h.wr (Reg.RIM_STACK i) (stackWord m)).wr (Reg.RIM_CHAN i) m)
  rw [State.trainStack, ← stackWord]
  have hchans : ∀ ws, WritesIn stageReg ((s.wr (Reg.RIM_STACK i) (stackWord m)).wr (Reg.RIM_CHAN i) m)
      (((s.wr (Reg.RIM_STACK i) (stackWord m)).wr (Reg.RIM_CHAN i) m).addLoci 8 ws) := State.addLoci_writesIn hstart (by decide)
  split
  · refine State.addLocus_writesIn ?_ (by decide) _
    split
    · exact hstart
    · exact hchans _
  · split
    · exact hstart
    · exact hchans _

/-- The registers of stack i show the live channels m. -/
structure StackShows (i : Nat) (m : Word) (s : State) : Prop where
  chan : s.rd (Reg.RIM_CHAN i) = m
  stack : s.rd (Reg.RIM_STACK i) = stackWord m

theorem StackShows.of_writesIn {w : Nat → Prop} {s t : State} {i : Nat} {m : Word} (h : StackShows i m s) (ht : WritesIn w s t)
    (hw : ¬w (Reg.RIM_STACK i) ∧ ¬w (Reg.RIM_CHAN i)) : StackShows i m t :=
  ⟨by rw [ht.rd _ hw.2, h.chan], by rw [ht.rd _ hw.1, h.stack]⟩

theorem StackShows.trained {s : State} (h : Canonical s) (i : Nat) (m : Word) : StackShows i m (s.trainStack i m) := by
  have hne : Reg.RIM_STACK i ≠ Reg.RIM_CHAN i := by simp only [Reg.RIM_STACK, Reg.RIM_CHAN]; omega
  have hstack := h.wr (Reg.RIM_STACK i) (stackWord m)
  exact StackShows.of_writesIn ⟨State.rd_wr_same hstack _ _, by rw [State.rd_wr_ne hstack _ hne, State.rd_wr_same h]⟩
    (State.trainStack_writesIn h i m) (not_stageReg_rim i)

/-- Training another stack leaves what this one shows. -/
theorem StackShows.trainStack {s : State} (ok : Canonical s) {i j : Nat} {m : Word} (h : StackShows i m s) (hij : i ≠ j) (m' : Word) :
    StackShows i m (s.trainStack j m') := by
  have hne : Reg.RIM_CHAN i ≠ Reg.RIM_CHAN j ∧ Reg.RIM_CHAN i ≠ Reg.RIM_STACK j ∧ Reg.RIM_STACK i ≠ Reg.RIM_CHAN j ∧ Reg.RIM_STACK i ≠ Reg.RIM_STACK j := by
    simp only [Reg.RIM_STACK, Reg.RIM_CHAN]
    omega
  obtain ⟨hcc, hcs, hsc, hss⟩ := hne
  have hstack := ok.wr (Reg.RIM_STACK j) (stackWord m')
  exact StackShows.of_writesIn ⟨by rw [State.rd_wr_ne hstack _ hcc, State.rd_wr_ne ok _ hcs, h.chan],
    by rw [State.rd_wr_ne hstack _ hsc, State.rd_wr_ne ok _ hss, h.stack]⟩ (State.trainStack_writesIn ok j m') (not_stageReg_rim i)

/-- Rim memory without content, clearing and shared extents. -/
def State.emptyRim (s : State) : State := { s with rim := { mem := [], clearing := [], sharedExts := [] } }

theorem Canonical.emptyRim {s : State} (h : Canonical s) : Canonical s.emptyRim := { h with rimMem := rfl }

/-- Once ST8 has trained the stacks, rim memory is empty and RIM_TOTAL is written. -/
theorem execSt8RimTraining_of_stage {s : State} (h : s.inStage 8 = true) (l : List Word) :
    ∃ total, execSt8RimTraining l s = .next
      ((((List.range 16).foldl (fun t i => t.trainStack i (l.getD i 0)) s).wr Reg.RIM_TOTAL total).emptyRim.passStage 8 []) := by
  rw [execSt8RimTraining, h, if_neg (by decide)]
  exact ⟨_, rfl⟩

/-- ST8 trains the stacks: each shows its live channels, and rim content is not kept (R241, R389). -/
theorem st8_trains {s : State} (ok : Canonical s) (h : s.boot.stage = some 8) (l : List Word) : Completes (.st8RimTraining l) s fun t =>
    t.boot.stage = some 9 ∧ t.rim.mem = [] ∧ ∀ i, i < 16 → StackShows i (l.getD i 0) t := by
  obtain ⟨total, hexec⟩ := execSt8RimTraining_of_stage (decide_eq_true h) l
  obtain ⟨hok, hshow⟩ := foldl_sets (I := Canonical) (Q := fun i t => StackShows i (l.getD i 0) t) (f := fun t i => t.trainStack i (l.getD i 0))
    (l := List.range 16) (fun _ ht i _ => (State.trainStack_kept ht.kept i _).ok) (fun _ ht i _ => StackShows.trained ht i _)
    (fun t ht i _ j _ hi => (Decidable.eq_or_ne i j).elim (fun e => e ▸ StackShows.trained ht i _) fun hij => hi.trainStack ht hij _) ok
  have htotal := (WritesIn.refl (w := fun a => a = Reg.RIM_TOTAL) hok).wr rfl total
  have hrim := htotal.of_regs htotal.ok.emptyRim rfl
  have hpass := State.passStage_writesIn (n := 8) (WritesIn.refl hrim.ok) (by decide) []
  refine ⟨_, hexec, rfl, by rw [State.passStage_rim]; rfl, fun i hi => ?_⟩
  have hne : Reg.RIM_STACK i ≠ Reg.RIM_TOTAL ∧ Reg.RIM_CHAN i ≠ Reg.RIM_TOTAL := by
    simp only [Reg.RIM_STACK, Reg.RIM_CHAN, Reg.RIM_TOTAL]
    omega
  exact ((hshow i (List.mem_range.2 hi)).of_writesIn hrim hne).of_writesIn hpass (not_stageReg_rim i)

/-! ### ST9: ports in use -/

/-- ST9 brings port e of a hub up, and sets its counters to 0 (R232, R385). -/
def State.bringUp (s : State) (e : Nat × Nat) : State :=
  ((s.setFld (Reg.RGNW_HUB_LINK e.1) (2 * e.2 + 1) (2 * e.2) 1).wr (Reg.RGNW_HUB_FLITS e.1 e.2) 0).wr (Reg.RGNW_HUB_HOLD e.1 e.2) 0

theorem Canonical.bringUp {s : State} (h : Canonical s) (e : Nat × Nat) : Canonical (s.bringUp e) := ((h.setFld _ _ _ _).wr _ _).wr _ _

/-- A port that comes up is up, and the others stay as they are. -/
theorem State.linkState_bringUp {s : State} (h : Canonical s) (e : Nat × Nat) (he : e.2 < 10) (a : Nat × Nat) :
    (s.bringUp e).linkState a.1 a.2 = if a = e then 1 else s.linkState a.1 a.2 := by
  have hlink := h.setFld (Reg.RGNW_HUB_LINK e.1) (2 * e.2 + 1) (2 * e.2) 1
  have hne : Reg.RGNW_HUB_LINK a.1 ≠ Reg.RGNW_HUB_HOLD e.1 e.2 ∧ Reg.RGNW_HUB_LINK a.1 ≠ Reg.RGNW_HUB_FLITS e.1 e.2 := by
    simp only [Reg.RGNW_HUB_LINK, Reg.RGNW_HUB_HOLD, Reg.RGNW_HUB_FLITS, winBase]
    omega
  rw [State.linkState, State.fld, State.bringUp, State.rd_wr_ne (hlink.wr _ _) _ hne.1, State.rd_wr_ne hlink _ hne.2, ← State.fld]
  by_cases hr : a.1 = e.1
  · by_cases hq : a.2 = e.2
    · rw [if_pos (Prod.ext hr hq), hr, hq, State.fld_setFld h _ _ _ _ (by omega), show 2 * e.2 + 1 + 1 - 2 * e.2 = 2 by omega]
      rfl
    · rw [if_neg fun hae => hq (congrArg Prod.snd hae), hr, State.fld_setFld_apart h _ _ _ _ _ _ (by omega), State.linkState]
  · have hreg : Reg.RGNW_HUB_LINK a.1 ≠ Reg.RGNW_HUB_LINK e.1 := by
      simp only [Reg.RGNW_HUB_LINK, winBase]
      omega
    rw [if_neg fun hae => hr (congrArg Prod.fst hae), State.fld_setFld_ne h _ _ _ _ _ hreg, State.linkState]

/-- The ports in use follow from the last alone. -/
theorem State.portsInUse_congr {s t : State} (h : t.last = s.last) (x y : Nat) : t.portsInUse x y = s.portsInUse x y := by
  have hport : ∀ r q, t.ringPort r q = s.ringPort r q := fun r q => by simp only [State.ringPort, State.ringHub, h]
  simp only [State.portsInUse, State.mapPorts, State.mapSource, h, hport]

/-- A hub has ten ports (Table 08-1). -/
theorem State.port_lt_of_mem {s : State} {x y : Nat} {e : Nat × Nat} (h : e ∈ s.portsInUse x y) : e.2 < 10 := by
  have hring : ∀ r q, q < 4 → s.ringPort r q < 10 := fun r q hq => by
    rw [State.ringPort]
    split
    · split <;> omega
    · omega
  obtain ⟨q, hq, rfl⟩ := List.mem_map.1 h
  rw [State.mapSource]
  dsimp only
  split
  · exact hring _ q ‹_›
  · simp only [State.mapPorts, List.mem_append, List.mem_cons, List.not_mem_nil, or_false, List.mem_ite_nil_right] at hq
    show q < 10
    omega

/-- ST9 brings the ports in use of a hub up. -/
def State.bringHubUp (s : State) (a : Nat × Nat) : State := (s.portsInUse a.1 a.2).foldl State.bringUp s

theorem State.bringHubUp_last (s : State) (a : Nat × Nat) : (s.bringHubUp a).last = s.last :=
  foldl_leaves State.last (fun t e => (rfl : (t.bringUp e).last = t.last)) _ s

theorem Canonical.bringHubUp {s : State} (h : Canonical s) (a : Nat × Nat) : Canonical (s.bringHubUp a) :=
  List.foldlRecOn _ _ h fun _ ht e _ => ht.bringUp e

/-- A port that is up stays up while ports of hubs come up. -/
theorem State.linkUp_bringUp {s t : State} (ht : Canonical t) {a e e' : Nat × Nat} (he : e ∈ s.portsInUse a.1 a.2) (hup : t.linkState e'.1 e'.2 = 1) :
    (t.bringUp e).linkState e'.1 e'.2 = 1 := by
  rw [State.linkState_bringUp ht e (State.port_lt_of_mem he), hup, ite_self]

theorem State.linkUp_bringHubUp {s : State} (h : Canonical s) (a : Nat × Nat) {e : Nat × Nat} (hup : s.linkState e.1 e.2 = 1) :
    (s.bringHubUp a).linkState e.1 e.2 = 1 := by
  have hstay : Canonical (s.bringHubUp a) ∧ (s.bringHubUp a).linkState e.1 e.2 = 1 :=
    List.foldlRecOn (motive := fun t : State => Canonical t ∧ t.linkState e.1 e.2 = 1) _ _ ⟨h, hup⟩ fun t ht e' he' =>
      ⟨ht.1.bringUp e', State.linkUp_bringUp ht.1 he' ht.2⟩
  exact hstay.2

/-- A hub's ports in use are up once it has been brought up. -/
theorem State.linkState_bringHubUp {s : State} (h : Canonical s) (a : Nat × Nat) :
    ∀ e ∈ s.portsInUse a.1 a.2, (s.bringHubUp a).linkState e.1 e.2 = 1 := by
  obtain ⟨-, hup⟩ := foldl_sets (I := Canonical) (Q := fun e t => t.linkState e.1 e.2 = 1) (f := State.bringUp) (l := s.portsInUse a.1 a.2)
    (fun _ ht e _ => ht.bringUp e)
    (fun t ht e he => by rw [State.linkState_bringUp ht e (State.port_lt_of_mem he), if_pos rfl])
    (fun t ht e _ e' he' => State.linkUp_bringUp ht he') h
  exact hup

/-- No link failed and telemetry at zero. -/
def State.freshLinks (s : State) : State := { s with fab := { s.fab with replays := [], failedLinks := [], prevFlits := [], prevHold := [] } }

theorem Canonical.freshLinks {s : State} (h : Canonical s) : Canonical s.freshLinks := h.of_tables rfl

theorem execSt9MeshRoutes_of_stage {s : State} (h : s.inStage 9 = true) :
    execSt9MeshRoutes [] s = .next ((s.grid.foldl State.bringHubUp s.assignEndpoints).freshLinks.passStage 9 []) := by
  rw [execSt9MeshRoutes, h, if_neg (by decide)]
  unfold State.bringHubUp State.bringUp State.freshLinks
  rfl

/-- ST9 brings every port in use of the grid up, with no link failed (R385). -/
theorem st9_brings_up {s : State} (ok : Canonical s) (h : s.boot.stage = some 9) : Completes (.st9MeshRoutes []) s fun t =>
    t.boot.stage = some 10 ∧ t.fab.failedLinks = [] ∧ ∀ a ∈ s.grid, ∀ e ∈ s.portsInUse a.1 a.2, t.linkState e.1 e.2 = 1 := by
  have hstart : Canonical s.assignEndpoints ∧ s.assignEndpoints.last = s.last := ⟨(State.assignEndpoints_kept ok.kept).ok, rfl⟩
  obtain ⟨⟨hok, -⟩, hup⟩ := foldl_sets (I := fun t => Canonical t ∧ t.last = s.last)
    (Q := fun a t => ∀ e ∈ s.portsInUse a.1 a.2, t.linkState e.1 e.2 = 1) (f := State.bringHubUp) (l := s.grid)
    (fun t ht a _ => ⟨ht.1.bringHubUp a, (t.bringHubUp_last a).trans ht.2⟩)
    (fun t ht a _ e he => State.linkState_bringHubUp ht.1 a e (by rw [State.portsInUse_congr ht.2]; exact he))
    (fun t ht a _ b _ (hq : ∀ e ∈ s.portsInUse a.1 a.2, t.linkState e.1 e.2 = 1) e he => State.linkUp_bringHubUp ht.1 b (hq e he)) hstart
  have hpass := State.passStage_writesIn (n := 9) (WritesIn.refl hok.freshLinks) (by decide) []
  refine ⟨_, execSt9MeshRoutes_of_stage (decide_eq_true h), rfl, by rw [State.passStage_fab]; rfl, fun a ha e he => ?_⟩
  have hne : ¬stageReg (Reg.RGNW_HUB_LINK e.1) := not_stageReg (.inr (by simp only [Reg.RGNW_HUB_LINK, winBase]; omega))
  rw [State.linkState, hpass.fld hne]
  exact hup a ha e he

/-! ### ST10: the edge ports -/

theorem State.trainPort_time (s : State) (k : Nat) : (s.trainPort k).time = s.time := rfl

/-- ST10 launches edge training and ST11 begins; its record stays open (R388). -/
theorem st10_launches {s : State} (h : s.boot.stage = some 10) : Completes .st10EdgeTraining s fun t =>
    t.boot.stage = some 11 ∧ t.boot.st10Open = true ∧ t.boot.launched = some s.time := by
  have htime : ((List.range 32).foldl State.trainPort s).time = s.time := foldl_leaves State.time State.trainPort_time _ s
  have hstage : s.inStage 10 = true := decide_eq_true h
  have hexec : execSt10EdgeTraining s = .next
      (let u := (List.range 32).foldl State.trainPort s
       ({ u with boot := { u.boot with st10Open := true, launched := some u.time } } : State).beginStage 11) := by
    rw [execSt10EdgeTraining, hstage, if_neg (by decide)]
  exact ⟨_, hexec, rfl, rfl, congrArg some htime⟩

@[simp] theorem State.signalPort_regs (s : State) (port v : Nat) : (s.signalPort port v).regs = s.regs := by
  rw [State.signalPort]
  dsimp only
  split <;> rfl

@[simp] theorem State.signalPort_boot (s : State) (port v : Nat) : (s.signalPort port v).boot = s.boot := by
  rw [State.signalPort]
  dsimp only
  split <;> rfl

/-- An interrupt writes no register. -/
@[simp] theorem State.signal_regs (s : State) (v : Nat) : (s.signal v).regs = s.regs := by
  rw [State.signal]
  split
  · rw [State.signalPort_regs]
  · rw [State.signalPort_regs, State.signalPort_regs]

@[simp] theorem State.signal_boot (s : State) (v : Nat) : (s.signal v).boot = s.boot := by
  rw [State.signal]
  split
  · rw [State.signalPort_boot]
  · rw [State.signalPort_boot, State.signalPort_boot]

/-- Signalling an interrupt when READY is 1 writes no register, and leaves the stages. -/
theorem State.signal_ready_frame (s : State) (v : Nat) (a : Nat) :
    (if flag (s.rd Reg.STG_STAT) 31 then s.signal v else s).rd a = s.rd a ∧
      (if flag (s.rd Reg.STG_STAT) 31 then s.signal v else s).boot = s.boot := by
  split
  · exact ⟨by rw [State.rd, State.signal_regs, State.rd], State.signal_boot s v⟩
  · exact ⟨rfl, rfl⟩

/-- ST10's record is written once every port has settled or 500 ms have passed (R388). -/
theorem st10_records {s : State} (ok : Canonical s) (hopen : s.boot.st10Open = true)
    (hdue : (∀ k, k < 32 → s.fld (Reg.EDG_PORT k) 31 29 ≠ 1) ∨ s.elapsed (tabGet 0 s.boot.stageStart 10) 500000000 = true) :
    Completes .st10Record s fun t => t.boot.st10Open = false ∧ t.boot.stage = s.boot.stage ∧
      (t.fld (Reg.STG_REC_A 10) 27 24 = 2 ∨ t.fld (Reg.STG_REC_A 10) 27 24 = 3) := by
  have hrecord : (s.boot.st10Open && (((List.range 32).all fun k => decide (s.fld (Reg.EDG_PORT k) 31 29 ≠ 1)) ||
      s.elapsed (tabGet 0 s.boot.stageStart 10) 500000000)) = true := by
    rw [hopen, Bool.true_and, Bool.or_eq_true, List.all_eq_true]
    exact hdue.imp_left fun hp k hk => decide_eq_true (hp k (List.mem_range.1 hk))
  have hloci := (State.addLoci_kept ok.kept 10 ((List.range 32).flatMap s.portLoci)).ok
  refine ⟨_, congrArg Host.Outcome.next (if_pos hrecord), ?_⟩
  obtain ⟨hrd, hboot⟩ := State.signal_ready_frame ({ (s.addLoci 10 ((List.range 32).flatMap s.portLoci)).endStage 10 with
    boot := { ((s.addLoci 10 ((List.range 32).flatMap s.portLoci)).endStage 10).boot with st10Open := false } }) 128 (Reg.STG_REC_A 10)
  rw [hboot, State.fld, hrd]
  exact ⟨rfl, State.addLoci_stage s 10 _, State.endStage_status hloci 10⟩

/-! ### ST11: READY -/

/-- The registers that show the event log, and the entries its gate holds back. -/
def logReg (a : Nat) : Prop := a = Reg.THM_GATE ∨ a = Reg.MGT_LOG_STAT ∨ a = Reg.MGT_LOG_LO ∨ a = Reg.MGT_LOG_HI

/-- An entry of the event log writes its registers, and leaves the stages. -/
theorem State.logRaw_frame {s t : State} (h : WritesIn logReg s t) (code : Nat) (arg : Word) (body : Bytes) :
    WritesIn logReg s (t.logRaw code arg body) ∧ (t.logRaw code arg body).boot = t.boot := by
  have hentry : ∀ (u : State) (m : Mgmt) (lost n left : Nat), WritesIn logReg s u → WritesIn logReg s
      (((({ u with mgt := m }).bumpBy Reg.MGT_LOG_STAT 31 16 lost).wr64 Reg.MGT_LOG_LO Reg.MGT_LOG_HI n).setFld Reg.MGT_LOG_STAT 15 0 left) :=
    fun u m lost n left hu =>
      have hm : WritesIn logReg s { u with mgt := m } := hu.of_regs (hu.ok.of_tables rfl) rfl
      (((hm.wr (.inr (.inl rfl)) _).wr (.inr (.inr (.inl rfl))) _).wr (.inr (.inr (.inr rfl))) _).setFld (.inr (.inl rfl)) _ _ _
  rw [State.logRaw]
  by_cases ho : t.flashOpen = true
  · simp only [if_pos ho]
    exact ⟨hentry _ _ _ _ _ h, rfl⟩
  · simp only [if_neg ho]
    exact ⟨hentry _ _ _ _ _ (h.wr (.inl rfl) _), rfl⟩

/-- Conditions lost and regained write the log's registers alone, and leave the stages. -/
theorem State.checkConditions_frame {s : State} (h : Canonical s) :
    WritesIn logReg s s.checkConditions ∧ s.checkConditions.boot.stage = s.boot.stage := by
  have hlog : ∀ (g : State → Nat → Bytes) (code : Nat) (l : List Nat) (t : State), WritesIn logReg s t ∧ t.boot.stage = s.boot.stage →
      WritesIn logReg s (l.foldl (fun t c => t.logEvent code c (g t c)) t) ∧ (l.foldl (fun t c => t.logEvent code c (g t c)) t).boot.stage = s.boot.stage :=
    fun g code l t ht => List.foldlRecOn (motive := fun t : State => WritesIn logReg s t ∧ t.boot.stage = s.boot.stage) l _ ht fun u hu c _ =>
      ⟨(State.logRaw_frame hu.1 _ _ _).1, (congrArg Boot.stage (State.logRaw_frame hu.1 _ _ _).2).trans hu.2⟩
  rw [State.checkConditions]
  split
  · exact ⟨.refl h, rfl⟩
  · have hstart : WritesIn logReg s { s with boot := { s.boot with conditionsLost := s.conditionsNow } } :=
      (WritesIn.refl h).of_regs (h.of_tables rfl) rfl
    exact hlog State.conditionData 3 _ _ (hlog State.conditionData 2 _ _ ⟨hstart, rfl⟩)

/-- The state that ST11 makes ready. -/
def State.ready (s : State) : State :=
  let u := (s.endStage 11).setFld Reg.STG_STAT 31 31 1
  { u with boot := { u.boot with stage := none } }

theorem execSt11Readiness_of_stage {s : State} (h : s.inStage 11 = true) : execSt11Readiness s = .next (s.ready.signal 128).checkConditions := by
  rw [execSt11Readiness, h, if_neg (by decide)]
  rfl

/-- ST11 is READY: its record is closed and no stage is under way (R382). -/
theorem st11_ready {s : State} (ok : Canonical s) (h : s.boot.stage = some 11) : Completes .st11Readiness s fun t =>
    t.boot.stage = none ∧ flag (t.rd Reg.STG_STAT) 31 = true ∧ (t.fld (Reg.STG_REC_A 11) 27 24 = 2 ∨ t.fld (Reg.STG_REC_A 11) 27 24 = 3) := by
  have hend : Canonical (s.endStage 11) := (State.endStage_kept ok.kept 11).ok
  have hstat := hend.setFld Reg.STG_STAT 31 31 1
  have hready : Canonical s.ready := hstat.of_tables rfl
  obtain ⟨hcond, hstage⟩ := State.checkConditions_frame (State.signal_kept hready.kept 128).ok
  have hrd : ∀ a, ¬logReg a → ((s.ready.signal 128).checkConditions).rd a = ((s.endStage 11).setFld Reg.STG_STAT 31 31 1).rd a := fun a ha => by
    rw [hcond.rd a ha, State.rd, State.signal_regs]
    rfl
  refine ⟨_, execSt11Readiness_of_stage (decide_eq_true h), by rw [hstage, State.signal_boot]; rfl, ?_, ?_⟩
  · rw [hrd _ (by unfold logReg; decide), State.rd_setFld hend, if_pos rfl, flag_setField _ _ _ (by decide)]
    rfl
  · rw [State.fld, hrd _ (by unfold logReg; decide), State.rd_setFld hend, if_neg (by decide)]
    exact State.endStage_status ok 11

/-- Settles O42 with a lemma for each stage: its `exec` as named pieces, the tables and registers its folds set, and the registers that stage records leave alone.
That a region the outcome list of ST5 does not name passes is the model's reading (notes/assumptions/85.md). -/
theorem lateStages : Obligations.LateStages := by
  intro s ok
  refine ⟨fun f l sk h hf => ?_, fun f r hf => ?_, fun h => ?_, fun l h => st7_zeroes ok h l,
    fun l h => ?_, fun h => st9_brings_up ok h, fun h => st10_launches h, fun hopen hdue => st10_records ok hopen hdue, fun h => st11_ready ok h⟩
  · have hstage : s.inStage 5 = true := decide_eq_true h
    simp only [exec, execSt5RegionSelfTest, hf]
    rw [hstage, if_neg (by decide)]
  · obtain ⟨spare, hpass⟩ := State.region_selfTestRegion_pass ok f hf r
    dsimp only
    rw [hpass]
    exact ⟨rfl, rfl, rfl, fun c hc => State.cause_selfTestRegion ok f hf r hc⟩
  · have hstage : s.inStage 6 = true := decide_eq_true h
    simp only [exec, execSt6BuildLast]
    rw [hstage, if_neg (by decide), State.addLoci_last]
  · obtain ⟨t, hexec, hnext, hmem, hshow⟩ := st8_trains ok h l
    refine ⟨t, hexec, hnext, hmem, fun i hi => ?_⟩
    obtain ⟨hstate, hchans⟩ := field_stackWord (l.getD i 0)
    rw [State.fld, State.fld, (hshow i hi).stack]
    exact ⟨(hshow i hi).chan, hstate, hchans⟩

end Sys2Proof.Machine

/-! SUPPORT. The statements of chapter 02's family: the invariant of a step (O4), flits on their way (O15), reduction rounds (O18) and junction temperatures
(O45). -/

namespace Sys2Proof.Machine

/-! ### The invariant of a step (O4) -/

/-- Every command keeps the queue it finds and the canonical form, by its own law under Laws/. -/
theorem exec_kept {q : List Instr} {s t : State} (h : Kept q s) : ∀ c : Instr, exec c s = .next t → Kept q t
  | .distIdxWrite _, ht => execDistIdxWrite_kept h _ ht
  | .bundleIssue _, ht => execBundleIssue_kept h _ ht
  | .waitTimeout _, ht => execWaitTimeout_kept h _ ht
  | .sensorSample _ _, ht => execSensorSample_kept h _ _ ht
  | .sensorPairSuspect _, ht => execSensorPairSuspect_kept h _ ht
  | .dmm _ _, ht => execDmm_kept h _ _ ht
  | .dmmt _ _, ht => execDmmt_kept h _ _ ht
  | .dout _ _, ht => execDout_kept h _ _ ht
  | .dadn _ _, ht => execDadn_kept h _ _ ht
  | .daup _ _, ht => execDaup_kept h _ _ ht
  | .drsc _ _, ht => execDrsc_kept h _ _ ht
  | .vfma _ _, ht => execVfma_kept h _ _ ht
  | .vadd _ _, ht => execVadd_kept h _ _ ht
  | .vmul _ _, ht => execVmul_kept h _ _ ht
  | .vmin _ _, ht => execVmin_kept h _ _ ht
  | .vmax _ _, ht => execVmax_kept h _ _ ht
  | .vcmp _ _, ht => execVcmp_kept h _ _ ht
  | .vsel _ _, ht => execVsel_kept h _ _ ht
  | .vbrl _ _, ht => execVbrl_kept h _ _ ht
  | .vcvt _ _, ht => execVcvt_kept h _ _ ht
  | .vacc _ _, ht => execVacc_kept h _ _ ht
  | .vrot _ _, ht => execVrot_kept h _ _ ht
  | .vrmax _ _, ht => execVrmax_kept h _ _ ht
  | .vrsum _ _, ht => execVrsum_kept h _ _ ht
  | .vexp _ _, ht => execVexp_kept h _ _ ht
  | .vrcp _ _, ht => execVrcp_kept h _ _ ht
  | .vrsq _ _, ht => execVrsq_kept h _ _ ht
  | .vact _ _, ht => execVact_kept h _ _ ht
  | .vqnt _ _, ht => execVqnt_kept h _ _ ht
  | .asmx _ _, ht => execAsmx_kept h _ _ ht
  | .aend _ _, ht => execAend_kept h _ _ ht
  | .arec _ _, ht => execArec_kept h _ _ ht
  | .aop _ _, ht => execAop_kept h _ _ ht
  | .aopi _ _, ht => execAopi_kept h _ _ ht
  | .cmp _ _, ht => execCmp_kept h _ _ ht
  | .plg _ _, ht => execPlg_kept h _ _ ht
  | .csr _ _, ht => execCsr_kept h _ _ ht
  | .cctl _ _, ht => execCctl_kept h _ _ ht
  | .wait _ _, ht => execWait_kept h _ _ ht
  | .br _ _, ht => execBr_kept h _ _ ht
  | .loop _ _, ht => execLoop_kept h _ _ ht
  | .tset _ _, ht => execTset_kept h _ _ ht
  | .tadj _ _, ht => execTadj_kept h _ _ ht
  | .stl _ _, ht => execStl_kept h _ _ ht
  | .halt _, ht => execHalt_kept h _ ht
  | .trc _ _, ht => execTrc_kept h _ _ ht
  | .lda _ _, ht => execLda_kept h _ _ ht
  | .sta _ _, ht => execSta_kept h _ _ ht
  | .ldv _ _, ht => execLdv_kept h _ _ ht
  | .stv _ _, ht => execStv_kept h _ _ ht
  | .tld _ _, ht => execTld_kept h _ _ ht
  | .mcp _ _, ht => execMcp_kept h _ _ ht
  | .vrd _ _, ht => execVrd_kept h _ _ ht
  | .vwr _ _, ht => execVwr_kept h _ _ ht
  | .spr _ _, ht => execSpr_kept h _ _ ht
  | .spw _ _, ht => execSpw_kept h _ _ ht
  | .snd _ _, ht => execSnd_kept h _ _ ht
  | .mcs _ _, ht => execMcs_kept h _ _ ht
  | .rds _ _, ht => execRds_kept h _ _ ht
  | .sig _ _, ht => execSig_kept h _ _ ht
  | .spoolCompletion _ _ _, ht => execSpoolCompletion_kept h _ _ _ ht
  | .flitDelivery _, ht => execFlitDelivery_kept h _ ht
  | .flitHop _ _, ht => execFlitHop_kept h _ _ ht
  | .linkReplay _ _, ht => execLinkReplay_kept h _ _ ht
  | .linkFailure _ _, ht => execLinkFailure_kept h _ _ ht
  | .hubLinkTest _ _ _ _, ht => execHubLinkTest_kept h _ _ _ _ ht
  | .multicastReplicate _, ht => execMulticastReplicate_kept h _ ht
  | .multicastStallTimeout _ _, ht => execMulticastStallTimeout_kept h _ _ ht
  | .reduceContribution _, ht => execReduceContribution_kept h _ ht
  | .reductionRoundForward _, ht => execReductionRoundForward_kept h _ ht
  | .reductionStallTimeout _, ht => execReductionStallTimeout_kept h _ ht
  | .cmapPeriodTick _, ht => execCmapPeriodTick_kept h _ ht
  | .fabCfgWrite _, ht => execFabCfgWrite_kept h _ ht
  | .fabViolLogClear _, ht => execFabViolLogClear_kept h _ ht
  | .fabStallLogClear _, ht => execFabStallLogClear_kept h _ ht
  | .fabCmapData0Read _, ht => execFabCmapData0Read_kept h _ ht
  | .seqInstruction _ _, ht => execSeqInstruction_kept h _ _ ht
  | .seqArrival _, ht => execSeqArrival_kept h _ ht
  | .sqRingConfig _ _ _, ht => execSqRingConfig_kept h _ _ _ ht
  | .sqEmit _ _, ht => execSqEmit_kept h _ _ ht
  | .emissionDelivery _, ht => execEmissionDelivery_kept h _ ht
  | .sqMov _ _, ht => execSqMov_kept h _ _ ht
  | .moverCompletion _ _, ht => execMoverCompletion_kept h _ _ ht
  | .dueItemLateStall _ _, ht => execDueItemLateStall_kept h _ _ ht
  | .dueItemLand _ _, ht => execDueItemLand_kept h _ _ ht
  | .detourStart _, ht => execDetourStart_kept h _ ht
  | .stopEpochReached _, ht => execStopEpochReached_kept h _ ht
  | .ingestSegment _ _, ht => execIngestSegment_kept h _ _ ht
  | .ingestHoldTimeout, ht => execIngestHoldTimeout_kept h ht
  | .ldrIngCfgWrite _, ht => execLdrIngCfgWrite_kept h _ ht
  | .ldrIngBytesLoRead _, ht => execLdrIngBytesLoRead_kept h _ ht
  | .heldWeightReleaseDone _, ht => execHeldWeightReleaseDone_kept h _ ht
  | .scrubRow _ _, ht => execScrubRow_kept h _ _ ht
  | .correctionWriteback _ _ _, ht => execCorrectionWriteback_kept h _ _ _ ht
  | .rowRepairSwitch _ _ _, ht => execRowRepairSwitch_kept h _ _ _ ht
  | .rimScrub _ _ _, ht => execRimScrub_kept h _ _ _ ht
  | .rimChannelFail _ _, ht => execRimChannelFail_kept h _ _ ht
  | .alloc _ _ _, ht => execAlloc_kept h _ _ _ ht
  | .ref _ _, ht => execRef_kept h _ _ ht
  | .deref _ _, ht => execDeref_kept h _ _ ht
  | .pin _ _, ht => execPin_kept h _ _ ht
  | .unpin _ _, ht => execUnpin_kept h _ _ ht
  | .copy _ _, ht => execCopy_kept h _ _ ht
  | .commit _ _, ht => execCommit_kept h _ _ ht
  | .evict _ _, ht => execEvict_kept h _ _ ht
  | .warm _ _, ht => execWarm_kept h _ _ ht
  | .query _ _, ht => execQuery_kept h _ _ ht
  | .copyCompletion _ _, ht => execCopyCompletion_kept h _ _ ht
  | .moveCompletion _ _, ht => execMoveCompletion_kept h _ _ ht
  | .pageZeroReported _ _, ht => execPageZeroReported_kept h _ _ ht
  | .pkCmdPresent _ _, ht => execPkCmdPresent_kept h _ _ ht
  | .leCmdStart _ _, ht => execLeCmdStart_kept h _ _ ht
  | .listWalkDone _, ht => execListWalkDone_kept h _ ht
  | .prefixCreate _ _ _ _ _, ht => execPrefixCreate_kept h _ _ _ _ _ ht
  | .admitSeq _ _, ht => execAdmit_kept h _ _ ht
  | .promptFetched _ _, ht => execPromptFetched_kept h _ _ ht
  | .abort _ _, ht => execAbort_kept h _ _ ht
  | .mask _ _ _, ht => execMask_kept h _ _ _ ht
  | .adapterLoad _ _ _, ht => execAdapterLoad_kept h _ _ _ ht
  | .adapterLoadDequeue _, ht => execAdapterLoadDequeue_kept h _ ht
  | .adapterIngestDone _ _, ht => execAdapterIngestDone_kept h _ _ ht
  | .adapterDrop _ _, ht => execAdapterDrop_kept h _ _ ht
  | .hcreate _ _, ht => execHcreate_kept h _ _ ht
  | .hdelete _ _, ht => execHdelete_kept h _ _ ht
  | .choose _ _, ht => execChoose_kept h _ _ ht
  | .batchRequest _ _, ht => execBatchRequest_kept h _ _ ht
  | .fallbackReport _ _, ht => execFallbackReport_kept h _ _ ht
  | .sampleCandidateFlit _ _ _ _ _ _ _, ht => execSampleCandidateFlit_kept h _ _ _ _ _ _ _ ht
  | .sampledRowTimeout _ _, ht => execSampledRowTimeout_kept h _ _ ht
  | .passCommit _ _, ht => execPassCommit_kept h _ _ ht
  | .accountRefill, ht => execAccountRefill_kept h ht
  | .acctGrant _, ht => execAcctGrant_kept h _ ht
  | .acctIdxWrite _, ht => execAcctIdxWrite_kept h _ ht
  | .snapshotLand, ht => execSnapshotLand_kept h ht
  | .energyMeterTick _, ht => execEnergyMeterTick_kept h _ ht
  | .srvInexactClear _, ht => execSrvInexactClear_kept h _ ht
  | .outCiWrite _ _, ht => execOutCiWrite_kept h _ _ ht
  | .outCfgWrite _ _ _, ht => execOutCfgWrite_kept h _ _ _ ht
  | .srvPidleLoRead _ _, ht => execSrvPidleLoRead_kept h _ _ ht
  | .precisionCfgWrite _ _, ht => execPrecisionCfgWrite_kept h _ _ ht
  | .glbLockEpochLoRead _ _, ht => execGlbLockEpochLoRead_kept h _ _ ht
  | .load _ _, ht => execLoad_kept h _ _ ht
  | .jobStart, ht => execJobStart_kept h ht
  | .kill _, ht => execKill_kept h _ ht
  | .release _, ht => execRelease_kept h _ ht
  | .ldrPwrLimitWrite _, ht => execLdrPwrLimitWrite_kept h _ ht
  | .stopTimeout _, ht => execStopTimeout_kept h _ ht
  | .allCoresHalted _, ht => execAllCoresHalted_kept h _ ht
  | .zeroizeDone _ _, ht => execZeroizeDone_kept h _ _ ht
  | .rimClearDone, ht => execRimClearDone_kept h ht
  | .activityWindowEnd _ _, ht => execActivityWindowEnd_kept h _ _ ht
  | .powerOverrunCheck _ _ _, ht => execPowerOverrunCheck_kept h _ _ _ ht
  | .feedValid _ _, ht => execFeedValid_kept h _ _ ht
  | .feedInvalid _ _, ht => execFeedInvalid_kept h _ _ ht
  | .feedPresentOpen _, ht => execFeedPresentOpen_kept h _ ht
  | .holdupStart, ht => execHoldupStart_kept h ht
  | .holdupEnd, ht => execHoldupEnd_kept h ht
  | .converterFail _, ht => execConverterFail_kept h _ ht
  | .fieldCapAdjust _ _, ht => execFieldCapAdjust_kept h _ _ ht
  | .phaseFail _ _ _, ht => execPhaseFail_kept h _ _ _ ht
  | .regionPowerDown _, ht => execRegionPowerDown_kept h _ ht
  | .powerDownProceed _, ht => execPowerDownProceed_kept h _ ht
  | .currentLimiterTrip _, ht => execCurrentLimiterTrip_kept h _ ht
  | .wakeStageRequest _, ht => execWakeStageRequest_kept h _ ht
  | .wakeStageGrant _, ht => execWakeStageGrant_kept h _ ht
  | .wakeComplete _, ht => execWakeComplete_kept h _ ht
  | .rushPriorityRaise _, ht => execRushPriorityRaise_kept h _ ht
  | .rushPriorityLift _, ht => execRushPriorityLift_kept h _ ht
  | .ballastWindow _ _, ht => execBallastWindow_kept h _ _ ht
  | .clockStepChange _, ht => execClockStepChange_kept h _ ht
  | .glideDone, ht => execGlideDone_kept h ht
  | .pwrBallastWrite _, ht => execPwrBallastWrite_kept h _ ht
  | .pwrEnergyLoRead _, ht => execPwrEnergyLoRead_kept h _ ht
  | .rgnwPwrELoRead _ _, ht => execRgnwPwrELoRead_kept h _ _ ht
  | .rgnwVminTcLoRead _ _, ht => execRgnwVminTcLoRead_kept h _ _ ht
  | .rgnwVminTmLoRead _ _, ht => execRgnwVminTmLoRead_kept h _ _ ht
  | .vminValidClear _ _ _, ht => execVminValidClear_kept h _ _ _ ht
  | .rgnwTrcIdxWrite _ _, ht => execRgnwTrcIdxWrite_kept h _ _ ht
  | .postedWriteApply _, ht => execPostedWriteApply_kept h _ ht
  | .coldStart, ht => execColdStart_kept h ht
  | .st0FeedsPresent, ht => execSt0FeedsPresent_kept h ht
  | .st1ManagementBoot _ _ _ _ _ _, ht => execSt1ManagementBoot_kept h _ _ _ _ _ _ ht
  | .st2FuseRead _, ht => execSt2FuseRead_kept h _ ht
  | .st3StackRailRamp _, ht => execSt3StackRailRamp_kept h _ ht
  | .coolantWaitTimeout, ht => execCoolantWaitTimeout_kept h ht
  | .st4MeshLock _, ht => execSt4MeshLock_kept h _ ht
  | .meshLockTimeout, ht => execMeshLockTimeout_kept h ht
  | .st5RegionSelfTest _ _, ht => execSt5RegionSelfTest_kept h _ _ ht
  | .st6BuildLast, ht => execSt6BuildLast_kept h ht
  | .st7MemoryTest _, ht => execSt7MemoryTest_kept h _ ht
  | .st8RimTraining _, ht => execSt8RimTraining_kept h _ ht
  | .st9MeshRoutes _, ht => execSt9MeshRoutes_kept h _ ht
  | .st10EdgeTraining, ht => execSt10EdgeTraining_kept h ht
  | .st10Record, ht => execSt10Record_kept h ht
  | .st11Readiness, ht => execSt11Readiness_kept h ht
  | .edgeTrainRetry _, ht => execEdgeTrainRetry_kept h _ ht
  | .restartByHost _, ht => execRestartByHost_kept h _ ht
  | .restartByContact, ht => execRestartByContact_kept h ht
  | .restartPowerDown _, ht => execRestartPowerDown_kept h _ ht
  | .hostPortReset _, ht => execHostPortReset_kept h _ ht
  | .nodeDecouple _, ht => execNodeDecouple_kept h _ ht
  | .refSwitchover, ht => execRefSwitchover_kept h ht
  | .refReturn _, ht => execRefReturn_kept h _ ht
  | .clkTimeLoRead _, ht => execClkTimeLoRead_kept h _ ht
  | .stgLocData0Read _, ht => execStgLocData0Read_kept h _ ht
  | .aliveOutToggle, ht => execAliveOutToggle_kept h ht
  | .throttleGraceExpire _, ht => execThrottleGraceExpire_kept h _ ht
  | .thermalStretchAdjust _, ht => execThermalStretchAdjust_kept h _ ht
  | .converterOvertemp _, ht => execConverterOvertemp_kept h _ ht
  | .coolantPoll _ _, ht => execCoolantPoll_kept h _ _ ht
  | .flowClampTimeout, ht => execFlowClampTimeout_kept h ht
  | .coolantSensorReaddress _, ht => execCoolantSensorReaddress_kept h _ ht
  | .governorLimitUpdate _, ht => execGovernorLimitUpdate_kept h _ ht
  | .governorHoldAdjust _, ht => execGovernorHoldAdjust_kept h _ ht
  | .thmCfgWrite _, ht => execThmCfgWrite_kept h _ ht
  | .flashWriteResume, ht => execFlashWriteResume_kept h ht
  | .mgmtWatchdogExpire, ht => execMgmtWatchdogExpire_kept h ht
  | .recoveryQuietExpire, ht => execRecoveryQuietExpire_kept h ht
  | .rearm _, ht => execRearm_kept h _ ht
  | .recover _, ht => execRecover_kept h _ ht
  | .resumeRepair _, ht => execResumeRepair_kept h _ ht
  | .endRepair _, ht => execEndRepair_kept h _ ht
  | .fltCfgWrite _, ht => execFltCfgWrite_kept h _ ht
  | .fltLogData0Read _, ht => execFltLogData0Read_kept h _ ht
  | .coreFailure _, ht => execCoreFailure_kept h _ ht
  | .spareProcedureStep _, ht => execSpareProcedureStep_kept h _ ht
  | .spareShipmentTimeout, ht => execSpareShipmentTimeout_kept h ht
  | .jobResume, ht => execJobResume_kept h ht
  | .istWindow _ _ _ _, ht => execIstWindow_kept h _ _ _ _ ht
  | .faultInjectArm _, ht => execFaultInjectArm_kept h _ ht
  | .logCopy _, ht => execLogCopy_kept h _ ht
  | .stage _ _, ht => execStage_kept h _ _ ht
  | .select, ht => execSelect_kept h ht
  | .svcClear _, ht => execSvcClear_kept h _ ht
  | .pcr _ _, ht => execPcr_kept h _ _ ht
  | .debugAccess _ _, ht => execDebugAccess_kept h _ _ ht
  | .mctpMessage _ _, ht => execMctpMessage_kept h _ _ ht
  | .getVersion _, ht => execGetVersion_kept h _ ht
  | .getCapabilities _, ht => execGetCapabilities_kept h _ ht
  | .negotiateAlgorithms _, ht => execNegotiateAlgorithms_kept h _ ht
  | .getDigests _, ht => execGetDigests_kept h _ ht
  | .getCertificate _, ht => execGetCertificate_kept h _ ht
  | .challenge _, ht => execChallenge_kept h _ ht
  | .getMeasurements _, ht => execGetMeasurements_kept h _ ht
  | .keyExchange _, ht => execKeyExchange_kept h _ ht
  | .finish _ _, ht => execFinish_kept h _ _ ht
  | .heartbeat _ _, ht => execHeartbeat_kept h _ _ ht
  | .keyUpdate _ _, ht => execKeyUpdate_kept h _ _ ht
  | .endSession _ _, ht => execEndSession_kept h _ _ ht
  | .setKey _, ht => execSetKey_kept h _ ht
  | .setPolicy _, ht => execSetPolicy_kept h _ ht
  | .debug _, ht => execDebug_kept h _ ht
  | .updatePolicy _, ht => execUpdatePolicy_kept h _ ht
  | .enrol _, ht => execEnrol_kept h _ ht
  | .remove _, ht => execRemove_kept h _ ht
  | .fuse _, ht => execFuse_kept h _ ht
  | .approve _, ht => execApprove_kept h _ ht
  | .rollbackCounterAdvance, ht => execRollbackCounterAdvance_kept h ht
  | .secSelfTestPeriodic _, ht => execSecSelfTestPeriodic_kept h _ ht
  | .entropyHealthFail, ht => execEntropyHealthFail_kept h ht
  | .mgtLogLoRead _, ht => execMgtLogLoRead_kept h _ ht
  | .secCtrLoRead _, ht => execSecCtrLoRead_kept h _ ht
  | .secDbgLoRead _, ht => execSecDbgLoRead_kept h _ ht
  | .glbSerialLoRead _, ht => execGlbSerialLoRead_kept h _ ht
  | .cmdPi _ _, ht => execCmdPi_kept h _ _ ht
  | .assPi _ _, ht => execAssPi_kept h _ _ ht
  | .cplCi _ _, ht => execCplCi_kept h _ _ ht
  | .outCi _ _, ht => execOutCi_kept h _ _ ht
  | .xferPi _ _, ht => execXferPi_kept h _ _ ht
  | .ringCfgWrite _ _, ht => execRingCfgWrite_kept h _ _ ht
  | .xferCfgWrite _ _, ht => execXferCfgWrite_kept h _ _ ht
  | .ringEntryFetch _ _ _, ht => execRingEntryFetch_kept h _ _ _ ht
  | .keeper _ _, ht => execKeeper_kept h _ _ ht
  | .walk _ _ _, ht => execWalk_kept h _ _ _ ht
  | .mover _ _, ht => execMover_kept h _ _ ht
  | .xferEntryFetch _ _ _, ht => execXferEntryFetch_kept h _ _ _ ht
  | .msixHoldoffExpire _ _, ht => execMsixHoldoffExpire_kept h _ _ ht
  | .pmodeWrite _ _, ht => execPmodeWrite_kept h _ _ ht
  | .glbModeWrite _, ht => execGlbModeWrite_kept h _ ht
  | .registerWrite _ _ _ _, ht => execRegisterWrite_kept h _ _ _ _ ht
  | .edgeSend _ _ _ _ _ _, ht => execEdgeSend_kept h _ _ _ _ _ _ ht
  | .edgeFrameRx _ _, ht => execEdgeFrameRx_kept h _ _ ht
  | .edgeControlFrame _ _, ht => execEdgeControlFrame_kept h _ _ ht
  | .edgeControlTimer _, ht => execEdgeControlTimer_kept h _ ht
  | .edgeReplay _ _, ht => execEdgeReplay_kept h _ _ ht
  | .edgeLinkLoss _, ht => execEdgeLinkLoss_kept h _ ht
  | .edgeIngestFrame _ _, ht => execEdgeIngestFrame_kept h _ _ ht
  | .retrain _, ht => execRetrain_kept h _ ht
  | .disable _, ht => execDisable_kept h _ ht
  | .enable _, ht => execEnable_kept h _ ht
  | .modResetNRelease, ht => execModResetNRelease_kept h ht
  | .hostPortLinkUp _ _ _, ht => execHostPortLinkUp_kept h _ _ _ ht
  | .edgeTrainingSettled _ _, ht => execEdgeTrainingSettled_kept h _ _ ht
  | .stageFlashGateTimeout, ht => execStageFlashGateTimeout_kept h ht
  | .recentRecoveryExpire, ht => execRecentRecoveryExpire_kept h ht
  | .scratchpadScrub _ _ _ _, ht => execScratchpadScrub_kept h _ _ _ _ ht
  | .railVoltageSample _ _ _, ht => execRailVoltageSample_kept h _ _ _ ht

/-- A step leaves the queue's rest behind its front command, or the empty queue. -/
theorem step_kept {s t : State} (ok : Canonical s) (hs : step s = .next t) : Kept s.pending.tail t := by
  cases hq : s.pending with
  | nil =>
    have hidle : idleTick s = t := by
      simp only [step, hq, Host.Outcome.next.injEq] at hs
      exact hs
    have hkept : Kept [] s := ⟨hq, ok⟩
    exact hidle ▸ idleTick_kept hkept
  | cons c rest =>
    have hexec : exec c { s with pending := rest } = .next t := by
      simp only [step, hq] at hs
      exact hs
    have hkept : Kept rest { s with pending := rest } := ⟨rfl, ok.of_tables rfl⟩
    exact exec_kept hkept c hexec

/-- Settles O4: the front command keeps the queue's rest and the canonical form, and an idle step the empty queue. The canonical form is the model's own
representation of tables and memories, and covers those that `Canonical` lists. -/
theorem stepKeepsTheInvariant : Obligations.StepKeepsTheInvariant := by
  intro s t ok hqueue hs
  have hkept := step_kept ok hs
  refine ⟨hkept.ok, fun c hc => ?_⟩
  rw [hkept.queue] at hc
  exact hqueue c (List.mem_of_mem_tail hc)

/-! ### Reduction rounds (O18) -/

/-- Is x the round of flit f's contributions at hub r? -/
def roundOf (r : Nat) (f : Flit) (x : Round) : Bool :=
  decide (x.r = r) && decide (x.key = f.key) && decide (x.index = f.index) && decide (x.d = f.raddr)

/-- A contribution without a landing of its own that joins a round. -/
theorem joinRound_of_new {f : Flit} {b : Branch} {x : Round} (hb : b ∉ x.got) :
    joinRound f b none x = some { x with got := x.got ++ [b], parts := x.parts ++ [f.accs], ce := x.ce || f.ce } := by
  have hlatest : latest x.landing none = x.landing := by cases x.landing <;> rfl
  have hgot : ¬x.got.contains b = true := by simpa using hb
  rw [joinRound, if_neg hgot, hlatest]

section
variable {s : State} {i r inp : Nat} {f : Flit} {t : TreeEntry}

/-- The head contribution of an input, at a hub that runs and has the tree of its index. -/
structure ContributionAt (s : State) (i r inp : Nat) (f : Flit) (t : TreeEntry) : Prop where
  flit : s.fab.flits[i]? = some f
  hub : flitHub f.loc = some (r, inp)
  kind : f.kind = .contribution
  head : s.isHead i f.loc = true
  runs : (s.region r).hubStopped = false
  tree : s.tree r f.key f.index = some t

theorem State.contribute_opens (h : ContributionAt s i r inp f t) (hnew : ∀ x ∈ s.fab.rounds, roundOf r f x = false) (hroom : s.openRounds r < 32) :
    s.contribute i = (s.dropFlit i).setRounds (s.fab.rounds ++ [{
      r := r, key := f.key, index := f.index, d := f.raddr, got := [s.inputOf f.loc], parts := [f.accs], cn := f.cn, ce := f.ce, opened := s.time,
      landing := f.landing, src := f.src, faulted := false }]) := by
  have hnone : s.fab.rounds.findIdx? (roundOf r f) = none := List.findIdx?_eq_none_iff.2 hnew
  have hfull : ¬32 ≤ s.openRounds r := Nat.not_le.2 hroom
  unfold roundOf at hnone
  simp [State.contribute, h.flit, h.hub, h.kind, h.head, h.runs, h.tree, hnone, hfull]

theorem State.contribute_joins (h : ContributionAt s i r inp f t) {x : Round} {l m : List Round} (hl : s.fab.rounds = l ++ x :: m)
    (hbefore : ∀ y ∈ l, roundOf r f y = false) (hx : roundOf r f x = true) (hgot : s.inputOf f.loc ∉ x.got) (hland : f.landing = none) :
    s.contribute i = (s.dropFlit i).setRounds (l ++
      { x with got := x.got ++ [s.inputOf f.loc], parts := x.parts ++ [f.accs], ce := x.ce || f.ce } :: m) := by
  have hfind : s.fab.rounds.findIdx? (roundOf r f) = some l.length := by
    rw [hl, List.findIdx?_append, List.findIdx?_eq_none_iff.2 hbefore, List.findIdx?_cons, hx]
    simp
  unfold roundOf at hfind
  have hget : s.fab.rounds[l.length]? = some x := by simp [hl]
  have hset : ∀ y, s.fab.rounds.set l.length y = l ++ y :: m := fun y => by simp [hl]
  simp [State.contribute, h.flit, h.hub, h.kind, h.head, h.runs, h.tree, hfind, hget, hset, hland, joinRound_of_new hgot]

end

section
variable {s : State} {i : Nat} {x : Round} {t : TreeEntry}

/-- Round i of the state, with the tree of its index. -/
structure RoundAt (s : State) (i : Nat) (x : Round) (t : TreeEntry) : Prop where
  round : s.fab.rounds[i]? = some x
  tree : s.tree x.r x.key x.index = some t

/-- The state without round i. -/
def State.endRound (s : State) (i : Nat) : State := { s with fab := { s.fab with rounds := s.fab.rounds.eraseIdx i } }

/-- The sum of round x as it leaves its hub. -/
def sumFlit (x : Round) (t : TreeEntry) : Flit :=
  ⟨.contribution, x.src, t.dest, x.key, .eject x.r, [], roundSum x.parts, 0, x.d, x.cn, x.ce, x.index, none, none,
    if 1 < t.inputs.length then x.landing.map (· + 2) else x.landing, false, 0⟩

theorem all_contains {α : Type} [BEq α] [LawfulBEq α] {l m : List α} (h : ∀ b ∈ l, b ∈ m) : (l.all fun b => m.contains b) = true := by
  simpa using h

/-- At the root of its tree a complete round leaves the fabric for a core or the sequencer. -/
theorem State.forwardRound_ejects (h : RoundAt s i x t) (hall : ∀ b ∈ t.inputs, b ∈ x.got) (hout : t.out = .seq ∨ ∃ n, t.out = .core n)
    (hfree : ∀ g ∈ s.fab.flits, g.loc = .eject x.r → g.dest ≠ t.dest) :
    s.forwardRound i = (s.endRound i).addFlit { sumFlit x t with kind := .reduced } := by
  have hbusy : (s.fab.flits.any fun g => decide (g.loc = .eject x.r) && decide (g.dest = t.dest)) = false := by
    simpa using hfree
  rcases hout with hout | ⟨n, hout⟩ <;>
    simp only [State.forwardRound, h.round, h.tree, all_contains hall, hout, hbusy, Bool.not_true, Bool.false_eq_true, if_false] <;> rfl

/-- Below the root it goes on along a ring, where the next hub has room. -/
theorem State.forwardRound_sends (h : RoundAt s i x t) (hall : ∀ b ∈ t.inputs, b ∈ x.got) {q : Nat} (hout : t.out = .dir q) {u : State}
    (hsend : (s.endRound i).sendRing (sumFlit x t) x.r q (if .dir (opp q) ∈ t.inputs then 1 else 2) = some u) : s.forwardRound i = u := by
  have hstraight : t.inputs.contains (.dir (opp q)) = decide (Branch.dir (opp q) ∈ t.inputs) := List.contains_eq_mem _ _
  rw [State.endRound, sumFlit] at hsend
  simp only [State.forwardRound, h.round, h.tree, all_contains hall, hout, hstraight, decide_eq_true_eq, Bool.not_true, Bool.false_eq_true, if_false, hsend]

/-- A round that is open for the limit. -/
theorem execReductionStallTimeout_of_due (h : RoundAt s i x t) (hfirst : x.faulted = false)
    (hdue : 2 ^ (s.fld Reg.FAB_CFG 23 20 + 10) ≤ s.cyclesSince x.opened) (hmiss : missingInputs t x ≠ 0) {p : Nat} (hp : s.keyOwner x.key = some p) :
    execReductionStallTimeout i s = .next (((s.setRounds (s.fab.rounds.set i { x with faulted := true })).stallLog 1 p x.index
      (missingInputs t x) x.r).jobFatal (some p) 34 6 (regionLocus x.r)) := by
  have howner : (s.setRounds (s.fab.rounds.set i { x with faulted := true })).keyOwner x.key = some p := hp
  rw [State.setRounds] at howner ⊢
  simp [execReductionStallTimeout, h.round, h.tree, hfirst, Nat.not_lt.2 hdue, hmiss, howner]

end

/-! The exact sum (R47, R48, R85) -/

/-- Contributions within the range and without marks: the exact sum, saturated once. -/
theorem accumulate_zero_of_in {l : List (Int × Bool)} (h : ∀ y ∈ l, y.2 = false ∧ accBot ≤ y.1 ∧ y.1 ≤ accTop) :
    (accumulate Acc.zero l).1 =
      if accBot ≤ (l.map (·.1)).sum ∧ (l.map (·.1)).sum ≤ accTop then ⟨(l.map (·.1)).sum, false⟩
      else if 0 < (l.map (·.1)).sum then ⟨accTop, true⟩ else ⟨accBot, true⟩ := by
  have hlone : (l.filter fun y => y.2 || !accIn y.1) = [] := by
    refine List.filter_eq_nil_iff.2 fun y hy => ?_
    obtain ⟨hmark, hbot, htop⟩ := h y hy
    simp [accIn, hmark, hbot, htop]
  have hsum : l.foldl (fun x y => x + y.1) 0 = (l.map (·.1)).sum := by
    rw [List.sum_eq_foldl, List.foldl_map]
  have hzero : accIn 0 = true := by decide
  simp only [accumulate, Acc.zero, hlone, hsum, Bool.false_eq_true, if_false, List.isEmpty_nil, Bool.true_and]
  generalize (l.map (·.1)).sum = v
  by_cases hin : accIn v = true
  · have hrange : accBot ≤ v ∧ v ≤ accTop := by simpa [accIn] using hin
    rw [if_pos hin, if_pos hrange]
  · have hrange : ¬(accBot ≤ v ∧ v ≤ accTop) := by simpa [accIn] using hin
    have hv : v ≠ 0 := fun e => hin (e ▸ hzero)
    rw [if_neg hin, if_neg hrange]
    by_cases hpos : 0 < v <;> simp [accSat, hpos, hv]

theorem roundSum_getElem? (l : List (List Acc)) {k : Nat} (hk : k < 16) :
    (roundSum l)[k]? = some (accumulate Acc.zero (l.map fun p => (((p[k]?).getD Acc.zero).val, ((p[k]?).getD Acc.zero).sat))).1 := by
  simp [roundSum, hk]

/-- Settles O18: a contribution opens or joins the round of its index, a complete round leaves as the sum that `accumulate` makes of it, and one open for the
limit is logged and faults once. The two cycles that combining adds to a landing are R201's. -/
theorem reductionRounds : Obligations.ReductionRounds := by
  intro s i
  refine ⟨fun f r inp t hflit hhub hkind hhead hruns htree => ?_, fun x t hround htree => ?_, fun l k hk hl => ?_⟩
  · have hat : ContributionAt s i r inp f t := ⟨hflit, hhub, hkind, hhead, hruns, htree⟩
    exact ⟨fun hnew hroom => congrArg _ (State.contribute_opens hat hnew hroom),
      fun x l m hrounds hbefore hx hgot hland => congrArg _ (State.contribute_joins hat hrounds hbefore hx hgot hland)⟩
  · have hat : RoundAt s i x t := ⟨hround, htree⟩
    exact ⟨fun hall hout hfree => congrArg _ (State.forwardRound_ejects hat hall hout hfree),
      fun q u hall hout hsend => congrArg _ (State.forwardRound_sends hat hall hout hsend),
      fun p hfirst hdue hmiss hp => execReductionStallTimeout_of_due hat hfirst hdue hmiss hp⟩
  · rw [roundSum_getElem? l hk, accumulate_zero_of_in]
    · simp [Function.comp_def]
    · simpa using hl

/-! ### Flits on their way (O15) -/

/-! The replay count of a port, which a hop ends, is no input of a route. -/

/-- A hop ends a row of replays at its port (R212). -/
def State.endReplays (s : State) (r inp : Nat) : State := { s with fab := { s.fab with replays := tabDrop s.fab.replays (10 * r + inp % 10) } }

@[simp] theorem State.endReplays_flits (s : State) (a b : Nat) : (s.endReplays a b).fab.flits = s.fab.flits := rfl
@[simp] theorem State.endReplays_last (s : State) (a b : Nat) : (s.endReplays a b).last = s.last := rfl
@[simp] theorem State.endReplays_ringHub (s : State) (a b r q : Nat) : (s.endReplays a b).ringHub r q = s.ringHub r q := rfl
@[simp] theorem State.endReplays_isHead (s : State) (a b i : Nat) (l : FlitLoc) : (s.endReplays a b).isHead i l = s.isHead i l := rfl
@[simp] theorem State.endReplays_lookup (s : State) (a b n : Nat) : (s.endReplays a b).lookup n = s.lookup n := rfl
@[simp] theorem State.endReplays_portCheck (s : State) (a b : Nat) (f : Flit) : (s.endReplays a b).portCheck f = s.portCheck f := rfl
@[simp] theorem State.endReplays_stallKey (s : State) (a b k : Nat) : (s.endReplays a b).stallKey k = s.stallKey k := rfl
@[simp] theorem State.endReplays_weltDirs (s : State) (a b : Nat) (x y d : Nat × Nat) : (s.endReplays a b).weltDirs x y d = s.weltDirs x y d := rfl
@[simp] theorem State.endReplays_rimHub (s : State) (a b st : Nat) (x : Nat × Nat) (o : Bool) : (s.endReplays a b).rimHub x st o = s.rimHub x st o := rfl
@[simp] theorem State.endReplays_viaWelt (s : State) (a b : Nat) (f : Flit) (e : Endpoint) : (s.endReplays a b).viaWelt f e = s.viaWelt f e := rfl

@[simp] theorem State.endReplays_rimPlace (s : State) (a b x y c : Nat) : (s.endReplays a b).rimPlace x y c = s.rimPlace x y c := by
  simp only [State.rimPlace, State.endReplays_rimHub, State.endReplays_last]

@[simp] theorem State.endReplays_destHub (s : State) (a b : Nat) (f : Flit) (e : Endpoint) : (s.endReplays a b).destHub f e = s.destHub f e := by
  simp only [State.destHub, State.endReplays_lookup, State.endReplays_rimPlace, State.endReplays_last]

@[simp] theorem State.endReplays_outOf (s : State) (a b r : Nat) (f : Flit) (e : Endpoint) : (s.endReplays a b).outOf r f e = s.outOf r f e := by
  simp only [State.outOf, State.endReplays_destHub, State.endReplays_viaWelt, State.endReplays_weltDirs, State.endReplays_last]

/-- Whether ring direction q takes a flit: it vanishes at a failed link or a stopped hub, else the next hub needs room. -/
theorem State.isSome_sendRing {s : State} {r q t : Nat} (hnext : s.ringHub r q = some t) (g : Flit) (need : Nat) :
    (s.sendRing g r q need).isSome =
      (s.fab.failedLinks.contains (10 * r + s.ringPort r q) || (s.region t).hubStopped ||
        decide (s.inBuffer (.hub t (opp (s.ringPort r q))) + need ≤ 4)) := by
  simp only [State.sendRing, hnext]
  split
  · next hlost => rw [hlost]; rfl
  · next hgoes =>
    rw [Bool.eq_false_of_not_eq_true hgoes]
    split
    · next hfull => simp [hfull]
    · next hroom => simp [Nat.not_lt.1 hroom]

@[simp] theorem State.isSome_sendRing_endReplays (s : State) (a b r q need : Nat) (g : Flit) :
    ((s.endReplays a b).sendRing g r q need).isSome = (s.sendRing g r q need).isSome := by
  cases hnext : s.ringHub r q with
  | none => simp [State.sendRing, hnext]
  | some t =>
    have hnext' : (s.endReplays a b).ringHub r q = some t := (State.endReplays_ringHub s a b r q).trans hnext
    rw [State.isSome_sendRing hnext, State.isSome_sendRing hnext']
    rfl

@[simp] theorem State.outranked_endReplays (s : State) (a b r q : Nat) (g : Flit) : (s.endReplays a b).outranked r q g = s.outranked r q g := by
  simp only [State.outranked, State.endReplays_flits, State.endReplays_isHead, State.endReplays_lookup, State.endReplays_portCheck,
    State.endReplays_outOf, State.endReplays_stallKey, State.isSome_sendRing_endReplays]

/-! A hop (R214, R216, R224) -/

/-- Dropping a flit frees places. -/
theorem State.inBuffer_dropFlit_le (s : State) (i : Nat) (l : FlitLoc) : (s.dropFlit i).inBuffer l ≤ s.inBuffer l :=
  ((List.eraseIdx_sublist s.fab.flits i).filter _).length_le

/-- A flit enters the next hub of its ring, seven cycles on (R201). -/
theorem State.sendRing_of_room {s : State} {r q t need : Nat} (f : Flit) (hnext : s.ringHub r q = some t)
    (hlink : 10 * r + s.ringPort r q ∉ s.fab.failedLinks) (hruns : (s.region t).hubStopped = false)
    (hroom : s.inBuffer (.hub t (opp (s.ringPort r q))) + need ≤ 4) :
    s.sendRing f r q need = some ((s.addFlit { f with
      loc := .hub t (opp (s.ringPort r q)), left := none, headSince := none, stalled := false, landing := f.landing.map (· + 7) }).countFlit r
        (s.ringPort r q)) := by
  simp [State.sendRing, hnext, hlink, hruns, Nat.not_lt.2 hroom]

section
variable {s : State} {i r inp : Nat} {f : Flit} {e : Endpoint}

/-- A unicast flit at the head of an input of a hub that runs. -/
structure HeadAt (s : State) (i r inp : Nat) (f : Flit) : Prop where
  flit : s.fab.flits[i]? = some f
  hub : flitHub f.loc = some (r, inp)
  kind : unicast f.kind = true
  head : s.isHead i f.loc = true
  runs : (s.region r).hubStopped = false

/-- A head flit that passes the check of its port, with the endpoint it goes to. -/
structure PassesTo (s : State) (i r inp : Nat) (f : Flit) (e : Endpoint) : Prop extends HeadAt s i r inp f where
  check : s.portCheck f = none
  entry : s.lookup f.dest = some e

theorem State.hop_refuses (h : HeadAt s i r inp f) {reason ekey : Nat} (hcheck : s.portCheck f = some (reason, ekey)) :
    s.hop i false = ((s.endReplays r inp).dropFlit i).violation reason f.key f.src f.dest ekey r inp := by
  have hcheck' : (s.endReplays r inp).portCheck f = some (reason, ekey) := hcheck
  rw [State.endReplays] at hcheck' ⊢
  simp [State.hop, h.flit, h.hub, h.kind, h.head, h.runs, hcheck']

/-- Where flit i goes that leaves hub r by output q: to the core or sequencer, to a stub, or along a ring; or it waits. -/
def State.leaveBy (s : State) (i r : Nat) (f : Flit) (q : Nat) : State :=
  if q = 10 then
    if s.fab.flits.any fun g => decide (g.loc = .eject r) && decide (g.dest = f.dest) then s else (s.dropFlit i).addFlit { f with loc := .eject r }
  else if 8 ≤ q then
    if s.fab.failedLinks.contains (10 * r + q) then s.dropFlit i
    else if s.inBuffer (.welt r q) = 0 then ((s.dropFlit i).addFlit { f with loc := .welt r q }).countFlit r q
    else s.waitFlit i r q f
  else if s.outranked r q f then s.waitFlit i r (s.ringPort r q) f
  else match s.sendRing f r q (placesNeeded f.loc q) with
    | some _ => ((s.dropFlit i).sendRing f r q (placesNeeded f.loc q)).getD s
    | none => s.waitFlit i r (s.ringPort r q) f

theorem State.hop_passes (h : PassesTo s i r inp f e) : s.hop i false = (s.endReplays r inp).leaveBy i r f (s.outOf r f e) := by
  have hcheck : (s.endReplays r inp).portCheck f = none := h.check
  have hentry : (s.endReplays r inp).lookup f.dest = some e := h.entry
  rw [← State.endReplays_outOf s r inp]
  rw [State.endReplays] at hcheck hentry ⊢
  simp only [State.hop, h.flit, h.hub, h.kind, h.head, h.runs, hcheck, hentry, Bool.not_true, Bool.or_self, Bool.false_and, Bool.false_eq_true, if_false]
  rfl

theorem State.leaveBy_ejection (hfree : ∀ g ∈ s.fab.flits, g.loc = .eject r → g.dest ≠ f.dest) :
    s.leaveBy i r f 10 = (s.dropFlit i).addFlit { f with loc := .eject r } := by
  have hnone : (s.fab.flits.any fun g => decide (g.loc = .eject r) && decide (g.dest = f.dest)) = false := by simpa using hfree
  simp only [State.leaveBy, hnone, Bool.false_eq_true, if_true, if_false]

theorem State.leaveBy_stub {q : Nat} (hq : q = 8 ∨ q = 9) (hlink : 10 * r + q ∉ s.fab.failedLinks) (hfree : ∀ g ∈ s.fab.flits, g.loc ≠ .welt r q) :
    s.leaveBy i r f q = ((s.dropFlit i).addFlit { f with loc := .welt r q }).countFlit r q := by
  have hempty : s.inBuffer (.welt r q) = 0 := by
    rw [State.inBuffer, List.length_eq_zero_iff, List.filter_eq_nil_iff]
    simpa using hfree
  have hstub : q ≠ 10 ∧ 8 ≤ q := by omega
  simp [State.leaveBy, hstub, hlink, hempty]

theorem State.leaveBy_ring {q t : Nat} (hq : q < 4) (hfirst : s.outranked r q f = false) (hnext : s.ringHub r q = some t)
    (hlink : 10 * r + s.ringPort r q ∉ s.fab.failedLinks) (hruns : (s.region t).hubStopped = false)
    (hroom : s.inBuffer (.hub t (opp (s.ringPort r q))) + placesNeeded f.loc q ≤ 4) :
    s.leaveBy i r f q = ((s.dropFlit i).addFlit { f with
      loc := .hub t (opp (s.ringPort r q)), left := none, headSince := none, stalled := false, landing := f.landing.map (· + 7) }).countFlit r
        (s.ringPort r q) := by
  have hring : q ≠ 10 ∧ ¬8 ≤ q := by omega
  have hsend := State.sendRing_of_room f hnext hlink hruns hroom
  have hroom' : (s.dropFlit i).inBuffer (.hub t (opp (s.ringPort r q))) + placesNeeded f.loc q ≤ 4 :=
    (Nat.add_le_add_right (s.inBuffer_dropFlit_le i _) _).trans hroom
  have hsend' : (s.dropFlit i).sendRing f r q (placesNeeded f.loc q) = _ := State.sendRing_of_room f hnext hlink hruns hroom'
  simp only [State.leaveBy, hring, hfirst, hsend, hsend', if_false, Bool.false_eq_true, Option.getD_some]
  rfl

end

/-! A delivery (R60, R177, R224) -/

section
variable {s : State} {i r n k : Nat} {f : Flit} {e : Endpoint}

theorem State.deliverFlit_core (hflit : s.fab.flits[i]? = some f) (hloc : f.loc = .eject r) (hentry : s.lookup f.dest = some e)
    (hport : e.port = .core n) : s.deliverFlit i = (s.dropFlit i).deliverCore f r n e.key := by
  simp only [State.deliverFlit, hflit, hloc, hentry, hport]

theorem State.deliverCore_of_foreign {ekey : Nat} (hlive : s.dead r = false) (hkey : ekey ≠ f.key) :
    s.deliverCore f r n ekey = s.violation 4 f.key f.src f.dest ekey r 10 := by
  rw [State.deliverCore, hlive, if_neg Bool.false_ne_true, if_pos hkey]

/-- Outside stall mode a flit is held from the cycle it arrives in. -/
theorem State.heldFrom_of_unplanned (s : State) (k : Nat) (hland : f.landing = none) : s.heldFrom k f = ((s.coreAt k).now, false) := by
  rw [State.heldFrom, hland]

theorem State.deliverCore_of_own (hlive : s.dead r = false) (hslice : s.sliceKey r n = some k) (hland : f.landing = none) :
    s.deliverCore f r n f.key = s.setCoreAt k ((s.coreAt k).pushAll (s.coreAt k).now 4 (flitEffects f)) := by
  rw [State.deliverCore, hlive, if_neg Bool.false_ne_true, if_neg (not_not_intro rfl), hslice]
  simp only [State.heldFrom_of_unplanned s k hland, Bool.false_eq_true, if_false]
  rfl

/-- The count that a flit adds to the counter it names. -/
def countEffects (f : Flit) : List Eff := if f.ce then [.ctrAdd f.cn 1 true] else []

theorem flitEffects_of_data (h : f.kind = .send ∨ f.kind = .multicast) : flitEffects f = .bytes f.space f.raddr f.data :: countEffects f := by
  rcases h with h | h <;> rw [flitEffects, h] <;> rfl

theorem flitEffects_of_signal (h : f.kind = .signal ∨ f.kind = .signalMulti) : flitEffects f = countEffects f := by
  rcases h with h | h <;> rw [flitEffects, h] <;> rfl

theorem flitEffects_of_sum (h : f.kind = .reduced) (hexact : ∀ a ∈ f.accs, a.sat = false) :
    flitEffects f = (List.range 16).map (fun j => .accAdd (f.raddr + j) [((f.accs[j]?).getD Acc.zero).val]) ++ countEffects f := by
  have hunmarked : ∀ j : Nat, ((f.accs[j]?).getD Acc.zero).sat = false := fun j => by
    cases hj : f.accs[j]? with
    | none => rfl
    | some a => exact hexact a (List.mem_of_getElem? hj)
  rw [flitEffects, h]
  simp only [hunmarked, Bool.false_eq_true, if_false]
  rfl

end

/-- Settles O15: a hop is the check of its port or the way its output leads, and a delivery puts the flit's effects into the core's flight. The seven cycles
that a hop adds to a landing are R201's. -/
theorem flitTravel : Obligations.FlitTravel := by
  refine ⟨fun s i r inp f hflit hhub hkind hhead hruns => ?_, fun s i r n k f e hflit hloc hentry hport hlive hland => ?_⟩
  · have hat : HeadAt s i r inp f := ⟨hflit, hhub, hkind, hhead, hruns⟩
    refine ⟨fun reason ekey hcheck => congrArg _ (State.hop_refuses hat hcheck), fun e hcheck hentry hout hfree => ?_,
      fun e q hcheck hentry hout hq hlink hfree => ?_, fun e q t hcheck hentry hout hq hfirst hnext hlink hlive hroom => ?_⟩
    all_goals refine congrArg _ ((State.hop_passes ⟨hat, hcheck, hentry⟩).trans ?_); rw [hout]
    · exact State.leaveBy_ejection hfree
    · exact State.leaveBy_stub hq hlink hfree
    · exact State.leaveBy_ring hq ((State.outranked_endReplays s r inp r q f).trans hfirst) hnext hlink hlive hroom
  · have hexec : exec (.flitDelivery i) s = .next ((s.dropFlit i).deliverCore f r n e.key) :=
      congrArg _ (State.deliverFlit_core hflit hloc hentry hport)
    have hlive' : (s.dropFlit i).dead r = false := hlive
    have hown : e.key = f.key → s.sliceKey r n = some k → (s.dropFlit i).deliverCore f r n e.key =
        (s.dropFlit i).setCoreAt k ((s.coreAt k).pushAll (s.coreAt k).now 4 (flitEffects f)) :=
      fun hkey hslice => hkey ▸ State.deliverCore_of_own hlive' hslice hland
    refine ⟨fun hkey => ?_, fun hkey hslice hkind => ?_, fun hkey hslice hkind => ?_, fun hkey hslice hkind hexact => ?_⟩
    · rw [hexec, State.deliverCore_of_foreign hlive' hkey]
      rfl
    · rw [hexec, hown hkey hslice, flitEffects_of_data hkind]
      rfl
    · rw [hexec, hown hkey hslice, flitEffects_of_signal hkind]
      rfl
    · rw [hexec, hown hkey hslice, flitEffects_of_sum hkind hexact]
      rfl

/-! ### Junction temperatures (O45) -/

/-- Has it been n ns or more since a time that may not be set? -/
def State.past (s : State) (o : Option Long) (n : Nat) : Bool :=
  match o, n with
  | some t, n => s.elapsed t n
  | none, _ => false

theorem State.past_eq_true {s : State} {o : Option Long} {n : Nat} : s.past o n = true ↔ ∃ t ∈ o, s.elapsed t n = true := by
  cases o <;> simp [State.past]

theorem State.past_eq_false {s : State} {o : Option Long} {n : Nat} : s.past o n = false ↔ ∀ t ∈ o, s.elapsed t n = false := by
  cases o <;> simp [State.past]

/-! Samples (R63, R395 to R398) -/

theorem State.coreSample_diode {s : State} {key : Nat} (h : (s.coreAt key).powered = true) (v : Option Nat) :
    s.coreSample key true v = ((s.modCoreAt key fun y =>
      { y with tempD := v, missingSince := if v.isNone || y.tempR.isNone then some (y.missingSince.getD s.time) else none }).comparePair key).suspectCap
        (key / 17) := by
  rw [State.coreSample, h]
  rfl

theorem State.coreSample_ring {s : State} {key : Nat} (h : (s.coreAt key).powered = true) (v : Option Nat) :
    s.coreSample key false v = (s.modCoreAt key fun y =>
      { y with tempR := v.map (fun z => z / 2 * 2),
               missingSince := if y.tempD.isNone || v.isNone then some (y.missingSince.getD s.time) else none }).suspectCap (key / 17) := by
  rw [State.coreSample, h]
  cases v <;> rfl

theorem State.coreSample_unpowered {s : State} {key : Nat} (h : (s.coreAt key).powered = false) (diode : Bool) (v : Option Nat) :
    s.coreSample key diode v = s := by
  rw [State.coreSample, h]
  rfl

/-- The diode or the ring oscillator of a core. -/
def coreSensor (c : CoreId) (diode : Bool) : Sensor := if diode then .coreDiode c else .coreRing c

/-- A core's sensor is watched for 120 °C while the core has power. -/
theorem execSensorSample_core (s : State) (c : CoreId) (diode : Bool) (v : Option Nat) :
    execSensorSample (coreSensor c diode) v s = .next (((((s.coreSample (CoreId_key c) diode v).thermUpdate c.r).showThermal).watchHot (coreSensor c diode)
      (if (s.core c).powered then v else none)).checkConditions) := by
  cases diode <;> rfl

/-! The latched shutdown's watch (R399) -/

theorem State.watchHot_again {s : State} {sn : Sensor} {n : Nat} (hn : 736 ≤ n) (hwas : s.thm.hotSensors.contains sn = true) :
    ∃ w : State, s.watchHot sn (some n) = w.shutdown 1 ∧ w = { s with thm := w.thm } := by
  refine ⟨{ s with thm := { s.thm with hotSensors := (s.thm.hotSensors.filter fun x => decide (x ≠ sn)) ++ [sn] } }, ?_, rfl⟩
  simp only [State.watchHot, hwas, decide_eq_true hn, Bool.and_self, if_true]

theorem State.watchHot_cooler (s : State) (sn : Sensor) {n : Nat} (hn : n < 736) :
    ∃ l, s.watchHot sn (some n) = { s with thm := { s.thm with hotSensors := l } } ∧ sn ∉ l := by
  refine ⟨s.thm.hotSensors.filter fun x => decide (x ≠ sn), ?_, by simp⟩
  simp only [State.watchHot, decide_eq_false (Nat.not_le.2 hn), Bool.false_and, Bool.false_eq_true, if_false]

/-! Levels (R396, R399 to R401) -/

/-- Table 15-2: a level is entered at its threshold and left 5 °C below it. -/
theorem levelFor_some (old n : Nat) :
    levelFor old (some n) = if 676 ≤ n ∨ (old = 2 ∧ 656 ≤ n) then 2 else if 636 ≤ n ∨ (1 ≤ old ∧ 616 ≤ n) then 1 else 0 := by
  simp only [levelFor]
  split_ifs <;> omega

theorem levelFor_le (old : Nat) (t : Option Nat) : levelFor old t ≤ 2 := by
  cases t with
  | none => exact Nat.zero_le _
  | some n => rw [levelFor_some]; split_ifs <;> omega

/-- Region r shows a level and a temperature. -/
structure ThermShows (r level temp : Nat) (s : State) : Prop where
  ok : Canonical s
  level : s.levelOf r = level
  temp : s.fld (Reg.RGNW_THM_STAT r) 9 0 = temp

section
variable {r level temp : Nat} {s : State}

theorem ThermShows.of_writesIn {w : Nat → Prop} {t : State} (h : ThermShows r level temp s) (ht : WritesIn w s t) (hw : ¬w (Reg.RGNW_THM_STAT r)) :
    ThermShows r level temp t :=
  ⟨ht.ok, (ht.fld hw 31 30).trans h.level, (ht.fld hw 9 0).trans h.temp⟩

/-- Bits 10 to 29 hold neither. -/
theorem ThermShows.setFld (h : ThermShows r level temp s) {hi lo : Nat} (hlo : 10 ≤ lo) (hhi : hi ≤ 29) (v : Nat) :
    ThermShows r level temp (s.setFld (Reg.RGNW_THM_STAT r) hi lo v) :=
  ⟨h.ok.setFld _ _ _ _, (State.fld_setFld_apart h.ok _ _ _ _ _ _ (by omega)).trans h.level,
    (State.fld_setFld_apart h.ok _ _ _ _ _ _ (by omega)).trans h.temp⟩

theorem ThermShows.of_regs {t : State} (h : ThermShows r level temp s) (ok : Canonical t) (hr : t.regs = s.regs) : ThermShows r level temp t :=
  h.of_writesIn (w := fun _ => False) ((WritesIn.refl h.ok).of_regs ok hr) id

theorem ThermShows.modRegion (h : ThermShows r level temp s) (q : Nat) (f : Region → Region) : ThermShows r level temp (s.modRegion q f) :=
  h.of_regs (h.ok.modRegion q f) rfl

theorem ThermShows.wr_ne (h : ThermShows r level temp s) {a : Nat} (ha : a ≠ Reg.RGNW_THM_STAT r) (v : Word) : ThermShows r level temp (s.wr a v) :=
  h.of_writesIn ((WritesIn.refl h.ok).wr (w := (· = a)) rfl v) ha.symm

theorem ThermShows.ite {c : Prop} [Decidable c] {t : State} (hs : ThermShows r level temp s) (ht : ThermShows r level temp t) :
    ThermShows r level temp (if c then s else t) := by
  split
  · exact hs
  · exact ht

/-- The registers of the device's blocks lie below the regions' windows. -/
theorem ne_thermStat {a : Nat} (ha : a < 0x1000000) (r : Nat) : a ≠ Reg.RGNW_THM_STAT r := by
  unfold Reg.RGNW_THM_STAT winBase
  omega

theorem not_logReg_thermStat (r : Nat) : ¬logReg (Reg.RGNW_THM_STAT r) := by
  rintro (h | h | h | h) <;> exact ne_thermStat (by decide) r h.symm

theorem ThermShows.logEvent (h : ThermShows r level temp s) (code arg : Nat) (data : Bytes) : ThermShows r level temp (s.logEvent code arg data) :=
  h.of_writesIn (State.logRaw_frame (.refl h.ok) _ _ _).1 (not_logReg_thermStat r)

theorem ThermShows.levelEvent (h : ThermShows r level temp s) (q n : Nat) (left : Bool) : ThermShows r level temp (s.levelEvent q n left) := by
  have hlog : ∀ data, ThermShows r level temp (s.logEvent 10 (n + if left then 4 else 0) data) := h.logEvent _ _
  have hsignal : ∀ {t : State}, ThermShows r level temp t → ThermShows r level temp (t.signal 130) := fun ht =>
    ht.of_regs (State.signal_kept ht.ok.kept 130).ok (State.signal_regs _ _)
  exact .ite (.ite (hlog _) (hsignal ((hlog _).modRegion _ _))) h

/-- The counts and the event of a change of a region's level (R400). -/
def State.levelChange (s : State) (q old new : Nat) : State :=
  let s := if old < 1 ∧ 1 ≤ new then s.bump Reg.THM_EVT 31 24 else s
  let s := if old < 2 ∧ new = 2 then s.bump Reg.THM_EVT 23 16 else s
  if old < new then s.levelEvent q new false else if new < old then s.levelEvent q old true else s

theorem ThermShows.levelChange (h : ThermShows r level temp s) (q old new : Nat) : ThermShows r level temp (s.levelChange q old new) := by
  have hevt : Reg.THM_EVT ≠ Reg.RGNW_THM_STAT r := ne_thermStat (by decide) r
  have hwarn : ThermShows r level temp (if old < 1 ∧ 1 ≤ new then s.bump Reg.THM_EVT 31 24 else s) := .ite (h.wr_ne hevt _) h
  have hthrottle : ThermShows r level temp (if old < 2 ∧ new = 2 then (if old < 1 ∧ 1 ≤ new then s.bump Reg.THM_EVT 31 24 else s).bump Reg.THM_EVT 23 16
    else if old < 1 ∧ 1 ≤ new then s.bump Reg.THM_EVT 31 24 else s) := .ite (hwarn.wr_ne hevt _) hwarn
  exact .ite (hthrottle.levelEvent _ _ _) (.ite (hthrottle.levelEvent _ _ _) hthrottle)

theorem ThermShows.enforce (h : ThermShows r level temp s) : ThermShows r level temp (s.enforce r) :=
  .ite h ((h.modRegion _ _).setFld (by decide) (by decide) _)

theorem ThermShows.showKt (h : ThermShows r level temp s) : ThermShows r level temp (s.showKt r) :=
  (h.setFld (by decide) (by decide) _).setFld (by decide) (by decide) _

theorem State.announcePart_regs (s : State) (p : Nat) : (s.announcePart p).regs = s.regs := by
  rw [State.announcePart, apply_ite State.regs]
  exact ite_self _

theorem State.announce_regs (s : State) (r : Nat) : (s.announce r).regs = s.regs := by
  unfold State.announce
  cases s.owner r with
  | none => rfl
  | some p => exact State.announcePart_regs s p

theorem ThermShows.announce (h : ThermShows r level temp s) (q : Nat) : ThermShows r level temp (s.announce q) :=
  h.of_regs (State.announce_kept h.ok.kept q).ok (State.announce_regs s q)

end

/-- An update outside enforcement shows the higher of the region's own level and its welt sensor's, and its temperature. -/
theorem State.thermUpdate_shows {s : State} (ok : Canonical s) {r k : Nat} (hk : s.regionTemp r = some k) (hcode : k < 1024)
    (hwelt : s.weltLevelOf r ≤ 2) (hfree : flag (s.rd (Reg.RGNW_THM_STAT r)) 29 = false) :
    ThermShows r (max (levelFor (s.region r).ownLevel (some k)) (s.weltLevelOf r)) k (s.thermUpdate r) := by
  have hlevel : max (levelFor (s.region r).ownLevel (some k)) (s.weltLevelOf r) < 4 := by
    have := levelFor_le (s.region r).ownLevel (some k)
    omega
  generalize hl : max (levelFor (s.region r).ownLevel (some k)) (s.weltLevelOf r) = level at hlevel ⊢
  have hstart : ThermShows r level k ((s.setFld (Reg.RGNW_THM_STAT r) 31 30 level).setFld (Reg.RGNW_THM_STAT r) 9 0 k) := by
    have ok' := ok.setFld (Reg.RGNW_THM_STAT r) 31 30 level
    refine ⟨ok'.setFld _ _ _ _, ?_, ?_⟩
    · rw [State.levelOf, State.fld_setFld_apart ok' _ _ _ _ _ _ (by decide), State.fld_setFld ok _ _ _ _ (by decide)]
      exact Nat.mod_eq_of_lt hlevel
    · rw [State.fld_setFld ok' _ _ _ _ (by decide)]
      exact Nat.mod_eq_of_lt hcode
  unfold State.thermUpdate
  simp only [hk, hfree, Bool.false_and, Bool.false_eq_true, if_false, Option.isNone_some, Option.getD_some, hl]
  have hchanged := fun (peak : Nat) (f : Region → Region) =>
    ((hstart.setFld (hi := 19) (lo := 10) (by decide) (by decide) peak).modRegion r f).levelChange r (s.levelOf r) level
  exact ((ThermShows.ite (hchanged _ _).enforce (hchanged _ _)).showKt).announce r

/-! Suspect pairs, enforcement and converters (R397, R401, R402, R406) -/

theorem execSensorPairSuspect_eq (c : CoreId) (s : State) :
    execSensorPairSuspect c s = .next (
      if (s.core c).powered && !(s.core c).suspect && (s.past (s.core c).suspectSince 1000000000 || s.past (s.core c).missingSince 1000000) then
        let z := ((((s.modCore c fun y => { y with suspect := true }).bump Reg.THM_EVT 7 0).suspectCap c.r).showKt c.r).announce c.r
        (z.deferred 17 (z.owner c.r) (coreLocus (CoreId_key c))).checkConditions
      else s) := rfl

theorem execThrottleGraceExpire_of_throttled {s : State} {r : Nat} {t : Long} (ht : (s.region r).throttleSince = some t) :
    execThrottleGraceExpire r s = .next (
      if s.levelOf r = 2 ∧ flag (s.rd Reg.GLB_MODE) 2 = false ∧ s.elapsed t (1000000 * s.fld Reg.THM_CFG 15 0) = true then
        ((((s.enforce r).showKt r).showCounts).announce r).checkConditions
      else s) := by
  simp only [execThrottleGraceExpire, ht]

theorem execThrottleGraceExpire_of_untimed {s : State} {r : Nat} (h : (s.region r).throttleSince = none) : execThrottleGraceExpire r s = .next s := by
  simp only [execThrottleGraceExpire, h]

theorem State.enforce_begins {s : State} (ok : Canonical s) {r : Nat} (h : flag (s.rd (Reg.RGNW_THM_STAT r)) 29 = false) :
    ((s.enforce r).region r).kTherm = 2 ∧ flag ((s.enforce r).rd (Reg.RGNW_THM_STAT r)) 29 = true := by
  rw [State.enforce, h, if_neg Bool.false_ne_true]
  constructor
  · rw [State.setFld_region_frame, State.region_modRegion ok, if_pos rfl]
  · rw [State.rd_setFld (ok.modRegion _ _), if_pos rfl, flag_setField _ _ _ (by decide)]
    rfl

/-- The step up after 10 ms at 105 °C. -/
def State.stretchUp (s : State) (r : Nat) : State :=
  (((s.modRegion r fun y => { y with kTherm := min 7 (y.kTherm + 1), hotSince := some s.time }).showKt r).announce r).checkConditions

/-- The step down after 100 ms below 100 °C; from 1 it ends the enforcement. -/
def State.stretchDown (s : State) (r : Nat) : State :=
  let u := s.modRegion r fun y => { y with kTherm := y.kTherm - 1, coolSince := some s.time }
  let u := if (s.region r).kTherm ≤ 1 then (u.setFld (Reg.RGNW_THM_STAT r) 29 29 0).thermUpdate r else u
  (((u.showKt r).showCounts).announce r).checkConditions

theorem execThermalStretchAdjust_eq (r : Nat) (s : State) :
    execThermalStretchAdjust r s = .next (
      if !flag (s.rd (Reg.RGNW_THM_STAT r)) 29 then s
      else if s.past (s.region r).hotSince 10000000 then s.stretchUp r
      else if s.past (s.region r).coolSince 100000000 then s.stretchDown r
      else s) := rfl

theorem execConverterOvertemp_eq (i : Nat) (s : State) :
    execConverterOvertemp i s = .next (if s.past (tabFind s.thm.hotConverter i) 1000000 then (s.converterOff i).checkConditions else s) := by
  unfold execConverterOvertemp
  cases tabFind s.thm.hotConverter i <;> rfl

/-- Settles O45 with a lemma for each sensor, for the update of a region's level and for each timer. What a regulator without a reading and the cap of a suspect
pair do is the model's reading (notes/assumptions/78.md, 79.md), and that a command whose condition does not hold changes nothing its choice (4.md). -/
theorem junctionTemperatures : Obligations.JunctionTemperatures := by
  intro s c r i n v ok _
  dsimp only
  refine ⟨fun hon => ⟨?_, ?_⟩, fun hoff => ?_, rfl, rfl, ?_, rfl, fun sn u hn hwas => State.watchHot_again hn hwas,
    fun sn u hn => u.watchHot_cooler sn hn, fun old => levelFor_some old n, fun k hk hcode hwelt hfree => ?_, fun hon hnew hsince => ?_, fun hno => ?_,
    fun t ht hlevel hmode hlate => ?_, fun hno => ?_, fun hfree _ => State.enforce_begins ok hfree, fun henf hhot => ?_,
    fun henf hhot hcool hk => ?_, fun henf hhot hcool hk => ?_, fun hno => ?_, fun t ht hlate => ?_, fun hno => ?_⟩
  · have hexec := execSensorSample_core s c true v
    rw [State.coreSample_diode hon, if_pos hon] at hexec
    exact hexec
  · have hexec := execSensorSample_core s c false v
    rw [State.coreSample_ring hon, if_pos hon] at hexec
    exact hexec
  · have hexec := execSensorSample_core s c true v
    rw [State.coreSample_unpowered hoff, hoff] at hexec
    exact hexec
  · by_cases hn : 756 < n <;> simp [exec, execSensorSample, hn]
  · have hshows := State.thermUpdate_shows ok hk hcode hwelt hfree
    exact ⟨hshows.level, hshows.temp⟩
  · have hdue : (s.past (s.core c).suspectSince 1000000000 || s.past (s.core c).missingSince 1000000) = true := by
      rwa [Bool.or_eq_true, State.past_eq_true, State.past_eq_true]
    exact (execSensorPairSuspect_eq c s).trans (by rw [hon, hnew, hdue]; rfl)
  · refine (execSensorPairSuspect_eq c s).trans ?_
    rcases hno with hno | hno <;> simp [hno]
  · exact (execThrottleGraceExpire_of_throttled ht).trans (by rw [if_pos ⟨hlevel, hmode, hlate⟩])
  · cases ht : (s.region r).throttleSince with
    | none => exact execThrottleGraceExpire_of_untimed ht
    | some t =>
      refine (execThrottleGraceExpire_of_throttled ht).trans (congrArg _ (if_neg ?_))
      rintro ⟨hlevel, hmode, -⟩
      rcases hno with hno | hno | hno
      · exact absurd (ht.symm.trans hno) (by simp)
      · exact hno hlevel
      · exact absurd (hmode.symm.trans hno) (by simp)
  · exact (execThermalStretchAdjust_eq r s).trans (by rw [henf, State.past_eq_true.2 hhot]; rfl)
  · refine (execThermalStretchAdjust_eq r s).trans ?_
    rw [henf, State.past_eq_false.2 hhot, State.past_eq_true.2 hcool, State.stretchDown, if_neg (Nat.not_le.2 hk)]
    rfl
  · refine (execThermalStretchAdjust_eq r s).trans ?_
    rw [henf, State.past_eq_false.2 hhot, State.past_eq_true.2 hcool, State.stretchDown, if_pos hk]
    rfl
  · refine (execThermalStretchAdjust_eq r s).trans ?_
    rcases hno with hfree | ⟨hhot, hcool⟩
    · rw [hfree]
      rfl
    · rw [State.past_eq_false.2 hhot, State.past_eq_false.2 hcool]
      exact congrArg _ (ite_self _)
  · exact (execConverterOvertemp_eq i s).trans (by rw [if_pos (State.past_eq_true.2 ⟨t, ht, hlate⟩)])
  · exact (execConverterOvertemp_eq i s).trans (by rw [State.past_eq_false.2 hno]; rfl)

end Sys2Proof.Machine

namespace Sys2Proof.Machine

/-! ### Changes of one counter in a cycle (O5) -/

/-- The values that a CTL set gives counter n, in slot order. -/
def setsOf (n : Nat) (es : List Eff) : List Word := es.filterMap fun e => match e with
  | .ctrSet i v => if i = n then some v else none
  | _ => none

/-- The sum that arrivals, or the CTL slot, add to counter n. -/
def addsOf (n : Nat) (arrivals : Bool) (es : List Eff) : Nat := sumWords (es.filterMap fun e => match e with
  | .ctrAdd i v a => if i = n && a == arrivals then some v else none
  | _ => none)

/-- The sum subtracted from counter n. -/
def subsOf (n : Nat) (es : List Eff) : Nat := sumWords (es.filterMap fun e => match e with
  | .ctrSub i v => if i = n then some v else none
  | _ => none)

/-- A landing depends on the sets and on three sums. -/
theorem Core.landCtr_eq (c : Core) (es : List Eff) (n : Nat) :
    c.landCtr es n =
      let r := ctrResult (c.rC n) (setsOf n es).getLast? (addsOf n false es) (addsOf n true es) (subsOf n es)
      (c.wC n r.1, r.2.map fun slot => (slot, n)) := rfl

theorem sumWords_perm {l l' : List Word} (h : l.Perm l') : sumWords l = sumWords l' :=
  (h.map _).foldl_eq 0

@[simp] theorem setsOf_nil (n : Nat) : setsOf n [] = [] := rfl

@[simp] theorem setsOf_append (n : Nat) (es es' : List Eff) : setsOf n (es ++ es') = setsOf n es ++ setsOf n es' := List.filterMap_append

@[simp] theorem setsOf_ctrSet (n : Nat) (v : Word) (es : List Eff) : setsOf n (.ctrSet n v :: es) = v :: setsOf n es := by
  simp [setsOf]

/-- A set adds and subtracts nothing. -/
@[simp] theorem addsOf_ctrSet (n i : Nat) (arrivals : Bool) (v : Word) (es : List Eff) : addsOf n arrivals (.ctrSet i v :: es) = addsOf n arrivals es := rfl

@[simp] theorem subsOf_ctrSet (n i : Nat) (v : Word) (es : List Eff) : subsOf n (.ctrSet i v :: es) = subsOf n es := rfl

theorem setsOf_eq_nil {n : Nat} {es : List Eff} (h : ∀ u, Eff.ctrSet n u ∉ es) : setsOf n es = [] := by
  rw [setsOf, List.filterMap_eq_nil_iff]
  intro e he
  cases e with
  | ctrSet i v => exact if_neg fun hi : i = n => h v (hi ▸ he)
  | _ => rfl

/-- Of the order in which changes land, only that of the sets counts. -/
theorem Core.landCtr_perm (c : Core) {n : Nat} {es es' : List Eff} (h : es.Perm es') (hsets : setsOf n es = setsOf n es') :
    c.landCtr es n = c.landCtr es' n := by
  have hadds : ∀ b, addsOf n b es = addsOf n b es' := fun b => sumWords_perm (h.filterMap _)
  have hsubs : subsOf n es = subsOf n es' := sumWords_perm (h.filterMap _)
  rw [Core.landCtr_eq, Core.landCtr_eq, hsets, hadds, hadds, hsubs]

/-- A set value stands in the place of the counter's. -/
theorem ctrResult_set (old v : Word) (ctlAdd arrivals sub : Nat) : ctrResult old (some v) ctlAdd arrivals sub = ctrResult v none ctlAdd arrivals sub := rfl

/-- Changes that end within 32 bits leave their exact sum and report nothing. -/
theorem ctrResult_exact {v a b w x : Word} (hx : x = v + a + b - w) (hlow : w.toNat ≤ v.toNat + a.toNat + b.toNat)
    (hhigh : v.toNat + a.toNat + b.toNat - w.toNat < 2 ^ 32) : ctrResult v none b.toNat a.toNat w.toNat = (x, none) := by
  have hval : (BitVec.ofNat 32 (v.toNat + b.toNat + a.toNat - w.toNat) : Word) = x := by bv_omega
  simp only [ctrResult]
  rw [if_pos (by omega), hval]

/-- Settles O5: of the changes in a cycle only the last set and three sums count. A result beyond 32 bits is R116's and not claimed here. -/
theorem counterChanges : Obligations.CounterChanges := by
  intro c n v a b w l l' hfree hperm
  have hl : setsOf n l = [] := setsOf_eq_nil hfree
  have hl' : setsOf n l' = [] := setsOf_eq_nil fun u hu => hfree u (hperm.mem_iff.2 hu)
  refine ⟨c.landCtr_perm hperm (hl.trans hl'.symm), c.landCtr_perm ((hperm.cons _).trans (List.perm_append_singleton _ _).symm) (by simp [hl, hl']), ?_⟩
  rintro rfl x hx hlow hhigh
  have hsums : addsOf n false [.ctrAdd n a true, .ctrAdd n b false, .ctrSub n w] = b.toNat ∧
      addsOf n true [.ctrAdd n a true, .ctrAdd n b false, .ctrSub n w] = a.toNat ∧
      subsOf n [.ctrAdd n a true, .ctrAdd n b false, .ctrSub n w] = w.toNat := by simp [addsOf, subsOf, sumWords]
  obtain ⟨hctl, harrivals, hsub⟩ := hsums
  have hexact := ctrResult_exact hx hlow hhigh
  constructor
  · rw [Core.landCtr_eq, setsOf_ctrSet, hl, addsOf_ctrSet, hctl, addsOf_ctrSet, harrivals, subsOf_ctrSet, hsub, List.getLast?_singleton, ctrResult_set,
      hexact]
    rfl
  · intro hold
    rw [Core.landCtr_eq, hl, hctl, harrivals, hsub, hold, List.getLast?_nil, hexact]
    rfl

/-! ### Cycles in which nothing lands (O14) -/

/-- The key of a core of a region holds the region. -/
theorem CoreId_key_div {c : CoreId} (h : c.k < 17) : CoreId_key c / 17 = c.r := by
  rw [CoreId_key]
  omega

section
variable {s : State} {k : Nat} {get : Core → Option (List SlotIns × Bool)}

/-- With nothing in flight due, a cycle asks only what bundle core k fetches. -/
theorem State.coreCycle_congr (ok : Canonical s) (still : ∀ f ∈ (s.coreAt k).flight, (s.coreAt k).now < f.due)
    {get' : Core → Option (List SlotIns × Bool)} (h : get (s.coreAt k) = get' (s.coreAt k)) : s.coreCycle k get = s.coreCycle k get' := by
  rw [State.coreCycle, State.coreCycle, State.refuseSealed_nil ok still, State.injLanding_nil still, Core.land_nil still]
  simp only [h]

/-- With nothing in flight due, a cycle issues its bundle, and the clock of the core goes on. -/
theorem State.coreCycle_issues (ok : Canonical s) (still : ∀ f ∈ (s.coreAt k).flight, (s.coreAt k).now < f.due) (hrun : (s.coreAt k).phase = .running)
    (hdue : (s.coreAt k).nextIssue ≤ (s.coreAt k).now) {ops : List SlotIns} {tb : Bool} (hget : get (s.coreAt k) = some (ops, tb)) {u : State}
    (hissue : s.issue k ops tb = u) (hstill : ∀ f ∈ (u.coreAt k).flight, (u.coreAt k).now < f.due) :
    s.coreCycle k get = u.modCoreAt k fun x => { x with now := x.now + 1 } := by
  have hmicros := Core.micros_nil hstill
  rw [State.coreCycle, State.refuseSealed_nil ok still, State.injLanding_nil still, Core.land_nil still]
  simp only [State.setCoreAt_coreAt ok, hrun, hdue, hget, hissue, hmicros, runMicros, State.raiseLate, List.foldl_nil, true_and, if_true]
  rfl

/-- The state in which core k issues: it holds its bundle no longer. -/
def State.unheld (s : State) (k : Nat) : State := s.modCoreAt k fun x => { x with hold := 0 }

theorem Canonical.unheld (ok : Canonical s) (k : Nat) : Canonical (s.unheld k) := ok.modCoreAt _ _

theorem State.unheld_coreAt (ok : Canonical s) : (s.unheld k).coreAt k = { s.coreAt k with hold := 0 } := State.coreAt_set ok _ _

/-- One instruction issued alone, whose start leaves its own core as it is and samples nothing. -/
theorem State.coreCycle_steps {i : SlotIns} (h : CanIssue s k i) (hget : get (s.coreAt k) = some ([i], false)) {u : State}
    (hstart : (s.unheld k).startIns k i = u) (ou : Canonical u) (hcore : u.coreAt k = { s.coreAt k with hold := 0 })
    (hstarted : ∀ p, (s.coreAt k).part = some p → k ∈ (u.part p).started) :
    s.coreCycle k get = u.setCoreAt k ((s.coreAt k).stepped i (s.coreAt k)) := by
  have hmicros := Core.micros_nil (x := (u.setCoreAt k { (s.coreAt k).stepped i (u.coreAt k) with now := (u.coreAt k).now }).coreAt k) (by
    rw [State.coreAt_set ou, hcore]
    exact h.still)
  rw [State.coreCycle_ends h hget hstart (by rw [hcore]) (ou.setCoreAt _ _) (State.jobCompletes_running ou hstarted _ (by rw [hcore]; exact h.running))
    (by rw [hmicros.1, hmicros.2]; rfl), State.coreAt_set ou, State.setCoreAt_setCoreAt ou, hcore]
  rfl

end

/-- A core whose clock runs passes its own cycle when its job is not in stall mode. -/
theorem State.cycle_alone {s : State} {c : CoreId} {p : Nat} (hrun : (s.core c).phase = .running) (hpow : (s.core c).powered = true)
    (hheld : s.coreHeld (some p) = false) (hpart : (s.core c).part = some p) (hstall : (s.part p).stall = false)
    (get : Core → Option (List SlotIns × Bool)) : s.cycle c get = s.coreCycle (CoreId_key c) get := by
  rw [State.core] at hrun hpow hpart
  rw [State.cycle]
  simp [hpow, hrun, hheld, hpart, hstall]

/-- A bundle of one executed slot issues as the command of its instruction does. -/
theorem execBundleIssue_eq_slotCycle {s : State} {c : CoreId} {i : SlotIns} (h : Issuable s c i) (hfetch : (s.core c).fetch = some ([i], false)) :
    execBundleIssue c s = .next (s.slotCycle c i.slot i.op i.o) := by
  rw [execBundleIssue, State.slotCycle, State.cycle_unlocked h, State.cycle_unlocked h]
  exact congrArg _ (State.coreCycle_congr h.ok h.still (hfetch.trans (by rw [h.defined, if_pos rfl])))

/-! ### Waits -/

/-- Core c of a job that is not in stall mode stands at a bundle which its wait w holds, and nothing lands. -/
structure HeldAt (s : State) (c : CoreId) (p : Nat) (ops : List SlotIns) (tb : Bool) (w : SlotIns) : Prop where
  ok : Canonical s
  running : (s.core c).phase = .running
  powered : (s.core c).powered = true
  clocked : s.coreHeld (some p) = false
  job : (s.core c).part = some p
  unlocked : (s.part p).stall = false
  due : (s.core c).nextIssue ≤ (s.core c).now
  still : ∀ f ∈ (s.core c).flight, (s.core c).now < f.due
  bundle : (s.core c).fetch = some (ops, tb)
  wait : heldWait (s.core c) ops = some w

section
variable {s : State} {c : CoreId} {p : Nat} {ops : List SlotIns} {tb : Bool} {w : SlotIns}

theorem HeldAt.corePart (h : HeldAt s c p ops tb w) : s.corePart (CoreId_key c) = s.part p := by
  rw [State.corePart, ← State.core, h.job]
  rfl

/-- The state in which core c has held its bundle one cycle more. -/
def State.heldOn (s : State) (c : CoreId) : State := s.setCoreAt (CoreId_key c) { s.core c with hold := (s.core c).hold + 1 }

theorem HeldAt.heldOn_coreAt (h : HeldAt s c p ops tb w) :
    (s.heldOn c).coreAt (CoreId_key c) = { s.core c with hold := (s.core c).hold + 1 } := State.coreAt_set h.ok _ _

/-- A bundle that its wait holds: the cycle that reaches the limit is detection 4 in the wait's slot (R114, R117). -/
theorem State.issue_of_wait (h : HeldAt s c p ops tb w) : s.issue (CoreId_key c) ops tb =
    if (s.part p).waitLimit ≤ (s.core c).hold + 1 then (s.heldOn c).detect (CoreId_key c) 0 4 (s.core c).pc (field w.o 29 26) else s.heldOn c := by
  have hhold : s.holdBundle (CoreId_key c) 0 (field w.o 29 26) (s.part p).waitLimit =
      if (s.part p).waitLimit ≤ (s.core c).hold + 1 then
        (s.heldOn c).detect (CoreId_key c) 0 4 ((s.heldOn c).coreAt (CoreId_key c)).pc (field w.o 29 26) else s.heldOn c := rfl
  rw [h.heldOn_coreAt] at hhold
  have hwait : heldWait (s.coreAt (CoreId_key c)) ops = some w := h.wait
  rw [State.issue]
  simp only [hwait, h.corePart, h.unlocked, Bool.false_eq_true, if_false]
  exact hhold

/-- The cycle of a held bundle is what holding it leaves, one cycle on. -/
theorem State.cycle_of_wait (h : HeldAt s c p ops tb w) {u : State} (hissue : s.issue (CoreId_key c) ops tb = u)
    (hflight : (u.coreAt (CoreId_key c)).flight = (s.core c).flight) (hnow : (u.coreAt (CoreId_key c)).now = (s.core c).now) :
    s.cycle c Core.fetch = u.modCoreAt (CoreId_key c) fun x => { x with now := x.now + 1 } := by
  rw [State.cycle_alone h.running h.powered h.clocked h.job h.unlocked]
  exact State.coreCycle_issues h.ok h.still h.running h.due h.bundle hissue (by rw [hflight, hnow]; exact h.still)

/-- A wait within its limit holds the bundle a cycle (R114). -/
theorem State.cycle_waits (h : HeldAt s c p ops tb w) (hlimit : (s.core c).hold + 1 < (s.part p).waitLimit) :
    s.cycle c Core.fetch = s.setCoreAt (CoreId_key c) { s.core c with hold := (s.core c).hold + 1, now := (s.core c).now + 1 } := by
  rw [State.cycle_of_wait h (State.issue_of_wait h) (by rw [if_neg (by omega), h.heldOn_coreAt])
    (by rw [if_neg (by omega), h.heldOn_coreAt]), if_neg (by omega), State.modCoreAt, h.heldOn_coreAt, State.heldOn, State.setCoreAt_setCoreAt h.ok]

/-- WAIT_TIMEOUT finds the cycle that reaches the limit. -/
theorem State.timeoutDue_of_wait (h : HeldAt s c p ops tb w) (hlimit : (s.part p).waitLimit ≤ (s.core c).hold + 1) : s.timeoutDue c = true := by
  rw [State.timeoutDue]
  simp [h.bundle, h.running, h.due, h.wait, h.corePart, hlimit]

end

/-! ### What a job-fatal fault leaves of cores and partitions -/

/-- The two tables that a fault record and its event leave. -/
def State.jobTables (s : State) : Tab Core × Tab Part := (s.cores, s.parts)

@[simp] theorem State.signalPort_jobTables (s : State) (port v : Nat) : (s.signalPort port v).jobTables = s.jobTables := by
  rw [State.signalPort]
  dsimp only
  split <;> rfl

@[simp] theorem State.signal_jobTables (s : State) (v : Nat) : (s.signal v).jobTables = s.jobTables := by
  rw [State.signal]
  split <;> simp

@[simp] theorem State.logRaw_jobTables (s : State) (code : Nat) (arg : Word) (body : Bytes) : (s.logRaw code arg body).jobTables = s.jobTables := by
  rw [State.logRaw]
  by_cases hopen : s.flashOpen = true
  · simp only [if_pos hopen]
    rfl
  · simp only [if_neg hopen]
    rfl

/-- The registers that a fault record and its event write. -/
def recordReg (a : Nat) : Prop := logReg a ∨ a = Reg.FLT_LOG_WR

theorem State.writeRecord_jobTables (s : State) (inj : Bool) (cls src part detail : Nat) (loc : Word) :
    (s.writeRecord inj cls src part detail loc).jobTables = s.jobTables := by
  rw [State.writeRecord]
  simp only [apply_ite State.jobTables, State.signal_jobTables, State.logRaw_jobTables, ite_self]
  rfl

theorem State.writeRecord_writesIn {s : State} (ok : Canonical s) (inj : Bool) (cls src part detail : Nat) (loc : Word) :
    WritesIn recordReg s (s.writeRecord inj cls src part detail loc) := by
  have hring : ∀ flt, WritesIn recordReg s { s with flt := flt } := fun flt => (WritesIn.refl ok).of_regs (ok.of_tables rfl) rfl
  have hcount : ∀ flt n, WritesIn recordReg s (({ s with flt := flt } : State).wr Reg.FLT_LOG_WR n) := fun flt n => (hring flt).wr (.inr rfl) n
  have hlog : ∀ flt n b, WritesIn recordReg s ((({ s with flt := flt } : State).wr Reg.FLT_LOG_WR n).logRaw 1 0 b) := fun flt n b =>
    have hentry := (State.logRaw_frame (.refl (hcount flt n).ok) 1 0 b).1
    ⟨hentry.ok, fun a ha => (hentry.rd a fun hl => ha (.inl hl)).trans ((hcount flt n).rd a ha)⟩
  rw [State.writeRecord]
  dsimp only
  split
  · exact hlog _ _ _
  · exact (hlog _ _ _).of_regs (State.signal_kept (hlog _ _ _).ok.kept 129).ok (State.signal_regs _ _)

/-- The partitions' state registers are none of these. -/
theorem not_recordReg_ldrPart (p : Nat) : ¬recordReg (Reg.LDR_PART p) := by
  simp only [recordReg, logReg, Reg.LDR_PART, Reg.THM_GATE, Reg.MGT_LOG_STAT, Reg.MGT_LOG_LO, Reg.MGT_LOG_HI, Reg.FLT_LOG_WR]
  omega

/-- A stop that reaches a running job outside stall mode: the partition is stopping, with the reason. -/
theorem State.stopPart_running {s : State} (ok : Canonical s) {p reason : Nat} (hrun : s.pstate p = 2) (hepoch : (s.part p).stopEpoch = none)
    (hstall : (s.part p).stall = false) (hreason : reason < 16) :
    (s.stopPart p reason).cores = s.cores ∧ (s.stopPart p reason).pstate p = 3 ∧ (s.stopPart p reason).ersn p = reason := by
  have hstop : s.stopPart p reason =
      ((s.setFld (Reg.LDR_PART p) 19 16 reason).setPart p { s.part p with stopPending := true, stopTime := some s.time }).setPState p 3 := by
    rw [State.stopPart]
    simp only [hrun, hepoch, hstall]
    rfl
  have hset : Canonical ((s.setFld (Reg.LDR_PART p) 19 16 reason).setPart p { s.part p with stopPending := true, stopTime := some s.time }) :=
    (ok.setFld _ _ _ _).setPart _ _
  rw [hstop]
  refine ⟨rfl, State.fld_setFld hset _ _ _ _ (by decide), ?_⟩
  rw [State.ersn, State.setPState, State.fld_setFld_apart hset _ _ _ _ _ _ (by decide), State.setPart_fld_frame, State.fld_setFld ok _ _ _ _ (by decide)]
  exact Nat.mod_eq_of_lt hreason

/-- A job-fatal fault of a running job outside stall mode stops it with its reason, and leaves the cores as they are. -/
theorem State.jobFatal_running {s : State} (ok : Canonical s) {p src reason : Nat} (hp : p < 64) (hrun : s.pstate p = 2)
    (hepoch : (s.part p).stopEpoch = none) (hstall : (s.part p).stall = false) (hreason : reason < 16) (loc : Word) :
    (s.jobFatal (some p) src reason loc).cores = s.cores ∧ (s.jobFatal (some p) src reason loc).pstate p = 3 ∧
      (s.jobFatal (some p) src reason loc).ersn p = reason := by
  have hcounted : Canonical (s.countClass 2) := ok.bump _ _ _
  have hrecord := State.writeRecord_writesIn hcounted false 2 src p reason loc
  have htables := State.writeRecord_jobTables (s.countClass 2) false 2 src p reason loc
  have hfatal : s.jobFatal (some p) src reason loc = ((s.countClass 2).writeRecord false 2 src p reason loc).stopPart p reason := rfl
  generalize (s.countClass 2).writeRecord false 2 src p reason loc = u at *
  have hcores : u.cores = s.cores := congrArg Prod.fst htables
  have hpart : u.part p = s.part p := congrArg (fun l => tabGet Part.zero l p) (congrArg Prod.snd htables)
  have hne : Reg.LDR_PART p ≠ Reg.FLT_CNT 2 := by
    simp only [Reg.LDR_PART, Reg.FLT_CNT]
    omega
  have hstate : u.pstate p = 2 := by
    rw [State.pstate, hrecord.fld (not_recordReg_ldrPart p), State.countClass, State.bump, State.fld, State.rd_wr_ne ok _ hne]
    exact hrun
  have hstop := State.stopPart_running hrecord.ok hstate (hpart ▸ hepoch) (hpart ▸ hstall) hreason
  rw [hfatal, ← hcores]
  exact hstop

/-- A detection of a running core stops it and its job with reason 3 (R107, R124). -/
theorem State.detect_running {s : State} (ok : Canonical s) {k p slot code pc info : Nat} (hcore : (s.coreAt k).phase = .running)
    (hjob : (s.coreAt k).part = some p) (hp : p < 64) (hrun : s.pstate p = 2) (hepoch : (s.part p).stopEpoch = none)
    (hstall : (s.part p).stall = false) :
    (s.detect k slot code pc info).cores = (s.setCoreAt k { (s.coreAt k).record slot code pc info with phase := .stopped }).cores ∧
      (s.detect k slot code pc info).pstate p = 3 ∧ (s.detect k slot code pc info).ersn p = 3 := by
  have hphase : ((s.coreAt k).record slot code pc info).phase = .running := by
    rw [Core.record]
    split <;> exact hcore
  have hpart : ((s.coreAt k).record slot code pc info).part = some p := by
    rw [Core.record]
    split <;> exact hjob
  have hstopped : (s.modCoreAt k fun c => if (c.record slot code pc info).phase = .running then { c.record slot code pc info with phase := .stopped } else
      c.record slot code pc info) = s.setCoreAt k { (s.coreAt k).record slot code pc info with phase := .stopped } := by
    rw [State.modCoreAt, if_pos hphase]
  rw [State.detect]
  dsimp only
  rw [hstopped, State.coreAt_set ok]
  dsimp only
  rw [hpart]
  exact State.jobFatal_running (ok.setCoreAt _ _) hp hrun hepoch hstall (by decide) _

/-! ### The cycle that reaches the limit of a wait -/

@[simp] theorem Core.record_now (x : Core) (slot code pc info : Nat) : (x.record slot code pc info).now = x.now := by
  rw [Core.record]
  split <;> rfl

@[simp] theorem Core.record_flight (x : Core) (slot code pc info : Nat) : (x.record slot code pc info).flight = x.flight := by
  rw [Core.record]
  split <;> rfl

/-- A detection's record says nothing of the cycles held. -/
theorem Core.record_hold (x : Core) (n slot code pc info : Nat) :
    ({ x with hold := n } : Core).record slot code pc info = { x.record slot code pc info with hold := n } := by
  rw [Core.record, Core.record]
  split <;> rfl

theorem State.coreAt_of_cores {s t : State} (h : t.cores = s.cores) (k : Nat) : t.coreAt k = s.coreAt k := by
  rw [State.coreAt, h, State.coreAt]

/-- The cycle in which a held wait reaches its limit is detection 4: the core stops and its job is stopping with reason 3 (R117). -/
theorem waitTimeout_stops {s : State} {c : CoreId} {p : Nat} {ops : List SlotIns} {tb : Bool} {w : SlotIns} (h : HeldAt s c p ops tb w)
    (hlimit : (s.part p).waitLimit ≤ (s.core c).hold + 1) (hp : p < 64) (hrun : s.pstate p = 2) (hepoch : (s.part p).stopEpoch = none) :
    Completes (.waitTimeout c) s fun t =>
      t.core c = { (s.core c).record 0 4 (s.core c).pc (field w.o 29 26) with
        phase := .stopped, hold := (s.core c).hold + 1, now := (s.core c).now + 1 } ∧
      (∀ k, k ≠ CoreId_key c → t.coreAt k = s.coreAt k) ∧ t.pstate p = 3 ∧ t.ersn p = 3 := by
  have hheld : Canonical (s.heldOn c) := h.ok.setCoreAt _ _
  have hexec : exec (.waitTimeout c) s = .next (s.cycle c Core.fetch) := congrArg Host.Outcome.next (if_pos (State.timeoutDue_of_wait h hlimit))
  have hissue := State.issue_of_wait h
  rw [if_pos hlimit] at hissue
  obtain ⟨hcores, hstate, hreason⟩ := State.detect_running hheld (k := CoreId_key c) (slot := 0) (code := 4) (pc := (s.core c).pc)
    (info := field w.o 29 26) (by rw [h.heldOn_coreAt]; exact h.running) (by rw [h.heldOn_coreAt]; exact h.job) hp hrun
    hepoch h.unlocked
  have hu := (State.detect_kept hheld.kept (CoreId_key c) 0 4 (s.core c).pc (field w.o 29 26)).ok
  generalize (s.heldOn c).detect (CoreId_key c) 0 4 (s.core c).pc (field w.o 29 26) = u at *
  rw [h.heldOn_coreAt, Core.record_hold] at hcores
  have hother : ∀ k, k ≠ CoreId_key c → u.coreAt k = s.coreAt k := fun k hk => by
    rw [State.coreAt_of_cores hcores, State.coreAt_setCoreAt hheld, if_neg hk, State.heldOn, State.coreAt_setCoreAt h.ok, if_neg hk]
  have hown := State.coreAt_of_cores hcores (CoreId_key c)
  rw [State.coreAt_set hheld] at hown
  have hcycle := State.cycle_of_wait h hissue (by rw [hown]; exact Core.record_flight ..) (by rw [hown]; exact Core.record_now ..)
  refine ⟨_, hexec.trans (congrArg _ hcycle), ?_, fun k hk => ?_, hstate, hreason⟩
  · rw [State.core, State.coreAt_modCoreAt hu, if_pos rfl, hown]
    simp only [Core.record_now]
  · rw [State.coreAt_modCoreAt hu, if_neg hk, hother k hk]

/-! ### Announced stalls and trace records -/

theorem State.setPart_setPart {s : State} (h : Canonical s) (p : Nat) (x y : Part) : (s.setPart p x).setPart p y = s.setPart p y := by
  have := tabPut_tabPut p (if x = Part.zero then none else some x) (if y = Part.zero then none else some y) (tabWf_sorted h.parts)
  simp only [State.setPart, tabSet]
  rw [this]

/-- Partition y after an STL of D cycles by a core of detour group g: an announcement from 64 wall cycles on, or a detour asked for. -/
def Part.stalledBy (y : Part) (g d : Nat) : Part :=
  { y with stalls := if g = 0 then y.stalls ++ [(y.wall + 64, y.wall + 63 + d)] else y.stalls,
           detours := if g = 0 then y.detours else addDetour y.epoch g d y.detours }

theorem State.startStl_of_stall {s : State} {k p : Nat} {o : BitVec 46} (hjob : (s.coreAt k).part = some p) (hstall : (s.part p).stall = true)
    (hd : 0 < field o 29 14) : s.startStl k o = s.setPart p ((s.part p).stalledBy (s.region (k / 17)).dgroup (field o 29 14)) := by
  rw [State.startStl, hjob]
  by_cases hg : (s.region (k / 17)).dgroup = 0
  · simp [hstall, hd, hd.ne', hg, Part.announce, Part.stalledBy]
  · simp [hstall, hd.ne', hg, Part.stalledBy]

/-- Partition y once the core with this key has passed the wall cycle under way. -/
def Part.passedBy (key : Nat) (y : Part) : Part := { y with walked := key :: y.walked }

@[simp] theorem Part.passedBy_walked (key : Nat) (y : Part) : (y.passedBy key).walked = key :: y.walked := rfl

/-- A core passes a wall cycle of its partition while another has it still to pass: the cycle does not end. -/
theorem State.cycle_passes {s t : State} {c : CoreId} {p : Nat} {get : Core → Option (List SlotIns × Bool)} (hrun : (s.core c).phase = .running)
    (hpow : (s.core c).powered = true) (hheld : s.coreHeld (some p) = false) (hpart : (s.core c).part = some p) (hstall : (s.part p).stall = true)
    (hnew : CoreId_key c ∉ (s.part p).walked) (hgoes : (s.part p).stalledFor (s.region c.r).dgroup = false)
    (hcycle : s.coreCycle (CoreId_key c) get = t) (ot : Canonical t) (hother : ∃ k ∈ t.lockCores p, k ≠ CoreId_key c ∧ k ∉ (t.part p).walked) :
    s.cycle c get = t.modPart p (Part.passedBy (CoreId_key c)) := by
  obtain ⟨k, hk, hne, hwait⟩ := hother
  have hpassed : (t.modPart p (Part.passedBy (CoreId_key c))).part p = (t.part p).passedBy (CoreId_key c) := by
    rw [State.part_modPart ot, if_pos rfl]
  have hlock : (t.modPart p (Part.passedBy (CoreId_key c))).lockCores p = t.lockCores p := by
    rw [State.lockCores, hpassed]
    rfl
  have hopen : ((t.lockCores p).all fun k => ((t.part p).passedBy (CoreId_key c)).walked.contains k) = false := by
    rw [List.all_eq_false]
    exact ⟨k, hk, by simp [hne, hwait]⟩
  have hfirst : (s.part p).walked.contains (CoreId_key c) = false := by simpa using hnew
  have hend : s.cycle c get =
      if ((t.modPart p (Part.passedBy (CoreId_key c))).lockCores p).all fun k =>
        ((t.modPart p (Part.passedBy (CoreId_key c))).part p).walked.contains k
      then (t.modPart p (Part.passedBy (CoreId_key c))).endWall p else t.modPart p (Part.passedBy (CoreId_key c)) := by
    rw [State.core] at hrun hpow hpart
    rw [State.cycle]
    simp only [hpow, hrun, hheld, hpart, hstall, hgoes, hcycle, hfirst, Bool.not_true, Bool.or_false, Bool.false_eq_true, if_false, reduceCtorEq, decide_false]
    rfl
  rw [hend, hlock, hpassed, hopen, if_neg Bool.false_ne_true]

/-- The core's own part of a cycle that issues STL. -/
theorem State.coreCycle_stl {s : State} {k p : Nat} {o : BitVec 46} {get : Core → Option (List SlotIns × Bool)} (h : CanIssue s k ⟨0, 12, o⟩)
    (hget : get (s.coreAt k) = some ([⟨0, 12, o⟩], false)) (hpart : (s.coreAt k).part = some p) (hstall : (s.part p).stall = true)
    (hd : 0 < field o 29 14) :
    s.coreCycle k get = (s.setPart p ((s.part p).stalledBy (s.region (k / 17)).dgroup (field o 29 14))).setCoreAt k
      ((s.coreAt k).stepped ⟨0, 12, o⟩ (s.coreAt k)) := by
  have ok := h.ok
  have hcore := State.unheld_coreAt (k := k) ok
  have hstart : (s.unheld k).startIns k ⟨0, 12, o⟩ = (s.unheld k).setPart p ((s.part p).stalledBy (s.region (k / 17)).dgroup (field o 29 14)) :=
    State.startStl_of_stall (by rw [hcore]; exact hpart) hstall hd
  obtain ⟨q, hq, hstarted⟩ := h.job
  obtain rfl : p = q := Option.some.inj (hpart.symm.trans hq)
  rw [State.coreCycle_steps h hget hstart ((ok.unheld k).setPart _ _) hcore fun r hr => by
    obtain rfl : p = r := Option.some.inj (hpart.symm.trans hr)
    rw [State.part_setPart (ok.unheld k), if_pos rfl]
    exact hstarted]
  exact State.setCoreAt_setCoreAt (ok.setPart _ _) _ _ _

/-- STL in stall mode announces its stall, or asks for its group's detour, and the core has passed the wall cycle (R203, R206). -/
theorem State.slotCycle_stl {s : State} {c : CoreId} {p : Nat} {o : BitVec 46} (h : CanIssue s (CoreId_key c) ⟨0, 12, o⟩)
    (hpart : (s.core c).part = some p) (hpow : (s.core c).powered = true) (hk : c.k < 17) (hheld : s.coreHeld (some p) = false)
    (hstall : (s.part p).stall = true) (hnew : CoreId_key c ∉ (s.part p).walked) (hgoes : (s.part p).stalledFor (s.region c.r).dgroup = false)
    (hother : ∃ k ∈ s.lockCores p, k ≠ CoreId_key c ∧ k ∉ (s.part p).walked) (hd : 0 < field o 29 14) :
    s.slotCycle c 0 12 o =
      (s.setPart p (((s.part p).stalledBy (s.region c.r).dgroup (field o 29 14)).passedBy (CoreId_key c))).setCoreAt (CoreId_key c)
        ((s.core c).stepped ⟨0, 12, o⟩ (s.core c)) := by
  have ok := h.ok
  have hcycle := State.coreCycle_stl h (get := fun _ => some (if opDefined ⟨0, 12, o⟩ then [⟨0, 12, o⟩] else [], false)) (by rw [h.defined]; rfl) hpart
    hstall hd
  rw [CoreId_key_div hk] at hcycle
  generalize hy : (s.part p).stalledBy (s.region c.r).dgroup (field o 29 14) = y at *
  have hlists : y.started = (s.part p).started ∧ y.walked = (s.part p).walked := hy ▸ ⟨rfl, rfl⟩
  have hset : Canonical (s.setPart p y) := ok.setPart p y
  have hpartNow : (s.setPart p y).part p = y := by rw [State.part_setPart ok, if_pos rfl]
  have hothers : ∀ z, ∃ k ∈ ((s.setPart p y).setCoreAt (CoreId_key c) z).lockCores p, k ≠ CoreId_key c ∧ k ∉ ((s.setPart p y).part p).walked := fun z => by
    obtain ⟨k, hk, hne, hwait⟩ := hother
    refine ⟨k, ?_, hne, by rw [hpartNow, hlists.2]; exact hwait⟩
    rw [State.lockCores, List.mem_filter] at hk ⊢
    rw [State.setCoreAt_part_frame, hpartNow, hlists.1, State.coreAt_setCoreAt hset, if_neg hne]
    exact hk
  rw [State.slotCycle, State.cycle_passes h.running hpow hheld hpart hstall hnew hgoes hcycle (hset.setCoreAt _ _) (hothers _), State.modPart,
    State.setCoreAt_part_frame, hpartNow]
  exact congrArg (fun t => State.setCoreAt t (CoreId_key c) _) (State.setPart_setPart ok p y (y.passedBy (CoreId_key c)))

theorem State.startTrc_of_on {s : State} {k p : Nat} {o : BitVec 46} (hjob : (s.coreAt k).part = some p) (hon : (s.part p).traceOn = true) :
    s.startTrc k o = s.modRegion (k / 17) fun g => { g with
      trace := memWrite g.trace (32 * (g.traceWr % 512)) (traceRecord s.now (s.coreAt k) g.traceWr o), traceWr := (g.traceWr + 1) % 65536 } := by
  rw [State.startTrc]
  simp only [hjob, hon, if_true]

/-- TRC writes its record to the trace ring of its region (R183, R184). -/
theorem State.slotCycle_trc {s : State} {c : CoreId} {p : Nat} {o : BitVec 46} (h : Issuable s c ⟨0, 14, o⟩) (hpart : (s.core c).part = some p)
    (hk : c.k < 17) (hon : (s.part p).traceOn = true) :
    s.slotCycle c 0 14 o = (s.setRegion c.r { s.region c.r with
      trace := memWrite (s.region c.r).trace (32 * ((s.region c.r).traceWr % 512)) (traceRecord s.now (s.core c) (s.region c.r).traceWr o),
      traceWr := ((s.region c.r).traceWr + 1) % 65536 }).setCoreAt (CoreId_key c) ((s.core c).stepped ⟨0, 14, o⟩ (s.core c)) := by
  have ok := h.ok
  have hcore := State.unheld_coreAt (k := CoreId_key c) ok
  obtain ⟨q, hq, hstarted⟩ := h.job
  have hstart : (s.unheld (CoreId_key c)).startIns (CoreId_key c) ⟨0, 14, o⟩ = _ :=
    State.startTrc_of_on (by rw [hcore]; exact hpart) hon
  rw [CoreId_key_div hk, hcore] at hstart
  rw [State.slotCycle, State.cycle_unlocked h, State.coreCycle_steps h.toCanIssue (by rw [h.defined]; rfl) hstart ((ok.unheld _).modRegion _ _) hcore
    fun r hr => by
      obtain rfl : q = r := Option.some.inj (hq.symm.trans hr)
      exact hstarted]
  exact State.setCoreAt_setCoreAt (ok.setRegion _ _) _ _ _

/-! ### Spool completions -/

/-- What a completion of request q puts in flight in cycle n: its entry goes free, and the counter it names counts one. -/
def SpoolReq.landing (q : SpoolReq) (n : Nat) : List Flight :=
  ⟨n, 4, .spoolFree q.sp⟩ :: (if q.ctr.isSome then [⟨n, 4, .ctrAdd (q.ctr.getD 0) 1 true⟩] else [])

theorem State.landSpool_eq (s : State) (k : Nat) (q : SpoolReq) :
    s.landSpool k q = s.modCoreAt k fun x => { x with flight := x.flight ++ q.landing x.now } := by
  cases hctr : q.ctr <;> simp [State.landSpool, SpoolReq.landing, hctr, Core.push]

/-- A codeword check that finds nothing changes nothing. -/
theorem State.rimCheck_clean (s : State) (p : Option Nat) (a : Nat) : s.rimCheck p a 0 .clean = s := rfl

theorem State.toCore_uncounted (s : State) (k space a : Nat) (d : Bytes) :
    s.toCore k space a d none = s.modCoreAt k fun x => { x with flight := x.flight ++ (if d.isEmpty then [] else [⟨x.now, 4, .bytes space a d⟩]) } := by
  cases d <;> simp [State.toCore, Core.push]

section
variable {s : State} {k : Nat} {q : SpoolReq}

/-- A read that finds its codewords clean lands its bytes, frees its entry and counts. -/
theorem State.spoolDone_read (ok : Canonical s) (hnext : s.nextSpool k q.sp = some q) (hstall : (s.part ((s.coreAt k).part.getD 64)).stall = false)
    (hread : q.write = false) (hclean : (s.rimRead q.rim (1024 * q.kib)).2 = 0) {d : Bytes}
    (hd : s.spoolBytes ((s.coreAt k).part.getD 64) k q (s.rimRead q.rim (1024 * q.kib)).1 = d) :
    s.spoolDone k q.sp .clean = ({ s with fresh := s.fresh + 64 * q.kib } : State).setCoreAt k { s.coreAt k with
      flight := (s.coreAt k).flight ++ ((if d.isEmpty then [] else [⟨(s.coreAt k).now, 4, .bytes q.space q.localAddr d⟩])
        ++ q.landing (s.coreAt k).now) } := by
  have ou : Canonical { s with fresh := s.fresh + 64 * q.kib } := ok.of_tables rfl
  have hdone : s.spoolDone k q.sp .clean = (({ s with fresh := s.fresh + 64 * q.kib } : State).toCore k q.space q.localAddr d none).landSpool k q := by
    rw [State.spoolDone]
    simp only [hnext, hread, Bool.false_eq_true, if_false, hclean, hd, State.rimCheck_clean]
    exact if_neg (by rw [State.toCore_uncounted, State.modCoreAt_part_frame]; exact Bool.eq_false_iff.1 hstall)
  rw [hdone, State.toCore_uncounted, State.landSpool_eq, State.modCoreAt, State.modCoreAt, State.coreAt_set ou, State.setCoreAt_setCoreAt ou]
  simp only [List.append_assoc]
  rfl

end

/-- The registers that count the words of an armed injection. -/
def injReg (a : Nat) : Prop := a = Reg.FLT_INJ_CFG ∨ a = Reg.FLT_INJ_STAT

theorem State.injCount_writesIn {s : State} (ok : Canonical s) (n : Nat) : WritesIn injReg s (s.injCount n) := by
  have hcount := (WritesIn.refl ok).wr (w := injReg) (.inr rfl) (bumpField (s.rd Reg.FLT_INJ_STAT) 15 0 (min n s.injLeft))
  rw [State.injCount]
  split
  · exact hcount.setFld (.inl rfl) _ _ _
  · exact hcount

theorem State.injSend_writesIn {s : State} (ok : Canonical s) (c : Nat) (r : Option Nat) (n : Nat) : WritesIn injReg s (s.injSend c r n) := by
  rw [State.injSend]
  split
  · exact State.injCount_writesIn ok n
  · exact .refl ok

theorem State.injCount_jobTables (s : State) (n : Nat) : (s.injCount n).jobTables = s.jobTables := by
  rw [State.injCount]
  split <;> rfl

theorem State.injSend_jobTables (s : State) (c : Nat) (r : Option Nat) (n : Nat) : (s.injSend c r n).jobTables = s.jobTables := by
  rw [State.injSend]
  split
  · exact State.injCount_jobTables s n
  · rfl

/-- A write to rim memory changes rim memory and counts the words of an armed injection. -/
theorem State.rimWrite_cases {s : State} (ok : Canonical s) (a : Nat) (d : Bytes) :
    ∃ m n, Canonical { s with rim := { s.rim with mem := m } } ∧
      (s.rimWrite a d).1 = ({ s with rim := { s.rim with mem := m } } : State).injSend 2 none n := by
  rw [State.rimWrite]
  refine ⟨_, _, ?_, rfl⟩
  refine { ok with rimMem := ?_ }
  refine List.foldlRecOn (motive := fun m => memWf m = true) _ _ ok.rimMem fun m hm b _ => ?_
  split
  · exact hm
  · exact memWrite_wf _ _ hm

/-- State t has the registers, partitions and rim memory of s, and each core its clock and what it has in flight: what a change of the cores' spools leaves. -/
structure SameFlights (s t : State) : Prop where
  ok : Canonical t
  regs : t.regs = s.regs
  parts : t.parts = s.parts
  rim : t.rim = s.rim
  flight : ∀ k, (t.coreAt k).flight = (s.coreAt k).flight
  now : ∀ k, (t.coreAt k).now = (s.coreAt k).now

theorem SameFlights.refl {s : State} (ok : Canonical s) : SameFlights s s := ⟨ok, rfl, rfl, rfl, fun _ => rfl, fun _ => rfl⟩

theorem SameFlights.modCoreAt {s t : State} (h : SameFlights s t) (k : Nat) {f : Core → Core} (hflight : ∀ x, (f x).flight = x.flight)
    (hnow : ∀ x, (f x).now = x.now) : SameFlights s (t.modCoreAt k f) := by
  refine ⟨h.ok.modCoreAt k f, h.regs, h.parts, h.rim, fun j => ?_, fun j => ?_⟩ <;> rw [State.coreAt_modCoreAt h.ok] <;> split
  · subst j
    rw [hflight, h.flight]
  · exact h.flight j
  · subst j
    rw [hnow, h.now]
  · exact h.now j

/-- The rim's write as a spool makes it, its free choices counted. -/
def State.spoolWrite (s : State) (k : Nat) (q : SpoolReq) : State :=
  let t := (s.rimWrite q.rim (s.spoolSource k q)).1
  { t with fresh := t.fresh + 64 * q.kib }

/-- The write leaves cores and partitions, and of the registers only those of an injection differ. -/
theorem State.spoolWrite_frame {s : State} (ok : Canonical s) (k : Nat) (q : SpoolReq) :
    WritesIn injReg s (s.spoolWrite k q) ∧ (s.spoolWrite k q).jobTables = s.jobTables := by
  obtain ⟨m, n, hm, hwrite⟩ := State.rimWrite_cases ok q.rim (s.spoolSource k q)
  have hsend := State.injSend_writesIn hm 2 none n
  have htables := State.injSend_jobTables { s with rim := { s.rim with mem := m } } 2 none n
  rw [State.spoolWrite, hwrite]
  exact ⟨⟨hsend.ok.of_tables rfl, hsend.rd⟩, htables⟩

/-- State t after write q, made in state s, has met the requests of the cores l: reads of other spools keep the former content (R174). -/
def State.meetSpools (s : State) (k : Nat) (q : SpoolReq) (l : List Nat) (t : State) : State :=
  l.foldl (fun t j => t.modCoreAt j fun x =>
    { x with spools := x.spools.map fun w => if j = k ∧ w.sp = q.sp then w else keepOld s.rim.mem q w }) t

theorem State.meetSpools_same {s t : State} (ot : Canonical t) (k : Nat) (q : SpoolReq) (l : List Nat) : SameFlights t (s.meetSpools k q l t) :=
  List.foldlRecOn (motive := SameFlights t) l _ (.refl ot) fun _ hu j _ => hu.modCoreAt j (fun _ => rfl) (fun _ => rfl)

/-- A write whose granules all lie in live channels is sent to rim memory, and frees its entry and counts alike. -/
theorem State.spoolDone_write {s : State} {k : Nat} {q : SpoolReq} (ok : Canonical s) (hnext : s.nextSpool k q.sp = some q)
    (hstall : (s.part ((s.coreAt k).part.getD 64)).stall = false) (hwrite : q.write = true)
    (hclean : (s.rimWrite q.rim (s.spoolSource k q)).2 = 0) {t : State}
    (ht : s.meetSpools k q ((s.spoolWrite k q).coresOf ((s.coreAt k).part.getD 64)) (s.spoolWrite k q) = t) :
    s.spoolDone k q.sp .clean = t.landSpool k q := by
  obtain ⟨hwritten, htables⟩ := State.spoolWrite_frame ok k q
  have hparts : t.parts = s.parts := ht ▸ (State.meetSpools_same hwritten.ok _ _ _).parts.trans (congrArg Prod.snd htables)
  have hstill : (t.part ((s.coreAt k).part.getD 64)).stall = false := by
    rw [State.part, hparts]
    exact hstall
  rw [State.spoolDone]
  simp only [hnext, hwrite, if_true, hclean, State.rimCheck_clean]
  subst ht
  exact if_neg (Bool.eq_false_iff.1 hstill)

/-- What that write shows: rim memory, the core's flight, and the registers but those of an injection. -/
theorem spoolCompletion_writes {s : State} {c : CoreId} {q : SpoolReq} (ok : Canonical s) (hnext : s.nextSpool (CoreId_key c) q.sp = some q)
    (hstall : (s.part ((s.core c).part.getD 64)).stall = false) (hwrite : q.write = true)
    (hclean : (s.rimWrite q.rim (s.spoolSource (CoreId_key c) q)).2 = 0) :
    Completes (.spoolCompletion c q.sp .clean) s fun t =>
      t.rim.mem = (s.rimWrite q.rim (s.spoolSource (CoreId_key c) q)).1.rim.mem ∧
      (t.core c).flight = (s.core c).flight ++ q.landing (s.core c).now ∧ ∀ a, a ≠ Reg.FLT_INJ_CFG → a ≠ Reg.FLT_INJ_STAT → t.rd a = s.rd a := by
  obtain ⟨hwritten, htables⟩ := State.spoolWrite_frame ok (CoreId_key c) q
  have hcores : (s.spoolWrite (CoreId_key c) q).coreAt (CoreId_key c) = s.core c := State.coreAt_of_cores (congrArg Prod.fst htables) _
  generalize hmeet : s.meetSpools (CoreId_key c) q ((s.spoolWrite (CoreId_key c) q).coresOf ((s.core c).part.getD 64)) (s.spoolWrite (CoreId_key c) q) = t
  have hsame : SameFlights (s.spoolWrite (CoreId_key c) q) t := hmeet ▸ State.meetSpools_same hwritten.ok _ _ _
  have hexec : exec (.spoolCompletion c q.sp .clean) s = .next (t.landSpool (CoreId_key c) q) :=
    congrArg Host.Outcome.next (State.spoolDone_write ok hnext hstall hwrite hclean hmeet)
  refine ⟨_, hexec, ?_, ?_, fun a hcfg hstat => ?_⟩ <;> rw [State.landSpool_eq]
  · exact congrArg Rim.mem hsame.rim
  · rw [State.core, State.coreAt_modCoreAt hsame.ok, if_pos rfl]
    dsimp only
    rw [hsame.flight, hsame.now, hcores]
  · rw [State.modCoreAt_rd_frame, State.rd, hsame.regs]
    exact hwritten.rd a fun h => h.elim hcfg hstat

/-- Settles O14 with a lemma for each clause: the bundle of one slot, the held wait, its time-out, STL, TRC, and a spool's read and write. The cycle in which a
time-out comes, the end of a wall cycle, and a completion that performs the next request while the one before has not landed are the model's reading
(notes/assumptions/51.md, 53.md, 142.md); that one command carries the whole exchange with the rim and draws its own choice for each granule is its choice
(12.md, 54.md). -/
theorem waitsAndSpools : Obligations.WaitsAndSpools := by
  refine ⟨fun s c p => ⟨fun i hissue hfetch => execBundleIssue_eq_slotCycle hissue hfetch, ?_, ?_, ?_, ?_⟩, fun s c q ok hnext hstall => ⟨?_, ?_⟩⟩
  · rintro ops tb w ⟨ok, hrun, hpow, hheld, hpart, hstall, hdue, hstill, hfetch, hwait⟩ hlimit
    exact congrArg _ (State.cycle_waits ⟨ok, hrun, hpow, hheld, hpart, hstall, hdue, hstill, hfetch, hwait⟩ hlimit)
  · rintro ops tb w ⟨ok, hrun, hpow, hheld, hpart, hstall, hdue, hstill, hfetch, hwait⟩ hlimit hp hstate hepoch
    exact waitTimeout_stops ⟨ok, hrun, hpow, hheld, hpart, hstall, hdue, hstill, hfetch, hwait⟩ hlimit hp hstate hepoch
  · rintro d o rfl hissue hpart hpow hk hheld hstall hnew hgoes hother hd
    exact congrArg _ (State.slotCycle_stl hissue hpart hpow hk hheld hstall hnew hgoes hother hd)
  · rintro d o rfl hissue hpart hk hon
    exact congrArg _ (State.slotCycle_trc hissue hpart hk hon)
  · exact fun hread hclean => congrArg _ (State.spoolDone_read ok hnext hstall hread hclean rfl)
  · exact spoolCompletion_writes ok hnext hstall

end Sys2Proof.Machine

/-! SUPPORT. The statements of chapter 05's family: lane instructions (O8), reductions and attention rows (O9), and DOT instructions (O10). -/

namespace Sys2Proof.Machine

/-! ### Cycles in which a DOT or VEC instruction issues -/

/-- Work put in flight for the current cycle is all that samples in it, and leaves the flight with it. -/
theorem Core.micros_push {x : Core} (h : ∀ f ∈ x.flight, x.now < f.due) (slot : Nat) (m : Micro) :
    (x.push x.now slot (.micro m)).dueMicros = [m] ∧ (x.push x.now slot (.micro m)).dropMicros = x := by
  obtain ⟨hdue, hdrop⟩ := Core.micros_nil h
  constructor
  · rw [Core.dueMicros, Core.push, List.filterMap_append]
    refine congrArg₂ (· ++ ·) hdue ?_
    simp
  · refine Eq.trans ?_ hdrop
    refine congrArg (fun l => { x with flight := l }) ((List.filter_append _ _).trans ?_)
    rw [List.filter_cons_of_neg (by simp [Core.push]), List.filter_nil, List.append_nil]
    rfl

/-- Core x with effects l put in flight, its DOT unit free from cycle a on and its VEC unit from b on. -/
def Core.launch (x : Core) (l : List Flight) (a b : Nat) : Core := { x with flight := x.flight ++ l, busyDot := a, busyVec := b }

/-- One piece of work that raises nothing. -/
theorem runMicros_single {q : Nat} {x : Core} {m : Micro} (h : (runMicro q x m).2 = []) : runMicros q x [m] = ((runMicro q x m).1, []) := by
  simp [runMicros, h]

section
variable {s : State} {c : CoreId} {slot op : Nat} {o : BitVec 46}

/-- Holding its bundle no longer, a core stays in its partition's quality mode. -/
theorem State.coreMode_unheld (ok : Canonical s) (k : Nat) : (s.unheld k).coreMode k = s.coreMode k := by
  simp only [State.coreMode, State.corePart, State.unheld_coreAt ok]
  rfl

theorem State.modCoreAt_unheld (ok : Canonical s) (k : Nat) (f : Core → Core) :
    (s.unheld k).modCoreAt k f = (s.unheld k).setCoreAt k (f { s.coreAt k with hold := 0 }) := by
  rw [State.modCoreAt, State.unheld_coreAt ok]

/-- A VEC instruction changes its own core alone, which computes in its partition's quality mode. -/
theorem State.startIns_vec (ok : Canonical s) (k op : Nat) (o : BitVec 46) :
    (s.unheld k).startIns k ⟨3, op, o⟩ = (s.unheld k).setCoreAt k (startVec (s.coreMode k) { s.coreAt k with hold := 0 } op o) := by
  rw [← State.coreMode_unheld ok]
  exact State.modCoreAt_unheld ok k (startVec ((s.unheld k).coreMode k) · op o)

/-- A DOT instruction changes its own core alone. -/
theorem State.startIns_dot (ok : Canonical s) (k op : Nat) (o : BitVec 46) :
    (s.unheld k).startIns k ⟨2, op, o⟩ = (s.unheld k).setCoreAt k (startDot { s.coreAt k with hold := 0 } op o) :=
  State.modCoreAt_unheld ok k (startDot · op o)

/-- A start that puts effects in flight for later cycles. -/
theorem State.slotCycle_flies (h : Issuable s c ⟨slot, op, o⟩) {l : List Flight} {a b : Nat} (later : ∀ f ∈ l, (s.core c).now < f.due)
    (hstart : (s.unheld (CoreId_key c)).startIns (CoreId_key c) ⟨slot, op, o⟩ =
      (s.unheld (CoreId_key c)).setCoreAt (CoreId_key c) (Core.launch { s.core c with hold := 0 } l a b)) :
    s.slotCycle c slot op o = s.setCoreAt (CoreId_key c) ((s.core c).stepped ⟨slot, op, o⟩ ((s.core c).launch l a b)) := by
  refine State.slotCycle_issuable h (·.launch l a b) (hstart.trans (State.modCoreAt_unheld h.ok _ (·.launch l a b)).symm) rfl h.running rfl rfl ?_
  exact fun f hf => (List.mem_append.1 hf).elim (h.still f) (later f)

/-- A start whose first piece of work samples in this cycle, on the stepped core y, and raises nothing. -/
theorem State.slotCycle_works (h : Issuable s c ⟨slot, op, o⟩) {m : Micro} {a b : Nat} {y : Core}
    (hstart : (s.unheld (CoreId_key c)).startIns (CoreId_key c) ⟨slot, op, o⟩ = (s.unheld (CoreId_key c)).setCoreAt (CoreId_key c)
      (Core.launch { s.core c with hold := 0 } [⟨(s.core c).now, slot, .micro m⟩] a b))
    (hy : { (s.core c).stepped ⟨slot, op, o⟩ { s.core c with busyDot := a, busyVec := b } with now := (s.core c).now } = y)
    (quiet : (runMicro (s.coreMode (CoreId_key c)) y m).2 = []) :
    s.slotCycle c slot op o = s.setCoreAt (CoreId_key c)
      { (runMicro (s.coreMode (CoreId_key c)) y m).1 with now := (runMicro (s.coreMode (CoreId_key c)) y m).1.now + 1 } := by
  subst hy
  obtain ⟨hdue, hdrop⟩ := Core.micros_push
    (x := { (s.core c).stepped ⟨slot, op, o⟩ { s.core c with busyDot := a, busyVec := b } with now := (s.core c).now }) h.still slot m
  refine State.slotCycle_samples h (·.launch [⟨(s.core c).now, slot, .micro m⟩] a b)
    (hstart.trans (State.modCoreAt_unheld h.ok _ (·.launch [⟨(s.core c).now, slot, .micro m⟩] a b)).symm) rfl h.running rfl rfl
    ((congrArg₂ (runMicros _) hdrop hdue).trans (runMicros_single quiet))

/-- A VEC instruction that puts effects in flight for later cycles and keeps its unit until cycle b. -/
theorem State.slotCycle_vec (h : Issuable s c ⟨3, op, o⟩) {l : List Flight} {b : Nat} (later : ∀ f ∈ l, (s.core c).now < f.due)
    (hstart : startVec (s.coreMode (CoreId_key c)) { s.core c with hold := 0 } op o =
      Core.launch { s.core c with hold := 0 } l (s.core c).busyDot b) :
    s.slotCycle c 3 op o = s.setCoreAt (CoreId_key c) ((s.core c).stepped ⟨3, op, o⟩ ((s.core c).launch l (s.core c).busyDot b)) :=
  State.slotCycle_flies h later ((State.startIns_vec h.ok _ op o).trans (congrArg _ hstart))

/-- One that writes lanes, readable n cycles on, and nothing else. -/
theorem State.slotCycle_lanes (h : Issuable s c ⟨3, op, o⟩) {n b vd : Nat} {t : Tab Word} (hn : 0 < n)
    (hstart : startVec (s.coreMode (CoreId_key c)) { s.core c with hold := 0 } op o =
      Core.launch { s.core c with hold := 0 } [⟨(s.core c).now + n, 3, .lanes vd t⟩] (s.core c).busyDot b) :
    s.slotCycle c 3 op o = s.setCoreAt (CoreId_key c)
      ((s.core c).stepped ⟨3, op, o⟩ ((s.core c).launch [⟨(s.core c).now + n, 3, .lanes vd t⟩] (s.core c).busyDot b)) :=
  State.slotCycle_vec h (by simp [hn]) hstart

end

/-! ### Order and equality of binary32 values (O8) -/

/-- A shift of a numerator keeps its sign. -/
theorem shl_neg (m k : Int) : shl (-m) k = -shl m k := Int.neg_mul _ _

/-- A difference taken the other way has the opposite numerator. -/
theorem Dy.sub_swap (a b : Dy) : (b.add a.neg).m = -(a.add b.neg).m := by
  by_cases ha : a.m = 0
  · by_cases hb : b.m = 0 <;> simp [Dy.add, Dy.neg, ha, hb]
  · by_cases hb : b.m = 0
    · simp [Dy.add, Dy.neg, ha, hb]
    · simp only [Dy.add, Dy.neg, ha, hb, if_false, neg_eq_zero, shl_neg, min_comm b.e a.e]
      ring

theorem Dy.lt_asymm {a b : Dy} (h : a.lt b = true) : b.lt a = false := by
  have hpos : (a.add b.neg).m < 0 := of_decide_eq_true h
  rw [Dy.lt, Dy.sub_swap, decide_eq_false_iff_not]
  omega

theorem FV.lt_asymm {a b : FV} (h : a.lt b = true) : b.lt a = false := by
  cases a with
  | nan => exact absurd h Bool.false_ne_true
  | inf n => cases b with
    | nan => rfl
    | inf k => revert h; revert n k; decide
    | fin k m e => revert h; revert n; simp [FV.lt]
  | fin n m e => cases b with
    | nan => rfl
    | inf k => revert h; revert k; simp [FV.lt]
    | fin k p d => exact Dy.lt_asymm h

/-- The least and the greatest with a NaN: the other operand, canonical when it is NaN too (R142). -/
theorem f32MinMax_nan {v : Word} (h : (f32 v).isNan = true) (u : Word) : f32Min v u = (if (f32 u).isNan then 0x7FC00000 else u) ∧
    f32Max v u = (if (f32 u).isNan then 0x7FC00000 else u) := by
  simp [f32Min, f32Max, h]

theorem f32MinMax_nan_right {v w : Word} (hv : (f32 v).isNan = true) (hw : (f32 w).isNan = false) : f32Min w v = w ∧ f32Max w v = w := by
  simp [f32Min, f32Max, hv, hw]

/-- With a NaN only "not equal" and "unordered" hold. -/
theorem vcmpCond_nan {v : Word} (h : (f32 v).isNan = true) (u : Word) {k : Nat} (hk : k < 8) :
    vcmpCond k v u = decide (k = 1 ∨ k = 6) ∧ vcmpCond k u v = decide (k = 1 ∨ k = 6) := by
  interval_cases k <;> simp [vcmpCond, h]

/-- Of two numbers in order, the least and the greatest do not depend on which operand is first. -/
theorem f32MinMax_of_lt {v w : Word} (hv : (f32 v).isNan = false) (hw : (f32 w).isNan = false) (h : (f32 v).lt (f32 w) = true) :
    f32Min v w = v ∧ f32Max v w = w ∧ f32Min w v = v ∧ f32Max w v = w := by
  have hback := FV.lt_asymm h
  simp [f32Min, f32Max, hv, hw, h, hback]

/-- Settles O8: the start of each instruction puts its lanes in flight for t + 4 and nothing more, so that one lemma on such cycles serves all nine; NaN, the
conditions and the order of two numbers have lemmas of their own. That a command issues its instruction alone is the model's choice
(notes/assumptions/52.md). -/
theorem vecLaneResults : Obligations.VecLaneResults := by
  intro s c o
  refine ⟨fun h => ?_, fun h => ?_, fun h => ?_, fun h => ?_, fun h => ?_, fun h => ?_, fun h => ?_, fun h => ?_, fun h => ?_,
    fun v w hv hw => ?_, fun v w hv hw => ?_, by decide, by decide, by decide, by decide, by decide⟩
  iterate 9 exact congrArg Host.Outcome.next (State.slotCycle_lanes h (by decide) rfl)
  · obtain ⟨hmin, hmax⟩ := f32MinMax_nan hv w
    obtain ⟨hmin', hmax'⟩ := f32MinMax_nan_right hv hw
    rw [hw] at hmin hmax
    exact ⟨hmin, hmin', hmax, hmax', fun u => ⟨(f32MinMax_nan hv u).1, (f32MinMax_nan hv u).2, fun k hk => vcmpCond_nan hv u hk⟩⟩
  · refine ⟨?_, ?_, ?_, ?_, ?_, ?_, ?_, ?_, f32MinMax_of_lt hv hw⟩ <;> simp [vcmpCond, hv, hw]

/-! ### Reductions and attention rows (O9) -/

/-- Steps that each put effects in flight put them there in order. -/
theorem foldl_launches {step : Core → Nat → Core} {g : Nat → List Flight} (h : ∀ x k, step x k = { x with flight := x.flight ++ g k }) (l : List Nat)
    (x : Core) : l.foldl step x = { x with flight := x.flight ++ l.flatMap g } := by
  induction l generalizing x with
  | nil => simp
  | cons k l ih => rw [List.foldl_cons, ih, h, List.flatMap_cons, List.append_assoc]

/-- VACC's clear lands a cycle before its lanes. -/
theorem startVacc_eq (x : Core) (o : BitVec 46) :
    startVacc x o =
      let tp := x.rT (field o 40 37)
      let i := psmRow tp 0 (vaccRow x o)
      x.launch ([⟨x.now + 4, 3, .lanes (field o 45 41) ((List.range 64).map fun j =>
          (j, if j < dCols tp + 1 then accLeaves (flag o 31) (dAnchor tp) (x.acc (i + j)) else 0))⟩] ++
        (if flag o 30 then [⟨x.now + 3, 3, .accWrite i (List.replicate (dCols tp + 1) Acc.zero)⟩] else [])) x.busyDot (x.now + 1) := by
  rw [startVacc]
  dsimp only
  rw [Core.launch, ← List.append_assoc]
  split
  · rfl
  · rw [List.append_nil]
    rfl

/-- The lanes that rotate together: halves of 32, or neighbours; the first of a pair is the lower one. -/
theorem startVrot_eq (x : Core) (o : BitVec 46) :
    startVrot x o = (x.setLanes 4 (field o 45 41) fun j =>
      let g := flag o 25
      let lo := if g then j % 32 else 2 * (j / 2)
      let hi := if g then j % 32 + 32 else 2 * (j / 2) + 1
      let cs := f32 (x.rV (field o 35 31) lo)
      let sn := negIf (flag o 24) (f32 (x.rV (field o 30 26) lo))
      let a := fun i => f32 (x.rV (field o 40 36) i)
      if j = lo then toF32 (((a lo).mul cs).add ((a hi).mul sn).neg) else toF32 (((a hi).mul cs).add ((a lo).mul sn))).vecBusy 1 := by
  rw [startVrot]
  refine congrArg (fun f => (x.setLanes 4 (field o 45 41) f).vecBusy 1) (funext fun j => ?_)
  have hhalf : j < 32 ↔ j = j % 32 := by omega
  have heven : j % 2 = 0 ↔ j = 2 * (j / 2) := by omega
  cases hg : flag o 25
  · simp [rotPair, heven, Nat.mul_comm (j / 2)]
  · simp [rotPair, hhalf]

/-- AEND empties its rows in the next cycle and gives their results sixteen cycles on. -/
theorem startAend_eq (q : Nat) (x : Core) (o : BitVec 46) :
    startAend q x o =
      let tst := x.rT (field o 45 42)
      let row := fun (k : Nat) =>
        let r := (field o 36 31 + k) % 64
        let st := attnStats q (x.attnRow r)
        ([⟨x.now + 1, 3, .attnEmpty r⟩, ⟨x.now + 16, 3, .bytes 0 (dBase tst + k * dStride tst) (leBytes 4 st.1.toNat ++ leBytes 4 st.2.1.toNat)⟩,
          ⟨x.now + 16, 3, .lanes (field o 41 37) [(r, st.2.2)]⟩] : List Flight)
      x.launch ((List.range (field o 30 25 + 1)).flatMap row) x.busyDot (x.now + 4) := by
  refine congrArg (·.vecBusy 4) (foldl_launches (fun y k => ?_) _ x)
  simp only [Core.push, List.append_assoc]
  rfl

/-- Settles O9: by what each start puts in flight, and for ASMX and AREC by the first row, which is work of the issue cycle itself. What a transcendental
function returns within its bound stays free in transc; that a command issues its instruction alone is the model's choice (notes/assumptions/52.md). -/
theorem reductionAndAttentionResults : Obligations.ReductionAndAttentionResults := by
  refine ⟨fun s c o => ?_, fun s c o => ?_⟩
  · simp only [List.append_nil, List.append_assoc]
    refine ⟨fun h => ?_, fun h => ?_, fun h => ?_, fun h => ?_, fun h => ?_, fun h => ?_, fun h => ?_, fun h => ?_⟩
    iterate 6 exact congrArg Host.Outcome.next (State.slotCycle_lanes h (by decide) rfl)
    · refine congrArg Host.Outcome.next (State.slotCycle_vec h ?_ (startVacc_eq _ o))
      split <;> simp
    · exact congrArg Host.Outcome.next (State.slotCycle_lanes h (by decide) (startVrot_eq _ o))
  · refine ⟨fun h => ?_, fun h => ?_, fun h => ?_, fun h => ?_⟩
    · refine congrArg Host.Outcome.next (State.slotCycle_vec h (fun f hf => ?_) rfl)
      obtain ⟨e, -, rfl⟩ := List.mem_map.1 hf
      exact Nat.lt_add_of_pos_right (by decide)
    · exact congrArg Host.Outcome.next (State.slotCycle_works h (m := .asmxRow (asmxJob (s.core c) o) 0) (State.startIns_vec h.ok _ 32 o) rfl rfl)
    · exact congrArg Host.Outcome.next (State.slotCycle_works h (m := .arecRow (arecJob (s.core c) o) 0) (State.startIns_vec h.ok _ 34 o) rfl rfl)
    · refine congrArg Host.Outcome.next (State.slotCycle_vec h (fun f hf => ?_) (startAend_eq _ _ o))
      simp only [List.mem_flatMap, List.mem_cons, List.not_mem_nil, or_false] at hf
      obtain ⟨k, -, rfl | rfl | rfl⟩ := hf <;> simp

/-! ### DOT instructions (O10) -/

/-- Of the work of the DOT slot only a pair of DMM can raise a detection after issue, for a record that runs past its row (R112). -/
theorem runDmmtPair_quiet (x : Core) (j : DotJob) (k v : Nat) : (runDmmtPair x j k v).2 = [] := rfl

theorem runDoutPair_quiet (x : Core) (j : DotJob) (i : Nat) : (runDoutPair x j i).2 = [] := rfl

theorem runDadnRow_quiet (x : Core) (j : DotJob) (v : Nat) : (runDadnRow x j v).2 = [] := rfl

theorem runDaupRow_quiet (x : Core) (j : DotJob) (v : Nat) : (runDaupRow x j v).2 = [] := rfl

/-- DRSC puts the rescale of each row in flight, a row a cycle. -/
theorem startDrsc_eq (x : Core) (o : BitVec 46) :
    startDrsc x o =
      let tp := x.rT (field o 45 42)
      let row := fun (k : Nat) => (⟨x.now + 14 + k, 2, .accScale (psmRow tp (ixP0 (x.rA (field o 15 11))) k) (dCols tp + 1)
        (x.rV (field o 41 37) ((field o 36 31 + k / (field o 21 16 + 1)) % 64))⟩ : Flight)
      x.launch ((List.range (field o 30 22 + 1)).map row) (x.now + (field o 30 22 + 1)) x.busyVec := by
  dsimp only
  rw [List.map_eq_flatMap]
  exact congrArg (fun y : Core => { y with busyDot := x.now + (field o 30 22 + 1) }) (foldl_launches (fun _ _ => rfl) _ x)

/-- Settles O10: the first pair, row or group is work of the issue cycle, and a DRSC puts its rows in flight. R133 gives the cycle in which DMM
samples; that DMMT, DOUT, DADN and DAUP read each piece in the cycle the array takes it is deduced (notes/assumptions/48.md), and that a command
issues its instruction alone is the model's choice (52.md). -/
theorem dotResults : Obligations.DotResults := by
  intro s c o
  refine ⟨fun h hr => ?_, fun h => ?_, fun h => ?_, fun h => ?_, fun h => ?_, fun h => ?_⟩
  · exact congrArg Host.Outcome.next (State.slotCycle_works h (m := .dmmPair (dmmJob (s.core c) o) 0 0 0 []) (State.startIns_dot h.ok _ 1 o) rfl hr)
  · exact congrArg Host.Outcome.next (State.slotCycle_works h (m := .dmmtPair (dmmJob (s.core c) o) 0 0) (State.startIns_dot h.ok _ 2 o) rfl
      (runDmmtPair_quiet _ _ 0 0))
  · exact congrArg Host.Outcome.next (State.slotCycle_works h (m := .doutPair (dmmJob (s.core c) o) 0) (State.startIns_dot h.ok _ 3 o) rfl
      (runDoutPair_quiet _ _ 0))
  · exact congrArg Host.Outcome.next (State.slotCycle_works h (m := .dadnRow (dmmJob (s.core c) o) 0) (State.startIns_dot h.ok _ 4 o) rfl
      (runDadnRow_quiet _ _ 0))
  · exact congrArg Host.Outcome.next (State.slotCycle_works h (m := .daupRow (dmmJob (s.core c) o) 0) (State.startIns_dot h.ok _ 5 o) rfl
      (runDaupRow_quiet _ _ 0))
  · refine congrArg Host.Outcome.next (State.slotCycle_flies h (fun f hf => ?_)
      ((State.startIns_dot h.ok _ 6 o).trans (congrArg _ (startDrsc_eq _ o))))
    obtain ⟨k, -, rfl⟩ := List.mem_map.1 hf
    exact Nat.lt_add_right k (Nat.lt_add_of_pos_right (by decide))

end Sys2Proof.Machine

/-! SUPPORT. The statements of chapter 06's family: the status word (O6), CTL instructions (O11), MOV instructions (O12), NET instructions (O13), and posted
writes (O39). -/

namespace Sys2Proof.Machine

/-! ### Cycles in which a CTL or MOV instruction issues -/

section
variable {s : State} {c : CoreId} {slot op : Nat} {o : BitVec 46}

/-- A start that leaves core y, running on in its job, and samples nothing in this cycle. -/
theorem State.slotCycle_leaves (h : Issuable s c ⟨slot, op, o⟩) {y : Core}
    (hstart : (s.unheld (CoreId_key c)).startIns (CoreId_key c) ⟨slot, op, o⟩ =
      (s.unheld (CoreId_key c)).setCoreAt (CoreId_key c) { y with hold := 0 })
    (hrun : y.phase = .running) (hnow : y.now = (s.core c).now) (hpart : y.part = (s.core c).part)
    (later : ∀ f ∈ y.flight, (s.core c).now < f.due) :
    s.slotCycle c slot op o = s.setCoreAt (CoreId_key c) ((s.core c).stepped ⟨slot, op, o⟩ y) :=
  State.slotCycle_issuable h (fun _ => { y with hold := 0 }) hstart rfl hrun hnow hpart later

/-- Of the CTL instructions STL and TRC alone change more than their core. -/
theorem State.startIns_ctl (ok : Canonical s) (k : Nat) {op : Nat} (hstl : op ≠ 12) (htrc : op ≠ 14) (o : BitVec 46) :
    (s.unheld k).startIns k ⟨0, op, o⟩ = (s.unheld k).setCoreAt k (startCtl { s.coreAt k with hold := 0 } op o) := by
  refine Eq.trans ?_ (State.modCoreAt_unheld ok k (startCtl · op o))
  simp only [State.startIns]

/-- A CTL instruction that puts effects l in flight for later cycles and leaves the loop levels ls. -/
theorem State.slotCycle_ctl (h : Issuable s c ⟨0, op, o⟩) (hstl : op ≠ 12) (htrc : op ≠ 14) {l : List Flight} {ls : List LoopLevel}
    (later : ∀ f ∈ l, (s.core c).now < f.due)
    (hstart : startCtl { s.core c with hold := 0 } op o = { s.core c with flight := (s.core c).flight ++ l, loops := ls, hold := 0 }) :
    s.slotCycle c 0 op o = s.setCoreAt (CoreId_key c)
      ((s.core c).stepped ⟨0, op, o⟩ { s.core c with flight := (s.core c).flight ++ l, loops := ls }) :=
  State.slotCycle_leaves h (y := { s.core c with flight := (s.core c).flight ++ l, loops := ls })
    ((State.startIns_ctl h.ok _ hstl htrc o).trans (congrArg _ hstart)) h.running rfl rfl
    fun f hf => (List.mem_append.1 hf).elim (h.still f) (later f)

/-- One whose results are all readable n cycles on. -/
theorem State.slotCycle_gives (h : Issuable s c ⟨0, op, o⟩) (hstl : op ≠ 12) (htrc : op ≠ 14) {n : Nat} (hn : 0 < n) {es : List Eff}
    (hstart : startCtl { s.core c with hold := 0 } op o = Core.pushAll { s.core c with hold := 0 } ((s.core c).now + n) 0 es) :
    s.slotCycle c 0 op o = s.setCoreAt (CoreId_key c)
      ((s.core c).stepped ⟨0, op, o⟩ { s.core c with flight := (s.core c).flight ++ es.map fun e => ⟨(s.core c).now + n, 0, e⟩ }) := by
  refine State.slotCycle_ctl h hstl htrc (ls := (s.core c).loops) (fun f hf => ?_) hstart
  obtain ⟨e, -, rfl⟩ := List.mem_map.1 hf
  exact Nat.lt_add_of_pos_right hn

end

/-! ### The status word (O6) -/

/-- CSR gives the status word, and clears its saturation flag when asked. -/
theorem startCsr_eq (x : Core) (o : BitVec 46) :
    startCsr x o = x.pushAll (x.now + 1) 0
      (.regA (field o 29 25) (BitVec.ofNat 64 x.csw.toNat) :: if flag o 24 then [.satClear] else []) := by
  rw [startCsr]
  cases flag o 24
  · rfl
  · simp [Core.setA, Core.push, Core.pushAll]

theorem Core.csw_fields (x : Core) : flag x.csw 31 = x.sat ∧ field x.csw 15 0 = x.ovl.toNat ∧ field x.csw 30 16 = 0 := by
  have hovl := x.ovl.isLt
  rw [flag_eq_field]
  cases hsat : x.sat <;> simp [Core.csw, field, hsat, Nat.shiftRight_eq_div_pow] <;> omega

/-- The saturation flag is no part of an attention row. -/
theorem foldl_sat {f : Core → Eff → Core} (h : ∀ x e, (f x e).sat = x.sat) (es : List Eff) (x : Core) : (es.foldl f x).sat = x.sat :=
  List.foldlRecOn (motive := fun y => y.sat = x.sat) es f rfl fun y hy e _ => (h y e).trans hy

/-- A set that lands in a cycle stands at its end, whatever clears land with it (R87). -/
theorem Core.land_sat_of_set {y : Core} (h : Eff.satSet ∈ y.due) : y.land.1.sat = true := by
  have hset : (y.due.any fun e => decide (e = .satSet)) = true := List.any_eq_true.2 ⟨_, h, by simp⟩
  rw [Core.land]
  dsimp only
  rw [foldl_sat, foldl_sat, hset, Bool.or_true, Bool.true_or]
  · intro x e
    split <;> rfl
  · intro x e
    split <;> rfl

/-- A result of CSR that lands alone, or with its clear, is all that the cycle changes. -/
theorem Core.land_csr {y : Core} {i : Nat} {v : Long} {clear : Bool} (hdue : y.due = .regA i v :: if clear then [.satClear] else []) :
    y.land = ({ y.keep.wA i v with sat := (y.keep.wA i v).sat && !clear }, []) := by
  have hctrs : ctrsOf (.regA i v :: if clear then [.satClear] else []) = [] := by cases clear <;> rfl
  rw [Core.land, hdue, hctrs]
  cases clear <;> simp [Core.landPlain, contribsOf, Core.accumulateAll, Core.landCtrs]

/-- Settles O6: CSR's effects all land in the next cycle, and a landing clears the flag before it sets it. That a command issues its instruction
alone is the model's choice (notes/assumptions/52.md). -/
theorem statusReads : Obligations.StatusReads := by
  intro s c d
  refine ⟨fun h => ?_, (s.core c).csw_fields, fun y i v hdue => ?_, fun y i v hdue => ?_, fun y => Core.land_sat_of_set⟩
  · have hcycle := State.slotCycle_gives h (by decide) (by decide) Nat.one_pos (startCsr_eq _ _)
    refine congrArg Host.Outcome.next (hcycle.trans ?_)
    cases flag (d.setWidth 46) 24 <;> rfl
  · rw [Core.land_csr (clear := true) hdue, Bool.not_true, Bool.and_false]
  · rw [Core.land_csr (clear := false) hdue, Bool.not_false, Bool.and_true]

/-! ### CTL instructions (O11) -/

/-- PLG combines two predicates, or copies one or the saturation flag. -/
theorem startPlg_eq (x : Core) (o : BitVec 46) :
    startPlg x o = x.pushAll (x.now + 1) 0 [.regP (field o 29 27)
      (let p := xor (x.rP (field o 26 24)) (flag o 17)
       let q := xor (x.rP (field o 23 21)) (flag o 16)
       let f := field o 20 18
       if f = 0 then p && q else if f = 1 then p || q else if f = 2 then xor p q else if f = 3 then p else x.sat)] := by
  refine congrArg (fun b => x.setP (field o 29 27) b) ?_
  split <;> simp_all

/-- CCTL reads a counter, or sets it, adds to it or subtracts from it. -/
theorem startCctl_eq (x : Core) (o : BitVec 46) :
    startCctl x o = x.pushAll (x.now + 1) 0
      [let f := field o 29 28
       if f = 0 then .regA (field o 23 19) (BitVec.ofNat 64 (x.rC (field o 27 24)).toNat) else if f = 1 then .ctrSet (field o 27 24) (cctlValue x o)
       else if f = 2 then .ctrAdd (field o 27 24) (cctlValue x o) false else .ctrSub (field o 27 24) (cctlValue x o)] := by
  refine Eq.trans ?_ (rfl : x.push (x.now + 1) 0 _ = _)
  rw [startCctl]
  split <;> simp_all [Core.setA]

/-- A satisfied WAIT subtracts its threshold when asked. -/
theorem startWait_eq (x : Core) (o : BitVec 46) :
    startWait x o = x.pushAll (x.now + 1) 0 (if flag o 25 then [.ctrSub (field o 29 26) (waitThreshold x o)] else []) := by
  rw [startWait]
  split
  · rfl
  · simp [Core.pushAll]

/-- BR links when it names a register, and pops loop levels. -/
theorem startBr_eq (x : Core) (o : BitVec 46) :
    startBr x o = { x with
      flight := x.flight ++ (if field o 17 13 = 0 then [] else [⟨x.now + 1, 0, .regA (field o 17 13) (BitVec.ofNat 64 (x.pc + 1))⟩]),
      loops := x.loops.drop (field o 6 5) } := by
  rw [startBr]
  split
  · simp
  · rfl

/-- The level that LOOP enters: the next bundle is its first (R164). -/
def Core.enteredLevel (x : Core) (o : BitVec 46) : LoopLevel := { start := x.pc + 1, last := field o 29 18, remaining := loopCount x o }

section
variable {s : State} {c : CoreId} {o : BitVec 46}

/-- A taken branch issues its target four cycles on. -/
theorem State.slotCycle_br (h : Issuable s c ⟨0, 8, o⟩) :
    s.slotCycle c 0 8 o = s.setCoreAt (CoreId_key c) { s.core c with
      flight := (s.core c).flight ++
        (if field o 17 13 = 0 then [] else [⟨(s.core c).now + 1, 0, .regA (field o 17 13) (BitVec.ofNat 64 ((s.core c).pc + 1))⟩]),
      loops := (s.core c).loops.drop (field o 6 5), hold := 0, pc := brTarget (s.core c) o, lastPc := (s.core c).pc,
      nextIssue := (s.core c).now + 4, now := (s.core c).now + 1 } := by
  refine State.slotCycle_ctl h (by decide) (by decide) ?_ (startBr_eq _ o)
  dsimp only
  split <;> simp

/-- LOOP with count 0 passes over its body. -/
theorem State.slotCycle_loop_of_zero (h : Issuable s c ⟨0, 9, o⟩) (hn : loopCount (s.core c) o = 0) :
    s.slotCycle c 0 9 o = s.setCoreAt (CoreId_key c) { s.core c with
      hold := 0, pc := field o 29 18 + 1, lastPc := (s.core c).pc, nextIssue := (s.core c).now + 4, now := (s.core c).now + 1 } := by
  have hn' : ∀ ls n, loopCount { s.core c with loops := ls, hold := n } o = 0 := fun _ _ => hn
  have hstart : startLoop { s.core c with hold := 0 } o = { s.core c with flight := (s.core c).flight ++ [], loops := (s.core c).loops, hold := 0 } := by
    rw [startLoop, hn', if_pos rfl, List.append_nil]
  rw [State.slotCycle_ctl h (by decide) (by decide) (by simp) hstart]
  have hnext : nextPc (s.core c) [⟨0, 9, o⟩] = (field o 29 18 + 1, 4, (s.core c).loops) := by
    simp [nextPc, hn]
  rw [Core.stepped]
  dsimp only
  rw [hnext, List.append_nil]

/-- LOOP with a count enters a level of which the next bundle is the first. -/
theorem State.slotCycle_loop_enters (h : Issuable s c ⟨0, 9, o⟩) (hn : loopCount (s.core c) o ≠ 0) (hend : (s.core c).pc < field o 29 18)
    (hlast : ∀ l ∈ (s.core c).loops, l.last ≠ (s.core c).pc) (hroom : (s.core c).loops.length < 4) :
    s.slotCycle c 0 9 o = s.setCoreAt (CoreId_key c) { s.core c with
      loops := (s.core c).enteredLevel o :: (s.core c).loops, hold := 0,
      pc := (s.core c).pc + 1, lastPc := (s.core c).pc, nextIssue := (s.core c).now + 1, now := (s.core c).now + 1 } := by
  have hcount : ∀ ls n, loopCount { s.core c with loops := ls, hold := n } o = loopCount (s.core c) o := fun _ _ => rfl
  have hstart : startLoop { s.core c with hold := 0 } o = { s.core c with
      flight := (s.core c).flight ++ [], loops := (s.core c).enteredLevel o :: (s.core c).loops, hold := 0 } := by
    have hplace : (decide (field o 29 18 ≤ (s.core c).pc) || (s.core c).loops.any fun l => decide (l.last = (s.core c).pc)) = false := by
      simpa [hend] using hlast
    rw [startLoop]
    dsimp only
    rw [hcount, if_neg hn, hplace, if_neg Bool.false_ne_true, if_neg (Nat.not_le.2 hroom), List.append_nil]
    rfl
  have hnext : ∀ ls, nextPc { s.core c with loops := (s.core c).enteredLevel o :: ls }
      [⟨0, 9, o⟩] = ((s.core c).pc + 1, 1, (s.core c).enteredLevel o :: ls) := fun ls => by
    have hcount' : ∀ ls, loopCount { s.core c with loops := ls } o ≠ 0 := fun _ => hn
    simp [nextPc, hcount', backEdge, Core.enteredLevel, hend.ne']
  rw [State.slotCycle_ctl h (by decide) (by decide) (by simp) hstart, Core.stepped]
  dsimp only
  rw [hnext, List.append_nil]

/-! HALT and the end of a job (R183, R345) -/

/-- The end of a job says nothing of cores. -/
theorem State.jobCompletes_cores (s : State) (q : Option Nat) : (s.jobCompletes q).cores = s.cores := by
  cases q with
  | none => rfl
  | some p =>
    rw [State.jobCompletes, apply_ite State.cores]
    exact ite_self _

theorem Canonical.jobCompletes (ok : Canonical s) (q : Option Nat) : Canonical (s.jobCompletes q) := (State.jobCompletes_kept ok.kept q).ok

/-- While a started core has not ended, its job goes on. -/
theorem State.jobCompletes_of_open {p k : Nat} (hk : k ∈ (s.part p).started) (hopen : (s.coreAt k).phase ≠ .ended) :
    s.jobCompletes (some p) = s := by
  refine if_neg ?_
  rintro ⟨-, -, -, hall⟩
  exact hopen (of_decide_eq_true (List.all_eq_true.1 hall k hk))

/-- When all have ended, it begins to stop with reason 1. -/
theorem State.jobCompletes_of_ended (ok : Canonical s) {p : Nat} (hrun : s.pstate p = 2) (hepoch : (s.part p).stopEpoch = none)
    (hsome : (s.part p).started ≠ []) (hall : ∀ k ∈ (s.part p).started, (s.coreAt k).phase = .ended) :
    (s.jobCompletes (some p)).pstate p = 3 ∧ (s.jobCompletes (some p)).ersn p = 1 := by
  have hset : Canonical ((s.setFld (Reg.LDR_PART p) 19 16 1).setPart p { s.part p with stopTime := some s.time }) := (ok.setFld _ _ _ _).setPart _ _
  have hstop : s.jobCompletes (some p) =
      ((s.setFld (Reg.LDR_PART p) 19 16 1).setPart p { s.part p with stopTime := some s.time }).setPState p 3 :=
    if_pos ⟨hrun, hepoch, hsome, List.all_eq_true.2 fun k hk => decide_eq_true (hall k hk)⟩
  rw [hstop]
  refine ⟨State.fld_setFld hset _ _ _ _ (by decide), ?_⟩
  rw [State.ersn, State.setPState, State.fld_setFld_apart hset _ _ _ _ _ _ (by decide), State.setPart_fld_frame, State.fld_setFld ok _ _ _ _ (by decide)]
  rfl

/-- Core x once it has issued HALT. -/
def Core.halted (x : Core) : Core := x.stepped ⟨0, 13, 0⟩ { x with phase := .ended }

/-- The state in which a job may end: core c has ended, in the cycle under way. -/
def State.halting (s : State) (c : CoreId) : State := s.setCoreAt (CoreId_key c) { (s.core c).halted with now := (s.core c).now }

/-- HALT ends its core, and its job if that was the last. -/
theorem State.slotCycle_halt (h : Issuable s c ⟨0, 13, 0⟩) :
    s.slotCycle c 0 13 0 = ((s.halting c).jobCompletes (s.core c).part).setCoreAt (CoreId_key c) (s.core c).halted := by
  have ok := h.ok
  have hstart : (s.unheld (CoreId_key c)).startIns (CoreId_key c) ⟨0, 13, 0⟩ =
      s.setCoreAt (CoreId_key c) { s.core c with phase := .ended, hold := 0 } :=
    (State.startIns_ctl ok _ (by decide) (by decide) 0).trans (State.setCoreAt_setCoreAt ok _ _ _)
  have hended : (s.setCoreAt (CoreId_key c) { s.core c with phase := .ended, hold := 0 }).coreAt (CoreId_key c) =
      { s.core c with phase := .ended, hold := 0 } := State.coreAt_set ok _ _
  have hcore : ((s.halting c).jobCompletes (s.core c).part).coreAt (CoreId_key c) = { (s.core c).halted with now := (s.core c).now } :=
    (State.coreAt_of_cores (State.jobCompletes_cores _ _) _).trans (State.coreAt_set ok _ _)
  obtain ⟨hdue, hdrop⟩ := Core.micros_nil (x := { (s.core c).halted with now := (s.core c).now }) h.still
  rw [State.slotCycle_ends h hstart (by rw [hended]) (w := (s.halting c).jobCompletes (s.core c).part) ((ok.setCoreAt _ _).jobCompletes _)
    (by rw [hended, State.setCoreAt_setCoreAt ok]; rfl) (by rw [hcore, hdue, hdrop]; rfl)]
  rfl

/-- While another started core has not ended, HALT ends its core alone. -/
theorem State.slotCycle_halt_early (h : Issuable s c ⟨0, 13, 0⟩) {p k : Nat} (hpart : (s.core c).part = some p) (hk : k ∈ (s.part p).started)
    (hne : k ≠ CoreId_key c) (hopen : (s.coreAt k).phase ≠ .ended) :
    s.slotCycle c 0 13 0 = s.setCoreAt (CoreId_key c) (s.core c).halted := by
  have hstay : (s.halting c).jobCompletes (some p) = s.halting c :=
    State.jobCompletes_of_open hk (by rw [State.halting, State.coreAt_setCoreAt h.ok, if_neg hne]; exact hopen)
  rw [State.slotCycle_halt h, hpart, hstay]
  exact State.setCoreAt_setCoreAt h.ok _ _ _

/-- The last of a running job's cores to halt ends the job. -/
theorem halt_completes (h : Issuable s c ⟨0, 13, 0⟩) {p : Nat} (hpart : (s.core c).part = some p)
    (hall : ∀ k ∈ (s.part p).started, k ≠ CoreId_key c → (s.coreAt k).phase = .ended) (hrun : s.pstate p = 2)
    (hepoch : (s.part p).stopEpoch = none) :
    Completes (.halt c) s fun t => t.pstate p = 3 ∧ t.ersn p = 1 ∧ (t.core c).phase = .ended ∧ ∀ k, k ≠ CoreId_key c → t.coreAt k = s.coreAt k := by
  have ok : Canonical (s.halting c) := h.ok.setCoreAt _ _
  obtain ⟨q, hq, hstarted⟩ := h.job
  obtain rfl : p = q := Option.some.inj (hpart.symm.trans hq)
  have hended : ∀ k ∈ (s.part p).started, ((s.halting c).coreAt k).phase = .ended := fun k hk => by
    rw [State.halting, State.coreAt_setCoreAt h.ok]
    split
    · rfl
    · next hne => exact hall k hk hne
  obtain ⟨hstate, hreason⟩ := State.jobCompletes_of_ended ok hrun hepoch (List.ne_nil_of_mem hstarted) hended
  refine ⟨_, congrArg Host.Outcome.next (State.slotCycle_halt h), ?_⟩
  rw [hpart]
  refine ⟨hstate, hreason, ?_, fun k hk => ?_⟩
  · rw [State.core, State.coreAt_set (ok.jobCompletes _)]
    rfl
  · rw [State.coreAt_setCoreAt (ok.jobCompletes _), if_neg hk, State.coreAt_of_cores (State.jobCompletes_cores _ _), State.halting,
      State.coreAt_setCoreAt h.ok, if_neg hk]

end

/-- Settles O11: a CTL instruction puts its results in flight and leaves its loop levels, so that one lemma on such cycles serves all but HALT, whose
end of the job has lemmas of its own. That a command issues its instruction alone is the model's choice (notes/assumptions/52.md). -/
theorem controlResults : Obligations.ControlResults := by
  refine ⟨fun s c d => ⟨fun h => ?_, fun h => ?_, fun h => ?_, fun h => ?_, fun h => ?_, fun h _ => ?_, fun h => ?_, fun h => ?_⟩,
    fun s c d => ⟨fun h => ?_, fun h => ?_, fun h => ?_, fun p k h hpart hk hne hopen => ?_, fun p h => halt_completes h⟩⟩
  iterate 3 exact congrArg Host.Outcome.next (State.slotCycle_gives h (by decide) (by decide) Nat.one_pos rfl)
  · exact congrArg Host.Outcome.next (State.slotCycle_gives h (by decide) (by decide) Nat.one_pos (startPlg_eq _ _))
  · exact congrArg Host.Outcome.next (State.slotCycle_gives h (by decide) (by decide) Nat.one_pos (startCctl_eq _ _))
  · exact congrArg Host.Outcome.next (State.slotCycle_gives h (by decide) (by decide) Nat.one_pos (startWait_eq _ _))
  iterate 2 exact congrArg Host.Outcome.next (State.slotCycle_gives h (by decide) (by decide) Nat.two_pos rfl)
  · exact congrArg Host.Outcome.next (State.slotCycle_br h)
  · exact fun hn => congrArg Host.Outcome.next (State.slotCycle_loop_of_zero h hn)
  · exact fun hn hend hlast hroom => congrArg Host.Outcome.next (State.slotCycle_loop_enters h hn hend hlast hroom)
  · exact congrArg Host.Outcome.next (State.slotCycle_halt_early h hpart hk hne hopen)

/-! ### Cycles in which a MOV instruction issues -/

/-- Core x with effects l put in flight, its MOV slot free from cycle a on and the vertical port from b on. -/
def Core.moving (x : Core) (l : List Flight) (a b : Nat) : Core := { x with flight := x.flight ++ l, busyMov := a, busyPort := b }

/-- Work for the current cycle is all that samples in it, and leaves the flight with it, where the rest is for later. -/
theorem Core.micros_between {x : Core} {l l' : List Flight} (hl : ∀ f ∈ l, x.now < f.due) (hl' : ∀ f ∈ l', x.now < f.due) (slot : Nat) (m : Micro) :
    ({ x with flight := l ++ ⟨x.now, slot, .micro m⟩ :: l' } : Core).dueMicros = [m] ∧
      ({ x with flight := l ++ ⟨x.now, slot, .micro m⟩ :: l' } : Core).dropMicros = { x with flight := l ++ l' } := by
  obtain ⟨hdue, hdrop⟩ := Core.micros_nil (x := { x with flight := l }) hl
  obtain ⟨hdue', hdrop'⟩ := Core.micros_nil (x := { x with flight := l' }) hl'
  constructor
  · rw [Core.dueMicros] at hdue hdue' ⊢
    rw [List.filterMap_append, List.filterMap_cons, hdue, hdue']
    simp
  · have hkeep := congrArg Core.flight hdrop
    have hkeep' := congrArg Core.flight hdrop'
    rw [Core.dropMicros] at hkeep hkeep' ⊢
    refine congrArg (fun t => { x with flight := t }) ?_
    refine (List.filter_append _ _).trans (congrArg₂ (· ++ ·) hkeep ?_)
    rw [List.filter_cons_of_neg (by simp)]
    exact hkeep'

section
variable {s : State} {c : CoreId} {op : Nat} {o : BitVec 46}

/-- Of the MOV instructions SPR and SPW alone change more than their core. -/
theorem State.startIns_mov (ok : Canonical s) (k : Nat) {op : Nat} (hspr : op ≠ 9) (hspw : op ≠ 10) (o : BitVec 46) :
    (s.unheld k).startIns k ⟨1, op, o⟩ = (s.unheld k).setCoreAt k (startMov { s.coreAt k with hold := 0 } op o) := by
  refine Eq.trans ?_ (State.modCoreAt_unheld ok k (startMov · op o))
  simp only [State.startIns]

/-- A MOV instruction that puts effects in flight for later cycles. -/
theorem State.slotCycle_mov (h : Issuable s c ⟨1, op, o⟩) (hspr : op ≠ 9) (hspw : op ≠ 10) {l : List Flight} {a b : Nat}
    (later : ∀ f ∈ l, (s.core c).now < f.due)
    (hstart : startMov { s.core c with hold := 0 } op o = Core.moving { s.core c with hold := 0 } l a b) :
    s.slotCycle c 1 op o = s.setCoreAt (CoreId_key c) ((s.core c).stepped ⟨1, op, o⟩ ((s.core c).moving l a b)) :=
  State.slotCycle_leaves h ((State.startIns_mov h.ok _ hspr hspw o).trans (congrArg _ hstart)) h.running rfl rfl
    fun f hf => (List.mem_append.1 hf).elim (h.still f) (later f)

/-- Core x in the cycle that issues i, once what it starts has left core y. -/
def Core.issued (x : Core) (i : SlotIns) (y : Core) : Core := { x.stepped i y with now := x.now }

/-- One whose first piece of work samples in this cycle and puts effect g in flight. -/
theorem State.slotCycle_mov_samples (h : Issuable s c ⟨1, op, o⟩) (hspr : op ≠ 9) (hspw : op ≠ 10) {m : Micro} {g : Flight}
    {l : List Flight} {a b : Nat}
    (later : ∀ f ∈ l, (s.core c).now < f.due)
    (hstart : startMov { s.core c with hold := 0 } op o = Core.moving { s.core c with hold := 0 } (⟨(s.core c).now, 1, .micro m⟩ :: l) a b)
    (hwork : ∀ q, runMicro q ((s.core c).issued ⟨1, op, o⟩ ((s.core c).moving l a b)) m =
      ({ (s.core c).issued ⟨1, op, o⟩ ((s.core c).moving l a b) with flight := (s.core c).flight ++ l ++ [g] }, [])) :
    s.slotCycle c 1 op o = s.setCoreAt (CoreId_key c) ((s.core c).stepped ⟨1, op, o⟩ ((s.core c).moving (l ++ [g]) a b)) := by
  obtain ⟨hdue, hdrop⟩ := Core.micros_between (x := (s.core c).issued ⟨1, op, o⟩ ((s.core c).moving [] a b)) h.still later 1 m
  have hwork' := hwork (s.coreMode (CoreId_key c))
  have hrun := (congrArg₂ (runMicros (s.coreMode (CoreId_key c))) hdrop hdue).trans
    ((runMicros_single (congrArg Prod.snd hwork')).trans (congrArg (fun y => (y, [])) (congrArg Prod.fst hwork')))
  refine (State.slotCycle_samples h (·.moving (⟨(s.core c).now, 1, .micro m⟩ :: l) a b)
    ((State.startIns_mov h.ok _ hspr hspw o).trans
      ((congrArg _ hstart).trans (State.modCoreAt_unheld h.ok _ (·.moving (⟨(s.core c).now, 1, .micro m⟩ :: l) a b)).symm))
    rfl h.running rfl rfl hrun).trans ?_
  rw [List.append_assoc]
  rfl

end

/-! ### MOV instructions (O12) -/

/-- Steps that each put one piece of work in flight. -/
theorem foldl_works (due : Nat → Nat) (m : Nat → Micro) (l : List Nat) (x : Core) :
    l.foldl (fun x k => x.push (due k) 1 (.micro (m k))) x = { x with flight := x.flight ++ l.map fun k => ⟨due k, 1, .micro (m k)⟩ } := by
  rw [List.map_eq_flatMap]
  exact foldl_launches (fun _ _ => rfl) l x

/-- A row of several pieces: the first, and the others. -/
theorem map_range_first {α : Type} (g : Nat → α) {n : Nat} (hn : 0 < n) : (List.range n).map g = g 0 :: (List.range (n - 1)).map fun k => g (k + 1) := by
  obtain ⟨m, rfl⟩ := Nat.exists_eq_succ_of_ne_zero hn.ne'
  rw [List.range_succ_eq_map, List.map_cons, List.map_map]
  rfl

/-- MCP is a piece of work a flit, a flit a cycle. -/
theorem startMcp_eq (x : Core) (o : BitVec 46) :
    startMcp x o =
      let n := field o 25 20 + 1
      let src := (x.rA (field o 37 33)).toNat
      let dst := (x.rA (field o 31 27)).toNat
      x.moving (⟨x.now, 1, .micro (.mcpFlit (field o 32 32) src (field o 26 26) dst)⟩ :: (List.range (n - 1)).map fun k =>
        ⟨x.now + (k + 1), 1, .micro (.mcpFlit (field o 32 32) (src + 128 * (k + 1)) (field o 26 26) (dst + 128 * (k + 1)))⟩) (x.now + n) x.busyPort := by
  refine (congrArg (·.movBusy (field o 25 20 + 1)) (foldl_works _ _ _ x)).trans ?_
  rw [map_range_first _ (Nat.succ_pos _)]
  rfl

/-- VRD is a piece of work a row, from the next cycle on. -/
theorem startVrd_eq (x : Core) (o : BitVec 46) :
    startVrd x o =
      let k := field o 32 27 + 1
      x.moving ((List.range k).map fun j => ⟨x.now + 1 + j, 1, .micro (.vrdRow (flag o 26) (field (x.rA (field o 37 33)) 15 0 + j)
        (if flag o 26 then (field o 20 19 + j / 2) % 4 * 2048 + j % 2 * 1024 else (x.rA (field o 25 21)).toNat + 1024 * j))⟩) (x.now + 1) (x.now + k) :=
  congrArg (fun y : Core => { y.movBusy 1 with busyPort := x.now + (field o 32 27 + 1) }) (foldl_works _ _ _ x)

/-- VWR is a piece of work a quarter of a row, a quarter a cycle. -/
theorem startVwr_eq (x : Core) (o : BitVec 46) :
    startVwr x o =
      let k := field o 32 27 + 1
      let r0 := field (x.rA (field o 37 33)) 15 0
      let a := (x.rA (field o 25 21)).toNat
      x.moving (⟨x.now, 1, .micro (.vwrQuarter (field o 26 26) a r0 0)⟩ :: (List.range (4 * k - 1)).map fun q =>
        ⟨x.now + (q + 1), 1, .micro (.vwrQuarter (field o 26 26) (a + 256 * (q + 1)) (r0 + (q + 1) / 4) ((q + 1) % 4))⟩) (x.now + 1) (x.now + 4 * k) := by
  refine (congrArg (fun y : Core => { y.movBusy 1 with busyPort := x.now + 4 * (field o 32 27 + 1) }) (foldl_works _ _ _ x)).trans ?_
  rw [map_range_first _ (Nat.mul_pos (by decide) (Nat.succ_pos _))]
  rfl

/-- Two effects put in flight one after the other. -/
theorem Core.push_push_movBusy (x : Core) (d d' n : Nat) (e e' : Eff) :
    ((x.push d 1 e).push d' 1 e').movBusy n = x.moving [⟨d, 1, e⟩, ⟨d', 1, e'⟩] (x.now + n) x.busyPort := by
  simp [Core.push, Core.movBusy, Core.moving]

/-- The address of the row that LDV and STV name. -/
def rowStart (x : Core) (o : BitVec 46) : Nat := rowAddr (x.rT (field o 32 29)) (rowNumber x (field o 28 24)) (rowElem x (field o 28 24))

/-- The first n elements of the row that LDV names, as lanes. -/
def rowLanes (x : Core) (o : BitVec 46) (n : Nat) : List Word :=
  let d := x.rT (field o 32 29)
  let w := fmtWidth (dFmt d) / 8
  (wordsAt (x.readSpace (spadSpace d) (rowStart x o) (n * w)) w).map (loadElem d)

/-- The bytes that STV stores. -/
def rowBytes (x : Core) (o : BitVec 46) : Bytes :=
  let d := x.rT (field o 32 29)
  (x.lanes (field o 37 33)).flatMap fun v => leBytes (fmtWidth (dFmt d) / 8) (storeElem d v)

section
variable {x : Core} {o : BitVec 46}

theorem startLdv_of_narrow (hfmt : dFmt (x.rT (field o 32 29)) ≠ 14) :
    startLdv x o = x.moving [⟨x.now + 3, 1, .lanes (field o 37 33) ((List.range 64).zip (rowLanes x o 64))⟩] (x.now + 1) x.busyPort := by
  simp only [startLdv, hfmt, if_false]
  rfl

/-- LDV of a binary32 row takes its first half at once and leaves the second to the next cycle. -/
theorem startLdv_of_binary32 (hfmt : dFmt (x.rT (field o 32 29)) = 14) :
    startLdv x o = x.moving [⟨x.now + 4, 1, .lanes (field o 37 33) ((List.range 32).zip (rowLanes x o 32))⟩,
      ⟨x.now + 1, 1, .micro (.ldvHalf (field o 37 33) (spadSpace (x.rT (field o 32 29))) (rowStart x o + 128))⟩] (x.now + 2) x.busyPort := by
  simp only [startLdv, rowLanes, hfmt, if_true]
  exact Core.push_push_movBusy ..

theorem startStv_of_narrow (hfmt : dFmt (x.rT (field o 32 29)) ≠ 14) :
    startStv x o = x.moving [⟨x.now + 3, 1, .bytes (spadSpace (x.rT (field o 32 29))) (rowStart x o) (rowBytes x o)⟩] (x.now + 1) x.busyPort :=
  if_neg hfmt

/-- STV of a binary32 row writes its halves in two cycles. -/
theorem startStv_of_binary32 (hfmt : dFmt (x.rT (field o 32 29)) = 14) :
    startStv x o = x.moving [⟨x.now + 3, 1, .bytes (spadSpace (x.rT (field o 32 29))) (rowStart x o) ((rowBytes x o).take 128)⟩,
      ⟨x.now + 4, 1, .bytes (spadSpace (x.rT (field o 32 29))) (rowStart x o + 128) ((rowBytes x o).drop 128)⟩] (x.now + 2) x.busyPort :=
  (if_pos hfmt).trans (Core.push_push_movBusy ..)

end

section
variable {s : State} {c : CoreId} {op p : Nat} {o : BitVec 46}

/-- Outside stall mode an allowed request enters the core's spools, and nothing else comes of it. -/
theorem State.startSpool_of_allowed {k : Nat} {write : Bool} (hpart : (s.coreAt k).part = some p) (hstall : (s.part p).stall = false)
    (hrim : s.rimAllowed p ((s.coreAt k).rA (field o 33 29)).toNat (1024 * (field o 22 17 + 1)) write = true) :
    s.startSpool k o write = s.setCoreAt k { s.coreAt k with
      spools := (s.coreAt k).spools ++ [spoolReq (s.coreAt k) o write true], busyMov := (s.coreAt k).now + 1 } := by
  have hget : (s.coreAt k).part.getD 64 = p := by rw [hpart, Option.getD_some]
  rw [State.startSpool]
  simp only [hget, hrim, Bool.not_true, Bool.false_eq_true, if_false]
  exact if_neg (Bool.eq_false_iff.1 hstall)

/-- SPR and SPW post one spool entry. -/
theorem State.slotCycle_spool (h : Issuable s c ⟨1, op, o⟩) {write : Bool} (hop : ∀ t : State, t.startIns (CoreId_key c) ⟨1, op, o⟩ =
    t.startSpool (CoreId_key c) o write) (hpart : (s.core c).part = some p)
    (hrim : s.rimAllowed p ((s.core c).rA (field o 33 29)).toNat (1024 * (field o 22 17 + 1)) write = true) :
    s.slotCycle c 1 op o = s.setCoreAt (CoreId_key c) ((s.core c).stepped ⟨1, op, o⟩ { s.core c with
      spools := (s.core c).spools ++ [spoolReq (s.core c) o write true], busyMov := (s.core c).now + 1 }) := by
  have hcore : (s.unheld (CoreId_key c)).coreAt (CoreId_key c) = { s.core c with hold := 0 } := State.unheld_coreAt h.ok
  have hstart := State.startSpool_of_allowed (s := s.unheld (CoreId_key c)) (o := o) (write := write) (by rw [hcore]; exact hpart) (h.unlocked p hpart)
    (by rw [hcore]; exact hrim)
  rw [hcore] at hstart
  exact State.slotCycle_leaves h (y := { s.core c with
    spools := (s.core c).spools ++ [spoolReq (s.core c) o write true], busyMov := (s.core c).now + 1 })
    ((hop _).trans hstart) h.running rfl rfl h.still

end

/-- Settles O12: each start puts effects and work for later cycles in flight; the first flit of MCP and the first quarter of VWR are work of the issue
cycle itself, and SPR and SPW enter a spool. That a command issues its instruction alone is the model's choice (notes/assumptions/52.md). -/
theorem moveResults : Obligations.MoveResults := by
  refine ⟨fun s c d => ⟨fun h => ?_, fun h => ?_, fun h hfmt => ?_, fun h hfmt => ?_, fun h hfmt => ?_, fun h hfmt => ?_, fun h => ?_, fun h => ?_⟩,
    fun s c d => ⟨fun h => ?_, fun h => ?_, fun p h hpart hrim => ?_, fun p h hpart hrim => ?_⟩⟩
  iterate 2 exact congrArg Host.Outcome.next (State.slotCycle_mov h (by decide) (by decide) (by simp) rfl)
  · exact congrArg Host.Outcome.next (State.slotCycle_mov h (by decide) (by decide) (by simp) (startLdv_of_narrow hfmt))
  · exact congrArg Host.Outcome.next (State.slotCycle_mov h (by decide) (by decide) (by simp) (startLdv_of_binary32 hfmt))
  · exact congrArg Host.Outcome.next (State.slotCycle_mov h (by decide) (by decide) (by simp) (startStv_of_narrow hfmt))
  · exact congrArg Host.Outcome.next (State.slotCycle_mov h (by decide) (by decide) (by simp) (startStv_of_binary32 hfmt))
  · exact congrArg Host.Outcome.next (State.slotCycle_mov h (by decide) (by decide) (by simp) rfl)
  · refine congrArg Host.Outcome.next (State.slotCycle_mov_samples h (by decide) (by decide) ?_ (startMcp_eq _ _) ?_)
    · simp
    · exact fun _ => rfl
  · refine congrArg Host.Outcome.next (State.slotCycle_mov h (by decide) (by decide) ?_ (startVrd_eq _ _))
    simp only [List.mem_map]
    rintro f ⟨j, -, rfl⟩
    exact Nat.lt_add_right j (Nat.lt_add_of_pos_right (by decide))
  · simp only [List.append_assoc]
    refine congrArg Host.Outcome.next (State.slotCycle_mov_samples h (by decide) (by decide) ?_ (startVwr_eq _ _) ?_)
    · simp
    · exact fun _ => rfl
  iterate 2 exact congrArg Host.Outcome.next (State.slotCycle_spool h (fun _ => rfl) hpart hrim)

/-! ### Cycles in which a NET instruction issues -/

theorem Canonical.inject {s : State} (ok : Canonical s) (f : Flit) : Canonical (s.inject f) := ok.of_tables rfl

/-- What INC puts in flight for the next cycle: both address registers advance past the bytes sent. -/
def incFlights (x : Core) (o : BitVec 46) (sh : Nat) : List Flight :=
  if flag o 16 then [⟨x.now + 1, 4, .regA (field o 37 33) (x.rA (field o 37 33) + BitVec.ofNat 64 (netBytes o))⟩,
    ⟨x.now + 1, 4, .regA (field o 31 27) (x.rA (field o 31 27) + BitVec.ofNat 64 (netBytes o * 2 ^ sh))⟩]
  else []

theorem incFlights_later (x : Core) (o : BitVec 46) (sh : Nat) : ∀ f ∈ incFlights x o sh, x.now < f.due := by
  rw [incFlights]
  split <;> simp

theorem Core.incAddrs_eq (x : Core) (o : BitVec 46) (sh : Nat) : x.incAddrs o sh = { x with flight := x.flight ++ incFlights x o sh } := by
  rw [Core.incAddrs, incFlights]
  split <;> simp [Core.push]

section
variable {s : State} {c : CoreId} {k op p : Nat} {o : BitVec 46}

/-- A NET instruction that puts flit g in the injection queue, and effects in flight for later cycles. -/
theorem State.slotCycle_net (h : Issuable s c ⟨4, op, o⟩) {g : Flit} {l : List Flight} (later : ∀ f ∈ l, (s.core c).now < f.due)
    (hstart : (s.unheld (CoreId_key c)).startIns (CoreId_key c) ⟨4, op, o⟩ =
      ((s.unheld (CoreId_key c)).inject g).setCoreAt (CoreId_key c) { s.core c with flight := (s.core c).flight ++ l, hold := 0 }) :
    s.slotCycle c 4 op o = (s.inject g).setCoreAt (CoreId_key c)
      ((s.core c).stepped ⟨4, op, o⟩ { s.core c with flight := (s.core c).flight ++ l }) := by
  have ok : Canonical (s.inject g) := h.ok.inject g
  have hu : (s.unheld (CoreId_key c)).startIns (CoreId_key c) ⟨4, op, o⟩ =
      (s.inject g).setCoreAt (CoreId_key c) { s.core c with flight := (s.core c).flight ++ l, hold := 0 } :=
    hstart.trans (State.setCoreAt_setCoreAt ok _ _ _)
  have hcore : ((s.inject g).setCoreAt (CoreId_key c) { s.core c with flight := (s.core c).flight ++ l, hold := 0 }).coreAt (CoreId_key c) =
      { s.core c with flight := (s.core c).flight ++ l, hold := 0 } := State.coreAt_set ok _ _
  obtain ⟨q, hq, hstarted⟩ := h.job
  have hjob : ∀ p, (s.core c).part = some p → CoreId_key c ∈ (s.part p).started := fun p hp => by
    obtain rfl : q = p := Option.some.inj (hq.symm.trans hp)
    exact hstarted
  rw [State.slotCycle_quiet h hu (ok.setCoreAt _ _) (by rw [hcore]; exact h.running) (by rw [hcore]) hjob (by rw [hcore])
    (by rw [hcore]; exact fun f hf => (List.mem_append.1 hf).elim (h.still f) (later f)), hcore, State.setCoreAt_setCoreAt ok]
  rfl

/-- Holding its bundle no longer, a core sends the same flits. -/
theorem State.coreFlit_unheld (ok : Canonical s) (k : Nat) (kind : FlitKind) : (s.unheld k).coreFlit k kind = s.coreFlit k kind := by
  simp only [State.coreFlit, State.coreId, State.corePart, State.unheld_coreAt ok]
  rfl

/-- Outside stall mode a flit has its core, its partition's key and epoch, and no landing. -/
theorem State.coreFlit_of_job (hk : c.k < 17) (hpart : (s.core c).part = some p) (hstall : (s.part p).stall = false) (kind : FlitKind) :
    s.coreFlit (CoreId_key c) kind = ⟨kind, s.coreId (CoreId_key c), 0, (s.part p).key, .inject c.r c.k, [], [], 0, 0, 0, false, 0, none, none, none,
      false, (s.part p).epoch⟩ := by
  have hjob : s.corePart (CoreId_key c) = s.part p := by
    rw [State.corePart, ← State.core, hpart, Option.getD_some]
  have hmod : CoreId_key c % 17 = c.k := by
    rw [CoreId_key]
    omega
  rw [State.coreFlit, hjob, hstall, CoreId_key_div hk, hmod]
  rfl

/-! ### NET instructions (O13) -/

/-! What each start sends, from a core that holds its bundle no longer. -/

theorem State.startSnd_unheld (ok : Canonical s) : (s.unheld k).startSnd k o = ((s.unheld k).inject { s.coreFlit k .send with
      dest := awId ((s.coreAt k).rA (field o 31 27)), raddr := awAddr ((s.coreAt k).rA (field o 31 27)), space := field o 26 25, cn := field o 21 18,
      ce := flag o 17, data := (s.coreAt k).readSpace (field o 32 32) ((s.coreAt k).rA (field o 37 33)).toNat (netBytes o) }).setCoreAt k
    { s.coreAt k with flight := (s.coreAt k).flight ++ incFlights (s.coreAt k) o 32, hold := 0 } := by
  rw [State.startSnd]
  dsimp only
  rw [State.coreFlit_unheld ok, State.unheld_coreAt ok, Core.incAddrs_eq]
  rfl

theorem State.startMcs_unheld (ok : Canonical s) : (s.unheld k).startMcs k o = ((s.unheld k).inject { s.coreFlit k .multicast with
      raddr := field ((s.coreAt k).rA (field o 31 27)) 23 0, space := field o 26 25, cn := field o 21 18, ce := flag o 17, index := field o 15 6,
      data := (s.coreAt k).readSpace (field o 32 32) ((s.coreAt k).rA (field o 37 33)).toNat (netBytes o) }).setCoreAt k
    { s.coreAt k with flight := (s.coreAt k).flight ++ incFlights (s.coreAt k) o 0, hold := 0 } := by
  rw [State.startMcs]
  dsimp only
  rw [State.coreFlit_unheld ok, State.unheld_coreAt ok, Core.incAddrs_eq]
  rfl

/-- RDS and SIG leave their core as it is. -/
theorem State.inject_unheld (ok : Canonical s) (g : Flit) :
    (s.unheld k).inject g = ((s.unheld k).inject g).setCoreAt k { s.coreAt k with flight := (s.coreAt k).flight ++ [], hold := 0 } := by
  have hcore : ((s.unheld k).inject g).coreAt k = { s.coreAt k with hold := 0 } := State.unheld_coreAt ok
  rw [List.append_nil, ← hcore, State.setCoreAt_coreAt ((ok.unheld k).inject g)]

theorem State.startRds_unheld (ok : Canonical s) : (s.unheld k).startRds k o = (s.unheld k).inject { s.coreFlit k .contribution with
    accs := (List.range 16).map fun j =>
      (s.coreAt k).acc (psmRow ((s.coreAt k).rT (field o 37 34)) 0 (rdsRow (s.coreAt k) o) + 16 * field o 28 27 + j),
    raddr := rdsDest (s.coreAt k) o, index := field o 26 17, cn := field o 16 13, ce := flag o 12 } := by
  rw [State.startRds]
  dsimp only
  rw [State.coreFlit_unheld ok, State.unheld_coreAt ok]
  rfl

theorem State.startSig_unheld (ok : Canonical s) : (s.unheld k).startSig k o = (s.unheld k).inject
    { s.coreFlit k (if flag o 32 then .signalMulti else .signal) with
      dest := awId ((s.coreAt k).rA (field o 37 33)), index := field o 31 22, cn := field o 21 18, ce := true } := by
  rw [State.startSig]
  dsimp only
  rw [State.coreFlit_unheld ok, State.unheld_coreAt ok]
  rfl

end

/-- Settles O13: each start is one flit in the injection queue beside what INC puts in flight. That a command issues its instruction alone is the
model's choice (notes/assumptions/52.md). -/
theorem netResults : Obligations.NetResults := by
  intro s c d p
  refine fun hpart hk => ⟨fun h => ?_, fun h => ?_, fun h => ?_, fun h => ?_⟩
  all_goals have hflit := State.coreFlit_of_job hk hpart (h.unlocked p hpart); refine congrArg Host.Outcome.next ?_
  · rw [State.slotCycle_net h (incFlights_later _ _ _) (State.startSnd_unheld h.ok), hflit]
    rfl
  · rw [State.slotCycle_net h (incFlights_later _ _ _) (State.startMcs_unheld h.ok), hflit, incFlights, pow_zero, mul_one]
    rfl
  · rw [State.slotCycle_net h (by simp) ((State.startRds_unheld h.ok).trans (State.inject_unheld h.ok _)), hflit]
    rfl
  · rw [State.slotCycle_net h (by simp) ((State.startSig_unheld h.ok).trans (State.inject_unheld h.ok _)), hflit]
    rfl

/-! ### Which registers a command leaves (`OnlyRegs`) -/

section
variable {l l' : List Nat} {s t u : State}

theorem OnlyRegs.refl (l : List Nat) (s : State) : OnlyRegs l s s := ⟨rfl, fun _ _ => rfl⟩

theorem OnlyRegs.regions_eq (h : OnlyRegs l s t) : t.regions = s.regions := (congrArg State.regions h.1 :)

theorem OnlyRegs.region_eq (h : OnlyRegs l s t) (r : Nat) : t.region r = s.region r := by
  rw [State.region, h.regions_eq, State.region]

theorem OnlyRegs.wr (h : OnlyRegs l s t) (ok : Canonical t) {a : Nat} (ha : a ∈ l) (v : Word) : OnlyRegs l s (t.wr a v) :=
  ⟨congrArg (fun u : State => { u with regs := (t.wr a v).regs }) h.1, fun b hb => by
    rw [State.rd_wr_ne ok v (ne_of_mem_of_not_mem ha hb).symm, h.2 b hb]⟩

theorem OnlyRegs.trans (h : OnlyRegs l s t) (h' : OnlyRegs l' t u) : OnlyRegs (l ++ l') s u :=
  ⟨h'.1.trans (congrArg (fun v : State => { v with regs := u.regs }) h.1), fun a ha => by
    rw [List.mem_append, not_or] at ha
    rw [h'.2 a ha.2, h.2 a ha.1]⟩

theorem OnlyRegs.mono (h : OnlyRegs l s t) (hl : l ⊆ l') : OnlyRegs l' s t := ⟨h.1, fun a ha => h.2 a fun hm => ha (hl hm)⟩

/-- The same change of regions on both sides. -/
theorem OnlyRegs.setRegions (h : OnlyRegs l s t) (x : Tab Region) : OnlyRegs l { s with regions := x } { t with regions := x } :=
  ⟨congrArg (fun u : State => { u with regions := x }) h.1, h.2⟩

/-! Reserved bits and ordinary writes (R473) -/

theorem Canonical.reservedBits (ok : Canonical s) (old v m : Word) : Canonical (s.reservedBits old v m) := (State.reservedBits_kept ok.kept old v m).ok

/-- Reserved bits of a write are counted or marked in HIF_STAT, below its upper byte. -/
theorem State.reservedBits_frame (ok : Canonical s) (old v m : Word) :
    OnlyRegs [Reg.HIF_STAT] s (s.reservedBits old v m) ∧ (s.reservedBits old v m).fld Reg.HIF_STAT 31 24 = s.fld Reg.HIF_STAT 31 24 := by
  have hwr := (OnlyRegs.refl [Reg.HIF_STAT] s).wr ok (List.mem_singleton.2 rfl)
  rw [State.reservedBits]
  split
  · exact ⟨.refl _ s, rfl⟩
  · split
    · exact ⟨hwr _, State.fld_setFld_apart ok _ _ _ _ _ _ (by decide)⟩
    · exact ⟨hwr _, State.fld_setFld_apart ok _ _ _ _ _ _ (by decide)⟩

theorem State.writeRW_eq (s : State) (a : Nat) (m ro v : Word) :
    s.writeRW a m ro v = (s.reservedBits (s.rd a) v (~~~(m ||| ro))).wr a ((v &&& m) ||| (s.rd a &&& ~~~m)) := by
  rw [State.writeRW, State.reservedBits, BitVec.xor_comm]

/-- What an ordinary write leaves, and what its register then reads. -/
theorem State.writeRW_frame (ok : Canonical s) (a : Nat) (m ro v : Word) :
    OnlyRegs [Reg.HIF_STAT, a] s (s.writeRW a m ro v) ∧ (s.writeRW a m ro v).rd a = ((v &&& m) ||| (s.rd a &&& ~~~m)) := by
  have hres := ok.reservedBits (s.rd a) v (~~~(m ||| ro))
  rw [State.writeRW_eq]
  exact ⟨(State.reservedBits_frame ok _ _ _).1.trans ((OnlyRegs.refl [a] _).wr hres (List.mem_singleton.2 rfl) _), State.rd_wr_same hres _ _⟩

end

/-! ### Posted writes (O39) -/

theorem busy_ne_hifStat (r : Nat) : Reg.RGNW_BUSY r ≠ Reg.HIF_STAT := by
  simp only [Reg.RGNW_BUSY, Reg.HIF_STAT, winBase]
  omega

theorem busy_ne_trcIdx (r : Nat) : Reg.RGNW_BUSY r ≠ Reg.RGNW_TRC_IDX r := by simp [Reg.RGNW_BUSY, Reg.RGNW_TRC_IDX]

theorem busy_ne_vminReg (r : Nat) (m : Bool) : Reg.RGNW_BUSY r ≠ vminReg r m := by
  cases m <;> simp [vminReg, Reg.RGNW_BUSY, Reg.RGNW_VMIN_CORE, Reg.RGNW_VMIN_MEM]

theorem vminReg_ne_hifStat (r : Nat) (m : Bool) : vminReg r m ≠ Reg.HIF_STAT := by
  simp only [vminReg, Reg.RGNW_VMIN_CORE, Reg.RGNW_VMIN_MEM, Reg.HIF_STAT, winBase]
  split <;> omega

section
variable {s u : State} {r : Nat} {c : Instr} {w : Posted}

/-- A write that finds none waiting waits in RGNW_BUSY; of the write's reserved bits HIF_STAT may tell. -/
theorem post_waits (ok : Canonical u) (hres : OnlyRegs [Reg.HIF_STAT] s u) (hexec : exec c s = .next (u.post r w)) (hfree : (s.region r).posted = none) :
    Completes c s fun t => (t.region r).posted = some w ∧ flag (t.rd (Reg.RGNW_BUSY r)) 31 = true ∧
      OnlyRegs [Reg.RGNW_BUSY r, Reg.HIF_STAT] { s with regions := t.regions } t := by
  have hpost : u.post r w = (u.modRegion r fun g => { g with posted := some w }).setFld (Reg.RGNW_BUSY r) 31 31 1 :=
    if_neg (by rw [State.busy, hres.region_eq, hfree]; exact Bool.false_ne_true)
  have hmod : Canonical (u.modRegion r fun g => { g with posted := some w }) := ok.modRegion r _
  refine ⟨_, hexec.trans (congrArg _ hpost), ?_, ?_, ?_⟩
  · rw [State.setFld_region_frame, State.region_modRegion ok, if_pos rfl]
  · rw [State.rd_setFld hmod, if_pos rfl, flag_setField _ _ _ (by decide)]
    rfl
  · exact ((hres.setRegions _).mono (by simp)).wr hmod (by simp) _

/-- A write that finds another waiting is dropped, counted twice. -/
theorem post_dropped (ok : Canonical u) (hres : OnlyRegs [Reg.HIF_STAT] s u) (hcount : u.fld Reg.HIF_STAT 31 24 = s.fld Reg.HIF_STAT 31 24)
    (hexec : exec c s = .next (u.post r w)) (hbusy : (s.region r).posted ≠ none) :
    Completes c s fun t => t.fld (Reg.RGNW_BUSY r) 15 0 = (s.fld (Reg.RGNW_BUSY r) 15 0 + 1) % 65536 ∧
      t.fld Reg.HIF_STAT 31 24 = (s.fld Reg.HIF_STAT 31 24 + 1) % 256 ∧ OnlyRegs [Reg.RGNW_BUSY r, Reg.HIF_STAT] s t := by
  have hne := busy_ne_hifStat r
  have hpost : u.post r w = (u.bump (Reg.RGNW_BUSY r) 15 0).bump Reg.HIF_STAT 31 24 :=
    if_pos (by rw [State.busy, hres.region_eq]; exact Option.isSome_iff_ne_none.2 hbusy)
  have hfirst : Canonical (u.bump (Reg.RGNW_BUSY r) 15 0) := ok.bump _ _ _
  have hstart : u.fld (Reg.RGNW_BUSY r) 15 0 = s.fld (Reg.RGNW_BUSY r) 15 0 := by
    rw [State.fld, hres.2 _ (by simpa using hne), State.fld]
  refine ⟨_, hexec.trans (congrArg _ hpost), ?_, ?_, ?_⟩
  · rw [State.bump, State.fld, State.rd_wr_ne hfirst _ hne, ← State.fld, State.fld_bump ok _ _ _ (by decide), hstart]
    rfl
  · rw [State.fld_bump hfirst _ _ _ (by decide), State.bump, State.fld, State.rd_wr_ne ok _ hne.symm, ← State.fld, hcount]
    rfl
  · exact ((hres.mono (by simp)).wr ok (by simp) _).wr hfirst (by simp) _

/-- The state in which the waiting write has left RGNW_BUSY. -/
def State.unposted (s : State) (r : Nat) : State := (s.modRegion r fun g => { g with posted := none }).setFld (Reg.RGNW_BUSY r) 31 31 0

theorem Canonical.unposted (ok : Canonical s) (r : Nat) : Canonical (s.unposted r) := (ok.modRegion r _).setFld _ _ _ _

theorem State.unposted_rd (ok : Canonical s) {a : Nat} (ha : a ≠ Reg.RGNW_BUSY r) : (s.unposted r).rd a = s.rd a :=
  State.rd_wr_ne (ok.modRegion r _) _ ha

/-- What a posted write then changes leaves RGNW_BUSY free. -/
theorem applied_shows {t : State} {l : List Nat} (ok : Canonical s) (ht : OnlyRegs l (s.unposted r) t) (hbusy : Reg.RGNW_BUSY r ∉ l) :
    (t.region r).posted = none ∧ flag (t.rd (Reg.RGNW_BUSY r)) 31 = false ∧ OnlyRegs (Reg.RGNW_BUSY r :: l) { s with regions := t.regions } t := by
  have hmod : Canonical (s.modRegion r fun g => { g with posted := none }) := ok.modRegion r _
  have hfree : OnlyRegs [Reg.RGNW_BUSY r] { s with regions := (s.unposted r).regions } (s.unposted r) :=
    (OnlyRegs.refl _ (s.modRegion r fun g => { g with posted := none })).wr hmod (List.mem_singleton.2 rfl) _
  refine ⟨?_, ?_, ?_⟩
  · rw [ht.region_eq, State.unposted, State.setFld_region_frame, State.region_modRegion ok, if_pos rfl]
  · rw [ht.2 _ hbusy, State.unposted, State.rd_setFld hmod, if_pos rfl, flag_setField _ _ _ (by decide)]
    rfl
  · rw [ht.regions_eq]
    exact hfree.trans ht

end

section
variable {s : State} {r : Nat}

theorem execPostedWriteApply_trcIdx {v : Word} (hw : (s.region r).posted = some (.trcIdx v)) :
    execPostedWriteApply r s = .next ((s.unposted r).writeRW (Reg.RGNW_TRC_IDX r) 0x1FF 0 v) := by
  rw [execPostedWriteApply, hw]
  rfl

theorem execPostedWriteApply_vmin {m : Bool} (hw : (s.region r).posted = some (.vmin m)) :
    execPostedWriteApply r s = .next ((s.unposted r).clearVmin r m) := by
  rw [execPostedWriteApply, hw]
  rfl

theorem execPostedWriteApply_none (hw : (s.region r).posted = some .none_) : execPostedWriteApply r s = .next (s.unposted r) := by
  rw [execPostedWriteApply, hw]
  rfl

/-- A write to a minimum-voltage record, its reserved bits told in HIF_STAT. -/
def State.vminWritten (s : State) (r : Nat) (m : Bool) (v : Word) : State := s.reservedBits (s.rd (vminReg r m)) v 0x7FFFFC00

/-- A region's power decides where the write goes; its reserved bits say nothing of it. -/
theorem execVminValidClear_eq (ok : Canonical s) (m : Bool) (v : Word) :
    execVminValidClear r m v s = .next (
      if (s.region r).pstate = 0 then if flag v 31 then (s.vminWritten r m v).clearVmin r m else s.vminWritten r m v
      else (s.vminWritten r m v).post r (if flag v 31 then .vmin m else .none_)) := by
  obtain ⟨hres, -⟩ := State.reservedBits_frame ok (s.rd (vminReg r m)) v 0x7FFFFC00
  rw [← hres.region_eq r]
  rfl

/-- Without power a record is the welt's alone, and is cleared at once. -/
theorem vminValidClear_mirror (hpow : (s.region r).pstate = 0) (ok : Canonical s) (m : Bool) (v : Word) :
    Completes (.vminValidClear r m v) s fun t =>
      t.rd (vminReg r m) = (if flag v 31 then setField (s.rd (vminReg r m)) 31 31 0 else s.rd (vminReg r m)) ∧
      OnlyRegs [vminReg r m, Reg.HIF_STAT] s t := by
  obtain ⟨hres, -⟩ := State.reservedBits_frame ok (s.rd (vminReg r m)) v 0x7FFFFC00
  have hok : Canonical (s.vminWritten r m v) := ok.reservedBits _ _ _
  have hold : (s.vminWritten r m v).rd (vminReg r m) = s.rd (vminReg r m) := hres.2 _ (by simpa using vminReg_ne_hifStat r m)
  have hboth : OnlyRegs [vminReg r m, Reg.HIF_STAT] s (s.vminWritten r m v) := hres.mono (by simp)
  refine ⟨_, (execVminValidClear_eq ok m v).trans (congrArg _ (if_pos hpow)), ?_⟩
  split
  · refine ⟨?_, hboth.wr hok (by simp) _⟩
    rw [State.clearVmin, State.rd_setFld hok, if_pos rfl, hold]
  · exact ⟨hold, hboth⟩

/-- A posted write of the trace index. -/
theorem postedWriteApply_trcIdx (ok : Canonical s) {v : Word} (hw : (s.region r).posted = some (.trcIdx v)) :
    Completes (.postedWriteApply r) s fun t => (t.region r).posted = none ∧ flag (t.rd (Reg.RGNW_BUSY r)) 31 = false ∧
      t.rd (Reg.RGNW_TRC_IDX r) = ((v &&& 0x1FF) ||| (s.rd (Reg.RGNW_TRC_IDX r) &&& ~~~0x1FF)) ∧
      OnlyRegs [Reg.RGNW_BUSY r, Reg.RGNW_TRC_IDX r, Reg.HIF_STAT] { s with regions := t.regions } t := by
  have hbusy := busy_ne_trcIdx r
  obtain ⟨hwrite, hval⟩ := State.writeRW_frame (ok.unposted r) (Reg.RGNW_TRC_IDX r) 0x1FF 0 v
  obtain ⟨hposted, hflag, honly⟩ := applied_shows ok hwrite (by simp [hbusy, busy_ne_hifStat])
  rw [State.unposted_rd ok hbusy.symm] at hval
  exact ⟨_, execPostedWriteApply_trcIdx hw, hposted, hflag, hval, honly.mono (by simp)⟩

/-- A posted clear of a minimum-voltage record. -/
theorem postedWriteApply_vmin (ok : Canonical s) {m : Bool} (hw : (s.region r).posted = some (.vmin m)) :
    Completes (.postedWriteApply r) s fun t => (t.region r).posted = none ∧ flag (t.rd (Reg.RGNW_BUSY r)) 31 = false ∧
      t.rd (vminReg r m) = setField (s.rd (vminReg r m)) 31 31 0 ∧
      OnlyRegs [Reg.RGNW_BUSY r, vminReg r m] { s with regions := t.regions } t := by
  have hbusy := busy_ne_vminReg r m
  have hclear : OnlyRegs [vminReg r m] (s.unposted r) ((s.unposted r).clearVmin r m) :=
    (OnlyRegs.refl _ _).wr (ok.unposted r) (List.mem_singleton.2 rfl) _
  obtain ⟨hposted, hflag, honly⟩ := applied_shows ok hclear (by simpa using hbusy)
  refine ⟨_, execPostedWriteApply_vmin hw, hposted, hflag, ?_, honly⟩
  rw [State.clearVmin, State.rd_setFld (ok.unposted r), if_pos rfl, State.unposted_rd ok hbusy.symm]

end

/-- Settles O39: both writes post alike, whatever their reserved bits leave in HIF_STAT, and what a posted write then changes leaves RGNW_BUSY free.
That a changed reserved bit counts, or sets TESTRSV, is deduced (notes/assumptions/96.md). -/
theorem postedWrites : Obligations.PostedWrites := by
  intro s r v ok _
  have hres : ∀ m, OnlyRegs [Reg.HIF_STAT] s (s.vminWritten r m v) ∧
      (s.vminWritten r m v).fld Reg.HIF_STAT 31 24 = s.fld Reg.HIF_STAT 31 24 := fun m => State.reservedBits_frame ok _ _ _
  refine ⟨fun hpow => ⟨?_, fun m => ?_⟩, fun hpow => ⟨congrArg _ (if_pos hpow), fun m => vminValidClear_mirror hpow ok m v⟩, fun w hw => ?_⟩
  · have hexec : exec (.rgnwTrcIdxWrite r v) s = .next (s.post r (.trcIdx v)) := congrArg _ (if_neg hpow)
    exact ⟨post_waits ok (.refl _ s) hexec, post_dropped ok (.refl _ s) rfl hexec⟩
  · have hexec : exec (.vminValidClear r m v) s = _ := (execVminValidClear_eq ok m v).trans (congrArg _ (if_neg hpow))
    have hok : Canonical (s.vminWritten r m v) := ok.reservedBits _ _ _
    exact ⟨post_waits hok (hres m).1 hexec, post_dropped hok (hres m).1 (hres m).2 hexec⟩
  · cases w with
    | trcIdx u =>
      obtain ⟨t, hexec, hposted, hflag, hval, honly⟩ := postedWriteApply_trcIdx ok hw
      refine ⟨t, hexec, hposted, hflag, fun u' hu => ?_, fun m hm => by cases hm⟩
      cases hu
      exact ⟨hval, honly⟩
    | vmin m =>
      obtain ⟨t, hexec, hposted, hflag, hval, honly⟩ := postedWriteApply_vmin ok hw
      refine ⟨t, hexec, hposted, hflag, fun u hu => (by cases hu), fun m' hm => ?_⟩
      cases hm
      exact ⟨hval, honly⟩
    | none_ =>
      obtain ⟨hposted, hflag, -⟩ := applied_shows ok (.refl [] _) (by simp)
      exact ⟨_, execPostedWriteApply_none hw, hposted, hflag, fun u hu => (by cases hu), fun m hm => by cases hm⟩

end Sys2Proof.Machine

/-! SUPPORT. The statements of chapter 07's family: the sequencer's instructions (O19), its messages (O20), and the mover and lockstep (O21). -/

namespace Sys2Proof.Machine

/-! ### A region written twice -/

section
variable {s : State} {r : Nat}

theorem State.region_set (ok : Canonical s) (r : Nat) (g : Region) : (s.setRegion r g).region r = g := by
  rw [State.region_setRegion ok, if_pos rfl]

/-- The last write of a region counts. -/
theorem State.setRegion_setRegion (ok : Canonical s) (r : Nat) (g h : Region) : (s.setRegion r g).setRegion r h = s.setRegion r h := by
  have hput := tabPut_tabPut r (if g = Region.zero then none else some g) (if h = Region.zero then none else some h) (tabWf_sorted ok.regions)
  rw [State.setRegion, State.setRegion, State.setRegion]
  simp only [tabSet, hput]

theorem State.modRegion_setRegion (ok : Canonical s) (r : Nat) (g : Region) (f : Region → Region) :
    (s.setRegion r g).modRegion r f = s.setRegion r (f g) := by
  rw [State.modRegion, State.region_set ok, State.setRegion_setRegion ok]

theorem State.modRegion_modRegion (ok : Canonical s) (r : Nat) (f g : Region → Region) :
    (s.modRegion r f).modRegion r g = s.setRegion r (g (f (s.region r))) := State.modRegion_setRegion ok r _ g

/-- A register and a region are written in either order. -/
theorem State.modRegion_wr (s : State) (a : Nat) (v : Word) (r : Nat) (f : Region → Region) : (s.wr a v).modRegion r f = (s.modRegion r f).wr a v := rfl

end

/-! ### The sequencer's instructions (O19) -/

/-- The state in which region r's sequencer executes its next instruction. -/
def State.sequencing (s : State) (r : Nat) : State := s.setRegion r { s.region r with seq := { (s.region r).seq with state := 2 } }

/-- The 32-bit word at the pc of region r's sequencer. -/
def State.instrWord (s : State) (r : Nat) : Word := BitVec.ofNat 32 (leNat (memRead (s.region r).seq.sram (s.region r).seq.pc.toNat 4))

/-- Region r's sequencer has a 32-bit instruction in SRAM to execute. -/
structure SeqRuns (s : State) (r : Nat) : Prop where
  ok : Canonical s
  powered : (s.region r).pstate ≠ 0
  awake : (s.region r).seq.awake = true
  inside : (s.region r).seq.pc.toNat + 4 ≤ 0x40000
  wide : field (BitVec.ofNat 16 (leNat (memRead (s.region r).seq.sram (s.region r).seq.pc.toNat 2))) 1 0 = 3

section
variable {s : State} {r : Nat}

theorem State.sequencing_seq (ok : Canonical s) : ((s.sequencing r).region r).seq = { (s.region r).seq with state := 2 } := by
  rw [State.sequencing, State.region_set ok]

/-- Whether a sequencer runs or waits, its registers read the same. -/
theorem Sequencer.rx_state (q : Sequencer) (n i : Nat) : ({ q with state := n } : Sequencer).rx i = q.rx i := rfl

/-- With no code error the instruction executed is the word at the pc (R186). -/
theorem exec_seqInstruction (h : SeqRuns s r) :
    exec (.seqInstruction r .clean) s = .next ((s.sequencing r).seqExec r (s.instrWord r) (s.region r).seq.pc.toNat 4 .clean) := by
  have hfetch : ∀ n, n ≤ (s.region r).seq.pc.toNat + 2 → fetchFault n = none := fun n hn => if_pos (by have := h.inside; omega)
  have hgo : exec (.seqInstruction r .clean) s = .next ((s.sequencing r).seqStep r .clean) :=
    congrArg Host.Outcome.next (if_neg (by simp [h.powered, h.awake]))
  rw [hgo, State.seqStep]
  simp only [State.sequencing_seq h.ok, hfetch _ (Nat.le_add_right _ _), hfetch _ le_rfl, h.wide, decide_true, if_true]
  split <;> rfl

/-- An access of the sequencer whose codewords are clean changes nothing beside its own effect. -/
theorem State.seqCheck_clean (s : State) (r : Nat) (bonded : Option Nat) : s.seqCheck r bonded .clean = s := by
  cases bonded <;> rfl

/-- The address that a load of word w accesses: its register and signed offset (R187). -/
def State.loadAddr (s : State) (r : Nat) (w : Word) : Nat := (((s.region r).seq.rx (field w 19 15)).toNat + sx 12 (field w 31 20)) % 2 ^ 32

/-- A load with no code error does what its access answers: it retires with the value, or faults with the code. -/
theorem State.seqExec_load {w : Word} {n a pc len : Nat} (hop : field w 6 0 = 0x03) (hn : accessSize (field w 14 12) = some n) (haddr : s.loadAddr r w = a) :
    (∀ v, s.seqLoad r a n = .ok v → s.seqExec r w pc len .clean = s.retire r (field w 11 7) (loadValue (field w 14 12) v) pc (pc + len)) ∧
    ∀ c, s.seqLoad r a n = .error c → s.seqExec r w pc len .clean = s.seqFault r c := by
  rw [State.loadAddr] at haddr
  rw [State.seqExec]
  simp only [hop, hn, haddr, State.seqCheck_clean, reduceCtorEq, and_false, if_false]
  exact ⟨fun v hv => by rw [hv], fun c hc => by rw [hc]⟩

theorem State.loadAddr_sequencing (ok : Canonical s) (w : Word) : (s.sequencing r).loadAddr r w = s.loadAddr r w := by
  rw [State.loadAddr, State.sequencing_seq ok, Sequencer.rx_state, State.loadAddr]

/-- An aligned load from SRAM reads it, and an unaligned one is sequencer fault 2 (Table 07-1). -/
theorem State.seqLoad_sequencing (ok : Canonical s) (a n : Nat) :
    (a % n = 0 → a < 0x40000 → (s.sequencing r).seqLoad r a n = .ok (leNat (memRead (s.region r).seq.sram a n))) ∧
    (a % n ≠ 0 → (s.sequencing r).seqLoad r a n = .error 2) := by
  rw [State.seqLoad, State.sequencing_seq ok]
  exact ⟨fun ha hin => by rw [if_neg (not_not.2 ha), if_pos hin], fun ha => if_pos ha⟩

/-- Retiring writes register d, unless it is x0, and the pc; nothing else changes (R186). -/
theorem State.retire_sequencing (ok : Canonical s) (d : Nat) (v : Word) (next : Nat) :
    (s.sequencing r).retire r d v (s.region r).seq.pc.toNat next = s.setRegion r { s.region r with
      seq := { ((s.region r).seq.wx d v) with state := 2, pc := BitVec.ofNat 32 next, lastRetired := (s.region r).seq.pc } } := by
  rw [State.retire, State.sequencing, State.modRegion_setRegion ok, Sequencer.wx, Sequencer.wx, BitVec.ofNat_toNat, BitVec.setWidth_eq]
  split <;> rfl

end

/-- Settles O19: the instruction executed is the word at the pc, and each form of it retires with its result or raises its fault. What each word of RV32IM
means is its standard's (notes/assumptions/16.md, presumed); which instructions are illegal, and where a code check bears, is deduced (68.md, 69.md). -/
theorem sequencerInstructions : Obligations.SequencerInstructions := by
  intro s r ok
  refine fun hpow hawake hin hwide => ?_
  have hword := exec_seqInstruction ⟨ok, hpow, hawake, hin, hwide⟩
  have hretire := State.retire_sequencing (r := r) ok
  have haddr := State.loadAddr_sequencing (r := r) ok (s.instrWord r)
  have hload := State.seqLoad_sequencing (r := r) ok (s.loadAddr r (s.instrWord r))
  have hrun := hword
  rw [State.seqExec, State.instrWord, State.sequencing_seq ok] at hrun
  refine ⟨fun hop => ?lui, fun hop => ?auipc, fun hop => ?jal, fun hop hf => ?jalr, fun t hop ht => ?branch, fun v hop hv => ?immediate,
    fun v hop hf hv => ?register, fun hop hf => ?multiply, fun n hop hn ha hlt => ?load, fun n hop hn ha => ?unaligned, fun hop hw => ?system⟩
  case load => exact hword.trans (congrArg _ (((State.seqExec_load hop hn haddr).1 _ ((hload n).1 ha hlt)).trans (hretire _ _ _)))
  case unaligned => exact hword.trans (congrArg _ ((State.seqExec_load hop hn haddr).2 _ ((hload n).2 ha)))
  all_goals simp only [hop, Sequencer.rx_state] at hrun; refine hrun.trans (congrArg Host.Outcome.next ?_)
  case lui | auipc | jal => exact hretire _ _ _
  case jalr => exact (if_pos hf).trans (hretire _ _ _)
  case branch =>
    rw [ht]
    exact hretire _ _ _
  case immediate =>
    rw [hv]
    exact hretire _ _ _
  case register =>
    rw [if_neg hf, hv]
    exact hretire _ _ _
  case multiply =>
    rw [if_pos hf]
    exact hretire _ _ _
  case system => exact if_neg hw

/-! ### Arrivals, ring registers and emissions (O20) -/

section
variable {s : State} {r i : Nat}

/-- An arrival of another partition is refused with reason 4 (R224). -/
theorem execSeqArrival_of_foreign {f : Flit} {e : Endpoint} (hflit : s.seqFlit i = some (r, f, e)) (hlive : s.dead r = false) (hkey : e.key ≠ f.key) :
    execSeqArrival i s = .next ((s.dropFlit i).violation 4 f.key f.src f.dest e.key r 11) := by
  have hlive' : (s.dropFlit i).dead r = false := hlive
  rw [execSeqArrival, hflit]
  simp only [hlive', Bool.false_eq_true, if_false, hkey, ne_eq, not_false_eq_true, if_true]

/-- An arrival of the sequencer's own partition writes its bytes, if it has any, and counts. -/
theorem execSeqArrival_of_own {f : Flit} {e : Endpoint} (hflit : s.seqFlit i = some (r, f, e)) (hlive : s.dead r = false) (hkey : e.key = f.key) :
    (f.kind = .send ∨ f.kind = .multicast → execSeqArrival i s = .next
      (if f.ce then ((s.dropFlit i).sramWrite r (f.raddr % 262144) f.data).scAdd r f.cn else (s.dropFlit i).sramWrite r (f.raddr % 262144) f.data)) ∧
    (f.kind = .signal ∨ f.kind = .signalMulti → execSeqArrival i s = .next (if f.ce then (s.dropFlit i).scAdd r f.cn else s.dropFlit i)) := by
  have hlive' : (s.dropFlit i).dead r = false := hlive
  rw [execSeqArrival, hflit]
  simp only [hlive', Bool.false_eq_true, if_false, hkey, ne_eq, not_true_eq_false]
  exact ⟨fun h => by rcases h with h | h <;> rw [h], fun h => by rcases h with h | h <;> rw [h]⟩

/-- A count at a sequencer counter, which stays at its largest value (R191). -/
theorem State.scAdd_eq (s : State) (r n : Nat) : s.scAdd r n =
    let g := s.region r
    let v := tabGet 0 g.seq.sc n
    s.setRegion r { g with seq := { g.seq with sc := tabSet 0 g.seq.sc n (if v = 0xFFFFFFFF then 0xFFFFFFFF else v + 1) } } := by
  have hmax : ∀ v : Word, (if v = 0xFFFFFFFF then v else v + 1) = if v = 0xFFFFFFFF then 0xFFFFFFFF else v + 1 := fun v => by
    split
    · assumption
    · rfl
  rw [State.scAdd, State.modRegion]
  simp only [hmax]

/-- A ring register takes the bits it holds (Table 07-6). -/
theorem State.ringConfig_eq (s : State) (r off : Nat) (v : Word) : s.ringConfig r off v =
    s.wr (winBase r + off) (if 0x730 ≤ off then v else if off % 8 = 0 then v &&& 0xFFFFFF00 else v &&& 0x000FFFC0) := by
  rw [State.ringConfig]
  by_cases hoff : off < 0x730
  · simp only [if_pos hoff, if_neg (Nat.not_le.2 hoff), apply_ite (s.wr (winBase r + off))]
  · simp only [if_neg hoff, if_pos (Nat.not_lt.1 hoff)]

/-- The emission of d on ring i under the ring's configuration, when its slot counter stands at n. -/
def State.ringEmission (s : State) (r i n : Nat) (d : Bytes) (fromList : Bool) : Emission :=
  { data := slice d 0 16, mask := BitVec.ofNat 16 (s.fld (Reg.RGNW_SQ_RING_A r i) 31 16), cn := s.fld (Reg.RGNW_SQ_RING_A r i) 15 12,
    base := s.fld (Reg.RGNW_SQ_RING_B r i) 19 0, log2 := s.ringLog2 r i, slot := n % 2 ^ s.ringLog2 r i, due := none, ring := i, fromList := fromList }

/-- Region r after an emission on ring i outside stall mode has taken a credit and a slot. -/
def State.emitted (s : State) (r i : Nat) (e : Emission) : Region :=
  let g := s.region r
  { g with seq := { g.seq with sc := tabSet 0 g.seq.sc (12 + i) (tabGet 0 g.seq.sc (12 + i) - 1) },
           ringSlot := tabSet 0 g.ringSlot i (tabGet 0 g.ringSlot i + 1), emissions := g.emissions ++ [e] }

theorem State.presentEmission_of_credit (ok : Canonical s) {p : Nat} {d : Bytes} {fromList : Bool} (hcredit : tabGet 0 (s.region r).seq.sc (12 + i) ≠ 0)
    (howner : s.owner r = some p) (hstall : (s.part p).stall = false) :
    s.presentEmission r i d fromList =
      ((s.setRegion r (s.emitted r i (s.ringEmission r i (tabGet 0 (s.region r).ringSlot i) d fromList))).wr (Reg.RGNW_SQ_RING_DUE r i) 0, true) := by
  rw [State.presentEmission]
  simp only [hcredit, if_false, howner, Option.getD_some, hstall, Bool.false_and, Bool.false_eq_true]
  rw [State.modRegion_wr, State.modRegion_modRegion ok]
  rfl

/-- An emission for one core is put in flight to it, with its count. -/
theorem State.landEmission_of_one {e : Emission} {k : Nat} (hcore : s.maskCores r e.mask = [k]) (hdata : e.data ≠ []) :
    s.landEmission r e = s.setCoreAt k { s.coreAt k with
      flight := (s.coreAt k).flight ++ [⟨(s.coreAt k).now, 4, .bytes 0 (e.base + 16 * e.slot) e.data⟩, ⟨(s.coreAt k).now, 4, .ctrAdd e.cn 1 true⟩] } := by
  rw [State.landEmission, hcore, List.foldl_cons, List.foldl_nil, State.toCore, State.modCoreAt]
  simp [hdata, Core.push]

end

/-- Settles O20 with a lemma for an arrival of another partition and one for its own, the bits of a ring register, an emission that finds a credit, and its
delivery to the one core of its mask. The clause of the ring registers needs nothing of their offsets. -/
theorem sequencerMessages : Obligations.SequencerMessages := by
  intro s r ok
  refine ⟨fun i f e hflit hlive => ⟨fun hkey => ?_, fun hkey hkind => ?_, fun hkey hkind hce => ?_⟩, fun off v hpow => ?_, fun v hpow hcredit => ?_,
    fun v p hpow hcredit howner hstall => ?_, fun e l k hemit hcore hdata => ?_⟩
  · exact execSeqArrival_of_foreign hflit hlive hkey
  · exact (execSeqArrival_of_own hflit hlive hkey).1 hkind
  · refine ((execSeqArrival_of_own hflit hlive hkey).2 hkind).trans (congrArg Host.Outcome.next ((if_pos hce).trans ?_))
    rw [State.scAdd_eq]
    rfl
  · refine ⟨_, congrArg Host.Outcome.next ((if_neg hpow).trans (State.ringConfig_eq s r off v)), (OnlyRegs.refl _ s).wr ok (List.mem_singleton.2 rfl) _, ?_⟩
    rw [State.rd_wr_same ok]
  · refine congrArg Host.Outcome.next ((if_neg hpow).trans ?_)
    rw [State.sqEmit, State.presentEmission]
    exact congrArg Prod.fst (if_pos hcredit)
  · exact congrArg Host.Outcome.next ((if_neg hpow).trans (congrArg Prod.fst (State.presentEmission_of_credit ok hcredit howner hstall)))
  · refine congrArg Host.Outcome.next ?_
    rw [hemit]
    exact State.landEmission_of_one hcore hdata

/-! ### What leaves every region as it is -/

@[simp] theorem State.signalPort_regions (s : State) (port v : Nat) : (s.signalPort port v).regions = s.regions := by
  rw [State.signalPort]
  dsimp only
  split <;> rfl

@[simp] theorem State.signal_regions (s : State) (v : Nat) : (s.signal v).regions = s.regions := by
  rw [State.signal]
  split <;> simp

@[simp] theorem State.logRaw_regions (s : State) (code : Nat) (arg : Word) (body : Bytes) : (s.logRaw code arg body).regions = s.regions := by
  rw [State.logRaw]
  by_cases hopen : s.flashOpen = true
  · simp only [if_pos hopen]
    rfl
  · simp only [if_neg hopen]
    rfl

@[simp] theorem State.writeRecord_regions (s : State) (inj : Bool) (cls src part detail : Nat) (loc : Word) :
    (s.writeRecord inj cls src part detail loc).regions = s.regions := by
  rw [State.writeRecord]
  simp only [apply_ite State.regions, State.signal_regions, State.logRaw_regions, ite_self]
  rfl

@[simp] theorem State.interruptSpare_regions (s : State) (p reason : Nat) : (s.interruptSpare p reason).regions = s.regions := by
  rw [State.interruptSpare]
  split
  · split <;> rfl
  · rfl

@[simp] theorem State.stopPart_regions (s : State) (p reason : Nat) : (s.stopPart p reason).regions = s.regions := by
  rw [State.stopPart]
  dsimp only
  split
  · split
    · split <;> rfl
    · rfl
  · split
    · exact s.interruptSpare_regions p reason
    · split <;> rfl
  · exact s.interruptSpare_regions p reason
  · rfl

@[simp] theorem State.corrected_regions (s : State) (src : Nat) (loc : Word) (inj : Bool) : (s.corrected src loc inj).regions = s.regions := by
  rw [State.corrected]
  dsimp only
  split
  · exact State.writeRecord_regions _ _ _ _ _ _ _
  · rfl

@[simp] theorem State.deferredD_regions (s : State) (src : Nat) (part : Option Nat) (detail : Nat) (loc : Word) (inj : Bool) :
    (s.deferredD src part detail loc inj).regions = s.regions := by
  rw [State.deferredD.eq_def]
  simp only [apply_ite State.regions, State.writeRecord_regions, ite_self]
  rfl

@[simp] theorem State.memFatalD_regions (s : State) (part : Option Nat) (loc : Word) (inj : Bool) : (s.memFatalD part loc inj).regions = s.regions := by
  cases part with
  | none => exact State.deferredD_regions _ _ _ _ _ _
  | some p => exact (State.stopPart_regions _ _ _).trans (State.writeRecord_regions _ _ _ _ _ _ _)

@[simp] theorem State.injCount_regions (s : State) (n : Nat) : (s.injCount n).regions = s.regions := by
  rw [State.injCount]
  split <;> rfl

@[simp] theorem State.rimWrite_regions (s : State) (a : Nat) (d : Bytes) : (s.rimWrite a d).1.regions = s.regions := by
  rw [State.rimWrite, State.injSend]
  split
  · exact State.injCount_regions _ _
  · rfl

@[simp] theorem State.rimCheck_regions (s : State) (p : Option Nat) (a bad : Nat) (chk : CodeCheck) : (s.rimCheck p a bad chk).regions = s.regions := by
  have hcount : ∀ (u : State) (n : Nat), u.regions = s.regions →
      (if n = 0 then u else (u.bumpBy (Reg.RIM_ERR (a / (96 * gib))) 15 0 n).memFatal p (rimLocus a 0)).regions = s.regions := fun u n hu => by
    split
    · exact hu
    · exact (State.memFatalD_regions _ _ _ _).trans hu
  cases chk with
  | clean => exact hcount s _ rfl
  | corrected n => exact hcount _ _ (State.corrected_regions _ _ _ _)
  | uncorrectable => exact hcount s _ rfl

@[simp] theorem State.hostWriteAdv_regions (s : State) (port addr : Nat) (d : Bytes) (adv : Nat) : (s.hostWriteAdv port addr d adv).regions = s.regions := by
  rw [State.hostWriteAdv, State.issueWrite]
  split
  · split
    · rfl
    · split <;> rfl
  · rfl

@[simp] theorem State.complete_regions (s : State) (p op status ring : Nat) (tag result : Bytes) : (s.complete p op status ring tag result).regions = s.regions := by
  rw [State.complete]
  exact (State.signal_regions _ _).trans (State.hostWriteAdv_regions _ _ _ _ _)

/-! ### The mover's queue while a descriptor's bytes are copied and its completion lands -/

/-- State t is canonical, and the mover of region r holds the queue q. -/
structure MoverHolds (r : Nat) (q : List Move) (t : State) : Prop where
  ok : Canonical t
  moves : (t.region r).moves = q

section
variable {s t : State} {r : Nat} {q : List Move}

theorem MoverHolds.of_regions (h : MoverHolds r q s) (ok : Canonical t) (ht : t.regions = s.regions) : MoverHolds r q t :=
  ⟨ok, by rw [State.region, ht]; exact h.moves⟩

theorem MoverHolds.modRegion (h : MoverHolds r q s) (i : Nat) {f : Region → Region} (hf : ∀ g, (f g).moves = g.moves) : MoverHolds r q (s.modRegion i f) := by
  refine ⟨h.ok.modRegion i f, ?_⟩
  rw [State.region_modRegion h.ok]
  split
  · subst i
    exact (hf _).trans h.moves
  · exact h.moves

theorem MoverHolds.foldl {α : Type} {f : State → α → State} (step : ∀ u a, MoverHolds r q u → MoverHolds r q (f u a)) (l : List α) (h : MoverHolds r q s) :
    MoverHolds r q (l.foldl f s) :=
  List.foldlRecOn l f h fun u hu a _ => step u a hu

theorem MoverHolds.wr (h : MoverHolds r q s) (a : Nat) (v : Word) : MoverHolds r q (s.wr a v) := h.of_regions (h.ok.wr a v) rfl

theorem MoverHolds.ite {c : Prop} [Decidable c] (hs : MoverHolds r q s) (ht : MoverHolds r q t) : MoverHolds r q (if c then s else t) := by
  split
  · exact hs
  · exact ht

theorem MoverHolds.injStore (h : MoverHolds r q s) (c i : Nat) (ws : List Nat) : MoverHolds r q (s.injStore c i ws) := by
  have hcount : ∀ {u : State} (n : Nat), MoverHolds r q u → MoverHolds r q (if 0 < n then u.injCount n else u) := fun n hu =>
    .ite (hu.of_regions (State.injCount_kept hu.ok.kept n).ok (State.injCount_regions _ n)) hu
  have hrecord : ∀ l, MoverHolds r q (s.modRegion i fun g => { g with injected := l }) := fun l => h.modRegion i fun _ => rfl
  rw [State.injStore]
  exact .ite h (.ite ((hcount _ (hrecord _)).wr _ _) (hcount _ (hrecord _)))

theorem MoverHolds.bondWrite (h : MoverHolds r q s) (i off : Nat) (d : Bytes) : MoverHolds r q (s.bondWrite i off d) := by
  refine h.foldl (fun u n hu => ?_) _
  dsimp only
  rw [State.bondWrite1]
  split
  · exact (hu.of_regions (hu.ok.modCoreAt _ _) rfl).injStore _ _ _
  · exact hu

theorem MoverHolds.bondCheck (h : MoverHolds r q s) (i k row src : Nat) (chk : CodeCheck) : MoverHolds r q (s.bondCheck i k row src chk) := by
  rw [State.bondCheck.eq_def]
  cases chk with
  | clean => exact h
  | corrected n =>
    have hcount := h.wr (Reg.RGNW_MEM_ERR i) (bumpField (s.rd (Reg.RGNW_MEM_ERR i)) 31 16 1)
    exact (hcount.of_regions (State.corrected_kept hcount.ok.kept _ _ _).ok (State.corrected_regions _ _ _ _)).modRegion i fun _ => rfl
  | uncorrectable =>
    dsimp only
    generalize hu : (if row < 4096 * State.poolWres _ i then _ else _) = u
    have hshown : MoverHolds r q u := hu ▸ .ite (((h.wr _ _).wr _ _).modRegion i fun _ => rfl) ((h.wr _ _).wr _ _)
    split
    · exact hshown.of_regions (State.memFatalD_kept hshown.ok.kept _ _ _).ok (State.memFatalD_regions _ _ _ _)
    · exact hshown.of_regions (State.deferredD_kept hshown.ok.kept _ _ _ _ _).ok (State.deferredD_regions _ _ _ _ _ _)

theorem MoverHolds.moveData (h : MoverHolds r q s) (m : Move) (chk : CodeCheck) : MoverHolds r q (s.moveData r m chk) := by
  have hrim : ∀ {u : State}, MoverHolds r q u → ∀ p a bad chk, MoverHolds r q (u.rimCheck p a bad chk) := fun hu p a bad chk =>
    hu.of_regions (State.rimCheck_kept hu.ok.kept p a bad chk).ok (State.rimCheck_regions _ p a bad chk)
  have hdst : ∀ x : Bytes × State, MoverHolds r q x.2 → MoverHolds r q
      (if m.dstRim then (x.2.rimWrite m.dst x.1).1.rimCheck (s.owner r) m.dst (x.2.rimWrite m.dst x.1).2 .clean else x.2.bondWrite r m.dst x.1) := fun x hx =>
    .ite (hrim (hx.of_regions (State.rimWrite_kept hx.ok.kept _ _).ok (State.rimWrite_regions _ _ _)) _ _ _ _) (hx.bondWrite _ _ _)
  rw [State.moveData]
  dsimp only
  refine hdst _ ?_
  split
  · exact hrim h _ _ _ _
  · exact h.bondCheck _ _ _ _ _

theorem MoverHolds.landMove (h : MoverHolds r q s) (i : Nat) (m : Move) : MoverHolds r q (s.landMove i m) := by
  have hcount : MoverHolds r q (s.scAdd i m.scn) := h.modRegion i fun _ => rfl
  have hcore : ∀ u k, MoverHolds r q u → MoverHolds r q (u.toCore k 0 0 [] (some m.cn)) := fun u k hu => hu.of_regions (hu.ok.modCoreAt k _) rfl
  have hcores := hcount.foldl hcore ((s.scAdd i m.scn).maskCores i m.mask)
  rw [State.landMove.eq_def]
  dsimp only
  split
  · exact hcores.of_regions (State.complete_kept hcores.ok.kept _ _ _ _ _ _).ok (State.complete_regions _ _ _ _ _ _ _)
  · exact hcores

end

/-! ### The mover and lockstep (O21) -/

section
variable {s : State} {r p : Nat}

/-- A descriptor outside stall mode that is right in all it names takes the next place of the queue (R195). -/
theorem State.presentMove_of_room {b : Bytes} {assist : Option (Nat × Nat)} (hroom : (s.region r).moves.length < 16) (hgood : s.moverBad r b = false)
    (howner : s.owner r = some p) (hrim : s.moverRim p (moverDesc b assist) = none) (hstall : (s.part p).stall = false) :
    s.presentMove r b assist = s.modRegion r fun g => { g with moves := g.moves ++ [{ moverDesc b assist with due := none }] } := by
  rw [State.presentMove, if_neg (Nat.not_le.2 hroom), if_neg (Bool.eq_false_iff.1 hgood)]
  simp only [howner, Option.getD_some, hrim, hstall, Bool.false_eq_true, if_false]

/-- A mover queue with no entry in place lands nothing. -/
theorem State.landFront_of_waiting {l : List Move} (hq : (s.region r).moves = l) (hl : ∀ m ∈ l, m.done = false) (k : Nat) : s.landFront r k = s := by
  cases k with
  | zero => rfl
  | succ k =>
    rw [State.landFront, hq]
    cases l with
    | nil => rfl
    | cons m l => exact if_neg (by simp [hl m List.mem_cons_self])

/-- The mover queue of region r is l. -/
def State.setMoves (s : State) (r : Nat) (l : List Move) : State := s.modRegion r fun g => { g with moves := l }

theorem MoverHolds.setMoves (ok : Canonical s) (r : Nat) (l : List Move) : MoverHolds r l (s.setMoves r l) :=
  ⟨ok.modRegion r _, by rw [State.setMoves, State.region_modRegion ok, if_pos rfl]⟩

theorem State.setMoves_setMoves (ok : Canonical s) (r : Nat) (l l' : List Move) : (s.setMoves r l).setMoves r l' = s.setMoves r l' :=
  State.modRegion_modRegion ok r _ _

/-- The first entry of the queue lands when it is in place and waits for no due, and the walk goes on. -/
theorem State.landFront_of_done {m : Move} {l : List Move} (hq : (s.region r).moves = m :: l) (hdone : m.done = true) (hdue : m.due = none) (k : Nat) :
    s.landFront r (k + 1) = ((s.setMoves r l).landMove r m).landFront r k := by
  rw [State.landFront, hq]
  exact if_pos (by simp [hdone, hdue])

/-- A completion outside stall mode copies the oldest entry, which lands alone, since none behind it is in place (R195). -/
theorem State.moverDone_of_oldest (ok : Canonical s) {m : Move} {l : List Move} {chk : CodeCheck} (hq : (s.region r).moves = m :: l) (hm : m.done = false)
    (hdue : m.due = none) (hl : ∀ n ∈ l, n.done = false) :
    s.moverDone r chk = ((s.moveData r m chk).setMoves r l).landMove r m := by
  have hcopied : MoverHolds r (m :: l) (s.moveData r m chk) := .moveData ⟨ok, hq⟩ m chk
  have hmarked := MoverHolds.setMoves hcopied.ok r ({ m with done := true } :: l)
  have hlanded := (MoverHolds.setMoves hcopied.ok r l).landMove r m
  have hdone : s.moverDone r chk = ((s.moveData r m chk).setMoves r ({ m with done := true } :: l)).landFront r 16 := by
    rw [State.moverDone]
    simp only [hq, List.findIdx?_cons, hm, Bool.not_false, if_true, List.getElem?_cons_zero, hdue]
    rw [State.modRegion, hcopied.moves]
    rfl
  rw [hdone, State.landFront_of_done hmarked.moves rfl hdue, State.setMoves_setMoves hcopied.ok]
  exact State.landFront_of_waiting hlanded.moves hl 15

/-- An item that is late stalls the wall cycle 64 on, and the first of a run of such stalls is an event (R205). -/
theorem State.lateStall_eq (s : State) (p : Nat) : s.lateStall p =
    let x := s.part p
    let w := x.wall + 64
    let t := s.setPart p { x with stalls := x.stalls ++ [(w, w)], lateRun := some w }
    if ∃ l ∈ x.lateRun, w ≤ l + 1 then t else t.bump (Reg.GLB_LOCK_EVT p) 15 0 := by
  refine if_congr ?_ rfl rfl
  cases hrun : (s.part p).lateRun <;> simp

/-- An emission that is ready and not late lands at its due (R204). -/
theorem execDueItemLand_of_emission {d : DueItem} {i : Nat} {e : Emission} (hd : (s.part p).due[i]? = some d) (hready : d.ready = true)
    (hdue : d.due ≤ (s.part p).epoch) (hkind : d.kind = .emission r e) (hlate : d.late = false) :
    execDueItemLand p i s = .next ((s.setPart p { s.part p with due := (s.part p).due.eraseIdx i }).landEmission r e) := by
  have hland : ∀ u : State, u.landItem d = u.landEmission r e := fun u => by rw [State.landItem, hkind]
  rw [execDueItemLand, hd]
  simp only [hready, Bool.not_true, Bool.false_or, decide_eq_true_eq, Nat.not_lt.2 hdue, if_false, hland, hkind, hlate, Bool.false_eq_true]
  rfl

end

/-- Settles O21 with a lemma for each part that is more than a branch of its command: a descriptor taken, the oldest move's completion, a late item's stall,
and a due emission. That a refused descriptor raises sequencer fault 3 and takes no place is deduced (notes/assumptions/65.md), as is epoch
E + 64 for a stop in stall mode (98.md). -/
theorem moverAndLockstep : Obligations.MoverAndLockstep := by
  refine ⟨fun s r p ok => ⟨fun v hpow howner => ⟨fun hfull => ?full, fun hroom hbad => ?bad, fun hroom hgood hrim hstall => ?taken⟩,
      fun m l chk hq hm hdue hl => congrArg Host.Outcome.next (State.moverDone_of_oldest ok hq hm hdue hl)⟩,
    fun s p ok => ⟨fun i d hd hready hdue hrun => ?late, fun i d r e hd hready hdue hkind hlate => execDueItemLand_of_emission hd hready hdue hkind hlate,
      fun n g d l hdet hnow hdue hann hrun => ?detour, fun e hstop hdue => ?stop⟩⟩
  all_goals refine congrArg Host.Outcome.next ?_
  case full => exact (if_neg hpow).trans (if_pos hfull)
  case bad => exact (if_neg hpow).trans ((if_neg (Nat.not_le.2 hroom)).trans (if_pos hbad))
  case taken => exact (if_neg hpow).trans (State.presentMove_of_room hroom hgood howner hrim hstall)
  case late =>
    rw [hd]
    exact (if_neg (by simpa [hready, hrun] using hdue)).trans (State.lateStall_eq s p)
  case detour =>
    dsimp only
    rw [hdet, hnow]
    exact if_neg (by simpa [hann, hrun] using hdue)
  case stop =>
    dsimp only
    rw [hstop]
    exact if_neg (Nat.not_lt.2 hdue)

end Sys2Proof.Machine

/-! SUPPORT. The statements of chapter 08's family: link events and telemetry (O16), and multicast (O17). -/

namespace Sys2Proof.Machine

/-! ### What a fault leaves of the fabric and of every region -/

@[simp] theorem State.signalPort_fab (s : State) (port v : Nat) : (s.signalPort port v).fab = s.fab := by
  rw [State.signalPort]
  dsimp only
  split <;> rfl

@[simp] theorem State.signal_fab (s : State) (v : Nat) : (s.signal v).fab = s.fab := by
  rw [State.signal]
  split <;> simp

@[simp] theorem State.logRaw_fab (s : State) (code : Nat) (arg : Word) (body : Bytes) : (s.logRaw code arg body).fab = s.fab := by
  rw [State.logRaw]
  by_cases hopen : s.flashOpen = true
  · simp only [if_pos hopen]
    rfl
  · simp only [if_neg hopen]
    rfl

@[simp] theorem State.writeRecord_fab (s : State) (inj : Bool) (cls src part detail : Nat) (loc : Word) :
    (s.writeRecord inj cls src part detail loc).fab = s.fab := by
  rw [State.writeRecord]
  simp only [apply_ite State.fab, State.signal_fab, State.logRaw_fab, ite_self]
  rfl

@[simp] theorem State.corrected_fab (s : State) (src : Nat) (loc : Word) (inj : Bool) : (s.corrected src loc inj).fab = s.fab := by
  rw [State.corrected]
  dsimp only
  split
  · exact State.writeRecord_fab _ _ _ _ _ _ _
  · rfl

@[simp] theorem State.jobFatal_regions (s : State) (part : Option Nat) (src reason : Nat) (loc : Word) :
    (s.jobFatal part src reason loc).regions = s.regions := by
  cases part with
  | none => exact State.deferredD_regions _ _ _ _ _ _
  | some p => exact (State.stopPart_regions _ _ _).trans (State.writeRecord_regions _ _ _ _ _ _ _)

@[simp] theorem State.lastPending_regions (s : State) : s.lastPending.regions = s.regions := by
  rw [State.lastPending]
  split
  · exact (State.signal_regions _ _).trans (State.logRaw_regions _ _ _ _)
  · rfl

/-! ### Counters of a whole register, and corrected faults -/

theorem field_word (x : Word) : field x 31 0 = x.toNat := Nat.mod_eq_of_lt x.isLt

/-- A counter that fills its register is the sum in words. -/
theorem bumpField_word (x : Word) (n : Nat) : bumpField x 31 0 n = x + BitVec.ofNat 32 n := by
  apply BitVec.eq_of_toNat_eq
  rw [← field_word, field_bumpField x 31 0 n (by decide), field_word, BitVec.toNat_add, BitVec.toNat_ofNat, Nat.add_mod_mod]

section
variable {s : State}

/-- A corrected fault counts one in its class's counter (R421), and beside it writes only what a fault record writes. -/
theorem State.corrected_writesIn (ok : Canonical s) (src : Nat) (loc : Word) (inj : Bool) :
    WritesIn recordReg (s.countClass 0) (s.corrected src loc inj) := by
  have hcount : Canonical (s.countClass 0) := ok.bump _ _ _
  have hrecord : ∀ flt, WritesIn recordReg (s.countClass 0) (({ s.countClass 0 with flt := flt } : State).writeRecord inj 0 src 255 0 loc) := fun flt =>
    have h := State.writeRecord_writesIn (s := { s.countClass 0 with flt := flt }) (hcount.of_tables rfl) inj 0 src 255 0 loc
    ⟨h.ok, h.rd⟩
  rw [State.corrected]
  dsimp only
  split
  · exact hrecord _
  · exact .refl hcount

theorem not_recordReg_fltCnt (i : Nat) (hi : i < 4) : ¬recordReg (Reg.FLT_CNT i) := by
  simp only [recordReg, logReg, Reg.FLT_CNT, Reg.THM_GATE, Reg.MGT_LOG_STAT, Reg.MGT_LOG_LO, Reg.MGT_LOG_HI, Reg.FLT_LOG_WR]
  omega

theorem not_recordReg_hubErr (r : Nat) : ¬recordReg (Reg.RGNW_HUB_ERR r) := by
  simp only [recordReg, logReg, Reg.RGNW_HUB_ERR, winBase, Reg.THM_GATE, Reg.MGT_LOG_STAT, Reg.MGT_LOG_LO, Reg.MGT_LOG_HI, Reg.FLT_LOG_WR]
  omega

/-! ### Link events (O16) -/

section
variable {r q : Nat}

/-- A replay on a link in use is counted at its hub, in the counter of corrected faults and towards the link's failure. -/
theorem linkReplay_counts (ok : Canonical s) (hup : s.linkState r q = 1) : Completes (.linkReplay r q) s fun t =>
    t.rd (Reg.RGNW_HUB_ERR r) = bumpField (s.rd (Reg.RGNW_HUB_ERR r)) 15 0 1 ∧ t.rd (Reg.FLT_CNT 0) = s.rd (Reg.FLT_CNT 0) + 1 ∧
      t.fab = { s.fab with replays := tabAdd s.fab.replays (10 * r + q) (tabGet 0 s.fab.replays (10 * r + q) + 1) } := by
  have hne : Reg.RGNW_HUB_ERR r ≠ Reg.FLT_CNT 0 := by
    simp only [Reg.RGNW_HUB_ERR, Reg.FLT_CNT, winBase]
    omega
  have hbump : Canonical (s.bump (Reg.RGNW_HUB_ERR r) 15 0) := ok.bump _ _ _
  have hfault := State.corrected_writesIn hbump 3 (linkLocus r q) false
  have hfab : ((s.bump (Reg.RGNW_HUB_ERR r) 15 0).corrected 3 (linkLocus r q) false).fab = s.fab := State.corrected_fab _ _ _ _
  refine ⟨_, congrArg Host.Outcome.next (if_pos hup), ?_, ?_, ?_⟩
  · refine (hfault.rd _ (not_recordReg_hubErr r)).trans ?_
    rw [State.countClass, State.bump, State.rd_wr_ne hbump _ hne]
    exact State.rd_wr_same ok _ _
  · refine (hfault.rd _ (not_recordReg_fltCnt 0 (by decide))).trans ?_
    rw [State.countClass, State.bump, State.rd_wr_same hbump, bumpField_word, State.bump, State.rd_wr_ne ok _ hne.symm]
    rfl
  · dsimp only
    rw [hfab]

/-- The hub and port at a link's other end follow from the last alone. -/
theorem State.linkPeer_congr {t : State} (h : t.last = s.last) (r q : Nat) : t.linkPeer r q = s.linkPeer r q := by
  have hhub : ∀ r q, t.ringHub r q = s.ringHub r q := fun r q => by simp only [State.ringHub, h]
  have hport : ∀ r q, t.ringPort r q = s.ringPort r q := fun r q => by simp only [State.ringPort, hhub]
  simp only [State.linkPeer, hhub, hport]

/-- State v once the ports of l have failed with the link at port q of hub r: its replays are forgotten, and every partition that in s has a route across it
has a fault (R212). -/
def State.withLinkFailed (s : State) (r q : Nat) (l : List Nat) (v : State) : State :=
  (({ v with fab := { s.fab with failedLinks := s.fab.failedLinks ++ l, replays := tabDrop s.fab.replays (10 * r + q) } }).bump Reg.FAB_STAT 15 8).linkFaults
    (s.partsWith (s.usesLink r q)) (linkLocus r q)

/-- A link with no port at its other end fails at its receiver, once a replay has failed eight times in a row. -/
theorem execLinkFailure_of_stub (hup : s.linkState r q = 1) (hdue : 8 ≤ tabGet 0 s.fab.replays (10 * r + q)) (hpeer : s.linkPeer r q = none) :
    execLinkFailure r q s = .next (s.withLinkFailed r q [10 * r + q] (s.setFld (Reg.RGNW_HUB_LINK r) (2 * q + 1) (2 * q) 2)) := by
  rw [execLinkFailure, if_pos ⟨hup, hdue⟩]
  dsimp only
  rw [State.linkPeer_congr (s := s), hpeer]
  · rfl
  · rfl

/-- A link between two hubs fails at both its ends. -/
theorem execLinkFailure_of_peer (hup : s.linkState r q = 1) (hdue : 8 ≤ tabGet 0 s.fab.replays (10 * r + q)) {t o : Nat}
    (hpeer : s.linkPeer r q = some (t, o)) :
    execLinkFailure r q s = .next (s.withLinkFailed r q [10 * r + q, 10 * t + o]
      ((s.setFld (Reg.RGNW_HUB_LINK r) (2 * q + 1) (2 * q) 2).setFld (Reg.RGNW_HUB_LINK t) (2 * o + 1) (2 * o) 2)) := by
  rw [execLinkFailure, if_pos ⟨hup, hdue⟩, State.withLinkFailed, List.append_cons _ _ [10 * t + o]]
  dsimp only
  rw [State.linkPeer_congr (s := s), hpeer]
  · rfl
  · rfl

/-- The test of a failed link between two live hubs: those that fail it die, the receiver when neither does (R212). -/
theorem execHubLinkTest_of_failed {t o : Nat} {a b : Bool} (hfailed : s.linkState r q = 2) (hr : s.dead r = false)
    (hpeer : s.linkPeer r q = some (t, o)) (ht : s.dead t = false) :
    execHubLinkTest r q a b s = .next (if b then (if a then s.hubDies r else s).hubDies t else s.hubDies r) := by
  rw [execHubLinkTest]
  simp only [hpeer, hr, ht, hfailed]
  cases b <;> cases a <;> rfl

/-- Of the regions, a hub's stop changes its own alone. -/
theorem State.hubStop_regions (s : State) (r : Nat) :
    (s.hubStop r).regions = (s.modRegion r fun g => { g with hubStopped := true, hubOn := false }).regions :=
  foldl_leaves State.regions (fun t _ => t.jobFatal_regions _ _ _ _) _ _

/-- A live region that dies of its hub shows cause 8, and its hub is stopped and off. -/
theorem State.hubDies_region (ok : Canonical s) (hlive : (s.region r).cause = 0) :
    ((s.hubDies r).region r).cause = 8 ∧ ((s.hubDies r).region r).hubStopped = true ∧ ((s.hubDies r).region r).hubOn = false := by
  have hstop : Canonical (s.hubStop r) := (State.hubStop_kept ok.kept r).ok
  have hcause : ((s.hubStop r).region r).cause = 0 := by
    rw [State.region, State.hubStop_regions, ← State.region, State.region_modRegion ok, if_pos rfl]
    exact hlive
  have hdead : (s.hubDies r).regions = (((s.hubStop r).cutPower r).modRegion r fun g =>
      { g with cause := 8, hubOn := g.hubOn && decide (8 ≠ 8), hubStopped := g.hubStopped || decide (8 = 8) }).regions := by
    rw [State.hubDies, State.regionDies, if_neg (not_not.2 hcause)]
    exact (State.jobFatal_regions _ _ _ _ _).trans (State.lastPending_regions _)
  rw [State.region, hdead, ← State.region, State.region_modRegion (hstop.cutPower r), if_pos rfl]
  exact ⟨rfl, Bool.or_true _, Bool.and_false _⟩

end

/-! ### The congestion map (O16) -/

/-- A table built entry by entry holds the value of each key in the list, where entries that share a key share their value. -/
theorem tabGet_foldl_tabSet {α β : Type} [DecidableEq α] {d : α} {key : β → Nat} {val : β → α} {l : List β}
    (hshare : ∀ a ∈ l, ∀ b ∈ l, key a = key b → val a = val b) {b : β} (hb : b ∈ l) :
    tabGet d (l.foldl (fun t c => tabSet d t (key c) (val c)) []) (key b) = val b := by
  induction l using List.reverseRecOn with
  | nil => exact absurd hb List.not_mem_nil
  | append_singleton l c ih =>
    have hsorted : tabSorted (l.foldl (fun t c => tabSet d t (key c) (val c)) []) = true :=
      List.foldlRecOn (motive := fun t => tabSorted t = true) l _ rfl fun t ht e _ => tabPut_sorted t _ _ ht
    have hleft : ∀ a ∈ l, a ∈ l ++ [c] := fun a => List.mem_append_left _
    rw [List.foldl_concat, tabGet_tabSet _ _ _ hsorted]
    split
    · exact hshare c (by simp) b hb (Eq.symm ‹_›)
    · have hne : b ≠ c := fun h => ‹key b ≠ key c› (congrArg key h)
      have hmem : b ∈ l := (List.mem_append.1 hb).resolve_right fun h => hne (List.mem_singleton.1 h)
      exact ih (fun a ha a' ha' => hshare a (hleft a ha) a' (hleft a' ha')) hmem

/-- The logical hubs of the last in force, each with the ports its map entries are of. -/
def State.mapCells (s : State) : List ((Nat × Nat) × Nat) := s.grid.flatMap fun a => (s.mapPorts a.1 a.2).map fun q => (a, q)

/-- The key of a map entry, with what a period of so many cycles puts there (R232). -/
def State.mapEntry (s : State) (cycles : Nat) (c : (Nat × Nat) × Nat) : Nat × Nat × Nat :=
  let o := s.mapSource c.1.1 c.1.2 c.2
  (mapKey c.1.1 c.1.2 c.2, cmapShare (s.rd (Reg.RGNW_HUB_FLITS o.1 o.2)) (BitVec.ofNat 32 (tabGet 0 s.fab.prevFlits (10 * o.1 + o.2))) cycles,
    cmapShare (s.rd (Reg.RGNW_HUB_HOLD o.1 o.2)) (BitVec.ofNat 32 (tabGet 0 s.fab.prevHold (10 * o.1 + o.2))) cycles)

theorem State.mem_mapCells {x y q : Nat} : ((x, y), q) ∈ s.mapCells ↔ x < s.last.lcols ∧ y < 27 ∧ q ∈ s.mapPorts x y := by
  simp [State.mapCells, State.grid, and_assoc]

theorem State.port_lt_of_mem_mapPorts {x y q : Nat} (h : q ∈ s.mapPorts x y) : q < 16 := by
  simp only [State.mapPorts, List.mem_append, List.mem_cons, List.not_mem_nil, or_false, List.mem_ite_nil_right] at h
  omega

/-- Entries of the map have keys of their own. -/
theorem State.mapKey_injOn {a b : (Nat × Nat) × Nat} (ha : a ∈ s.mapCells) (hb : b ∈ s.mapCells)
    (h : mapKey a.1.1 a.1.2 a.2 = mapKey b.1.1 b.1.2 b.2) : a = b := by
  obtain ⟨⟨x, y⟩, q⟩ := a
  obtain ⟨⟨x', y'⟩, q'⟩ := b
  obtain ⟨-, hy, hq⟩ := State.mem_mapCells.1 ha
  obtain ⟨-, hy', hq'⟩ := State.mem_mapCells.1 hb
  have hport := State.port_lt_of_mem_mapPorts hq
  have hport' := State.port_lt_of_mem_mapPorts hq'
  simp only [mapKey] at h
  obtain ⟨rfl, rfl, rfl⟩ : x = x' ∧ y = y' ∧ q = q' := by omega
  rfl

section
variable {cycles : Nat}

/-- The map that ends a period. -/
theorem State.buildMap_cmap (hcycles : 0 < cycles) (hcols : 0 < s.last.lcols) :
    (s.buildMap cycles).fab.cmap = (s.mapCells.map (s.mapEntry cycles)).foldl (fun t e => tabSet (0, 0) t e.1 e.2) [] := by
  rw [State.buildMap, if_neg (by omega)]
  rfl

/-- Beside the fabric's tables, the end of a period writes the new generation to FAB_STAT. -/
theorem State.buildMap_frame (hcycles : 0 < cycles) (hcols : 0 < s.last.lcols) :
    (s.buildMap cycles).fab.cmapGen = nextGen s.fab.cmapGen ∧
      s.buildMap cycles = ({ s with fab := (s.buildMap cycles).fab } : State).setFld Reg.FAB_STAT 31 16 (nextGen s.fab.cmapGen) := by
  rw [State.buildMap, if_neg (by omega)]
  exact ⟨rfl, rfl⟩

/-- The entry of a port in the map that ends a period. -/
theorem State.tabGet_buildMap_cmap (hcycles : 0 < cycles) (hcols : 0 < s.last.lcols) {x y q : Nat} (hmem : ((x, y), q) ∈ s.mapCells) :
    tabGet (0, 0) (s.buildMap cycles).fab.cmap (mapKey x y q) = (s.mapEntry cycles ((x, y), q)).2 := by
  have hshare : ∀ e ∈ s.mapCells.map (s.mapEntry cycles), ∀ e' ∈ s.mapCells.map (s.mapEntry cycles), e.1 = e'.1 → e.2 = e'.2 := by
    intro e he e' he' hkey
    obtain ⟨a, ha, rfl⟩ := List.mem_map.1 he
    obtain ⟨b, hb, rfl⟩ := List.mem_map.1 he'
    rw [State.mapKey_injOn ha hb hkey]
  rw [State.buildMap_cmap hcycles hcols]
  exact tabGet_foldl_tabSet (key := Prod.fst) (val := Prod.snd) hshare (List.mem_map_of_mem hmem)

/-- The end of a period: a new generation, and an entry for each port of each hub of the last. -/
theorem cmapPeriodTick_completes (ok : Canonical s) (hcycles : 0 < cycles) (hcols : 0 < s.last.lcols) : Completes (.cmapPeriodTick cycles) s fun t =>
    t.fab.cmapGen = nextGen s.fab.cmapGen ∧ t.fld Reg.FAB_STAT 31 16 = nextGen s.fab.cmapGen % 65536 ∧ OnlyRegs [Reg.FAB_STAT] { s with fab := t.fab } t ∧
      ∀ x y q, x < s.last.lcols → y < 27 → q ∈ s.mapPorts x y → tabGet (0, 0) t.fab.cmap (mapKey x y q) = (s.mapEntry cycles ((x, y), q)).2 := by
  obtain ⟨hgen, hframe⟩ := State.buildMap_frame hcycles hcols
  have htables : Canonical ({ s with fab := (s.buildMap cycles).fab } : State) := ok.of_tables rfl
  refine ⟨_, rfl, hgen, ?_, ?_, fun x y q hx hy hq => State.tabGet_buildMap_cmap hcycles hcols (State.mem_mapCells.2 ⟨hx, hy, hq⟩)⟩
  · rw [hframe]
    exact State.fld_setFld htables _ _ _ _ (by decide)
  · have hreg := (OnlyRegs.refl [Reg.FAB_STAT] ({ s with fab := (s.buildMap cycles).fab } : State)).wr htables (List.mem_singleton.2 rfl)
    exact hframe ▸ hreg _

end

/-! ### Clearing a log (O16) -/

/-- Write 0 to each register of a list. -/
def State.zeroRegs (s : State) (l : List Nat) : State := l.foldl (fun t a => t.wr a 0) s

/-- Registers zeroed read 0, and no other changes. -/
theorem State.zeroRegs_frame (ok : Canonical s) (l : List Nat) : OnlyRegs l s (s.zeroRegs l) ∧ ∀ a ∈ l, (s.zeroRegs l).rd a = 0 := by
  obtain ⟨⟨-, honly⟩, hzero⟩ := foldl_sets (I := fun t => Canonical t ∧ OnlyRegs l s t) (Q := fun a t => t.rd a = 0)
    (f := fun t a => t.wr a 0) (l := l) (fun t ht a ha => ⟨ht.1.wr a 0, ht.2.wr ht.1 ha 0⟩) (fun t ht a _ => State.rd_wr_same ht.1 a 0)
    (fun t ht a _ b _ hzero => by rw [State.rd_wr ht.1, hzero, ite_self]) ⟨ok, .refl l s⟩
  exact ⟨honly, hzero⟩

/-- A write that clears a log when its VALID bit is 1: the log's registers read 0, or as before when it is 0, and of reserved bits HIF_STAT may tell. -/
theorem logClear_completes {c : Instr} {v old reserved : Word} {l : List Nat} (ok : Canonical s) (hstat : Reg.HIF_STAT ∉ l)
    (hexec : exec c s = .next (if flag v 31 then (s.reservedBits old v reserved).zeroRegs l else s.reservedBits old v reserved)) :
    Completes c s fun t => OnlyRegs (l ++ [Reg.HIF_STAT]) s t ∧ ∀ a ∈ l, t.rd a = if flag v 31 then 0 else s.rd a := by
  have hres := (State.reservedBits_frame ok old v reserved).1
  obtain ⟨honly, hzero⟩ := State.zeroRegs_frame (ok.reservedBits old v reserved) l
  refine ⟨_, hexec, ?_⟩
  split
  · exact ⟨(hres.trans honly).mono (by simp), hzero⟩
  · exact ⟨hres.mono (by simp), fun a ha => hres.2 a (by simpa using ne_of_mem_of_not_mem ha hstat)⟩

end

/-- Settles O16: a lemma for each link event, the map entry by entry, and one for the clearing of a log. That a map entry reads the skip port where
it carries the ring direction is deduced (notes/assumptions/67.md). -/
theorem linkEventsAndTelemetry : Obligations.LinkEventsAndTelemetry := by
  refine ⟨fun s r q ok _ _ => ⟨fun hup => linkReplay_counts ok hup,
    fun hup hdue => ⟨execLinkFailure_of_stub hup hdue, fun t o hpeer => execLinkFailure_of_peer hup hdue hpeer⟩,
    fun t o a b hfailed hr hpeer ht => execHubLinkTest_of_failed hfailed hr hpeer ht, fun hlive => State.hubDies_region ok hlive⟩,
    fun s v cycles ok => ⟨fun hcycles hcols => cmapPeriodTick_completes ok hcycles hcols, fun hup => ?viol, fun hup => ?stall⟩⟩
  case viol =>
    exact logClear_completes (l := [Reg.FAB_VIOL_LOG0, Reg.FAB_VIOL_LOG1, Reg.FAB_VIOL_LOG2, Reg.FAB_VIOL_LOG3]) ok (by decide)
      (congrArg Host.Outcome.next (if_neg (Bool.eq_false_iff.1 hup)))
  case stall =>
    exact logClear_completes (l := [Reg.FAB_STALL_LOG0, Reg.FAB_STALL_LOG1, Reg.FAB_STALL_LOG2]) ok (by decide)
      (congrArg Host.Outcome.next (if_neg (Bool.eq_false_iff.1 hup)))

/-! ### Multicast (O17) -/

/-- Flit f, number i, is a multicast flit at the head of input inp of a running hub r. -/
structure MulticastHead (s : State) (i r inp : Nat) (f : Flit) : Prop where
  flit : s.fab.flits[i]? = some f
  hub : flitHub f.loc = some (r, inp)
  kind : isMulticast f.kind = true
  head : s.isHead i f.loc = true
  running : (s.region r).hubStopped = false

section
variable {s : State} {i r inp : Nat} {f : Flit}

/-- A flit whose hub has no entry for it is dropped with reason 6. -/
theorem State.replicate_of_no_entry (h : MulticastHead s i r inp f) (hleft : f.left = none) (hentry : s.bridle r f.key f.index = none) :
    s.replicate i = (s.dropFlit i).violation 6 f.key f.src 0 0 r inp := by
  simp only [State.replicate, h.flit, h.hub, h.kind, h.head, h.running, hleft, hentry]
  rfl

/-- A flit of which no branch is served yet takes those of its entry; what is held stays with it. -/
theorem State.replicate_of_entry (h : MulticastHead s i r inp f) (hleft : f.left = none) {l : List Branch} (hentry : s.bridle r f.key f.index = some l) :
    s.replicate i = if (s.takeBranches f r l).2.isEmpty then (s.takeBranches f r l).1.dropFlit i
      else (s.takeBranches f r l).1.setFlits ((s.takeBranches f r l).1.fab.flits.set i
        { f with left := some (s.takeBranches f r l).2, headSince := some (f.headSince.getD (s.takeBranches f r l).1.time) }) := by
  simp only [State.replicate, h.flit, h.hub, h.kind, h.head, h.running, hleft, hentry]
  rfl

/-- A core of the hub whose port is free takes its copy. -/
theorem State.takeBranches_core {n x y : Nat} (hplace : s.last.logical r = some (x, y))
    (hfree : ∀ g ∈ s.fab.flits, g.loc = .eject r → g.dest ≠ s.idOf x y (.core n)) :
    s.takeBranches f r [.core n] = (s.addFlit { f with loc := .eject r, dest := s.idOf x y (.core n), left := none }, []) := by
  have hport : s.copyLocal f r (s.idOf x y (.core n)) = some (s.addFlit { f with loc := .eject r, dest := s.idOf x y (.core n), left := none }) :=
    if_neg (by simpa using hfree)
  simp only [State.takeBranches, State.takeBranch, hplace, hport]

@[simp] theorem State.setFlits_keyOwner (s : State) (l : List Flit) (key : Nat) : (s.setFlits l).keyOwner key = s.keyOwner key := rfl

/-- A branch number from 4 on is the sequencer, a stub or a core. -/
theorem branchOf_local {b : Nat} (hb : 4 ≤ b) : branchOf b = if b = 4 then .seq else if b < 10 then .stub b else .core (b - 10) :=
  if_neg (Nat.not_lt.2 hb)

/-- What the stall log names as target of a held branch. -/
def State.stallTarget (s : State) (r b : Nat) : Nat :=
  if b = 4 then s.seqId r else if b < 10 then 0 else if (s.last.logical r).isNone then 0
  else s.idOf ((s.last.logical r).getD (0, 0)).1 ((s.last.logical r).getD (0, 0)).2 (.core (b - 10))

/-- A branch held for the limit is captured in the stall log and is a job-fatal fault of the key's owner, once (R228). -/
theorem execMulticastStallTimeout_of_limit (hflit : s.fab.flits[i]? = some f) (hhub : flitHub f.loc = some (r, inp)) {b : Nat} {l : List Branch} {t : Long}
    {p : Nat} (hleft : f.left = some l) (hsince : f.headSince = some t) (honce : f.stalled = false) (hb : 4 ≤ b) (hheld : branchOf b ∈ l)
    (howner : s.keyOwner f.key = some p) (hlimit : 2 ^ (s.fld Reg.FAB_CFG 27 24 + 10) ≤ s.cyclesSince t) :
    execMulticastStallTimeout i b s = .next (((s.setFlits (s.fab.flits.set i { f with stalled := true })).stallLog 0 p f.index (s.stallTarget r b) r).jobFatal
      (some p) 34 6 (regionLocus r)) := by
  have hguards : (f.stalled || decide (b < 4) || !l.contains (branchOf b) || decide (s.cyclesSince t < 2 ^ (s.fld Reg.FAB_CFG 27 24 + 10))) = false := by
    simp [honce, hb, hheld, hlimit]
  rw [execMulticastStallTimeout]
  simp only [hflit, hhub, hleft, hsince, hguards, Bool.false_eq_true, if_false]
  simp only [State.setFlits_keyOwner, howner, State.stallTarget, branchOf_local hb]
  by_cases hseq : b = 4
  · simp only [if_pos hseq]
    rfl
  · by_cases hstub : b < 10
    · simp only [if_neg hseq, if_pos hstub]
      rfl
    · simp only [if_neg hseq, if_neg hstub]
      cases s.last.logical r <;> rfl

end

/-- Settles O17: a hub's copies by its entry, and the stall of a held branch. -/
theorem multicastBranches : Obligations.MulticastBranches := by
  intro s i r inp f hflit hhub
  refine ⟨fun hkind hhead hrun => ?copies, fun b l t p hleft hsince honce hb hheld howner hlimit =>
    execMulticastStallTimeout_of_limit hflit hhub hleft hsince honce hb hheld howner hlimit⟩
  have h : MulticastHead s i r inp f := ⟨hflit, hhub, hkind, hhead, hrun⟩
  refine ⟨fun hleft hentry => congrArg Host.Outcome.next (State.replicate_of_no_entry h hleft hentry),
    fun l hleft hentry => congrArg Host.Outcome.next (State.replicate_of_entry h hleft hentry), fun n x y hleft hentry hplace hfree => ?_⟩
  refine congrArg Host.Outcome.next ?_
  rw [State.replicate_of_entry h hleft hentry, State.takeBranches_core hplace hfree]
  rfl

end Sys2Proof.Machine

/-! SUPPORT. The statement of chapter 09's family: ingest segments (O33). -/

namespace Sys2Proof.Machine

section
variable {s : State} {p : Nat} {b : Bytes}

/-! ### A whole segment, check by check -/

theorem State.takeSegment_of_bad_head (hhead : s.segHeadBad b = true) : s.takeSegment p b = s.ingFail 1 (leAt b 4 2) := if_pos hhead

theorem State.takeSegment_of_bad_crc (hhead : s.segHeadBad b = false) (hcrc : crc32 (slice b 32 (leAt b 16 4)) ≠ leAt b 24 4) :
    s.takeSegment p b = s.ingFail 2 (leAt b 4 2) :=
  (if_neg (Bool.eq_false_iff.1 hhead)).trans (if_pos hcrc)

section
variable (hhead : s.segHeadBad b = false) (hcrc : crc32 (slice b 32 (leAt b 16 4)) = leAt b 24 4)
include hhead hcrc

theorem State.takeSegment_of_bad_payload (hdata : segPayload b = none) : s.takeSegment p b = s.ingFail 3 (leAt b 4 2) := by
  rw [State.takeSegment, if_neg (Bool.eq_false_iff.1 hhead), if_neg (not_not.2 hcrc), hdata]

theorem State.takeSegment_of_no_tensor (hdata : segPayload b ≠ none) (htensor : s.tensorOf (leAt b 4 2) = none) :
    s.takeSegment p b = s.ingFail 4 (leAt b 4 2) := by
  obtain ⟨d, hd⟩ := Option.ne_none_iff_exists'.1 hdata
  rw [State.takeSegment, if_neg (Bool.eq_false_iff.1 hhead), if_neg (not_not.2 hcrc), hd, htensor]

/-- A segment for a tensor that the ingest names, in the form its SHIP asks for: its rows are taken. -/
theorem State.takeSegment_of_fits {d : Bytes} {t : Tensor} (hdata : segPayload b = some d) (htensor : s.tensorOf (leAt b 4 2) = some t)
    (hnamed : (tabFind s.ing.tensors (leAt b 4 2)).isSome = true) (hship : t.ship = 1 ↔ 2 ≤ byteAt b 6) :
    s.takeSegment p b = if (s.takeRows p t b d).2 = 0 then (s.takeRows p t b d).1.ingEnd p
      else (s.takeRows p t b d).1.ingFail (s.takeRows p t b d).2 (leAt b 4 2) := by
  have hknown : ¬(tabFind s.ing.tensors (leAt b 4 2)).isNone = true := by simp [Option.isSome_iff_ne_none.1 hnamed]
  have hform : ¬(t.ship = 1) ≠ (2 ≤ byteAt b 6) := not_not.2 (propext hship)
  rw [State.takeSegment, if_neg (Bool.eq_false_iff.1 hhead), if_neg (not_not.2 hcrc), hdata, htensor]
  exact (if_neg hknown).trans (if_neg hform)

end

/-! ### The source whose segment is taken -/

/-- A source is neither held nor waits when no region of its tensor is held by temperature or flow or has a release under way. -/
theorem State.segHot_segWaits_eq_false {k : Nat} (hfree : ∀ t r, s.tensorOf (leAt (s.ingSource k) 4 2) = some t → r ∈ s.tensorRegions p t →
    s.ingestHeld r = false ∧ s.releasing r = false) : s.segHot p k = false ∧ s.segWaits p k = false := by
  rw [State.segHot, State.segWaits]
  cases htensor : s.tensorOf (leAt (s.ingSource k) 4 2) with
  | none => exact ⟨rfl, rfl⟩
  | some t => exact ⟨List.any_eq_false.2 fun r hr => Bool.eq_false_iff.1 (hfree t r htensor hr).1,
      List.any_eq_false.2 fun r hr => Bool.eq_false_iff.1 (hfree t r htensor hr).2⟩

theorem State.segReady_of_whole {k : Nat} (hhead : 32 ≤ (s.ingSource k).length) (hwhole : 32 + leAt (s.ingSource k) 16 4 ≤ (s.ingSource k).length) :
    s.segReady k = true := by
  simp [State.segReady, hhead, hwhole]

/-- The engine takes the segment of source 3 when that one is ready and neither held nor waiting. -/
theorem State.ingPump_of_ready (hpart : s.ing.part = some p) (hstate : s.fld Reg.LDR_ING_STAT 31 29 ≠ 4) (hready : s.segReady 3 = true)
    (hhot : s.segHot p 3 = false) (hwaits : s.segWaits p 3 = false) {n : Nat} (hlen : n = 32 + leAt (s.ingSource 3) 16 4) :
    s.ingPump = ({ (s.setSource 3 ((s.ingSource 3).drop n)).setFld Reg.LDR_ING_STAT 31 29 1 with
      ing := { (s.setSource 3 ((s.ingSource 3).drop n)).ing with heldSince := none } }).takeSegment p ((s.ingSource 3).take n) := by
  have hopen : ¬(s.ing.closed && decide (s.fld Reg.LDR_ING_STAT 31 29 = 4)) = true := by simp [hstate]
  have hfirst : ([3, 0, 1, 2].filter s.segReady).find? (fun k => !(s.segHot p k) && !(s.segWaits p k)) = some 3 := by
    rw [List.filter_cons_of_pos hready, List.find?_cons_of_pos (by simp [hhot, hwaits])]
  rw [State.ingPump, hpart, hlen]
  simp only [if_neg hopen, hfirst]
  rfl

/-! ### A segment given to the engine -/

/-- A whole segment b, given to the engine while no source holds bytes, for a tensor none of whose regions is held. -/
structure SegmentAlone (s : State) (p : Nat) (b : Bytes) : Prop where
  part : s.ing.part = some p
  empty : s.ing.bufs = []
  header : 32 ≤ b.length
  whole : b.length = 32 + leAt b 16 4
  running : s.fld Reg.LDR_ING_STAT 31 29 ≠ 4
  free : ∀ t r, s.tensorOf (leAt b 4 2) = some t → r ∈ s.tensorRegions p t → s.ingestHeld r = false ∧ s.releasing r = false

/-- The engine with b in source 3, before it looks at it. -/
def State.segmentGiven (s : State) (b : Bytes) (last : Bool) : State :=
  { s with ing := { s.ing with closed := s.ing.closed || last, bufs := [(3, b)] } }

/-- The engine as it takes that segment: nothing in the sources, no hold, STATE 1. -/
def State.segmentTaken (s : State) (last : Bool) : State :=
  ({ s with ing := { s.ing with closed := s.ing.closed || last, heldSince := none, bufs := [] } }).setFld Reg.LDR_ING_STAT 31 29 1

@[simp] theorem State.segmentGiven_ingSource (s : State) (b : Bytes) (last : Bool) : (s.segmentGiven b last).ingSource 3 = b := rfl

/-- Bytes given to the engine while its sources hold none are all of source 3. -/
theorem execIngestSegment_of_empty (hpart : s.ing.part = some p) (hempty : s.ing.bufs = []) (hb : b ≠ []) (last : Bool) :
    execIngestSegment (some b) last s = .next (s.segmentGiven b last).ingPump := by
  have hsource : s.ingSource 3 ++ b = b := by rw [State.ingSource, hempty]; rfl
  have hput : s.setSource 3 b = { s with ing := { s.ing with bufs := [(3, b)] } } := by
    rw [State.setSource, hempty, if_neg (by simpa using hb)]
    rfl
  rw [execIngestSegment, hpart]
  simp only [hsource, hput]
  rfl

/-- A segment alone in the sources and held by nothing is taken at once. -/
theorem execIngestSegment_of_alone (h : SegmentAlone s p b) (last : Bool) :
    execIngestSegment (some b) last s = .next ((s.segmentTaken last).takeSegment p b) := by
  have hb : b ≠ [] := List.ne_nil_of_length_pos (by have := h.header; omega)
  have hready : (s.segmentGiven b last).segReady 3 = true := State.segReady_of_whole h.header h.whole.ge
  obtain ⟨hhot, hwaits⟩ := State.segHot_segWaits_eq_false (s := s.segmentGiven b last) (k := 3) h.free
  rw [execIngestSegment_of_empty h.part h.empty hb, State.ingPump_of_ready (s := s.segmentGiven b last) h.part h.running hready hhot hwaits h.whole,
    State.segmentGiven_ingSource, List.take_length, List.drop_length]
  rfl

/-- A source error ends an ingest under way with status 12. -/
theorem execIngestSegment_of_source_error (hpart : s.ing.part = some p) (last : Bool) : execIngestSegment none last s = .next (s.ingFail 12 0) := by
  rw [execIngestSegment, hpart]

/-- A segment of source 3 held for HOLD_TMO ends the ingest with status 10. -/
theorem execIngestHoldTimeout_of_held {t0 : Long} (hpart : s.ing.part = some p) (hsince : s.ing.heldSince = some t0)
    (hdue : s.elapsed t0 (1000000 * max 1 (s.fld Reg.LDR_ING_CFG 15 0)) = true) (hready : s.segReady 3 = true) (hhot : s.segHot p 3 = true) :
    execIngestHoldTimeout s = .next (s.ingFail 10 (leAt (s.ingSource 3) 4 2)) := by
  have hheld : ([3, 0, 1, 2].filter s.segReady).any (s.segHot p) = true := by
    rw [List.filter_cons_of_pos hready, List.any_cons, hhot, Bool.true_or]
  have hfirst : [3, 0, 1, 2].find? s.segReady = some 3 := List.find?_cons_of_pos hready
  rw [execIngestHoldTimeout, hpart, hsince]
  simp only [hdue, hheld, hfirst]
  rfl

end

/-- Settles O33: a segment alone and not held is taken at once, and each status is the first of its checks that fails. The statuses of a header with NROWS 0,
of a length above 16 MiB and of a payload of another length than stated are deduced (notes/assumptions/37.md), as are that of a form that does not fit SHIP
(34.md), which the statement leaves out, and that a segment waits for the release of its region (39.md). -/
theorem ingestSegments : Obligations.IngestSegments := by
  intro s p b last hpart
  refine ⟨execIngestSegment_of_source_error hpart last, fun hempty hheader hwhole hrunning hfree => ?checks,
    fun t0 hsince hdue hready hhot => execIngestHoldTimeout_of_held hpart hsince hdue hready hhot⟩
  have htaken := execIngestSegment_of_alone ⟨hpart, hempty, hheader, hwhole, hrunning, hfree⟩ last
  refine ⟨fun hhead => ?head, fun hhead hcrc => ?crc, fun hhead hcrc hdata => ?payload, fun hhead hcrc hdata htensor => ?tensor,
    fun d t hhead hcrc hdata htensor hnamed hship => ?rows⟩ <;> refine htaken.trans (congrArg Host.Outcome.next ?_)
  case head => exact State.takeSegment_of_bad_head hhead
  case crc => exact State.takeSegment_of_bad_crc hhead hcrc
  case payload => exact State.takeSegment_of_bad_payload hhead hcrc hdata
  case tensor => exact State.takeSegment_of_no_tensor hhead hcrc hdata htensor
  case rows => exact State.takeSegment_of_fits hhead hcrc hdata htensor hnamed hship

end Sys2Proof.Machine

/-! SUPPORT. The statements of chapter 10's family: the operations of the page keeper (O22), and its completions, its commands and the list engine (O23). -/

namespace Sys2Proof.Machine

/-! ### Searching a pool (R273) -/

theorem firstFree_eq_none {n start : Nat} {taken : Nat → Bool} (h : ¬∃ i, i < n ∧ taken i = false) : firstFree n start taken = none := by
  refine List.find?_eq_none.2 fun i hi => ?_
  obtain ⟨j, hj, rfl⟩ := List.mem_map.1 hi
  have hlt : (start + j) % n < n := Nat.mod_lt _ (Nat.zero_lt_of_lt (List.mem_range.1 hj))
  simpa using fun hfree => h ⟨_, hlt, hfree⟩

/-- Record i is free and its identifier in group g does not wait for zeroing (R275). -/
def Keeper.RecFree (k : Keeper) (g i : Nat) : Prop := i < 65536 ∧ tabFind k.recs i = none ∧ ∀ z ∈ k.zeroing, ¬(z.index = some i ∧ z.grp = g)

def Keeper.SlotFree (k : Keeper) (g sl : Nat) : Prop := sl < k.slots ∧ k.slotTaken g sl = false

def Keeper.RimFree (k : Keeper) (sl : Nat) : Prop := sl < k.rslots ∧ k.rimTaken sl = false

section
variable {k : Keeper} {g start : Nat}

/-- What `Keeper.freeRec` searches for. -/
theorem Keeper.recFree_iff {i : Nat} : k.RecFree g i ↔
    i < 65536 ∧ ((tabFind k.recs i).isSome || k.zeroing.any fun z => decide (z.index = some i) && decide (z.grp = g)) = false := by
  simp [Keeper.RecFree]

theorem Keeper.freeRec_finds (h : ∃ i, k.RecFree g i) : ∃ i, k.freeRec g start = some i ∧ k.RecFree g i := by
  simp only [Keeper.recFree_iff] at h ⊢
  exact firstFree_finds h

theorem Keeper.freeRec_eq_none (h : ¬∃ i, k.RecFree g i) : k.freeRec g start = none := by
  simp only [Keeper.recFree_iff] at h
  exact firstFree_eq_none h

theorem Keeper.freeSlot_finds (h : ∃ sl, k.SlotFree g sl) : ∃ sl, k.freeSlot g start = some sl ∧ k.SlotFree g sl := firstFree_finds h

theorem Keeper.freeSlot_eq_none (h : ¬∃ sl, k.SlotFree g sl) : k.freeSlot g start = none := firstFree_eq_none h

theorem Keeper.freeRim_finds (h : ∃ sl, k.RimFree sl) : ∃ sl, k.freeRim start = some sl ∧ k.RimFree sl := firstFree_finds h

theorem Keeper.freeRim_eq_none (h : ¬∃ sl, k.RimFree sl) : k.freeRim start = none := firstFree_eq_none h

end

/-! ### What each operation of Table 10-4 leaves and answers -/

/-- The keeper that an operation leaves, and its status. -/
def kOutcome (p : Keeper × KAns) : Keeper × Nat := (p.1, p.2.status)

@[simp] theorem kOutcome_mk (k : Keeper) (a : KAns) : kOutcome (k, a) = (k, a.status) := rfl
@[simp] theorem KAns.of_status (status page word : Nat) : (KAns.of status page word).status = status := rfl

section
variable {k : Keeper} {n grp page : Nat} {tent : Bool} {x : PageRec} {src : KeeperSrc}

theorem kAlloc_of_free (howner : k.owner = true) (hgrp : grp < k.groups) (hrec : ∃ i, k.RecFree grp i) (hslot : ∃ sl, k.SlotFree grp sl) :
    ∃ i sl, k.RecFree grp i ∧ k.SlotFree grp sl ∧ kOutcome (kAlloc k n grp tent) =
      ({ k with recs := tabAdd k.recs i { grp := grp, state := if tent then 2 else 1, ref := 1, pin := 0, handles := 0, slot := sl, rslot := 0 } }, 0) := by
  obtain ⟨i, hi, hfree⟩ := Keeper.freeRec_finds (start := Config.pick n % 65536) hrec
  obtain ⟨sl, hsl, hfree'⟩ := Keeper.freeSlot_finds (start := Config.pick (n + 1) % max 1 k.slots) hslot
  refine ⟨i, sl, hfree, hfree', ?_⟩
  rw [kAlloc, if_neg (by simp [howner, hgrp])]
  simp [hi, hsl, Keeper.put, Nat.mod_eq_of_lt hfree.1]

theorem kAlloc_of_foreign (h : k.owner = false ∨ k.groups ≤ grp) : kOutcome (kAlloc k n grp tent) = (k, 7) := by
  rw [kAlloc, if_pos (by simpa using h)]
  rfl

theorem kAlloc_of_no_slot (howner : k.owner = true) (hgrp : grp < k.groups) (hrec : ∃ i, k.RecFree grp i) (hslot : ¬∃ sl, k.SlotFree grp sl) :
    kOutcome (kAlloc k n grp tent) = (k, 2) := by
  obtain ⟨i, hi, -⟩ := Keeper.freeRec_finds (start := Config.pick n % 65536) hrec
  rw [kAlloc, if_neg (by simp [howner, hgrp])]
  simp [hi, Keeper.freeSlot_eq_none hslot]

theorem kAlloc_of_no_record (howner : k.owner = true) (hgrp : grp < k.groups) (hrec : ¬∃ i, k.RecFree grp i) :
    kOutcome (kAlloc k n grp tent) = (k, 1) := by
  rw [kAlloc, if_neg (by simp [howner, hgrp])]
  simp [Keeper.freeRec_eq_none hrec]

/-- A page at REF 0 and PIN 0 is reclaimed unless it is being copied to or moved (R275). -/
def Keeper.putOrReclaim (k : Keeper) (page : Nat) (x : PageRec) : Keeper :=
  if x.ref = 0 ∧ x.pin = 0 ∧ (x.state = 1 ∨ x.state = 2 ∨ x.state = 5) then k.reclaim (page % 65536) x else k.put page x

/-- Record x is that of a page in use: a STATE of R273 other than free. -/
def PageRec.InUse (x : PageRec) : Prop := x.state = 1 ∨ x.state = 2 ∨ x.state = 3 ∨ x.state = 4 ∨ x.state = 5 ∨ x.state = 6

theorem Keeper.settle_of_inUse (h : x.InUse) : k.settle page x = k.putOrReclaim page x :=
  if_congr (by unfold PageRec.InUse at h; omega) rfl rfl

theorem kRef_outcome : kOutcome (kRef k page x) =
    if x.state = 2 ∨ x.state = 3 then (k, 4) else if x.ref = 65535 then (k, 6) else (k.put page { x with ref := x.ref + 1 }, 0) := by
  rw [kRef]
  split_ifs <;> rfl

theorem kDeref_outcome (h : x.InUse) :
    kOutcome (kDeref k page x) = if x.ref = 0 then (k, 5) else (k.putOrReclaim page { x with ref := x.ref - 1 }, 0) := by
  rw [kDeref, ← Keeper.settle_of_inUse (x := { x with ref := x.ref - 1 }) h]
  split_ifs <;> rfl

theorem kPin_outcome : kOutcome (kPin k page x src) =
    if x.state = 4 ∨ x.state = 6 then ({ k with heldPins := k.heldPins ++ [(page, src)] }, 0)
    else if x.state = 3 then (k, 4) else if x.pin = 65535 then (k, 6) else (k.put page { x with pin := x.pin + 1 }, 0) := by
  rw [kPin]
  split_ifs <;> rfl

theorem kUnpin_outcome (h : x.InUse) :
    kOutcome (kUnpin k page x) = if x.pin = 0 then (k, 5) else (k.putOrReclaim page { x with pin := x.pin - 1 }, 0) := by
  rw [kUnpin, ← Keeper.settle_of_inUse (x := { x with pin := x.pin - 1 }) h]
  split_ifs <;> rfl

theorem kCommit_outcome : kOutcome (kCommit k page x) = if x.state = 1 ∨ x.state = 2 then (k.put page { x with state := 1 }, 0) else (k, 4) := by
  by_cases hstate : x.state = 1 ∨ x.state = 2
  · rw [kCommit, if_neg (by omega), if_pos hstate]
    rfl
  · rw [kCommit, if_pos (by omega), if_neg hstate]
    rfl

theorem kCopy_of_state (h : x.state ≠ 1 ∧ x.state ≠ 2) : kOutcome (kCopy k n page x src) = (k, 4) := by
  rw [kCopy, if_pos h]
  rfl

/-- COPY with a record and a slot free: a new page in STATE 3 and a pin on the source, and the copy is under way (R276). -/
theorem kCopy_of_free (hstate : x.state = 1 ∨ x.state = 2) (hpin : x.pin < 65535) (hrec : ∃ i, k.RecFree x.grp i) (hslot : ∃ sl, k.SlotFree x.grp sl) :
    ∃ i sl, k.RecFree x.grp i ∧ k.SlotFree x.grp sl ∧ kOutcome (kCopy k n page x src) = ({ k with
      recs := tabAdd (tabAdd k.recs (page % 65536) { x with pin := x.pin + 1 }) i
        { grp := x.grp, state := 3, ref := 0, pin := 0, handles := 0, slot := sl, rslot := 0 }
      moves := k.moves ++ [{ kind := 6, page := page % 65536, other := i, src := src, tent := decide (x.state = 2) }] }, 0) := by
  obtain ⟨i, hi, hfree⟩ := Keeper.freeRec_finds (start := Config.pick n % 65536) hrec
  obtain ⟨sl, hsl, hfree'⟩ := Keeper.freeSlot_finds (start := Config.pick (n + 1) % max 1 k.slots) hslot
  refine ⟨i, sl, hfree, hfree', ?_⟩
  rw [kCopy, if_neg (by omega), if_neg hpin.ne]
  simp [hi, hsl, Keeper.put, Nat.mod_eq_of_lt hfree.1]

theorem kEvict_of_state (h : x.state ≠ 1 ∨ x.pin ≠ 0) : kOutcome (kEvict k n page x src) = (k, 4) := by
  rw [kEvict, if_pos h]
  rfl

theorem kEvict_of_free (hstate : x.state = 1) (hpin : x.pin = 0) (hrim : ∃ sl, k.RimFree sl) :
    ∃ sl, k.RimFree sl ∧ kOutcome (kEvict k n page x src) = ({ k.put page { x with state := 4, rslot := sl } with
      moves := k.moves ++ [{ kind := 8, page := page % 65536, other := 0, src := src, tent := false }] }, 0) := by
  obtain ⟨sl, hsl, hfree⟩ := Keeper.freeRim_finds (start := Config.pick n % max 1 k.rslots) hrim
  refine ⟨sl, hfree, ?_⟩
  rw [kEvict, if_neg (by omega), hsl]
  rfl

theorem kEvict_of_no_rim (hstate : x.state = 1) (hpin : x.pin = 0) (hrim : ¬∃ sl, k.RimFree sl) : kOutcome (kEvict k n page x src) = (k, 3) := by
  rw [kEvict, if_neg (by omega), Keeper.freeRim_eq_none hrim]
  rfl

theorem kWarm_of_state (h : x.state ≠ 5 ∨ x.pin ≠ 0) : kOutcome (kWarm k n page x src) = (k, 4) := by
  rw [kWarm, if_pos h]
  rfl

theorem kWarm_of_free (hstate : x.state = 5) (hpin : x.pin = 0) (hslot : ∃ sl, k.SlotFree x.grp sl) :
    ∃ sl, k.SlotFree x.grp sl ∧ kOutcome (kWarm k n page x src) = ({ k.put page { x with state := 6, slot := sl } with
      moves := k.moves ++ [{ kind := 9, page := page % 65536, other := 0, src := src, tent := false }] }, 0) := by
  obtain ⟨sl, hsl, hfree⟩ := Keeper.freeSlot_finds (start := Config.pick n % max 1 k.slots) hslot
  refine ⟨sl, hfree, ?_⟩
  rw [kWarm, if_neg (by omega), hsl]
  rfl

theorem kWarm_of_no_slot (hstate : x.state = 5) (hpin : x.pin = 0) (hslot : ¬∃ sl, k.SlotFree x.grp sl) :
    kOutcome (kWarm k n page x src) = (k, 2) := by
  rw [kWarm, if_neg (by omega), Keeper.freeSlot_eq_none hslot]
  rfl

/-- A page found is of this keeper and of one of its groups. -/
theorem Keeper.find_some (h : k.find page = some x) : k.owner = true ∧ page / 2 ^ 20 % 16 = k.rsel ∧ page / 65536 % 16 < k.groups := by
  rw [Keeper.find] at h
  split at h
  · split at h
    · rename_i hmine
      simp only [Bool.and_eq_true, decide_eq_true_eq] at hmine
      obtain ⟨⟨⟨howner, hrsel⟩, hgrp⟩, -⟩ := hmine
      exact ⟨howner, hrsel, hgrp⟩
    · cases h
  · cases h

theorem kQuery_of_find (h : k.find page = some x) : kOutcome (kQuery k page) = (k, 0) := by
  obtain ⟨howner, hrsel, hgrp⟩ := Keeper.find_some h
  have hmine : ¬(!k.owner || decide (page / 2 ^ 20 % 16 ≠ k.rsel) || decide (k.groups ≤ page / 65536 % 16)) = true := by
    rw [howner, hrsel]
    simp [hgrp]
  rw [kQuery, if_neg hmine, h]
  rfl

end

/-! ### The operation of each code -/

section
variable {k : Keeper} {n grp page : Nat} {tent : Bool} {x : PageRec} {src : KeeperSrc}

theorem kApply_alloc : kApply k n ⟨1, tent, grp, page, src⟩ = kAlloc k n grp tent := by simp [kApply]
theorem kApply_query : kApply k n ⟨10, tent, grp, page, src⟩ = kQuery k page := by simp [kApply]

/-- Codes 2 to 9 speak of a page of the keeper, and have status 7 without one. -/
theorem kApply_of_no_page {code : Nat} (hcode : 2 ≤ code ∧ code ≤ 9) (h : k.find page = none) :
    kOutcome (kApply k n ⟨code, tent, grp, page, src⟩) = (k, 7) := by
  rw [kApply, if_neg (by dsimp only; omega), if_neg (by dsimp only; omega), if_neg (by dsimp only; omega)]
  simp [h]

theorem kApply_ref (h : k.find page = some x) : kApply k n ⟨2, tent, grp, page, src⟩ = kRef k page x := by simp [kApply, h]
theorem kApply_deref (h : k.find page = some x) : kApply k n ⟨3, tent, grp, page, src⟩ = kDeref k page x := by simp [kApply, h]
theorem kApply_pin (h : k.find page = some x) : kApply k n ⟨4, tent, grp, page, src⟩ = kPin k page x src := by simp [kApply, h]
theorem kApply_unpin (h : k.find page = some x) : kApply k n ⟨5, tent, grp, page, src⟩ = kUnpin k page x := by simp [kApply, h]
theorem kApply_copy (h : k.find page = some x) : kApply k n ⟨6, tent, grp, page, src⟩ = kCopy k n page x src := by simp [kApply, h]
theorem kApply_commit (h : k.find page = some x) : kApply k n ⟨7, tent, grp, page, src⟩ = kCommit k page x := by simp [kApply, h]
theorem kApply_evict (h : k.find page = some x) : kApply k n ⟨8, tent, grp, page, src⟩ = kEvict k n page x src := by simp [kApply, h]
theorem kApply_warm (h : k.find page = some x) : kApply k n ⟨9, tent, grp, page, src⟩ = kWarm k n page x src := by simp [kApply, h]

end

/-! ### An operation with nothing waiting (R274) -/

/-- The state after the keeper of region r has performed an operation of the serving unit with this outcome. -/
def State.keeperAfter (s : State) (r : Nat) (k : Keeper) (status : Nat) : State :=
  ((({ s with fresh := s.fresh + 2 }).setKeeper r k).kStatus r status).publishKeeper r

section
variable {s : State} {r code page grp : Nat} {tent : Bool}

/-- A result for the serving unit goes nowhere, so that one that comes later leaves the same. -/
theorem State.kPerform_serving : (s.kPerform r ⟨code, tent, grp, page, .serving⟩).1 =
    s.keeperAfter r (kOutcome (kApply (s.keeper r) s.fresh ⟨code, tent, grp, page, .serving⟩)).1
      (kOutcome (kApply (s.keeper r) s.fresh ⟨code, tent, grp, page, .serving⟩)).2 := by
  rw [State.kPerform]
  exact congrArg (State.publishKeeper · r) (ite_self _)

/-- The keeper of region r has power, and nothing waits at it. -/
structure KeeperIdle (s : State) (r : Nat) : Prop where
  powered : (s.region r).pstate ≠ 0
  empty : (s.keeper r).queue = []

/-- An operation that finds nothing waiting is performed at once. -/
theorem KeeperIdle.exec_of_apply (h : KeeperIdle s r) {c : Instr} {p : Keeper × KAns} (hc : exec c s = .next (s.keeperCmd r code page grp tent))
    (hp : kApply (s.keeper r) s.fresh ⟨code, tent, grp, page, .serving⟩ = p) : exec c s = .next (s.keeperAfter r (kOutcome p).1 (kOutcome p).2) := by
  rw [hc, State.keeperCmd, if_neg h.powered]
  simp only [h.empty, State.kPerform_serving, hp]

theorem KeeperIdle.exec_of_outcome (h : KeeperIdle s r) {c : Instr} {p : Keeper × KAns} {k : Keeper} {status : Nat}
    (hc : exec c s = .next (s.keeperCmd r code page grp tent)) (hp : kApply (s.keeper r) s.fresh ⟨code, tent, grp, page, .serving⟩ = p)
    (ho : kOutcome p = (k, status)) : exec c s = .next (s.keeperAfter r k status) := by
  rw [h.exec_of_apply hc hp, ho]

end

/-- Settles O22 with a lemma for the outcome of each operation: one that finds nothing waiting leaves the state `State.keeperAfter` of its outcome.
That QUERY answers any identifier of its keeper is deduced (notes/assumptions/13.md); here it is asked of a page in use. -/
theorem keeperOperations : Obligations.KeeperOperations := by
  intro s r grp page tent hpow hempty
  have h : KeeperIdle s r := ⟨hpow, hempty⟩
  refine ⟨fun howner hgrp hrec hslot => ?alloc, fun hforeign => h.exec_of_outcome rfl kApply_alloc (kAlloc_of_foreign hforeign),
    fun howner hgrp hslot hrec => h.exec_of_outcome rfl kApply_alloc (kAlloc_of_no_slot howner hgrp hrec hslot),
    fun howner hgrp hrec => h.exec_of_outcome rfl kApply_alloc (kAlloc_of_no_record howner hgrp hrec), fun hnone => ?none, fun x hx hstate => ?page⟩
  case alloc =>
    obtain ⟨i, sl, hi, hsl, ho⟩ := kAlloc_of_free (n := s.fresh) (tent := tent) howner hgrp hrec hslot
    exact ⟨i, sl, hi, hsl, h.exec_of_outcome rfl kApply_alloc ho⟩
  case none =>
    have refused {c : Instr} {code : Nat} (hcode : 2 ≤ code ∧ code ≤ 9) (hc : exec c s = .next (s.keeperCmd r code page 0 false)) :
        exec c s = .next (s.keeperAfter r (s.keeper r) 7) := h.exec_of_outcome hc rfl (kApply_of_no_page hcode hnone)
    exact ⟨refused (code := 2) (by decide) rfl, refused (code := 3) (by decide) rfl, refused (code := 4) (by decide) rfl,
      refused (code := 5) (by decide) rfl, refused (code := 6) (by decide) rfl, refused (code := 7) (by decide) rfl,
      refused (code := 8) (by decide) rfl, refused (code := 9) (by decide) rfl⟩
  case page =>
    refine ⟨h.exec_of_outcome rfl kApply_query (kQuery_of_find hx), ?ref, ?deref, ?pin, ?unpin, ?commit,
      fun hcopy => h.exec_of_outcome rfl (kApply_copy hx) (kCopy_of_state hcopy), fun hcopy hpin hrec hslot => ?copy,
      fun hevict => h.exec_of_outcome rfl (kApply_evict hx) (kEvict_of_state hevict), fun hevict hpin hrim => ?evict,
      fun hevict hpin hrim => h.exec_of_outcome rfl (kApply_evict hx) (kEvict_of_no_rim hevict hpin hrim),
      fun hwarm => h.exec_of_outcome rfl (kApply_warm hx) (kWarm_of_state hwarm), fun hwarm hpin hslot => ?warm,
      fun hwarm hpin hslot => h.exec_of_outcome rfl (kApply_warm hx) (kWarm_of_no_slot hwarm hpin hslot)⟩
    case ref =>
      rw [h.exec_of_apply rfl (kApply_ref hx), kRef_outcome]
      split_ifs <;> rfl
    case deref =>
      rw [h.exec_of_apply rfl (kApply_deref hx), kDeref_outcome hstate]
      split_ifs <;> rfl
    case pin =>
      rw [h.exec_of_apply rfl (kApply_pin hx), kPin_outcome]
      split_ifs <;> rfl
    case unpin =>
      rw [h.exec_of_apply rfl (kApply_unpin hx), kUnpin_outcome hstate]
      split_ifs <;> rfl
    case commit =>
      rw [h.exec_of_apply rfl (kApply_commit hx), kCommit_outcome]
      split_ifs <;> rfl
    case copy =>
      obtain ⟨i, sl, hi, hsl, ho⟩ := kCopy_of_free (n := s.fresh) (page := page) (src := .serving) hcopy hpin hrec hslot
      exact ⟨i, sl, hi, hsl, h.exec_of_outcome rfl (kApply_copy hx) ho⟩
    case evict =>
      obtain ⟨sl, hsl, ho⟩ := kEvict_of_free (n := s.fresh) (page := page) (src := .serving) hevict hpin hrim
      exact ⟨sl, hsl, h.exec_of_outcome rfl (kApply_evict hx) ho⟩
    case warm =>
      obtain ⟨sl, hsl, ho⟩ := kWarm_of_free (n := s.fresh) (page := page) (src := .serving) hwarm hpin hslot
      exact ⟨sl, hsl, h.exec_of_outcome rfl (kApply_warm hx) ho⟩

/-! ### Completions (O23) -/

section
variable {s : State} {r i : Nat}

/-- A copy's completion, after what waits at the keeper: the parts are copied, the new page has its state and its reference, and the source loses the copy's
reference and pin (R276). -/
theorem State.copyDone_of_found {m : PageMove} {x y : PageRec}
    (hm : ((s.kDrain r).keeper r).moves.find? (fun m => decide (m.kind = 6) && decide (m.other = i % 65536)) = some m)
    (hx : tabFind ((s.kDrain r).keeper r).recs m.page = some x) (hy : tabFind ((s.kDrain r).keeper r).recs m.other = some y) :
    s.copyDone r i =
      let k := (s.kDrain r).keeper r
      let z : PageRec := { y with state := if m.tent then 2 else 1, ref := 1 }
      let w := (s.kDrain r).mapParts r x.grp fun t q _ _ sl => memCopy sl (1024 * t.slotRow q x.slot) (1024 * t.prows q) sl (1024 * t.slotRow q y.slot)
      let k' := (({ k with moves := k.moves.filter fun n => !(decide (n.kind = 6) && decide (n.other = m.other)) } : Keeper).put m.other z).settle m.page
        { x with pin := x.pin - 1, ref := x.ref - 1 }
      ((w.setKeeper r k').kDeliver r m.src false (KAns.of 0 (pageId k' z.grp m.other) z.word)).publishKeeper r := by
  simp only [State.copyDone, hm, hx, hy]

/-- A move's completion, after what waits at the keeper and with no pin held: the parts are moved, and the place they leave is to be zeroed (R277). -/
theorem State.moveDone_of_found {m : PageMove} {x : PageRec}
    (hm : ((s.kDrain r).keeper r).moves.find? (fun m => decide (m.kind ≠ 6) && decide (m.page = i % 65536)) = some m)
    (hx : tabFind ((s.kDrain r).keeper r).recs m.page = some x) (hpins : ((s.kDrain r).keeper r).heldPins = []) :
    s.moveDone r i =
      let k := (s.kDrain r).keeper r
      let out := decide (m.kind = 8)
      let k' : Keeper := { k with moves := k.moves.filter fun n => !(decide (n.kind ≠ 6) && decide (n.page = m.page))
                                  zeroing := k.zeroing ++ [{ rim := !out, grp := x.grp, slot := if out then x.slot else x.rslot, index := none }] }
      ((((s.kDrain r).moveParts r x out).setKeeper r (k'.settle m.page { x with state := if out then 5 else 1 })).heldPinsOf r m.page).publishKeeper r := by
  simp only [State.moveDone, hm, hx, hpins, List.any_nil, Bool.false_eq_true, if_false]

/-! ### Zeroed places (R275) -/

def State.withRimMem (s : State) (m : Mem) : State := { s with rim := { s.rim with mem := m } }

/-- Rim memory after the parts of rim slot `slot` are cleared in every layer region of the home of keeper r. -/
def State.rimSlotCleared (s : State) (r slot : Nat) : Mem :=
  let c := (s.keeper r).csplit
  (s.homeRegions r).foldl (fun m t => (List.range c).foldl (fun m j => memClear m (partRim t.2 c (s.prows t.1) slot j) (1024 * s.prows t.1)) m) s.rim.mem

/-- A slot that is zeroed in every layer region returns to its pool. -/
theorem State.zeroReported_of_slot {z : ZeroOrder} (hz : (s.keeper r).zeroing[i]? = some z) (hslot : z.rim = false) :
    s.zeroReported r i = ((s.mapParts r z.grp fun t q _ _ sl => memClear sl (1024 * t.slotRow q z.slot) (1024 * t.prows q)).setKeeper r
      { s.keeper r with zeroing := (s.keeper r).zeroing.eraseIdx i }).publishKeeper r := by
  simp only [State.zeroReported, hz, hslot, Bool.false_eq_true, if_false]

/-- So does a rim slot; clearing changes rim memory alone, so that each part is cleared where it lay before. -/
theorem State.zeroReported_of_rim {z : ZeroOrder} (hz : (s.keeper r).zeroing[i]? = some z) (hrim : z.rim = true) :
    s.zeroReported r i = ((s.withRimMem (s.rimSlotCleared r z.slot)).setKeeper r
      { s.keeper r with zeroing := (s.keeper r).zeroing.eraseIdx i }).publishKeeper r := by
  have hparts := List.foldl_hom (l := s.homeRegions r) (init := s.rim.mem) s.withRimMem
    (g₁ := fun m t => (List.range (s.keeper r).csplit).foldl
      (fun m j => memClear m (partRim t.2 (s.keeper r).csplit (s.prows t.1) z.slot j) (1024 * s.prows t.1)) m)
    (g₂ := fun u t => (List.range (s.keeper r).csplit).foldl
      (fun u j => u.withRimMem (memClear u.rim.mem (partRim t.2 (s.keeper r).csplit (u.prows t.1) z.slot j) (1024 * u.prows t.1))) u)
    fun m t => List.foldl_hom s.withRimMem fun m j => rfl
  simp only [State.zeroReported, hz, hrim, if_true]
  exact congrArg (fun u => (State.setKeeper u r _).publishKeeper r) hparts

end

/-! ### The list engine (R280, R282) -/

section
variable {s : State} {r : Nat}

/-- The engine of region r presents the descriptor at which its walk stands. -/
def State.presentListed (s : State) (r : Nat) : State × Bool :=
  let le := (s.region r).le
  s.presentEmission r le.ring (s.pageDesc r le.bonded le.addr le.k) true

/-- Without a credit the walk stays where it is. -/
theorem State.walkList_of_refused (hrefused : (s.presentListed r).2 = false) (n : Nat) : s.walkList r (n + 1) = (s.presentListed r).1 := by
  rw [State.walkList]
  exact if_pos (c := (!(s.presentListed r).2) = true) (by simp [hrefused])

/-- The walk ends with the end-of-list descriptor. -/
theorem State.walkList_of_end (hend : s.listField r (s.region r).le.bonded ((s.region r).le.addr + 12) 2 ≤ (s.region r).le.k)
    (hassist : (s.region r).le.assist = none) (htaken : (s.presentListed r).2 = true) (n : Nat) :
    s.walkList r (n + 1) = ((s.presentListed r).1.bump (Reg.RGNW_LE_STAT r) 15 0).modRegion r fun g => { g with le := ListEngine.idle } := by
  rw [State.walkList]
  refine (if_neg (c := (!(s.presentListed r).2) = true) (by simp [htaken])).trans ((if_pos hend).trans ?_)
  rw [hassist]
  rfl

end

/-- Settles O23 with a lemma for each completion and one for each way in which a walk's step ends. That a copy and a move read the page when their
completion comes is deduced (notes/assumptions/60.md), as is that a list engine that finds no room keeps its k (64.md). -/
theorem keeperCompletions : Obligations.KeeperCompletions := by
  intro s r page i v
  refine ⟨fun m x y hm hx hy => congrArg Host.Outcome.next (State.copyDone_of_found hm hx hy),
    fun m x hm hx hpins => congrArg Host.Outcome.next (State.moveDone_of_found hm hx hpins),
    fun z hz hslot => congrArg Host.Outcome.next (State.zeroReported_of_slot hz hslot),
    fun z hz hrim => congrArg Host.Outcome.next (State.zeroReported_of_rim hz hrim), fun hpow hroom => ?present, fun hpow hfull => ?refused,
    fun hpow hbusy => ?dropped, fun hpow hidle => ?started, fun hbusy hend hassist htaken => ?ended, fun hbusy hrefused => ?waits⟩
  all_goals refine congrArg Host.Outcome.next ?_
  case present => exact (if_neg hpow).trans (if_neg (Nat.not_le.2 hroom))
  case refused => exact (if_neg hpow).trans (if_pos hfull)
  case dropped => exact (if_neg hpow).trans (if_pos hbusy)
  case started => exact (if_neg hpow).trans (if_neg (Bool.eq_false_iff.1 hidle))
  case ended => exact (if_pos hbusy).trans (State.walkList_of_end hend hassist htaken 65536)
  case waits => exact (if_pos hbusy).trans (State.walkList_of_refused hrefused 65536)

end Sys2Proof.Machine

/-! SUPPORT. The statements of chapter 11's family: admission (O24), the other commands of sequences (O25), adapters (O26), passes (O27), accounts and energy
(O28), and the output ring (O29). -/

namespace Sys2Proof.Machine

/-! ### Tables of the serving unit -/

/-- An entry written is found again, in any table. -/
theorem tabFind_tabPut_self {α : Type} (t : Tab α) (k : Nat) (x : α) : tabFind (tabPut t k (some x)) k = some x := by
  induction t with
  | nil => simp [tabPut, tabFind]
  | cons a r ih =>
    obtain ⟨j, w⟩ := a
    rw [tabPut_cons]
    split_ifs with hlt heq
    · simp [tabFind]
    · simp [tabFind]
    · rw [tabFind, if_neg (Ne.symm heq), ih]

/-- A value that differs from the default reads as it was written, in any table. -/
theorem tabGet_tabSet_self {α : Type} [DecidableEq α] {d : α} (t : Tab α) (k : Nat) {x : α} (hx : x ≠ d) : tabGet d (tabSet d t k x) k = x := by
  rw [tabGet, tabSet, if_neg hx, tabFind_tabPut_self, Option.getD_some]

@[simp] theorem State.seq_setSeq_self (s : State) (i : Nat) (x : Seq) : (s.setSeq i (some x)).seq i = some x := tabFind_tabPut_self _ _ _

@[simp] theorem State.publishPrefix_srv (s : State) (p n : Nat) : (s.publishPrefix p n).srv = s.srv := by
  rw [State.publishPrefix]
  split_ifs <;> rfl

/-! ### ADMIT (O24) -/

/-- The first check that fails ends ADMIT with its status. -/
theorem execAdmit_of_error {s u : State} {p : Nat} {e : Bytes} (hop : byteAt e 0 = 1) (htake : s.takeRing p false e = some u) {n : Nat}
    (hentry : u.admitEntry p e = .error n) (hn : n ≠ 5) : execAdmit p e s = .next (u.finish p e n) := by
  simp [execAdmit, hop, htake, hentry, hn]

section
variable {s u t : State} {p i : Nat} {e : Bytes} (hop : byteAt e 0 = 1) (htake : s.takeRing p false e = some u) (hentry : u.admitEntry p e = .ok (i, t))
include hop htake hentry

/-- An entry admitted with a prompt waits for it. -/
theorem execAdmit_of_prompt (hplen : leAt e 12 4 ≠ 0) : execAdmit p e s = .next t := by
  simp [execAdmit, hop, htake, hentry, hplen]

/-- One that only continues what a handle holds is ready. -/
theorem execAdmit_of_no_prompt (hplen : leAt e 12 4 = 0) {z : Seq} (hz : t.seq i = some z) :
    execAdmit p e s = .next ((t.setSeq i (some { z with state := 2 })).cmdAnswer p e 0 (leBytes 2 i)) := by
  simp [execAdmit, hop, htake, hentry, hplen, hz]

end

/-! The checks of R295 in their order: a serving partition, an identifier, the account, its credits, the adapter, the parameters. -/

section
variable {u : State} {p : Nat} {e : Bytes}

theorem State.admitEntry_of_not_serving (hsv : u.servingRec p = none) : u.admitEntry p e = .error 9 := by
  rw [State.admitEntry, hsv]

theorem State.admitEntry_of_full {sv : ServingRec} (hsv : u.servingRec p = some sv)
    (hfull : u.freeSeq = none ∨ ((u.part p).seqmax ≠ 0 ∧ (u.part p).seqmax ≤ (u.seqsOf p).length)) : u.admitEntry p e = .error 1 := by
  rw [State.admitEntry, hsv]
  cases hfree : u.freeSeq with
  | none => rfl
  | some i => exact if_pos (hfull.resolve_left (by simp [hfree]))

/-- Where admission is the hardware's, the account has too few credits for the prompt. -/
def State.admitShort (u : State) (p : Nat) (e : Bytes) : Prop :=
  (!(u.hostMode p 0)) = true ∧ (u.acct (leAt e 2 2 % 4096)).led.bal < leAt e 12 4

/-- ADMIT asks for an adapter that the partition does not have. -/
def State.admitUnadapted (u : State) (p : Nat) (e : Bytes) : Prop :=
  decide (byteAt e 1 / 64 % 2 = 1) = true ∧ (u.activeSlot p (leAt e 4 2)).isNone = true

section
variable {sv : ServingRec} {i : Nat} (hsv : u.servingRec p = some sv) (hfree : u.freeSeq = some i)
  (hcount : ¬((u.part p).seqmax ≠ 0 ∧ (u.part p).seqmax ≤ (u.seqsOf p).length))
include hsv hfree hcount

theorem State.admitEntry_of_account (hacct : (u.acct (leAt e 2 2 % 4096)).en = false ∨ (u.acct (leAt e 2 2 % 4096)).key ≠ (u.part p).key) :
    u.admitEntry p e = .error 2 := by
  rw [State.admitEntry, hsv, hfree]
  exact (if_neg hcount).trans (if_pos hacct)

variable (hacct : ¬((u.acct (leAt e 2 2 % 4096)).en = false ∨ (u.acct (leAt e 2 2 % 4096)).key ≠ (u.part p).key))
include hacct

theorem State.admitEntry_of_credits (hshort : u.admitShort p e) : u.admitEntry p e = .error 3 := by
  rw [State.admitEntry, hsv, hfree]
  exact (if_neg hcount).trans ((if_neg hacct).trans (if_pos hshort))

variable (hfunds : ¬u.admitShort p e)
include hfunds

theorem State.admitEntry_of_no_adapter (hbare : u.admitUnadapted p e) : u.admitEntry p e = .error 4 := by
  rw [State.admitEntry, hsv, hfree]
  exact (if_neg hcount).trans ((if_neg hacct).trans ((if_neg hfunds).trans (if_pos hbare)))

variable (hadapter : ¬u.admitUnadapted p e)
include hadapter

theorem State.admitEntry_of_params (hparams : byteAt e 1 < 128 ∧ u.admitBad p sv e = true) : u.admitEntry p e = .error 7 := by
  rw [State.admitEntry, hsv, hfree]
  exact (if_neg hcount).trans ((if_neg hacct).trans ((if_neg hfunds).trans ((if_neg hadapter).trans (if_pos hparams))))

end

/-- The checks of ADMIT e that come before the sequence has a home: serving record sv, free identifier i, and none of the statuses 1 to 4 and 7. -/
structure AdmitChecked (u : State) (p : Nat) (e : Bytes) (sv : ServingRec) (i : Nat) : Prop where
  serving : u.servingRec p = some sv
  free : u.freeSeq = some i
  count : ¬((u.part p).seqmax ≠ 0 ∧ (u.part p).seqmax ≤ (u.seqsOf p).length)
  account : ¬((u.acct (leAt e 2 2 % 4096)).en = false ∨ (u.acct (leAt e 2 2 % 4096)).key ≠ (u.part p).key)
  funds : ¬u.admitShort p e
  adapter : ¬u.admitUnadapted p e
  params : ¬(byteAt e 1 < 128 ∧ u.admitBad p sv e = true)

/-- The sequence of ADMIT e before it has a home. -/
abbrev State.admitSeq (u : State) (p : Nat) (e : Bytes) : Seq := newSeq p e !(u.hostMode p 0)

/-- The state in which the credits of the prompt are reserved. -/
abbrev State.admitReserved (u : State) (p : Nat) (e : Bytes) : State :=
  if !(u.hostMode p 0) then u.ledger (u.admitSeq p e).account (Ledger.reserve (leAt e 12 4)) else u

/-- Sequence y of identifier i takes its reference of the adapter in `slot`, when it has one. -/
def State.bindAdapter (t : State) (ad : Bool) (slot : Option Nat) (i : Nat) (y : Seq) : State :=
  if ad then (t.setAdapter (slot.getD 0) { t.adapter (slot.getD 0) with refs := (t.adapter (slot.getD 0)).refs + 1 }).setSeq i
    (some { y with adapter := some (slot.getD 0, (t.adapter (slot.getD 0)).gen) }) else t

theorem State.bindAdapter_seq {t : State} {i : Nat} {y : Seq} (hy : t.seq i = some y) (ad : Bool) (slot : Option Nat) :
    ∃ z, (t.bindAdapter ad slot i y).seq i = some z := by
  cases ad with
  | false => exact ⟨y, hy⟩
  | true => exact ⟨_, State.seq_setSeq_self _ _ _⟩

section
variable {sv : ServingRec} {i : Nat} (h : AdmitChecked u p e sv i)
include h

/-! What is left of ADMIT when those checks pass: a home with its pages, the context, room in the ring, and the adapter. -/

theorem AdmitChecked.admitEntry_of_no_pages {n : Nat} (hpages : (u.admitReserved p e).admitPages p sv i e (u.admitSeq p e) = .error n) :
    u.admitEntry p e = .error n := by
  rw [State.admitEntry, h.serving, h.free]
  refine (if_neg h.count).trans ((if_neg h.account).trans ((if_neg h.funds).trans ((if_neg h.adapter).trans ((if_neg h.params).trans ?_))))
  dsimp only
  rw [hpages]

section
variable {t : State} {y : Seq} (hpages : (u.admitReserved p e).admitPages p sv i e (u.admitSeq p e) = .ok t) (hy : t.seq i = some y)
include hpages hy

theorem AdmitChecked.admitEntry_of_pages : u.admitEntry p e =
    if sv.ctxmax < y.len + leAt e 12 4 + y.prm.maxnew then .error 11 else if u.outRoom p = 0 then .error 12
    else .ok (i, t.bindAdapter (decide (byteAt e 1 / 64 % 2 = 1)) (u.activeSlot p (leAt e 4 2)) i y) := by
  rw [State.admitEntry, h.serving, h.free]
  refine (if_neg h.count).trans ((if_neg h.account).trans ((if_neg h.funds).trans ((if_neg h.adapter).trans ((if_neg h.params).trans ?_))))
  have hadapter := h.adapter
  dsimp only
  rw [hpages]
  dsimp only
  rw [hy, State.bindAdapter]
  rw [State.admitUnadapted] at hadapter
  cases had : decide (byteAt e 1 / 64 % 2 = 1) with
  | false => rfl
  | true => cases hslot : u.activeSlot p (leAt e 4 2) with
    | none => exact absurd ⟨had, by rw [hslot]; rfl⟩ hadapter
    | some k => rfl

end

end

/-! ### The home and the pages of a new sequence -/

section
variable {w v : State} {sv : ServingRec} {i : Nat} {x : Seq}

/-- Without a handle: the best home, and one page of it. -/
theorem State.admitPages_of_home (hflags : byteAt e 1 < 128) {r g t : Nat} {a : KAns} (hhome : w.bestHome p x.model = some (r, g))
    (howner : w.ownerOf p x.model r = some t) (hserve : w.kServe t 1 0 g false = (v, a)) :
    w.admitPages p sv i e x =
      if a.status = 0 then .ok (v.setSeq i (some { x with rsel := r, grp := g, list := [{ page := a.page, tent := false }] })) else .error 8 := by
  rw [State.admitPages, if_neg (Nat.not_le.2 hflags), hhome]
  dsimp only
  rw [howner]
  dsimp only
  rw [hserve]

section
variable (hflags : 128 ≤ byteAt e 1) {k n : Nat} {h : Prefix} (hfind : w.findHandle p (BitVec.ofNat 64 (leAt e 24 8)) = (some (k, h), n))
include hflags hfind

theorem State.admitPages_of_other_model (hmodel : h.model ≠ x.model) : w.admitPages p sv i e x = .error 6 := by
  rw [State.admitPages, if_pos hflags, hfind]
  exact if_pos hmodel

variable (hmodel : h.model = x.model)
include hmodel

theorem State.admitPages_of_params (hbad : w.admitBad p sv e = true) : w.admitPages p sv i e x = .error 7 := by
  rw [State.admitPages, if_pos hflags, hfind]
  exact (if_neg (not_not.2 hmodel)).trans (if_pos hbad)

/-- A sequence that continues what handle h holds. -/
def Seq.continues (x : Seq) (h : Prefix) : Seq :=
  { x with rsel := h.rsel, grp := h.grp, len := h.lh, tlen := h.lh, dlen := h.lh, dtlen := h.lh, pending := h.token, list := h.list }

theorem State.admitPages_of_prefix (hbad : w.admitBad p sv e = false) {t : Nat} {v' : State} (howner : w.ownerOf p h.model h.rsel = some t)
    (href : w.refPages t h.list [] = (some v, v')) :
    w.admitPages p sv i e x = .ok ((v.setSeq i (some (x.continues h))).publishPrefix p n) := by
  rw [State.admitPages, if_pos hflags, hfind]
  refine (if_neg (not_not.2 hmodel)).trans ((if_neg (Bool.eq_false_iff.1 hbad)).trans ?_)
  rw [howner]
  dsimp only
  rw [href]
  rfl

end

end

end

/-! ### The prompt (R295) -/

/-- Parameters that pass the checks of an ADMIT without a handle ask for a prompt. -/
theorem leAt_ne_zero_of_admitBad {u : State} {p : Nat} {sv : ServingRec} {e : Bytes} (hflags : byteAt e 1 < 128) (hbad : u.admitBad p sv e = false) :
    leAt e 12 4 ≠ 0 := by
  intro hzero
  simp [State.admitBad, hzero, hflags] at hbad

section
variable {s : State} {q : Nat} {y : Seq} (hy : s.seq q = some y) (hstate : y.state = 0)
include hy hstate

theorem execPromptFetched_of_tokens {toks : List Nat} (hlen : toks.length = y.plen) : execPromptFetched q (some toks) s =
    .next ((s.setSeq q (some { y with prompt := toks.map (· % 2 ^ 32), state := 1 })).complete y.part 1 0 0 (leBytes 4 y.tag.toNat) (leBytes 2 q)) := by
  rw [execPromptFetched, hy]
  exact congrArg _ ((if_neg (not_not.2 hstate)).trans (if_neg (not_not.2 hlen)))

/-- Where the host walks the pages, what the sequence holds of them is given back with the rest. -/
theorem execPromptFetched_of_error (hwalk : s.hostMode y.part 2 = true) : execPromptFetched q none s =
    .next ((s.dropSeq q).complete y.part 1 10 0 (leBytes 4 y.tag.toNat) []) := by
  rw [execPromptFetched, hy]
  refine congrArg _ ((if_neg (not_not.2 hstate)).trans ?_)
  rw [if_pos hwalk]

end

/-- Settles O24: each status by the check of `State.admitEntry` or `State.admitPages` that gives it, then the entry made, and what becomes of its prompt. -/
theorem admissionResults : Obligations.AdmissionResults := by
  intro s u p e toks hop htake
  refine ⟨fun hsv => execAdmit_of_error hop htake (State.admitEntry_of_not_serving hsv) (by decide),
    fun sv hsv hfull => execAdmit_of_error hop htake (State.admitEntry_of_full hsv hfull) (by decide), fun sv i hsv hfree hroom => ?_,
    fun q y hy hstate hlen => execPromptFetched_of_tokens hy hstate hlen, fun q y hy hstate hwalk => execPromptFetched_of_error hy hstate hwalk⟩
  have refused {n : Nat} (hentry : u.admitEntry p e = .error n) (hn : n ≠ 5) : exec (.admitSeq p e) s = .next (u.finish p e n) :=
    execAdmit_of_error hop htake hentry hn
  have hcount : ¬((u.part p).seqmax ≠ 0 ∧ (u.part p).seqmax ≤ (u.seqsOf p).length) := by omega
  refine ⟨fun hacct => refused (State.admitEntry_of_account hsv hfree hcount hacct) (by decide), fun hen hkey => ?_⟩
  have hacct : ¬((u.acct (leAt e 2 2 % 4096)).en = false ∨ (u.acct (leAt e 2 2 % 4096)).key ≠ (u.part p).key) := by simp [hen, hkey]
  refine ⟨fun hhw hbal => refused (State.admitEntry_of_credits hsv hfree hcount hacct ⟨hhw, hbal⟩) (by decide), fun hpaid => ?_⟩
  have hfunds : ¬u.admitShort p e := fun ⟨hhw, hbal⟩ => hpaid.elim (Bool.eq_false_iff.1 · hhw) (Nat.not_le.2 hbal)
  refine ⟨fun had hslot => refused (State.admitEntry_of_no_adapter hsv hfree hcount hacct hfunds ⟨had, Option.isNone_iff_eq_none.2 hslot⟩) (by decide),
    fun hslot => ?_⟩
  have hadapter : ¬u.admitUnadapted p e := fun ⟨had, hnone⟩ => hslot.elim (Bool.eq_false_iff.1 · had) fun hsome =>
    Option.isSome_iff_ne_none.1 hsome (Option.isNone_iff_eq_none.1 hnone)
  refine ⟨fun hflags hbad => refused (State.admitEntry_of_params hsv hfree hcount hacct hfunds hadapter ⟨hflags, hbad⟩) (by decide),
    fun hflags hbad rr g t v a hhome howner hserve => ?home, fun hflags k h n hfind => ?cont⟩
  case home =>
    have hchecked : AdmitChecked u p e sv i := ⟨hsv, hfree, hcount, hacct, hfunds, hadapter, fun hp => Bool.eq_false_iff.1 hbad hp.2⟩
    have hpages := State.admitPages_of_home (sv := sv) (i := i) hflags hhome howner hserve
    refine ⟨fun hstatus => ?_, fun hstatus hlong => ?_, fun hstatus hfits hring => ?_, fun hstatus hfits hring => ?_⟩
    · exact refused (hchecked.admitEntry_of_no_pages (hpages.trans (if_neg hstatus))) (by decide)
    all_goals have hentry := hchecked.admitEntry_of_pages (hpages.trans (if_pos hstatus)) (State.seq_setSeq_self _ _ _)
    · exact refused (hentry.trans (if_pos (lt_of_lt_of_eq hlong (by simp [newSeq])))) (by decide)
    · exact refused (hentry.trans ((if_neg (Nat.not_lt.2 (le_of_eq_of_le (by simp [newSeq]) hfits))).trans (if_pos hring))) (by decide)
    · exact execAdmit_of_prompt hop htake
        (hentry.trans ((if_neg (Nat.not_lt.2 (le_of_eq_of_le (by simp [newSeq]) hfits))).trans (if_neg hring))) (leAt_ne_zero_of_admitBad hflags hbad)
  case cont =>
    have hchecked : AdmitChecked u p e sv i := ⟨hsv, hfree, hcount, hacct, hfunds, hadapter, fun hp => Nat.not_lt.2 hflags hp.1⟩
    refine ⟨fun hmodel => refused (hchecked.admitEntry_of_no_pages (State.admitPages_of_other_model hflags hfind hmodel)) (by decide),
      fun hmodel hbad => refused (hchecked.admitEntry_of_no_pages (State.admitPages_of_params hflags hfind hmodel hbad)) (by decide),
      fun hmodel hbad t v v' howner href hfits hring => ?_⟩
    have hseq : ((v.setSeq i (some ((u.admitSeq p e).continues h))).publishPrefix p n).seq i = some ((u.admitSeq p e).continues h) := by
      rw [State.seq, State.publishPrefix_srv, ← State.seq, State.seq_setSeq_self]
    have hentry := (hchecked.admitEntry_of_pages (State.admitPages_of_prefix hflags hfind hmodel hbad howner href) hseq).trans
      ((if_neg (Nat.not_lt.2 hfits)).trans (if_neg hring))
    refine ⟨execAdmit_of_prompt hop htake hentry, fun hplen => ?_⟩
    obtain ⟨z, hz⟩ := State.bindAdapter_seq hseq (decide (byteAt e 1 / 64 % 2 = 1)) (u.activeSlot p (leAt e 4 2))
    exact ⟨z, hz, execAdmit_of_no_prompt hop htake hentry hplen hz⟩

/-! ### Handles (R283, R284) -/

section
variable {s : State} {p k n : Nat} {h : Long} {y : Prefix}

theorem State.createHandle_of_used {i lh tok : Nat} {x : Seq} (hx : s.liveSeq p i = some x) (hfind : s.findHandle p h = (some (k, y), n)) :
    s.createHandle p h i lh tok = (s.publishPrefix p n, 14) := by
  rw [State.createHandle, hx]
  dsimp only
  rw [hfind]

theorem State.deleteHandle_status_of_found (hfind : s.findHandle p h = (some (k, y), n)) : (s.deleteHandle p h).2 = 0 := by
  rw [State.deleteHandle, hfind]

theorem State.deleteHandle_status_of_unknown (hfind : s.findHandle p h = (none, n)) : (s.deleteHandle p h).2 = 5 := by
  rw [State.deleteHandle, hfind]

/-- PREFIX_CREATE when no create is held for the sequence (R284). -/
theorem execPrefixCreate_of_none_held {q lh tok : Nat} {sv : ServingRec} {x : Seq} (hsv : s.servingRec p = some sv) (hx : s.liveSeq p q = some x)
    (hlen : x.tlen = x.len) (hheld : ∀ y ∈ (s.part p).heldCreates, y.2.1 ≠ q) :
    execPrefixCreate p h q lh tok s = .next (s.createHandle p h q lh tok).1 := by
  rw [execPrefixCreate, hsv, hx]
  refine congrArg _ ((if_neg (not_not.2 hlen)).trans (if_neg ?_))
  simpa only [List.any_eq_true, not_exists, not_and, decide_eq_true_eq] using hheld

end

/-! ### Commands of sequences (O25) -/

section
variable {s u : State} {p : Nat} {e bitmap : Bytes} (htake : s.takeRing p false e = some u)
include htake

/-! A partition that does not serve -/

section
variable (hsv : u.servingRec p = none)
include hsv

theorem execAbort_of_not_serving (hop : byteAt e 0 = 2) : execAbort p e s = .next (u.finish p e 9) := by simp [execAbort, hop, htake, hsv]
theorem execMask_of_not_serving (hop : byteAt e 0 = 3) : execMask p e (some bitmap) s = .next (u.finish p e 9) := by simp [execMask, hop, htake, hsv]
theorem execChoose_of_not_serving (hop : byteAt e 0 = 8) : execChoose p e s = .next (u.finish p e 9) := by simp [execChoose, hop, htake, hsv]
theorem execHcreate_of_not_serving (hop : byteAt e 0 = 6) : execHcreate p e s = .next (u.finish p e 9) := by simp [execHcreate, hop, htake, hsv]
theorem execHdelete_of_not_serving (hop : byteAt e 0 = 7) : execHdelete p e s = .next (u.finish p e 9) := by simp [execHdelete, hop, htake, hsv]

end

section
variable {sv : ServingRec} (hsv : u.servingRec p = some sv)
include hsv

theorem execHdelete_of_serving (hop : byteAt e 0 = 7) : execHdelete p e s =
    .next ((u.deleteHandle p (BitVec.ofNat 64 (leAt e 24 8))).1.finish p e (u.deleteHandle p (BitVec.ofNat 64 (leAt e 24 8))).2) := by
  simp [execHdelete, hop, htake, hsv]

/-! An identifier without a live sequence -/

section
variable (hx : u.liveSeq p (leAt e 2 2 % 16384) = none)
include hx

theorem execAbort_of_no_sequence (hop : byteAt e 0 = 2) : execAbort p e s = .next (u.finish p e 13) := by simp [execAbort, hop, htake, hsv, hx]
theorem execMask_of_no_sequence (hop : byteAt e 0 = 3) : execMask p e (some bitmap) s = .next (u.finish p e 13) := by simp [execMask, hop, htake, hsv, hx]
theorem execChoose_of_no_sequence (hop : byteAt e 0 = 8) : execChoose p e s = .next (u.finish p e 13) := by simp [execChoose, hop, htake, hsv, hx]
theorem execHcreate_of_no_sequence (hop : byteAt e 0 = 6) : execHcreate p e s = .next (u.finish p e 13) := by simp [execHcreate, hop, htake, hsv, hx]

end

/-! A live sequence -/

section
variable {x : Seq} (hx : u.liveSeq p (leAt e 2 2 % 16384) = some x)
include hx

/-- ABORT of a sequence in a pass waits for the commit; of any other it ends the sequence at once (R299). -/
theorem execAbort_of_live (hop : byteAt e 0 = 2) : execAbort p e s = .next (
    if x.state = 3 then (u.setSeq (leAt e 2 2 % 16384) (some { x with aborting := some 4 })).finish p e 0
    else ((u.endSeq (leAt e 2 2 % 16384) 4).finish p e 0).wakeWaiting p) := by
  simp [execAbort, hop, htake, hsv, hx]

/-! MASK (R315) -/

theorem execMask_of_unasked (hop : byteAt e 0 = 3) (hask : x.prm.mask = false ∨ u.nextPos (leAt e 2 2 % 16384) x ≠ some (leAt e 12 4)) :
    execMask p e (some bitmap) s = .next (u.finish p e 20) := by
  simp [execMask, hop, htake, hsv, hx, hask]

section
variable (hmask : x.prm.mask = true) (hpos : u.nextPos (leAt e 2 2 % 16384) x = some (leAt e 12 4))
include hmask hpos

theorem execMask_of_fetch_error (hop : byteAt e 0 = 3) : execMask p e none s = .next (u.finish p e 10) := by
  simp [execMask, hop, htake, hsv, hx, hmask, hpos]

/-- The sequence without a mask for position `pos`. -/
abbrev Seq.unmasked (x : Seq) (pos : Nat) : Seq := { x with masks := x.masks.filter fun m => decide (m.1 ≠ pos) }

/-- A mask takes the place of one held for the same position, in the first unit with room. -/
theorem execMask_of_unit (hop : byteAt e 0 = 3) {q : Nat} (hunit : (u.setSeq (leAt e 2 2 % 16384) (some (x.unmasked (leAt e 12 4)))).maskUnit = some q) :
    execMask p e (some bitmap) s = .next ((((u.setSeq (leAt e 2 2 % 16384) (some (x.unmasked (leAt e 12 4)))).setSeq (leAt e 2 2 % 16384)
      (some { x with masks := (x.unmasked (leAt e 12 4)).masks ++ [(leAt e 12 4, q, bitmap)] })).finish p e 0).wakeWaiting p) := by
  rw [execMask, if_neg (not_not.2 hop), htake]
  dsimp only
  rw [hsv, hx]
  refine congrArg _ ((if_neg (by simp [hmask, hpos])).trans ?_)
  rw [hunit]

end

/-! CHOOSE (R484) -/

section
variable (hop : byteAt e 0 = 8)
include hop

theorem execChoose_of_device_samples (hmode : u.hostMode p 1 = false) : execChoose p e s = .next (u.finish p e 21) := by
  simp [execChoose, hop, htake, hsv, hx, hmode]

variable (hmode : u.hostMode p 1 = true)
include hmode

theorem execChoose_of_bad_token (htok : sv.vocab ≤ leAt e 16 4) : execChoose p e s = .next (u.finish p e 22) := by
  simp [execChoose, hop, htake, hsv, hx, hmode, htok]

/-- The token goes to the sequence's row that awaits it in its pass. -/
theorem execChoose_of_awaiting (htok : leAt e 16 4 < sv.vocab) {y : Pass} {r : Nat}
    (hpass : (u.part p).passes.find? (fun y => decide (x.pass = some y.number)) = some y)
    (hrow : y.awaiting.find? (fun r => decide ((y.rows[r]?).map (·.seq) = some (leAt e 2 2 % 16384))) = some r) :
    execChoose p e s = .next ((u.setPass p { y with
      awaiting := y.awaiting.filter fun q => decide (q ≠ r),
      results := y.results.map fun z => if z.row = r then { z with tok := some (leAt e 16 4) } else z }).finish p e 0) := by
  rw [execChoose, if_neg (not_not.2 hop), htake]
  dsimp only
  rw [hsv, hx]
  refine congrArg _ ((if_neg (by simp [hmode])).trans ((if_neg (Nat.not_le.2 htok)).trans ?_))
  rw [hpass]
  dsimp only
  rw [hrow]

end

/-! HCREATE (R284, R296) -/

/-- The statuses of the handle table come first, then the sequence's own, then a token that does not exist; what passes is held while TLEN differs from LEN. -/
theorem execHcreate_of_live (hop : byteAt e 0 = 6) {h : Long} {lh tok : Nat} (hh : h = BitVec.ofNat 64 (leAt e 24 8)) (hlh : lh = leAt e 12 4)
    (htok : tok = leAt e 16 4) {t : State} {st : Nat} (hcreate : u.createHandle p h (leAt e 2 2 % 16384) lh tok = (t, st)) :
    execHcreate p e s = .next (
      if st = 14 ∨ st = 15 then t.finish p e st
      else if st = 16 ∧ (x.prm.train = true ∨ x.len < lh ∨ lh = 0) then u.finish p e 16
      else if lh < x.len ∧ sv.vocab ≤ tok then u.finish p e 22
      else if x.tlen ≠ x.len then u.modPart p fun y => { y with heldCreates := y.heldCreates ++ [(h, leAt e 2 2 % 16384, lh, tok, leAt e 8 4)] }
      else t.finish p e st) := by
  subst hh hlh htok
  rw [execHcreate, if_neg (not_not.2 hop), htake]
  dsimp only
  rw [hsv, hx]
  dsimp only
  rw [hcreate]

end

end

end

/-- Settles O25: each command by what its entry finds, from the partition's serving record to the sequence and its handle. That HCREATE of length 0 has
status 16 is deduced (notes/assumptions/117.md), as are the order of MASK's statuses and its unit (104.md). -/
theorem sequenceCommands : Obligations.SequenceCommands := by
  intro s u p e bitmap htake
  refine ⟨fun hop hsv => execAbort_of_not_serving htake hsv hop, fun hop hsv => execMask_of_not_serving htake hsv hop,
    fun hop hsv => execChoose_of_not_serving htake hsv hop, fun hop hsv => execHcreate_of_not_serving htake hsv hop,
    fun hop hsv => execHdelete_of_not_serving htake hsv hop, fun sv hsv => ⟨fun hx => ?none, fun hop => ?hdelete, fun x hx => ?live⟩,
    fun sv x q hsv hx hlen hheld => ?create⟩
  case none =>
    exact ⟨execAbort_of_no_sequence htake hsv hx, execMask_of_no_sequence htake hsv hx, execChoose_of_no_sequence htake hsv hx,
      execHcreate_of_no_sequence htake hsv hx⟩
  case hdelete =>
    exact ⟨_, _, rfl, execHdelete_of_serving htake hsv hop, fun k y n hfind => State.deleteHandle_status_of_found hfind,
      fun n hfind => State.deleteHandle_status_of_unknown hfind⟩
  case create =>
    exact ⟨execPrefixCreate_of_none_held hsv hx hlen hheld, fun k y n hfind => congrArg Prod.snd (State.createHandle_of_used hx hfind)⟩
  case live =>
    refine ⟨fun hop hstate => (execAbort_of_live htake hsv hx hop).trans (congrArg _ (if_pos hstate)),
      fun hop hstate => (execAbort_of_live htake hsv hx hop).trans (congrArg _ (if_neg hstate)),
      fun hop hask => execMask_of_unasked htake hsv hx hop hask, fun hop hmask hpos => execMask_of_fetch_error htake hsv hx hmask hpos hop,
      fun hop hmask hpos q hunit => execMask_of_unit htake hsv hx hmask hpos hop hunit,
      fun hop hmode => execChoose_of_device_samples htake hsv hx hop hmode, fun hop hmode htok => execChoose_of_bad_token htake hsv hx hop hmode htok,
      fun hop hmode htok y r hpass hrow => execChoose_of_awaiting htake hsv hx hop hmode htok hpass hrow, fun hop t st hcreate => ?hcreate⟩
    have hexec := execHcreate_of_live htake hsv hx hop rfl rfl rfl hcreate
    refine ⟨fun hst => hexec.trans (congrArg _ (if_pos hst)), fun hst hbad => hexec.trans (congrArg _ ?refused), fun hst hcut htok => hexec.trans (congrArg _ ?token),
      fun hst htok hlen => hexec.trans (congrArg _ ?held), fun hst htok hlen => hexec.trans (congrArg _ ?done)⟩
    case refused => exact (if_neg (by omega)).trans (if_pos ⟨hst, hbad⟩)
    all_goals subst hst
    case token => exact (if_neg (by decide)).trans ((if_neg fun h => absurd h.1 (by decide)).trans (if_pos ⟨hcut, htok⟩))
    all_goals have hwhole : ¬(leAt e 12 4 < x.len ∧ sv.vocab ≤ leAt e 16 4) := by omega
    case held => exact (if_neg (by decide)).trans ((if_neg fun h => absurd h.1 (by decide)).trans ((if_neg hwhole).trans (if_pos hlen)))
    case done => exact (if_neg (by decide)).trans ((if_neg fun h => absurd h.1 (by decide)).trans ((if_neg hwhole).trans (if_neg (not_not.2 hlen))))

/-! ### Adapters (O26) -/

/-- The slot that a load takes is a free one, when there is one. -/
theorem State.freeSlot_finds {s : State} (h : ∃ i, i < 2048 ∧ (s.adapter i).state = 0) :
    ∃ i, s.freeSlot = some i ∧ i < 2048 ∧ (s.adapter i).state = 0 := by
  obtain ⟨i, hi, hlt, hstate⟩ := firstFree_finds (start := Config.pick s.fresh % 2048) (taken := fun i => decide ((s.adapter i).state ≠ 0))
    (by simpa using h)
  exact ⟨i, hi, hlt, by simpa using hstate⟩

theorem State.freeSlot_eq_none {s : State} (h : ∀ i, i < 2048 → (s.adapter i).state ≠ 0) : s.freeSlot = none :=
  firstFree_eq_none (by simpa using h)

theorem State.freeSlot_state {s : State} {i : Nat} (h : s.freeSlot = some i) : (s.adapter i).state = 0 := by
  simpa using List.find?_some h

section
variable {s u : State} {p : Nat} {e m : Bytes} (htake : s.takeRing p false e = some u)
include htake

theorem execAdapterLoad_of_not_serving (hop : byteAt e 0 = 4) (hsv : u.servingRec p = none) :
    execAdapterLoad p e (some m) s = .next (u.finish p e 9) := by
  simp [execAdapterLoad, hop, htake, hsv]

theorem execAdapterDrop_of_not_serving (hop : byteAt e 0 = 5) (hsv : u.servingRec p = none) : execAdapterDrop p e s = .next (u.finish p e 9) := by
  simp [execAdapterDrop, hop, htake, hsv]

section
variable {sv : ServingRec} (hsv : u.servingRec p = some sv)
include hsv

/-! ADAPTER_LOAD (R307, R308) -/

section
variable (hop : byteAt e 0 = 4)
include hop

theorem execAdapterLoad_of_fetch_error : execAdapterLoad p e none s = .next (u.finish p e 10) := by
  simp [execAdapterLoad, hop, htake, hsv]

theorem execAdapterLoad_of_free_slot {i : Nat} (hslot : u.freeSlot = some i) :
    execAdapterLoad p e (some m) s = .next ({ u with fresh := u.fresh + 1 }.loadSlot p i e m) := by
  simp [execAdapterLoad, hop, htake, hsv, hslot]

variable (hslot : u.freeSlot = none)
include hslot

/-- A load with FORCE ends the sequences of the active slot and takes it. -/
theorem execAdapterLoad_of_force (hforce : byteAt e 1 % 2 = 1) {i : Nat} (hactive : u.activeSlot p (leAt e 4 2) = some i) :
    execAdapterLoad p e (some m) s = .next (
      (((((u.srv.seqs.filter fun q => decide ((q.2.adapter.map (·.1)) = some i)).map (·.1)).foldl (fun (s : State) q => s.endSeq q 5) u).modPart p
        fun x => { x with adDir := tabDrop x.adDir (leAt e 4 2) }).loadSlot p i e m)) := by
  simp only [execAdapterLoad, hop, htake, hsv, hslot, hforce, hactive]
  rfl

theorem execAdapterLoad_of_force_absent (hforce : byteAt e 1 % 2 = 1) (hactive : u.activeSlot p (leAt e 4 2) = none) :
    execAdapterLoad p e (some m) s = .next (u.finish p e 17) := by
  simp [execAdapterLoad, hop, htake, hsv, hslot, hforce, hactive]

/-- Without it the load waits, while the queue of the partition has room. -/
theorem execAdapterLoad_of_wait (hforce : byteAt e 1 % 2 = 0) : execAdapterLoad p e (some m) s =
    .next (if 16 ≤ (u.part p).adQueue.length then u.finish p e 18 else u.modPart p fun x => { x with adQueue := x.adQueue ++ [(e, m)] }) := by
  simp [execAdapterLoad, hop, htake, hsv, hslot, hforce]

end

/-! ADAPTER_DROP (R307) -/

theorem execAdapterDrop_of_absent (hop : byteAt e 0 = 5) (hactive : u.activeSlot p (leAt e 4 2) = none) :
    execAdapterDrop p e s = .next (u.finish p e 0) := by
  simp [execAdapterDrop, hop, htake, hsv, hactive]

theorem execAdapterDrop_of_active (hop : byteAt e 0 = 5) {i : Nat} (hactive : u.activeSlot p (leAt e 4 2) = some i) :
    execAdapterDrop p e s = .next ((((u.setAdapter i { u.adapter i with state := 3 }).settleAdapter i).modPart p
      fun x => { x with adDir := tabDrop x.adDir (leAt e 4 2) }).finish p e 0) := by
  simp [execAdapterDrop, hop, htake, hsv, hactive]

end

end

/-! The queue (R308) -/

section
variable {s : State} {p : Nat}

theorem execAdapterLoadDequeue_of_waiting {e m : Bytes} {t : List (Bytes × Bytes)} {i : Nat} (hqueue : (s.part p).adQueue = (e, m) :: t)
    (hslot : s.freeSlot = some i) : execAdapterLoadDequeue p s =
      .next ({ s.modPart p fun x => { x with adQueue := t } with fresh := s.fresh + 1 }.loadSlot p i e m) := by
  rw [execAdapterLoadDequeue, hqueue, hslot]

theorem execAdapterLoadDequeue_of_empty (hqueue : (s.part p).adQueue = []) : execAdapterLoadDequeue p s = .next s.adapterStart := by
  rw [execAdapterLoadDequeue, hqueue]

end

/-! The end of an adapter's ingest (R307) -/

section
variable {s : State} {i : Nat}

/-- The ingest engine has loaded into slot i, and is idle again. -/
structure AdapterIngest (s : State) (i : Nat) : Prop where
  loading : (s.adapter i).state = 1
  purpose : s.ing.purpose = 1
  slot : s.ing.slot = i

/-- The slot before the new one retires. -/
def State.retireActive (s : State) (p adid : Nat) : State :=
  match s.activeSlot p adid with
  | some o => (s.setAdapter o { s.adapter o with state := 3 }).settleAdapter o
  | none => s

theorem State.retireActive_of_some {p adid o : Nat} (h : s.activeSlot p adid = some o) :
    s.retireActive p adid = (s.setAdapter o { s.adapter o with state := 3 }).settleAdapter o := by
  rw [State.retireActive, h]

theorem State.retireActive_of_none {p adid : Nat} (h : s.activeSlot p adid = none) : s.retireActive p adid = s := by
  rw [State.retireActive, h]

theorem AdapterIngest.exec_of_done (h : AdapterIngest s i) (hstate : s.fld Reg.LDR_ING_STAT 31 29 = 3) :
    execAdapterIngestDone i 0 s = .next
      ((((({ s with ing := Ingest.idle } : State).setAdapter i { s.adapter i with state := 2 }).retireActive (s.adapter i).part (s.adapter i).adid).modPart
        (s.adapter i).part fun y => { y with adDir := tabAdd y.adDir (s.adapter i).adid i }).complete (s.adapter i).part 4 0 0
          (leBytes 4 (s.adapter i).tag.toNat) []).adapterStart := by
  exact congrArg _ ((if_neg (by simp [h.loading, h.purpose, h.slot, hstate])).trans (if_pos rfl))

theorem AdapterIngest.exec_of_failed (h : AdapterIngest s i) (hstate : s.fld Reg.LDR_ING_STAT 31 29 = 4) {st : Nat}
    (hst : st = s.fld Reg.LDR_ING_STAT 27 24) (hne : st ≠ 0) :
    execAdapterIngestDone i st s = .next
      ((({ s with ing := Ingest.idle } : State).setAdapter i { Adapter.zero with gen := (s.adapter i).gen }).complete (s.adapter i).part 4 19 0
        (leBytes 4 (s.adapter i).tag.toNat) (zeros 4 ++ leBytes 1 st)).adapterStart := by
  exact congrArg _ ((if_neg (by simp [h.loading, h.purpose, h.slot, hstate, hst])).trans (if_neg hne))

end

/-- Settles O26: a load by the slot it finds, a drop by the active slot, and the end of an ingest by its status. Which free slot a load takes, and that it
waits for the one engine, is deduced (notes/assumptions/115.md), as is that the drop of an absent adapter completes with status 0 (116.md). -/
theorem adapterCommands : Obligations.AdapterCommands := by
  intro s u p e m htake
  refine ⟨fun hop hsv => execAdapterLoad_of_not_serving htake hop hsv, fun hop hsv => execAdapterDrop_of_not_serving htake hop hsv,
    fun sv hsv => ⟨fun hop => execAdapterLoad_of_fetch_error htake hsv hop, fun hop hfree => ?free, fun hop hused => ?used,
      fun hop hactive => execAdapterDrop_of_absent htake hsv hop hactive, fun i hop hactive => execAdapterDrop_of_active htake hsv hop hactive⟩,
    fun q e' m' t i hqueue hslot => ⟨State.freeSlot_state hslot, execAdapterLoadDequeue_of_waiting hqueue hslot⟩,
    fun q hqueue => execAdapterLoadDequeue_of_empty hqueue, fun i st hloading hpurpose hslot => ?ingest⟩
  case free =>
    obtain ⟨i, hslot, hlt, hstate⟩ := State.freeSlot_finds hfree
    exact ⟨i, hlt, hstate, execAdapterLoad_of_free_slot htake hsv hop hslot⟩
  case used =>
    have hslot := State.freeSlot_eq_none hused
    have hwait := execAdapterLoad_of_wait (m := m) htake hsv hop hslot
    exact ⟨fun hforce hactive => execAdapterLoad_of_force_absent htake hsv hop hslot hforce hactive,
      fun i hforce hactive => execAdapterLoad_of_force htake hsv hop hslot hforce hactive,
      fun hforce hfull => (hwait hforce).trans (congrArg _ (if_pos hfull)),
      fun hforce hroom => (hwait hforce).trans (congrArg _ (if_neg (Nat.not_le.2 hroom)))⟩
  case ingest =>
    have h : AdapterIngest s i := ⟨hloading, hpurpose, hslot⟩
    refine ⟨fun hstate hst o hactive => ?_, fun hstate hst hactive => ?_, fun hstate hst hne => h.exec_of_failed hstate hst hne⟩
    all_goals subst hst
    · rw [← State.retireActive_of_some hactive]
      exact h.exec_of_done hstate
    · exact (h.exec_of_done hstate).trans (by rw [State.retireActive_of_none hactive])

/-! ### Batches (O27) -/

section
variable {s : State} {p : Nat} {g : Bytes} {sv : ServingRec}

/-- The answer to batch request g of pass `pass`: n rows, and the buffer (u, k). -/
def State.batchAnswer (s : State) (p : Nat) (g : Bytes) (pass n u k : Nat) (rows : Bytes) : State :=
  s.reply p (BitVec.ofNat 64 (leAt g 0 8)) (byteAt g 10 % 16) (leBytes 4 pass ++ leBytes 1 n ++ leBytes 1 u ++ leBytes 1 k ++ zeros 25 ++ rows)

section
variable (hsv : s.servingRec p = some sv)
include hsv

theorem State.batchRequest_of_frozen (hfrozen : s.srv.frozen = true) : s.batchRequest p g = s := by
  rw [State.batchRequest, hsv]
  exact if_pos hfrozen

/-- With the ring off, or no row wanted, no sequence is considered. -/
theorem State.batchRequest_of_none (hrun : s.srv.frozen = false)
    (hnone : flag (s.rd (Reg.SRV_OUT_CFG p)) 31 = false ∨ min (byteAt g 9) sv.maxrows = 0) :
    s.batchRequest p g = s.batchAnswer p g (s.part p).nextPass 0 0 0 [] := by
  have hok : (flag (s.rd (Reg.SRV_OUT_CFG p)) 31 && decide (0 < min (byteAt g 9) sv.maxrows)) = false := by
    rcases hnone with hoff | hzero
    · rw [hoff, Bool.false_and]
    · simp [hzero]
  rw [State.batchRequest, hsv]
  refine (if_neg (Bool.eq_false_iff.1 hrun)).trans ?_
  dsimp only
  rw [hok]
  rfl

end

end

/-! One decode row (R297, R298) -/

/-- The row of sequence i that decodes. -/
def Seq.decodeRow (x : Seq) (i : Nat) : PassRow := { seq := i, role := 2, node := 0, pos := x.len, tok := x.pending }

/-- A sequence that decodes without speculation takes one sampled row, for one credit and one record. -/
theorem State.plan_of_decode {s : State} {sv : ServingRec} {x : Seq} (hprompt : x.prompt = []) (hspec : x.prm.spec = 0) :
    s.plan sv x = { rows := [(2, 0, x.len)], sampled := true, credits := 1, begin_ := none, records := 1 } := by
  rw [State.plan, if_neg (not_not.2 hprompt), if_pos hspec]

/-- Sequence i, which is x, is ready to decode for model `model`: no cause makes it wait, and pass buffer (u, k) is free for it. -/
structure DecodeReady (s : State) (p : Nat) (sv : ServingRec) (model i : Nat) (x : Seq) (u k : Nat) : Prop where
  found : s.seq i = some x
  state : x.state = 2
  prompt : x.prompt = []
  spec : x.prm.spec = 0
  model_eq : x.model = model
  causes : (s.setSeq i (some x)).causes sv i x = []
  mayRun : (s.setSeq i (some x)).mayRun p = true
  buf : (s.setSeq i (some x)).freeBuf (s.part p).smpRound = some (u, k)

/-- Sequence x as its decode row is taken in pass `pass`: STATE 3, one more credit held for the pass, and two records of the ring. -/
def Seq.decodeTaken (x : Seq) (pass : Nat) : Seq :=
  { x with state := 3, wait := 0, pass := some pass, heldPass := x.heldPass + (if x.budgeted then 1 else 0), ringHeld := 2 }

/-- Account a with n more rows of partition p in this millisecond. -/
def State.countRows (s : State) (a p n : Nat) : State :=
  s.setAcct a { s.acct a with rowsMs := tabAdd (s.acct a).rowsMs p ((tabFind (s.acct a).rowsMs p).getD 0 + n) }

/-- The state in which a batch has taken the decode row of sequence i. -/
def State.decodeTaken (s : State) (p model pass i : Nat) (x : Seq) : State :=
  ((((if x.budgeted then (s.setSeq i (some x)).ledger x.account (Ledger.reserve 1) else s.setSeq i (some x)).setSeq i
    (some (x.decodeTaken pass))).countRows x.account p 1).modPart p fun q => { q with lastTaken := tabAdd q.lastTaken model (i + 1) })

section
variable {s : State} {p model i u k : Nat} {sv : ServingRec} {x : Seq} (h : DecodeReady s p sv model i x u k)
include h

theorem DecodeReady.consider {want pass : Nat} (hwant : 0 < want) :
    Batch.consider { rows := [], buf := none, noBuf := false, st := s } p sv model want pass i =
      { rows := [x.decodeRow i], buf := some (u, k), noBuf := false, st := s.decodeTaken p model pass i x } := by
  obtain ⟨hfound, hstate, hprompt, hspec, rfl, hcauses, hrun, hbuf⟩ := h
  have hplan : (s.setSeq i (some x)).plan sv x = _ := State.plan_of_decode hprompt hspec
  have hbuf : (s.setSeq i (some x)).freeBuf ((s.setSeq i (some x)).part p).smpRound = some (u, k) := hbuf
  cases hbudget : x.budgeted <;>
    simp [Batch.consider, hfound, hstate, hplan, hcauses, hrun, hbuf, Nat.not_lt.2 hwant, hbudget, State.decodeTaken, Seq.decodeTaken, State.countRows,
      Seq.decodeRow, Seq.inputToken]

end

/-- The state in which a pass of the one row is under way, with buffer (u, k). -/
def State.passOpened (s : State) (p model pass u k : Nat) (row : PassRow) : State :=
  let t := s.modPart p fun q => { q with
    nextPass := (pass + 1) % 2 ^ 32, smpRound := (u + 1) % 8,
    passes := q.passes ++ [{ number := pass, model := model, rows := [row], unit := some (u, k), results := [], fallbacks := 0, failed := false, awaiting := [] }] }
  t.setUnit u { t.unit u with
    bufs := tabAdd (t.unit u).bufs k { part := p, pass := pass, rows := [(0, SampRow.empty)], firstFlit := none, lastSent := 0, timedOut := false } }

/-- Wherever the search starts, one sequence alone is the whole order. -/
theorem filter_le_append_filter_lt_singleton (a i : Nat) : ([i].filter fun j => decide (a ≤ j)) ++ ([i].filter fun j => decide (j < a)) = [i] := by
  rcases Nat.lt_or_ge i a with hlt | hge
  · simp [hlt, Nat.not_le.2 hlt]
  · simp [hge, Nat.not_lt.2 hge]

/-- A batch for a partition whose one sequence is ready to decode. -/
theorem DecodeReady.batchRequest {s : State} {p i u k : Nat} {g : Bytes} {sv : ServingRec} {x : Seq} (h : DecodeReady s p sv (byteAt g 8) i x u k)
    (hsv : s.servingRec p = some sv) (hrun : s.srv.frozen = false) (hon : flag (s.rd (Reg.SRV_OUT_CFG p)) 31 = true)
    (hwant : 0 < min (byteAt g 9) sv.maxrows) (hseqs : s.seqsOf p = [i]) :
    s.batchRequest p g =
      let t := (s.decodeTaken p (byteAt g 8) (s.part p).nextPass i x).passOpened p (byteAt g 8) (s.part p).nextPass u k (x.decodeRow i)
      t.batchAnswer p g (s.part p).nextPass 1 u k (t.rowBytes (x.decodeRow i)) := by
  have hok : (flag (s.rd (Reg.SRV_OUT_CFG p)) 31 && decide (0 < min (byteAt g 9) sv.maxrows)) = true := by rw [hon, decide_eq_true hwant, Bool.and_true]
  rw [State.batchRequest, hsv]
  refine (if_neg (Bool.eq_false_iff.1 hrun)).trans ?_
  dsimp only
  rw [hok, if_pos rfl, hseqs, filter_le_append_filter_lt_singleton, List.foldl_cons, List.foldl_nil, h.consider hwant]
  dsimp only
  rw [List.flatMap_singleton]
  rfl

/-! Fallback reports (R91) -/

section
variable {s : State} {p : Nat} {g : Bytes} {sv : ServingRec} (hsv : s.servingRec p = some sv)
include hsv

theorem execFallbackReport_of_pass {y : Pass}
    (hpass : (s.part p).passes.find? (fun y => decide (y.number = leAt g 0 4) && decide (y.model = byteAt g 7)) = some y) : execFallbackReport p g s =
      .next (s.setPass p { y with fallbacks := y.fallbacks + 1, failed := y.failed || decide (byteAt g 6 % 2 = 1) }) := by
  rw [execFallbackReport, hsv, if_neg (by simp), State.fallback, hpass]

theorem execFallbackReport_of_no_pass
    (hpass : (s.part p).passes.find? (fun y => decide (y.number = leAt g 0 4) && decide (y.model = byteAt g 7)) = none) :
    execFallbackReport p g s = .next (s.bump (Reg.SRV_PARTSTAT p) 23 16) := by
  rw [execFallbackReport, hsv, if_neg (by simp), State.fallback, hpass]

end

/-! ### Candidate flits (R310, R311) -/

/-- A flit for a buffer, a space or a length that a sampling unit does not have. -/
def flitBeyond (dsp raddr : Nat) (data : Bytes) : Prop :=
  1 < raddr / 2 ^ 22 % 4 ∨ 1 < dsp ∨ (if dsp = 0 then 32768 else 4096) < raddr % 2 ^ 16 + data.length

section
variable {s : State} {u key src sent dsp raddr : Nat} {data : Bytes} {ce : Bool}

theorem State.candidateFlit_of_beyond (h : flitBeyond dsp raddr data) : s.candidateFlit u key src sent dsp raddr data ce = s.bump (Reg.SMP_ERR u) 15 0 :=
  if_pos h

/-- A flit to a buffer that no pass holds is a violation of the welt's own key. -/
theorem State.candidateFlit_of_no_buffer (hin : ¬flitBeyond dsp raddr data) (hbuf : tabFind (s.unit u).bufs (raddr / 2 ^ 22 % 4) = none) :
    s.candidateFlit u key src sent dsp raddr data ce = (s.bump (Reg.SMP_ERR u) 15 0).violation 5 key src (s.weltId (.sampling u)) 0xFFFF
      ((s.last.phys (((s.lookup (s.weltId (.sampling u))).map fun e => (e.x, e.y)).getD (0, 0)).1
        (((s.lookup (s.weltId (.sampling u))).map fun e => (e.x, e.y)).getD (0, 0)).2).getD 0) 9 := by
  refine (if_neg hin).trans ?_
  rw [hbuf]
  cases s.lookup (s.weltId (.sampling u)) <;> rfl

end

/-! A row takes a flit -/

/-- Row r, not sampled yet, with the flit's granules, and one CE flit more when this is one. -/
def SampRow.takeFlit (r : SampRow) (dsp off : Nat) (data : Bytes) (ce : Bool) : SampRow :=
  { r.take dsp off data with ceCount := r.ceCount + (if ce then 1 else 0), sampled := false }

theorem SampRow.take_ceCount (r : SampRow) (dsp off : Nat) (data : Bytes) : (r.take dsp off data).ceCount = r.ceCount := by
  rw [SampRow.take]
  split_ifs <;> rfl

theorem SampRow.take_sampled (r : SampRow) (dsp off : Nat) (data : Bytes) : (r.take dsp off data).sampled = r.sampled := by
  rw [SampRow.take]
  split_ifs <;> rfl

theorem SampRow.takeFlit_eq {r : SampRow} (hopen : r.sampled = false) (dsp off : Nat) (data : Bytes) (ce : Bool) :
    (if ce then { r.take dsp off data with ceCount := (r.take dsp off data).ceCount + 1 } else r.take dsp off data) = r.takeFlit dsp off data ce := by
  rw [SampRow.takeFlit, ← r.take_ceCount dsp off data, ← hopen, ← r.take_sampled dsp off data]
  cases ce <;> rfl

/-- Buffer `buf` with a flit sent at epoch `sent`. -/
def PassBuf.receive (buf : PassBuf) (now : Long) (sent : Nat) : PassBuf :=
  { buf with firstFlit := some (buf.firstFlit.getD now), lastSent := max buf.lastSent sent }

/-- The buffer's row `row` becomes r, sampled or not. -/
def PassBuf.setRow (buf : PassBuf) (row : Nat) (r : SampRow) (full : Bool) : PassBuf := { buf with rows := tabAdd buf.rows row { r with sampled := full } }

/-- Unit u after a flit to buffer b: the buffer notes it and becomes `buf`, then the unit's buffers become `bufs`. -/
def State.flitTaken (s : State) (u b : Nat) (buf : PassBuf) (bufs : Tab PassBuf) : State :=
  (s.setUnit u { s.unit u with bufs := tabAdd (s.unit u).bufs b buf }).setUnit u { s.unit u with bufs := bufs }

/-- A candidate flit for unit u lands in row r of buffer `buf`: the flit is of the buffer's partition, with serving record sv, which awaits the row in pass y. -/
structure FlitLands (s : State) (u key dsp raddr : Nat) (data : Bytes) (buf : PassBuf) (r : SampRow) (sv : ServingRec) (y : Pass) : Prop where
  within : ¬flitBeyond dsp raddr data
  buffer : tabFind (s.unit u).bufs (raddr / 2 ^ 22 % 4) = some buf
  owner : s.keyOwner key = some buf.part
  row : tabFind buf.rows (raddr / 2 ^ 16 % 64) = some r
  serving : (s.part buf.part).serving = some sv
  pass : s.passOf buf.part u (raddr / 2 ^ 22 % 4) = some y
  unsampled : r.sampled = false
  inTime : buf.timedOut = false

section
variable {s : State} {u key src dsp raddr : Nat} {data : Bytes} {ce : Bool} {buf : PassBuf} {r : SampRow} {sv : ServingRec} {y : Pass}
  (h : FlitLands s u key dsp raddr data buf r sv y)
include h

/-- The flit goes into the row; with the last CE flit the row is sampled, and with the last row the buffer is free. -/
theorem FlitLands.candidateFlit_eq (sent : Nat) {full : Bool} (hfull : decide (sv.nshard ≤ (r.takeFlit dsp (raddr % 2 ^ 16) data ce).ceCount) = full) :
    s.candidateFlit u key src sent dsp raddr data ce =
    let b := raddr / 2 ^ 22 % 4
    let r1 := r.takeFlit dsp (raddr % 2 ^ 16) data ce
    let buf1 := buf.receive s.time sent
    let buf2 := buf1.setRow (raddr / 2 ^ 16 % 64) r1 full
    let t := s.flitTaken u b buf1 (if full && buf2.done then tabDrop (s.unit u).bufs b else tabAdd (s.unit u).bufs b buf2)
    if full then (t.sampleRow buf.part u y (raddr / 2 ^ 16 % 64) r1).armFeedback buf.part y.number (max buf.lastSent sent) else t := by
  have hpass : (s.setUnit u { s.unit u with bufs := tabAdd (s.unit u).bufs (raddr / 2 ^ 22 % 4) (buf.receive s.time sent) }).passOf buf.part u
    (raddr / 2 ^ 22 % 4) = some y := h.pass
  have hsv : ((s.setUnit u { s.unit u with bufs := tabAdd (s.unit u).bufs (raddr / 2 ^ 22 % 4) (buf.receive s.time sent) }).part buf.part).serving = some sv :=
    h.serving
  refine (if_neg h.within).trans ?_
  rw [h.buffer]
  refine (if_neg (not_not.2 h.owner)).trans ?_
  dsimp only
  rw [PassBuf.receive] at hpass hsv
  rw [h.row, hpass, hsv]
  refine (if_neg (by simp [h.unsampled, h.inTime])).trans ?_
  rw [SampRow.takeFlit_eq h.unsampled, hfull]
  rfl

end

/-- A flit's epoch is that of the partition whose key it bears. -/
theorem execSampleCandidateFlit_of_owner {s : State} {u key src dsp raddr p : Nat} {data : Bytes} {ce : Bool} (hkey : s.keyOwner key = some p) :
    execSampleCandidateFlit u key src dsp raddr data ce s = .next (s.candidateFlit u key src (s.part p).epoch dsp raddr data ce) := by
  rw [execSampleCandidateFlit, hkey]

/-- The sampled-row fault (R310) stops the job of the buffer. -/
theorem execSampledRowTimeout_of_due {s : State} {u b : Nat} {buf : PassBuf} {t : Long} (hbuf : tabFind (s.unit u).bufs b = some buf)
    (hfirst : buf.firstFlit = some t) (htime : buf.timedOut = false) (hdone : buf.done = false)
    (hdue : 10 * 2 ^ (s.fld Reg.FAB_CFG 27 24 + 10) ≤ (s.now - t.toNat) * 14) : execSampledRowTimeout u b s =
      .next (((s.setUnit u { s.unit u with bufs := tabAdd (s.unit u).bufs b { buf with timedOut := true } }).bump (Reg.SMP_STORE u) 15 8).jobFatal
        (some buf.part) 34 6 0) := by
  rw [execSampledRowTimeout]
  dsimp only
  rw [hbuf]
  dsimp only
  rw [hfirst]
  exact congrArg _ (if_neg (by simp [htime, hdone, Nat.not_lt.2 hdue]))

/-! ### Commits (R316, R319) -/

/-- A pass whose rows are answered is committed sequence by sequence. -/
theorem execPassCommit_of_answered {s : State} {p n : Nat} {sv : ServingRec} {y : Pass} (hsv : s.servingRec p = some sv)
    (hpass : (s.part p).passes.find? (fun y => decide (y.number = n)) = some y) (hrun : s.srv.frozen = false) (hall : y.seqs.all y.answered = true) :
    execPassCommit p n s = .next ((y.seqs.foldl (fun (s : State) i => s.commitSeq p sv y i)
      (s.modPart p fun q => { q with passes := q.passes.filter fun z => decide (z.number ≠ n) })).wakeWaiting p) := by
  rw [execPassCommit, hsv, hpass]
  exact congrArg _ (if_neg (by simp [hrun, hall]))

section
variable {s : State} {i pos : Nat} {sv : ServingRec} {x : Seq} {y : Pass} {d : Decided}

/-- The rule of the sequence's set that the history with token `tok` hits (R316). -/
def Seq.stopRule (x : Seq) (sv : ServingRec) (tok : Nat) : Option StopRule :=
  ((sv.rules[x.prm.ruleset]?).getD []).find? fun r => r.hits ((x.hist ++ [tok]).drop (x.hist.length + 1 - 256))

variable (hx : s.seq i = some x)
include hx

/-- A rule's last token is recorded with status 1, when the rule includes it. -/
theorem State.commitTokens_of_included {r : StopRule} (hhit : x.stopRule sv d.tok = some r) (hincl : r.incl = true) :
    s.commitTokens i sv y pos [] [d] = ((s.recordToken i y d pos 1).1, [(s.recordToken i y d pos 1).2], some 1) := by
  rw [Seq.stopRule] at hhit
  rw [State.commitTokens, hx]
  dsimp only
  rw [hhit]
  exact if_pos hincl

/-- It is withheld otherwise. -/
theorem State.commitTokens_of_withheld {r : StopRule} (hhit : x.stopRule sv d.tok = some r) (hincl : r.incl = false) :
    s.commitTokens i sv y pos [] [d] = (s, [⟨1, 2, 0xFFFFFFFF, pos, 0⟩], some 1) := by
  rw [Seq.stopRule] at hhit
  rw [State.commitTokens, hx]
  dsimp only
  rw [hhit]
  exact if_neg (Bool.eq_false_iff.1 hincl)

/-- A token that hits no rule is recorded; the most tokens come before the context. -/
theorem State.commitTokens_of_no_rule (hmiss : x.stopRule sv d.tok = none) : s.commitTokens i sv y pos [] [d] =
    let fin := if x.prm.maxnew ≤ x.committed + 1 then 2 else if sv.ctxmax < pos + 1 then 3 else 0
    let e := s.recordToken i y d pos (if fin = 0 then (if y.failed then 6 else 0) else fin)
    (e.1, [e.2], if fin = 0 then none else some fin) := by
  rw [Seq.stopRule] at hmiss
  rw [State.commitTokens, hx]
  dsimp only
  rw [hmiss]
  split_ifs <;> rfl

end

/-- Settles O27: a batch by the rows it takes, a report by the pass it names, a flit by the buffer and the row it reaches, and a commit token by token. That
a batch without rows takes no pass number is deduced (notes/assumptions/105.md), as are which candidate flits are discarded (101.md) and the key recorded
for a flit to a buffer that no pass holds (31.md). -/
theorem passResults : Obligations.PassResults := by
  intro s p g sv hsv
  refine ⟨fun hfrozen => congrArg _ (State.batchRequest_of_frozen hsv hfrozen), fun hrun hnone => congrArg _ (State.batchRequest_of_none hsv hrun hnone),
    fun i x u k hrun hon hwant hseqs hx hstate hprompt hspec hmodel hcauses hmay hbuf => ?batch, fun y hpass => execFallbackReport_of_pass hsv hpass,
    fun hpass => execFallbackReport_of_no_pass hsv hpass, fun u key src dsp raddr data ce => ⟨fun hout => ?beyond, fun hin hbuf => ?unheld,
      fun buf hin hbuf hkey r v y hrow hserving hpass hopen htime => ?lands⟩,
    fun u b buf t hbuf hfirst htime hdone hdue => execSampledRowTimeout_of_due hbuf hfirst htime hdone hdue,
    fun n y hpass hrun hall => execPassCommit_of_answered hsv hpass hrun hall, fun i y x pos d hx => ?token⟩
  case batch =>
    have h : DecodeReady s p sv (byteAt g 8) i x u k := ⟨hx, hstate, hprompt, hspec, hmodel, hcauses, hmay, hbuf⟩
    exact congrArg _ (h.batchRequest hsv hrun hon hwant hseqs)
  case beyond => exact congrArg _ (State.candidateFlit_of_beyond (not_not.1 hout))
  case unheld => exact congrArg _ (State.candidateFlit_of_no_buffer hin hbuf)
  case lands =>
    have h : FlitLands s u key dsp raddr data buf r v y := ⟨hin, hbuf, hkey, hrow, hserving, hpass, hopen, htime⟩
    have hexec := execSampleCandidateFlit_of_owner (u := u) (src := src) (dsp := dsp) (raddr := raddr) (data := data) (ce := ce) hkey
    exact ⟨fun hmore => hexec.trans (congrArg _ (h.candidateFlit_eq _ (decide_eq_false (Nat.not_le.2 hmore)))),
      fun hlast => hexec.trans (congrArg _ (h.candidateFlit_eq _ (decide_eq_true hlast)))⟩
  case token =>
    have hmiss (hnone : x.stopRule sv d.tok = none) := State.commitTokens_of_no_rule (pos := pos) (y := y) hx hnone
    refine ⟨fun r hhit hincl => State.commitTokens_of_included hx hhit hincl, fun r hhit hincl => State.commitTokens_of_withheld hx hhit hincl,
      fun hnone hmax => (hmiss hnone).trans ?_, fun hnone hmax hctx => (hmiss hnone).trans ?_, fun hnone hmax hctx hgood => (hmiss hnone).trans ?_⟩
    · rw [if_pos hmax]
      rfl
    · rw [if_neg (Nat.not_le.2 hmax), if_pos hctx]
      rfl
    · rw [if_neg (Nat.not_le.2 hmax), if_neg (Nat.not_lt.2 hctx), hgood]
      rfl

/-! ### Shares by largest remainder (R304) -/

section
variable {α β : Type} [LinearOrder β] {f : α → β} {l : List α}

/-- How many elements of l come before x by f. -/
def rankBy (f : α → β) (l : List α) (x : α) : Nat := l.countP fun y => decide (f y < f x)

theorem rankBy_lt_rankBy {x y : α} (hx : x ∈ l) (hxy : f x < f y) : rankBy f l x < rankBy f l y := by
  have hsub : rankBy f l x = (l.filter fun z => decide (f z < f y)).countP fun z => decide (f z < f x) := by
    rw [List.countP_filter]
    exact List.countP_congr fun z _ => by simpa using fun hz => lt_trans hz hxy
  rw [hsub, rankBy, List.countP_eq_length_filter (l := l)]
  exact List.countP_lt_length_iff.2 ⟨x, List.mem_filter.2 ⟨hx, by simpa using hxy⟩, by simp⟩

theorem rankBy_lt_length {x : α} (hx : x ∈ l) : rankBy f l x < l.length := List.countP_lt_length_iff.2 ⟨x, hx, by simp⟩

/-- Elements that f tells apart have the ranks 0, 1, 2 and so on, each once. -/
theorem map_rankBy_perm (hf : (l.map f).Nodup) : (l.map (rankBy f l)).Perm (List.range l.length) := by
  have hdistinct : (l.map (rankBy f l)).Nodup := by
    refine (List.Nodup.of_map f hf).map_on fun x hx y hy hrank => ?_
    rcases lt_trichotomy (f x) (f y) with hlt | heq | hgt
    · exact absurd hrank (rankBy_lt_rankBy hx hlt).ne
    · exact List.inj_on_of_nodup_map hf hx hy heq
    · exact absurd hrank (rankBy_lt_rankBy hy hgt).ne'
  refine (List.subperm_of_subset hdistinct fun k hk => ?_).perm_of_length_le (by simp)
  obtain ⟨x, hx, rfl⟩ := List.mem_map.1 hk
  exact List.mem_range.2 (rankBy_lt_length hx)

/-- As many elements as there are ranks below k are among the first k. -/
theorem countP_rankBy_lt (hf : (l.map f).Nodup) {k : Nat} (hk : k ≤ l.length) : l.countP (fun x => decide (rankBy f l x < k)) = k := by
  have hmap := List.countP_map (p := fun i => decide (i < k)) (f := rankBy f l) (l := l)
  rw [(map_rankBy_perm hf).countP_eq] at hmap
  obtain ⟨m, hm⟩ := Nat.exists_eq_add_of_le hk
  rw [hm, List.range_add, List.countP_append, List.countP_eq_length.2 (by simp), List.countP_eq_zero.2 (by simp), List.length_range] at hmap
  exact hmap.symm

end

/-- The order in which leftover shares go: the larger remainder first, and the lower account among equals. -/
def shareKey (e n : Nat) (x : Nat × Nat) : ℕᵒᵈ ×ₗ ℕ := toLex (OrderDual.toDual (e * x.2 % n), x.1)

section
variable {e : Nat} {rows : List (Nat × Nat)}

theorem shares_eq : shares e rows = rows.map fun x => (x.1, e * x.2 / (rows.map (·.2)).sum +
    if rankBy (shareKey e (rows.map (·.2)).sum) rows x < e - (rows.map fun x => e * x.2 / (rows.map (·.2)).sum).sum then 1 else 0) := by
  rw [shares, ← List.sum_eq_foldl]
  dsimp only
  rw [← List.sum_eq_foldl, List.map_map, List.map_zip_eq_zipWith, List.zipWith_map_right, List.zipWith_self]
  refine List.map_congr_left fun x _ => ?_
  simp [Function.comp_def, Function.curry, rankBy, shareKey, Prod.Lex.toLex_lt_toLex, List.countP_eq_length_filter]

theorem sum_map_ite_one_zero {α : Type} (p : α → Prop) [DecidablePred p] (l : List α) : (l.map fun x => if p x then 1 else 0).sum = l.countP fun x => decide (p x) := by
  induction l with
  | nil => rfl
  | cons a l ih => rw [List.map_cons, List.sum_cons, ih, List.countP_cons, Nat.add_comm]; simp

/-- What the floors leave over is no more than there are rows. -/
theorem sum_floors_bounds {n : Nat} (hn : (rows.map (·.2)).sum = n) (hpos : 0 < n) :
    (rows.map fun x => e * x.2 / n).sum ≤ e ∧ e - (rows.map fun x => e * x.2 / n).sum ≤ rows.length := by
  have hdiv : n * (rows.map fun x => e * x.2 / n).sum + (rows.map fun x => e * x.2 % n).sum = e * n := by
    rw [← List.sum_map_mul_left, ← List.sum_map_add, ← hn, ← List.sum_map_mul_left]
    simp only [Nat.div_add_mod]
  have hrem : (rows.map fun x => e * x.2 % n).sum ≤ rows.length * n := by
    refine (List.sum_le_card_nsmul _ n fun r hr => ?_).trans (by simp)
    obtain ⟨x, -, rfl⟩ := List.mem_map.1 hr
    exact (Nat.mod_lt _ hpos).le
  constructor
  · refine Nat.le_of_mul_le_mul_left ?_ hpos
    rw [Nat.mul_comm n e]
    omega
  · refine Nat.le_of_mul_le_mul_left ?_ hpos
    rw [Nat.mul_sub, Nat.mul_comm n e, Nat.mul_comm n rows.length]
    omega

/-- Accounts that are told apart share e, all of it. -/
theorem sum_shares (hkeys : (rows.map (·.1)).Nodup) (hpos : ∃ x ∈ rows, 0 < x.2) : ((shares e rows).map (·.2)).sum = e := by
  have htotal : 0 < (rows.map (·.2)).sum := by
    obtain ⟨x, hx, hpos⟩ := hpos
    exact lt_of_lt_of_le hpos (List.single_le_sum (by simp) _ (List.mem_map_of_mem hx))
  obtain ⟨hle, hleft⟩ := sum_floors_bounds (e := e) rfl htotal
  have hdistinct : (rows.map (shareKey e (rows.map (·.2)).sum)).Nodup := by
    refine List.Nodup.of_map (fun k => (ofLex k).2) ?_
    rw [List.map_map]
    exact hkeys
  rw [shares_eq, List.map_map]
  simp only [Function.comp_def]
  rw [List.sum_map_add, sum_map_ite_one_zero, countP_rankBy_lt hdistinct hleft]
  omega

end

/-! ### Accounts (O28) -/

theorem OnlyRegs.setSrv {l : List Nat} {s t : State} (h : OnlyRegs l s t) (x : Serving) : OnlyRegs l { s with srv := x } { t with srv := x } :=
  ⟨congrArg (fun u : State => { u with srv := x }) h.1, h.2⟩

theorem OnlyRegs.srv_eq {l : List Nat} {s t : State} (h : OnlyRegs l s t) : t.srv = s.srv := (congrArg State.srv h.1 :)

/-- The state in which f has changed the ledger of account a and the totals alike. -/
def State.ledgerMoved (s : State) (a : Nat) (f : Ledger → Ledger) : State :=
  { s with srv := { s.srv with accts := tabSet Acct.zero s.srv.accts a { s.acct a with led := f (s.acct a).led }, totals := f s.srv.totals } }

section
variable {s : State} {a n : Nat}

theorem State.acct_ledgerMoved {f : Ledger → Ledger} (h : { s.acct a with led := f (s.acct a).led } ≠ Acct.zero) :
    (s.ledgerMoved a f).acct a = { s.acct a with led := f (s.acct a).led } := tabGet_tabSet_self _ _ h

theorem Ledger.balanced_mintBy {l : Ledger} (h : l.balanced = true) (n : Nat) : (l.mintBy n).balanced = true := by
  have hsum := of_decide_eq_true h
  exact decide_eq_true (by simp only [Ledger.mintBy]; omega)

theorem Ledger.balanced_revoke {l : Ledger} (h : l.balanced = true) {n : Nat} (hn : n ≤ l.bal) : (l.revoke n).balanced = true := by
  have hsum := of_decide_eq_true h
  exact decide_eq_true (by simp only [Ledger.revoke]; omega)

theorem State.mint_of_frozen (hfrozen : s.srv.frozen = true) : s.mint a n = s := if_pos hfrozen

section
variable (hrun : s.srv.frozen = false)
include hrun

/-- A change that keeps the ledger balanced raises nothing. -/
theorem State.ledger_of_balanced {f : Ledger → Ledger} (h : (f (s.acct a).led).balanced = true) : s.ledger a f = s.ledgerMoved a f := by
  rw [State.ledger, if_neg (Bool.eq_false_iff.1 hrun)]
  exact if_pos h

/-- Credits that BAL can hold are minted (R301). -/
theorem State.mint_of_fits (hbal : (s.acct a).led.balanced = true) (hn : 0 < n) (hfits : (s.acct a).led.bal + n < 2 ^ 32) :
    s.mint a n = s.ledgerMoved a (Ledger.mintBy n) := by
  have hnew : ({ s.acct a with led := (s.acct a).led.mintBy n } : Acct) ≠ Acct.zero := fun h => by
    have hzero : (s.acct a).led.bal + n = 0 := congrArg (fun x : Acct => x.led.bal) h
    omega
  rw [State.mint, if_neg (Bool.eq_false_iff.1 hrun), State.ledger_of_balanced hrun (Ledger.balanced_mintBy hbal n), sum32, if_pos hfits]
  exact if_pos (congrArg (fun x : Acct => x.led.bal) (State.acct_ledgerMoved hnew))

theorem State.refill_of_room (hen : (s.acct a).en = true) (hroom : (s.acct a).led.bal < (s.acct a).cap) (hrate : 0 < (s.acct a).rate)
    (hcap : (s.acct a).cap < 2 ^ 32) (hbal : (s.acct a).led.balanced = true) :
    s.refill a = s.ledgerMoved a (Ledger.mintBy (min (s.acct a).rate ((s.acct a).cap - (s.acct a).led.bal))) := by
  refine (if_pos (by simp [hen, hroom])).trans (State.mint_of_fits hrun hbal (by omega) (by omega))

theorem State.grant_of_mint {v : Word} (hmint : flag v 31 = false) (hn : 0 < field v 30 0) (hfits : (s.acct s.selAcct).led.bal + field v 30 0 < 2 ^ 32)
    (hbal : (s.acct s.selAcct).led.balanced = true) : s.grant v = s.ledgerMoved s.selAcct (Ledger.mintBy (field v 30 0)) :=
  (if_neg (Bool.eq_false_iff.1 hrun)).trans ((if_neg (Bool.eq_false_iff.1 hmint)).trans (State.mint_of_fits hrun hbal hn hfits))

/-- What is left of the balance can be revoked, and no more. -/
theorem State.grant_of_revoke {v : Word} (hrevoke : flag v 31 = true) (hbal : (s.acct s.selAcct).led.balanced = true) :
    s.grant v = s.ledgerMoved s.selAcct (Ledger.revoke (min (field v 30 0) (s.acct s.selAcct).led.bal)) :=
  (if_neg (Bool.eq_false_iff.1 hrun)).trans
    ((if_pos hrevoke).trans (State.ledger_of_balanced hrun (Ledger.balanced_revoke hbal (Nat.min_le_right _ _))))

end

theorem State.refill_of_none (h : (s.acct a).en = false ∨ (s.acct a).cap ≤ (s.acct a).led.bal ∨ s.srv.frozen = true) : s.refill a = s := by
  rw [State.refill]
  split_ifs with hdue
  · simp only [Bool.and_eq_true, decide_eq_true_eq] at hdue
    rcases h with hen | hfull | hfrozen
    · exact absurd hdue.1 (Bool.eq_false_iff.1 hen)
    · exact absurd hdue.2 (Nat.not_lt.2 hfull)
    · exact State.mint_of_frozen hfrozen
  · rfl

theorem State.grant_of_frozen (hfrozen : s.srv.frozen = true) (v : Word) : s.grant v = s := if_pos hfrozen

end

/-! Snapshots (R324) -/

section
variable {s : State}

theorem execAcctIdxWrite_completes (ok : Canonical s) (v : Word) : Completes (.acctIdxWrite v) s fun t =>
    t.rd Reg.SRV_ACCT_IDX = ((v &&& 0x1FFF) ||| (s.rd Reg.SRV_ACCT_IDX &&& ~~~(0x1FFF : Word))) ∧
      t.srv = { s.srv with snapshot := some (field v 12 0) } ∧ OnlyRegs [Reg.SRV_ACCT_IDX, Reg.HIF_STAT] { s with srv := t.srv } t := by
  obtain ⟨honly, hrd⟩ := State.writeRW_frame ok Reg.SRV_ACCT_IDX 0x1FFF 0 v
  exact ⟨_, rfl, hrd, congrArg (fun x : Serving => { x with snapshot := some (field v 12 0) }) honly.srv_eq, (honly.mono (by simp)).setSrv _⟩

/-- The sixteen words of a snapshot by their places. -/
theorem Ledger.zip_words (l : Ledger) (e : Nat) : (List.range 16).zip (l.words e) = (List.range 16).map fun j => (j, (l.words e).getD j 0) := rfl

theorem snapD_ne {i j : Nat} (h : i ≠ j) : Reg.SRV_SNAP_D i ≠ Reg.SRV_SNAP_D j := by
  simp only [Reg.SRV_SNAP_D]
  omega

theorem snapSeq_ne_snapD (j : Nat) : Reg.SRV_SNAP_SEQ ≠ Reg.SRV_SNAP_D j := by
  simp only [Reg.SRV_SNAP_SEQ, Reg.SRV_SNAP_D]
  omega

/-- The state in which words ws stand in the snapshot registers. -/
def State.snapWords (s : State) (ws : List Word) : State := (List.range 16).foldl (fun (s : State) j => s.wr (Reg.SRV_SNAP_D j) (ws.getD j 0)) s

theorem State.snapWords_frame (ok : Canonical s) (ws : List Word) :
    (Canonical (s.snapWords ws) ∧ OnlyRegs ((List.range 16).map Reg.SRV_SNAP_D) s (s.snapWords ws)) ∧
    ∀ j ∈ List.range 16, (s.snapWords ws).rd (Reg.SRV_SNAP_D j) = ws.getD j 0 := by
  refine foldl_sets (I := fun t => Canonical t ∧ OnlyRegs ((List.range 16).map Reg.SRV_SNAP_D) s t) (Q := fun j t => t.rd (Reg.SRV_SNAP_D j) = ws.getD j 0)
    (fun t ht j hj => ⟨ht.1.wr _ _, ht.2.wr ht.1 (List.mem_map_of_mem hj) _⟩) (fun t ht j _ => State.rd_wr_same ht.1 _ _)
    (fun t ht i _ j _ hi => ?_) ⟨ok, .refl _ s⟩
  by_cases hij : i = j
  · rw [hij, State.rd_wr_same ht.1]
  · rw [State.rd_wr_ne ht.1 _ (snapD_ne hij), hi]

/-- The words that land: of the totals for an index of 4096 on, of an account below. -/
def State.snapshotOf (s : State) (k : Nat) : List Word :=
  let l := if k / 4096 % 2 = 1 then s.srv.totals else (s.acct (k % 4096)).led
  l.words (if k / 4096 % 2 = 1 then s.srv.totals.energy + s.idleEnergy + s.srv.overhead else l.energy)

/-- The registers of a snapshot that has landed: its words, one more in SEQ, and the index beside it. -/
def State.snapLanded (s : State) (k : Nat) : State := ((s.snapWords (s.snapshotOf k)).bump Reg.SRV_SNAP_SEQ 31 16).setFld Reg.SRV_SNAP_SEQ 12 0 k

theorem State.snapLanded_frame (ok : Canonical s) {k : Nat} (hlt : k < 8192) :
    (∀ j, j < 16 → (s.snapLanded k).rd (Reg.SRV_SNAP_D j) = (s.snapshotOf k).getD j 0) ∧
      (s.snapLanded k).fld Reg.SRV_SNAP_SEQ 31 16 = (s.fld Reg.SRV_SNAP_SEQ 31 16 + 1) % 65536 ∧ (s.snapLanded k).fld Reg.SRV_SNAP_SEQ 12 0 = k ∧
      OnlyRegs (Reg.SRV_SNAP_SEQ :: (List.range 16).map Reg.SRV_SNAP_D) s (s.snapLanded k) := by
  obtain ⟨⟨hok, honly⟩, hwords⟩ := State.snapWords_frame ok (s.snapshotOf k)
  have hbump := hok.bump Reg.SRV_SNAP_SEQ 31 16
  rw [State.snapLanded]
  refine ⟨fun j hj => ?_, ?_, ?_, ((honly.mono (by simp)).wr hok (by simp) _).wr hbump (by simp) _⟩
  · rw [State.rd_setFld hbump, if_neg (snapSeq_ne_snapD j).symm, State.rd_bump hok, if_neg (snapSeq_ne_snapD j).symm, hwords j (List.mem_range.2 hj)]
  · rw [State.fld_setFld_apart hbump _ _ _ _ _ _ (by decide), State.fld_bump hok _ _ _ (by decide), State.fld,
      honly.2 _ (by simp [snapSeq_ne_snapD, eq_comm]), State.fld]
    rfl
  · exact (State.fld_setFld hbump _ _ _ _ (by decide)).trans (Nat.mod_eq_of_lt hlt)

theorem execSnapshotLand_of_some {k : Nat} (hk : s.srv.snapshot = some k) :
    execSnapshotLand s = .next { s.snapLanded k with srv := { (s.snapLanded k).srv with snapshot := none } } := by
  rw [execSnapshotLand, hk]
  dsimp only
  rw [State.snapLanded, State.snapWords, State.snapshotOf]
  by_cases hdev : k / 4096 % 2 = 1
  · simp only [if_pos hdev, Ledger.zip_words, List.foldl_map]
  · simp only [if_neg hdev, Ledger.zip_words, List.foldl_map]

theorem execSnapshotLand_of_none (h : s.srv.snapshot = none) : execSnapshotLand s = .next s := by
  rw [execSnapshotLand, h]

theorem execSnapshotLand_completes (ok : Canonical s) {k : Nat} (hk : s.srv.snapshot = some k) (hlt : k < 8192) : Completes .snapshotLand s fun t =>
    (∀ j, j < 16 → t.rd (Reg.SRV_SNAP_D j) = (s.snapshotOf k).getD j 0) ∧ t.fld Reg.SRV_SNAP_SEQ 31 16 = (s.fld Reg.SRV_SNAP_SEQ 31 16 + 1) % 65536 ∧
      t.fld Reg.SRV_SNAP_SEQ 12 0 = k ∧ t.srv = { s.srv with snapshot := none } ∧
      OnlyRegs (Reg.SRV_SNAP_SEQ :: (List.range 16).map Reg.SRV_SNAP_D) { s with srv := t.srv } t := by
  obtain ⟨hwords, hseq, hidx, honly⟩ := State.snapLanded_frame ok hlt
  have hexec := execSnapshotLand_of_some hk
  generalize s.snapLanded k = u at hwords hseq hidx honly hexec
  exact ⟨_, hexec, hwords, hseq, hidx, congrArg (fun x : Serving => { x with snapshot := none }) honly.srv_eq, honly.setSrv _⟩

end

/-! Energy (R304) -/

section
variable {s : State} {n : Nat}

theorem State.meterTick_of_frozen (hfrozen : s.srv.frozen = true) : s.meterTick n = s := if_pos hfrozen

theorem foldl_regionJoules_of_none {l : List Nat} (h : ∀ r ∈ l, s.regionJoules r = 0) : l.foldl (fun (s : State) r =>
    let n := s.regionJoules r
    if n = 0 then s else s.modRegion r fun g => { g with energyMs := g.energyMs + 1000 * n }) s = s :=
  List.foldlRecOn (motive := fun t => t = s) l _ rfl fun t ht r hr => by rw [ht]; exact if_pos (h r hr)

/-- A millisecond without a partition or energy of a region is the overhead meter's. -/
theorem State.meterTick_of_idle (hrun : s.srv.frozen = false) (hparts : s.liveParts = []) (hregions : ∀ r, r < 896 → s.regionJoules r = 0) :
    s.meterTick n = { s with srv := { s.srv with
      overhead := s.srv.overhead + n, measured := s.srv.measured + n, accts := s.srv.accts.filterMap fun x =>
        if { x.2 with rowsMs := [] } = Acct.zero then none else some (x.1, { x.2 with rowsMs := [] }) } } := by
  have hstill := foldl_regionJoules_of_none (l := List.range 896) fun r hr => hregions r (List.mem_range.1 hr)
  rw [State.meterTick, if_neg (Bool.eq_false_iff.1 hrun), hparts]
  generalize List.range 896 = l at hstill
  exact congrArg (fun t : State => { t with srv := { t.srv with
    overhead := t.srv.overhead + n, measured := t.srv.measured + n, accts := t.srv.accts.filterMap fun x : Nat × Acct =>
      if { x.2 with rowsMs := [] } = Acct.zero then none else some (x.1, { x.2 with rowsMs := [] }) } }) hstill

/-- A partition without rows in the millisecond fills its idle meter. -/
theorem State.meterPart_of_no_rows {p : Nat} (hrows : ∀ x ∈ s.srv.accts, tabFind x.2.rowsMs p = none) : s.meterPart p n = { s with srv := { s.srv with
    idle := tabSet 0 s.srv.idle p (tabGet 0 s.srv.idle p + n), measured := s.srv.measured + n } } := by
  refine congrArg (fun t : State => { t with srv := { t.srv with measured := t.srv.measured + n } }) (if_pos ?_)
  rw [List.isEmpty_iff, List.filterMap_eq_nil_iff]
  exact fun x hx => by rw [hrows x hx]

/-- SRV_STAT.INEXACT is cleared by a 1 (R305). -/
theorem execSrvInexactClear_completes (ok : Canonical s) (v : Word) : Completes (.srvInexactClear v) s fun t =>
    t.fld Reg.SRV_STAT 31 31 = (if flag v 31 then 0 else s.fld Reg.SRV_STAT 31 31) ∧ OnlyRegs [Reg.SRV_STAT, Reg.HIF_STAT] s t := by
  obtain ⟨hres, -⟩ := State.reservedBits_frame ok (s.rd Reg.SRV_STAT) v 0x7FFF8000
  have hok := ok.reservedBits (s.rd Reg.SRV_STAT) v 0x7FFF8000
  have hboth : OnlyRegs [Reg.SRV_STAT, Reg.HIF_STAT] s _ := hres.mono (by simp)
  refine ⟨_, rfl, ?_⟩
  dsimp only
  split
  · exact ⟨State.fld_setFld hok _ _ _ _ (by decide), hboth.wr hok (by simp) _⟩
  · exact ⟨by rw [State.fld, hres.2 _ (by decide), State.fld], hboth⟩

end

/-- Settles O28: a ledger that stays balanced moves with the totals, a snapshot's words stand in sixteen registers, and the shares of a millisecond sum to its
energy, since as many rows rank below the leftover as it counts. That a millisecond without a partition goes to the overhead meter, and one of a partition
without rows to its idle meter, is deduced (notes/assumptions/118.md). -/
theorem accountResults : Obligations.AccountResults := by
  intro s a n v
  refine ⟨rfl, State.refill_of_none, State.refill_of_room, fun hfrozen => ?frozen, fun hrun hrevoke hbal => ?revoke, fun hrun hmint hn hfits hbal => ?mint,
    fun ok => execAcctIdxWrite_completes ok v, fun k ok hk hlt => execSnapshotLand_completes ok hk hlt, execSnapshotLand_of_none,
    fun hfrozen => congrArg _ (State.meterTick_of_frozen hfrozen), fun hrun hparts hregions => congrArg _ (State.meterTick_of_idle hrun hparts hregions),
    fun p hrows => State.meterPart_of_no_rows hrows, fun rows hkeys hpos => ?shares, fun ok => execSrvInexactClear_completes ok v⟩
  case frozen => exact congrArg (fun t : State => Host.Outcome.next t.wakeAll) (State.grant_of_frozen hfrozen v)
  case revoke => exact congrArg (fun t : State => Host.Outcome.next t.wakeAll) (State.grant_of_revoke hrun hrevoke hbal)
  case mint => exact congrArg (fun t : State => Host.Outcome.next t.wakeAll) (State.grant_of_mint hrun hmint hn hfits hbal)
  case shares => exact List.sum_eq_foldl.symm.trans (sum_shares hkeys hpos)
/-! ### The output ring (O29) -/

theorem outRing_ne_hifStat (p : Nat) :
    Reg.SRV_OUT_BASE_LO p ≠ Reg.HIF_STAT ∧ Reg.SRV_OUT_BASE_HI p ≠ Reg.HIF_STAT ∧ Reg.SRV_OUT_CFG p ≠ Reg.HIF_STAT := by
  simp only [Reg.SRV_OUT_BASE_LO, Reg.SRV_OUT_BASE_HI, Reg.SRV_OUT_CFG, Reg.HIF_STAT]
  omega

/-- A bit that software may change reads as it was written. -/
theorem State.flag_writeRW {s : State} (ok : Canonical s) (a : Nat) {m : Word} (ro v : Word) {i : Nat} (hm : flag m i = true) :
    flag ((s.writeRW a m ro v).rd a) i = flag v i := by
  rw [flag] at hm
  rw [(State.writeRW_frame ok a m ro v).2, flag, flag, BitVec.getLsbD_or, BitVec.getLsbD_and, BitVec.getLsbD_and, BitVec.getLsbD_not, hm]
  simp

theorem State.writeRW_part (s : State) (a : Nat) (m ro v : Word) (p : Nat) : (s.writeRW a m ro v).part p = s.part p := by
  rw [State.writeRW_eq, State.wr_part_frame, State.reservedBits]
  split_ifs <;> rfl

section
variable {s : State} {p : Nat} {v : Word}

/-- Where the consumer index may go: forward, to PI at most (R323). -/
theorem State.outConsume_of_le (h : (v - s.rd (Reg.SRV_OUT_CI p)).toNat ≤ (s.rd (Reg.SRV_OUT_PI p) - s.rd (Reg.SRV_OUT_CI p)).toNat) :
    s.outConsume p v = (s.wr (Reg.SRV_OUT_CI p) v).wakeWaiting p := if_neg (Nat.not_lt.2 h)

theorem State.outConsume_of_lt (h : (s.rd (Reg.SRV_OUT_PI p) - s.rd (Reg.SRV_OUT_CI p)).toNat < (v - s.rd (Reg.SRV_OUT_CI p)).toNat) :
    s.outConsume p v = s.bump (Reg.SRV_PARTSTAT p) 31 24 := if_pos h

theorem execOutCiWrite_of_up (hup : s.weltDown = false) : execOutCiWrite p v s = .next (s.outConsume p v) :=
  congrArg _ (if_neg (Bool.eq_false_iff.1 hup))

/-- Base and size keep their values while the ring is on, with the rails up or down. -/
theorem execOutCfgWrite_base_of_on (hon : flag (s.rd (Reg.SRV_OUT_CFG p)) 31 = true) {off : Nat} (hoff : off = 0 ∨ off = 1) :
    execOutCfgWrite p off v s = .next s := by
  rcases hoff with rfl | rfl <;> simp [execOutCfgWrite, hon]

section
variable (hup : s.weltDown = false)
include hup

theorem execOutCfgWrite_baseLo_of_off (hoff : flag (s.rd (Reg.SRV_OUT_CFG p)) 31 = false) :
    execOutCfgWrite p 0 v s = .next (s.writeRW (Reg.SRV_OUT_BASE_LO p) 0xFFFFFFC0 0x3F v) := by
  simp [execOutCfgWrite, hup, hoff]

theorem execOutCfgWrite_baseHi_of_off (hoff : flag (s.rd (Reg.SRV_OUT_CFG p)) 31 = false) :
    execOutCfgWrite p 1 v s = .next (s.writeRW (Reg.SRV_OUT_BASE_HI p) 0xFFFFFFFF 0 v) := by
  simp [execOutCfgWrite, hup, hoff]

/-- A write of CFG that leaves the ring off changes CFG alone; the size takes it only while the ring was off. -/
theorem execOutCfgWrite_cfg_of_off (ok : Canonical s) (hv : flag v 31 = false) : execOutCfgWrite p 2 v s = .next (s.writeRW (Reg.SRV_OUT_CFG p)
    (if flag (s.rd (Reg.SRV_OUT_CFG p)) 31 then 0x80000000 else 0x8000001F) (if flag (s.rd (Reg.SRV_OUT_CFG p)) 31 then 0x1F else 0) v) := by
  have hflag := (State.flag_writeRW ok (Reg.SRV_OUT_CFG p) (m := if flag (s.rd (Reg.SRV_OUT_CFG p)) 31 then 0x80000000 else 0x8000001F)
    (if flag (s.rd (Reg.SRV_OUT_CFG p)) 31 then 0x1F else 0) v (i := 31) (by split <;> decide)).trans hv
  simp only [execOutCfgWrite, hup, hflag, Bool.false_eq_true, if_false]
  rfl

/-- Turned on, the ring lets out the records held. -/
theorem execOutCfgWrite_cfg_of_on (ok : Canonical s) (hoff : flag (s.rd (Reg.SRV_OUT_CFG p)) 31 = false) (hv : flag v 31 = true) :
    execOutCfgWrite p 2 v s = .next ((s.writeRW (Reg.SRV_OUT_CFG p) 0x8000001F 0 v).flushRecords p) := by
  have hflag := (State.flag_writeRW ok (Reg.SRV_OUT_CFG p) (m := 0x8000001F) 0 v (i := 31) (by decide)).trans hv
  simp only [execOutCfgWrite, hup, hoff, Bool.false_eq_true, if_false, hflag, if_true]
  rfl

end

/-- A record goes to the ring while it is on, and is held while it is off. -/
theorem State.emitRecord_of_on (hon : flag (s.rd (Reg.SRV_OUT_CFG p)) 31 = true) (d : Bytes) : s.emitRecord p d = s.putRecord p d := if_pos hon

theorem State.emitRecord_of_off (hoff : flag (s.rd (Reg.SRV_OUT_CFG p)) 31 = false) (d : Bytes) :
    s.emitRecord p d = s.modPart p fun x => { x with outHeld := x.outHeld ++ [d] } := if_neg (Bool.eq_false_iff.1 hoff)

end

/-- Settles O29: an index write and each CFG write by whether it is taken and the ring is on, and a record by whether the ring is on. That a write to a
read-only bit counts nothing, and what a changed reserved bit does in a test restart, is deduced (notes/assumptions/96.md), as is that writes are ignored
while the rails are down (25.md). -/
theorem outputRing : Obligations.OutputRing := by
  intro s p v d
  obtain ⟨hlo, hhi, hcfg⟩ := outRing_ne_hifStat p
  refine ⟨fun hup hfwd => ?fwd, fun hup hback => ?back, fun hon => ?base, fun hup ok _ hoff => ⟨?lo, ?hi, fun hv => ?size, fun hv => ?flush⟩,
    fun hup ok _ hon hv => ?stop, fun hoff => State.emitRecord_of_off hoff d, fun hon => State.emitRecord_of_on hon d⟩
  case fwd => exact (execOutCiWrite_of_up hup).trans (congrArg _ (State.outConsume_of_le hfwd))
  case back => exact (execOutCiWrite_of_up hup).trans (congrArg _ (State.outConsume_of_lt hback))
  case base => exact ⟨execOutCfgWrite_base_of_on hon (.inl rfl), execOutCfgWrite_base_of_on hon (.inr rfl)⟩
  case lo => exact State.writeRW_rewrites ok _ _ _ _ hlo _ (execOutCfgWrite_baseLo_of_off hup hoff)
  case hi => exact State.writeRW_rewrites ok _ _ _ _ hhi _ (execOutCfgWrite_baseHi_of_off hup hoff)
  case size =>
    have hexec := execOutCfgWrite_cfg_of_off (p := p) hup ok hv
    rw [show flag (s.rd (Reg.SRV_OUT_CFG p)) 31 = false from hoff] at hexec
    exact State.writeRW_rewrites ok _ _ _ _ hcfg _ hexec
  case flush =>
    refine (execOutCfgWrite_cfg_of_on hup ok hoff hv).trans ?_
    rw [State.flushRecords, State.writeRW_part]
  case stop =>
    have hexec := execOutCfgWrite_cfg_of_off (p := p) hup ok hv
    rw [show flag (s.rd (Reg.SRV_OUT_CFG p)) 31 = true from hon] at hexec
    exact State.writeRW_rewrites ok _ _ _ _ hcfg _ hexec

end Sys2Proof.Machine

/-! SUPPORT. The statements of chapter 12's family: LOAD and the start of a job (O30), KILL, RELEASE and the stop time-out (O31), and the end of a job (O32). -/

namespace Sys2Proof.Machine

/-! ### LOAD (O30) -/

/-- A write of a write-only word with its reserved bits 0 changes nothing by them (R473). -/
theorem State.reservedBits_of_clear (s : State) {v m : Word} (h : v &&& m = 0) : s.reservedBits 0 v m = s :=
  if_pos ((congrArg (· &&& m) BitVec.zero_xor).trans h)

/-- A LOAD that goes on to its checks: LDR_STAT names partition p, which is in STATE 1 with its registers clear (R337, R338, R349). -/
def State.loadTaken (s : State) (p : Nat) : State :=
  let u := (((((s.setFld Reg.LDR_STAT 31 31 1).setFld Reg.LDR_STAT 27 22 p).setPState p 1).wr (Reg.LDR_PART_SHAPE p) 0).wr (Reg.LDR_PART_PWR p) 0).wr
    (Reg.LDR_PART_BUDGET p) 0
  (u.setFld (Reg.GLB_PMODE p) 21 16 (u.fld (Reg.GLB_PMODE p) 5 0)).loadStep 1

/-- The stepping that the fuses name, 0 before they are read. -/
def State.stepping (s : State) : Nat := (s.boot.fuses.map (·.stepping)).getD 0

/-- The load under way of an image whose form is good, and its partition's record. -/
def State.loadOpened (s : State) (p : Nat) (img : Bytes) : State :=
  ({ s with load := some { p := p, port := 0, image := img, placed := [], stopAsked := false, waitingIngest := true } }).setPart p
    (partOf img (s.keyEntry p).1)

/-- The status that the image's own checks give on a device of stepping n, 0 when none fails (R339). -/
def State.imageStatus (s : State) (n : Nat) (img : Bytes) : Nat := checkImage img n (if s.lastFinal then s.last.grade else 3) s.last.lcols

/-- What follows for an image that was read, with its checks in their order, on a device of stepping n. -/
def State.loadImage (s : State) (p n : Nat) (img : Bytes) (place : Option (Nat × Nat)) : State :=
  if checkFormat img ≠ 0 then s.refuseLoad p (checkFormat img) 0
  else if (s.loadOpened p img).imageStatus n img ≠ 0 then (s.loadOpened p img).refuseLoad p ((s.loadOpened p img).imageStatus n img) 0
  else (s.loadOpened p img).placeLoad p img place

section
variable {s : State} {v : Word} {image : Option Bytes}

theorem exec_load_of_op (hop : field v 31 28 = 1) (hres : v &&& 0x3FF = 0) : exec (.load v image) s = .next (s.doLoad v image) := by
  refine congrArg Host.Outcome.next ((if_pos hop).trans ?_)
  rw [State.reservedBits_of_clear s hres]

theorem State.doLoad_of_busy (h : flag (s.rd Reg.LDR_STAT) 31 = true ∨ flag (s.rd Reg.STG_STAT) 31 = false) :
    s.doLoad v image = s.bump Reg.LDR_STAT 15 8 :=
  if_pos (by simpa using h)

section
variable (hidle : flag (s.rd Reg.LDR_STAT) 31 = false) (hready : flag (s.rd Reg.STG_STAT) 31 = true)
include hidle hready

theorem State.doLoad_of_loaded (hloaded : s.pstate (field v 27 22) ≠ 0) :
    s.doLoad v image = (s.setFld (Reg.LDR_PART (field v 27 22)) 28 24 13).loadFinished := by
  rw [State.doLoad, if_neg (by simp [hidle, hready]), if_pos hloaded]

section
variable (hfree : s.pstate (field v 27 22) = 0)
include hfree

theorem State.doLoad_of_no_image : s.doLoad v none = (s.loadTaken (field v 27 22)).refuseLoad (field v 27 22) 16 0 := by
  rw [State.doLoad, if_neg (by simp [hidle, hready]), if_neg (not_not.2 hfree)]
  rfl

/-- An image, which LDR_IMG_LEN bounds, is checked on this device. -/
theorem State.doLoad_of_image {b img : Bytes} (himg : img = b.take ((s.loadTaken (field v 27 22)).rd Reg.LDR_IMG_LEN).toNat) :
    s.doLoad v (some b) = (s.loadTaken (field v 27 22)).loadImage (field v 27 22) ((s.loadTaken (field v 27 22)).loadOpened (field v 27 22) img).stepping img
      (if flag v 21 then some (field v 20 15, field v 14 10) else none) := by
  subst himg
  have hstepping : ∀ o : Option Fuses, (match o with
      | some f => f.stepping
      | none => 0) = (o.map (·.stepping)).getD 0 := by
    rintro (_ | f) <;> rfl
  rw [State.doLoad, if_neg (by simp [hidle, hready]), if_neg (not_not.2 hfree), State.stepping, ← hstepping]
  dsimp only [State.loadImage, State.imageStatus, State.loadOpened, State.keyEntry]
  rfl

end
end
end

section
variable {w : State} {p n : Nat} {img : Bytes} {place : Option (Nat × Nat)}

theorem State.loadImage_of_bad_format (hform : checkFormat img ≠ 0) : w.loadImage p n img place = w.refuseLoad p (checkFormat img) 0 := if_pos hform

section
variable (hform : checkFormat img = 0)
include hform

theorem State.loadImage_of_bad_image (hbad : (w.loadOpened p img).imageStatus n img ≠ 0) :
    w.loadImage p n img place = (w.loadOpened p img).refuseLoad p ((w.loadOpened p img).imageStatus n img) 0 := by
  rw [State.loadImage, if_neg (not_not.2 hform), if_pos hbad]

theorem State.loadImage_of_good_image (hgood : (w.loadOpened p img).imageStatus n img = 0) :
    w.loadImage p n img place = (w.loadOpened p img).placeLoad p img place := by
  rw [State.loadImage, if_neg (not_not.2 hform), if_neg (not_not.2 hgood)]

end
end

/-! ### The start of a job (O30) -/

/-! Folds over cores and over regions -/

/-- A fold whose steps change cores alone changes cores alone. -/
theorem foldl_cores {α : Type} {f : State → α → State} (step : ∀ t a, f t a = { t with cores := (f t a).cores }) (l : List α) (s : State) :
    l.foldl f s = { s with cores := (l.foldl f s).cores } :=
  List.foldlRecOn (motive := fun t => t = { s with cores := t.cores }) l f rfl fun t ht a _ =>
    (step t a).trans (congrArg (fun u : State => { u with cores := (f t a).cores }) ht)

theorem foldl_regions {α : Type} {f : State → α → State} (step : ∀ t a, f t a = { t with regions := (f t a).regions }) (l : List α) (s : State) :
    l.foldl f s = { s with regions := (l.foldl f s).regions } :=
  List.foldlRecOn (motive := fun t => t = { s with regions := t.regions }) l f rfl fun t ht a _ =>
    (step t a).trans (congrArg (fun u : State => { u with regions := (f t a).regions }) ht)

/-- A change that does nothing the second time is made once for each core of the list, however often it is listed. -/
theorem State.coreAt_foldl_modCoreAt {f : Core → Core} (hf : ∀ x, f (f x) = f x) (l : List Nat) {s : State} (ok : Canonical s) (i : Nat) :
    (l.foldl (fun (t : State) k => t.modCoreAt k f) s).coreAt i = if i ∈ l then f (s.coreAt i) else s.coreAt i := by
  induction l generalizing s with
  | nil => simp
  | cons k l ih =>
    rw [List.foldl_cons, ih (ok.modCoreAt k f), State.coreAt_modCoreAt ok]
    by_cases hk : i = k
    · simp [hk, hf]
    · simp [hk]

theorem Canonical.foldl_modCoreAt {s : State} (ok : Canonical s) (f : Core → Core) (l : List Nat) :
    Canonical (l.foldl (fun (t : State) k => t.modCoreAt k f) s) :=
  List.foldlRecOn l _ ok fun _ ht k _ => ht.modCoreAt k f

/-! What the start of a job writes -/

/-- The cores with a role, by their keys. -/
def State.roleKeys (s : State) (p : Nat) : List Nat :=
  (s.part p).placed.flatMap fun g => ((List.range 16).zip g.roles).filterMap fun e =>
    if e.2 = 0xFFFF then none else (s.physCore g.r e.1).map (17 * g.r + ·)

/-- A core that is awake and idle runs from bundle 0 at cycle 0 (R338). -/
def Core.begun (c : Core) : Core := if c.powered && c.phase = .idle then { c with phase := .running, now := 0, nextIssue := 0, pc := 0 } else c

theorem Core.begun_of_idle {c : Core} (hpow : c.powered = true) (hidle : c.phase = .idle) :
    c.begun = { c with phase := .running, now := 0, nextIssue := 0, pc := 0 } :=
  if_pos (by simp [hpow, hidle])

theorem Core.begun_begun (c : Core) : c.begun.begun = c.begun := by
  by_cases h : c.powered = true ∧ c.phase = .idle
  · rw [Core.begun_of_idle h.1 h.2]
    exact if_neg (by simp)
  · have hstill : c.begun = c := if_neg (by simpa using h)
    rw [hstill, hstill]

/-- The partition's record at cycle 0 of epoch 0. -/
def Part.begun (x : Part) (keys : List Nat) : Part :=
  { x with started := keys, epoch := 0, wall := 0, stalls := [], detours := [], detourNow := none, walked := [], lateRun := none, stretch := [], due := [] }

/-- Every sequencer with a program runs from its start. -/
def State.startSeqs (s : State) (rs : List Placed) : State :=
  rs.foldl (fun s g => s.modRegion g.r fun x => if g.prog = 0xFFFF then x else { x with seq := { x.seq with state := 2, pc := 0, x := [] } }) s

theorem State.startSeqs_eq (s : State) (rs : List Placed) : s.startSeqs rs = { s with regions := (s.startSeqs rs).regions } :=
  foldl_regions (fun _ _ => rfl) rs s

theorem Canonical.startSeqs {s : State} (ok : Canonical s) (rs : List Placed) : Canonical (s.startSeqs rs) :=
  List.foldlRecOn rs _ ok fun _ ht _ _ => ht.modRegion _ _

theorem State.startPart_eq (s : State) (p : Nat) : s.startPart p =
    (((s.roleKeys p).foldl (fun (t : State) k => t.modCoreAt k Core.begun) s).startSeqs (s.part p).placed).modPart p fun x => x.begun (s.roleKeys p) := rfl

/-- What a start leaves of the registers and gives to partitions and cores. -/
theorem State.startPart_frame {s : State} (ok : Canonical s) (p : Nat) : WritesIn (fun _ => False) s (s.startPart p) ∧
    (∀ q, (s.startPart p).part q = if q = p then (s.part p).begun (s.roleKeys p) else s.part q) ∧
    ∀ k, (s.startPart p).coreAt k = if k ∈ s.roleKeys p then (s.coreAt k).begun else s.coreAt k := by
  have hcores := foldl_cores (f := fun (t : State) k => t.modCoreAt k Core.begun) (fun _ _ => rfl) (s.roleKeys p) s
  have hcore := State.coreAt_foldl_modCoreAt Core.begun_begun (s.roleKeys p) ok
  have hok := ok.foldl_modCoreAt Core.begun (s.roleKeys p)
  rw [State.startPart_eq]
  generalize (s.roleKeys p).foldl (fun (t : State) k => t.modCoreAt k Core.begun) s = u at *
  have hseqs := State.startSeqs_eq u (s.part p).placed
  have hok' := hok.startSeqs (s.part p).placed
  generalize u.startSeqs (s.part p).placed = x at *
  have hregs : x.regs = s.regs := by rw [hseqs, hcores]
  have hpart : ∀ q, x.part q = s.part q := fun q => by rw [hseqs, hcores]; rfl
  refine ⟨⟨hok'.modPart _ _, fun a _ => ?_⟩, fun q => ?_, fun k => ?_⟩
  · rw [State.modPart_rd_frame, State.rd, hregs, State.rd]
  · rw [State.part_modPart hok', hpart, hpart]
  · rw [State.modPart_coreAt_frame, ← hcore, hseqs]
    rfl

/-! What the end of a load writes -/

/-- The load under way is over: LDR_STAT counts it, and the ingest engine is idle (R338). -/
def State.loadOver (s : State) : State := { s.loadFinished with load := none, ing := Ingest.idle }

/-- Of the registers this writes LDR_STAT alone, and it leaves cores and partitions. -/
theorem State.loadOver_frame {s : State} (ok : Canonical s) :
    WritesIn (fun a => a = Reg.LDR_STAT) s s.loadOver ∧ s.loadOver.jobTables = s.jobTables := by
  have hstat := (WritesIn.refl ok).wr (w := fun a => a = Reg.LDR_STAT) rfl
    (BitVec.ofNat 32 (s.fld Reg.LDR_STAT 15 8 * 256 + (s.fld Reg.LDR_STAT 7 0 + 1) % 256))
  have hend := hstat.of_regs (State.signal_kept hstat.ok.kept 135).ok (State.signal_regs _ _)
  exact ⟨hend.of_regs (hend.ok.of_tables rfl) rfl, State.signal_jobTables _ _⟩

theorem WritesIn.setPState {w : Nat → Prop} {s t : State} (h : WritesIn w s t) {p : Nat} (hp : w (Reg.LDR_PART p)) (v : Nat) :
    WritesIn w s (t.setPState p v) :=
  h.setFld hp _ _ _

/-- The status fields of a load lie apart from STATE, and ERSN is one of them. -/
theorem State.loadStatus_shows {s : State} (ok : Canonical s) (p status ingest : Nat) :
    (s.loadStatus p status ingest).pstate p = s.pstate p ∧ (s.loadStatus p status ingest).ersn p = 0 := by
  have hstat := ok.setFld (Reg.LDR_PART p) 28 24 status
  have hing := hstat.setFld (Reg.LDR_PART p) 23 20 ingest
  have hersn := hing.setFld (Reg.LDR_PART p) 19 16 0
  constructor
  · rw [State.pstate, State.loadStatus, State.fld_setFld_apart hersn _ _ _ _ _ _ (by decide), State.fld_setFld_apart hing _ _ _ _ _ _ (by decide),
      State.fld_setFld_apart hstat _ _ _ _ _ _ (by decide), State.fld_setFld_apart ok _ _ _ _ _ _ (by decide), State.pstate]
  · rw [State.ersn, State.loadStatus, State.fld_setFld_apart hersn _ _ _ _ _ _ (by decide), State.fld_setFld hing _ _ _ _ (by decide), Nat.zero_mod]

theorem State.loadStatus_jobTables (s : State) (p status ingest : Nat) : (s.loadStatus p status ingest).jobTables = s.jobTables := rfl

theorem State.loadStatus_writesIn {w : Nat → Prop} {s t : State} (h : WritesIn w s t) {p : Nat} (hw : w (Reg.LDR_PART p)) (status ingest : Nat) :
    WritesIn w s (t.loadStatus p status ingest) :=
  (((h.setFld hw _ _ _).setFld hw _ _ _).setFld hw _ _ _).setFld hw _ _ _

/-! The job that starts -/

/-- The counts of a partition that clear when its job starts (R94, R209, R291, R324). -/
def jobCounts (p : Nat) : List Nat :=
  [Reg.GLB_LOCK_EPOCH_LO p, Reg.GLB_LOCK_EPOCH_HI p, Reg.GLB_LOCK_STALL p, Reg.GLB_LOCK_EVT p, Reg.KVC_PFX p, Reg.KVC_PG p, Reg.SRV_OUT_PI p,
    Reg.SRV_OUT_CI p, Reg.SRV_PARTSTAT p]

/-- None of these is a register of the loader. -/
theorem jobCounts_ne {p : Nat} (hp : p < 64) : ∀ a ∈ jobCounts p, a ≠ Reg.LDR_PART p ∧ a ≠ Reg.LDR_STAT := by
  simp only [jobCounts, List.forall_mem_cons, Reg.GLB_LOCK_EPOCH_LO, Reg.GLB_LOCK_EPOCH_HI, Reg.GLB_LOCK_STALL, Reg.GLB_LOCK_EVT, Reg.KVC_PFX, Reg.KVC_PG,
    Reg.SRV_OUT_PI, Reg.SRV_OUT_CI, Reg.SRV_PARTSTAT, Reg.LDR_PART, Reg.LDR_STAT]
  refine ⟨?_, ?_, ?_, ?_, ?_, ?_, ?_, ?_, ?_, List.forall_mem_nil _⟩ <;> omega

theorem State.clearJobRegs_eq (s : State) (p : Nat) : s.clearJobRegs p =
    (s.wr (Reg.GLB_PRECISION_STAT p) (BitVec.ofNat 32 ((s.part p).qmode * 2 ^ 30))).zeroRegs (jobCounts p) := rfl

theorem State.zeroRegs_jobTables (s : State) (l : List Nat) : (s.zeroRegs l).jobTables = s.jobTables :=
  foldl_leaves State.jobTables (f := fun t a => t.wr a 0) (fun _ _ => rfl) l s

theorem State.clearJobRegs_frame {s : State} (ok : Canonical s) (p : Nat) :
    (∀ a ∈ jobCounts p, (s.clearJobRegs p).rd a = 0) ∧ (s.clearJobRegs p).jobTables = s.jobTables := by
  rw [State.clearJobRegs_eq]
  exact ⟨(State.zeroRegs_frame (ok.wr _ _) _).2, State.zeroRegs_jobTables _ _⟩

/-- Partition p after the start of its job: running, its load over. -/
def State.jobStarted (s : State) (p : Nat) : State :=
  (((((s.loadStep 7).clearJobRegs p).startPart p).setPState p 2).loadStatus p 0 0).loadOver

theorem State.part_of_jobTables {s t : State} (h : t.jobTables = s.jobTables) (p : Nat) : t.part p = s.part p :=
  congrArg (fun x : Tab Core × Tab Part => tabGet Part.zero x.2 p) h

theorem State.coreAt_of_jobTables {s t : State} (h : t.jobTables = s.jobTables) (k : Nat) : t.coreAt k = s.coreAt k :=
  congrArg (fun x : Tab Core × Tab Part => tabGet Core.zero x.1 k) h

/-- What the registers of partition p, the partitions and the cores read once its job has started. -/
structure JobStarted (s : State) (p : Nat) (keys : List Nat) (t : State) : Prop where
  pstate : t.pstate p = 2
  ersn : t.ersn p = 0
  counts : ∀ a ∈ jobCounts p, t.rd a = 0
  part : ∀ q, t.part q = if q = p then (s.part p).begun keys else s.part q
  core : ∀ k, t.coreAt k = if k ∈ keys then (s.coreAt k).begun else s.coreAt k

theorem State.jobStarted_shows {s : State} (ok : Canonical s) {p : Nat} (hp : p < 64) : ∃ keys, JobStarted s p keys (s.jobStarted p) := by
  have hstep : Canonical (s.loadStep 7) := ok.setFld _ _ _ _
  obtain ⟨hzero, htables⟩ := State.clearJobRegs_frame hstep p
  have hok := (State.clearJobRegs_kept hstep.kept p).ok
  rw [State.jobStarted]
  generalize (s.loadStep 7).clearJobRegs p = u at *
  obtain ⟨hstart, hpart, hcore⟩ := State.startPart_frame hok p
  have hstate := (WritesIn.refl hstart.ok).setPState (w := fun a => a = Reg.LDR_PART p) rfl 2
  obtain ⟨hpstate, hersn⟩ := State.loadStatus_shows hstate.ok p 0 0
  have hstatus := State.loadStatus_writesIn hstate rfl 0 0
  obtain ⟨hend, hendTables⟩ := State.loadOver_frame hstatus.ok
  have hstarted := hendTables.trans (State.loadStatus_jobTables ((u.startPart p).setPState p 2) p 0 0)
  have hne : Reg.LDR_PART p ≠ Reg.LDR_STAT := by
    simp only [Reg.LDR_PART, Reg.LDR_STAT]
    omega
  refine ⟨u.roleKeys p, ?_, (hend.fld hne 19 16).trans hersn, fun a ha => ?_, fun q => ?_, fun k => ?_⟩
  · exact (hend.fld hne 31 29).trans (hpstate.trans (State.fld_setFld hstart.ok _ _ _ _ (by decide)))
  · obtain ⟨hpartReg, hstatReg⟩ := jobCounts_ne hp a ha
    exact (hend.rd a hstatReg).trans ((hstatus.rd a hpartReg).trans ((hstart.rd a id).trans (hzero a ha)))
  · rw [State.part_of_jobTables hstarted, State.setPState, State.setFld_part_frame, hpart, State.part_of_jobTables htables, State.part_of_jobTables htables]
    rfl
  · rw [State.coreAt_of_jobTables hstarted, State.setPState, State.setFld_coreAt_frame, hcore, State.coreAt_of_jobTables htables]
    rfl

/-- Once ready, the job starts; no stop was held for it (R345). -/
theorem execJobStart_of_ready {s : State} {l : LoadJob} (hload : s.load = some l) (hready : s.startReady l.p = true) (hgo : l.stopAsked = false)
    (hnone : ((s.jobStarted l.p).part l.p).heldReason = none) : exec .jobStart s = .next (s.jobStarted l.p) := by
  show execJobStart s = _
  rw [execJobStart, hload]
  dsimp only
  rw [hready, hgo, if_neg (by simp), if_neg (by simp)]
  split
  next r hr => exact absurd (hnone.symm.trans hr) (by simp)
  next => rfl

/-- Settles O30: LOAD by the first of its checks that fails, and the start of the job by what it writes to the partition's registers and record and to the
cores with a role. That LOAD counts as dropped while READY is 0 is deduced (notes/assumptions/40.md); that steps 0 to 5 are one command is the model's choice
(20.md). -/
theorem loadAndJobStart : Obligations.LoadAndJobStart := by
  refine ⟨fun s v image => ?load, fun s l ok hload hp hready hgo hnone => ?start⟩
  case load =>
    intro p u w img cmd y stepping c hop hres
    rw [exec_load_of_op hop hres]
    refine ⟨fun hbusy => ?busy, fun hidle hready => ⟨fun hloaded => ?loaded, fun hfree hnone => ?none, fun hfree himage hform => ?form,
      fun hfree himage hform hbad => ?bad, fun hfree himage hform hgood => ?good⟩⟩
    case busy => rw [State.doLoad_of_busy hbusy]
    case loaded => rw [State.doLoad_of_loaded hidle hready hloaded]
    case none =>
      subst hnone
      exact congrArg _ (State.doLoad_of_no_image hidle hready hfree)
    all_goals
      obtain ⟨b, rfl⟩ := Option.ne_none_iff_exists'.1 himage
      rw [State.doLoad_of_image hidle hready hfree rfl]
    case form => exact congrArg _ (State.loadImage_of_bad_format hform)
    case bad => exact congrArg _ (State.loadImage_of_bad_image hform hbad)
    case good => exact congrArg _ (State.loadImage_of_good_image hform hgood)
  case start =>
    obtain ⟨keys, h⟩ := State.jobStarted_shows ok hp
    have hpart : (s.jobStarted l.p).part l.p = (s.part l.p).begun keys := (h.part _).trans (if_pos rfl)
    refine ⟨_, execJobStart_of_ready hload hready hgo (by rw [hpart]; exact hnone), h.pstate, h.ersn, rfl, rfl, h.counts _ (by simp [jobCounts]),
      h.counts _ (by simp [jobCounts]), h.counts _ (by simp [jobCounts]), h.counts _ (by simp [jobCounts]), ?_⟩
    rw [hpart]
    exact ⟨rfl, rfl, rfl, fun q hq => (h.part q).trans (if_neg hq),
      fun k hk hpow hidle => (h.core k).trans ((if_pos hk).trans (Core.begun_of_idle hpow hidle)), fun k hk => (h.core k).trans (if_neg hk)⟩

/-! ### KILL (O31) -/

section
variable {s : State} {p reason : Nat}

theorem OnlyRegs.setParts {l : List Nat} {s t : State} (h : OnlyRegs l s t) (x : Tab Part) : OnlyRegs l { s with parts := x } { t with parts := x } :=
  ⟨congrArg (fun u : State => { u with parts := x }) h.1, h.2⟩

theorem OnlyRegs.part_eq {l : List Nat} {s t : State} (h : OnlyRegs l s t) (p : Nat) : t.part p = s.part p :=
  (congrArg (fun u : State => u.part p) h.1 :)

section
variable (hrun : s.pstate p = 2) (hepoch : (s.part p).stopEpoch = none) (hstall : (s.part p).stall = false)
include hrun hepoch hstall

/-- A stop that reaches a running job outside stall mode becomes pending now (R346). -/
theorem State.stopPart_of_running : s.stopPart p reason =
    ((s.setFld (Reg.LDR_PART p) 19 16 reason).setPart p { s.part p with stopPending := true, stopTime := some s.time }).setPState p 3 := by
  rw [State.stopPart]
  simp only [hrun, hepoch, hstall]
  rfl

/-- It writes the partition's record and its LDR_PART. -/
theorem State.stopPart_frame (ok : Canonical s) :
    (∀ q, (s.stopPart p reason).part q = if q = p then { s.part p with stopPending := true, stopTime := some s.time } else s.part q) ∧
      OnlyRegs [Reg.LDR_PART p] { s with parts := (s.stopPart p reason).parts } (s.stopPart p reason) := by
  have hreason := ok.setFld (Reg.LDR_PART p) 19 16 reason
  rw [State.stopPart_of_running hrun hepoch hstall]
  refine ⟨fun q => State.part_setPart hreason p q _, ?_⟩
  exact (((OnlyRegs.refl [Reg.LDR_PART p] s).wr ok (List.mem_singleton.2 rfl) _).setParts _).wr (hreason.setPart _ _) (List.mem_singleton.2 rfl) _

end
end

/-- KILL of a running job outside stall mode (R345): reserved bits of the command may be told in HIF_STAT. -/
theorem kill_stops {s : State} (ok : Canonical s) {v : Word} {p : Nat} (hop : field v 31 28 = 2) (hpart : field v 27 22 = p) (hrun : s.pstate p = 2)
    (hstall : (s.part p).stall = false) (hepoch : (s.part p).stopEpoch = none) : Completes (.kill v) s fun t =>
      t.pstate p = 3 ∧ t.ersn p = 2 ∧ t.part p = { s.part p with stopPending := true, stopTime := some s.time } ∧
        (∀ q, q ≠ p → t.part q = s.part q) ∧ t.cores = s.cores ∧ OnlyRegs [Reg.LDR_PART p, Reg.HIF_STAT] { s with parts := t.parts } t := by
  subst hpart
  have hexec : exec (.kill v) s = .next ((s.reservedBits 0 v 0x3FF).stopPart (field v 27 22) 2) := congrArg _ (if_pos hop)
  obtain ⟨hres, -⟩ := State.reservedBits_frame ok 0 v 0x3FF
  have hok := ok.reservedBits 0 v 0x3FF
  refine ⟨_, hexec, ?_⟩
  generalize s.reservedBits 0 v 0x3FF = u at *
  have hparts : ∀ q, u.part q = s.part q := hres.part_eq
  have htime : u.time = s.time := (congrArg State.time hres.1 :)
  have hcores : u.cores = s.cores := (congrArg State.cores hres.1 :)
  have hne : Reg.LDR_PART (field v 27 22) ∉ [Reg.HIF_STAT] := by
    simp only [List.mem_singleton, Reg.LDR_PART, Reg.HIF_STAT]
    omega
  have hrun' : u.pstate (field v 27 22) = 2 := by rw [State.pstate, State.fld, hres.2 _ hne]; exact hrun
  have hepoch' := (congrArg Part.stopEpoch (hparts (field v 27 22))).trans hepoch
  have hstall' := (congrArg Part.stall (hparts (field v 27 22))).trans hstall
  obtain ⟨hstopCores, hstate, hersn⟩ := State.stopPart_running hok hrun' hepoch' hstall' (reason := 2) (by decide)
  obtain ⟨hpart, honly⟩ := State.stopPart_frame hrun' hepoch' hstall' hok (reason := 2)
  refine ⟨hstate, hersn, ?_, fun q hq => ?_, hstopCores.trans hcores, ((hres.setParts _).trans honly).mono (by simp)⟩
  · rw [hpart, if_pos rfl, hparts, htime]
  · rw [hpart, if_neg hq, hparts]

/-! ### RELEASE and its end (O31) -/

/-- Clearing rows changes cores alone. -/
theorem State.clearRows_cores (s : State) (r a n : Nat) : s.clearRows r a n = { s with cores := (s.clearRows r a n).cores } := by
  refine foldl_cores (fun t i => ?_) _ s
  split <;> rfl

/-- What POOL reads after the release of held weights: neither sealed nor held, and releasing (R240). -/
theorem State.releaseHeld_shows {s : State} (ok : Canonical s) (r : Nat) :
    (s.releaseHeld r).holds r = false ∧ (s.releaseHeld r).sealedW r = false ∧ (s.releaseHeld r).releasing r = true ∧
      (s.releaseHeld r).rd (Reg.RGNW_POOL_ID r) = 0 ∧ ((s.releaseHeld r).region r).heldKey = 0 := by
  have hrows := (State.clearRows_kept ok.kept r 0 (4096 * s.poolWres r)).ok
  rw [State.releaseHeld]
  generalize s.clearRows r 0 (4096 * s.poolWres r) = u at *
  have hseal := hrows.setFld (Reg.RGNW_POOL r) 3 3 0
  have hheld := hseal.setFld (Reg.RGNW_POOL r) 2 2 0
  have hpool := hheld.setFld (Reg.RGNW_POOL r) 1 1 1
  have hne : Reg.RGNW_POOL r ≠ Reg.RGNW_POOL_ID r := by simp [Reg.RGNW_POOL, Reg.RGNW_POOL_ID]
  have hrd : ((((u.setFld (Reg.RGNW_POOL r) 3 3 0).setFld (Reg.RGNW_POOL r) 2 2 0).setFld (Reg.RGNW_POOL r) 1 1 1).wr (Reg.RGNW_POOL_ID r) 0).rd
      (Reg.RGNW_POOL r) = setField (setField (setField (u.rd (Reg.RGNW_POOL r)) 3 3 0) 2 2 0) 1 1 1 := by
    rw [State.rd_wr_ne hpool _ hne, State.rd_setFld hheld, if_pos rfl, State.rd_setFld hseal, if_pos rfl, State.rd_setFld hrows, if_pos rfl]
  refine ⟨?_, ?_, ?_, State.rd_wr_same hpool _ _, by rw [State.region_modRegion (hpool.wr _ _), if_pos rfl]⟩
  · rw [State.holds, State.modRegion_rd_frame, hrd, flag_setField_apart _ _ _ _ _ (by decide), flag_setField _ _ _ (by decide)]
    rfl
  · rw [State.sealedW, State.modRegion_rd_frame, hrd, flag_setField_apart _ _ _ _ _ (by decide), flag_setField_apart _ _ _ _ _ (by decide),
      flag_setField _ _ _ (by decide)]
    rfl
  · rw [State.releasing, State.modRegion_rd_frame, hrd, flag_setField _ _ _ (by decide)]
    rfl

/-- RELEASE of a region that no partition uses. -/
theorem exec_release_of_held {s : State} {v : Word} {r : Nat} (hop : field v 31 28 = 3) (hone : flag v 21 = true) (hres : v &&& 0x3FF = 0)
    (hplace : s.last.phys (field v 20 15) (field v 14 10) = some r) (hheld : s.holds r = true) (hfree : (s.region r).part = none) :
    exec (.release v) s = .next (s.releaseHeld r) := by
  show execRelease v s = _
  rw [execRelease, if_pos hop, State.reservedBits_of_clear s hres, if_pos hone, hplace]
  exact congrArg _ (if_pos (by rw [hheld, hfree]; rfl))

/-- The release done, a region of no partition holds no pool units. -/
theorem exec_heldWeightReleaseDone_of_free {s : State} {r : Nat} (hrel : s.releasing r = true) (hfree : (s.region r).part = none) (hidle : s.ing.part = none) :
    exec (.heldWeightReleaseDone r) s = .next ((s.setFld (Reg.RGNW_POOL r) 1 1 0).wr (Reg.RGNW_POOL r) 0xFF000000) := by
  show execHeldWeightReleaseDone r s = _
  rw [execHeldWeightReleaseDone, if_pos hrel]
  simp only [State.setFld_region_frame, hfree, Option.isNone_none, if_true, State.wr_ing, State.setFld_ing, hidle]

/-! ### The stop time-out (O31) -/

/-- A core that its job's stop halts. -/
def Core.forced (c : Core) : Core := { c with phase := .haltedTB }

/-- The started cores of p that still run. -/
def State.lateCores (s : State) (p : Nat) : List Nat := (s.part p).started.filter fun k => decide ((s.coreAt k).phase = .running)

theorem State.mem_lateCores {s : State} {p k : Nat} : k ∈ s.lateCores p ↔ k ∈ (s.part p).started ∧ (s.coreAt k).phase = .running := by
  rw [State.lateCores, List.mem_filter, decide_eq_true_iff]

theorem exec_stopTimeout_of_late {s : State} {p : Nat} {t0 : Long} (hstop : s.pstate p = 3) (htime : (s.part p).stopTime = some t0)
    (hdue : s.elapsed t0 (1000 * (s.part p).stopTmo) = true) (hlate : ∃ k ∈ (s.part p).started, (s.coreAt k).phase = .running) :
    exec (.stopTimeout p) s = .next (((s.lateCores p).foldl (fun (t : State) k => t.modCoreAt k Core.forced) s).setFld (Reg.LDR_PART p) 15 15 1) := by
  obtain ⟨k, hk⟩ := hlate
  have hsome : ¬(s.lateCores p = [] ∨ !(s.elapsed t0 (1000 * (s.part p).stopTmo))) := by
    rw [hdue]
    simpa using List.ne_nil_of_mem (State.mem_lateCores.2 hk)
  show execStopTimeout p s = _
  rw [execStopTimeout]
  simp only [hstop, htime]
  exact congrArg _ (if_neg hsome)

/-- The stop time-out halts the late cores and sets FORCED (R346). -/
theorem stopTimeout_forces {s : State} (ok : Canonical s) {p : Nat} {t0 : Long} (hstop : s.pstate p = 3) (htime : (s.part p).stopTime = some t0)
    (hdue : s.elapsed t0 (1000 * (s.part p).stopTmo) = true) (hlate : ∃ k ∈ (s.part p).started, (s.coreAt k).phase = .running) :
    Completes (.stopTimeout p) s fun t => t.fld (Reg.LDR_PART p) 15 15 = 1 ∧ OnlyRegs [Reg.LDR_PART p] { s with cores := t.cores } t ∧
      ∀ k, t.coreAt k = if k ∈ (s.part p).started ∧ (s.coreAt k).phase = .running then { s.coreAt k with phase := .haltedTB } else s.coreAt k := by
  have hcores := foldl_cores (f := fun (t : State) k => t.modCoreAt k Core.forced) (fun _ _ => rfl) (s.lateCores p) s
  have hcore := State.coreAt_foldl_modCoreAt (f := Core.forced) (fun _ => rfl) (s.lateCores p) ok
  have hok := ok.foldl_modCoreAt Core.forced (s.lateCores p)
  refine ⟨_, exec_stopTimeout_of_late hstop htime hdue hlate, ?_⟩
  generalize (s.lateCores p).foldl (fun (t : State) k => t.modCoreAt k Core.forced) s = u at *
  refine ⟨State.fld_setFld hok _ _ _ _ (by decide), ?_, fun k => (hcore k).trans (if_congr State.mem_lateCores rfl rfl)⟩
  have hhalt : OnlyRegs [Reg.LDR_PART p] { s with cores := u.cores } u := hcores ▸ .refl _ u
  exact hhalt.wr hok (List.mem_singleton.2 rfl) _

/-- Settles O31: KILL by the stop that reaches a running job, RELEASE and its end by what they write to the region's POOL, and the time-out by the cores it
halts. -/
theorem killAndRelease : Obligations.KillAndRelease := by
  intro s v p r ok _ _
  refine ⟨kill_stops ok, fun hop hone hres hplace hheld hfree => ?release,
    fun hrel hfree hidle => ?done, fun _ => stopTimeout_forces ok⟩
  case release => exact ⟨_, exec_release_of_held hop hone hres hplace hheld hfree, State.releaseHeld_shows ok r⟩
  case done =>
    have hpool := ok.setFld (Reg.RGNW_POOL r) 1 1 0
    exact ⟨_, exec_heldWeightReleaseDone_of_free hrel hfree hidle, State.rd_wr_same hpool _ _,
      ((OnlyRegs.refl [Reg.RGNW_POOL r] s).wr ok (List.mem_singleton.2 rfl) _).wr hpool (List.mem_singleton.2 rfl) _⟩

/-! ### The end of a job's serving, and the beginning of its zeroization (O32) -/

/-- One region of a partition whose zeroization begins: its cores zeroize, its sequencer is back in the service program, its engines are idle. -/
def State.zeroizeRegion (s : State) (r : Nat) : State :=
  (s.mapCores r fun _ c => { c with phase := match c.phase with
    | .failed => .failed
    | .off => .off
    | _ => .zeroizing }).modRegion r fun x =>
      { x with zeroizing := true, seq := { x.seq with state := if x.pstate = 0 then 0 else 1 }, emissions := [], moves := [], le := ListEngine.idle }

/-- Partition p as its zeroization begins, before its regions. -/
def State.zeroizeOpened (s : State) (p : Nat) : State := ((s.purgeFabric p).setPState p 4).modPart p fun x => { x with stopTime := some s.time }

section
variable {s : State} {p : Nat}

theorem State.beginZeroize_eq (s : State) (p : Nat) : s.beginZeroize p =
    ((s.zeroizeOpened p).part p).placed.foldl (fun (t : State) g => t.zeroizeRegion g.r) (s.zeroizeOpened p) := rfl

theorem Canonical.purgeFabric (ok : Canonical s) (p : Nat) : Canonical (s.purgeFabric p) := (State.purgeFabric_kept ok.kept p).ok

theorem Canonical.zeroizeOpened (ok : Canonical s) (p : Nat) : Canonical (s.zeroizeOpened p) := ((ok.purgeFabric p).setFld _ _ _ _).modPart _ _

theorem State.zeroizeOpened_placed (ok : Canonical s) (p : Nat) : ((s.zeroizeOpened p).part p).placed = (s.part p).placed := by
  have hok : Canonical ((s.purgeFabric p).setPState p 4) := (ok.purgeFabric p).setFld _ _ _ _
  rw [State.zeroizeOpened, State.part_modPart hok, if_pos rfl]
  rfl

theorem Canonical.mapCores (ok : Canonical s) (r : Nat) (f : Nat → Core → Core) : Canonical (s.mapCores r f) := (State.mapCores_kept ok.kept r f).ok

@[simp] theorem State.mapCores_flt (s : State) (r : Nat) (f : Nat → Core → Core) : (s.mapCores r f).flt = s.flt :=
  foldl_leaves State.flt (fun t _ => t.modCoreAt_flt _ _) _ s

@[simp] theorem State.zeroizeRegion_regs (s : State) (r : Nat) : (s.zeroizeRegion r).regs = s.regs := by
  rw [State.zeroizeRegion, State.modRegion_regs, State.mapCores_regs]

@[simp] theorem State.zeroizeRegion_flt (s : State) (r : Nat) : (s.zeroizeRegion r).flt = s.flt := by
  rw [State.zeroizeRegion, State.modRegion_flt, State.mapCores_flt]

theorem Canonical.zeroizeRegion (ok : Canonical s) (r : Nat) : Canonical (s.zeroizeRegion r) := (ok.mapCores r _).modRegion r _

theorem State.pstate_of_regs {t : State} (h : t.regs = s.regs) (p : Nat) : t.pstate p = s.pstate p :=
  congrArg (fun l => field ((tabFind l (Reg.LDR_PART p)).getD (regReset (Reg.LDR_PART p))) 31 29) h

/-- A region that zeroizes, and any other as it was. -/
theorem State.zeroizeRegion_zeroizing (ok : Canonical s) (r i : Nat) :
    ((s.zeroizeRegion r).region i).zeroizing = if i = r then true else (s.region i).zeroizing := by
  rw [State.zeroizeRegion, State.region_modRegion (ok.mapCores r _), State.mapCores_region, State.mapCores_region]
  split <;> rfl

/-- Zeroization begins: STATE 4, and every placed region zeroizes (R459). -/
theorem State.beginZeroize_shows (ok : Canonical s) (p : Nat) : (s.beginZeroize p).pstate p = 4 ∧
    (∀ g ∈ (s.part p).placed, ((s.beginZeroize p).region g.r).zeroizing = true) ∧ (s.beginZeroize p).flt = s.flt := by
  have hopened : (s.zeroizeOpened p).pstate p = 4 := State.fld_setFld (ok.purgeFabric p) _ _ _ _ (by decide)
  rw [State.beginZeroize_eq, State.zeroizeOpened_placed ok]
  refine ⟨?_, ?_, foldl_leaves State.flt (fun t (g : Placed) => t.zeroizeRegion_flt g.r) _ _⟩
  · exact (State.pstate_of_regs (foldl_leaves State.regs (fun t (g : Placed) => t.zeroizeRegion_regs g.r) _ _) p).trans hopened
  · exact (foldl_sets (I := Canonical) (Q := fun g t => (t.region g.r).zeroizing = true) (fun t ht (g : Placed) _ => ht.zeroizeRegion g.r)
      (fun t ht g _ => by rw [State.zeroizeRegion_zeroizing ht, if_pos rfl])
      (fun t ht g _ g' _ hg => by rw [State.zeroizeRegion_zeroizing ht, hg, ite_self]) (ok.zeroizeOpened p)).2

/-! Nothing left to serve -/

theorem State.endServing_of_none (hseqs : s.seqsOf p = []) (hloads : ∀ e ∈ s.srv.adapters, ¬(e.2.part = p ∧ e.2.state = 1))
    (hqueue : (s.part p).adQueue = []) : s.endServing p = s.setPart p { s.part p with passes := [] } := by
  have hnone : (s.srv.adapters.filter fun e => decide (e.2.part = p ∧ e.2.state = 1)) = [] :=
    List.filter_eq_nil_iff.2 fun e he h => hloads e he (of_decide_eq_true h)
  have hpart : ({ s.part p with adQueue := [], passes := [] } : Part) = { s.part p with passes := [] } :=
    congrArg (fun q => ({ s.part p with adQueue := q, passes := [] } : Part)) hqueue.symm
  rw [State.endServing, hseqs, List.foldl_nil]
  dsimp only
  rw [hnone, hqueue, State.modPart, hpart]
  rfl

theorem State.endAssists_of_none (hbusy : (tabGet Rings.zero s.hif.rings p).busy = []) : s.endAssists p = s := by
  rw [State.endAssists, hbusy, List.foldl_nil]

/-- Such a job goes straight to its zeroization. -/
theorem State.endJob_of_none {u : State} (hserve : s.endServing p = u) (hassist : u.endAssists p = u) (hspare : (u.beginZeroize p).flt.current = none) :
    s.endJob p = u.beginZeroize p := by
  rw [State.endJob, hserve, hassist]
  simp only [hspare]

/-- No started core runs, and no spare procedure goes on (R346). -/
theorem exec_allCoresHalted_of_halted (hstop : s.pstate p = 3) (hspare : s.sparing p = false)
    (hhalted : ∀ k ∈ (s.part p).started, (s.coreAt k).phase ≠ .running) : exec (.allCoresHalted p) s = .next (s.endJob p) := by
  have hnone : ((s.part p).started.any fun k => decide ((s.coreAt k).phase = .running)) = false :=
    List.any_eq_false.2 fun k hk => by simpa using hhalted k hk
  show execAllCoresHalted p s = _
  rw [execAllCoresHalted, if_neg (by simp [hstop, hspare, hnone])]

end

/-! ### The end of zeroization (O32) -/

section
variable {s : State} {p r : Nat}

@[simp] theorem State.clearRows_flt (s : State) (r a n : Nat) : (s.clearRows r a n).flt = s.flt := by
  rw [State.clearRows_cores]

/-! What neither the clearing of regions nor the end of a partition's record changes: the fault tables, with the spare procedure -/

@[simp] theorem State.clearRegion_flt (s : State) (r : Nat) : (s.clearRegion r).flt = s.flt := by
  rw [State.clearRegion]
  dsimp only
  rw [State.wr_flt, State.setFld_flt]
  refine (foldl_leaves State.flt ?rings _ _).trans ?_
  case rings => exact fun _ _ => rfl
  rw [State.modRegion_flt, State.mapCores_flt, State.clearRows_flt]

@[simp] theorem State.endExtents_flt (s : State) (p : Nat) : (s.endExtents p).flt = s.flt := by
  rw [State.endExtents]
  dsimp only
  rw [apply_ite State.flt, State.setFld_flt, ite_self]

@[simp] theorem State.clearWelt_flt (s : State) (p : Nat) : (s.clearWelt p).flt = s.flt := by
  rw [State.clearWelt]
  dsimp only
  rw [State.setFld_flt, State.setFld_flt]

@[simp] theorem State.logEvent_flt (s : State) (code arg : Nat) (data : Bytes) : (s.logEvent code arg data).flt = s.flt := by
  rw [State.logEvent, State.logRaw]
  by_cases hopen : s.flashOpen = true
  · simp only [if_pos hopen]
    rfl
  · simp only [if_neg hopen]
    rfl

@[simp] theorem State.restRegion_flt (s : State) (r : Nat) : (s.restRegion r).flt = s.flt := by
  rw [State.restRegion, apply_ite State.flt, State.modRegion_flt, State.mapCores_flt, ite_self]

/-! The partition is free -/

/-- A stall-mode job's epochs stay readable (R209). -/
def State.epochKept (s : State) (p : Nat) : State :=
  if (s.part p).stall then s.wr64 (Reg.GLB_LOCK_EPOCH_LO p) (Reg.GLB_LOCK_EPOCH_HI p) (s.part p).epoch else s

@[simp] theorem State.epochKept_flt (s : State) (p : Nat) : (s.epochKept p).flt = s.flt := by
  rw [State.epochKept, apply_ite State.flt]
  exact ite_self _

/-- Without a spare procedure under way, what is left of partition p is its cleared record and registers. -/
theorem State.freePart_eq (hspare : s.flt.current = none) : s.freePart p =
    ((((((s.epochKept p).endExtents p).clearWelt p).setPart p Part.zero).setPState p 0).setFld (Reg.GLB_PMODE p) 21 16 0).setFld
      (Reg.GLB_PRECISION_STAT p) 31 30 0 := by
  have hcurrent : ((((s.epochKept p).endExtents p).clearWelt p).setPart p Part.zero).flt.current = none := by
    rw [State.setPart_flt, State.clearWelt_flt, State.endExtents_flt, State.epochKept_flt, hspare]
  rw [State.freePart]
  dsimp only
  split
  next q hq => exact absurd (hcurrent.symm.trans hq) (by simp)
  next => rfl

theorem State.freePart_shows (ok : Canonical s) (hspare : s.flt.current = none) (hp : p < 64) :
    (s.freePart p).pstate p = 0 ∧ (s.freePart p).part p = Part.zero ∧ (s.freePart p).flt = s.flt := by
  have hkept : Kept s.pending (s.epochKept p) := by
    rw [State.epochKept]
    exact kept_ite (State.wr64_kept ok.kept _ _ _) ok.kept
  have hwelt := (State.clearWelt_kept (State.endExtents_kept hkept p) p).ok
  have hstate : Canonical (((((s.epochKept p).endExtents p).clearWelt p).setPart p Part.zero).setPState p 0) := (hwelt.setPart _ _).setFld _ _ _ _
  have hne : Reg.LDR_PART p ≠ Reg.GLB_PRECISION_STAT p ∧ Reg.LDR_PART p ≠ Reg.GLB_PMODE p := by
    simp only [Reg.LDR_PART, Reg.GLB_PRECISION_STAT, Reg.GLB_PMODE]
    omega
  rw [State.freePart_eq hspare]
  refine ⟨?_, ?_, ?_⟩
  · rw [State.pstate, State.fld_setFld_ne (hstate.setFld _ _ _ _) _ _ _ _ _ hne.1, State.fld_setFld_ne hstate _ _ _ _ _ hne.2, State.setPState,
      State.fld_setFld (hwelt.setPart _ _) _ _ _ _ (by decide), Nat.zero_mod]
  · rw [State.setFld_part_frame, State.setFld_part_frame, State.setPState, State.setFld_part_frame, State.part_setPart hwelt, if_pos rfl]
  · rw [State.setFld_flt, State.setFld_flt, State.setPState, State.setFld_flt, State.setPart_flt, State.clearWelt_flt, State.endExtents_flt,
      State.epochKept_flt]

/-- Partition p free, its regions cleared (R459). -/
def State.jobFreed (s : State) (p : Nat) : State := (((s.part p).placed.map (·.r)).foldl (fun (t : State) r => t.clearRegion r) s).freePart p

theorem State.jobFreed_shows (ok : Canonical s) (hspare : s.flt.current = none) (hp : p < 64) :
    (s.jobFreed p).pstate p = 0 ∧ (s.jobFreed p).part p = Part.zero ∧ (s.jobFreed p).flt = s.flt := by
  have hflt : (((s.part p).placed.map (·.r)).foldl (fun (t : State) r => t.clearRegion r) s).flt = s.flt :=
    foldl_leaves State.flt State.clearRegion_flt _ s
  have hok := (kept_foldl (l := (s.part p).placed.map (·.r)) (fun t r ht => State.clearRegion_kept ht r) ok.kept).ok
  obtain ⟨hstate, hpart, hsame⟩ := State.freePart_shows hok (hflt ▸ hspare) hp
  exact ⟨hstate, hpart, hsame.trans hflt⟩

/-- The moment from which the logged duration counts: the time noted in the record, or now when none is. -/
def State.endBegan (s : State) (p : Nat) : Nat := if (s.part p).stopTime.isSome then ((s.part p).stopTime.getD 0).toNat else s.now

/-- The regions of an ended job, the governor's filler apart, sleep again (R414). -/
def State.restRegions (s : State) (rs : List Nat) : State := rs.foldl (fun (t : State) r => t.restRegion r) s

@[simp] theorem State.restRegions_flt (s : State) (rs : List Nat) : (s.restRegions rs).flt = s.flt := foldl_leaves State.flt State.restRegion_flt rs s

/-- Every item has read back as zero, and no spare procedure is under way or waits. -/
theorem exec_zeroizeDone_of_verified (ok : Canonical s) (hp : p < 64) (hzero : s.pstate p = 4) (hspare : s.flt.current = none)
    (hqueue : s.flt.queue = []) : exec (.zeroizeDone p []) s = .next
      (((s.jobFreed p).logEvent 20 p (leBytes 4 ((s.jobFreed p).now - s.endBegan p) ++ [0])).restRegions ((s.part p).placed.map (·.r))) := by
  obtain ⟨-, -, hflt⟩ := State.jobFreed_shows ok hspare hp
  have hquiet : ∀ d rs, ¬((((s.jobFreed p).logEvent 20 p d).restRegions rs).flt.current.isNone &&
      !(((s.jobFreed p).logEvent 20 p d).restRegions rs).flt.queue.isEmpty) = true := by
    simp [hflt, hqueue]
  show execZeroizeDone p [] s = _
  rw [execZeroizeDone, if_neg (not_not.2 hzero), State.endBegan]
  simp only [List.any_nil, Bool.and_false, List.filter_false, List.foldl_nil, if_true]
  cases (s.part p).stopTime <;> exact congrArg _ (if_neg (hquiet _ _))

end

/-- Settles O32: a job with nothing left to serve goes straight to its zeroization, and a zeroized one leaves its regions, its extents and its record free.
That content is cleared at the moment ZEROIZE_DONE reports it is deduced (notes/assumptions/44.md); that the duration runs from the moment zeroization began is
the model's choice (124.md). -/
theorem jobEnds : Obligations.JobEnds := by
  intro s p ok hp
  refine ⟨fun hstop hspare hhalted hcurrent hseqs hloads hqueue hbusy => ?halted, fun hzero hspare hqueue => ?zeroed, fun e l hclear => ?cleared⟩
  case halted =>
    have hu := ok.setPart p { s.part p with passes := [] }
    obtain ⟨hstate, hzeroizing, hflt⟩ := State.beginZeroize_shows hu p
    refine ⟨(exec_allCoresHalted_of_halted hstop hspare hhalted).trans (congrArg _ ?_), hstate, ?_⟩
    · exact State.endJob_of_none (State.endServing_of_none hseqs hloads hqueue) (State.endAssists_of_none hbusy)
        ((congrArg Faults.current hflt).trans hcurrent)
    · rwa [State.part_setPart ok, if_pos rfl] at hzeroizing
  case zeroed =>
    obtain ⟨hstate, hpart, -⟩ := State.jobFreed_shows ok hspare hp
    exact ⟨exec_zeroizeDone_of_verified ok hp hzero hspare hqueue, hstate, hpart⟩
  case cleared =>
    show execRimClearDone s = _
    rw [execRimClearDone, hclear]

end Sys2Proof.Machine

/-! SUPPORT. What the statements of chapters 13 to 19 share: registers that a write leaves, and what faults, stops and log entries leave of the rest of the state. -/

namespace Sys2Proof.Machine

/-! ### Registers that a write leaves -/

section
variable {s : State}

/-- A field above the one written keeps its value, in whichever register. -/
theorem State.fld_setFld_above (ok : Canonical s) (a hi lo v b : Nat) {hi' lo' : Nat} (hd : hi < lo') :
    (s.setFld a hi lo v).fld b hi' lo' = s.fld b hi' lo' := by
  by_cases hb : b = a
  · rw [hb, State.fld_setFld_apart ok _ _ _ _ _ _ (.inl hd)]
  · exact State.fld_setFld_ne ok _ _ _ _ _ hb

/-- STATE of a partition is the highest field of its register: a field below it leaves every owner. -/
theorem State.owner_setFld (ok : Canonical s) (a : Nat) {hi : Nat} (lo v r : Nat) (hd : hi < 29) : (s.setFld a hi lo v).owner r = s.owner r := by
  have hstate : ∀ p, (s.setFld a hi lo v).pstate p = s.pstate p := fun p => State.fld_setFld_above ok a hi lo v _ hd
  simp only [State.owner, State.setFld_region_frame, hstate]

end

/-- All of a state but its registers. -/
def State.noRegs (s : State) : State := { s with regs := [] }

@[simp] theorem State.noRegs_wr (s : State) (a : Nat) (v : Word) : (s.wr a v).noRegs = s.noRegs := rfl
@[simp] theorem State.noRegs_setFld (s : State) (a hi lo v : Nat) : (s.setFld a hi lo v).noRegs = s.noRegs := rfl
@[simp] theorem State.noRegs_bump (s : State) (a hi lo : Nat) : (s.bump a hi lo).noRegs = s.noRegs := rfl
@[simp] theorem State.noRegs_bumpBy (s : State) (a hi lo n : Nat) : (s.bumpBy a hi lo n).noRegs = s.noRegs := rfl

/-! What two states that agree beside their registers share. -/

section
variable {s t : State}

theorem State.pwr_of_noRegs (h : t.noRegs = s.noRegs) : t.pwr = s.pwr := (congrArg State.pwr h :)
theorem State.time_of_noRegs (h : t.noRegs = s.noRegs) : t.time = s.time := (congrArg State.time h :)

end

/-! ### What faults, stops and log entries leave -/

/-- All of a state but what the event log, a fault record and an interrupt write. -/
def State.unlogged (s : State) : State := { s with regs := [], flt := Faults.zero, mgt := Mgmt.zero, hif := HostIf.zero }

/-- Of that, all but what stops, bring-up and the last write. -/
def State.unfaulted (s : State) : State :=
  { s.unlogged with parts := [], load := none, pendLast := none, srv := Serving.zero, boot := Boot.zero }

section
variable {s t : State}

theorem State.unfaulted_of_unlogged (h : t.unlogged = s.unlogged) : t.unfaulted = s.unfaulted :=
  congrArg (fun u : State => { u with parts := [], load := none, pendLast := none, srv := Serving.zero, boot := Boot.zero }) h

theorem State.boot_of_unlogged (h : t.unlogged = s.unlogged) : t.boot = s.boot := (congrArg State.boot h :)
theorem State.parts_of_unlogged (h : t.unlogged = s.unlogged) : t.parts = s.parts := (congrArg State.parts h :)
theorem State.regions_of_unfaulted (h : t.unfaulted = s.unfaulted) : t.regions = s.regions := (congrArg State.regions h :)
theorem State.cores_of_unfaulted (h : t.unfaulted = s.unfaulted) : t.cores = s.cores := (congrArg State.cores h :)

theorem State.region_of_unfaulted (h : t.unfaulted = s.unfaulted) (r : Nat) : t.region r = s.region r := by
  rw [State.region, State.regions_of_unfaulted h, State.region]

theorem State.coreAt_of_unfaulted (h : t.unfaulted = s.unfaulted) (k : Nat) : t.coreAt k = s.coreAt k := by
  rw [State.coreAt, State.cores_of_unfaulted h, State.coreAt]

end

theorem State.signalPort_unlogged (s : State) (port v : Nat) : (s.signalPort port v).unlogged = s.unlogged := by
  rw [State.signalPort]
  dsimp only
  split <;> rfl

theorem State.signal_unlogged (s : State) (v : Nat) : (s.signal v).unlogged = s.unlogged := by
  rw [State.signal]
  split
  · exact State.signalPort_unlogged _ _ _
  · exact (State.signalPort_unlogged _ _ _).trans (State.signalPort_unlogged _ _ _)

theorem State.logRaw_unlogged (s : State) (code : Nat) (arg : Word) (body : Bytes) : (s.logRaw code arg body).unlogged = s.unlogged := by
  rw [State.logRaw]
  by_cases hopen : s.flashOpen = true
  · simp only [if_pos hopen]
    rfl
  · simp only [if_neg hopen]
    rfl

theorem State.logEvent_unlogged (s : State) (code arg : Nat) (data : Bytes) : (s.logEvent code arg data).unlogged = s.unlogged :=
  State.logRaw_unlogged _ _ _ _

theorem State.writeRecord_unlogged (s : State) (inj : Bool) (cls src part detail : Nat) (loc : Word) :
    (s.writeRecord inj cls src part detail loc).unlogged = s.unlogged := by
  rw [State.writeRecord]
  dsimp only
  split
  · exact State.logRaw_unlogged _ _ _ _
  · exact (State.signal_unlogged _ _).trans (State.logRaw_unlogged _ _ _ _)

/-- What a deferred fault's rate is kept for: its partition, or its place when none is concerned (R421). -/
def deferredKey (part : Option Nat) (loc : Word) : Nat := part.elim (64 + loc.toNat) id

/-- A deferred fault counts, and is recorded when its rate allows. -/
theorem State.deferredD_eq (s : State) (src : Nat) (part : Option Nat) (detail : Nat) (loc : Word) (inj : Bool) :
    s.deferredD src part detail loc inj = if rateOk s.flt.lastDeferred (deferredKey part loc) 1000000 s.now then
      ({ s.countClass 1 with flt := { s.flt with lastDeferred := tabAdd s.flt.lastDeferred (deferredKey part loc) s.time } }).writeRecord inj 1 src
        (part.getD 255) detail loc
    else s.countClass 1 := by
  cases part <;> rfl

theorem State.deferredD_unlogged (s : State) (src : Nat) (part : Option Nat) (detail : Nat) (loc : Word) (inj : Bool) :
    (s.deferredD src part detail loc inj).unlogged = s.unlogged := by
  rw [State.deferredD_eq]
  split
  · exact State.writeRecord_unlogged _ _ _ _ _ _ _
  · rfl

theorem State.interruptSpare_unlogged (s : State) (p reason : Nat) : (s.interruptSpare p reason).unlogged = s.unlogged := by
  rw [State.interruptSpare]
  split
  · split <;> rfl
  · rfl

theorem State.stopPart_unfaulted (s : State) (p reason : Nat) : (s.stopPart p reason).unfaulted = s.unfaulted := by
  rw [State.stopPart]
  dsimp only
  split
  · split
    · split <;> rfl
    · rfl
  · split
    · exact State.unfaulted_of_unlogged (State.interruptSpare_unlogged _ _ _)
    · split <;> rfl
  · exact State.unfaulted_of_unlogged (State.interruptSpare_unlogged _ _ _)
  · rfl

theorem State.jobFatalD_unfaulted (s : State) (part : Option Nat) (src reason : Nat) (loc : Word) (inj : Bool) :
    (s.jobFatalD part src reason loc inj).unfaulted = s.unfaulted := by
  cases part with
  | none => exact State.unfaulted_of_unlogged (State.deferredD_unlogged _ _ _ _ _ _)
  | some p => exact (State.stopPart_unfaulted _ _ _).trans (State.unfaulted_of_unlogged (State.writeRecord_unlogged _ _ _ _ _ _ _))

theorem State.lastPending_unfaulted (s : State) : s.lastPending.unfaulted = s.unfaulted := by
  rw [State.lastPending]
  split
  · exact (State.unfaulted_of_unlogged ((State.signal_unlogged _ _).trans (State.logEvent_unlogged _ _ _ _))).trans rfl
  · rfl

theorem State.checkConditions_unfaulted (s : State) : s.checkConditions.unfaulted = s.unfaulted := by
  rw [State.checkConditions]
  split
  · rfl
  · dsimp only
    rw [foldl_leaves State.unfaulted fun t c => State.unfaulted_of_unlogged (t.logEvent_unlogged 3 c _),
      foldl_leaves State.unfaulted fun t c => State.unfaulted_of_unlogged (t.logEvent_unlogged 2 c _)]
    rfl

/-! ### The registers that they write -/

section
variable {s : State}

theorem WritesIn.trans {w : Nat → Prop} {s t u : State} (h : WritesIn w s t) (h' : WritesIn w t u) : WritesIn w s u :=
  ⟨h'.ok, fun a ha => (h'.rd a ha).trans (h.rd a ha)⟩

theorem WritesIn.mono {w w' : Nat → Prop} {s t : State} (h : WritesIn w s t) (hw : ∀ a, w a → w' a) : WritesIn w' s t :=
  ⟨h.ok, fun a ha => h.rd a fun hm => ha (hw a hm)⟩

/-- A class's counter counts the fault (R421). -/
theorem State.countClass_rd (ok : Canonical s) (cls : Nat) : (s.countClass cls).rd (Reg.FLT_CNT cls) = s.rd (Reg.FLT_CNT cls) + 1 := by
  rw [State.countClass, State.bump, State.rd_wr_same ok, bumpField_word]
  rfl

/-- Another register than a class's counter is as before. -/
theorem State.countClass_rd_ne (ok : Canonical s) (cls : Nat) {a : Nat} (ha : a ≠ Reg.FLT_CNT cls) : (s.countClass cls).rd a = s.rd a :=
  State.rd_wr_ne ok _ ha

theorem State.deferredD_writesIn (ok : Canonical s) (src : Nat) (part : Option Nat) (detail : Nat) (loc : Word) (inj : Bool) :
    WritesIn recordReg (s.countClass 1) (s.deferredD src part detail loc inj) := by
  have hcount : Canonical (s.countClass 1) := ok.bump _ _ _
  have hrecord : ∀ flt, WritesIn recordReg (s.countClass 1) (({ s.countClass 1 with flt := flt } : State).writeRecord inj 1 src (part.getD 255) detail loc) :=
    fun flt =>
      have h := State.writeRecord_writesIn (s := { s.countClass 1 with flt := flt }) (hcount.of_tables rfl) inj 1 src (part.getD 255) detail loc
      ⟨h.ok, h.rd⟩
  rw [State.deferredD_eq]
  split
  · exact hrecord _
  · exact .refl hcount

/-- A stop writes its partition's register alone. -/
theorem State.stopPart_writesIn (ok : Canonical s) (p reason : Nat) : WritesIn (· = Reg.LDR_PART p) s (s.stopPart p reason) := by
  have hspare : WritesIn (· = Reg.LDR_PART p) s (s.interruptSpare p reason) := by
    refine (WritesIn.refl ok).of_regs (State.interruptSpare_kept ok.kept p reason).ok ?_
    rw [State.interruptSpare]
    split
    · split <;> rfl
    · rfl
  have hreason := (WritesIn.refl ok).setFld (w := (· = Reg.LDR_PART p)) rfl 19 16 reason
  rw [State.stopPart]
  dsimp only
  split
  · split
    · split
      · exact (WritesIn.refl ok).of_regs (ok.of_tables rfl) rfl
      · exact .refl ok
    · exact (WritesIn.refl ok).of_regs (ok.setPart _ _) rfl
  · split
    · exact hspare
    · split
      · exact hreason.of_regs (hreason.ok.setPart _ _) rfl
      · exact (hreason.of_regs (hreason.ok.setPart _ _) rfl).setFld rfl _ _ _
  · exact hspare
  · exact .refl ok

/-- A job-fatal fault of a partition's job counts in class 2, and writes a record and the partition's register (R420). -/
theorem State.jobFatalD_writesIn (ok : Canonical s) (p src reason : Nat) (loc : Word) (inj : Bool) :
    WritesIn (fun a => recordReg a ∨ a = Reg.LDR_PART p) (s.countClass 2) (s.jobFatalD (some p) src reason loc inj) :=
  have hrecord := State.writeRecord_writesIn (ok.bump (Reg.FLT_CNT 2) 31 0) inj 2 src p reason loc
  (hrecord.mono fun _ => .inl).trans ((State.stopPart_writesIn hrecord.ok p reason).mono fun _ => .inr)

/-- The registers of the last, and of the entry that logs a pending one. -/
def lastReg (a : Nat) : Prop := logReg a ∨ (0x100 ≤ a ∧ a < 0x10C)

theorem State.lastPending_writesIn (ok : Canonical s) : WritesIn lastReg s s.lastPending := by
  have hlast : ∀ t : State, WritesIn lastReg s t → WritesIn lastReg s t.publishLast := fun t ht => by
    have hreg : lastReg Reg.GLB_LAST_SHAPE ∧ lastReg Reg.GLB_LAST_PEND_SHAPE ∧ lastReg Reg.GLB_LAST_STAT := by
      simp [lastReg, Reg.GLB_LAST_SHAPE, Reg.GLB_LAST_PEND_SHAPE, Reg.GLB_LAST_STAT]
    obtain ⟨hshape, hpend, hstat⟩ := hreg
    exact ((((ht.wr hshape _).wr hpend _).setFld hstat _ _ _).setFld hstat _ _ _).setFld hstat _ _ _
  rw [State.lastPending]
  split
  · have hshow := hlast { s with pendLast := some s.computeLast } ((WritesIn.refl ok).of_regs (ok.of_tables rfl) rfl)
    have hlog := hshow.trans ((State.logRaw_frame (.refl hshow.ok) 4 (BitVec.ofNat 32 s.computeLast.lregions)
      (leBytes 8 s.now ++ slice [BitVec.ofNat 8 s.computeLast.lcols] 0 8)).1.mono fun _ => .inl)
    exact hlog.of_regs (State.signal_kept hlog.ok.kept 133).ok (State.signal_regs _ _)
  · exact .refl ok

/-! ### The death of a region in service (R18, R26) -/

/-- What a region that has died shows of itself. -/
def Region.died (g : Region) (cause : Nat) : Region :=
  { g with cause := cause, hubOn := g.hubOn && decide (cause ≠ 8), hubStopped := g.hubStopped || decide (cause = 8) }

/-- The service record keeps the death of region r (R443). -/
def State.noteDeath (s : State) (r cause : Nat) : State := { s with mgt := { s.mgt with deaths := tabAdd s.mgt.deaths r cause } }

/-- Region r, its power cut, with the cause of its death. -/
def State.killed (s : State) (r cause : Nat) : State := ((s.cutPower r).modRegion r fun g => g.died cause).noteDeath r cause

/-- The locus of a death: its cause is shown for a region of a partition. -/
def deathLocus (r cause : Nat) (owner : Option Nat) : Word := if owner.isSome then locus 3 cause (regionPlace r) else regionLocus r

theorem State.regionDies_of_live {r cause : Nat} {owner : Option Nat} (hlive : (s.region r).cause = 0) :
    s.regionDies r cause owner = (s.killed r cause).lastPending.jobFatal owner 33 5 (deathLocus r cause owner) := by
  rw [State.regionDies, if_neg (not_not.2 hlive)]
  rfl

theorem Canonical.noteDeath (ok : Canonical s) (r cause : Nat) : Canonical (s.noteDeath r cause) := ok.of_tables rfl
theorem State.noteDeath_region (s : State) (r cause i : Nat) : (s.noteDeath r cause).region i = s.region i := rfl
theorem State.noteDeath_coreAt (s : State) (r cause i : Nat) : (s.noteDeath r cause).coreAt i = s.coreAt i := rfl
theorem State.noteDeath_rd (s : State) (r cause a : Nat) : (s.noteDeath r cause).rd a = s.rd a := rfl

theorem Canonical.killed (ok : Canonical s) (r cause : Nat) : Canonical (s.killed r cause) := ((ok.cutPower r).modRegion r _).noteDeath r cause

theorem State.killed_region (ok : Canonical s) (r cause i : Nat) :
    (s.killed r cause).region i = if i = r then (s.region r).unpowered.died cause else s.region i := by
  have hmap : Canonical (s.mapCores r fun _ c => c.unpowered) := (State.mapCores_kept ok.kept r _).ok
  have hcut : ∀ j, (s.cutPower r).region j = if j = r then (s.region r).unpowered else s.region j := fun j => by
    rw [State.cutPower, State.region_modRegion hmap, State.mapCores_region, State.mapCores_region]
  rw [State.killed, State.noteDeath_region, State.region_modRegion (ok.cutPower r), hcut, hcut, if_pos rfl]
  split <;> rfl

theorem State.killed_coreAt (ok : Canonical s) (r cause i : Nat) :
    (s.killed r cause).coreAt i = if 17 * r ≤ i ∧ i < 17 * r + 17 then (s.coreAt i).unpowered else s.coreAt i := by
  rw [State.killed, State.noteDeath_coreAt, State.modRegion_coreAt_frame, State.cutPower, State.modRegion_coreAt_frame, State.coreAt_mapCores ok]

theorem State.killed_rd (s : State) (r cause a : Nat) : (s.killed r cause).rd a = s.rd a := by
  rw [State.killed, State.noteDeath_rd, State.modRegion_rd_frame, State.rd, State.cutPower_regs, State.rd]

theorem State.regionDies_unfaulted {r cause : Nat} (owner : Option Nat) (hlive : (s.region r).cause = 0) :
    (s.regionDies r cause owner).unfaulted = (s.killed r cause).unfaulted := by
  rw [State.regionDies_of_live hlive]
  exact (State.jobFatalD_unfaulted _ _ _ _ _ _).trans (State.lastPending_unfaulted _)

/-- A death in a partition's region counts as a job-fatal fault; beside the registers of its record, of the last and of the partition it writes none. -/
theorem State.regionDies_writesIn (ok : Canonical s) {r cause : Nat} (p : Nat) (hlive : (s.region r).cause = 0) :
    WritesIn (fun a => recordReg a ∨ lastReg a ∨ a = Reg.LDR_PART p) (s.countClass 2) (s.regionDies r cause (some p)) ∧
      (s.regionDies r cause (some p)).rd (Reg.FLT_CNT 2) = s.rd (Reg.FLT_CNT 2) + 1 := by
  have hkill := ok.killed r cause
  have hlast := State.lastPending_writesIn hkill
  have hfatal := State.jobFatalD_writesIn hlast.ok p 33 5 (deathLocus r cause (some p)) false
  have hcnt : Reg.FLT_CNT 2 = 0x60028 := rfl
  have hfree : ¬lastReg (Reg.FLT_CNT 2) := by
    rw [lastReg, logReg]
    decide
  have hcount : (s.killed r cause).lastPending.rd (Reg.FLT_CNT 2) = s.rd (Reg.FLT_CNT 2) := by
    rw [hlast.rd _ hfree, State.killed_rd]
  have hnone : ¬(recordReg (Reg.FLT_CNT 2) ∨ Reg.FLT_CNT 2 = Reg.LDR_PART p) := by
    rw [not_or]
    exact ⟨not_recordReg_fltCnt 2 (by decide), by rw [hcnt, Reg.LDR_PART]; omega⟩
  have htwo : (s.regionDies r cause (some p)).rd (Reg.FLT_CNT 2) = s.rd (Reg.FLT_CNT 2) + 1 := by
    rw [State.regionDies_of_live hlive]
    exact (hfatal.rd _ hnone).trans ((State.countClass_rd hlast.ok 2).trans (by rw [hcount]))
  refine ⟨⟨(State.regionDies_kept ok.kept r cause (some p)).ok, fun a ha => ?_⟩, htwo⟩
  rw [not_or, not_or] at ha
  obtain ⟨hrec, hl, hpart⟩ := ha
  by_cases hc : a = Reg.FLT_CNT 2
  · rw [hc, htwo, State.countClass_rd ok]
  · rw [State.regionDies_of_live hlive, State.countClass_rd_ne ok 2 hc]
    exact (hfatal.rd a (not_or.2 ⟨hrec, hpart⟩)).trans ((State.countClass_rd_ne hlast.ok 2 hc).trans ((hlast.rd a hl).trans (State.killed_rd s r cause a)))

/-- A region that has died shows its cause and has no power, and neither have its cores. -/
theorem State.regionDies_shows (ok : Canonical s) {r cause : Nat} (owner : Option Nat) (hlive : (s.region r).cause = 0) :
    let t := s.regionDies r cause owner
    t.region r = (s.region r).unpowered.died cause ∧
      ∀ k, k < 17 → t.coreAt (17 * r + k) = (s.coreAt (17 * r + k)).unpowered := by
  have hrest := State.regionDies_unfaulted (cause := cause) owner hlive
  refine ⟨?_, fun k hk => ?_⟩
  · rw [State.region_of_unfaulted hrest, State.killed_region ok, if_pos rfl]
  · rw [State.coreAt_of_unfaulted hrest, State.killed_coreAt ok, if_pos ⟨by omega, by omega⟩]

end


/-! ### Stops of many partitions (R345, R379, R423) -/

/-- One item of a list without repetition is handled once: what handling the others leaves is, at the end, what handling this one makes of it. -/
theorem foldl_at {α β : Type} {I : State → Prop} (g : State → β) {f : State → α → State} {l : List α} (hl : l.Nodup) {a : α} (ha : a ∈ l)
    (keep : ∀ t b, I t → I (f t b)) (other : ∀ t b, I t → b ≠ a → g (f t b) = g t) {s : State} (h : I s) :
    ∃ t, I t ∧ g t = g s ∧ g (l.foldl f s) = g (f t a) := by
  obtain ⟨l₁, l₂, rfl⟩ := List.append_of_mem ha
  have hapart := (List.nodup_append.1 hl).2.2
  have hlater := (List.nodup_cons.1 (List.nodup_append.1 hl).2.1).1
  have hleaves : ∀ (l : List α) (t : State), (∀ b ∈ l, b ≠ a) → I t → I (l.foldl f t) ∧ g (l.foldl f t) = g t := fun l t hne ht =>
    List.foldlRecOn (motive := fun u => I u ∧ g u = g t) l f ⟨ht, rfl⟩ fun u hu b hb => ⟨keep u b hu.1, (other u b hu.1 (hne b hb)).trans hu.2⟩
  obtain ⟨hbefore, hsame⟩ := hleaves l₁ s (fun b hb => hapart b hb a (List.mem_cons_self)) h
  refine ⟨l₁.foldl f s, hbefore, hsame, ?_⟩
  rw [List.foldl_append, List.foldl_cons]
  exact (hleaves l₂ _ (fun b hb e => hlater (e ▸ hb)) (keep _ a hbefore)).2

section
variable {s : State}

/-- What a partition's stop reads and writes of it: its register and its entry. -/
def State.jobOf (s : State) (p : Nat) : Word × Part := (s.rd (Reg.LDR_PART p), s.part p)

theorem Canonical.stopPart (ok : Canonical s) (p reason : Nat) : Canonical (s.stopPart p reason) := (State.stopPart_kept ok.kept p reason).ok

theorem State.stopPart_part_ne (ok : Canonical s) {p q : Nat} (hne : q ≠ p) (reason : Nat) : (s.stopPart p reason).part q = s.part q := by
  have hspare : (s.interruptSpare p reason).part q = s.part q := by
    rw [State.part, State.parts_of_unlogged (State.interruptSpare_unlogged _ _ _), State.part]
  rw [State.stopPart]
  dsimp only
  split
  · split
    · split <;> rfl
    · rw [State.part_setPart ok, if_neg hne]
  · split
    · exact hspare
    · split
      · rw [State.part_setPart (ok.setFld _ _ _ _), if_neg hne]
        rfl
      · exact (State.part_setPart (ok.setFld _ _ _ _) _ _ _).trans (if_neg hne)
  · exact hspare
  · rfl

theorem State.stopPart_jobOf_ne (ok : Canonical s) {p q : Nat} (hne : q ≠ p) (reason : Nat) : (s.stopPart p reason).jobOf q = s.jobOf q := by
  have hreg : ¬Reg.LDR_PART q = Reg.LDR_PART p := by
    simp only [Reg.LDR_PART]
    omega
  rw [State.jobOf, (State.stopPart_writesIn ok p reason).rd _ hreg, State.stopPart_part_ne ok hne, State.jobOf]

/-- A running job outside stall mode stops with the reason, whichever partitions are stopped before it and after it. -/
theorem State.stopAll_running (ok : Canonical s) {l : List Nat} (hl : l.Nodup) {p reason : Nat} (hp : p ∈ l) (hrun : s.pstate p = 2)
    (hepoch : (s.part p).stopEpoch = none) (hstall : (s.part p).stall = false) (hreason : reason < 16) :
    (l.foldl (fun (t : State) q => t.stopPart q reason) s).pstate p = 3 ∧ (l.foldl (fun (t : State) q => t.stopPart q reason) s).ersn p = reason := by
  obtain ⟨t, ht, hsame, hend⟩ := foldl_at (I := Canonical) (fun t => t.jobOf p) hl hp (fun t q ht => ht.stopPart q reason)
    (fun t q ht hne => State.stopPart_jobOf_ne ht (Ne.symm hne) reason) ok
  have hword : t.rd (Reg.LDR_PART p) = s.rd (Reg.LDR_PART p) := congrArg Prod.fst hsame
  have hpart : t.part p = s.part p := congrArg Prod.snd hsame
  obtain ⟨-, hstate, hersn⟩ := State.stopPart_running ht (p := p) (reason := reason) ((congrArg (fun w : Word => field w 31 29) hword).trans hrun)
    (hpart ▸ hepoch) (hpart ▸ hstall) hreason
  have hlast : (l.foldl (fun (t : State) q => t.stopPart q reason) s).rd (Reg.LDR_PART p) = (t.stopPart p reason).rd (Reg.LDR_PART p) := congrArg Prod.fst hend
  exact ⟨(congrArg (fun w : Word => field w 31 29) hlast).trans hstate, (congrArg (fun w : Word => field w 19 16) hlast).trans hersn⟩

/-- Stops write no register but the partitions' own. -/
theorem State.stopAll_writesIn (ok : Canonical s) (l : List Nat) (reason : Nat) :
    WritesIn (fun a => ∃ p, a = Reg.LDR_PART p) s (l.foldl (fun (t : State) q => t.stopPart q reason) s) :=
  .foldl (fun _ q _ hu => hu.trans ((State.stopPart_writesIn hu.ok q reason).mono fun _ h => ⟨q, h⟩)) (.refl ok)

/-- What a stop leaves beside the partition and the faults: bring-up and the security core. -/
def State.starts (s : State) : Boot × Security := (s.boot, s.sec)

theorem State.interruptSpare_starts (s : State) (p reason : Nat) : (s.interruptSpare p reason).starts = s.starts := by
  rw [State.interruptSpare]
  split
  · split <;> rfl
  · rfl

theorem State.stopPart_starts (s : State) (p reason : Nat) : (s.stopPart p reason).starts = s.starts := by
  rw [State.stopPart]
  dsimp only
  split
  · split
    · split <;> rfl
    · rfl
  · split
    · exact State.interruptSpare_starts _ _ _
    · split <;> rfl
  · exact State.interruptSpare_starts _ _ _
  · rfl

theorem State.stopAll_starts (s : State) (l : List Nat) (reason : Nat) : (l.foldl (fun (t : State) q => t.stopPart q reason) s).starts = s.starts :=
  foldl_leaves State.starts (fun t q => t.stopPart_starts q reason) l s

end


/-! ### Device-fatal faults (R423) -/

section
variable {s : State}

theorem State.starts_of_unlogged {t : State} (h : t.unlogged = s.unlogged) : t.starts = s.starts :=
  Prod.ext (State.boot_of_unlogged h) (congrArg State.sec h :)

/-- The time and the source of a device-fatal fault are kept. -/
def State.fatalAt (s : State) (src : Nat) : State := { s with flt := { s.flt with lastFatal := some s.time, lastFatalSource := src } }

/-- A device-fatal fault recorded, with its source and its locus. -/
def State.fatalNoted (s : State) (src : Nat) (loc : Word) (inj : Bool) : State :=
  ((((s.countClass 3).writeRecord inj 3 src 255 0 loc).fatalAt src).setFld Reg.FLT_FATAL 31 24 src).wr Reg.FLT_FATAL_LOC loc

/-- FATAL and the ledgers' freeze; recovery is no longer armed after the fourth fault. -/
def State.fatalShown (s : State) : State :=
  let s := s.setFld Reg.FLT_STAT 31 31 1
  let s := if decide (4 ≤ s.fld Reg.FLT_STAT 29 27) then s.setFld Reg.FLT_STAT 30 30 0 else s
  s.setFld Reg.SRV_STAT 31 31 1

/-- ALIVE_OUT low, the ledgers frozen, and the live sequences kept. -/
def State.fatalFrozen (s : State) : State :=
  let s := { s with boot := { s.boot with aliveOut := false } }
  let keep := (s.srv.seqs.filter fun e => decide (e.2.state ≠ 0)).map fun e =>
    ({ part := e.2.part, seq := e.1, tag := e.2.tag, pos := e.2.len } : KeptSeq)
  { s with srv := { s.srv with frozen := true }, flt := { s.flt with kept := keep } }

/-- The first device-fatal fault ends the stage under way, freezes the ledgers and stops every partition; one that follows is noted only. -/
theorem State.deviceFatalD_eq (s : State) (src : Nat) (loc : Word) (inj : Bool) : s.deviceFatalD src loc inj =
    if flag (s.rd Reg.FLT_STAT) 31 then s.fatalNoted src loc inj
    else (List.range 64).foldl (fun (t : State) p => t.stopPart p 8) (s.fatalNoted src loc inj).fatalShown.abandonStage.fatalFrozen := rfl

theorem State.starts_wr (s : State) (a : Nat) (v : Word) : (s.wr a v).starts = s.starts := rfl
theorem State.starts_setFld (s : State) (a hi lo v : Nat) : (s.setFld a hi lo v).starts = s.starts := rfl
theorem State.starts_fatalAt (s : State) (src : Nat) : (s.fatalAt src).starts = s.starts := rfl

theorem State.fatalNoted_starts (s : State) (src : Nat) (loc : Word) (inj : Bool) : (s.fatalNoted src loc inj).starts = s.starts := by
  rw [State.fatalNoted, State.starts_wr, State.starts_setFld, State.starts_fatalAt, State.starts_of_unlogged (State.writeRecord_unlogged _ _ _ _ _ _ _)]
  rfl

theorem State.fatalShown_noRegs (s : State) : s.fatalShown.noRegs = s.noRegs := by
  rw [State.fatalShown]
  split <;> rfl

theorem State.abandonStage_rest (s : State) : s.abandonStage.sec = s.sec ∧ s.abandonStage.boot.restarting = s.boot.restarting := by
  rw [State.abandonStage]
  split <;> exact ⟨rfl, rfl⟩

/-- A device-fatal fault leaves the security core and the restart under way. -/
theorem State.deviceFatalD_restarting (s : State) (src : Nat) (loc : Word) (inj : Bool) :
    (s.deviceFatalD src loc inj).sec = s.sec ∧ (s.deviceFatalD src loc inj).boot.restarting = s.boot.restarting := by
  have hnoted := State.fatalNoted_starts s src loc inj
  have hsec : (s.fatalNoted src loc inj).sec = s.sec := congrArg Prod.snd hnoted
  have hrun : (s.fatalNoted src loc inj).boot.restarting = s.boot.restarting := congrArg (fun x : Boot × Security => x.1.restarting) hnoted
  rw [State.deviceFatalD_eq]
  split
  · exact ⟨hsec, hrun⟩
  · have hstop := State.stopAll_starts (s.fatalNoted src loc inj).fatalShown.abandonStage.fatalFrozen (List.range 64) 8
    have hshown := State.fatalShown_noRegs (s.fatalNoted src loc inj)
    obtain ⟨hasec, harun⟩ := (s.fatalNoted src loc inj).fatalShown.abandonStage_rest
    have hssec : (s.fatalNoted src loc inj).fatalShown.sec = (s.fatalNoted src loc inj).sec := (congrArg State.sec hshown :)
    have hsrun : (s.fatalNoted src loc inj).fatalShown.boot = (s.fatalNoted src loc inj).boot := (congrArg State.boot hshown :)
    have hend : ∀ t : State, t.fatalFrozen.sec = t.sec ∧ t.fatalFrozen.boot.restarting = t.boot.restarting := fun _ => ⟨rfl, rfl⟩
    refine ⟨(congrArg Prod.snd hstop).trans ?_, (congrArg (fun x : Boot × Security => x.1.restarting) hstop).trans ?_⟩
    · exact (hend _).1.trans (hasec.trans (hssec.trans hsec))
    · exact (hend _).2.trans (harun.trans ((congrArg Boot.restarting hsrun).trans hrun))

end

end Sys2Proof.Machine

/-! SUPPORT. The statements of chapter 13's family: feeds, fields and phases (O35), power-downs of regions (O36), and staged wakes (O37). -/

namespace Sys2Proof.Machine

/-! ### Feeds (O35) -/

section
variable {s : State}

/-- STATE of a feed's register: valid, else present, else absent. -/
def Power.feedState (x : Power) (f : Nat) : Nat := if x.valid.getD f false then 1 else if x.present.getD f false then 2 else 0

/-- One feed's register, shown. -/
def State.showFeed (s : State) (f : Nat) : State := (s.setFld (feedReg f) 31 30 (s.pwr.feedState f)).setFld (feedReg f) 29 16 (s.pwr.volts.getD f 0)

theorem Canonical.showFeed (ok : Canonical s) (f : Nat) : Canonical (s.showFeed f) := (ok.setFld _ _ _ _).setFld _ _ _ _

theorem State.showFeed_self (ok : Canonical s) (f : Nat) : (s.showFeed f).fld (feedReg f) 31 30 = s.pwr.feedState f ∧
    (s.showFeed f).fld (feedReg f) 29 16 = s.pwr.volts.getD f 0 % 16384 := by
  have hst := ok.setFld (feedReg f) 31 30 (s.pwr.feedState f)
  have hlt : s.pwr.feedState f < 4 := by
    rw [Power.feedState]
    split
    · decide
    · split <;> decide
  refine ⟨?_, State.fld_setFld hst _ _ _ _ (by decide)⟩
  rw [State.showFeed, State.fld_setFld_apart hst _ _ _ _ _ _ (by decide), State.fld_setFld ok _ _ _ _ (by decide)]
  exact Nat.mod_eq_of_lt hlt

theorem getD_set_self {α : Type} {l : List α} {n : Nat} {a d : α} (h : n < l.length) : (l.set n a).getD n d = a := by
  simp [List.getD, h]

theorem State.showFeed_other (ok : Canonical s) {f g : Nat} (hne : feedReg g ≠ feedReg f) (hi lo : Nat) :
    (s.showFeed f).fld (feedReg g) hi lo = s.fld (feedReg g) hi lo := by
  rw [State.showFeed, State.fld_setFld_ne (ok.setFld _ _ _ _) _ _ _ _ _ hne, State.fld_setFld_ne ok _ _ _ _ _ hne]

/-- Both feeds show their state and their voltage (R350). -/
theorem State.showFeeds_shows (ok : Canonical s) {f : Nat} (hf : f < 2) : s.showFeeds.fld (feedReg f) 31 30 = s.pwr.feedState f ∧
    s.showFeeds.fld (feedReg f) 29 16 = s.pwr.volts.getD f 0 % 16384 := by
  have hstat : feedReg f ≠ Reg.PWR_STAT := by
    rw [feedReg]
    split <;> decide
  have hmode : ∀ hi lo, s.showFeeds.fld (feedReg f) hi lo = ((s.showFeed 0).showFeed 1).fld (feedReg f) hi lo := fun hi lo =>
    State.fld_setFld_ne ((ok.showFeed 0).showFeed 1) 31 30 _ hi lo hstat
  rw [hmode, hmode]
  interval_cases f
  · have hne : feedReg 0 ≠ feedReg 1 := by decide
    rw [State.showFeed_other (ok.showFeed 0) hne, State.showFeed_other (ok.showFeed 0) hne]
    exact State.showFeed_self ok 0
  · exact State.showFeed_self (ok.showFeed 0) 1

end

/-! ### Fields and phases (O35) -/

section
variable {s : State}

theorem State.noRegs_showLimit (s : State) (r : Nat) : (s.showLimit r).noRegs = s.noRegs := rfl

theorem State.noRegs_showField (s : State) (f : Nat) : (s.showField f).noRegs = s.noRegs := by
  rw [State.showField, foldl_leaves State.noRegs State.noRegs_showLimit, State.noRegs_setFld, State.noRegs_setFld]

/-- Showing a field writes its two registers and window registers. -/
theorem State.showField_writesIn (ok : Canonical s) (f : Nat) :
    WritesIn (fun a => 0x1000000 ≤ a) ((s.setFld (Reg.PWR_FIELD f) 31 29 (field s.pwr.converters (3 * f + 2) (3 * f))).setFld (Reg.PWR_FIELD_GRANT f) 25 16
      (s.fieldCap f - (s.setFld (Reg.PWR_FIELD f) 31 29 (field s.pwr.converters (3 * f + 2) (3 * f))).fld (Reg.PWR_FIELD f) 25 16)) (s.showField f) :=
  .foldl (fun _ r _ hu => hu.setFld (by simp only [Reg.RGNW_PWR_LIMIT, winBase]; omega) _ _ _) (.refl ((ok.setFld _ _ _ _).setFld _ _ _ _))

/-- A field's level of stretching stands beside its converters and its current, which leave it. -/
theorem State.showField_fcap (ok : Canonical s) {f : Nat} (hf : f < 56) (i : Nat) :
    ((s.setFld (Reg.PWR_FIELD f) 25 16 i).showField f).fld (Reg.PWR_FIELD f) 28 26 = s.fld (Reg.PWR_FIELD f) 28 26 := by
  have hi := ok.setFld (Reg.PWR_FIELD f) 25 16 i
  have hlow : ¬0x1000000 ≤ Reg.PWR_FIELD f := by
    simp only [Reg.PWR_FIELD]
    omega
  have hne : Reg.PWR_FIELD f ≠ Reg.PWR_FIELD_GRANT f := by
    simp only [Reg.PWR_FIELD, Reg.PWR_FIELD_GRANT]
    omega
  rw [(State.showField_writesIn hi f).fld hlow, State.fld_setFld_ne (hi.setFld _ _ _ _) _ _ _ _ _ hne, State.fld_setFld_apart hi _ _ _ _ _ _ (by decide),
    State.fld_setFld_apart ok _ _ _ _ _ _ (by decide)]

/-- A current measured, and what the field then shows. -/
def State.fieldMeasured (s : State) (f amps : Nat) : State := (s.setFld (Reg.PWR_FIELD f) 25 16 (min amps 1023)).showField f

/-- What a measured current changes beside the registers: the level of the field follows it (R354). -/
theorem execFieldCapAdjust_eq (ok : Canonical s) {f : Nat} (hf : f < 56) (amps : Nat) : execFieldCapAdjust f amps s = .next (
    let u := s.fieldMeasured f amps
    let k := s.fld (Reg.PWR_FIELD f) 28 26
    if s.fieldCap f < amps then
      if rateOk s.pwr.lastCapUp f 10000 s.now then
        ({ u with pwr := { s.pwr with belowSince := tabDrop s.pwr.belowSince f, lastCapUp := tabAdd s.pwr.lastCapUp f s.time } }).setFcap f (min 7 (k + 1))
      else { u with pwr := { s.pwr with belowSince := tabDrop s.pwr.belowSince f } }
    else if 100 * amps < 95 * s.fieldCap f then
      match tabFind s.pwr.belowSince f with
      | none => { u with pwr := { s.pwr with belowSince := tabAdd s.pwr.belowSince f s.time } }
      | some t => if s.elapsed t 100000 then
          ({ u with pwr := { s.pwr with belowSince := tabAdd s.pwr.belowSince f s.time } }).setFcap f (k - 1) else u
    else { u with pwr := { s.pwr with belowSince := tabDrop s.pwr.belowSince f } }) := by
  have hshow : (s.fieldMeasured f amps).noRegs = s.noRegs := State.noRegs_showField _ f
  have hpwr : (s.fieldMeasured f amps).pwr = s.pwr := State.pwr_of_noRegs hshow
  have htime : (s.fieldMeasured f amps).time = s.time := State.time_of_noRegs hshow
  have hk : (s.fieldMeasured f amps).fld (Reg.PWR_FIELD f) 28 26 = s.fld (Reg.PWR_FIELD f) 28 26 := by
    rw [State.fieldMeasured, State.showField_fcap ok hf]
  have hdef : (s.setFld (Reg.PWR_FIELD f) 25 16 (min amps 1023)).showField f = s.fieldMeasured f amps := rfl
  have hcap : (s.fieldMeasured f amps).fieldCap f = s.fieldCap f := by simp only [State.fieldCap, State.convertersOf, hpwr]
  simp only [execFieldCapAdjust, hdef, hcap, hk]
  simp only [State.now, State.elapsed, hpwr, htime] <;> rfl

theorem execPhaseFail_eq (ok : Canonical s) (r : Nat) (m : Bool) (i : Nat) {b : Nat} (hb : b = if m then 16 + i else 8 + i) (hi : i < 4)
    (hpow : (s.region r).pstate ≠ 0) (hgood : flag (s.rd (Reg.RGNW_PWR_PHASE r)) b = false) : execPhaseFail r m i s = .next (
    let u := (s.setFld (Reg.RGNW_PWR_PHASE r) b b 1).showLimit r
    if u.phasesLost r m = 1 then u.deferred 11 (s.owner r) (regionLocus r) else u) := by
  have hlow : b < 29 := by
    rw [hb]
    split <;> omega
  have hphase := ok.setFld (Reg.RGNW_PWR_PHASE r) b b 1
  have howner : ((s.setFld (Reg.RGNW_PWR_PHASE r) b b 1).showLimit r).owner r = s.owner r := by
    rw [State.showLimit, State.owner_setFld hphase _ _ _ _ (by decide), State.owner_setFld ok _ _ _ _ hlow]
  have hgo : ¬((s.region r).pstate = 0 ∨ flag (s.rd (Reg.RGNW_PWR_PHASE r)) b = true) := by
    rw [hgood]
    simpa using hpow
  rw [execPhaseFail, ← hb, if_neg hgo]
  dsimp only
  rw [howner]

end

/-- The feeds' part of O35: each event shows the feeds anew, and counts and logs what the feed's validity before says. -/
theorem feedEvents {s : State} (hon : s.boot.alwaysOn = true) (f cv : Nat) :
    let ok := ({ s with pwr := { s.pwr with present := s.pwr.present.set f true, valid := s.pwr.valid.set f true, volts := s.pwr.volts.set f cv } }).showFeeds
    let n := if f = 0 then ok.fld Reg.PWR_FEED_EVT 31 24 else ok.fld Reg.PWR_FEED_EVT 23 16
    s.pwr.holdUp = false → 4000 ≤ cv → cv ≤ 6000 →
      (n = 0 ∨ s.pwr.valid.getD f false = true → exec (.feedValid f cv) s = .next ok.checkConditions) ∧
      (0 < n → s.pwr.valid.getD f false = false → exec (.feedValid f cv) s = .next (ok.logEvent 7 (2 + f) (leBytes 2 cv)).checkConditions) := by
  intro ok n hhold hlow hhigh
  have hgo : ¬(!s.boot.alwaysOn || s.pwr.holdUp || decide (cv < 4000) || decide (6000 < cv)) = true := by
    simp [hon, hhold, hlow, hhigh]
  have hn : ok.fld Reg.PWR_FEED_EVT (if f = 0 then 31 else 23) (if f = 0 then 24 else 16) = n := by
    dsimp only [n]
    split <;> rfl
  have hexec : exec (.feedValid f cv) s = .next (if decide (0 < n) && !s.pwr.valid.getD f false then ok.logEvent 7 (2 + f) (leBytes 2 cv) else ok).checkConditions := by
    rw [← hn]
    exact congrArg _ (if_neg hgo)
  rw [hexec]
  constructor
  · rintro (h | h)
    · rw [h]
      rfl
    · rw [h, Bool.not_true, Bool.and_false]
      rfl
  · intro hpos hwas
    rw [hwas, Bool.not_false, Bool.and_true, if_pos (decide_eq_true hpos)]

/-- Settles O35: an event shows the feeds or the field anew and then counts, logs or moves the field's level, by what was so before. That a first rise of the level
comes at once, that the hold-up writes no fault record, and that the loss of a feed that was never valid starts nothing are the model's reading
(notes/assumptions/71.md, 74.md, 145.md). -/
theorem feedAndFieldEvents : Obligations.FeedAndFieldEvents := by
  refine ⟨fun s f cv hon hf => ⟨feedEvents hon f cv, fun hout => ?_, ?_, fun hhold hA hB => ?_, fun ok hvalid hvolts hcv => ?_⟩,
    fun s f i r amps ok hf hr => ⟨fun hconv => ?_, ⟨fun hover hrate => ?_, fun hover hrate => ?_, fun t hle hlow hsince hlate => ?_, fun hle hnear => ?_⟩,
      fun m b hb hi hpow hgood => execPhaseFail_eq ok r m i hb hi hpow hgood⟩⟩
  · simp only [exec, execFeedInvalid]
    rw [if_neg (by omega), hon, if_neg (by decide)]
    rfl
  · simp only [exec, execFeedPresentOpen]
    rw [hon, if_neg (by decide)]
    rfl
  · have hgo : ¬(!s.boot.alwaysOn || s.pwr.holdUp || s.pwr.valid.getD 0 false || s.pwr.valid.getD 1 false) = true := by
      simp only [hon, hhold, hA, hB]
      decide
    exact congrArg _ (if_neg hgo)
  · have hcanon : ∀ x : Power, Canonical { s with pwr := x } := fun x => ok.of_tables rfl
    obtain ⟨hstate, hvolt⟩ := State.showFeeds_shows (hcanon { s.pwr with
      present := s.pwr.present.set f true, valid := s.pwr.valid.set f true, volts := s.pwr.volts.set f cv }) hf
    obtain ⟨hstate', hvolt'⟩ := State.showFeeds_shows (hcanon { s.pwr with valid := s.pwr.valid.set f false, volts := s.pwr.volts.set f cv }) hf
    have hread : (s.pwr.volts.set f cv).getD f 0 % 16384 = cv := by
      rw [getD_set_self hvolts, Nat.mod_eq_of_lt hcv]
    rw [hstate, hvolt, hstate', hvolt', hread, Power.feedState, Power.feedState, getD_set_self hvalid, getD_set_self hvalid]
    refine ⟨rfl, rfl, ?_, rfl⟩
    rw [if_neg Bool.false_ne_true]
    split <;> decide
  · simp only [exec, execConverterFail, State.converterOff]
    rw [hconv, if_neg (by decide)]
    split
    next hnone => rw [if_pos hnone]
    next hsome => rw [if_neg hsome]
  · rw [exec, execFieldCapAdjust_eq ok hf]
    dsimp only
    rw [if_pos hover, if_pos hrate]
    rfl
  · rw [exec, execFieldCapAdjust_eq ok hf]
    dsimp only
    rw [if_pos hover, hrate, if_neg (by decide)]
    rfl
  · rw [exec, execFieldCapAdjust_eq ok hf]
    dsimp only
    rw [if_neg (by omega), if_pos hlow, hsince]
    dsimp only
    rw [if_pos hlate]
    rfl
  · rw [exec, execFieldCapAdjust_eq ok hf]
    dsimp only
    rw [if_neg (by omega), if_neg (by omega)]
    rfl

/-! ### Power-downs (O36) -/

/-- An entry written that is not the default is found again, in any table. -/
theorem tabGet_tabSet_of_ne {α : Type} [DecidableEq α] {d : α} (t : Tab α) (k : Nat) {v : α} (hv : v ≠ d) : tabGet d (tabSet d t k v) k = v := by
  rw [tabGet, tabSet, if_neg hv]
  induction t with
  | nil => simp [tabPut, tabFind]
  | cons e t ih =>
    rw [tabPut_cons]
    by_cases hlt : k < e.1
    · simp [hlt, tabFind]
    · by_cases heq : k = e.1
      · simp [heq, tabFind]
      · simpa [hlt, heq, Ne.symm heq, tabFind] using ih

section
variable {s : State} {r : Nat}

/-- A region keeps its owner when what is written of it keeps its partition. -/
theorem State.owner_setRegion {g : Region} (hpart : g.part = (s.region r).part) (hg : g ≠ Region.zero) : (s.setRegion r g).owner r = s.owner r := by
  have hread : (s.setRegion r g).region r = g := tabGet_tabSet_of_ne _ _ hg
  have hstate : ∀ p, (s.setRegion r g).pstate p = s.pstate p := fun _ => rfl
  simp only [State.owner, hread, hpart, hstate]

/-- The region with its power-down begun. -/
def State.powersDown (s : State) (r : Nat) : State := (s.setRegion r { s.region r with poweringDown := true, downSince := some s.time }).ungovern

theorem State.owner_powersDown (s : State) (r : Nat) : (s.powersDown r).owner r = s.owner r :=
  State.owner_setRegion rfl fun h => Bool.noConfusion (congrArg Region.poweringDown h)

/-- Two failed phases of a rail power a live region down, and stop its job (R357). -/
theorem execRegionPowerDown_eq (hup : (s.region r).poweringDown = false) (hlive : s.dead r = false) (hpow : (s.region r).pstate ≠ 0)
    (hlost : 2 ≤ s.phasesLost r true ∨ 2 ≤ s.phasesLost r false) :
    execRegionPowerDown r s = .next ((s.owner r).elim (s.powersDown r) fun p => (s.powersDown r).stopPart p 5) := by
  have hgo : ¬((s.region r).poweringDown || s.dead r || decide ((s.region r).pstate = 0) ||
      (decide (s.phasesLost r true < 2) && decide (s.phasesLost r false < 2))) = true := by
    simp only [hup, hlive, decide_eq_false hpow, Bool.false_or, Bool.and_eq_true, decide_eq_true_eq]
    omega
  have hkeep := State.owner_powersDown s r
  rw [execRegionPowerDown, if_neg hgo]
  dsimp only
  split
  next p howner =>
    rw [hkeep.symm.trans howner]
    rfl
  next howner =>
    rw [hkeep.symm.trans howner]
    rfl

/-- Cores that have halted, a millisecond gone by, or no job to wait for: the region dies (R357). -/
theorem execPowerDownProceed_of_due (hdown : (s.region r).poweringDown = true)
    (hdue : s.owner r = none ∨ s.regionHalted r = true ∨ ∃ t ∈ (s.region r).downSince, s.elapsed t 1000000 = true) :
    execPowerDownProceed r s = .next (s.regionDies r 5 (s.owner r)).checkConditions := by
  rw [execPowerDownProceed]
  refine congrArg _ (if_pos ?_)
  rw [hdown, Bool.true_and]
  rcases hdue with hnone | hhalt | ⟨t, ht, hlate⟩
  · rw [hnone]
    rfl
  · rw [hhalt, Bool.or_true, Bool.true_or]
  · rw [Option.mem_def] at ht
    simp only [ht, hlate, Bool.or_true]

/-- The flits of a region's own inputs and ejection. -/
theorem limiterTrip_flits {l : List Flit} (hin : ∀ f ∈ l, ∀ k, f.loc = FlitLoc.inject r k → k < 17) :
    (l.filter fun f => match f.loc with
      | .eject q => decide (q ≠ r)
      | .inject q _ => decide (q ≠ r)
      | _ => true) =
    l.filter fun f => decide (f.loc ≠ FlitLoc.eject r) && !((List.range 17).any fun k => decide (f.loc = FlitLoc.inject r k)) := by
  refine List.filter_congr fun f hf => ?_
  have hk := hin f hf
  cases hloc : f.loc with
  | inject q k =>
    by_cases hq : q = r
    · have hlt : k < 17 := hk k (by rw [hloc, hq])
      simp [hq, hlt]
    · simp [hq]
  | _ => simp

end

/-- Settles O36: each command's branch read off its definition, and what `State.regionDies` leaves of a live region. -/
theorem regionPowerDowns : Obligations.RegionPowerDowns := by
  intro s r p
  refine ⟨fun hup hlive hpow hlost => ?_, fun hdown hdue => execPowerDownProceed_of_due hdown hdue, fun ok hpow hlive hin => ?_,
    fun ok hlive n _ => ?_⟩
  · have hexec : exec (.regionPowerDown r) s = _ := execRegionPowerDown_eq hup hlive hpow hlost
    exact ⟨fun howner => by rw [hexec, howner]; rfl, fun _ howner => by rw [hexec, howner]; rfl⟩
  · have hgo : ¬((s.region r).pstate = 0 ∨ s.dead r = true) := by
      rw [hlive]
      simpa using hpow
    have howner : (s.setRegion r { s.region r with limiterOpen := true }).owner r = s.owner r :=
      State.owner_setRegion rfl fun h => Bool.noConfusion (congrArg Region.limiterOpen h)
    simp only [exec, execCurrentLimiterTrip]
    rw [if_neg hgo, ← howner, ← limiterTrip_flits hin]
    rfl
  · obtain ⟨hg, hc⟩ := State.regionDies_shows (cause := n) ok (some p) hlive
    obtain ⟨-, hcnt⟩ := State.regionDies_writesIn (r := r) (cause := n) ok p hlive
    refine ⟨by rw [hg]; rfl, by rw [hg]; rfl, fun k hk => by rw [hc k hk]; rfl, hcnt⟩


/-! ### Staged wakes (O37) -/

section
variable {s : State}

/-- The registers that show a wake which is complete. -/
def State.wakeShown (s : State) (r us : Nat) : State :=
  (((s.setFld (Reg.RGNW_WAKE r) 31 16 us).bump (Reg.RGNW_WAKE r) 15 0).showLimit r).showWakes (fieldOf r)

theorem State.wakeShown_region (s : State) (r us i : Nat) : (s.wakeShown r us).region i = s.region i := rfl
theorem State.wakeShown_coreAt (s : State) (r us i : Nat) : (s.wakeShown r us).coreAt i = s.coreAt i := rfl
theorem State.wakeShown_cores (s : State) (r us : Nat) : (s.wakeShown r us).cores = s.cores := rfl

/-- A wake counts in the low half of RGNW_WAKE and leaves its duration in the high half. -/
theorem State.wakeShown_fld (ok : Canonical s) {r : Nat} (us : Nat) :
    (s.wakeShown r us).fld (Reg.RGNW_WAKE r) 15 0 = (s.fld (Reg.RGNW_WAKE r) 15 0 + 1) % 65536 ∧
      (s.wakeShown r us).fld (Reg.RGNW_WAKE r) 31 16 = us % 65536 := by
  have hset := ok.setFld (Reg.RGNW_WAKE r) 31 16 us
  have hbump := hset.bump (Reg.RGNW_WAKE r) 15 0
  have hlim : Canonical (((s.setFld (Reg.RGNW_WAKE r) 31 16 us).bump (Reg.RGNW_WAKE r) 15 0).showLimit r) := hbump.setFld _ _ _ _
  have hne : Reg.RGNW_WAKE r ≠ Reg.RGNW_PWR_LIMIT r := by
    simp only [Reg.RGNW_WAKE, Reg.RGNW_PWR_LIMIT]
    omega
  have hgrant : Reg.RGNW_WAKE r ≠ Reg.PWR_FIELD_GRANT (fieldOf r) := by
    simp only [Reg.RGNW_WAKE, Reg.PWR_FIELD_GRANT, winBase, fieldOf]
    omega
  have hshow : ∀ hi lo, (s.wakeShown r us).fld (Reg.RGNW_WAKE r) hi lo =
      ((s.setFld (Reg.RGNW_WAKE r) 31 16 us).bump (Reg.RGNW_WAKE r) 15 0).fld (Reg.RGNW_WAKE r) hi lo := fun hi lo =>
    (State.fld_setFld_ne hlim _ _ _ _ _ hgrant).trans (State.fld_setFld_ne hbump _ _ _ _ _ hne)
  refine ⟨?_, ?_⟩
  · rw [hshow, State.fld_bump hset _ _ _ (by decide), State.fld_setFld_apart ok _ _ _ _ _ _ (.inr (by decide))]; rfl
  · rw [hshow]
    exact (State.fld_setFld_apart hset _ _ _ _ _ _ (.inl (by decide))).trans (State.fld_setFld ok _ _ _ _ (by decide))

/-- A region whose wake is complete leaves the list of those that the field's priority waits for. -/
def State.wakeListed (s : State) (r : Nat) : State :=
  { s with pwr := { s.pwr with
      prioList := tabAdd s.pwr.prioList (fieldOf r) (((tabFind s.pwr.prioList (fieldOf r)).getD []).filter fun x => decide (x ≠ r)) } }

theorem State.wakeListed_region (s : State) (r i : Nat) : (s.wakeListed r).region i = s.region i := rfl
theorem State.wakeListed_coreAt (s : State) (r i : Nat) : (s.wakeListed r).coreAt i = s.coreAt i := rfl
theorem State.wakeListed_cores (s : State) (r : Nat) : (s.wakeListed r).cores = s.cores := rfl
theorem State.wakeListed_fld (s : State) (r a hi lo : Nat) : (s.wakeListed r).fld a hi lo = s.fld a hi lo := rfl
theorem Canonical.wakeListed (ok : Canonical s) (r : Nat) : Canonical (s.wakeListed r) := ok.of_tables rfl

/-- The uncore of a region awake, with the stages of its cores to come. -/
def State.uncoreWoken (s : State) (r : Nat) (m : BitVec 18) (t : Long) : State :=
  s.modRegion r fun g => { g with pstate := max 1 g.pstate, hubOn := true, seq := { g.seq with state := if g.seq.state = 0 then 1 else g.seq.state },
                                  wake := if setField m 17 17 0 = 0 then none else some (setField m 17 17 0, 0, t, none) }

/-- The cores of a region awake. -/
def State.coresWoken (s : State) (r : Nat) (m : BitVec 18) : State := (s.powerCores r m).modRegion r fun g => { g with pstate := 2, wake := none }

/-- The uncore or, when it is awake, the cores: what the fourth stage gives power to. -/
def State.woken (s : State) (r : Nat) (m : BitVec 18) (t : Long) : State := if flag m 17 then s.uncoreWoken r m t else s.coresWoken r m

/-- The fourth stage granted and settled wakes the uncore, or else the cores (R360, R361). -/
theorem execWakeComplete_eq {r : Nat} {m : BitVec 18} {t : Long} (hwake : (s.region r).wake = some (m, 4, t, none)) :
    execWakeComplete r s = .next (((s.woken r m t).wakeListed r).wakeShown r ((s.now - t.toNat) / 1000)) := by
  simp only [execWakeComplete, hwake]
  rfl

theorem Canonical.powerCores (ok : Canonical s) (r : Nat) (m : BitVec 18) : Canonical (s.powerCores r m) := (State.powerCores_kept ok.kept r m).ok

theorem Canonical.woken (ok : Canonical s) (r : Nat) (m : BitVec 18) (t : Long) : Canonical (s.woken r m t) := by
  unfold State.woken
  split
  · exact ok.modRegion _ _
  · exact (ok.powerCores r m).modRegion _ _

theorem State.powerCores_region (s : State) (r : Nat) (m : BitVec 18) (i : Nat) : (s.powerCores r m).region i = s.region i :=
  State.mapCores_region s r _ i

theorem State.woken_regs (s : State) (r : Nat) (m : BitVec 18) (t : Long) : (s.woken r m t).regs = s.regs := by
  unfold State.woken
  split
  · rfl
  · rw [State.coresWoken, State.modRegion_regs, State.powerCores, State.mapCores_regs]

/-- The uncore first (R360). -/
theorem State.woken_uncore (ok : Canonical s) {r : Nat} {m : BitVec 18} (t : Long) (hm : flag m 17 = true) :
    ((s.woken r m t).region r).pstate = max 1 (s.region r).pstate ∧ ((s.woken r m t).region r).hubOn = true ∧ (s.woken r m t).cores = s.cores ∧
      ((s.woken r m t).region r).wake = if setField m 17 17 0 = 0 then none else some (setField m 17 17 0, 0, t, none) := by
  rw [State.woken, if_pos hm, State.uncoreWoken, State.region_modRegion ok, if_pos rfl]
  exact ⟨rfl, rfl, rfl, rfl⟩

/-- Then the cores of the mask that were off (R361). -/
theorem State.woken_cores (ok : Canonical s) {r : Nat} {m : BitVec 18} (t : Long) (hm : flag m 17 = false) :
    ((s.woken r m t).region r).pstate = 2 ∧ ((s.woken r m t).region r).wake = none ∧
      ∀ k, k < 17 → flag m k = true → (s.coreAt (17 * r + k)).phase = .off →
        (s.woken r m t).coreAt (17 * r + k) = { s.coreAt (17 * r + k) with powered := true, phase := .idle } := by
  rw [State.woken, if_neg (by rw [hm]; exact Bool.false_ne_true), State.coresWoken, State.region_modRegion (ok.powerCores r m), if_pos rfl]
  refine ⟨rfl, rfl, fun k hk hon hoff => ?_⟩
  rw [State.modRegion_coreAt_frame, State.powerCores, State.coreAt_mapCores ok, if_pos ⟨by omega, by omega⟩, Nat.add_sub_cancel_left, hon, hoff]
  rfl

/-- A region that asks for its next stage (R361). -/
theorem execWakeStageRequest_eq {r n : Nat} {m : BitVec 18} {t : Long} (hwake : (s.region r).wake = some (m, n, t, none)) (hn : n < 4)
    (hlive : s.dead r = false) :
    execWakeStageRequest r s = .next ((({ s with pwr := { s.pwr with
      wakeQueue := tabAdd s.pwr.wakeQueue (fieldOf r) ((tabFind s.pwr.wakeQueue (fieldOf r)).getD [] ++ [r]) } }).setRegion r
        { s.region r with wake := some (m, n, t, some s.time) }).showWakes (fieldOf r)) := by
  have hgo : ¬(4 ≤ n ∨ s.dead r = true) := by
    rw [hlive]
    simpa using hn
  simp only [execWakeStageRequest, hwake]
  rw [if_neg hgo]
  rfl

end

/-- Settles O37: the request, the grant and the priority by the branch their commands take; a wake complete, by the uncore or the cores it gives power to and the
registers that show it. -/
theorem stagedWakes : Obligations.StagedWakes := by
  intro s r f ok hr hf
  refine ⟨fun m n t hwake hn hlive hfield => ?_, fun m n t w hfirst hwake => ⟨fun hroom => ?_, fun hfull => ?_⟩, fun m t hwake => ?_,
    fun m n t w hhead hwake hlate hfree => ?_, fun x hrush hdone => ?_⟩
  · rw [← hfield]
    exact execWakeStageRequest_eq hwake hn hlive
  · simp only [exec, execWakeStageGrant, State.wakeGrant, hfirst, hwake]
    rw [if_pos hroom]
    rfl
  · simp only [exec, execWakeStageGrant, State.wakeGrant, hfirst, hwake]
    rw [if_neg (Nat.not_le.2 hfull)]
  · have hfld : ((s.woken r m t).wakeListed r).fld (Reg.RGNW_WAKE r) 15 0 = s.fld (Reg.RGNW_WAKE r) 15 0 := by
      rw [State.wakeListed_fld, State.fld, State.rd, State.woken_regs, State.fld, State.rd]
    obtain ⟨hcount, hlast⟩ := State.wakeShown_fld ((ok.woken r m t).wakeListed r) (r := r) ((s.now - t.toNat) / 1000)
    refine ⟨_, execWakeComplete_eq hwake, hcount.trans (by rw [hfld]), hlast, fun hm => ?_, fun hm => ?_⟩
    · rw [State.wakeShown_region, State.wakeShown_cores, State.wakeListed_region, State.wakeListed_cores]
      exact State.woken_uncore ok t hm
    · simp only [State.wakeShown_region, State.wakeShown_coreAt, State.wakeListed_region, State.wakeListed_coreAt]
      exact State.woken_cores ok t hm
  · obtain ⟨l, hq⟩ := List.head?_eq_some_iff.1 hhead
    simp only [exec, execRushPriorityRaise, hq, List.find?_cons, hwake, hlate, hfree]
    rfl
  · refine congrArg _ (if_neg fun hwait => ?_)
    rcases Bool.or_eq_true_iff.1 hwait with hleft | hnone
    · obtain ⟨y, hy, hpend⟩ := List.any_eq_true.1 hleft
      rw [hdone y hy] at hpend
      exact Bool.noConfusion hpend
    · rw [hrush] at hnone
      exact Bool.noConfusion hnone

end Sys2Proof.Machine

/-! SUPPORT. The statements of chapter 14's family: cold starts and the end of the hold-up (O40), the early stages (O41), restarts (O43), and clocks and the alive contact (O44). -/

namespace Sys2Proof.Machine

/-! ### Clocks and the alive contact (O44) -/

/-- A register of a region's window. -/
def windowReg (a : Nat) : Prop := 0x1000000 ≤ a

theorem not_recordReg_of_window {a : Nat} (ha : windowReg a) : ¬recordReg a := by
  simp only [windowReg, recordReg, logReg, Reg.FLT_LOG_WR, Reg.THM_GATE, Reg.MGT_LOG_STAT, Reg.MGT_LOG_LO, Reg.MGT_LOG_HI] at *
  omega

theorem not_lastReg_of_window {a : Nat} (ha : windowReg a) : ¬lastReg a := by
  simp only [windowReg, lastReg, logReg, Reg.THM_GATE, Reg.MGT_LOG_STAT, Reg.MGT_LOG_LO, Reg.MGT_LOG_HI] at *
  omega

section
variable {s : State}

theorem State.interruptSpare_regs (s : State) (p reason : Nat) : (s.interruptSpare p reason).regs = s.regs := by
  rw [State.interruptSpare]
  split
  · split <;> rfl
  · rfl

/-- Bits 31 and 30 of a register are half of its field STATE. -/
theorem State.fld_top (s : State) (a : Nat) : s.fld a 31 30 = s.fld a 31 29 / 2 := by
  simp only [State.fld, field]
  omega

/-- A stop moves a partition from STATE 2 to STATE 3 or leaves STATE: whichever register that is, its two highest bits keep their value. -/
theorem State.stopPart_top (ok : Canonical s) (p reason a : Nat) : (s.stopPart p reason).fld a 31 30 = s.fld a 31 30 := by
  have hreason : (s.setFld (Reg.LDR_PART p) 19 16 reason).fld a 31 30 = s.fld a 31 30 := State.fld_setFld_above ok _ _ _ _ _ (by decide)
  have hsame : ∀ t : State, t.regs = s.regs → t.fld a 31 30 = s.fld a 31 30 := fun t ht => by rw [State.fld, State.rd, ht, State.fld, State.rd]
  rw [State.stopPart]
  dsimp only
  split
  · split
    · split <;> rfl
    · rfl
  · next hrun =>
    split
    · exact hsame _ (State.interruptSpare_regs _ _ _)
    · split
      · exact hreason
      · have hstop : Canonical ((s.setFld (Reg.LDR_PART p) 19 16 reason).setPart p { s.part p with stopPending := true, stopTime := some s.time }) :=
          (ok.setFld _ _ _ _).setPart _ _
        by_cases ha : a = Reg.LDR_PART p
        · have hthree := State.fld_setFld hstop (Reg.LDR_PART p) 31 29 3 (by decide)
          rw [State.pstate] at hrun
          rw [State.fld_top, State.fld_top s, ha, hrun]
          exact (congrArg (fun n => n / 2) hthree :).trans rfl
        · exact (State.fld_setFld_ne hstop _ _ _ _ _ ha).trans hreason
  · exact hsame _ (State.interruptSpare_regs _ _ _)
  · rfl

theorem State.countClass_fld_window (ok : Canonical s) {cls a : Nat} (hcls : cls < 4) (ha : windowReg a) (hi lo : Nat) :
    (s.countClass cls).fld a hi lo = s.fld a hi lo := by
  refine congrArg (fun w : Word => field w hi lo) (State.countClass_rd_ne ok cls ?_)
  simp only [windowReg, Reg.FLT_CNT] at *
  omega

/-- A job-fatal fault leaves the two highest bits of a region's registers, whatever number its partition has. -/
theorem State.jobFatal_top (ok : Canonical s) {a : Nat} (ha : windowReg a) (part : Option Nat) (src reason : Nat) (loc : Word) :
    (s.jobFatal part src reason loc).fld a 31 30 = s.fld a 31 30 := by
  cases part with
  | none =>
    exact ((State.deferredD_writesIn ok 23 none src loc false).fld (not_recordReg_of_window ha) _ _).trans
      (State.countClass_fld_window ok (by decide) ha _ _)
  | some p =>
    have hrecord := State.writeRecord_writesIn (ok.bump (Reg.FLT_CNT 2) 31 0) false 2 src p reason loc
    exact (State.stopPart_top hrecord.ok p reason a).trans ((hrecord.fld (not_recordReg_of_window ha) _ _).trans
      (State.countClass_fld_window ok (by decide) ha _ _))

theorem Canonical.jobFatal (ok : Canonical s) (part : Option Nat) (src reason : Nat) (loc : Word) : Canonical (s.jobFatal part src reason loc) :=
  (State.jobFatal_kept ok.kept part src reason loc).ok

/-- A death leaves them too. -/
theorem State.regionDies_top (ok : Canonical s) {a r cause : Nat} (ha : windowReg a) (owner : Option Nat) (hlive : (s.region r).cause = 0) :
    (s.regionDies r cause owner).fld a 31 30 = s.fld a 31 30 := by
  have hlast := State.lastPending_writesIn (ok.killed r cause)
  rw [State.regionDies_of_live hlive, State.jobFatal_top hlast.ok ha, hlast.fld (not_lastReg_of_window ha), State.fld, State.killed_rd, State.fld]

/-- The stop of a hub leaves them. -/
theorem State.hubStop_top (ok : Canonical s) {a : Nat} (ha : windowReg a) (r : Nat) : (s.hubStop r).fld a 31 30 = s.fld a 31 30 := by
  rw [State.hubStop]
  refine (List.foldlRecOn (motive := fun t : State => Canonical t ∧ t.fld a 31 30 = s.fld a 31 30) _ _ ⟨ok.modRegion _ _, rfl⟩ fun t ht p _ => ?_).2
  obtain ⟨hok, hfld⟩ := ht
  exact ⟨hok.jobFatal _ _ _ _, (State.jobFatal_top hok ha _ _ _ _).trans hfld⟩

theorem State.hubStop_unfaulted (s : State) (r : Nat) :
    (s.hubStop r).unfaulted = (s.modRegion r fun g => { g with hubStopped := true, hubOn := false }).unfaulted := by
  rw [State.hubStop]
  exact foldl_leaves State.unfaulted (fun t p => t.jobFatalD_unfaulted _ _ _ _ _) _ _

theorem State.checkConditions_top (ok : Canonical s) {a : Nat} (ha : windowReg a) : s.checkConditions.fld a 31 30 = s.fld a 31 30 := by
  obtain ⟨hlog, -⟩ := State.checkConditions_frame ok
  exact hlog.fld (fun h => not_recordReg_of_window ha (.inl h)) _ _

/-- What a hub whose clock is gone leaves. -/
def State.nodeOut (s : State) (r : Nat) : State := (s.setFld (Reg.RGNW_CLK r) 31 30 2).bumpSat Reg.CLK_STAT 23 16

theorem execNodeDecouple_eq {r : Nat} (hlocked : s.fld (Reg.RGNW_CLK r) 31 30 = 1) :
    execNodeDecouple r s = .next (if (s.region r).hubOn then ((s.nodeOut r).regionDies r 7 ((s.nodeOut r).owner r)).hubStop r
      else (s.nodeOut r).regionDies r 7 ((s.nodeOut r).owner r)).checkConditions := by
  rw [execNodeDecouple, if_neg (not_not.2 hlocked)]
  rfl

/-- A node that decouples: its region dies with cause 7, and its hub stops (R374). -/
theorem nodeDecouple_kills (ok : Canonical s) {r : Nat} (hlocked : s.fld (Reg.RGNW_CLK r) 31 30 = 1) (hlive : (s.region r).cause = 0) :
    Completes (.nodeDecouple r) s fun t => t.fld (Reg.RGNW_CLK r) 31 30 = 2 ∧ (t.region r).cause = 7 ∧ (t.region r).pstate = 0 ∧
      ((s.region r).hubOn = true → (t.region r).hubStopped = true) := by
  have hwin : windowReg (Reg.RGNW_CLK r) := by
    simp only [windowReg, Reg.RGNW_CLK, winBase]
    omega
  have hset := ok.setFld (Reg.RGNW_CLK r) 31 30 2
  have hout : Canonical (s.nodeOut r) := hset.bumpSat _ _ _
  have hne : Reg.RGNW_CLK r ≠ Reg.CLK_STAT := by
    simp only [windowReg, Reg.CLK_STAT] at *
    omega
  have htwo : (s.nodeOut r).fld (Reg.RGNW_CLK r) 31 30 = 2 := by
    rw [State.nodeOut, State.bumpSat, State.fld, State.rd_wr_ne hset _ hne]
    exact State.fld_setFld ok _ _ _ _ (by decide)
  obtain ⟨hdied, -⟩ := State.regionDies_shows (cause := 7) hout ((s.nodeOut r).owner r) hlive
  have hdies : Canonical ((s.nodeOut r).regionDies r 7 ((s.nodeOut r).owner r)) := (State.regionDies_kept hout.kept _ _ _).ok
  have hfld : ((s.nodeOut r).regionDies r 7 ((s.nodeOut r).owner r)).fld (Reg.RGNW_CLK r) 31 30 = 2 :=
    (State.regionDies_top hout hwin _ hlive).trans htwo
  refine ⟨_, execNodeDecouple_eq hlocked, ?_⟩
  by_cases hhub : (s.region r).hubOn = true
  · rw [if_pos hhub]
    have hstop : Canonical (((s.nodeOut r).regionDies r 7 ((s.nodeOut r).owner r)).hubStop r) := (State.hubStop_kept hdies.kept r).ok
    refine ⟨(State.checkConditions_top hstop hwin).trans ((State.hubStop_top hdies hwin r).trans hfld), ?_⟩
    rw [State.region_of_unfaulted (State.checkConditions_unfaulted _), State.region_of_unfaulted (State.hubStop_unfaulted _ _),
      State.region_modRegion hdies, if_pos rfl, hdied]
    exact ⟨rfl, rfl, fun _ => rfl⟩
  · rw [if_neg hhub]
    refine ⟨(State.checkConditions_top hdies hwin).trans hfld, ?_⟩
    rw [State.region_of_unfaulted (State.checkConditions_unfaulted _), hdied]
    exact ⟨rfl, rfl, fun h => absurd h hhub⟩

/-- The state that finds its active reference gone, and shows the one it goes over to (R375). -/
def State.refLost (s : State) (ref : Nat) : State :=
  let s := { s with boot := { s.boot with referenceOk := setNth s.boot.referenceOk ref false } }
  if s.boot.referenceOk.getD (1 - ref) false then (s.showRefs (2 - ref)).bump Reg.CLK_STAT 15 8 else s.showRefs 0

theorem execRefSwitchover_eq {ref : Nat} (hon : s.boot.alwaysOn = true) (hactive : s.fld Reg.CLK_STAT 31 30 = ref + 1) (href : ref < 2) :
    execRefSwitchover s = .next ((s.refLost ref).deferred 19 none (locus 11 1 ref)) := by
  have hgo : ¬(ref + 1 = 0 ∨ s.boot.alwaysOn = false) := by simp [hon]
  have hother : 2 - (ref + 1) = 1 - ref := by omega
  have hshow : 1 - ref + 1 = 2 - ref := by omega
  rw [execRefSwitchover, hactive]
  dsimp only
  rw [if_neg hgo, Nat.add_sub_cancel, hother, hshow]
  rfl

theorem Canonical.showRefs (ok : Canonical s) (n : Nat) : Canonical (s.showRefs n) := ((ok.setFld _ _ _ _).setFld _ _ _ _).setFld _ _ _ _

/-- The active reference is what showRefs writes, and the number of switchovers stays. -/
theorem State.showRefs_fld (ok : Canonical s) (n : Nat) :
    (s.showRefs n).fld Reg.CLK_STAT 31 30 = n % 4 ∧ (s.showRefs n).fld Reg.CLK_STAT 15 8 = s.fld Reg.CLK_STAT 15 8 := by
  have hone := ok.setFld Reg.CLK_STAT 31 30 n
  have htwo := hone.setFld Reg.CLK_STAT 28 28 (if s.boot.referenceOk.getD 0 false then 1 else 0)
  refine ⟨?_, ?_⟩
  · exact (State.fld_setFld_apart htwo _ _ _ _ _ _ (by decide)).trans ((State.fld_setFld_apart hone _ _ _ _ _ _ (by decide)).trans
      (State.fld_setFld ok _ _ _ _ (by decide)))
  · exact (State.fld_setFld_apart htwo _ _ _ _ _ _ (by decide)).trans ((State.fld_setFld_apart hone _ _ _ _ _ _ (by decide)).trans
      (State.fld_setFld_apart ok _ _ _ _ _ _ (by decide)))

theorem State.showRefs_rd (ok : Canonical s) (n : Nat) {a : Nat} (ha : a ≠ Reg.CLK_STAT) : (s.showRefs n).rd a = s.rd a := by
  rw [State.showRefs, State.rd_setFld ((ok.setFld _ _ _ _).setFld _ _ _ _), if_neg ha, State.rd_setFld (ok.setFld _ _ _ _), if_neg ha,
    State.rd_setFld ok, if_neg ha]

/-- The other reference takes over and counts, or the mesh runs free. -/
theorem State.refLost_shows (ok : Canonical s) {ref : Nat} (href : ref < 2) :
    Canonical (s.refLost ref) ∧ (s.refLost ref).boot = { s.boot with referenceOk := s.boot.referenceOk.set ref false } ∧
      (s.refLost ref).rd (Reg.FLT_CNT 1) = s.rd (Reg.FLT_CNT 1) ∧
      (s.refLost ref).fld Reg.CLK_STAT 31 30 = (if s.boot.referenceOk.getD (1 - ref) false then 2 - ref else 0) ∧
      (s.refLost ref).fld Reg.CLK_STAT 15 8 =
        (if s.boot.referenceOk.getD (1 - ref) false then (s.fld Reg.CLK_STAT 15 8 + 1) % 256 else s.fld Reg.CLK_STAT 15 8) := by
  have hother : (s.boot.referenceOk.set ref false).getD (1 - ref) false = s.boot.referenceOk.getD (1 - ref) false := by
    rw [List.getD, List.getElem?_set_ne (by omega), List.getD]
  have hmark : Canonical { s with boot := { s.boot with referenceOk := setNth s.boot.referenceOk ref false } } := ok.of_tables rfl
  have hcnt : Reg.FLT_CNT 1 ≠ Reg.CLK_STAT := by decide
  unfold State.refLost setNth
  dsimp only
  rw [hother]
  cases s.boot.referenceOk.getD (1 - ref) false with
  | true =>
    simp only [if_true]
    have hshow := hmark.showRefs (2 - ref)
    obtain ⟨htop, hlow⟩ := State.showRefs_fld hmark (2 - ref)
    refine ⟨hshow.bump _ _ _, rfl, (State.rd_wr_ne hshow _ hcnt).trans (State.showRefs_rd hmark _ hcnt), ?_, ?_⟩
    · exact (State.fld_setFld_apart hshow _ _ _ _ _ _ (by decide)).trans (htop.trans (Nat.mod_eq_of_lt (by omega)))
    · exact (State.fld_bump hshow _ _ _ (by decide)).trans (by rw [hlow]; rfl)
  | false =>
    simp only [Bool.false_eq_true, if_false]
    obtain ⟨htop, hlow⟩ := State.showRefs_fld hmark 0
    exact ⟨hmark.showRefs 0, rfl, State.showRefs_rd hmark _ hcnt, htop, hlow⟩

theorem not_recordReg_clkStat : ¬recordReg Reg.CLK_STAT := by
  rw [recordReg, logReg]
  decide

/-- A reference that misses its edges is a deferred fault (R375). -/
theorem refSwitchover_reports (ok : Canonical s) (hon : s.boot.alwaysOn = true) {ref : Nat} (hactive : s.fld Reg.CLK_STAT 31 30 = ref + 1) (href : ref < 2) :
    Completes .refSwitchover s fun t =>
      t.boot.referenceOk = s.boot.referenceOk.set ref false ∧ t.rd (Reg.FLT_CNT 1) = s.rd (Reg.FLT_CNT 1) + 1 ∧
      t.fld Reg.CLK_STAT 31 30 = (if s.boot.referenceOk.getD (1 - ref) false then 2 - ref else 0) ∧
      t.fld Reg.CLK_STAT 15 8 = (if s.boot.referenceOk.getD (1 - ref) false then (s.fld Reg.CLK_STAT 15 8 + 1) % 256 else s.fld Reg.CLK_STAT 15 8) := by
  obtain ⟨hok, hboot, hcnt, htop, hlow⟩ := State.refLost_shows ok href
  have hwrites := State.deferredD_writesIn hok 19 none 0 (locus 11 1 ref) false
  have hclk : ∀ hi lo, ((s.refLost ref).deferredD 19 none 0 (locus 11 1 ref) false).fld Reg.CLK_STAT hi lo = (s.refLost ref).fld Reg.CLK_STAT hi lo :=
    fun hi lo => (hwrites.fld not_recordReg_clkStat _ _).trans (congrArg (fun w : Word => field w hi lo) (State.countClass_rd_ne hok 1 (by decide)))
  refine ⟨_, execRefSwitchover_eq hon hactive href, ?_, ?_, (hclk 31 30).trans htop, (hclk 15 8).trans hlow⟩
  · rw [State.deferred, State.boot_of_unlogged (State.deferredD_unlogged _ _ _ _ _ _), hboot]
  · exact (hwrites.rd _ (not_recordReg_fltCnt 1 (by decide))).trans ((State.countClass_rd hok 1).trans (by rw [hcnt]))

end

/-- Settles O44: a decoupled node by what a death and a hub's stop leave of the region and its clock register; the references by what CLK_STAT shows of them. -/
theorem clocksAndAlive : Obligations.ClocksAndAlive := by
  intro s r ref ok _ hon
  refine ⟨nodeDecouple_kills ok, fun hactive href _ => refSwitchover_reports ok hon hactive href, fun href => ?_, rfl⟩
  have hgo : ¬(s.boot.alwaysOn = false ∨ 1 < ref) := by
    rw [hon, not_or]
    exact ⟨Bool.noConfusion, by omega⟩
  have hmark : Canonical { s with boot := { s.boot with referenceOk := setNth s.boot.referenceOk ref true } } := ok.of_tables rfl
  obtain ⟨htop, -⟩ := State.showRefs_fld hmark (if s.fld Reg.CLK_STAT 31 30 = 0 then ref + 1 else s.fld Reg.CLK_STAT 31 30)
  have hexec : exec (.refReturn ref) s = .next (({ s with boot := { s.boot with referenceOk := setNth s.boot.referenceOk ref true } }).showRefs
      (if s.fld Reg.CLK_STAT 31 30 = 0 then ref + 1 else s.fld Reg.CLK_STAT 31 30)) := by
    simp only [exec, execRefReturn]
    rw [if_neg hgo]
    rfl
  refine ⟨_, hexec, rfl, htop.trans (Nat.mod_eq_of_lt ?_), rfl, fun a ha => State.showRefs_rd hmark _ (by simpa using ha)⟩
  have hfield : s.fld Reg.CLK_STAT 31 30 < 4 := Nat.mod_lt _ (by decide)
  split <;> omega


/-! ### The records of a start (O40, O43) -/

/-- The registers of the twelve stages' records. -/
def stageRec (a : Nat) : Prop := 0x20100 ≤ a ∧ a < 0x201C0

/-- All twelve records blank, with these states. -/
def State.blankRecords (s : State) (status : Nat → Nat) : State := (List.range 12).foldl (fun (t : State) n => t.blankRecord n (status n)) s

section
variable {s : State}

theorem Canonical.blankRecord (ok : Canonical s) (n status : Nat) : Canonical (s.blankRecord n status) := (((ok.wr _ _).wr _ _).wr _ _).wr _ _

/-- A blank record shows its stage and its state, and the other records stay. -/
theorem State.blankRecord_rd (ok : Canonical s) (n status m : Nat) :
    (s.blankRecord n status).rd (Reg.STG_REC_A m) = if m = n then BitVec.ofNat 32 (n * 2 ^ 28 + status * 2 ^ 24) else s.rd (Reg.STG_REC_A m) := by
  have hone := ok.wr (Reg.STG_REC_A n) (BitVec.ofNat 32 (n * 2 ^ 28 + status * 2 ^ 24))
  have hne : Reg.STG_REC_A m ≠ Reg.STG_REC_D n ∧ Reg.STG_REC_A m ≠ Reg.STG_REC_C n ∧ Reg.STG_REC_A m ≠ Reg.STG_REC_B n := by
    simp only [Reg.STG_REC_A, Reg.STG_REC_B, Reg.STG_REC_C, Reg.STG_REC_D]
    omega
  obtain ⟨hD, hC, hB⟩ := hne
  rw [State.blankRecord, State.rd_wr_ne ((hone.wr _ _).wr _ _) _ hD, State.rd_wr_ne (hone.wr _ _) _ hC, State.rd_wr_ne hone _ hB, State.rd_wr ok]
  have hinj : Reg.STG_REC_A m = Reg.STG_REC_A n ↔ m = n := by
    simp only [Reg.STG_REC_A]
    omega
  simp only [hinj]

theorem State.blankRecord_writesIn (ok : Canonical s) {n : Nat} (hn : n < 12) (status : Nat) : WritesIn stageRec s (s.blankRecord n status) := by
  have hreg : stageRec (Reg.STG_REC_A n) ∧ stageRec (Reg.STG_REC_B n) ∧ stageRec (Reg.STG_REC_C n) ∧ stageRec (Reg.STG_REC_D n) := by
    simp only [stageRec, Reg.STG_REC_A, Reg.STG_REC_B, Reg.STG_REC_C, Reg.STG_REC_D]
    omega
  obtain ⟨hA, hB, hC, hD⟩ := hreg
  exact ((((WritesIn.refl ok).wr hA _).wr hB _).wr hC _).wr hD _

theorem State.blankRecords_writesIn (ok : Canonical s) (status : Nat → Nat) : WritesIn stageRec s (s.blankRecords status) :=
  .foldl (fun _ _ hn hu => hu.trans (State.blankRecord_writesIn hu.ok (List.mem_range.1 hn) _)) (.refl ok)

/-- Every record of a start shows its stage and its state. -/
theorem State.blankRecords_rd (ok : Canonical s) (status : Nat → Nat) {n : Nat} (hn : n < 12) :
    (s.blankRecords status).rd (Reg.STG_REC_A n) = BitVec.ofNat 32 (n * 2 ^ 28 + status n * 2 ^ 24) := by
  refine (foldl_sets (I := Canonical) (Q := fun n t => t.rd (Reg.STG_REC_A n) = BitVec.ofNat 32 (n * 2 ^ 28 + status n * 2 ^ 24))
    (fun t ht n _ => ht.blankRecord n _) (fun t ht n _ => ?_) (fun t ht a _ b _ hQ => ?_) ok).2 n (List.mem_range.2 hn)
  · rw [State.blankRecord_rd ht, if_pos rfl]
  · rw [State.blankRecord_rd ht]
    split
    next h => rw [h]
    next => exact hQ

theorem field_stageRecord {n status : Nat} (hstatus : status < 16) : field (BitVec.ofNat 32 (n * 2 ^ 28 + status * 2 ^ 24)) 27 24 = status := by
  simp only [field, BitVec.toNat_ofNat]
  omega

theorem State.noRegs_blankRecord (s : State) (n status : Nat) : (s.blankRecord n status).noRegs = s.noRegs := rfl

theorem State.noRegs_blankRecords (s : State) (status : Nat → Nat) : (s.blankRecords status).noRegs = s.noRegs := by
  rw [State.blankRecords]
  exact foldl_leaves State.noRegs (fun t n => t.noRegs_blankRecord n (status n)) _ _

/-- The same state with another content of the host's memory. -/
def State.withHost (s : State) (m : Mem) : State := { s with hostMem := m }

theorem State.withHost_wr (s : State) (m : Mem) (a : Nat) (v : Word) : (s.withHost m).wr a v = (s.wr a v).withHost m := rfl
theorem State.withHost_setFld (s : State) (m : Mem) (a hi lo v : Nat) : (s.withHost m).setFld a hi lo v = (s.setFld a hi lo v).withHost m := rfl

theorem State.withHost_wr4 (s : State) (m : Mem) (a b c d : Nat) (w x y z : Word) :
    ((((s.withHost m).wr a w).wr b x).wr c y).wr d z = ((((s.wr a w).wr b x).wr c y).wr d z).withHost m := by
  rw [State.withHost_wr, State.withHost_wr, State.withHost_wr, State.withHost_wr]

theorem State.withHost_blankRecord (s : State) (m : Mem) (n status : Nat) : (s.withHost m).blankRecord n status = (s.blankRecord n status).withHost m :=
  State.withHost_wr4 s m _ _ _ _ _ _ _ _

theorem State.withHost_foldl (status : Nat → Nat) (m : Mem) (l : List Nat) (s : State) :
    l.foldl (fun (t : State) n => t.blankRecord n (status n)) (s.withHost m) = (l.foldl (fun (t : State) n => t.blankRecord n (status n)) s).withHost m := by
  induction l generalizing s with
  | nil => rfl
  | cons n l ih => rw [List.foldl_cons, List.foldl_cons, State.withHost_blankRecord, ih]

theorem State.withHost_blankRecords (s : State) (status : Nat → Nat) (m : Mem) : (s.withHost m).blankRecords status = (s.blankRecords status).withHost m := by
  rw [State.blankRecords, State.blankRecords, State.withHost_foldl]

/-- The record and CUR of a stage that begins. -/
def State.stageOpened (s : State) (n : Nat) : State :=
  ((s.blankRecord n 1).wr (Reg.STG_REC_C n) (BitVec.ofNat 32 (s.now / 1000))).setFld Reg.STG_STAT 27 24 n

/-- The stage under way and the time it began. -/
def State.inStageAt (s : State) (n : Nat) : State :=
  { s with boot := { s.boot with stage := some n, stageStart := tabAdd s.boot.stageStart n s.time } }

theorem State.beginStage_eq (s : State) (n : Nat) : s.beginStage n = (s.stageOpened n).inStageAt n := rfl

theorem State.inStageAt_rd (s : State) (n a : Nat) : (s.inStageAt n).rd a = s.rd a := rfl

/-- The stage that begins has the record that shows STATUS 1; the other records stay. -/
theorem State.beginStage_record (ok : Canonical s) (n m : Nat) :
    (s.beginStage n).rd (Reg.STG_REC_A m) = if m = n then BitVec.ofNat 32 (n * 2 ^ 28 + 1 * 2 ^ 24) else s.rd (Reg.STG_REC_A m) := by
  have hblank := ok.blankRecord n 1
  have hC : Reg.STG_REC_A m ≠ Reg.STG_REC_C n := by
    simp only [Reg.STG_REC_A, Reg.STG_REC_C]
    omega
  have hstat : Reg.STG_REC_A m ≠ Reg.STG_STAT := by
    simp only [Reg.STG_REC_A, Reg.STG_STAT]
    omega
  rw [State.beginStage_eq, State.inStageAt_rd, State.stageOpened, State.rd_setFld (hblank.wr _ _), if_neg hstat, State.rd_wr_ne hblank _ hC,
    State.blankRecord_rd ok n 1 m]

/-- CUR shows the stage that begins. -/
theorem State.beginStage_stat (ok : Canonical s) {n : Nat} (hn : n < 12) :
    (s.beginStage n).rd Reg.STG_STAT = setField (s.rd Reg.STG_STAT) 27 24 n := by
  have hblank := State.blankRecord_writesIn ok hn 1
  have hrec : ¬stageRec Reg.STG_STAT := by
    rw [stageRec]
    decide
  have hC : Reg.STG_STAT ≠ Reg.STG_REC_C n := by
    simp only [Reg.STG_REC_C, Reg.STG_STAT]
    omega
  rw [State.beginStage_eq, State.inStageAt_rd, State.stageOpened, State.rd_setFld (hblank.ok.wr _ _), if_pos rfl, State.rd_wr_ne hblank.ok _ hC,
    hblank.rd _ hrec]

/-! ### The cold start and the end of the hold-up (O40) -/

/-- The state a cold start shows anew: without power but for the always-on group. -/
def State.coldBase (s : State) : State :=
  { s.unpowered with boot := { s.unpowered.boot with alwaysOn := true }, pwr := { s.unpowered.pwr with valid := [false, false] },
                     mgt := { s.unpowered.mgt with coldStarts := s.unpowered.mgt.coldStarts + 1 } }

/-- The registers of a cold start before ST0 begins. -/
def State.coldShown (s : State) (lo : Nat) : State :=
  (((s.blankRecords fun _ => 0).setFld Reg.STG_STAT 23 16 1).wr64 Reg.MGT_LOG_LO Reg.MGT_LOG_HI lo).showFeeds

theorem execColdStart_eq (hoff : s.boot.alwaysOn = false) :
    execColdStart s = .next ((s.coldBase.coldShown (s.mgt.nextNumber + 1)).beginStage 0) := by
  rw [execColdStart, if_neg (by rw [hoff]; exact Bool.false_ne_true)]
  rfl

theorem State.showFeeds_eq (s : State) : s.showFeeds = ((s.showFeed 0).showFeed 1).setFld Reg.PWR_STAT 31 30
    (if s.pwr.valid.getD 0 false && s.pwr.valid.getD 1 false then 0 else if s.pwr.valid.getD 0 false || s.pwr.valid.getD 1 false then 1 else 2) := rfl

theorem State.noRegs_showFeeds (s : State) : s.showFeeds.noRegs = s.noRegs := by rw [State.showFeeds_eq]; rfl

theorem State.showFeeds_writesIn (ok : Canonical s) : WritesIn (fun a => a = Reg.PWR_FEED_A ∨ a = Reg.PWR_FEED_B ∨ a = Reg.PWR_STAT) s s.showFeeds := by
  have hfeed : ∀ f (t : State), WritesIn (fun a => a = Reg.PWR_FEED_A ∨ a = Reg.PWR_FEED_B ∨ a = Reg.PWR_STAT) s t →
      WritesIn (fun a => a = Reg.PWR_FEED_A ∨ a = Reg.PWR_FEED_B ∨ a = Reg.PWR_STAT) s (t.showFeed f) := fun f t ht => by
    have hreg : feedReg f = Reg.PWR_FEED_A ∨ feedReg f = Reg.PWR_FEED_B ∨ feedReg f = Reg.PWR_STAT := by
      rw [feedReg]
      split
      · exact .inl rfl
      · exact .inr (.inl rfl)
    exact (ht.setFld hreg _ _ _).setFld hreg _ _ _
  rw [State.showFeeds_eq]
  exact (hfeed 1 _ (hfeed 0 _ (.refl ok))).setFld (.inr (.inr rfl)) _ _ _

theorem State.coldShown_writesIn (ok : Canonical s) (lo : Nat) :
    WritesIn (fun a => ¬stageReg a) ((s.blankRecords fun _ => 0).setFld Reg.STG_STAT 23 16 1) (s.coldShown lo) := by
  have hstart : Canonical ((s.blankRecords fun _ => 0).setFld Reg.STG_STAT 23 16 1) := (State.blankRecords_writesIn ok _).ok.setFld _ _ _ _
  have hlog : ¬stageReg Reg.MGT_LOG_LO ∧ ¬stageReg Reg.MGT_LOG_HI := by
    simp only [stageReg]
    decide
  obtain ⟨hlo, hhi⟩ := hlog
  have hnum := ((WritesIn.refl hstart).wr (w := fun a => ¬stageReg a) hlo (BitVec.ofNat 32 lo)).wr hhi (BitVec.ofNat 32 (lo >>> 32))
  refine hnum.trans ((State.showFeeds_writesIn hnum.ok).mono fun a ha => ?_)
  rcases ha with rfl | rfl | rfl <;> (rw [stageReg]; decide)

/-- What a cold start from canonical tables shows of its stages. -/
theorem State.coldShown_stages (ok : Canonical s) (hstat : s.rd Reg.STG_STAT = 0) (lo : Nat) :
    let t := (s.coldShown lo).beginStage 0
    t.rd Reg.STG_STAT = setField (setField 0 23 16 1) 27 24 0 ∧
      ∀ n, n < 12 → t.fld (Reg.STG_REC_A n) 27 24 = if n = 0 then 1 else 0 := by
  have hshown := State.coldShown_writesIn ok lo
  have hrecs := State.blankRecords_writesIn ok fun _ => 0
  refine ⟨?_, fun n hn => ?_⟩
  · have hrec : ¬stageRec Reg.STG_STAT := by
      rw [stageRec]
      decide
    rw [State.beginStage_stat hshown.ok (by decide), hshown.rd _ (not_not.2 stageReg_stat), State.rd_setFld hrecs.ok, if_pos rfl, hrecs.rd _ hrec, hstat]
  · have hne : Reg.STG_REC_A n ≠ Reg.STG_STAT := by
      simp only [Reg.STG_REC_A, Reg.STG_STAT]
      omega
    rw [State.fld, State.beginStage_record hshown.ok]
    split
    next h =>
      rw [field_stageRecord (by decide)]
    next =>
      rw [hshown.rd _ (not_not.2 (stageReg_record hn).1), State.rd_setFld hrecs.ok, if_neg hne, State.blankRecords_rd ok _ hn,
        field_stageRecord (by decide)]

theorem State.withHost_showFeed (s : State) (m : Mem) (f : Nat) : (s.withHost m).showFeed f = (s.showFeed f).withHost m := rfl

theorem State.withHost_showFeeds (s : State) (m : Mem) : (s.withHost m).showFeeds = s.showFeeds.withHost m := by
  rw [State.showFeeds_eq, State.showFeeds_eq, State.withHost_showFeed, State.withHost_showFeed]
  rfl

theorem State.withHost_coldShown (s : State) (m : Mem) (lo : Nat) : (s.withHost m).coldShown lo = (s.coldShown lo).withHost m := by
  rw [State.coldShown, State.coldShown, State.withHost_blankRecords, State.withHost_setFld, State.wr64, State.wr64, State.withHost_wr, State.withHost_wr,
    State.withHost_showFeeds]

theorem State.withHost_rd (s : State) (m : Mem) (a : Nat) : (s.withHost m).rd a = s.rd a := rfl
theorem State.withHost_now (s : State) (m : Mem) : (s.withHost m).now = s.now := rfl

theorem State.withHost_beginStage_rd (s : State) (m : Mem) (n a : Nat) : ((s.withHost m).beginStage n).rd a = (s.beginStage n).rd a := by
  rw [State.beginStage_eq, State.beginStage_eq, State.inStageAt_rd, State.inStageAt_rd, State.stageOpened, State.stageOpened, State.withHost_blankRecord,
    State.withHost_wr, State.withHost_setFld, State.withHost_rd, State.withHost_now]

theorem State.noRegs_stageOpened (s : State) (n : Nat) : (s.stageOpened n).noRegs = s.noRegs := by
  rw [State.stageOpened, State.noRegs_setFld, State.noRegs_wr, State.noRegs_blankRecord]

theorem State.noRegs_inStageAt (s : State) (n : Nat) : (s.inStageAt n).noRegs = s.noRegs.inStageAt n := rfl

theorem State.noRegs_beginStage (s : State) (n : Nat) : (s.beginStage n).noRegs = s.noRegs.inStageAt n := by
  rw [State.beginStage_eq, State.noRegs_inStageAt, State.noRegs_stageOpened]

theorem State.noRegs_coldShown (s : State) (lo : Nat) : (s.coldShown lo).noRegs = s.noRegs := by
  rw [State.coldShown, State.noRegs_showFeeds, State.wr64, State.noRegs_wr, State.noRegs_wr, State.noRegs_setFld, State.noRegs_blankRecords]

theorem State.withHost_withHost (s : State) (m : Mem) : (s.withHost m).withHost s.hostMem = s := rfl

end

/-- Settles O40: a cold start changes of the state without power only registers, the always-on group and the number of starts; what its registers show is what
they show from the reset tables, whatever the host's memory holds. -/
theorem coldStartAndPowerLoss : Obligations.ColdStartAndPowerLoss := by
  intro s
  refine ⟨fun hoff => ?_, fun hon hhold => ?_⟩
  · have hbase : Canonical (s.coldBase.withHost State.reset.hostMem) := canonical_reset.of_tables rfl
    obtain ⟨hstat, hrecs⟩ := State.coldShown_stages hbase rfl (s.mgt.nextNumber + 1)
    generalize hlo : s.mgt.nextNumber + 1 = lo at hstat hrecs
    have hrest : ((s.coldBase.coldShown lo).beginStage 0).noRegs = s.coldBase.noRegs.inStageAt 0 := by
      rw [State.noRegs_beginStage, State.noRegs_coldShown]
    have hrd : ∀ a, ((s.coldBase.coldShown lo).beginStage 0).rd a = (((s.coldBase.withHost State.reset.hostMem).coldShown lo).beginStage 0).rd a := fun a => by
      rw [State.withHost_coldShown, State.withHost_beginStage_rd]
    have hfld : ∀ a hi lo', ((s.coldBase.coldShown lo).beginStage 0).fld a hi lo' =
        field ((((s.coldBase.withHost State.reset.hostMem).coldShown lo).beginStage 0).rd a) hi lo' :=
      fun a hi lo' => by rw [State.fld, hrd]
    refine ⟨_, execColdStart_eq hoff, ?_⟩
    rw [hlo]
    generalize (s.coldBase.coldShown lo).beginStage 0 = t at *
    have hboot : t.boot = (s.coldBase.noRegs.inStageAt 0).boot := (congrArg State.boot hrest :)
    have hmgt : t.mgt = s.coldBase.mgt := (congrArg State.mgt hrest :)
    have hsec : t.sec = s.coldBase.sec := (congrArg State.sec hrest :)
    refine ⟨by rw [hboot]; rfl, by rw [hboot]; rfl, by rw [hboot]; rfl, (congrArg State.time hrest :), by rw [hmgt]; rfl, (congrArg State.cores hrest :),
      (congrArg State.regions hrest :), (congrArg State.parts hrest :), (congrArg State.rim hrest :), (congrArg State.fab hrest :), (congrArg State.srv hrest :),
      (congrArg State.hostMem hrest :), (congrArg State.pending hrest :), by rw [hsec]; rfl, by rw [hsec]; rfl, by rw [hsec]; rfl, by rw [hmgt]; rfl,
      ?_, ?_, ?_, ?_, fun n hpos hn => ?_⟩
    · rw [hfld, hstat]
      decide
    · rw [hfld, hstat]
      decide
    · rw [hrd, hstat]
      decide
    · rw [hfld]
      exact hrecs 0 (by decide)
    · rw [hfld]
      exact (hrecs n hn).trans (if_neg (by omega))
  · have hexec : exec .holdupEnd s = .next { s.unpowered with pwr := { s.unpowered.pwr with valid := [false, false] } } := by
      simp only [exec, execHoldupEnd, hon, hhold]
      rfl
    exact ⟨_, hexec, rfl, rfl, rfl, rfl, rfl, rfl, rfl, rfl, rfl⟩


/-! ### Restarts (O43) -/

section
variable {s : State}

/-- The registers of indices that advance with a write to host memory. -/
def advReg (a : Nat) : Prop := ∃ i, i < 100 ∧ (a = Reg.SRV_OUT_PI i ∨ a = Reg.HIF_CSTAT i)

theorem State.hostWriteAdv_writesIn (ok : Canonical s) (port addr : Nat) (d : Bytes) (adv : Nat) : WritesIn advReg s (s.hostWriteAdv port addr d adv) := by
  have hstored : Canonical { s with hostMem := memWrite s.hostMem addr d } := { ok with hostMem := memWrite_wf _ _ ok.hostMem }
  have hmem : WritesIn advReg s { s with hostMem := memWrite s.hostMem addr d } := (WritesIn.refl ok).of_regs hstored rfl
  rw [State.hostWriteAdv]
  split
  · rw [State.issueWrite]
    split
    · exact hmem
    next hadv =>
      rw [not_or] at hadv
      split
      · exact hmem.wr ⟨adv - 1, by omega, .inr rfl⟩ _
      · exact hmem.wr ⟨adv - 100, by omega, .inl rfl⟩ _
  · exact (WritesIn.refl ok).of_regs (ok.of_tables rfl) rfl

theorem State.hostWriteAdv_rest (s : State) (port addr : Nat) (d : Bytes) (adv : Nat) :
    (s.hostWriteAdv port addr d adv).starts = s.starts ∧ (s.hostWriteAdv port addr d adv).parts = s.parts := by
  rw [State.hostWriteAdv]
  split
  · rw [State.issueWrite]
    split
    · exact ⟨rfl, rfl⟩
    · split <;> exact ⟨rfl, rfl⟩
  · exact ⟨rfl, rfl⟩

theorem State.signal_rest (s : State) (v : Nat) : (s.signal v).starts = s.starts ∧ (s.signal v).parts = s.parts := by
  have h := State.signal_unlogged s v
  exact ⟨Prod.ext (State.boot_of_unlogged h) (congrArg State.sec h :), State.parts_of_unlogged h⟩

theorem WritesIn.hostWriteAdv {t : State} (h : WritesIn advReg s t) (port addr : Nat) (d : Bytes) (adv : Nat) :
    WritesIn advReg s (t.hostWriteAdv port addr d adv) := h.trans (State.hostWriteAdv_writesIn h.ok port addr d adv)

theorem WritesIn.signal {w : Nat → Prop} {t : State} (h : WritesIn w s t) (v : Nat) : WritesIn w s (t.signal v) :=
  h.of_regs (State.signal_kept h.ok.kept v).ok (State.signal_regs _ _)

/-- A record that a ring takes writes no register but indices. -/
theorem State.putRecord_writesIn (ok : Canonical s) (p : Nat) (d : Bytes) : WritesIn advReg s (s.putRecord p d) := by
  rw [State.putRecord]
  exact WritesIn.signal (.hostWriteAdv (.hostWriteAdv (.refl ok) _ _ _ _) _ _ _ 0) p

theorem State.putRecord_rest (s : State) (p : Nat) (d : Bytes) : (s.putRecord p d).starts = s.starts ∧ (s.putRecord p d).parts = s.parts := by
  rw [State.putRecord, (State.signal_rest _ _).1, (State.signal_rest _ _).2, State.hostWrite, (State.hostWriteAdv_rest _ _ _ _ _).1, (State.hostWriteAdv_rest _ _ _ _ _).2]
  exact State.hostWriteAdv_rest _ _ _ _ _

/-- What the records of lost sequences write. -/
def lostReg (a : Nat) : Prop := advReg a ∨ a = Reg.FLT_STAT

theorem State.lostRecord_writesIn (ok : Canonical s) (k : KeptSeq) : WritesIn lostReg s (s.lostRecord k) := by
  rw [State.lostRecord]
  split
  · exact (State.putRecord_writesIn ok _ _).mono fun _ => .inl
  · exact (WritesIn.refl ok).wr (.inr rfl) _

theorem State.lostRecord_rest (s : State) (k : KeptSeq) : (s.lostRecord k).starts = s.starts ∧ (s.lostRecord k).parts = s.parts := by
  rw [State.lostRecord]
  split
  · exact State.putRecord_rest _ _ _
  · exact ⟨rfl, rfl⟩

/-- The fault state that keeps no sequence's record. -/
def State.keepNone (s : State) : State := { s with flt := { s.flt with kept := [] } }

theorem State.lostRecords_eq (s : State) : s.lostRecords = s.flt.kept.foldl State.lostRecord s.keepNone := rfl

theorem State.lostRecords_writesIn (ok : Canonical s) : WritesIn lostReg s s.lostRecords := by
  have hnone : WritesIn lostReg s s.keepNone := (WritesIn.refl ok).of_regs (ok.of_tables rfl) rfl
  rw [State.lostRecords_eq]
  exact .foldl (fun _ k _ hu => hu.trans (State.lostRecord_writesIn hu.ok k)) hnone

theorem State.lostRecords_rest (s : State) : s.lostRecords.starts = s.starts ∧ s.lostRecords.parts = s.parts := by
  have hstarts := foldl_leaves State.starts (fun t k => (t.lostRecord_rest k).1) s.flt.kept s.keepNone
  have hparts := foldl_leaves State.parts (fun t k => (t.lostRecord_rest k).2) s.flt.kept s.keepNone
  rw [State.lostRecords_eq]
  exact ⟨hstarts, hparts⟩

/-- The registers of the security core. -/
def secReg (a : Nat) : Prop := 0x50000 ≤ a ∧ a < 0x50200

/-- The registers of the security core but the models' keys. -/
def State.showSetup (s : State) : State :=
  let x := s.sec
  let bit := fun (b : Bool) (n : Nat) => if b then 2 ^ n else 0
  let w := bit x.error 31 + bit x.setupOk 30 + bit s.debugFused 29 + bit x.testMode 28 + x.roster.length * 2 ^ 24 + maskOf (tabKeys x.roster) * 2 ^ 16
    + x.queue.length * 2 ^ 13
  (((s.wr Reg.SEC_STAT (BitVec.ofNat 32 w)).wr64 Reg.SEC_CTR_LO Reg.SEC_CTR_HI x.ctr.toNat).wr64 Reg.SEC_DBG_LO Reg.SEC_DBG_HI x.debugMask.toNat).wr
    Reg.SEC_POLICY (BitVec.ofNat 32 (bit x.listed 31 + bit x.stageOpen 30 + bit x.rbAuto 29 + x.models.length * 2 ^ 16 + x.minM * 2 ^ 8 + x.minS))

/-- A model's key, shown. -/
def keyWord (x : Security) (p : Nat) : Word := BitVec.ofNat 32 ((tabGet (0, 0) x.keys p).2 * 2 ^ 16 + (tabGet (0, 0) x.keys p).1)

theorem State.showSec_eq (s : State) :
    s.showSec = (List.range 64).foldl (fun (t : State) p => t.wr (Reg.SEC_KEY p) (keyWord s.sec p)) s.showSetup := rfl

theorem State.noRegs_showSec (s : State) : s.showSec.noRegs = s.noRegs := by
  rw [State.showSec_eq, foldl_leaves State.noRegs fun t p => t.noRegs_wr _ _]
  rfl

theorem State.showSec_writesIn (ok : Canonical s) : WritesIn secReg s s.showSec := by
  have hreg : secReg Reg.SEC_STAT ∧ secReg Reg.SEC_CTR_LO ∧ secReg Reg.SEC_CTR_HI ∧ secReg Reg.SEC_DBG_LO ∧ secReg Reg.SEC_DBG_HI ∧ secReg Reg.SEC_POLICY := by
    simp only [secReg]
    decide
  obtain ⟨hstat, hclo, hchi, hdlo, hdhi, hpol⟩ := hreg
  have hkey : ∀ p, p < 64 → secReg (Reg.SEC_KEY p) := fun p hp => by
    simp only [secReg, Reg.SEC_KEY]
    omega
  rw [State.showSec_eq]
  exact .foldl (fun _ p hp hu => hu.wr (hkey p (List.mem_range.1 hp)) _)
    (((((((WritesIn.refl ok).wr hstat _).wr hclo _).wr hchi _).wr hdlo _).wr hdhi _).wr hpol _)

/-- STG_STAT and the records of a restart of kind k. -/
def State.restartShown (s : State) (k : Nat) : State :=
  ((((s.setFld Reg.STG_STAT 31 30 0).setFld Reg.STG_STAT 29 28 k).bump Reg.STG_STAT 23 16)).blankRecords fun n =>
    if n = 0 || decide (n = 1) && !decide (s.boot.haltedIn = some 1) then 6 else 0

/-- A restart of kind k under way, and test mode at its end. -/
def State.restartBegun (s : State) (k : Nat) : State :=
  { s with boot := { s.boot with stage := none, st10Open := false, loci := [], haltedIn := none, restarting := some k, downDone := false },
           sec := { s.sec with debugMask := 0, testMode := false } }

/-- A contact restart lets no stop last longer than a second. -/
def State.stopsShort (s : State) : State := s.liveParts.foldl (fun (t : State) p => t.modPart p fun x => { x with stopTmo := min x.stopTmo 1000 }) s

/-- What a restart of kind k does before it stops the jobs. -/
def State.restartReady (s : State) (k : Nat) : State := ((((s.restartShown k).restartBegun k).showSec).setFld Reg.FLT_STAT 23 16 0).lostRecords

/-- A host or contact restart stops every live partition with reason 2. -/
theorem State.acceptRestart_eq {k : Nat} (hk : k = 1 ∨ k = 2) : s.acceptRestart k =
    (if k = 2 then (s.restartReady k).stopsShort else s.restartReady k).liveParts.foldl (fun (t : State) p => t.stopPart p 2)
      (if k = 2 then (s.restartReady k).stopsShort else s.restartReady k) := by
  rw [State.acceptRestart]
  dsimp only
  rw [if_pos hk]
  rfl

theorem State.stopsShort_job (ok : Canonical s) (p : Nat) :
    Canonical s.stopsShort ∧ (s.stopsShort.part p).stopEpoch = (s.part p).stopEpoch ∧ (s.stopsShort.part p).stall = (s.part p).stall := by
  rw [State.stopsShort]
  refine List.foldlRecOn (motive := fun t : State => Canonical t ∧ (t.part p).stopEpoch = (s.part p).stopEpoch ∧ (t.part p).stall = (s.part p).stall) _ _
    ⟨ok, rfl, rfl⟩ fun t ht q _ => ?_
  obtain ⟨hok, hepoch, hstall⟩ := ht
  rw [State.part_modPart hok]
  refine ⟨hok.modPart _ _, ?_, ?_⟩
  · split
    next h => rw [← h]; exact hepoch
    next => exact hepoch
  · split
    next h => rw [← h]; exact hstall
    next => exact hstall

theorem State.stopsShort_rest (s : State) : s.stopsShort.regs = s.regs ∧ s.stopsShort.starts = s.starts :=
  have hstep : ∀ (t : State) (p : Nat), (t.modPart p fun x => { x with stopTmo := min x.stopTmo 1000 }).starts = t.starts := fun _ _ => rfl
  ⟨foldl_leaves State.regs (fun t p => t.modPart_regs p _) s.liveParts s, foldl_leaves State.starts hstep s.liveParts s⟩

theorem State.restartShown_writesIn (ok : Canonical s) (k : Nat) : WritesIn stageReg s (s.restartShown k) ∧
    (s.restartShown k).rd Reg.STG_STAT = bumpField (setField (setField (s.rd Reg.STG_STAT) 31 30 0) 29 28 k) 23 16 1 ∧ (s.restartShown k).noRegs = s.noRegs := by
  have hone := ok.setFld Reg.STG_STAT 31 30 0
  have htwo := hone.setFld Reg.STG_STAT 29 28 k
  have hthree := htwo.bump Reg.STG_STAT 23 16
  have hwrites := (((WritesIn.refl ok).setFld stageReg_stat 31 30 0).setFld stageReg_stat 29 28 k).wr stageReg_stat
    (bumpField (((s.setFld Reg.STG_STAT 31 30 0).setFld Reg.STG_STAT 29 28 k).rd Reg.STG_STAT) 23 16 1)
  have hrecs := fun status => State.blankRecords_writesIn hthree status
  have hstat : ¬stageRec Reg.STG_STAT := by
    rw [stageRec]
    decide
  refine ⟨hwrites.trans ((hrecs _).mono fun a ha => ?_), ?_, ?_⟩
  · simp only [stageRec, stageReg] at *
    omega
  · rw [State.restartShown, (hrecs _).rd _ hstat, State.rd_bump htwo, if_pos rfl, State.rd_setFld hone, if_pos rfl, State.rd_setFld ok, if_pos rfl]
  · rw [State.restartShown, State.noRegs_blankRecords]
    rfl

theorem Canonical.restartBegun (ok : Canonical s) (k : Nat) : Canonical (s.restartBegun k) := ok.of_tables rfl

theorem State.noRegs_restartBegun (s : State) (k : Nat) : (s.restartBegun k).noRegs = s.noRegs.restartBegun k := rfl
theorem State.restartBegun_rd (s : State) (k a : Nat) : (s.restartBegun k).rd a = s.rd a := rfl

/-- What two states that agree beside their registers share of bring-up, security and jobs. -/
theorem State.starts_of_noRegs {t : State} (h : t.noRegs = s.noRegs) : t.starts = s.starts := (congrArg State.starts h :)
theorem State.parts_of_noRegs {t : State} (h : t.noRegs = s.noRegs) : t.parts = s.parts := (congrArg State.parts h :)

theorem State.restartReady_rest (s : State) (k : Nat) : (s.restartReady k).starts = (s.restartBegun k).starts ∧ (s.restartReady k).parts = s.parts := by
  have hshown : (s.restartShown k).noRegs = s.noRegs := by
    rw [State.restartShown, State.noRegs_blankRecords]
    rfl
  have hclear : (((s.restartShown k).restartBegun k).showSec.setFld Reg.FLT_STAT 23 16 0).noRegs = (s.restartBegun k).noRegs := by
    rw [State.noRegs_setFld, State.noRegs_showSec, State.noRegs_restartBegun, hshown, State.noRegs_restartBegun]
  obtain ⟨hstarts, hparts⟩ := State.lostRecords_rest (((s.restartShown k).restartBegun k).showSec.setFld Reg.FLT_STAT 23 16 0)
  rw [State.restartReady]
  exact ⟨hstarts.trans (State.starts_of_noRegs hclear), hparts.trans ((State.parts_of_noRegs hclear).trans rfl)⟩

/-- What a restart is ready with before it stops the jobs. -/
theorem State.restartReady_writesIn (ok : Canonical s) (k : Nat) : WritesIn (fun a => stageReg a ∨ secReg a ∨ lostReg a) s (s.restartReady k) ∧
      (s.restartReady k).rd Reg.STG_STAT = bumpField (setField (setField (s.rd Reg.STG_STAT) 31 30 0) 29 28 k) 23 16 1 := by
  obtain ⟨hshown, hstat, -⟩ := State.restartShown_writesIn ok k
  have hsec := State.showSec_writesIn (hshown.ok.restartBegun k)
  have hlost := State.lostRecords_writesIn (hsec.ok.setFld Reg.FLT_STAT 23 16 0)
  have hclear : ∀ a, a ≠ Reg.FLT_STAT → (((s.restartShown k).restartBegun k).showSec.setFld Reg.FLT_STAT 23 16 0).rd a =
      ((s.restartShown k).restartBegun k).showSec.rd a := fun a ha => State.rd_wr_ne hsec.ok _ ha
  have hlater : ∀ a, ¬secReg a → ¬lostReg a → (s.restartReady k).rd a = (s.restartShown k).rd a := fun a hs hl => by
    rw [State.restartReady, hlost.rd a hl, hclear a fun e => hl (.inr e), hsec.rd a hs, State.restartBegun_rd]
  refine ⟨⟨hlost.ok, fun a ha => ?_⟩, (hlater _ ?_ ?_).trans hstat⟩
  · rw [not_or, not_or] at ha
    obtain ⟨hst, hs, hl⟩ := ha
    rw [hlater a hs hl, hshown.rd a hst]
  · rw [secReg]
    decide
  · rintro (⟨i, -, hi | hi⟩ | h)
    · simp only [Reg.STG_STAT, Reg.SRV_OUT_PI] at hi
      omega
    · simp only [Reg.STG_STAT, Reg.HIF_CSTAT] at hi
      omega
    · exact absurd h (by decide)

/-- A job's register is none of those a restart writes before it stops the jobs. -/
theorem not_restartReg_ldrPart {p : Nat} (hp : p < 64) : ¬(stageReg (Reg.LDR_PART p) ∨ secReg (Reg.LDR_PART p) ∨ lostReg (Reg.LDR_PART p)) := by
  simp only [stageReg, secReg, lostReg, advReg, Reg.LDR_PART, Reg.SRV_OUT_PI, Reg.HIF_CSTAT, Reg.FLT_STAT]
  rintro (h | h | ⟨i, hi, h | h⟩ | h) <;> omega

/-- READY and HALTED are clear when the field of both is. -/
theorem flags_of_top {x : Word} (h : field x 31 30 = 0) : flag x 31 = false ∧ flag x 30 = false := by
  rw [flag_eq_field, flag_eq_field, decide_eq_false_iff_not, decide_eq_false_iff_not]
  simp only [field] at *
  omega

/-- What an accepted restart shows, and the jobs it stops (R379 to R381). -/
theorem State.acceptRestart_shows (ok : Canonical s) {k : Nat} (hk : k = 1 ∨ k = 2) :
    let t := s.acceptRestart k
    t.boot.restarting = some k ∧ t.boot.stage = none ∧ t.boot.haltedIn = none ∧ t.sec.testMode = false ∧ t.sec.debugMask = 0 ∧
      flag (t.rd Reg.STG_STAT) 31 = false ∧ flag (t.rd Reg.STG_STAT) 30 = false ∧ t.fld Reg.STG_STAT 29 28 = k ∧
      ∀ p, p < 64 → s.pstate p = 2 → (s.part p).stall = false → (s.part p).stopEpoch = none → t.pstate p = 3 ∧ t.ersn p = 2 := by
  obtain ⟨hready, hstat⟩ := State.restartReady_writesIn ok k
  obtain ⟨hstarts, hparts⟩ := State.restartReady_rest s k
  rw [State.acceptRestart_eq hk]
  have hwait : ∃ u : State, (if k = 2 then (s.restartReady k).stopsShort else s.restartReady k) = u ∧ Canonical u ∧ u.regs = (s.restartReady k).regs ∧
      u.starts = (s.restartReady k).starts ∧ ∀ p, (u.part p).stopEpoch = (s.part p).stopEpoch ∧ (u.part p).stall = (s.part p).stall := by
    have hpart : ∀ p, (s.restartReady k).part p = s.part p := fun p => by rw [State.part, hparts, State.part]
    obtain ⟨hregs, hst⟩ := (s.restartReady k).stopsShort_rest
    by_cases htwo : k = 2
    · refine ⟨_, if_pos htwo, (State.stopsShort_job hready.ok 0).1, hregs, hst, fun p => ?_⟩
      obtain ⟨-, hepoch, hstall⟩ := State.stopsShort_job hready.ok p
      rw [← hpart]
      exact ⟨hepoch, hstall⟩
    · exact ⟨_, if_neg htwo, hready.ok, rfl, rfl, fun p => by rw [hpart]; exact ⟨rfl, rfl⟩⟩
  obtain ⟨u, hu, hok, hregs, hst, hjob⟩ := hwait
  rw [hu]
  have hrd : ∀ a, u.rd a = (s.restartReady k).rd a := fun a => by rw [State.rd, hregs, State.rd]
  have hstop := State.stopAll_writesIn hok u.liveParts 2
  have hend : (u.liveParts.foldl (fun (t : State) p => t.stopPart p 2) u).starts = (s.restartBegun k).starts :=
    (State.stopAll_starts u u.liveParts 2).trans (hst.trans hstarts)
  have hboot : (u.liveParts.foldl (fun (t : State) p => t.stopPart p 2) u).boot = (s.restartBegun k).boot := congrArg Prod.fst hend
  have hsec : (u.liveParts.foldl (fun (t : State) p => t.stopPart p 2) u).sec = (s.restartBegun k).sec := congrArg Prod.snd hend
  have hword : (u.liveParts.foldl (fun (t : State) p => t.stopPart p 2) u).rd Reg.STG_STAT =
      bumpField (setField (setField (s.rd Reg.STG_STAT) 31 30 0) 29 28 k) 23 16 1 := by
    refine (hstop.rd _ ?_).trans ((hrd _).trans hstat)
    rintro ⟨p, hp⟩
    simp only [Reg.STG_STAT, Reg.LDR_PART] at hp
    omega
  have hlive : ∀ p, p < 64 → s.pstate p = 2 → u.pstate p = 2 := fun p hp hrun =>
    (congrArg (fun w : Word => field w 31 29) ((hrd _).trans (hready.rd _ (not_restartReg_ldrPart hp)))).trans hrun
  have hclear : field (bumpField (setField (setField (s.rd Reg.STG_STAT) 31 30 0) 29 28 k) 23 16 1) 31 30 = 0 := by
    rw [field_bumpField_apart _ _ _ _ _ _ (by decide), field_setField_apart _ _ _ _ _ _ (by decide), field_setField _ _ _ _ (by decide)]
    rfl
  refine ⟨by rw [hboot]; rfl, by rw [hboot]; rfl, by rw [hboot]; rfl, by rw [hsec]; rfl, by rw [hsec]; rfl, ?_, ?_, ?_, fun p hp hrun hstall hepoch => ?_⟩
  · rw [hword]
    exact (flags_of_top hclear).1
  · rw [hword]
    exact (flags_of_top hclear).2
  · rw [State.fld, hword, field_bumpField_apart _ _ _ _ _ _ (by decide), field_setField _ _ _ _ (by decide)]
    rcases hk with rfl | rfl <;> rfl
  · obtain ⟨hep, hstl⟩ := hjob p
    have hmem : p ∈ u.liveParts := List.mem_filter.2 ⟨List.mem_range.2 hp, decide_eq_true (by rw [hlive p hp hrun]; decide)⟩
    exact State.stopAll_running hok ((List.nodup_range).filter _) hmem (hlive p hp hrun) (hep.trans hepoch) (hstl.trans hstall) (by decide)

/-! ### The rails down, and the stage that goes on -/

/-- The rails of every region that has them, down. -/
def State.railsCut (s : State) : State :=
  (tabKeys s.regions).foldl (fun (t : State) r => if (t.region r).pstate = 0 then t else t.cutPower r) s

theorem State.cutPower_sec (s : State) (r : Nat) : (s.cutPower r).sec = s.sec :=
  (State.modRegion_sec _ _ _).trans (foldl_leaves State.sec (fun t _ => t.modCoreAt_sec _ _) (List.range 17) s)

theorem State.railsCut_rest (s : State) : s.railsCut.regs = s.regs ∧ s.railsCut.sec = s.sec := by
  have hcut : ∀ (t : State) (r : Nat), (if (t.region r).pstate = 0 then t else t.cutPower r).regs = t.regs ∧
      (if (t.region r).pstate = 0 then t else t.cutPower r).sec = t.sec := fun t r => by
    split
    · exact ⟨rfl, rfl⟩
    · exact ⟨t.cutPower_regs r, t.cutPower_sec r⟩
  rw [State.railsCut]
  exact ⟨foldl_leaves State.regs (fun t r => (hcut t r).1) _ s, foldl_leaves State.sec (fun t r => (hcut t r).2) _ s⟩

theorem State.liveParts_of_regs {t : State} (h : t.regs = s.regs) : t.liveParts = s.liveParts := by
  have hstate : ∀ p, t.pstate p = s.pstate p := fun p => by rw [State.pstate, State.fld, State.rd, h, State.pstate, State.fld, State.rd]
  simp only [State.liveParts, hstate]

/-- With every partition free, the rails go down without changing the security core. -/
theorem State.powerDownAll_sec (hfree : s.liveParts = []) : s.powerDownAll.sec = s.sec := by
  have hcut : s.railsCut.liveParts = [] := (State.liveParts_of_regs s.railsCut_rest.1).trans hfree
  have hpow : s.powerDownAll = (let t := s.railsCut.liveParts.foldl (fun (t : State) p => (t.purgeFabric p).freePart p) s.railsCut;
    { t with load := none, ing := Ingest.idle, flt := { t.flt with queue := [], shipSince := none }, boot := { t.boot with railsDown := true } }) := rfl
  rw [hpow, hcut]
  exact s.railsCut_rest.2

theorem State.ledger_restarting (s : State) (a : Nat) (f : Ledger → Ledger) :
    (s.ledger a f).sec = s.sec ∧ (s.ledger a f).boot.restarting = s.boot.restarting := by
  have hviolated : ∀ t : State, (t.ledgerViolation 1 a false).sec = t.sec ∧ (t.ledgerViolation 1 a false).boot.restarting = t.boot.restarting := fun t => by
    rw [State.ledgerViolation]
    obtain ⟨hsec, hrun⟩ := State.deviceFatalD_restarting
      (if flag (t.rd Reg.SRV_INV_LOG) 31 then t else t.wr Reg.SRV_INV_LOG (BitVec.ofNat 32 (2 ^ 31 + 1 * 2 ^ 28 + a % 4096))) 41 0 false
    rw [hsec, hrun]
    split <;> exact ⟨rfl, rfl⟩
  rw [State.ledger]
  split
  · exact ⟨rfl, rfl⟩
  · dsimp only
    split
    · exact ⟨rfl, rfl⟩
    · exact hviolated _

theorem State.returnAll_restarting (s : State) : s.returnAll.sec = s.sec ∧ s.returnAll.boot.restarting = s.boot.restarting := by
  rw [State.returnAll]
  exact ⟨foldl_leaves State.sec (fun t a => (t.ledger_restarting a _).1) _ s,
    foldl_leaves (fun t : State => t.boot.restarting) (fun t a => (t.ledger_restarting a _).2) _ s⟩

theorem State.showFeeds_rest (s : State) : s.showFeeds.cores = s.cores ∧ s.showFeeds.regions = s.regions ∧ s.showFeeds.parts = s.parts ∧
    s.showFeeds.rim = s.rim ∧ s.showFeeds.fab = s.fab ∧ s.showFeeds.mgt = s.mgt ∧ s.showFeeds.sec = s.sec :=
  have h := s.noRegs_showFeeds
  ⟨(congrArg State.cores h :), (congrArg State.regions h :), (congrArg State.parts h :), (congrArg State.rim h :), (congrArg State.fab h :),
    (congrArg State.mgt h :), (congrArg State.sec h :)⟩

/-- Everything outside the always-on group is as at reset (Table 14-4). -/
theorem State.restartReset_rest (s : State) : s.restartReset.cores = [] ∧ s.restartReset.regions = [] ∧ s.restartReset.parts = [] ∧
    s.restartReset.rim = State.reset.rim ∧ s.restartReset.fab = State.reset.fab ∧ s.restartReset.mgt = s.mgt ∧ s.restartReset.sec = s.sec := by
  rw [State.restartReset]
  exact State.showFeeds_rest _

/-- No restart under way any more, and the ledgers count. -/
def State.restartOver (s : State) : State :=
  { s with boot := { s.boot with restarting := none, downDone := false }, srv := { s.srv with frozen := false } }

theorem State.leaveRestart_eq (herr : s.sec.error = false) : s.leaveRestart =
    (s.restartOver.returnAll.setFld Reg.FLT_STAT 31 31 0).beginStage (if s.fld (Reg.STG_REC_A 1) 27 24 = 0 then 1 else 2) := by
  have hcore : ∀ n, ((s.restartOver.returnAll.setFld Reg.FLT_STAT 31 31 0).beginStage n).sec.error = false := fun n =>
    (congrArg Security.error s.restartOver.returnAll_restarting.1).trans herr
  rw [State.leaveRestart]
  exact if_neg fun h => Bool.false_ne_true ((hcore _).symm.trans h.2)

/-- FATAL clears, and the stage that goes on begins (R380). -/
theorem State.leaveRestart_shows (ok : Canonical s) (herr : s.sec.error = false) :
    s.leaveRestart.boot.restarting = none ∧ s.leaveRestart.boot.stage = some (if s.fld (Reg.STG_REC_A 1) 27 24 = 0 then 1 else 2) ∧
      flag (s.leaveRestart.rd Reg.FLT_STAT) 31 = false := by
  have hret : Canonical s.restartOver.returnAll := (State.returnAll_kept (Canonical.of_tables ok rfl : Canonical s.restartOver).kept).ok
  have hclear := hret.setFld Reg.FLT_STAT 31 31 0
  rw [State.leaveRestart_eq herr]
  generalize hn : (if s.fld (Reg.STG_REC_A 1) 27 24 = 0 then 1 else 2) = n
  have hlt : n < 12 := by
    rw [← hn]
    split <;> decide
  refine ⟨?_, rfl, ?_⟩
  · exact s.restartOver.returnAll_restarting.2
  · rw [(State.beginStage_writesIn (.refl hclear) hlt).rd _ (not_stageReg (.inr (by decide))), State.rd_setFld hret, if_pos rfl, flag_setField _ _ _ (by decide)]
    rfl

end

/-- Settles O43: a restart accepted by what it is ready with and the stops that follow; the power-down and the release by the state they leave. That the stage in
which a restart goes on is told by the record of ST1, which status bits acceptance clears and that the power-down is one step are deduced
(notes/assumptions/83.md, 82.md, 23.md). -/
theorem restarts : Obligations.Restarts := by
  intro s v ok hon hcool
  have hstart : ¬flag (s.rd Reg.THM_STAT) 31 = true := by
    rw [hcool]
    exact Bool.false_ne_true
  refine ⟨fun hop hres => ?_, fun k hk => State.acceptRestart_shows ok hk, fun hstage => ?_, fun b hrun hdown hfree herr => ?_, fun hdown hrun => ?_,
    fun herr => ?_⟩
  · have hgo : ¬(field v 31 28 ≠ 1 ∨ s.boot.alwaysOn = false) := by simp [hop, hon]
    have hexec : exec (.restartByHost v) s = .next (if s.starting || flag (s.rd Reg.THM_STAT) 31 then s.rdrop else s.acceptRestart 1) := by
      simp only [exec, execRestartByHost]
      rw [if_neg hgo, State.reservedBits_of_clear s hres]
    rw [hexec, hcool, Bool.or_false]
    exact ⟨fun h => by rw [h]; rfl, fun h => by rw [h]; rfl⟩
  · have hidle : s.abandonStage = s := by rw [State.abandonStage, hstage]
    simp only [exec, execRestartByContact]
    rw [if_neg (by rw [hon]; exact Bool.noConfusion), if_neg hstart, hidle, hstage]
  · have hsec : s.powerDownAll.restartReset.sec.error = false := by
      obtain ⟨-, -, -, -, -, -, hsame⟩ := s.powerDownAll.restartReset_rest
      rw [hsame, State.powerDownAll_sec hfree, herr]
    have hgo : ¬(s.boot.restarting = none ∨ s.boot.downDone = true ∨ s.liveParts ≠ []) := by
      rw [hdown, hfree]
      simp [Option.isSome_iff_ne_none.1 hrun]
    refine ⟨?_, s.powerDownAll.restartReset_rest⟩
    simp only [exec, execRestartPowerDown]
    rw [if_neg hgo, hsec]
    rfl
  · have hgo : (s.boot.downDone && s.boot.restarting.isSome) = true := by rw [hdown, hrun]; rfl
    exact congrArg _ (if_pos hgo)
  · exact ⟨_, rfl, State.leaveRestart_shows (Canonical.of_tables ok rfl) herr⟩


/-! ### Stage records (O41) -/

section
variable {s : State}

theorem State.boot_of_noRegs {t : State} (h : t.noRegs = s.noRegs) : t.boot = s.boot := (congrArg State.boot h :)
theorem State.sec_of_noRegs {t : State} (h : t.noRegs = s.noRegs) : t.sec = s.sec := (congrArg State.sec h :)

theorem field_bumpSat {w : Nat} (x : BitVec w) (hi lo n : Nat) (h : hi < w) (hroom : field x hi lo + n < 2 ^ (hi + 1 - lo)) :
    field (bumpSat x hi lo n) hi lo = field x hi lo + n := by
  rw [bumpSat, field_setField _ _ _ _ h, Nat.min_eq_left (by omega), Nat.mod_eq_of_lt hroom]

/-- A record with room counts one more locus; the first one is kept in it. -/
theorem State.addLocus_record (ok : Canonical s) (n : Nat) (w : Word) (hroom : s.fld (Reg.STG_REC_A n) 15 0 < 65535) :
    (s.addLocus n w).fld (Reg.STG_REC_A n) 15 0 = s.fld (Reg.STG_REC_A n) 15 0 + 1 ∧
      (s.addLocus n w).rd (Reg.STG_REC_D n) = if s.fld (Reg.STG_REC_A n) 15 0 = 0 then w else s.rd (Reg.STG_REC_D n) := by
  have hne : Reg.STG_REC_A n ≠ Reg.STG_REC_D n := by simp [Reg.STG_REC_A, Reg.STG_REC_D]
  have hfirst : ∃ u : State, (if s.fld (Reg.STG_REC_A n) 15 0 = 0 then s.wr (Reg.STG_REC_D n) w else s) = u ∧ Canonical u ∧
      u.rd (Reg.STG_REC_A n) = s.rd (Reg.STG_REC_A n) ∧ u.rd (Reg.STG_REC_D n) = if s.fld (Reg.STG_REC_A n) 15 0 = 0 then w else s.rd (Reg.STG_REC_D n) := by
    split
    · exact ⟨_, rfl, ok.wr _ _, State.rd_wr_ne ok _ hne, State.rd_wr_same ok _ _⟩
    · exact ⟨_, rfl, ok, rfl, rfl⟩
  obtain ⟨u, hu, hok, hA, hD⟩ := hfirst
  have hfld : u.fld (Reg.STG_REC_A n) 15 0 = s.fld (Reg.STG_REC_A n) 15 0 := by rw [State.fld, hA, State.fld]
  have hcount : (u.bumpSat (Reg.STG_REC_A n) 15 0).fld (Reg.STG_REC_A n) 15 0 = s.fld (Reg.STG_REC_A n) 15 0 + 1 := by
    rw [State.fld, State.bumpSat, State.rd_wr_same hok, field_bumpSat _ _ _ _ (by decide), ← State.fld, hfld]
    rw [← State.fld, hfld]
    exact Nat.succ_lt_succ hroom
  have hkeep : (u.bumpSat (Reg.STG_REC_A n) 15 0).rd (Reg.STG_REC_D n) = if s.fld (Reg.STG_REC_A n) 15 0 = 0 then w else s.rd (Reg.STG_REC_D n) :=
    (State.rd_wr_ne hok _ hne.symm).trans hD
  rw [State.addLocus]
  dsimp only
  rw [hu]
  split
  · exact ⟨hcount, hkeep⟩
  · exact ⟨hcount, hkeep⟩

theorem Canonical.addLocus (ok : Canonical s) (n : Nat) (w : Word) : Canonical (s.addLocus n w) := (State.addLocus_kept ok.kept n w).ok
theorem Canonical.addLoci (ok : Canonical s) (n : Nat) (ws : List Word) : Canonical (s.addLoci n ws) := (State.addLoci_kept ok.kept n ws).ok

/-- A record counts the loci of its stage, and keeps the first. -/
theorem State.addLoci_record (ok : Canonical s) (n : Nat) (ws : List Word) (hroom : s.fld (Reg.STG_REC_A n) 15 0 + ws.length < 65536) :
    (s.addLoci n ws).fld (Reg.STG_REC_A n) 15 0 = s.fld (Reg.STG_REC_A n) 15 0 + ws.length ∧
      (s.addLoci n ws).rd (Reg.STG_REC_D n) = if s.fld (Reg.STG_REC_A n) 15 0 = 0 then ws.head?.getD (s.rd (Reg.STG_REC_D n)) else s.rd (Reg.STG_REC_D n) := by
  induction ws generalizing s with
  | nil => exact ⟨rfl, (ite_self _).symm⟩
  | cons w ws ih =>
    rw [List.length_cons] at hroom ⊢
    obtain ⟨hcount, hfirst⟩ := State.addLocus_record ok n w (by omega)
    obtain ⟨hall, hkept⟩ := ih (ok.addLocus n w) (by omega)
    refine ⟨hall.trans (by omega), hkept.trans ?_⟩
    rw [hcount, if_neg (Nat.succ_ne_zero _), hfirst]
    rfl

/-- What closes a record: the field STATUS, and the duration in another word. -/
theorem State.closeRecord_record (ok : Canonical s) (n status : Nat) :
    (s.closeRecord n status).rd (Reg.STG_REC_A n) = setField (s.rd (Reg.STG_REC_A n)) 27 24 status ∧
      (s.closeRecord n status).rd (Reg.STG_REC_D n) = s.rd (Reg.STG_REC_D n) := by
  have hset := ok.setFld (Reg.STG_REC_A n) 27 24 status
  have hne : Reg.STG_REC_A n ≠ Reg.STG_REC_B n ∧ Reg.STG_REC_D n ≠ Reg.STG_REC_B n ∧ Reg.STG_REC_D n ≠ Reg.STG_REC_A n := by
    simp [Reg.STG_REC_A, Reg.STG_REC_B, Reg.STG_REC_D]
  obtain ⟨hAB, hDB, hDA⟩ := hne
  rw [State.closeRecord]
  exact ⟨(State.rd_wr_ne hset _ hAB).trans (State.rd_wr_same ok _ _), (State.rd_wr_ne hset _ hDB).trans (State.rd_wr_ne ok _ hDA)⟩

theorem Canonical.closeRecord (ok : Canonical s) (n status : Nat) : Canonical (s.closeRecord n status) := (ok.setFld _ _ _ _).wr _ _

/-- A record opened by its stage has no locus. -/
theorem fld_openRecord {n : Nat} (h : s.rd (Reg.STG_REC_A n) = BitVec.ofNat 32 (n * 2 ^ 28 + 2 ^ 24)) : s.fld (Reg.STG_REC_A n) 15 0 = 0 := by
  rw [State.fld, h]
  simp only [field, BitVec.toNat_ofNat]
  omega

/-- The closed record of a stage shows its status, the number of its loci and the first of them (R390, R391). -/
theorem State.recorded (ok : Canonical s) {n : Nat} {ws : List Word} (hopen : s.rd (Reg.STG_REC_A n) = BitVec.ofNat 32 (n * 2 ^ 28 + 2 ^ 24))
    (hlen : ws.length < 65536) {status : Nat} (hstatus : status < 16) :
    let t := (s.addLoci n ws).closeRecord n status
    field (t.rd (Reg.STG_REC_A n)) 27 24 = status ∧ field (t.rd (Reg.STG_REC_A n)) 15 0 = ws.length ∧
      ∀ w, ws.head? = some w → t.rd (Reg.STG_REC_D n) = w := by
  have hzero := fld_openRecord hopen
  obtain ⟨hcount, hfirst⟩ := State.addLoci_record ok n ws (by omega)
  obtain ⟨hA, hD⟩ := State.closeRecord_record (ok.addLoci n ws) n status
  refine ⟨?_, ?_, fun w hw => ?_⟩
  · rw [hA, field_setField _ _ _ _ (by decide)]
    exact Nat.mod_eq_of_lt hstatus
  · rw [hA, field_setField_apart _ _ _ _ _ _ (by decide)]
    exact hcount.trans (by omega)
  · rw [hD, hfirst, if_pos hzero, hw]
    rfl

theorem State.addLocus_time (s : State) (n : Nat) (w : Word) : (s.addLocus n w).time = s.time := by
  rw [State.addLocus]
  dsimp only
  split <;> split <;> rfl

theorem State.addLoci_time (s : State) (n : Nat) (ws : List Word) : (s.addLoci n ws).time = s.time :=
  foldl_leaves State.time (fun t w => t.addLocus_time n w) ws s

/-- Beside CUR and its own record, the stage that begins writes no register. -/
theorem State.beginStage_frame (ok : Canonical s) (n : Nat) {a : Nat}
    (ha : a ≠ Reg.STG_STAT ∧ a ≠ Reg.STG_REC_A n ∧ a ≠ Reg.STG_REC_B n ∧ a ≠ Reg.STG_REC_C n ∧ a ≠ Reg.STG_REC_D n) : (s.beginStage n).rd a = s.rd a := by
  obtain ⟨hstat, hA, hB, hC, hD⟩ := ha
  have hwrites : WritesIn (fun b => b = Reg.STG_STAT ∨ b = Reg.STG_REC_A n ∨ b = Reg.STG_REC_B n ∨ b = Reg.STG_REC_C n ∨ b = Reg.STG_REC_D n) s
      (s.stageOpened n) := by
    have hC' : Reg.STG_REC_C n = Reg.STG_STAT ∨ Reg.STG_REC_C n = Reg.STG_REC_A n ∨ Reg.STG_REC_C n = Reg.STG_REC_B n ∨ Reg.STG_REC_C n = Reg.STG_REC_C n ∨
        Reg.STG_REC_C n = Reg.STG_REC_D n := .inr (.inr (.inr (.inl rfl)))
    rw [State.stageOpened, State.blankRecord]
    exact (((((WritesIn.refl ok).wr (.inr (.inl rfl)) _).wr (.inr (.inr (.inl rfl))) _).wr hC' _).wr (.inr (.inr (.inr (.inr rfl)))) _ |>.wr hC' _).setFld
      (.inl rfl) _ _ _
  rw [State.beginStage_eq, State.inStageAt_rd]
  exact hwrites.rd a (by simp only [not_or]; exact ⟨hstat, hA, hB, hC, hD⟩)

/-- START of the stage that begins. -/
theorem State.beginStage_start (ok : Canonical s) (n : Nat) : (s.beginStage n).rd (Reg.STG_REC_C n) = BitVec.ofNat 32 (s.now / 1000) := by
  have hblank := ok.blankRecord n 1
  have hstat : Reg.STG_REC_C n ≠ Reg.STG_STAT := by
    simp only [Reg.STG_REC_C, Reg.STG_STAT]
    omega
  rw [State.beginStage_eq, State.inStageAt_rd, State.stageOpened, State.rd_setFld (hblank.wr _ _), if_neg hstat, State.rd_wr_same hblank]

/-- A stage that passes, with loss when it has loci, and the next that begins (R382, R390). -/
theorem State.passStage_shows (ok : Canonical s) {n : Nat} {ws : List Word} (hn : n < 11)
    (hopen : s.rd (Reg.STG_REC_A n) = BitVec.ofNat 32 (n * 2 ^ 28 + 2 ^ 24)) (hlen : ws.length < 65536) :
    let t := s.passStage n ws
    t.boot.stage = some (n + 1) ∧ t.fld Reg.STG_STAT 27 24 = n + 1 ∧ t.fld (Reg.STG_REC_A n) 27 24 = (if ws = [] then 2 else 3) ∧
      t.fld (Reg.STG_REC_A n) 15 0 = ws.length ∧ (∀ w, ws.head? = some w → t.rd (Reg.STG_REC_D n) = w) ∧
      t.fld (Reg.STG_REC_A (n + 1)) 27 24 = 1 ∧ t.rd (Reg.STG_REC_C (n + 1)) = BitVec.ofNat 32 (s.now / 1000) := by
  have hzero := fld_openRecord hopen
  obtain ⟨hcount, -⟩ := State.addLoci_record ok n ws (by omega)
  have hstatus : (if (s.addLoci n ws).fld (Reg.STG_REC_A n) 15 0 = 0 then 2 else 3) = if ws = [] then 2 else 3 := by
    rw [hcount, hzero, Nat.zero_add]
    exact if_congr List.length_eq_zero_iff rfl rfl
  have hpass : s.passStage n ws = ((s.addLoci n ws).closeRecord n (if ws = [] then 2 else 3)).beginStage (n + 1) := by
    rw [State.passStage, State.endStage, hstatus]
  have hlt : (if ws = [] then 2 else 3) < 16 := by split <;> decide
  obtain ⟨hst, hnum, hfirst⟩ := State.recorded ok hopen hlen hlt
  have hclosed := (ok.addLoci n ws).closeRecord n (if ws = [] then 2 else 3)
  have hA : (((s.addLoci n ws).closeRecord n (if ws = [] then 2 else 3)).beginStage (n + 1)).rd (Reg.STG_REC_A n) =
      ((s.addLoci n ws).closeRecord n (if ws = [] then 2 else 3)).rd (Reg.STG_REC_A n) := by
    rw [State.beginStage_record hclosed, if_neg (by omega)]
  have hD : Reg.STG_REC_D n ≠ Reg.STG_STAT ∧ Reg.STG_REC_D n ≠ Reg.STG_REC_A (n + 1) ∧ Reg.STG_REC_D n ≠ Reg.STG_REC_B (n + 1) ∧
      Reg.STG_REC_D n ≠ Reg.STG_REC_C (n + 1) ∧ Reg.STG_REC_D n ≠ Reg.STG_REC_D (n + 1) := by
    simp only [Reg.STG_STAT, Reg.STG_REC_A, Reg.STG_REC_B, Reg.STG_REC_C, Reg.STG_REC_D]
    omega
  have hnow : ((s.addLoci n ws).closeRecord n (if ws = [] then 2 else 3)).now = s.now := congrArg BitVec.toNat (s.addLoci_time n ws)
  rw [hpass]
  refine ⟨rfl, ?_, ?_, ?_, fun w hw => ?_, ?_, ?_⟩
  · rw [State.fld, State.beginStage_stat hclosed (by omega), field_setField _ _ _ _ (by decide)]
    exact Nat.mod_eq_of_lt (by omega)
  · rw [State.fld, hA, hst]
  · rw [State.fld, hA, hnum]
  · rw [State.beginStage_frame hclosed _ hD]
    exact hfirst w hw
  · rw [State.fld, State.beginStage_record hclosed, if_pos rfl, field_stageRecord (by decide)]
  · rw [State.beginStage_start hclosed, hnow]

/-- What is left of partition p but its registers. -/
def State.partCleared (s : State) (p : Nat) : State := (((s.epochKept p).endExtents p).clearWelt p).setPart p Part.zero

/-- The spare procedure for partition p is over. -/
def State.spareEnded (s : State) (p : Nat) : State :=
  match s.flt.current with
  | some (q, _, _) => if q = p then ({ s with flt := { s.flt with current := none, shipSince := none } }).setFld Reg.FLT_REPAIR 31 8 0 else s
  | none => s

theorem State.freePart_registers (s : State) (p : Nat) : s.freePart p =
    ((((s.partCleared p).spareEnded p).setPState p 0).setFld (Reg.GLB_PMODE p) 21 16 0).setFld (Reg.GLB_PRECISION_STAT p) 31 30 0 := rfl

/-- The registers that freeing partition p writes are none of bring-up's. -/
theorem State.freePart_writesIn (ok : Canonical s) {p : Nat} (hp : p < 64) : WritesIn (fun a => ¬stageReg a) s (s.freePart p) := by
  have hreg : ¬stageReg (Reg.GLB_LOCK_EPOCH_LO p) ∧ ¬stageReg (Reg.GLB_LOCK_EPOCH_HI p) ∧ ¬stageReg (Reg.KVC_PFX p) ∧ ¬stageReg (Reg.LDR_PART p) ∧
      ¬stageReg (Reg.GLB_PMODE p) ∧ ¬stageReg (Reg.GLB_PRECISION_STAT p) ∧ ¬stageReg Reg.MGT_STAT ∧ ¬stageReg Reg.KVC_PFX_STAT ∧ ¬stageReg Reg.FLT_REPAIR := by
    simp only [stageReg, Reg.GLB_LOCK_EPOCH_LO, Reg.GLB_LOCK_EPOCH_HI, Reg.KVC_PFX, Reg.LDR_PART, Reg.GLB_PMODE, Reg.GLB_PRECISION_STAT, Reg.MGT_STAT,
      Reg.KVC_PFX_STAT, Reg.FLT_REPAIR]
    omega
  obtain ⟨hlo, hhi, hpfx, hpart, hmode, hprec, hmgt, hkvc, hrepair⟩ := hreg
  have hepoch : WritesIn (fun a => ¬stageReg a) s (s.epochKept p) := by
    rw [State.epochKept]
    split
    · exact ((WritesIn.refl ok).wr hlo _).wr hhi _
    · exact .refl ok
  have hext : ∀ t : State, WritesIn (fun a => ¬stageReg a) s t → WritesIn (fun a => ¬stageReg a) s (t.endExtents p) := fun t ht => by
    rw [State.endExtents]
    dsimp only
    split
    · exact ht.of_regs (ht.ok.of_tables rfl) rfl
    · refine WritesIn.setFld ?_ hmgt _ _ _
      exact ht.of_regs (ht.ok.of_tables rfl) rfl
  have hwelt : ∀ t : State, WritesIn (fun a => ¬stageReg a) s t → WritesIn (fun a => ¬stageReg a) s (t.clearWelt p) := fun t ht => by
    rw [State.clearWelt]
    refine WritesIn.setFld (WritesIn.setFld ?_ hkvc _ _ _) hpfx _ _ _
    exact ht.of_regs (ht.ok.of_tables rfl) rfl
  have hfree := hwelt _ (hext _ hepoch)
  have hgone : WritesIn (fun a => ¬stageReg a) s (s.partCleared p) := hfree.of_regs (hfree.ok.setPart _ _) rfl
  have hspare : ∀ t : State, WritesIn (fun a => ¬stageReg a) s t → WritesIn (fun a => ¬stageReg a) s (t.spareEnded p) := fun t ht => by
    rw [State.spareEnded]
    split
    · split
      · refine WritesIn.setFld ?_ hrepair _ _ _
        exact ht.of_regs (ht.ok.of_tables rfl) rfl
      · exact ht
    · exact ht
  rw [State.freePart_registers]
  exact (((hspare _ hgone).setFld hpart _ _ _).setFld hmode _ _ _).setFld hprec _ _ _

theorem Canonical.railsCut (ok : Canonical s) : Canonical s.railsCut := by
  rw [State.railsCut]
  refine List.foldlRecOn (motive := Canonical) _ _ ok fun t ht r _ => ?_
  split
  · exact ht
  · exact ht.cutPower r

/-- The rails down, every partition free. -/
def State.jobsFreed (s : State) : State := s.railsCut.liveParts.foldl (fun (t : State) p => (t.purgeFabric p).freePart p) s.railsCut

/-- The rails are down, with no load, no ingest and no spare under way. -/
def State.railsDown (s : State) : State :=
  { s with load := none, ing := Ingest.idle, flt := { s.flt with queue := [], shipSince := none }, boot := { s.boot with railsDown := true } }

theorem State.powerDownAll_eq (s : State) : s.powerDownAll = s.jobsFreed.railsDown := rfl

theorem State.powerDownAll_writesIn (ok : Canonical s) : WritesIn (fun a => ¬stageReg a) s s.powerDownAll := by
  have hcut : WritesIn (fun a => ¬stageReg a) s s.railsCut := (WritesIn.refl ok).of_regs ok.railsCut s.railsCut_rest.1
  have hpurge : ∀ (t : State) (p : Nat), WritesIn (fun a => ¬stageReg a) s t → WritesIn (fun a => ¬stageReg a) s (t.purgeFabric p) := fun t p ht =>
    ht.of_regs (ht.ok.purgeFabric p) rfl
  have hfreed : WritesIn (fun a => ¬stageReg a) s s.jobsFreed := by
    rw [State.jobsFreed]
    refine .foldl (fun t p hp ht => ?_) hcut
    have hlt : p < 64 := List.mem_range.1 (List.mem_filter.1 hp).1
    exact (hpurge t p ht).trans (State.freePart_writesIn (hpurge t p ht).ok hlt)
  rw [State.powerDownAll_eq]
  exact hfreed.of_regs (hfreed.ok.of_tables rfl) rfl

/-- The registers of bring-up that halts in stage n, and the rails. -/
def State.haltShown (s : State) (n : Nat) (ws : List Word) : State := (((s.addLoci n ws).closeRecord n 5).setFld Reg.STG_STAT 30 30 1).powerDownAll

theorem State.haltStage_eq (s : State) (n : Nat) (ws : List Word) : s.haltStage n ws =
    { s.haltShown n ws with boot := { (s.haltShown n ws).boot with stage := none, haltedIn := some n, aliveOut := false } } := rfl

/-- Bring-up halted: HALTED, and STATUS 5 with its loci (R387). -/
theorem State.haltStage_shows (ok : Canonical s) {n : Nat} {ws : List Word} (hn : n < 12) :
    let t := s.haltStage n ws
    t.boot.stage = none ∧ t.boot.haltedIn = some n ∧ t.boot.aliveOut = false ∧ flag (t.rd Reg.STG_STAT) 30 = true ∧
      t.rd (Reg.STG_REC_A n) = ((s.addLoci n ws).closeRecord n 5).rd (Reg.STG_REC_A n) := by
  have hclosed := (ok.addLoci n ws).closeRecord n 5
  have hhalt := hclosed.setFld Reg.STG_STAT 30 30 1
  have hdown := State.powerDownAll_writesIn hhalt
  have hne : Reg.STG_REC_A n ≠ Reg.STG_STAT := by
    simp only [Reg.STG_REC_A, Reg.STG_STAT]
    omega
  have hrd : ∀ a, (s.haltStage n ws).rd a = (s.haltShown n ws).rd a := fun _ => rfl
  refine ⟨rfl, rfl, rfl, ?_, ?_⟩
  · rw [hrd, State.haltShown, hdown.rd _ (not_not.2 stageReg_stat), State.rd_setFld hclosed, if_pos rfl, flag_setField _ _ _ (by decide)]
    rfl
  · rw [hrd, State.haltShown, hdown.rd _ (not_not.2 (stageReg_record hn).1), State.rd_setFld hclosed, if_neg hne]

/-! ### What a stage's records leave -/

/-- All of a state but its registers, the stage under way and the loci. -/
def State.unstaged (s : State) : State := { s with regs := [], boot := { s.boot with stage := none, stageStart := [], loci := [] } }

theorem State.addLocus_unstaged (s : State) (n : Nat) (w : Word) : (s.addLocus n w).unstaged = s.unstaged := by
  rw [State.addLocus]
  dsimp only
  split <;> split <;> rfl

theorem State.addLoci_unstaged (s : State) (n : Nat) (ws : List Word) : (s.addLoci n ws).unstaged = s.unstaged :=
  foldl_leaves State.unstaged (fun t w => t.addLocus_unstaged n w) ws s

theorem State.unstaged_of_noRegs {t : State} (h : t.noRegs = s.noRegs) : t.unstaged = s.unstaged := (congrArg State.unstaged h :)

theorem State.unstaged_inStageAt (s : State) (n : Nat) : (s.inStageAt n).unstaged = s.unstaged := rfl

theorem State.beginStage_unstaged (s : State) (n : Nat) : (s.beginStage n).unstaged = s.unstaged := by
  rw [State.beginStage_eq, State.unstaged_inStageAt, State.unstaged_of_noRegs (State.noRegs_stageOpened s n)]

theorem State.closeRecord_unstaged (s : State) (n status : Nat) : (s.closeRecord n status).unstaged = s.unstaged := rfl

theorem State.passStage_unstaged (s : State) (n : Nat) (ws : List Word) : (s.passStage n ws).unstaged = s.unstaged := by
  rw [State.passStage, State.beginStage_unstaged, State.endStage, State.closeRecord_unstaged, State.addLoci_unstaged]

section
variable {t : State} (h : t.unstaged = s.unstaged)
include h

theorem State.mgt_of_unstaged : t.mgt = s.mgt := (congrArg State.mgt h :)
theorem State.pwr_of_unstaged : t.pwr = s.pwr := (congrArg State.pwr h :)
theorem State.regions_of_unstaged : t.regions = s.regions := (congrArg State.regions h :)
theorem State.aliveOn_of_unstaged : t.boot.aliveOn = s.boot.aliveOn := (congrArg (fun u : State => u.boot.aliveOn) h :)
theorem State.referenceOk_of_unstaged : t.boot.referenceOk = s.boot.referenceOk := (congrArg (fun u : State => u.boot.referenceOk) h :)
theorem State.fuses_of_unstaged : t.boot.fuses = s.boot.fuses := (congrArg (fun u : State => u.boot.fuses) h :)
theorem State.railsDown_of_unstaged : t.boot.railsDown = s.boot.railsDown := (congrArg (fun u : State => u.boot.railsDown) h :)

end

/-! ### ST1 (R375, R436, R437, R451) -/

/-- Both references running. -/
def State.refsUp (s : State) : State := ({ s with boot := { s.boot with referenceOk := [true, true] } }).showRefs 1

/-- The security core out of its error state. -/
def State.secUp (s : State) : State := { s with sec := { s.sec with error := false, sessions := [] } }

/-- The banks as they were read. -/
def State.banksKept (s : State) (l : List Bank) : State := { s with mgt := { s.mgt with banks := l } }

/-- A port shown up, or a locus for one that is down. -/
def State.portShown (ups : BitVec 2) (s : State) (i : Nat) : State :=
  if ups.getLsbD i then s.setFld (Reg.HIF_PORT i) 31 31 1 else if s.portUp i then s else s.addLocus 1 (locus 8 1 i)

/-- ALIVE_OUT may toggle. -/
def State.aliveReady (s : State) : State := { s with boot := { s.boot with aliveOn := true } }

/-- The end of ST1 with bank b booted. -/
def State.bankBooted (s : State) (b : Nat) (h : Bytes) (ups : BitVec 2) : State :=
  (((List.range 2).foldl (State.portShown ups) (s.bootBank b h)).aliveReady.showSec).passStage 1 []

/-- What bank n reads as. -/
def State.bankAt (s : State) (a b : BankRead) (n : Nat) : BankRead := [s.bankRead 0 a, s.bankRead 1 b].getD n .empty

/-- With its references and its self-test good, ST1 boots the preferred bank or the other one, or halts. -/
theorem execSt1_eq {a b : BankRead} {ups : BitVec 2} (hstage : s.boot.stage = some 1) :
    let u := s.refsUp.secUp
    let q := s.mgt.preferred % 2
    let cause := fun n => u.bankCause (u.bankAt a b n)
    let kept := u.banksKept (keepBanks (u.bankAt a b 0) (u.bankAt a b 1))
    let n := if cause q = 0 then q else 1 - q
    execSt1ManagementBoot true true true a b ups s = .next (if cause q ≠ 0 ∧ cause (1 - q) ≠ 0
      then kept.showSec.haltStage 1 [locus 9 (cause q) q, locus 9 (cause (1 - q)) (1 - q)]
      else (if n = q then kept else kept.addLocus 1 (locus 9 (cause q) q)).bankBooted n
        (((keepBanks (u.bankAt a b 0) (u.bankAt a b 1)).map (·.header)).getD n []) ups) := by
  have hin : ¬(!(s.inStage 1)) = true := by simp [State.inStage, hstage]
  rw [execSt1ManagementBoot, if_neg hin]
  rfl

theorem State.portShown_rest (ups : BitVec 2) (s : State) (i : Nat) : (State.portShown ups s i).unstaged = s.unstaged := by
  rw [State.portShown]
  split
  · rfl
  · split
    · rfl
    · exact State.addLocus_unstaged _ _ _

theorem Canonical.portShown (ok : Canonical s) (ups : BitVec 2) (i : Nat) : Canonical (State.portShown ups s i) := by
  rw [State.portShown]
  split
  · exact ok.setFld _ _ _ _
  · split
    · exact ok
    · exact ok.addLocus _ _

theorem not_stageReg_port (i : Nat) (hi : i < 2) : ¬stageReg (Reg.HIF_PORT i) ∧ ¬secReg (Reg.HIF_PORT i) := by
  simp only [stageReg, secReg, Reg.HIF_PORT]
  omega

/-- Another port's state stays. -/
theorem State.portShown_port_ne (ok : Canonical s) (ups : BitVec 2) {i j : Nat} (hi : i < 2) (hij : i ≠ j) :
    (State.portShown ups s j).rd (Reg.HIF_PORT i) = s.rd (Reg.HIF_PORT i) := by
  have hne : Reg.HIF_PORT i ≠ Reg.HIF_PORT j := by
    simp only [Reg.HIF_PORT]
    omega
  rw [State.portShown]
  split
  · exact State.rd_wr_ne ok _ hne
  · split
    · rfl
    · exact (State.addLocus_writesIn (.refl ok) (by decide) _).rd _ (not_stageReg_port i hi).1

/-- The ports that are up read up. -/
theorem State.portsShown_up (ok : Canonical s) (ups : BitVec 2) {i : Nat} (hi : i < 2) (hup : ups.getLsbD i = true) :
    ((List.range 2).foldl (State.portShown ups) s).portUp i = true := by
  obtain ⟨t, ht, -, hend⟩ := foldl_at (I := Canonical) (fun t => t.rd (Reg.HIF_PORT i)) List.nodup_range (List.mem_range.2 hi)
    (fun t j ht => ht.portShown ups j) (fun t j ht hne => State.portShown_port_ne ht ups hi (Ne.symm hne)) ok
  rw [State.portUp, hend, State.portShown, if_pos hup, State.rd_setFld ht, if_pos rfl, flag_setField _ _ _ (by decide)]
  rfl

theorem Canonical.bootBank (ok : Canonical s) (b : Nat) (h : Bytes) : Canonical (s.bootBank b h) := (State.bootBank_kept ok.kept b h).ok

/-- Bank b booted: ST2 is next, ALIVE_OUT may toggle, and the ports that are up read so. -/
theorem State.bankBooted_shows (ok : Canonical s) (b : Nat) (h : Bytes) (ups : BitVec 2) :
    let t := s.bankBooted b h ups
    t.boot.stage = some 2 ∧ t.mgt.booted = b ∧ t.boot.aliveOn = true ∧ t.boot.referenceOk = s.boot.referenceOk ∧
      ∀ i, i < 2 → ups.getLsbD i = true → t.portUp i = true := by
  have hports : Canonical ((List.range 2).foldl (State.portShown ups) (s.bootBank b h)) :=
    List.foldlRecOn (motive := Canonical) _ _ (ok.bootBank b h) fun t ht i _ => ht.portShown ups i
  have halive : Canonical ((List.range 2).foldl (State.portShown ups) (s.bootBank b h)).aliveReady := hports.of_tables rfl
  have hsec := State.showSec_writesIn halive
  have hpass := State.passStage_writesIn (n := 1) (.refl hsec.ok) (by decide) []
  have hrest : (s.bankBooted b h ups).unstaged = ((List.range 2).foldl (State.portShown ups) (s.bootBank b h)).aliveReady.unstaged :=
    (State.passStage_unstaged _ _ _).trans (State.unstaged_of_noRegs (State.noRegs_showSec _))
  have hfold := foldl_leaves State.unstaged (State.portShown_rest ups) (List.range 2) (s.bootBank b h)
  have hready : ∀ t : State, t.aliveReady.mgt = t.mgt ∧ t.aliveReady.boot.referenceOk = t.boot.referenceOk ∧ t.aliveReady.boot.aliveOn = true :=
    fun _ => ⟨rfl, rfl, rfl⟩
  obtain ⟨hmgt, hrefs, hon⟩ := hready ((List.range 2).foldl (State.portShown ups) (s.bootBank b h))
  refine ⟨rfl, ?_, (State.aliveOn_of_unstaged hrest).trans hon, ?_, fun i hi hup => ?_⟩
  · rw [State.mgt_of_unstaged hrest, hmgt, State.mgt_of_unstaged hfold]
    rfl
  · rw [State.referenceOk_of_unstaged hrest, hrefs, State.referenceOk_of_unstaged hfold]
    rfl
  have hread : (s.bankBooted b h ups).rd (Reg.HIF_PORT i) = ((List.range 2).foldl (State.portShown ups) (s.bootBank b h)).rd (Reg.HIF_PORT i) :=
    (hpass.rd _ (not_stageReg_port i hi).1).trans (hsec.rd _ (not_stageReg_port i hi).2)
  rw [State.portUp, hread]
  exact State.portsShown_up (ok.bootBank b h) ups hi hup

/-! ### A security core that fails in ST1 -/

theorem stageReg_free_fatal : ¬stageReg Reg.FLT_FATAL ∧ ¬stageReg Reg.FLT_FATAL_LOC ∧ ¬stageReg Reg.FLT_STAT ∧ ¬stageReg Reg.SRV_STAT ∧ ¬stageReg (Reg.FLT_CNT 3) := by
  simp only [stageReg]
  decide

theorem not_stageReg_of_record {a : Nat} (h : recordReg a) : ¬stageReg a := by
  rcases h with (rfl | rfl | rfl | rfl) | rfl <;> (rw [stageReg]; decide)

theorem State.fatalNoted_writesIn (ok : Canonical s) (src : Nat) (loc : Word) (inj : Bool) : WritesIn (fun a => ¬stageReg a) s (s.fatalNoted src loc inj) := by
  obtain ⟨hfatal, hloc, -, -, hcnt⟩ := stageReg_free_fatal
  have hcount := (WritesIn.refl ok).wr (w := fun a => ¬stageReg a) hcnt (bumpField (s.rd (Reg.FLT_CNT 3)) 31 0 1)
  have hrecord := hcount.trans ((State.writeRecord_writesIn hcount.ok inj 3 src 255 0 loc).mono fun _ => not_stageReg_of_record)
  have hat : WritesIn (fun a => ¬stageReg a) s (((s.countClass 3).writeRecord inj 3 src 255 0 loc).fatalAt src) :=
    hrecord.of_regs (hrecord.ok.of_tables rfl) rfl
  rw [State.fatalNoted]
  exact (hat.setFld hfatal _ _ _).wr hloc _

theorem WritesIn.fatalShown {t : State} (h : WritesIn (fun a => ¬stageReg a) s t) : WritesIn (fun a => ¬stageReg a) s t.fatalShown := by
  obtain ⟨-, -, hstat, hsrv, -⟩ := stageReg_free_fatal
  rw [State.fatalShown]
  split
  · exact ((h.setFld hstat _ _ _).setFld hstat _ _ _).setFld hsrv _ _ _
  · exact (h.setFld hstat _ _ _).setFld hsrv _ _ _

/-- With no stage under way, a device-fatal fault leaves bring-up but for ALIVE_OUT, and its registers. -/
theorem State.deviceFatalD_halted (ok : Canonical s) (hstage : s.boot.stage = none) (src : Nat) (loc : Word) (inj : Bool) :
    WritesIn (fun a => ¬stageReg a) s (s.deviceFatalD src loc inj) ∧
      (s.deviceFatalD src loc inj).boot.stage = none ∧ (s.deviceFatalD src loc inj).boot.haltedIn = s.boot.haltedIn := by
  have hnoted := State.fatalNoted_writesIn ok src loc inj
  have hboot : (s.fatalNoted src loc inj).boot = s.boot := congrArg Prod.fst (State.fatalNoted_starts s src loc inj)
  rw [State.deviceFatalD_eq]
  split
  · exact ⟨hnoted, by rw [hboot, hstage], by rw [hboot]⟩
  · have hshown := hnoted.fatalShown
    have hsame : (s.fatalNoted src loc inj).fatalShown.boot = s.boot := (congrArg State.boot (s.fatalNoted src loc inj).fatalShown_noRegs :).trans hboot
    have hidle : (s.fatalNoted src loc inj).fatalShown.abandonStage = (s.fatalNoted src loc inj).fatalShown := by
      rw [State.abandonStage, hsame, hstage]
    rw [hidle]
    have hfrozen : WritesIn (fun a => ¬stageReg a) s (s.fatalNoted src loc inj).fatalShown.fatalFrozen := hshown.of_regs (hshown.ok.of_tables rfl) rfl
    have hend : ((List.range 64).foldl (fun (t : State) p => t.stopPart p 8) (s.fatalNoted src loc inj).fatalShown.fatalFrozen).boot =
        (s.fatalNoted src loc inj).fatalShown.fatalFrozen.boot := congrArg Prod.fst (State.stopAll_starts _ _ _)
    have hfreeze : ∀ t : State, t.fatalFrozen.boot.stage = t.boot.stage ∧ t.fatalFrozen.boot.haltedIn = t.boot.haltedIn := fun _ => ⟨rfl, rfl⟩
    refine ⟨hfrozen.trans ((State.stopAll_writesIn hfrozen.ok _ _).mono ?_), ?_, ?_⟩
    · rintro _ ⟨p, rfl⟩
      simp only [stageReg, Reg.LDR_PART]
      omega
    · rw [hend, (hfreeze _).1, hsame, hstage]
    · rw [hend, (hfreeze _).2, hsame]

/-- A security core that fails while no stage is under way stays in its error state, and the halt stays as it is (R451). -/
theorem State.secFails_halted (ok : Canonical s) (hstage : s.boot.stage = none) :
    s.secFails.boot.haltedIn = s.boot.haltedIn ∧ s.secFails.boot.stage = none ∧ s.secFails.sec.error = true ∧ s.secFails.rd Reg.STG_STAT = s.rd Reg.STG_STAT := by
  rw [State.secFails]
  split
  next herr => exact ⟨rfl, hstage, herr, rfl⟩
  next =>
    generalize hu : ({ s with sec := { s.sec with error := true, sessions := [] } } : State) = u
    have hok : Canonical u := hu ▸ ok.of_tables rfl
    have hsec := State.showSec_writesIn hok
    have hboot : u.showSec.boot = s.boot := (State.boot_of_noRegs u.noRegs_showSec).trans (by rw [← hu])
    have herr : u.showSec.sec.error = true := (congrArg Security.error (State.sec_of_noRegs u.noRegs_showSec)).trans (by rw [← hu])
    obtain ⟨hwrites, hst, hin⟩ := State.deviceFatalD_halted hsec.ok (hboot ▸ hstage) 44 0 false
    obtain ⟨hsame, -⟩ := u.showSec.deviceFatalD_restarting 44 0 false
    have hfree : ¬secReg Reg.STG_STAT := by
      rw [secReg]
      decide
    refine ⟨hin.trans (by rw [hboot]), hst, (congrArg Security.error hsame).trans herr, ?_⟩
    exact (hwrites.rd _ (not_not.2 stageReg_stat)).trans ((hsec.rd _ hfree).trans (by rw [← hu]; rfl))

/-- What ST1 notes of its references before its self-test. -/
def State.refsNoted (s : State) (r0 r1 : Bool) : State :=
  (({ s with boot := { s.boot with referenceOk := [r0, r1] } }).showRefs (if r0 then 1 else if r1 then 2 else 0)).addLoci 1
    ((if r0 then [] else [locus 11 1 0]) ++ (if r1 then [] else [locus 11 1 1]))

theorem Canonical.refsNoted (ok : Canonical s) (r0 r1 : Bool) : Canonical (s.refsNoted r0 r1) :=
  (Canonical.showRefs (ok.of_tables rfl : Canonical { s with boot := { s.boot with referenceOk := [r0, r1] } }) _).addLoci _ _

/-- A self-test that fails halts ST1, with the security core in its error state (R451). -/
theorem st1_selfTestFails (ok : Canonical s) (hstage : s.boot.stage = some 1) (r0 r1 : Bool) (a b : BankRead) (ups : BitVec 2) :
    Completes (.st1ManagementBoot r0 r1 false a b ups) s fun t => t.boot.haltedIn = some 1 ∧ t.boot.stage = none ∧ t.sec.error = true ∧
      flag (t.rd Reg.STG_STAT) 30 = true := by
  have hin : ¬(!(s.inStage 1)) = true := by simp [State.inStage, hstage]
  have hexec : exec (.st1ManagementBoot r0 r1 false a b ups) s = .next ((s.refsNoted r0 r1).haltStage 1 [locus 9 4 0]).secFails := by
    simp only [exec, execSt1ManagementBoot]
    rw [if_neg hin]
    rfl
  obtain ⟨hst, hhalt, -, hflag, -⟩ := State.haltStage_shows (ws := [locus 9 4 0]) (ok.refsNoted r0 r1) (n := 1) (by decide)
  have hok : Canonical ((s.refsNoted r0 r1).haltStage 1 [locus 9 4 0]) := (State.haltStage_kept (ok.refsNoted r0 r1).kept _ _).ok
  obtain ⟨hsame, hidle, herr, hstat⟩ := State.secFails_halted hok hst
  exact ⟨_, hexec, hsame.trans hhalt, hidle, herr, by rw [hstat]; exact hflag⟩

section
variable {a b : BankRead} {ups : BitVec 2} (hstage : s.boot.stage = some 1)
include hstage

theorem execSt1_of_preferred (hgood : s.refsUp.secUp.bankCause (s.refsUp.secUp.bankAt a b (s.mgt.preferred % 2)) = 0) :
    execSt1ManagementBoot true true true a b ups s =
      .next ((s.refsUp.secUp.banksKept (keepBanks (s.refsUp.secUp.bankAt a b 0) (s.refsUp.secUp.bankAt a b 1))).bankBooted (s.mgt.preferred % 2)
        (((keepBanks (s.refsUp.secUp.bankAt a b 0) (s.refsUp.secUp.bankAt a b 1)).map (·.header)).getD (s.mgt.preferred % 2) []) ups) := by
  simp only [execSt1_eq hstage, hgood, ne_eq, not_true_eq_false, false_and, if_false, if_true]

theorem execSt1_of_other (hbad : s.refsUp.secUp.bankCause (s.refsUp.secUp.bankAt a b (s.mgt.preferred % 2)) ≠ 0)
    (hgood : s.refsUp.secUp.bankCause (s.refsUp.secUp.bankAt a b (1 - s.mgt.preferred % 2)) = 0) :
    execSt1ManagementBoot true true true a b ups s =
      .next (((s.refsUp.secUp.banksKept (keepBanks (s.refsUp.secUp.bankAt a b 0) (s.refsUp.secUp.bankAt a b 1))).addLocus 1
        (locus 9 (s.refsUp.secUp.bankCause (s.refsUp.secUp.bankAt a b (s.mgt.preferred % 2))) (s.mgt.preferred % 2))).bankBooted (1 - s.mgt.preferred % 2)
        (((keepBanks (s.refsUp.secUp.bankAt a b 0) (s.refsUp.secUp.bankAt a b 1)).map (·.header)).getD (1 - s.mgt.preferred % 2) []) ups) := by
  have hne : 1 - s.mgt.preferred % 2 ≠ s.mgt.preferred % 2 := by omega
  simp only [execSt1_eq hstage, hgood, hbad, hne, ne_eq, not_true_eq_false, and_false, if_false]

theorem execSt1_of_none (hbad : s.refsUp.secUp.bankCause (s.refsUp.secUp.bankAt a b (s.mgt.preferred % 2)) ≠ 0)
    (hbad' : s.refsUp.secUp.bankCause (s.refsUp.secUp.bankAt a b (1 - s.mgt.preferred % 2)) ≠ 0) :
    execSt1ManagementBoot true true true a b ups s =
      .next ((s.refsUp.secUp.banksKept (keepBanks (s.refsUp.secUp.bankAt a b 0) (s.refsUp.secUp.bankAt a b 1))).showSec.haltStage 1
        [locus 9 (s.refsUp.secUp.bankCause (s.refsUp.secUp.bankAt a b (s.mgt.preferred % 2))) (s.mgt.preferred % 2),
          locus 9 (s.refsUp.secUp.bankCause (s.refsUp.secUp.bankAt a b (1 - s.mgt.preferred % 2))) (1 - s.mgt.preferred % 2)]) := by
  rw [execSt1_eq hstage]
  exact congrArg _ (if_pos ⟨hbad, hbad'⟩)

end

/-- What bank n reads as, for the two banks there are. -/
theorem State.bankAt_eq (s : State) (a b : BankRead) {n : Nat} (hn : n < 2) : s.bankAt a b n = if n = 0 then s.bankRead 0 a else s.bankRead 1 b := by
  interval_cases n <;> rfl

theorem Canonical.refsUp (ok : Canonical s) : Canonical s.refsUp :=
  Canonical.showRefs (ok.of_tables rfl : Canonical { s with boot := { s.boot with referenceOk := [true, true] } }) 1

theorem Canonical.secUp (ok : Canonical s) : Canonical s.secUp := ok.of_tables rfl
theorem Canonical.banksKept (ok : Canonical s) (l : List Bank) : Canonical (s.banksKept l) := ok.of_tables rfl

/-- ST1 with its references and its self-test good: a bank boots, the preferred one first, or bring-up halts. -/
theorem st1_boots (ok : Canonical s) (hstage : s.boot.stage = some 1) (a b : BankRead) (ups : BitVec 2) :
    let u := s.refsUp.secUp
    let reads := fun (n : Nat) => if n = 0 then u.bankRead 0 a else u.bankRead 1 b
    let q := s.mgt.preferred % 2
    (u.bankCause (reads q) = 0 → Completes (.st1ManagementBoot true true true a b ups) s fun t => t.boot.stage = some 2 ∧ t.mgt.booted = q ∧
      t.boot.aliveOn = true ∧ t.boot.referenceOk = [true, true] ∧ ∀ i, i < 2 → ups.getLsbD i = true → t.portUp i = true) ∧
    (u.bankCause (reads q) ≠ 0 → u.bankCause (reads (1 - q)) = 0 → Completes (.st1ManagementBoot true true true a b ups) s fun t =>
      t.boot.stage = some 2 ∧ t.mgt.booted = 1 - q) ∧
    (u.bankCause (reads q) ≠ 0 → u.bankCause (reads (1 - q)) ≠ 0 → Completes (.st1ManagementBoot true true true a b ups) s fun t =>
      t.boot.haltedIn = some 1 ∧ t.boot.stage = none) := by
  intro u reads q
  have hu : Canonical u := ok.refsUp.secUp
  have hq : q < 2 := Nat.mod_lt _ (by decide)
  have hq' : 1 - q < 2 := by omega
  rw [show reads q = u.bankAt a b q from (u.bankAt_eq a b hq).symm, show reads (1 - q) = u.bankAt a b (1 - q) from (u.bankAt_eq a b hq').symm]
  have hkept : Canonical (u.banksKept (keepBanks (u.bankAt a b 0) (u.bankAt a b 1))) := hu.banksKept _
  refine ⟨fun hgood => ?_, fun hbad hgood => ?_, fun hbad hbad' => ?_⟩
  · obtain ⟨hst, hbank, halive, hrefs, hports⟩ := State.bankBooted_shows hkept q
      (((keepBanks (u.bankAt a b 0) (u.bankAt a b 1)).map (·.header)).getD q []) ups
    exact ⟨_, execSt1_of_preferred hstage hgood, hst, hbank, halive, hrefs.trans rfl, hports⟩
  · obtain ⟨hst, hbank, -, -, -⟩ := State.bankBooted_shows (hkept.addLocus 1 (locus 9 (u.bankCause (u.bankAt a b q)) q)) (1 - q)
      (((keepBanks (u.bankAt a b 0) (u.bankAt a b 1)).map (·.header)).getD (1 - q) []) ups
    exact ⟨_, execSt1_of_other hstage hbad hgood, hst, hbank⟩
  · obtain ⟨hst, hhalt, -, -, -⟩ := State.haltStage_shows (State.showSec_writesIn hkept).ok (n := 1) (ws := [locus 9 (u.bankCause (u.bankAt a b q)) q,
      locus 9 (u.bankCause (u.bankAt a b (1 - q))) (1 - q)]) (by decide)
    exact ⟨_, execSt1_of_none hstage hbad hbad', hhalt, hst⟩

/-! ### ST2 (R16, R17, R30) -/

theorem State.deadAtStart_region (ok : Canonical s) (r cause i : Nat) :
    (s.deadAtStart r cause).region i = if i = r then { (s.region r).unpowered with cause := cause, hubOn := false, seq := { (s.region r).unpowered.seq with state := 0 } }
      else s.region i := by
  have hmap : Canonical (s.mapCores r fun _ c => c.unpowered) := (State.mapCores_kept ok.kept r _).ok
  have hcut : ∀ j, (s.cutPower r).region j = if j = r then (s.region r).unpowered else s.region j := fun j => by
    rw [State.cutPower, State.region_modRegion hmap, State.mapCores_region, State.mapCores_region]
  rw [State.deadAtStart, State.region_modRegion (ok.cutPower r), hcut, hcut, if_pos rfl]
  split <;> rfl

theorem Canonical.deadAtStart (ok : Canonical s) (r cause : Nat) : Canonical (s.deadAtStart r cause) := (ok.cutPower r).modRegion r _

/-- Is region r marked dead with cause 1, its hub off? -/
def State.fusedOff (s : State) (r : Nat) : Prop := (s.region r).cause = 1 ∧ (s.region r).hubOn = false

/-- A region that the list names, with cause 1 wherever it does, is dead with it. -/
theorem State.fusedOff_foldl (ok : Canonical s) {l : List (Nat × Nat)} {r : Nat} (hin : ∃ c, (r, c) ∈ l) (hone : ∀ c, (r, c) ∈ l → c = 1) :
    (l.foldl (fun (t : State) e => t.deadAtStart e.1 e.2) s).fusedOff r := by
  obtain ⟨c, hc⟩ := hin
  refine (foldl_sets (I := Canonical) (Q := fun e t => e.1 = r → t.fusedOff r) (fun t ht e _ => ht.deadAtStart _ _) (fun t ht e he her => ?_)
    (fun t ht e _ e' he' hQ her => ?_) ok).2 (r, c) hc rfl
  · rw [State.fusedOff, State.deadAtStart_region ht, if_pos her.symm]
    exact ⟨hone e.2 (by rw [← her]; exact he), rfl⟩
  · rw [State.fusedOff, State.deadAtStart_region ht]
    split
    next h => exact ⟨hone e'.2 (by rw [h]; exact he'), rfl⟩
    next => exact hQ her

/-- The serial number, the part's identity and the counters of the fuses, shown. -/
def State.fusesShown (s : State) (f : Fuses) : State :=
  let s := { s with boot := { s.boot with fuses := some f },
                    sec := { s.sec with cntM := max s.sec.cntM f.cntM, cntS := max s.sec.cntS f.cntS } }
  let s := s.wr Reg.GLB_ID (BitVec.ofNat 32 (0x10000 + f.grade % 2 * 2 ^ 10 + f.stepping % 2 * 2 ^ 8 + f.option % 2 * 2 ^ 4))
  (s.wr64 Reg.GLB_SERIAL_LO Reg.GLB_SERIAL_HI f.serial.toNat).showCounters.showSec

/-- Spare rows used and rows repaired, of one region. -/
def State.rowsNoted (f : Fuses) (s : State) (r : Nat) : State :=
  if (s.rowsOf f r).isEmpty && (s.remapOf r).isEmpty then s else s.modRegion r fun g => { g with rowsUsed := s.rowsOf f r, remapped := s.remapOf r }

/-- The rows of every region, noted. -/
def State.rowsRead (s : State) (f : Fuses) : State := (List.range 896).foldl (State.rowsNoted f) s

/-- The regions of a list dead from this start on, with their causes. -/
def State.markedDead (s : State) (l : List (Nat × Nat)) : State := l.foldl (fun (t : State) e => t.deadAtStart e.1 e.2) s

/-- What ST2 makes of the fuses before it passes. -/
def State.fusesRead (s : State) (f : Fuses) : State := ((s.fusesShown f).rowsRead f).markedDead (((s.fusesShown f).rowsRead f).knownDead f)

theorem execSt2FuseRead_eq (f : Fuses) (hstage : s.boot.stage = some 2) : execSt2FuseRead (some f) s =
    .next ((s.fusesRead f).passStage 2 ((((s.fusesShown f).rowsRead f).knownDead f).map fun (e : Nat × Nat) => locus 3 e.2 (regionPlace e.1))) := by
  have hin : ¬(!(s.inStage 2)) = true := by simp [State.inStage, hstage]
  rw [execSt2FuseRead, if_neg hin]
  rfl

/-- A region dead by its fuses is known with cause 1, and with no other. -/
theorem State.knownDead_of_fused (s : State) {f : Fuses} {r : Nat} (hr : r < 896) (hdead : r ∈ f.dead) :
    (r, 1) ∈ s.knownDead f ∧ ∀ c, (r, c) ∈ s.knownDead f → c = 1 := by
  have hfused : ∀ q, q ∈ f.dead → (if f.dead.contains q || s.sec.fusedDead.contains q then some (q, 1) else (tabFind s.mgt.deaths q).map fun c => (q, c)) = some (q, 1) :=
    fun q hq => if_pos (by rw [List.contains_iff_mem.2 hq]; rfl)
  refine ⟨List.mem_filterMap.2 ⟨r, List.mem_range.2 hr, hfused r hdead⟩, fun c hc => ?_⟩
  obtain ⟨q, -, hq⟩ := List.mem_filterMap.1 hc
  have hqr : q = r := by
    by_cases hin : (f.dead.contains q || s.sec.fusedDead.contains q) = true
    · rw [if_pos hin] at hq
      exact congrArg Prod.fst (Option.some.inj hq)
    · rw [if_neg hin] at hq
      obtain ⟨d, -, hd⟩ := Option.map_eq_some_iff.1 hq
      exact congrArg Prod.fst hd
  rw [hqr, hfused r hdead] at hq
  exact (congrArg Prod.snd (Option.some.inj hq)).symm

theorem State.rowsNoted_rest (f : Fuses) (s : State) (r : Nat) : (State.rowsNoted f s r).regs = s.regs ∧ (State.rowsNoted f s r).boot = s.boot := by
  rw [State.rowsNoted]
  split <;> exact ⟨rfl, rfl⟩

theorem Canonical.rowsNoted (ok : Canonical s) (f : Fuses) (r : Nat) : Canonical (State.rowsNoted f s r) := by
  rw [State.rowsNoted]
  split
  · exact ok
  · exact ok.modRegion _ _

theorem State.cutPower_boot (s : State) (r : Nat) : (s.cutPower r).boot = s.boot :=
  (State.modRegion_boot _ _ _).trans (foldl_leaves State.boot (fun t _ => t.modCoreAt_boot _ _) (List.range 17) s)

theorem State.deadAtStart_rest (s : State) (r cause : Nat) : (s.deadAtStart r cause).regs = s.regs ∧ (s.deadAtStart r cause).boot = s.boot :=
  ⟨(State.modRegion_regs _ _ _).trans (s.cutPower_regs r), (State.modRegion_boot _ _ _).trans (s.cutPower_boot r)⟩

theorem State.rowsRead_rest (s : State) (f : Fuses) : (s.rowsRead f).regs = s.regs ∧ (s.rowsRead f).boot = s.boot := by
  rw [State.rowsRead]
  have hregs := foldl_leaves State.regs (fun t r => (State.rowsNoted_rest f t r).1) (List.range 896) s
  have hboot := foldl_leaves State.boot (fun t r => (State.rowsNoted_rest f t r).2) (List.range 896) s
  exact ⟨hregs, hboot⟩

theorem State.markedDead_rest (s : State) (l : List (Nat × Nat)) : (s.markedDead l).regs = s.regs ∧ (s.markedDead l).boot = s.boot := by
  rw [State.markedDead]
  have hregs := foldl_leaves State.regs (fun (t : State) (e : Nat × Nat) => (t.deadAtStart_rest e.1 e.2).1) l s
  have hboot := foldl_leaves State.boot (fun (t : State) (e : Nat × Nat) => (t.deadAtStart_rest e.1 e.2).2) l s
  exact ⟨hregs, hboot⟩

theorem Canonical.rowsRead (ok : Canonical s) (f : Fuses) : Canonical (s.rowsRead f) := by
  rw [State.rowsRead]
  exact List.foldlRecOn (motive := Canonical) _ _ ok fun t ht r _ => ht.rowsNoted f r

theorem Canonical.markedDead (ok : Canonical s) (l : List (Nat × Nat)) : Canonical (s.markedDead l) := by
  rw [State.markedDead]
  exact List.foldlRecOn (motive := Canonical) _ _ ok fun t ht e _ => ht.deadAtStart e.1 e.2

/-- The fuses kept, with the part's identity shown. -/
def State.fusesKept (s : State) (f : Fuses) : State :=
  ({ s with boot := { s.boot with fuses := some f }, sec := { s.sec with cntM := max s.sec.cntM f.cntM, cntS := max s.sec.cntS f.cntS } }).wr Reg.GLB_ID
    (BitVec.ofNat 32 (0x10000 + f.grade % 2 * 2 ^ 10 + f.stepping % 2 * 2 ^ 8 + f.option % 2 * 2 ^ 4))

theorem State.fusesShown_eq (s : State) (f : Fuses) :
    s.fusesShown f = (((s.fusesKept f).wr64 Reg.GLB_SERIAL_LO Reg.GLB_SERIAL_HI f.serial.toNat).showCounters).showSec := rfl

/-- The two halves of a wide value read together as the value. -/
theorem State.rd64_wr64 (ok : Canonical s) {lo hi : Nat} (hne : lo ≠ hi) (v : BitVec 64) : (s.wr64 lo hi v.toNat).rd64 lo hi = v.toNat := by
  have hlt := v.isLt
  rw [State.rd64, State.wr64, State.rd_wr_same (ok.wr _ _), State.rd_wr_ne (ok.wr _ _) _ hne, State.rd_wr_same ok]
  simp only [BitVec.toNat_ofNat, Nat.shiftRight_eq_div_pow]
  omega

theorem State.fusesShown_shows (ok : Canonical s) (f : Fuses) : Canonical (s.fusesShown f) ∧ (s.fusesShown f).boot.fuses = some f ∧
    (s.fusesShown f).rd64 Reg.GLB_SERIAL_LO Reg.GLB_SERIAL_HI = f.serial.toNat := by
  have hkept : Canonical (s.fusesKept f) := (Canonical.of_tables ok rfl : Canonical ({ s with boot := { s.boot with fuses := some f }, sec :=
    { s.sec with cntM := max s.sec.cntM f.cntM, cntS := max s.sec.cntS f.cntS } })).wr _ _
  have hboot : (s.fusesKept f).boot.fuses = some f := rfl
  rw [State.fusesShown_eq]
  generalize s.fusesKept f = u at *
  have hserial : Canonical (u.wr64 Reg.GLB_SERIAL_LO Reg.GLB_SERIAL_HI f.serial.toNat) := (hkept.wr _ _).wr _ _
  have hcounters : WritesIn (· = Reg.MGT_SVN) (u.wr64 Reg.GLB_SERIAL_LO Reg.GLB_SERIAL_HI f.serial.toNat)
      (u.wr64 Reg.GLB_SERIAL_LO Reg.GLB_SERIAL_HI f.serial.toNat).showCounters :=
    ((WritesIn.refl (w := (· = Reg.MGT_SVN)) hserial).setFld rfl _ _ _).setFld rfl _ _ _
  have hsec := State.showSec_writesIn hcounters.ok
  have hrd : ∀ a, a = Reg.GLB_SERIAL_LO ∨ a = Reg.GLB_SERIAL_HI → (u.wr64 Reg.GLB_SERIAL_LO Reg.GLB_SERIAL_HI f.serial.toNat).showCounters.showSec.rd a =
      (u.wr64 Reg.GLB_SERIAL_LO Reg.GLB_SERIAL_HI f.serial.toNat).rd a := fun a ha => by
    have hfree : ¬secReg a ∧ a ≠ Reg.MGT_SVN := by
      rcases ha with rfl | rfl <;> (rw [secReg]; decide)
    exact (hsec.rd a hfree.1).trans (hcounters.rd a hfree.2)
  refine ⟨hsec.ok, ?_, ?_⟩
  · rw [State.boot_of_noRegs (State.noRegs_showSec _)]
    exact hboot
  · rw [State.rd64, hrd _ (.inl rfl), hrd _ (.inr rfl), ← State.rd64]
    exact State.rd64_wr64 hkept (by decide) f.serial

/-- ST2 with its fuses read: the part's serial number, and its fused regions dead with cause 1 (R16, R30). -/
theorem st2_reads (ok : Canonical s) (hstage : s.boot.stage = some 2) (f : Fuses) :
    Completes (.st2FuseRead (some f)) s fun t => t.boot.stage = some 3 ∧ t.boot.fuses = some f ∧
      t.rd64 Reg.GLB_SERIAL_LO Reg.GLB_SERIAL_HI = f.serial.toNat ∧ ∀ r, r < 896 → r ∈ f.dead → (t.region r).cause = 1 ∧ (t.region r).hubOn = false := by
  obtain ⟨hshown, hfuses, hserial⟩ := State.fusesShown_shows ok f
  have hrows := hshown.rowsRead f
  have hread : Canonical (s.fusesRead f) := hrows.markedDead _
  have hregs : (s.fusesRead f).regs = (s.fusesShown f).regs := (State.markedDead_rest _ _).1.trans (State.rowsRead_rest _ f).1
  have hboot : (s.fusesRead f).boot = (s.fusesShown f).boot := (State.markedDead_rest _ _).2.trans (State.rowsRead_rest _ f).2
  refine ⟨_, execSt2FuseRead_eq f hstage, ?_⟩
  generalize ((((s.fusesShown f).rowsRead f).knownDead f).map fun (e : Nat × Nat) => locus 3 e.2 (regionPlace e.1)) = ws
  have hpass := State.passStage_writesIn (n := 2) (.refl hread) (by decide) ws
  have hrest := State.passStage_unstaged (s.fusesRead f) 2 ws
  have hrd : ∀ a, ¬stageReg a → ((s.fusesRead f).passStage 2 ws).rd a = (s.fusesShown f).rd a := fun a ha => by
    rw [hpass.rd a ha, State.rd, hregs, State.rd]
  refine ⟨rfl, (State.fuses_of_unstaged hrest).trans (by rw [hboot, hfuses]), ?_, fun r hr hdead => ?_⟩
  · rw [State.rd64, hrd _ (not_stageReg (.inl (by decide))), hrd _ (not_stageReg (.inl (by decide))), ← State.rd64, hserial]
  · obtain ⟨hin, hone⟩ := State.knownDead_of_fused ((s.fusesShown f).rowsRead f) hr hdead
    rw [State.region, State.regions_of_unstaged hrest, ← State.region]
    exact State.fusedOff_foldl hrows ⟨1, hin⟩ hone

/-! ### ST3 and ST4 (R353, R373, R382) -/

/-- The rails up, with the converters that passed their test. -/
def State.railsUp (s : State) (l : List Nat) : State :=
  { s with pwr := { s.pwr with converters := BitVec.ofNat 168 (maskOf ((List.range 168).filter fun i => !l.contains i)) },
           boot := { s.boot with railsDown := false } }

/-- Every field, shown. -/
def State.fieldsShown (s : State) : State := (List.range 56).foldl (fun (t : State) f => t.showField f) s

/-- The converters that failed, and the fields without one. -/
def State.rampLoci (s : State) (l : List Nat) : List Word :=
  (((List.range 168).filter fun i => l.contains i).map fun i => locus 1 1 i) ++
    ((List.range 56).filter fun f => decide (s.convertersOf f = 0)).map fun f => locus 2 1 f

theorem State.noRegs_fieldsShown (s : State) : s.fieldsShown.noRegs = s.noRegs := by
  rw [State.fieldsShown]
  exact foldl_leaves State.noRegs State.noRegs_showField (List.range 56) s

/-- ST3 with its flow: the rails up on the converters that passed. -/
theorem st3_ramps (hstage : s.boot.stage = some 3) (hflow : s.flowOk = true) (l : List Nat) :
    Completes (.st3StackRailRamp l) s fun t => t.boot.stage = some 4 ∧ t.boot.railsDown = false ∧
      t.pwr.converters = BitVec.ofNat 168 (maskOf ((List.range 168).filter fun i => !l.contains i)) := by
  have hgo : ¬(!(s.inStage 3) || !s.flowOk) = true := by simp [State.inStage, hstage, hflow]
  have hnext : exec (.st3StackRailRamp l) s = .next ((s.railsUp l).fieldsShown.passStage 3 ((s.railsUp l).fieldsShown.rampLoci l)) := by
    simp only [exec, execSt3StackRailRamp]
    rw [if_neg hgo]
    rfl
  have hrest := State.passStage_unstaged (s.railsUp l).fieldsShown 3 ((s.railsUp l).fieldsShown.rampLoci l)
  have hfields := State.noRegs_fieldsShown (s.railsUp l)
  refine ⟨_, hnext, rfl, ?_, ?_⟩
  · rw [State.railsDown_of_unstaged hrest, State.boot_of_noRegs hfields]
    rfl
  · rw [State.pwr_of_unstaged hrest, State.pwr_of_noRegs hfields]
    rfl

/-- The node of a region, locked or decoupled. -/
def State.nodeShown (out : List Nat) (s : State) (r : Nat) : State := s.setFld (Reg.RGNW_CLK r) 31 30 (if out.contains r then 2 else 1)

/-- The regions with power, each of which has a node. -/
def State.nodes (s : State) : List Nat := (List.range 896).filter fun r => decide (0 < s.convertersOf (fieldOf r))

/-- The mesh's lock, and the number of the nodes that are out. -/
def State.lockShown (s : State) (out : List Nat) : State :=
  let s := (s.setFld Reg.CLK_STAT 29 29 1).setFld Reg.CLK_STAT 23 16 (min out.length 255)
  { s with boot := { s.boot with decoupled := out } }

/-- Every node of the list reads what it is. -/
theorem State.nodesShown_clk (ok : Canonical s) (out l : List Nat) : Canonical (l.foldl (State.nodeShown out) s) ∧
    ∀ r ∈ l, (l.foldl (State.nodeShown out) s).fld (Reg.RGNW_CLK r) 31 30 = if r ∈ out then 2 else 1 := by
  refine foldl_sets (I := Canonical) (Q := fun r t => t.fld (Reg.RGNW_CLK r) 31 30 = if r ∈ out then 2 else 1)
    (fun t ht r _ => ht.setFld _ _ _ _) (fun t ht r _ => ?_) (fun t ht r _ q _ hQ => ?_) ok
  · rw [State.nodeShown, State.fld_setFld ht _ _ _ _ (by decide)]
    simp only [List.contains_iff_mem]
    split <;> rfl
  · by_cases hrq : Reg.RGNW_CLK r = Reg.RGNW_CLK q
    · have hq : q = r := by
        simp only [Reg.RGNW_CLK, winBase] at hrq
        omega
      rw [hq, State.nodeShown, State.fld_setFld ht _ _ _ _ (by decide)]
      simp only [List.contains_iff_mem]
      split <;> rfl
    · rw [State.nodeShown, State.fld_setFld_ne ht _ _ _ _ _ hrq]
      exact hQ

/-- ST4: the mesh locked, without the nodes named (R373). -/
theorem st4_locks (ok : Canonical s) (hstage : s.boot.stage = some 4) (l : List Nat) :
    Completes (.st4MeshLock l) s fun t => t.boot.stage = some 5 ∧ t.fld Reg.CLK_STAT 29 29 = 1 ∧
      ∀ r, r < 896 → 0 < s.convertersOf (fieldOf r) → t.fld (Reg.RGNW_CLK r) 31 30 = (if r ∈ l then 2 else 1) := by
  have hin : ¬(!(s.inStage 4)) = true := by simp [State.inStage, hstage]
  have hexec : exec (.st4MeshLock l) s = .next (((s.nodes.foldl (State.nodeShown (s.nodes.filter fun r => l.contains r)) s).lockShown
      (s.nodes.filter fun r => l.contains r)).passStage 4 ((s.nodes.filter fun r => l.contains r).map fun r => locus 10 1 (regionPlace r))) := by
    simp only [exec, execSt4MeshLock]
    rw [if_neg hin]
    unfold State.nodes
    generalize List.range 896 = all
    rfl
  obtain ⟨hnodes, hclk⟩ := State.nodesShown_clk ok (s.nodes.filter fun r => l.contains r) s.nodes
  refine ⟨_, hexec, rfl, ?_⟩
  generalize s.nodes.foldl (State.nodeShown (s.nodes.filter fun r => l.contains r)) s = u at *
  generalize hout : (s.nodes.filter fun r => l.contains r) = out at *
  have hlock := hnodes.setFld Reg.CLK_STAT 29 29 1
  have hok : Canonical (u.lockShown out) := (hlock.setFld Reg.CLK_STAT 23 16 (min out.length 255)).of_tables rfl
  have hpass := fun ws => State.passStage_writesIn (n := 4) (.refl hok) (by decide) ws
  refine ⟨?_, fun r hr hpow => ?_⟩
  · rw [(hpass _).fld (not_stageReg (.inr (by decide)))]
    exact (State.fld_setFld_apart hlock _ _ _ _ _ _ (by decide)).trans (State.fld_setFld hnodes _ _ _ _ (by decide))
  · have hmem : r ∈ s.nodes := List.mem_filter.2 ⟨List.mem_range.2 hr, decide_eq_true hpow⟩
    have hne : Reg.RGNW_CLK r ≠ Reg.CLK_STAT := by
      simp only [Reg.RGNW_CLK, Reg.CLK_STAT, winBase]
      omega
    have hfree : ¬stageReg (Reg.RGNW_CLK r) := not_stageReg (.inr (by simp only [Reg.RGNW_CLK, winBase]; omega))
    have hiff : r ∈ out ↔ r ∈ l := by
      rw [← hout, List.mem_filter, List.contains_iff_mem]
      exact and_iff_right hmem
    rw [(hpass _).fld hfree]
    exact ((State.fld_setFld_ne hlock _ _ _ _ _ hne).trans (State.fld_setFld_ne hnodes _ _ _ _ _ hne)).trans
      ((hclk r hmem).trans (if_congr hiff rfl rfl))

end

/-- Settles O41: a stage's record by the loci it counts and the words that close it, and each stage by what it writes before it passes or halts. That ST0 has no
locus for a missing feed and ST2 marks the fused regions with cause 1 is deduced (notes/assumptions/85.md). -/
theorem earlyBringup : Obligations.EarlyBringup := by
  refine ⟨fun s n ws ok hn hopen hlen => ⟨State.passStage_shows ok hn hopen hlen, ?_⟩, fun s ok => ?_⟩
  · obtain ⟨hst, hin, halive, hflag, hrec⟩ := State.haltStage_shows (ws := ws) ok (n := n) (by omega)
    obtain ⟨hstatus, hnum, -⟩ := State.recorded ok hopen hlen (status := 5) (by decide)
    refine ⟨hst, hin, halive, hflag, ?_, ?_⟩
    · rw [State.fld, hrec, hstatus]
    · rw [State.fld, hrec, hnum]
  · refine ⟨fun hstage hfeed => ?_, fun a b ups hstage => ⟨fun r0 r1 => st1_selfTestFails ok hstage r0 r1 a b ups, st1_boots ok hstage a b ups⟩,
      fun hstage => ⟨?_, st2_reads ok hstage⟩, fun l hstage hflow => st3_ramps hstage hflow l, fun hstage hflow hlate => ?_,
      fun l hstage => st4_locks ok hstage l, fun hstage hlate => ?_⟩
    · refine congrArg _ (if_pos ?_)
      simpa [State.inStage, hstage] using hfeed
    · have hin : ¬(!(s.inStage 2)) = true := by simp [State.inStage, hstage]
      simp only [exec, execSt2FuseRead]
      rw [if_neg hin]
    · exact congrArg _ (if_pos (by rw [State.inStage, hstage, hflow, hlate]; rfl))
    · exact congrArg _ (if_pos (by rw [State.inStage, hstage, hlate]; rfl))

end Sys2Proof.Machine

/-! SUPPORT. The statements of chapter 15's family: coolant polls, the flow clamp and the power governor (O46). -/

namespace Sys2Proof.Machine

/-! ### Coolant polls and the governor (O46) -/

section
variable {s : State} {sn : CoolantSensor} {w : Nat}

/-- Failed polls other than the tenth in a row only count. -/
theorem State.pollFailed_of_ne (h : tabGet 0 s.thm.failedPolls (coolIdx sn) + 1 ≠ 10) : s.pollFailed sn =
    { s with thm := { s.thm with failedPolls := tabAdd s.thm.failedPolls (coolIdx sn) (tabGet 0 s.thm.failedPolls (coolIdx sn) + 1) } } := if_neg h

/-- One more failed poll of a sensor. -/
def State.pollMissed (s : State) (i : Nat) : State :=
  { s with thm := { s.thm with failedPolls := tabAdd s.thm.failedPolls i (tabGet 0 s.thm.failedPolls i + 1) } }

/-- What the loss of sensor i leaves of the second before it. -/
def State.historyLost (s : State) (i : Nat) : State :=
  { s with thm := { s.thm with hist := [], pollsLow := if i = 2 then 0 else s.thm.pollsLow, pollsOk := if i = 2 then 0 else s.thm.pollsOk } }

/-- The tenth makes the sensor invalid. -/
theorem State.pollFailed_of_tenth (h : tabGet 0 s.thm.failedPolls (coolIdx sn) + 1 = 10) : s.pollFailed sn =
    ((((s.pollMissed (coolIdx sn)).historyLost (coolIdx sn)).setFld (coolReg sn) 31 31 0).bump Reg.THM_COOL_EVT 7 0).deferred 18 none (locus 14 2 0) :=
  if_pos h

/-- The word that tells no reading. -/
def noReading (sn : CoolantSensor) : BitVec 16 := if sn = .flow then 0xFFFF else 0x8000

theorem execCoolantPoll_none (hon : s.boot.alwaysOn = true) : execCoolantPoll sn none s = .next (s.pollFailed sn) := by
  rw [execCoolantPoll, hon]
  rfl

theorem execCoolantPoll_noReading (hon : s.boot.alwaysOn = true) : execCoolantPoll sn (some (noReading sn)) s = .next (s.pollFailed sn) := by
  rw [execCoolantPoll, hon]
  exact congrArg _ (if_pos rfl)

theorem execCoolantPoll_read (hon : s.boot.alwaysOn = true) {v : BitVec 16} (hv : v ≠ noReading sn) :
    execCoolantPoll sn (some v) s = .next ((s.pollOk sn v.toNat).coolChecks).checkConditions := by
  rw [execCoolantPoll, hon]
  exact congrArg _ (if_neg hv)

/-- A reading, shown. -/
def State.coolRead (s : State) (sn : CoolantSensor) (v : Nat) : State :=
  (({ s with thm := { s.thm with failedPolls := tabSet 0 s.thm.failedPolls (coolIdx sn) 0 } }).setFld (coolReg sn) 31 31 1).setFld (coolReg sn) 15 0 v

/-- A reading of the flow leaves the other sensors and the power measured. -/
theorem State.coolRead_flow (ok : Canonical s) (v : Nat) {a : Nat} (ha : a ≠ Reg.THM_FLOW) : (s.coolRead .flow v).rd a = s.rd a := by
  have hmark : Canonical { s with thm := { s.thm with failedPolls := tabSet 0 s.thm.failedPolls (coolIdx .flow) 0 } } := ok.of_tables rfl
  exact (State.rd_wr_ne (hmark.setFld _ _ _ _) _ ha).trans (State.rd_wr_ne hmark _ ha)

/-- A poll of the flow counts towards the clamp, and enters the history of a second. -/
def State.flowPolled (s : State) (low : Bool) (hist : List (Nat × Int × Nat)) (v : Nat) : State :=
  { s.coolRead .flow v with thm := { (s.coolRead .flow v).thm with pollsLow := if low then s.thm.pollsLow + 1 else 0,
                                                                   pollsOk := if low then 0 else s.thm.pollsOk + 1, hist := hist } }

/-- With both other sensors valid, the history takes the flow, the difference of temperature and the power. -/
theorem State.pollOk_flow (ok : Canonical s) (v : Nat) (hin : flag (s.rd Reg.THM_COOL_IN) 31 = true) (hout : flag (s.rd Reg.THM_COOL_OUT) 31 = true) :
    s.pollOk .flow v = (s.flowPolled (decide (v < 900))
      (((v, signed 16 (s.fld Reg.THM_COOL_OUT 15 0) - signed 16 (s.fld Reg.THM_COOL_IN 15 0), s.fld Reg.PWR_STAT 15 0) :: s.thm.hist).take 100) v).flowClamp := by
  have hread : ∀ a, a ≠ Reg.THM_FLOW → (s.coolRead .flow v).rd a = s.rd a := fun a ha => State.coolRead_flow ok v ha
  have hpoll : s.pollOk .flow v = (s.flowPolled (decide (v < 900))
      (if flag ((s.coolRead .flow v).rd Reg.THM_COOL_IN) 31 && flag ((s.coolRead .flow v).rd Reg.THM_COOL_OUT) 31 then
        ((v, signed 16 ((s.coolRead .flow v).fld Reg.THM_COOL_OUT 15 0) - signed 16 ((s.coolRead .flow v).fld Reg.THM_COOL_IN 15 0),
          (s.coolRead .flow v).fld Reg.PWR_STAT 15 0) :: s.thm.hist).take 100 else []) v).flowClamp := rfl
  rw [hpoll]
  simp only [State.fld, hread Reg.THM_COOL_IN (by decide), hread Reg.THM_COOL_OUT (by decide), hread Reg.PWR_STAT (by decide), hin, hout, Bool.and_self,
    if_true]

/-- What the governor shows of the input power before it asks for more or less. -/
def State.powerHeld (s : State) (w g' : Nat) (down : Bool) : State :=
  (((s.setFld Reg.PWR_STAT 15 0 (min w 65535)).setFld Reg.THM_GOV 31 24 g').setFld Reg.THM_STAT 27 27 (if 0 < g' then 1 else 0)).setFld Reg.THM_STAT 26 26
    (if down then 1 else 0)

/-- The power held at g', with the partitions told when that is another step than g. -/
def State.stepHeld (s : State) (w g g' : Nat) (down : Bool) : State :=
  if g' ≠ g then (s.powerHeld w g' down).announceAll else s.powerHeld w g' down

/-- Filler is asked for. -/
def State.fillerAsked (s : State) : State := ({ s with thm := { s.thm with demandLast := some s.time } }).demandWake

theorem execGovernorHoldAdjust_read (s : State) (w : Nat) :
    let g := (s.setFld Reg.PWR_STAT 15 0 (min w 65535)).fld Reg.THM_GOV 31 24
    let down := s.thm.governed && decide (10 * w < s.thm.floor)
    let t := s.stepHeld w g (if s.thm.governed && decide (s.thm.ceiling < 10 * w) then min 255 (g + 8) else g - 1) down
    execGovernorHoldAdjust w s = .next (if down then t.fillerAsked else t.demandRest).checkConditions := rfl

/-- The step that holds the input power within the band (R413, R414). -/
theorem execGovernorHoldAdjust_eq (ok : Canonical s) (w : Nat) :
    let g := s.fld Reg.THM_GOV 31 24
    let g' := if s.thm.governed = true ∧ s.thm.ceiling < 10 * w then min 255 (g + 8) else g - 1
    let down := s.thm.governed && decide (10 * w < s.thm.floor)
    let t := if g' = g then s.powerHeld w g' down else (s.powerHeld w g' down).announceAll
    execGovernorHoldAdjust w s = .next (if down then t.fillerAsked else t.demandRest).checkConditions := by
  have hgov : (s.setFld Reg.PWR_STAT 15 0 (min w 65535)).fld Reg.THM_GOV 31 24 = s.fld Reg.THM_GOV 31 24 := State.fld_setFld_ne ok _ _ _ _ _ (by decide)
  have hstep := execGovernorHoldAdjust_read s w
  simp only [hgov, State.stepHeld, ne_eq, ite_not, Bool.and_eq_true, decide_eq_true_eq] at hstep ⊢
  exact hstep

/-- The band about the mean power w. -/
def State.bandAbout (s : State) (w : Nat) : State :=
  ({ s with thm := { s.thm with ceiling := 10 * w + s.ramp, floor := 10 * w - s.ramp, governed := true } }).setFld Reg.THM_GOV 15 0 ((10 * w + s.ramp) / 10)

/-- Has a second passed since the last fall was logged? -/
def State.fallQuiet (s : State) : Bool :=
  match s.thm.lastFall with
  | some t => s.elapsed t 1000000000
  | none => true

/-- A mean below the floor, logged. -/
def State.fallLogged (s : State) (w : Nat) : State :=
  ({ s with thm := { s.thm with lastFall := some s.time } }).logEvent 13 (ceilDiv (s.thm.floor - 10 * w) 10) []

theorem execGovernorLimitUpdate_eq (s : State) (w : Nat) : execGovernorLimitUpdate w s =
    .next ((if s.thm.governed && decide (10 * w < s.thm.floor) && s.fallQuiet then s.fallLogged w else s).bandAbout w) := rfl

end

/-- Settles O46: a poll by what it counts and shows, the clamp and the governor by the condition that each of their steps finds. That a failed poll before the
tenth changes no register, when event 13 is logged and in which unit, what TOTAL counts, and that a command whose condition does not hold changes nothing are
deduced or the model's choice (notes/assumptions/80.md, 77.md, 72.md, 4.md). -/
theorem coolantAndGovernor : Obligations.CoolantAndGovernor := by
  intro s sn v w ok hon none_ i fails failed lost read on g band down g'
  refine ⟨fun hne => ⟨?_, ?_⟩, fun hten => ?_, fun hsn hv => ?_, fun hsn hv hin hout => ?_, fun hoff hlow hup => ?_, fun hclamp hok => ?_,
    fun t hsince hclamp hflow hlate => ?_, fun hidle => ?_, fun hlost hrate => ?_, fun hfew => ?_, fun hcover => ?_, fun hdown hfall => ?_,
    ⟨fun hdown => ?_, fun hdown => ?_⟩, fun hnone => ?_⟩
  · exact (execCoolantPoll_none hon).trans (congrArg _ (State.pollFailed_of_ne hne))
  · exact (execCoolantPoll_noReading hon).trans (congrArg _ (State.pollFailed_of_ne hne))
  · exact (execCoolantPoll_none hon).trans (congrArg _ (State.pollFailed_of_tenth hten))
  · refine (execCoolantPoll_read hon hv).trans ?_
    cases sn with
    | flow => exact absurd rfl hsn
    | inlet => rfl
    | outlet => rfl
  · subst hsn
    refine (execCoolantPoll_read hon hv).trans ?_
    rw [State.pollOk_flow ok _ hin hout, State.flowPolled]
    simp only [decide_eq_true_eq]
    rfl
  · have hgo : (!on && decide (10 ≤ s.thm.pollsLow) && !s.boot.railsDown) = true := by simp [hoff, hlow, hup]
    exact if_pos hgo
  · have hend : ¬(!on && decide (10 ≤ s.thm.pollsLow) && !s.boot.railsDown) = true := by simp [hclamp]
    exact (if_neg hend).trans (if_pos (by simp [on, hclamp, hok]))
  · simp only [exec, execFlowClampTimeout, hsince]
    exact congrArg _ (if_pos (by rw [show flag (s.rd Reg.THM_STAT) 28 = true from hclamp, hflow, hlate]; rfl))
  · simp only [exec, execFlowClampTimeout]
    rcases hidle with hoff | hnone
    · cases s.thm.clampSince with
      | none => rfl
      | some t => exact congrArg _ (if_neg (by rw [show flag (s.rd Reg.THM_STAT) 28 = false from hoff]; exact Bool.false_ne_true))
    · rw [hnone]
  · exact congrArg _ (if_pos (by rw [hon, decide_eq_true hlost, hrate]; rfl))
  · exact congrArg _ (if_neg (by rw [decide_eq_false (Nat.not_le.2 hfew), Bool.and_false]; exact Bool.false_ne_true))
  · have hcovered : ¬(s.thm.governed && decide (10 * w < s.thm.floor) && s.fallQuiet) = true := by
      rcases hcover with hfloor | hoff
      · rw [decide_eq_false (Nat.not_lt.2 hfloor), Bool.and_false]
        exact Bool.false_ne_true
      · rw [show s.thm.governed = false from hoff]
        exact Bool.false_ne_true
    exact (execGovernorLimitUpdate_eq s w).trans (congrArg (fun t : State => Host.Outcome.next (t.bandAbout w)) (if_neg hcovered))
  · have hquiet : s.fallQuiet = true := by
      rw [State.fallQuiet]
      split
      next t ht => exact hfall t ht
      next => rfl
    have hshort : (s.thm.governed && decide (10 * w < s.thm.floor) && s.fallQuiet) = true := by rw [hquiet, Bool.and_true]; exact hdown
    exact (execGovernorLimitUpdate_eq s w).trans (congrArg (fun t : State => Host.Outcome.next (t.bandAbout w)) (if_pos hshort))
  · exact (execGovernorHoldAdjust_eq ok w).trans (congrArg _ (congrArg _ (if_neg (Bool.eq_false_iff.1 hdown))))
  · exact (execGovernorHoldAdjust_eq ok w).trans (congrArg _ (congrArg _ (if_pos hdown)))
  · rw [State.demandRest, hnone]

end Sys2Proof.Machine

/-! SUPPORT. The statements of chapter 16's family: fault reactions (O47), recovery (O48), core failures and the spare procedure (O49), and the in-service test
and injection (O50). -/

namespace Sys2Proof.Machine

/-! ### A device-fatal fault in a stage that is none of the twelve (O47) -/

/-- The reset state, but in stage 0x3FF0: the record of such a stage would lie at FLT_STAT. -/
def strayStage : State := { State.reset with boot := { State.reset.boot with stage := some 0x3FF0 } }

theorem canonical_strayStage : Canonical strayStage := canonical_reset.of_tables rfl

section
variable {s : State}

/-- An abandoned stage leaves its duration in its record. -/
theorem State.abandonStage_duration (ok : Canonical s) {n : Nat} (hstage : s.boot.stage = some n) :
    s.abandonStage.rd (Reg.STG_REC_B n) = BitVec.ofNat 32 ((s.now - (tabGet 0 s.boot.stageStart n).toNat) / 1000) := by
  rw [State.abandonStage, hstage]
  exact State.rd_wr_same (ok.setFld _ _ _ _) _ _

theorem Canonical.fatalNoted (ok : Canonical s) (src : Nat) (loc : Word) (inj : Bool) : Canonical (s.fatalNoted src loc inj) :=
  (State.fatalNoted_writesIn ok src loc inj).ok

theorem State.fatalNoted_time (s : State) (src : Nat) (loc : Word) (inj : Bool) : (s.fatalNoted src loc inj).time = s.time :=
  (congrArg State.time (State.writeRecord_unlogged (s.countClass 3) inj 3 src 255 0 loc) :)

/-- At time 0 a device-fatal fault in a stage whose record is FLT_STAT leaves FLT_STAT zero. -/
theorem State.deviceFatal_stray (ok : Canonical s) {n : Nat} (hstage : s.boot.stage = some n) (hreg : Reg.STG_REC_B n = Reg.FLT_STAT) (htime : s.time = 0)
    (hclear : flag (s.rd Reg.FLT_STAT) 31 = false) (src : Nat) (loc : Word) : (s.deviceFatal src loc).rd Reg.FLT_STAT = 0 := by
  have hnoted := ok.fatalNoted src loc false
  have hshown : Canonical (s.fatalNoted src loc false).fatalShown := (WritesIn.fatalShown (.refl hnoted)).ok
  have hrest := (s.fatalNoted src loc false).fatalShown_noRegs
  have hin : (s.fatalNoted src loc false).fatalShown.boot.stage = some n := by
    rw [State.boot_of_noRegs hrest, show (s.fatalNoted src loc false).boot = s.boot from congrArg Prod.fst (State.fatalNoted_starts s src loc false), hstage]
  have hnow : (s.fatalNoted src loc false).fatalShown.now = 0 := by
    rw [State.now, State.time_of_noRegs hrest, State.fatalNoted_time, htime]
    rfl
  have hlost := State.abandonStage_duration hshown hin
  rw [hnow, Nat.zero_sub, Nat.zero_div, hreg] at hlost
  have hfrozen : Canonical (s.fatalNoted src loc false).fatalShown.abandonStage.fatalFrozen := (State.abandonStage_kept hshown.kept).ok.of_tables rfl
  have hstop := State.stopAll_writesIn hfrozen (List.range 64) 8
  rw [State.deviceFatal, State.deviceFatalD_eq, hclear, if_neg Bool.false_ne_true, hstop.rd]
  · exact hlost
  · rintro ⟨p, hp⟩
    simp only [Reg.FLT_STAT, Reg.LDR_PART] at hp
    omega

end

/-- Refutes O47: the statement bounds no stage, and in stage 0x3FF0, which no start reaches, the record that a device-fatal fault closes lies at FLT_STAT: the
duration, 0, overwrites FATAL. -/
theorem not_faultReactions : ¬Obligations.FaultReactions := by
  intro h
  obtain ⟨-, -, -, hfatal⟩ := h strayStage 1 0 0 0 canonical_strayStage (by decide) (by decide) (by decide)
  obtain ⟨-, -, hset, -⟩ := hfatal rfl
  rw [State.deviceFatal_stray canonical_strayStage (n := 0x3FF0) rfl rfl rfl rfl] at hset
  exact absurd hset (by decide)

/-! ### A window of a region whose partition's number names the region's own register (O50) -/

/-- A powered region whose partition's number is so high that its LDR_PART is the region's test register. -/
def strayRegion : Region := { Region.zero with pstate := 1, part := some 0xF7060 }

/-- Cores 0 to 3 of region 0 have failed, so that its test goes on at core 4; the stray partition is in stall mode. -/
def strayOwner : State := ((State.reset.setRegion 0 strayRegion).setPart 0xF7060 { Part.zero with stall := true }).wr (Reg.RGNW_CORE_FAIL 0) 0xF

theorem canonical_strayOwner : Canonical strayOwner := ((canonical_reset.setRegion _ _).setPart _ _).wr _ _

/-- Core 4 in the test register makes the partition read loaded, and the window is announced to it. -/
theorem strayOwner_window : ∃ t, exec (.istWindow 0 true false true) strayOwner = .next t ∧ t.parts ≠ strayOwner.parts := ⟨_, rfl, by decide⟩

/-- Refutes O50: the statement bounds no partition number, and the window of a region whose partition would have its LDR_PART at the region's test register
writes, with CORE, that partition's STATE: the region has an owner then, whose stall is announced. No load gives a partition such a number. -/
theorem not_inServiceTestAndInjection : ¬Obligations.InServiceTestAndInjection := by
  intro h
  obtain ⟨hwindow, -⟩ := h strayOwner 0 0 canonical_strayOwner (by decide)
  obtain ⟨hpass, -⟩ := hwindow 4 false true (by decide) (by decide) (by decide) (by decide) (by decide) (by decide) (by decide) (by decide)
  obtain ⟨t, hexec, -, -, honly, -⟩ := hpass (by decide)
  obtain ⟨u, hu, hparts⟩ := strayOwner_window
  have htu : t = u := by
    rw [hexec] at hu
    exact Host.Outcome.next.inj hu
  exact hparts (htu ▸ (congrArg State.parts honly.1 :))


/-! ### Recovery (O48) -/

section
variable {s : State}

/-- A restart by recovery stops no job: every job has stopped. -/
theorem State.acceptRestart_recovery (s : State) : s.acceptRestart 3 = s.restartReady 3 := by
  rw [State.acceptRestart]
  dsimp only
  rw [if_neg (by decide), if_neg (by decide)]
  rfl

/-- The records of lost sequences count in FLT_STAT's DROPPED alone. -/
theorem State.lostRecords_recoveries (ok : Canonical s) : s.lostRecords.fld Reg.FLT_STAT 15 0 = s.fld Reg.FLT_STAT 15 0 := by
  have hadv : ¬advReg Reg.FLT_STAT := by
    simp only [advReg, Reg.FLT_STAT, Reg.SRV_OUT_PI, Reg.HIF_CSTAT]
    omega
  have hone : ∀ (t : State) (k : KeptSeq), Canonical t → Canonical (t.lostRecord k) ∧ (t.lostRecord k).fld Reg.FLT_STAT 15 0 = t.fld Reg.FLT_STAT 15 0 :=
    fun t k ht => by
      refine ⟨(State.lostRecord_writesIn ht k).ok, ?_⟩
      rw [State.lostRecord]
      split
      · exact (State.putRecord_writesIn ht _ _).fld hadv _ _
      · exact State.fld_setFld_apart ht _ _ _ _ _ _ (by decide)
  rw [State.lostRecords_eq]
  have hnone : Canonical s.keepNone ∧ s.keepNone.fld Reg.FLT_STAT 15 0 = s.fld Reg.FLT_STAT 15 0 := ⟨ok.of_tables rfl, rfl⟩
  exact (List.foldlRecOn (motive := fun t : State => Canonical t ∧ t.fld Reg.FLT_STAT 15 0 = s.fld Reg.FLT_STAT 15 0) _ _ hnone
    fun t ht k _ => ⟨(hone t k ht.1).1, (hone t k ht.1).2.trans ht.2⟩).2

/-- A restart leaves the count of recoveries. -/
theorem State.restartReady_recoveries (ok : Canonical s) (k : Nat) : (s.restartReady k).fld Reg.FLT_STAT 15 0 = s.fld Reg.FLT_STAT 15 0 := by
  have hshown := (State.restartShown_writesIn ok k).1
  have hsec := State.showSec_writesIn (hshown.ok.restartBegun k)
  have hnotsec : ¬secReg Reg.FLT_STAT := by
    rw [secReg]
    decide
  have hnotstage : ¬stageReg Reg.FLT_STAT := by
    rw [stageReg]
    decide
  have hclear := State.fld_setFld_apart hsec.ok Reg.FLT_STAT 23 16 0 15 0 (by decide)
  have hsame : ((s.restartShown k).restartBegun k).fld Reg.FLT_STAT 15 0 = s.fld Reg.FLT_STAT 15 0 := by
    rw [State.fld, State.restartBegun_rd]
    exact hshown.fld hnotstage 15 0
  rw [State.restartReady, State.lostRecords_recoveries (hsec.ok.setFld Reg.FLT_STAT 23 16 0), hclear, hsec.fld hnotsec 15 0, hsame]

/-- The fault state after a recovery, which waits for none and remembers one more. -/
def State.recoverNoted (s : State) : State := { s with flt := { s.flt with recoverAsked := false, recent := s.flt.recent ++ [s.time] } }

theorem State.recover_eq (s : State) : s.recover = ((s.restartReady 3).bump Reg.FLT_STAT 15 0).recoverNoted.showRecent := by
  rw [State.recover, State.acceptRestart_recovery]
  rfl

theorem Canonical.recoverNoted (ok : Canonical s) : Canonical s.recoverNoted := ok.of_tables rfl

theorem State.noRegs_showRecent (s : State) : s.showRecent.noRegs = s.noRegs := rfl

/-- A recovery is a restart of kind 3, counted in FLT_STAT. -/
theorem State.recover_shows (ok : Canonical s) : s.recover.boot.restarting = some 3 ∧ s.recover.fld Reg.STG_STAT 29 28 = 3 ∧
    s.recover.fld Reg.FLT_STAT 15 0 = (s.fld Reg.FLT_STAT 15 0 + 1) % 65536 ∧ s.recover.flt.recoverAsked = false := by
  obtain ⟨hwrites, hstat⟩ := State.restartReady_writesIn ok 3
  have hcount := State.restartReady_recoveries ok 3
  have hstarts := (State.restartReady_rest s 3).1
  rw [State.recover_eq]
  generalize s.restartReady 3 = t at hwrites hstat hcount hstarts
  have hbump := hwrites.ok.bump Reg.FLT_STAT 15 0
  refine ⟨congrArg (fun x : Boot × Security => x.1.restarting) hstarts, ?_, ?_, rfl⟩
  · have hnoted : (t.bump Reg.FLT_STAT 15 0).recoverNoted.rd Reg.STG_STAT = t.rd Reg.STG_STAT := State.rd_wr_ne hwrites.ok _ (by decide)
    rw [State.showRecent, State.fld_setFld_ne hbump.recoverNoted _ _ _ _ _ (by decide), State.fld, hnoted, hstat, field_bumpField_apart _ _ _ _ _ _ (by decide),
      field_setField _ _ _ _ (by decide)]
    rfl
  · rw [State.showRecent, State.fld_setFld_apart hbump.recoverNoted _ _ _ _ _ _ (by decide), ← hcount]
    exact State.fld_bump hwrites.ok _ _ _ (by decide)

/-- A recovery that may begin, begins. -/
theorem execRecoveryQuietExpire_of_due (hmay : s.mayRecover = true) (hover : s.quietOver = true)
    (hwhy : s.flt.recoverAsked = true ∨ (flag (s.rd Reg.FLT_STAT) 30 = true ∧ s.hostReact = false)) : execRecoveryQuietExpire s = .next s.recover := by
  refine congrArg _ (if_pos ?_)
  rw [hmay, hover]
  rcases hwhy with hasked | ⟨harmed, hreact⟩
  · rw [hasked]
    rfl
  · rw [harmed, hreact]
    exact Bool.or_true _

/-- RECENT, shown. -/
theorem State.showRecent_shows (ok : Canonical s) : OnlyRegs [Reg.FLT_STAT] s s.showRecent ∧ s.showRecent.flt = s.flt ∧
    s.showRecent.fld Reg.FLT_STAT 29 27 = min 4 s.flt.recent.length ∧ s.showRecent.fld Reg.FLT_STAT 26 0 = s.fld Reg.FLT_STAT 26 0 := by
  refine ⟨(OnlyRegs.refl _ s).wr ok (List.mem_singleton.2 rfl) _, rfl, ?_, State.fld_setFld_apart ok _ _ _ _ _ _ (by decide)⟩
  rw [State.showRecent, State.fld_setFld ok _ _ _ _ (by decide)]
  exact Nat.mod_eq_of_lt (by omega)

/-- The fault state with these recent recoveries. -/
def State.recentSet (s : State) (l : List Long) : State := { s with flt := { s.flt with recent := l } }

theorem Canonical.recentSet (ok : Canonical s) (l : List Long) : Canonical (s.recentSet l) := ok.of_tables rfl

/-- A field as the bits that it takes. -/
theorem field_eq_extract {w : Nat} (x : BitVec w) (hi lo : Nat) : field x hi lo = (x.extractLsb' lo (hi + 1 - lo)).toNat :=
  (BitVec.extractLsb'_toNat lo (hi + 1 - lo) x).symm

/-- The window of FLT_CFG is writable. -/
theorem field_fltCfg_window (v w : Word) : field ((v &&& 0x00FFFF00) ||| (w &&& ~~~0x00FFFF00)) 23 16 = field v 23 16 := by
  rw [field_eq_extract, field_eq_extract, BitVec.extractLsb'_or, BitVec.extractLsb'_and, BitVec.extractLsb'_and]
  have hmask : BitVec.extractLsb' 16 (23 + 1 - 16) (0x00FFFF00 : Word) = BitVec.allOnes (23 + 1 - 16) ∧
      BitVec.extractLsb' 16 (23 + 1 - 16) (~~~(0x00FFFF00 : Word)) = 0 := by decide
  rw [hmask.1, hmask.2, BitVec.and_allOnes]
  exact congrArg BitVec.toNat (congrArg _ BitVec.and_zero |>.trans BitVec.or_zero)

theorem execFltCfgWrite_eq (v : Word) (s : State) : execFltCfgWrite v s = .next (
    if (s.writeRW Reg.FLT_CFG 0x00FFFF00 0 v).fld Reg.FLT_CFG 23 16 = s.fld Reg.FLT_CFG 23 16 then s.writeRW Reg.FLT_CFG 0x00FFFF00 0 v
    else (s.writeRW Reg.FLT_CFG 0x00FFFF00 0 v).logEvent 14 ((s.writeRW Reg.FLT_CFG 0x00FFFF00 0 v).fld Reg.FLT_CFG 23 16) []) := rfl

/-- A log entry takes the next number. -/
theorem State.logRaw_nextNumber (s : State) (code : Nat) (arg : Word) (body : Bytes) : (s.logRaw code arg body).mgt.nextNumber = s.mgt.nextNumber + 1 := by
  rw [State.logRaw]
  by_cases hopen : s.flashOpen = true
  · simp only [if_pos hopen]
    split <;> rfl
  · simp only [if_neg hopen]
    split <;> rfl

/-- FLT_CFG takes its writable bits, and a window changed is logged. -/
theorem fltCfgWrite_completes (ok : Canonical s) (v : Word) :
    Completes (.fltCfgWrite v) s fun t => t.rd Reg.FLT_CFG = ((v &&& 0x00FFFF00) ||| (s.rd Reg.FLT_CFG &&& ~~~0x00FFFF00)) ∧
      (field v 23 16 = s.fld Reg.FLT_CFG 23 16 → OnlyRegs [Reg.FLT_CFG, Reg.HIF_STAT] s t) ∧
      (field v 23 16 ≠ s.fld Reg.FLT_CFG 23 16 → t.mgt.nextNumber = s.mgt.nextNumber + 1) := by
  obtain ⟨honly, hrd⟩ := State.writeRW_frame ok Reg.FLT_CFG 0x00FFFF00 0 v
  have hwin : (s.writeRW Reg.FLT_CFG 0x00FFFF00 0 v).fld Reg.FLT_CFG 23 16 = field v 23 16 := by
    rw [State.fld, hrd, field_fltCfg_window]
  have hok := (State.writeRW_kept ok.kept Reg.FLT_CFG 0x00FFFF00 0 v).ok
  refine ⟨_, execFltCfgWrite_eq v s, ?_⟩
  rw [hwin]
  generalize s.writeRW Reg.FLT_CFG 0x00FFFF00 0 v = t at honly hrd hok
  split
  next h => exact ⟨hrd, fun _ => honly.mono fun a ha => by simpa [or_comm] using ha, fun hne => absurd h hne⟩
  next h =>
    have hlog := (State.logRaw_frame (.refl hok) 14 (BitVec.ofNat 32 (field v 23 16)) (leBytes 8 t.now ++ slice [] 0 8)).1
    refine ⟨?_, fun heq => absurd heq h, fun _ => ?_⟩
    · rw [State.logEvent, hlog.rd _ (by rw [logReg]; decide), hrd]
    · rw [State.logEvent, State.logRaw_nextNumber, show t.mgt = s.mgt from (congrArg State.mgt honly.1 :)]

/-- A rearming of recovery, as one state. -/
theorem execRearm_eq {v : Word} (hop : field v 31 28 = 1) :
    execRearm v s = .next ((((s.reservedBits 0 v 0x003FFFFF).recentSet []).showRecent).setFld Reg.FLT_STAT 30 30 1) :=
  congrArg _ (if_neg (not_not.2 hop))

/-- Rearming forgets the recent recoveries. -/
theorem rearm_completes (ok : Canonical s) {v : Word} (hop : field v 31 28 = 1) :
    Completes (.rearm v) s fun t => t.flt = { s.flt with recent := [] } ∧ flag (t.rd Reg.FLT_STAT) 30 = true ∧
      t.fld Reg.FLT_STAT 29 27 = 0 ∧ t.fld Reg.FLT_STAT 26 0 = s.fld Reg.FLT_STAT 26 0 ∧
      OnlyRegs [Reg.FLT_STAT, Reg.HIF_STAT] { s with flt := t.flt } t := by
  obtain ⟨honly, -⟩ := State.reservedBits_frame ok 0 v 0x003FFFFF
  have hok := (ok.reservedBits 0 v 0x003FFFFF).recentSet []
  have hflt : (s.reservedBits 0 v 0x003FFFFF).flt = s.flt := (congrArg State.flt honly.1 :)
  refine ⟨_, execRearm_eq hop, ?_⟩
  generalize s.reservedBits 0 v 0x003FFFFF = u at *
  obtain ⟨hshow, -, hnone, hlow⟩ := State.showRecent_shows hok
  have hrecent : Canonical (u.recentSet []).showRecent := hok.setFld _ _ _ _
  have hframe : OnlyRegs [Reg.HIF_STAT] { s with flt := (u.recentSet []).flt } (u.recentSet []) := by
    rw [State.recentSet, hflt]
    exact ⟨by rw [honly.1], honly.2⟩
  refine ⟨congrArg (fun x : Faults => { x with recent := [] }) hflt, ?_, ?_, ?_, ?_⟩
  · rw [State.rd_setFld hrecent, if_pos rfl, flag_setField _ _ _ (by decide)]
    rfl
  · exact (State.fld_setFld_apart hrecent Reg.FLT_STAT 30 30 1 29 27 (by decide)).trans hnone
  · rw [State.fld_setFld_apart hrecent Reg.FLT_STAT 30 30 1 26 0 (by decide), hlow]
    exact congrArg (field · 26 0) (honly.2 Reg.FLT_STAT (by decide))
  · exact (hframe.trans (hshow.trans ((OnlyRegs.refl [Reg.FLT_STAT] _).wr hrecent (List.mem_singleton.2 rfl) _))).mono (by simp)

end

/-- Settles O48: each command's guard says what it does; a recovery is a restart of kind 3, whose registers the restart's lemmas (O43) give. -/
theorem recoveryCommands : Obligations.RecoveryCommands := by
  intro s v ok
  refine ⟨fun hon h0 h1 hhalt => ?_, fun hmay hover hwhy => ?_, ?_, fun hop => rearm_completes ok hop, fun hop hclear => ?_, fltCfgWrite_completes ok v⟩
  · refine congrArg _ (if_neg ?_)
    rintro (h | h | h | h)
    · exact absurd (hon.symm.trans h) (by decide)
    · exact h0 h
    · exact h1 h
    · rw [hhalt] at h
      exact absurd h (by decide)
  · exact ⟨_, execRecoveryQuietExpire_of_due hmay hover hwhy, State.recover_shows ok⟩
  · obtain ⟨honly, hflt, hcount, -⟩ := State.showRecent_shows (ok.recentSet (s.flt.recent.filter fun u => !(s.elapsed u 3600000000000)))
    exact ⟨_, rfl, hflt, hcount, honly⟩
  · have hcmd : execRecover v s = .next (if !s.mayRecover then s.cmdDrop else if s.quietOver then s.recover
        else { s with flt := { s.flt with recoverAsked := true } }) := by
      rw [execRecover, if_neg (not_not.2 hop), State.reservedBits_of_clear s hclear]
    refine ⟨fun hmay => ?_, fun hmay hover => ⟨_, ?_, State.recover_shows ok⟩, fun hmay hover => ?_⟩
    · refine hcmd.trans ?_
      rw [hmay]
      rfl
    · refine hcmd.trans ?_
      rw [hmay, hover]
      rfl
    · refine hcmd.trans ?_
      rw [hmay, hover]
      rfl


/-! ### Core failures and the spare procedure (O49) -/

section
variable {s : State}

theorem State.signalPort_flt (s : State) (port v : Nat) : (s.signalPort port v).flt = s.flt := by
  rw [State.signalPort]
  dsimp only
  split <;> rfl

theorem State.signal_flt (s : State) (v : Nat) : (s.signal v).flt = s.flt := by
  rw [State.signal]
  split
  · exact State.signalPort_flt _ _ _
  · exact (State.signalPort_flt _ _ _).trans (State.signalPort_flt _ _ _)

theorem State.logRaw_flt (s : State) (code : Nat) (arg : Word) (body : Bytes) : (s.logRaw code arg body).flt = s.flt := by
  rw [State.logRaw]
  by_cases hopen : s.flashOpen = true
  · simp only [if_pos hopen]
    rfl
  · simp only [if_neg hopen]
    rfl

/-- A fault record enters the ring alone. -/
theorem State.writeRecord_flt (s : State) (inj : Bool) (cls src part detail : Nat) (loc : Word) :
    ∃ ring, (s.writeRecord inj cls src part detail loc).flt = { s.flt with ring := ring } := by
  refine ⟨tabAdd s.flt.ring ((s.rd Reg.FLT_LOG_WR).toNat % 256) (faultBytes s.now inj s.hostReact cls src part detail loc), ?_⟩
  rw [State.writeRecord]
  dsimp only
  split
  · exact State.logRaw_flt _ _ _ _
  · exact (State.signal_flt _ _).trans (State.logRaw_flt _ _ _ _)

/-- A core's number names its region and its place. -/
theorem coreId_key_div {c : CoreId} (hk : c.k < 17) : CoreId_key c / 17 = c.r ∧ CoreId_key c % 17 = c.k := by
  rw [CoreId_key]
  omega

/-- A core fails in its register, its region's mask and its phase. -/
theorem State.failCore_eq (s : State) (r k : Nat) : s.failCore r k =
    ((s.setFld (Reg.RGNW_CORE_FAIL r) k k 1).modRegion r fun g => { g with failed := setFlag g.failed k true }).modCoreAt (17 * r + k)
      fun c => { c with phase := .failed, logical := none } := rfl

theorem Canonical.failCore (ok : Canonical s) (r k : Nat) : Canonical (s.failCore r k) := (State.failCore_kept ok.kept r k).ok

theorem State.failCore_rd_ne (ok : Canonical s) {r a : Nat} (k : Nat) (ha : a ≠ Reg.RGNW_CORE_FAIL r) : (s.failCore r k).rd a = s.rd a :=
  State.rd_wr_ne ok _ ha

theorem State.failCore_holds (ok : Canonical s) (r k : Nat) : (s.failCore r k).holds r = s.holds r := by
  rw [State.holds, State.failCore_rd_ne ok k fun h => ?_, State.holds]
  simp only [Reg.RGNW_POOL, Reg.RGNW_CORE_FAIL] at h
  omega

theorem State.failCore_flt (s : State) (r k : Nat) : (s.failCore r k).flt = s.flt := rfl

theorem State.failCore_coreAt (ok : Canonical s) (r k : Nat) :
    (s.failCore r k).coreAt (17 * r + k) = { s.coreAt (17 * r + k) with phase := .failed, logical := none } := by
  have hregion := (ok.setFld (Reg.RGNW_CORE_FAIL r) k k 1).modRegion r fun g => { g with failed := setFlag g.failed k true }
  rw [State.failCore_eq, State.coreAt_modCoreAt hregion, if_pos rfl]
  rfl

theorem fltCnt_ne_coreFail {i : Nat} (hi : i < 4) (r : Nat) : Reg.FLT_CNT i ≠ Reg.RGNW_CORE_FAIL r := by
  simp only [Reg.FLT_CNT, Reg.RGNW_CORE_FAIL, winBase]
  omega

theorem State.countClass_flt (s : State) (cls : Nat) : (s.countClass cls).flt = s.flt := rfl
theorem State.countClass_coreAt (s : State) (cls i : Nat) : (s.countClass cls).coreAt i = s.coreAt i := rfl
theorem State.countClass_region (s : State) (cls i : Nat) : (s.countClass cls).region i = s.region i := rfl

/-- One more failure that waits for the procedure under way. -/
def State.failureQueued (s : State) (r k : Nat) : State := { s with flt := { s.flt with queue := s.flt.queue ++ [(r, k)] } }

/-- The number of failures that wait, shown. -/
def State.queueShown (s : State) : State := s.setFld Reg.FLT_REPAIR 7 0 s.flt.queue.length

theorem State.failureQueued_shows (s : State) (ok : Canonical s) (r k : Nat) :
    (s.failureQueued r k).queueShown.flt.queue = s.flt.queue ++ [(r, k)] ∧ (s.failureQueued r k).queueShown.flt.current = s.flt.current ∧
      (∀ a, a ≠ Reg.FLT_REPAIR → (s.failureQueued r k).queueShown.rd a = s.rd a) ∧ (∀ i, (s.failureQueued r k).queueShown.coreAt i = s.coreAt i) ∧
      ∀ i, (s.failureQueued r k).queueShown.region i = s.region i :=
  have hqueued : Canonical (s.failureQueued r k) := ok.of_tables rfl
  ⟨rfl, rfl, fun _ ha => State.rd_wr_ne hqueued _ ha, fun _ => rfl, fun _ => rfl⟩

theorem State.failCore_failed (ok : Canonical s) (r : Nat) {k : Nat} (hk : k < 17) : flag ((s.failCore r k).region r).failed k = true := by
  have hregion : (s.failCore r k).region r = { s.region r with failed := setFlag (s.region r).failed k true } :=
    (State.region_modRegion (ok.setFld (Reg.RGNW_CORE_FAIL r) k k 1) r r fun g => { g with failed := setFlag g.failed k true }).trans (if_pos rfl)
  rw [hregion]
  exact flag_setField _ _ _ (by omega)

end

section
variable {s : State} {c : CoreId} (ok : Canonical s) (hk : c.k < 17) (hlive : s.dead c.r = false) (hworks : s.coreFailed c.r c.k = false)
  (hinj : s.injArmed 6 (some c.r) = false)
include hk hlive hworks hinj

/-- Without its spare the region dies. -/
theorem State.coreFails_of_spent (hspent : s.spareFree c.r = false) :
    s.coreFails (CoreId_key c) = (s.failCore c.r c.k).regionDies c.r 4 (s.owner c.r) := by
  obtain ⟨hdiv, hmod⟩ := coreId_key_div hk
  rw [State.coreFails]
  simp [hdiv, hmod, hlive, hworks, hinj, hspent]

/-- The failure of a partition's core waits for the procedure under way. -/
theorem State.coreFails_of_owned (hfree : s.spareFree c.r = true) (hcore : c.k < 16) {p : Nat} (hown : s.owner c.r = some p)
    (hbusy : s.flt.current.isSome = true) :
    s.coreFails (CoreId_key c) =
      ((((s.failCore c.r c.k).countClass 2).writeRecord false 2 32 p 9 (coreLocus (CoreId_key c))).failureQueued c.r c.k).queueShown := by
  obtain ⟨hdiv, hmod⟩ := coreId_key_div hk
  obtain ⟨ring, hring⟩ := State.writeRecord_flt ((s.failCore c.r c.k).countClass 2) false 2 32 p 9 (coreLocus (CoreId_key c))
  have hwait : (((s.failCore c.r c.k).countClass 2).writeRecord false 2 32 p 9 (coreLocus (CoreId_key c))).flt.current.isNone = false := by
    rw [hring]
    exact Option.isNone_eq_false_iff.2 hbusy
  rw [State.coreFails]
  simp only [hdiv, hmod, hlive, hworks, hinj, hfree, hown, Nat.ne_of_lt hcore, Bool.or_self, Bool.not_true, Bool.false_eq_true, false_and, if_false]
  rw [hwait]
  rfl

include ok

/-- In a region that nobody owns or holds the spare takes the core's place. -/
theorem State.coreFails_of_unowned (hfree : s.spareFree c.r = true) (hcore : c.k < 16) (hown : s.owner c.r = none) (hheld : s.holds c.r = false) :
    s.coreFails (CoreId_key c) = ((s.failCore c.r c.k).takeSpare c.r c.k none).deferredD 23 none 32 (coreLocus (CoreId_key c)) false := by
  obtain ⟨hdiv, hmod⟩ := coreId_key_div hk
  have hholds := (State.failCore_holds ok c.r c.k).trans hheld
  rw [State.coreFails]
  simp [hdiv, hmod, hlive, hworks, hinj, hfree, hown, hholds, Nat.ne_of_lt hcore]

/-- The queue takes the failure, its record counts, and the core is out of service. -/
theorem coreFailure_queued (hfree : s.spareFree c.r = true) (hcore : c.k < 16) {p : Nat} (hown : s.owner c.r = some p)
    (hbusy : s.flt.current.isSome = true) : Completes (.coreFailure c) s fun t =>
      t.flt.queue = s.flt.queue ++ [(c.r, c.k)] ∧ t.flt.current = s.flt.current ∧ t.rd (Reg.FLT_CNT 2) = s.rd (Reg.FLT_CNT 2) + 1 ∧
      t.core c = { s.core c with phase := .failed, logical := none } ∧ flag (t.region c.r).failed c.k = true := by
  have hfail := ok.failCore c.r c.k
  have hcount : Canonical ((s.failCore c.r c.k).countClass 2) := hfail.bump _ _ _
  have hwrites := State.writeRecord_writesIn hcount false 2 32 p 9 (coreLocus (CoreId_key c))
  have hrest := State.unfaulted_of_unlogged (State.writeRecord_unlogged ((s.failCore c.r c.k).countClass 2) false 2 32 p 9 (coreLocus (CoreId_key c)))
  obtain ⟨ring, hring⟩ := State.writeRecord_flt ((s.failCore c.r c.k).countClass 2) false 2 32 p 9 (coreLocus (CoreId_key c))
  refine ⟨_, congrArg Host.Outcome.next (State.coreFails_of_owned hk hlive hworks hinj hfree hcore hown hbusy), ?_⟩
  have hcnt : (s.failCore c.r c.k).rd (Reg.FLT_CNT 2) = s.rd (Reg.FLT_CNT 2) := State.failCore_rd_ne ok c.k (fltCnt_ne_coreFail (by decide) _)
  generalize ((s.failCore c.r c.k).countClass 2).writeRecord false 2 32 p 9 (coreLocus (CoreId_key c)) = u at *
  obtain ⟨hqueue, hcurrent, hread, hcoreAt, hregion⟩ := u.failureQueued_shows hwrites.ok c.r c.k
  refine ⟨?_, ?_, ?_, ?_, ?_⟩
  · rw [hqueue, hring, State.countClass_flt, State.failCore_flt]
  · rw [hcurrent, hring, State.countClass_flt, State.failCore_flt]
  · have hne : Reg.FLT_CNT 2 ≠ Reg.FLT_REPAIR := by decide
    rw [hread _ hne, hwrites.rd _ (not_recordReg_fltCnt 2 (by decide)), State.countClass_rd hfail, hcnt]
  · rw [State.core, hcoreAt, State.coreAt_of_unfaulted hrest, State.countClass_coreAt]
    exact State.failCore_coreAt ok c.r c.k
  · rw [hregion, State.region_of_unfaulted hrest, State.countClass_region]
    exact State.failCore_failed ok c.r hk

end

section
variable {s : State} {p key n : Nat}

/-- The procedure under way waits in one of these states for its partition alone. -/
theorem State.repairWaits_of_current (hcurrent : s.flt.current = some (p, key, n)) (q : Nat) (states : List Nat) :
    s.repairWaits q states = (decide (p = q) && states.contains (s.fld Reg.FLT_REPAIR 31 29)) := by
  rw [State.repairWaits, hcurrent]

section
variable {v : Word} (hcurrent : s.flt.current = some (p, key, n)) (hclear : v &&& 0x3FFFFF = 0)
include hcurrent hclear

theorem execResumeRepair_of_waiting (hop : field v 31 28 = 3) (hp : field v 27 22 = p) (hst : s.fld Reg.FLT_REPAIR 31 29 = 5) :
    execResumeRepair v s = .next (s.setFld Reg.FLT_REPAIR 31 29 6) := by
  rw [execResumeRepair, if_neg (not_not.2 hop), State.reservedBits_of_clear s hclear]
  dsimp only
  rw [State.repairWaits_of_current hcurrent, hp, hst]
  exact congrArg _ (if_pos (by simp))

theorem execResumeRepair_of_other (hop : field v 31 28 = 3) (hst : s.fld Reg.FLT_REPAIR 31 29 ≠ 5) :
    execResumeRepair v s = .next (s.bump Reg.FLT_FATAL 23 16) := by
  rw [execResumeRepair, if_neg (not_not.2 hop), State.reservedBits_of_clear s hclear]
  dsimp only
  rw [State.repairWaits_of_current hcurrent]
  exact congrArg _ (if_neg (by simp [hst]))

theorem execEndRepair_of_waiting (hop : field v 31 28 = 4) (hp : field v 27 22 = p)
    (hst : s.fld Reg.FLT_REPAIR 31 29 = 4 ∨ s.fld Reg.FLT_REPAIR 31 29 = 5) : execEndRepair v s = .next (s.endJob p) := by
  rw [execEndRepair, if_neg (not_not.2 hop), State.reservedBits_of_clear s hclear]
  dsimp only
  rw [State.repairWaits_of_current hcurrent, hp]
  exact congrArg _ (if_pos (by simpa using hst))

end

/-- Sixty seconds without the host's tensors end the job. -/
theorem execSpareShipmentTimeout_of_due (hcurrent : s.flt.current = some (p, key, n)) {t : Long} (hsince : s.flt.shipSince = some t)
    (hst : s.fld Reg.FLT_REPAIR 31 29 = 4) (hdue : s.elapsed t 60000000000 = true) : execSpareShipmentTimeout s = .next (s.endJob p) := by
  rw [execSpareShipmentTimeout, hcurrent, hsince]
  exact congrArg _ (if_pos ⟨hst, hdue⟩)

/-- With every core halted and the spare without power, step 2 waits. -/
theorem State.spareSteps_of_asleep (hdrain : s.pstate p = 3) (hhalted : ∀ k ∈ (s.part p).started, (s.coreAt k).phase ≠ .running)
    (hasleep : (s.coreAt (17 * (key / 17) + 16)).powered = false) : s.spareSteps p key = s.setFld Reg.FLT_REPAIR 31 29 2 := by
  have hrun : ((s.part p).started.any fun k => decide ((s.coreAt k).phase = .running)) = false :=
    List.any_eq_false.2 fun k hk => by simpa using hhalted k hk
  rw [State.spareSteps]
  simp only [hrun, hdrain, hasleep]
  rfl

/-- A procedure in STATE 1 or 2 takes its steps 2 to 5. -/
theorem State.spareStep_of_steps (hcurrent : s.flt.current = some (p, key, 0)) (hst : s.fld Reg.FLT_REPAIR 31 29 = 1 ∨ s.fld Reg.FLT_REPAIR 31 29 = 2)
    (shipped : Bool) : s.spareStep shipped = s.spareSteps p key := by
  rw [State.spareStep, hcurrent]
  rcases hst with hst | hst <;> simp [hst]

/-- A shipment that is whole ends STATE 4. -/
theorem State.spareStep_of_shipped (hcurrent : s.flt.current = some (p, key, 0)) (hst : s.fld Reg.FLT_REPAIR 31 29 = 4) (hpurpose : s.ing.purpose = 2)
    (hpart : s.ing.part = none) (hclosed : s.ing.closed = true) :
    s.spareStep true = ({ s with ing := Ingest.idle, flt := { s.flt with shipSince := none } }).spareHold := by
  rw [State.spareStep, hcurrent]
  simp [hst, hpurpose, hpart, hclosed]

/-- What the placed regions of partition p start again with. -/
def State.enginesIdle (s : State) (p : Nat) : State :=
  (s.part p).placed.foldl (fun (t : State) g => t.modRegion g.r fun x =>
    { x with emissions := [], moves := [], le := ListEngine.idle, ringSlot := [], ringHigh := [] }) s

/-- A procedure in STATE 6 resumes its partition once step 5 of the load can be done again. -/
theorem State.spareResume_of_ready {t : State} (hcurrent : s.flt.current = some (p, key, 0)) (hst : s.fld Reg.FLT_REPAIR 31 29 = 6)
    (hdrain : s.pstate p = 3) (hstep : s.step5 p = some t) : s.spareResume =
      ((((t.enginesIdle p).startPart p).modPart p fun x =>
        { x with stopPending := false, stopEpoch := none, stopTime := none, heldReason := none, uncorrectable := false }).setPState p 2).spareOver := by
  rw [State.spareResume, hcurrent]
  simp only [hst, hdrain, hstep]
  rfl

end

/-- Settles O49: a failure takes the branch that its region's spare and owner give, and a procedure's command or timer takes the branch of its state (when the
procedure stops and what its steps wait for is the model's choice, notes/assumptions/129.md). -/
theorem coreFailuresAndRepair : Obligations.CoreFailuresAndRepair := by
  intro s c v p ok _ hk
  refine ⟨fun hlive hworks hinj => ⟨fun hspent => ?_, fun hfree hcore hown hheld => ?_, fun hfree hcore hown hbusy => ?_⟩, fun key n hcurrent => ?_⟩
  · exact congrArg _ (State.coreFails_of_spent hk hlive hworks hinj hspent)
  · exact congrArg _ (State.coreFails_of_unowned ok hk hlive hworks hinj hfree hcore hown hheld)
  · exact coreFailure_queued ok hk hlive hworks hinj hfree hcore hown hbusy
  · refine ⟨fun hop hclear hp hst => execResumeRepair_of_waiting hcurrent hclear hop hp hst,
      fun hop hclear hst => execResumeRepair_of_other hcurrent hclear hop hst,
      fun hop hclear hp hst => execEndRepair_of_waiting hcurrent hclear hop hp hst,
      fun t hsince hst hdue => execSpareShipmentTimeout_of_due hcurrent hsince hst hdue, ?_, ?_, ?_⟩
    · rintro b rfl hst hdrain hhalted hasleep
      exact congrArg _ ((State.spareStep_of_steps hcurrent hst b).trans (State.spareSteps_of_asleep hdrain hhalted hasleep))
    · rintro rfl hst hpurpose hpart hclosed
      exact congrArg _ (State.spareStep_of_shipped hcurrent hst hpurpose hpart hclosed)
    · rintro t rfl hst hdrain hstep -
      exact congrArg _ (State.spareResume_of_ready hcurrent hst hdrain hstep)

end Sys2Proof.Machine

/-! SUPPORT. The statements of chapter 17's family: log copies (O7), management commands (O51), protection changes (O52) and secure messages (O53). -/

namespace Sys2Proof.Machine

/-! ### The mailbox and the copies of the event log (O7) -/

section
variable {s : State} {m : MgtCmd}

/-- A command of OP n at the head of the queue. -/
theorem State.headCmd_of_head (hhead : s.mgt.cmds.head? = some m) (hwait : s.mgt.gateWait = none) {n : Nat} (hop : m.op = n) : s.headCmd n = some m := by
  rw [State.headCmd, hhead]
  simp [hop, hwait]

theorem State.cmdDone_of_head (hhead : s.mgt.cmds.head? = some m) (status data : Nat) : s.cmdDone status data = s.dropCmd.mailDone m.seq status data := by
  rw [State.cmdDone, hhead]

/-- A message-signalled interrupt leaves host memory. -/
theorem State.signal_hostMem (s : State) (v : Nat) : (s.signal v).hostMem = s.hostMem := (congrArg State.hostMem (State.signal_unlogged s v) :)

theorem State.signal_rd (s : State) (v a : Nat) : (s.signal v).rd a = s.rd a := by
  rw [State.rd, State.signal_regs, State.rd]

/-- A completed mailbox command shows its count, its status and its SEQ, and is no longer busy. -/
theorem State.mailDone_shows (ok : Canonical s) (q status data : Nat) : (s.mailDone (some q) status data).rd Reg.MGT_RES_DATA = BitVec.ofNat 32 data ∧
    (s.mailDone (some q) status data).fld Reg.MGT_RES 31 16 = q % 65536 ∧ (s.mailDone (some q) status data).fld Reg.MGT_RES 7 0 = status % 256 ∧
    flag ((s.mailDone (some q) status data).rd Reg.MGT_RES) 15 = false ∧ (s.mailDone (some q) status data).hostMem = s.hostMem := by
  have hstatus := ok.setFld Reg.MGT_RES 7 0 status
  have hdata := hstatus.wr Reg.MGT_RES_DATA (BitVec.ofNat 32 data)
  have hseq := hdata.setFld Reg.MGT_RES 31 16 q
  have hres : (s.mailDone (some q) status data).rd Reg.MGT_RES = setField (setField (setField (s.rd Reg.MGT_RES) 7 0 status) 31 16 q) 15 15 0 := by
    rw [State.mailDone, State.signal_rd, State.rd_setFld hseq, if_pos rfl, State.rd_setFld hdata, if_pos rfl, State.rd_wr_ne hstatus _ (by decide), State.rd_setFld ok, if_pos rfl]
  refine ⟨?_, ?_, ?_, ?_, ?_⟩
  · rw [State.mailDone, State.signal_rd, State.rd_setFld hseq, if_neg (by decide), State.rd_setFld hdata, if_neg (by decide), State.rd_wr_same hstatus]
  · rw [State.fld, hres, field_setField_apart _ _ _ _ _ _ (by decide), field_setField _ _ _ _ (by decide)]
    rfl
  · rw [State.fld, hres, field_setField_apart _ _ _ _ _ _ (by decide), field_setField_apart _ _ _ _ _ _ (by decide), field_setField _ _ _ _ (by decide)]
    rfl
  · rw [hres, flag_setField _ _ _ (by decide)]
    rfl
  · rw [State.mailDone]
    exact State.signal_hostMem _ _

theorem length_leBytes (n v : Nat) : (leBytes n v).length = n := by
  rw [leBytes, List.length_map, List.length_range]

theorem length_slice (bs : Bytes) (o n : Nat) : (slice bs o n).length = n := by
  rw [slice, List.length_map, List.length_range]

/-- An entry of the log has 32 bytes. -/
theorem State.length_logBytes (s : State) (n : Nat) : (s.logBytes n).length = 32 := by
  rw [State.logBytes]
  split
  · split
    · simp [length_leBytes, length_slice]
    · rfl
  · rfl

/-- Bytes written to host memory read back. -/
theorem memRead_memWrite {x : Mem} (hx : memWf x = true) (a : Nat) (d : Bytes) : memRead (memWrite x a d) a d.length = d := by
  refine List.ext_getElem (by rw [memRead, List.length_map, List.length_range]) fun i hi hi' => ?_
  rw [← memGet_memWrite_in a i d hx hi']
  simp [memRead]

/-- Host memory with d written at a. -/
def State.hostStored (s : State) (a : Nat) (d : Bytes) : State := { s with hostMem := memWrite s.hostMem a d }

theorem Canonical.hostStored (ok : Canonical s) (a : Nat) (d : Bytes) : Canonical (s.hostStored a d) := { ok with hostMem := memWrite_wf a d ok.hostMem }

/-- With the port up a write reaches host memory at once. -/
theorem State.hostWrite_of_up {port : Nat} (hup : s.portUp port = true) (a : Nat) (d : Bytes) :
    s.hostWrite port a d = s.hostStored a d := by
  rw [State.hostWrite, State.hostWriteAdv, if_pos hup, State.issueWrite, if_pos (.inl rfl), State.hostStored]

/-- The entries that a LOG_COPY with block b names. -/
def State.copied (s : State) (b : Bytes) : List Bytes := (List.range (leAt b 16 4)).map fun i => s.logBytes (leAt b 8 8 + i)

theorem State.length_copied (s : State) (b : Bytes) : (s.copied b).flatten.length = 32 * leAt b 16 4 := by
  have hall : ∀ e ∈ s.copied b, e.length = 32 := fun e he => by
    obtain ⟨i, -, rfl⟩ := List.mem_map.1 he
    exact s.length_logBytes _
  rw [List.length_flatten, List.map_congr_left hall, List.map_const', List.sum_replicate, State.copied, List.length_map, List.length_range, smul_eq_mul,
    Nat.mul_comm]

/-- A LOG_COPY of a size that it may have writes the entries and completes. -/
theorem execLogCopy_of_fits (hhead : s.mgt.cmds.head? = some m) (hwait : s.mgt.gateWait = none) (hop : m.op = 1) (hblock : m.block = none) {b : Bytes}
    (hpos : 0 < leAt b 16 4) (hmax : leAt b 16 4 ≤ 65536) : execLogCopy (some b) s =
      .next ((s.hostWrite m.port (leAt b 0 8) (s.copied b).flatten).cmdDone 0 ((s.copied b).filter fun e => decide (leAt e 0 8 ≠ 0)).length) := by
  rw [execLogCopy, State.headCmd_of_head hhead hwait hop]
  dsimp only
  rw [blockOf, hblock]
  exact congrArg _ (if_neg (by omega))

end

/-- Settles O7: the write of the entries reads back, and the mailbox shows how many of them have a NUMBER. -/
theorem logCopies : Obligations.LogCopies := by
  intro s m b q n ok hhead hop hwait hblock hseq
  refine ⟨fun hpos hmax hup => ⟨_, execLogCopy_of_fits hhead hwait hop hblock hpos hmax, ?_⟩, fun e he hkept => ?_, fun hnone => ?_⟩
  · have hstored := ok.hostStored (leAt b 0 8) (s.copied b).flatten
    have hdrop : Canonical (s.hostStored (leAt b 0 8) (s.copied b).flatten).dropCmd := hstored.of_tables rfl
    obtain ⟨hdata, hq, hstatus, hbusy, hhost⟩ := State.mailDone_shows hdrop q 0 ((s.copied b).filter fun e => decide (leAt e 0 8 ≠ 0)).length
    have hdone : (s.hostStored (leAt b 0 8) (s.copied b).flatten).mgt.cmds.head? = some m := hhead
    rw [State.hostWrite_of_up hup, State.cmdDone_of_head hdone, hseq]
    dsimp only
    rw [hhost]
    refine ⟨?_, fun a ha => ?_, hdata, hq, hstatus, hbusy⟩
    · rw [← State.length_copied s b]
      exact memRead_memWrite ok.hostMem _ _
    · exact memGet_memWrite_out _ _ _ ok.hostMem (by rwa [State.length_copied])
  · rw [State.logBytes, he]
    exact if_pos (by simpa using hkept)
  · rw [State.logBytes]
    rcases hnone with hnone | hlost
    · rw [hnone]
    · split
      · exact if_neg (by simpa using hlost)
      · rfl


/-! ### Management commands (O51) -/

section
variable {s : State} {m : MgtCmd} {b : Bytes}

/-- Approval, used up by a STAGE. -/
def State.approvalUsed (s : State) : State := if s.sec.stageOpen then s else { s with sec := { s.sec with approved := none } }

/-- May the image be staged? -/
def State.stageAllowed (s : State) (image : Bytes) : Bool := s.sec.stageOpen || decide (s.sec.approved = some (slice image 24 64))

/-- Is a region's death fused? -/
def State.fusedDeath (s : State) (r : Nat) : Bool := s.sec.fusedDead.contains r || s.boot.fuses.any fun f => f.dead.contains r

theorem State.fusedDeath_iff (s : State) (r : Nat) :
    s.fusedDeath r = true ↔ s.sec.fusedDead.contains r = true ∨ ∃ f ∈ s.boot.fuses, f.dead.contains r = true := by
  rw [State.fusedDeath, Bool.or_eq_true, Option.any_eq_true]
  rfl

/-- Is debug open for a partition that runs or drains? -/
def State.debugOpen (s : State) (p : Nat) : Bool := decide (p < 64) && s.sec.debugMask.getLsbD p && (decide (s.pstate p = 2) || decide (s.pstate p = 3))

section
variable (hhead : s.mgt.cmds.head? = some m) (hwait : s.mgt.gateWait = none) (hblock : m.block = none)
include hhead hwait

theorem execLogCopy_of_lost (hblock : m.block = none) (hop : m.op = 1) : execLogCopy none s = .next (s.cmdDone 2 0) := by
  rw [execLogCopy, State.headCmd_of_head hhead hwait hop]
  dsimp only
  rw [blockOf, hblock]

theorem execSelect_eq (hop : m.op = 3) : execSelect s = .next (
    if s.fld Reg.MGT_STAT 29 28 < 2 then s.cmdDone 6 0 else if s.flashOpen then s.finishSelect else s.waitGate 3 []) := by
  rw [execSelect, State.headCmd_of_head hhead hwait hop]

include hblock

theorem execLogCopy_of_count (hop : m.op = 1) (hn : leAt b 16 4 = 0 ∨ 65536 < leAt b 16 4) : execLogCopy (some b) s = .next (s.cmdDone 1 0) := by
  rw [execLogCopy, State.headCmd_of_head hhead hwait hop]
  dsimp only
  rw [blockOf, hblock]
  exact congrArg _ (if_pos hn)

/-- A STAGE of a size that no image has. -/
theorem execStage_of_size (hop : m.op = 2) (hn : ¬(512 ≤ leAt b 8 4 ∧ leAt b 8 4 ≤ 96 * 2 ^ 20)) (img : Option Bytes) :
    execStage (some b) img s = .next (s.cmdDone 1 0) := by
  rw [execStage, State.headCmd_of_head hhead hwait hop]
  dsimp only
  rw [blockOf, hblock]
  exact congrArg _ (if_pos (by omega))

theorem execStage_of_lost (hop : m.op = 2) (hn : 512 ≤ leAt b 8 4 ∧ leAt b 8 4 ≤ 96 * 2 ^ 20) : execStage (some b) none s = .next (s.cmdDone 2 0) := by
  rw [execStage, State.headCmd_of_head hhead hwait hop]
  dsimp only
  rw [blockOf, hblock]
  exact congrArg _ (if_neg (by omega))

/-- A STAGE of an image. -/
theorem execStage_eq (hop : m.op = 2) (hn : 512 ≤ leAt b 8 4 ∧ leAt b 8 4 ≤ 96 * 2 ^ 20) (img : Bytes) : execStage (some b) (some img) s = .next (
    if (!s.stageAllowed (slice img 0 (leAt b 8 4))) = true then s.approvalUsed.cmdDone 5 0
    else if s.approvalUsed.flashOpen then s.approvalUsed.finishStage (slice img 0 (leAt b 8 4))
    else (s.approvalUsed.setFld Reg.MGT_STAT 29 28 1).waitGate 2 (slice img 0 (leAt b 8 4))) := by
  rw [execStage, State.headCmd_of_head hhead hwait hop]
  dsimp only
  rw [blockOf, hblock]
  exact congrArg _ (if_neg (by omega))

/-- An SVC_CLEAR. -/
theorem execSvcClear_eq (hop : m.op = 4) : execSvcClear (some b) s = .next (
    if 31 < byteAt b 0 ∨ 27 < byteAt b 1 then s.cmdDone 1 0
    else if (s.fusedDeath (32 * byteAt b 1 + byteAt b 0) || (tabFind s.mgt.deaths (32 * byteAt b 1 + byteAt b 0)).isNone) = true then s.cmdDone 8 0
    else (({ s with mgt := { s.mgt with deaths := tabDrop s.mgt.deaths (32 * byteAt b 1 + byteAt b 0) } }).logEvent 19 0
      [BitVec.ofNat 8 (byteAt b 0), BitVec.ofNat 8 (byteAt b 1)]).cmdDone 0 0) := by
  rw [execSvcClear, State.headCmd_of_head hhead hwait hop]
  dsimp only
  rw [blockOf, hblock, State.fusedDeath]
  cases s.boot.fuses <;> rfl

/-- A DEBUG_ACCESS out of form. -/
theorem execDebugAccess_of_form (hop : m.op = 6) (hform : 63 < byteAt b 8 ∨ 5 < byteAt b 9 / 2 % 8 ∨ 2 ^ 20 < leAt b 24 4) (buffer : Option Bytes) :
    execDebugAccess (some b) buffer s = .next (s.cmdDone 1 0) := by
  rw [execDebugAccess, State.headCmd_of_head hhead hwait hop]
  dsimp only
  rw [blockOf, hblock]
  exact congrArg _ (if_pos hform)

/-- A DEBUG_ACCESS to a partition whose debug is closed. -/
theorem execDebugAccess_of_closed (hop : m.op = 6) (hform : ¬(63 < byteAt b 8 ∨ 5 < byteAt b 9 / 2 % 8 ∨ 2 ^ 20 < leAt b 24 4))
    (hclosed : s.debugOpen (byteAt b 8) = false) (buffer : Option Bytes) : execDebugAccess (some b) buffer s = .next (s.cmdDone 9 0) := by
  rw [execDebugAccess, State.headCmd_of_head hhead hwait hop]
  dsimp only
  rw [blockOf, hblock]
  refine congrArg _ ((if_neg hform).trans (if_pos ?_))
  rw [← State.debugOpen, hclosed]
  rfl

/-- The end of a DEBUG_ACCESS, which is logged. -/
def debugDone (b : Bytes) (t : State) : State :=
  (t.logEvent 21 (byteAt b 8) [BitVec.ofNat 8 (byteAt b 9 / 2 % 8), BitVec.ofNat 8 (if decide (byteAt b 9 % 2 = 1) then 1 else 0)]).cmdDone 0 0

/-- A DEBUG_ACCESS to an open partition, in region q. -/
theorem execDebugAccess_of_open (hop : m.op = 6) (hform : ¬(63 < byteAt b 8 ∨ 5 < byteAt b 9 / 2 % 8 ∨ 2 ^ 20 < leAt b 24 4))
    (hopen : s.debugOpen (byteAt b 8) = true) {q : Nat} (hq : ((s.part (byteAt b 8)).placed[leAt b 10 2]?).map (·.r) = some q) (img : Bytes) :
    execDebugAccess (some b) (some img) s = .next (
      if debugSize (byteAt b 9 / 2 % 8) < leAt b 16 8 + leAt b 24 4 ∨ (byteAt b 9 / 2 % 8 < 5 ∧ (s.physCore q (byteAt b 12)).isNone) then s.cmdDone 10 0
      else if decide (byteAt b 9 % 2 = 1) then
        if byteAt b 9 / 2 % 8 = 5 then debugDone b (s.modRegion q fun g =>
          { g with seq := { g.seq with sram := memWrite g.seq.sram (leAt b 16 8) (slice img 0 (leAt b 24 4)) } })
        else debugDone b (s.modCoreAt (17 * q + (s.physCore q (byteAt b 12)).getD 0) fun x =>
          debugWrite x (byteAt b 9 / 2 % 8) (leAt b 16 8) (slice img 0 (leAt b 24 4)))
      else debugDone b (s.hostWrite m.port (leAt b 0 8) (if byteAt b 9 / 2 % 8 = 5 then memRead (s.region q).seq.sram (leAt b 16 8) (leAt b 24 4)
        else debugRead (s.coreAt (17 * q + (s.physCore q (byteAt b 12)).getD 0)) (byteAt b 9 / 2 % 8) (leAt b 16 8) (leAt b 24 4)))) := by
  rw [execDebugAccess, State.headCmd_of_head hhead hwait hop]
  dsimp only
  rw [blockOf, hblock]
  refine congrArg _ ((if_neg hform).trans ((if_neg ?_).trans ?_))
  · rw [← State.debugOpen, hopen]
    exact Bool.false_ne_true
  · rw [hq]
    rfl

/-- A DEBUG_ACCESS to a core of an open partition, within the space. -/
theorem execDebugAccess_at (hop : m.op = 6) (hform : ¬(63 < byteAt b 8 ∨ 5 < byteAt b 9 / 2 % 8 ∨ 2 ^ 20 < leAt b 24 4))
    (hopen : s.debugOpen (byteAt b 8) = true) {q k : Nat} (hq : ((s.part (byteAt b 8)).placed[leAt b 10 2]?).map (·.r) = some q)
    (hk : s.physCore q (byteAt b 12) = some k) (hsize : leAt b 16 8 + leAt b 24 4 ≤ debugSize (byteAt b 9 / 2 % 8)) {img : Bytes} :
    execDebugAccess (some b) (some img) s = .next (
      if decide (byteAt b 9 % 2 = 1) then
        if byteAt b 9 / 2 % 8 = 5 then debugDone b (s.modRegion q fun g =>
          { g with seq := { g.seq with sram := memWrite g.seq.sram (leAt b 16 8) (slice img 0 (leAt b 24 4)) } })
        else debugDone b (s.modCoreAt (17 * q + k) fun x => debugWrite x (byteAt b 9 / 2 % 8) (leAt b 16 8) (slice img 0 (leAt b 24 4)))
      else debugDone b (s.hostWrite m.port (leAt b 0 8) (if byteAt b 9 / 2 % 8 = 5 then memRead (s.region q).seq.sram (leAt b 16 8) (leAt b 24 4)
        else debugRead (s.coreAt (17 * q + k)) (byteAt b 9 / 2 % 8) (leAt b 16 8) (leAt b 24 4)))) := by
  rw [execDebugAccess_of_open hhead hwait hblock hop hform hopen hq img, hk]
  exact congrArg _ (if_neg (not_or.2 ⟨Nat.not_lt.2 hsize, fun h => Bool.false_ne_true h.2⟩))

end

/-- The status of a STAGE. -/
theorem State.stageImage_status (s : State) (image : Bytes) : (s.stageImage image).2 =
    if imageSigned (slice image 0 512) (image.drop 512) = false then 3
    else if (s.setBank s.inactiveBank { header := slice image 0 512, payload := image.drop 512 }).svnOk (slice image 0 512) = false ∨
      byteAt (slice image 0 512) 12 < s.sec.minM ∨ byteAt (slice image 0 512) 13 < s.sec.minS then 4 else 0 := by
  rw [State.stageImage, apply_ite Prod.snd, apply_ite Prod.snd]
  refine ite_congr (by rw [Bool.not_eq_true']) (fun _ => rfl) fun _ => ite_congr ?_ (fun _ => rfl) fun _ => rfl
  rw [Bool.or_eq_true, Bool.or_eq_true, Bool.not_eq_true', decide_eq_true_eq, decide_eq_true_eq, or_assoc]
  rfl

/-- The main image's counter at n. -/
def State.mainAt (s : State) (n : Nat) : State := { s with sec := { s.sec with cntM := n } }

/-- The main image's counter follows the booted version when the fuse gate allows. -/
theorem State.advanceCounter_main (s : State) : s.advanceCounter false = if s.fld Reg.MGT_SVN 31 24 ≤ s.sec.cntM then s
    else if (!s.fuseGate) = true then s.fuseRefused
    else (s.mainAt (s.fld Reg.MGT_SVN 31 24)).showCounters.logEvent 16 3
      ((s.mainAt (s.fld Reg.MGT_SVN 31 24)).firmwareData ((s.mgt.banks.map (·.header)).getD s.mgt.booted [])) := by
  rw [State.advanceCounter]
  rfl

theorem State.showCounters_sec (s : State) : s.showCounters.sec = s.sec := rfl

theorem State.logEvent_sec (s : State) (code arg : Nat) (data : Bytes) : (s.logEvent code arg data).sec = s.sec :=
  (congrArg State.sec (State.logEvent_unlogged s code arg data) :)

/-- The log's waiting entries, in flash. -/
def State.logFlushed (s : State) : State :=
  ({ s with mgt := { s.mgt with flashed := s.mgt.nextNumber, lostPending := 0 } }).setFld Reg.MGT_LOG_STAT 15 0 0

/-- With the gate open, and no command at it, the waiting entries go to flash, and an entry tells of those lost. -/
theorem execFlashWriteResume_of_open (hopen : s.flashOpen = true)
    (hnone : (if s.mgt.lostPending = 0 then s.logFlushed else s.logFlushed.logEvent 15 s.mgt.lostPending []).mgt.gateWait = none) :
    execFlashWriteResume s = .next (if s.mgt.lostPending = 0 then s.logFlushed else s.logFlushed.logEvent 15 s.mgt.lostPending []) := by
  rw [execFlashWriteResume, hopen]
  dsimp only
  rw [← State.logFlushed, hnone]
  rfl

/-- With no command at the gate its time-out changes nothing. -/
theorem execStageFlashGateTimeout_of_none (hwait : s.mgt.gateWait = none) : execStageFlashGateTimeout s = .next s := by
  rw [execStageFlashGateTimeout, hwait]

/-- A STAGE that has waited 60 s at the gate completes with status 7. -/
theorem execStageFlashGateTimeout_of_due {since : Long} {i : Bytes} (hwait : s.mgt.gateWait = some (2, since, i))
    (hdue : s.elapsed since 60000000000 = true) : execStageFlashGateTimeout s =
      .next ((({ s with mgt := { s.mgt with gateWait := none } }).setFld Reg.MGT_STAT 29 28 0).cmdDone 7 0) := by
  rw [execStageFlashGateTimeout, hwait]
  exact congrArg _ (if_pos hdue)

end

/-- Settles O51: each command at the head takes the branch of its first failed check. An approval that a STAGE_OPEN keeps, the counters' advance and the
commands without effect are the model's choice (notes/assumptions/87.md, 84.md and 4.md). -/
theorem managementCommands : Obligations.ManagementCommands := by
  intro s m b img hhead hwait hblock
  have happroved : ∀ {i : Bytes}, s.stageAllowed i = true ↔ s.sec.stageOpen = true ∨ s.sec.approved = some (slice i 24 64) := by
    simp [State.stageAllowed]
  have hdebug : byteAt b 8 ≤ 63 → (s.debugOpen (byteAt b 8) = true ↔
      s.sec.debugMask.getLsbD (byteAt b 8) = true ∧ (s.pstate (byteAt b 8) = 2 ∨ s.pstate (byteAt b 8) = 3)) := fun hp => by
    simp [State.debugOpen, Nat.lt_succ_of_le hp]
  have haccess := @execDebugAccess_at s m b hhead hwait hblock
  refine ⟨execLogCopy_of_lost hhead hwait hblock, execLogCopy_of_count hhead hwait hblock, (execLogCopy_of_fits hhead hwait · hblock),
    fun hop hn => execStage_of_size hhead hwait hblock hop hn (some img), execStage_of_lost hhead hwait hblock, fun hop hn hno => ?_, fun hop hn hyes hopen => ?_,
    fun hop hn hyes hshut => ?_, fun st hst => hst.trans (s.stageImage_status _), fun hop hst => ?_, fun hop hst hshut => ?_, fun hop hst hopen => ?_,
    fun hop hout => ?_, fun hop hx hy hno => ?_, fun hop hx hy hno hdead => ?_, fun hop hform => execDebugAccess_of_form hhead hwait hblock hop hform (some img),
    fun hop hp hsp hlen hno => ?_, fun hop hp hsp hlen hyes q hq => ⟨fun hsize => ?_, fun k hk hsize => ⟨fun hw hs => ?_, fun hw hs => ?_, fun hw hs => ?_⟩⟩,
    fun hshut => ?_, fun hopen hnone => ?_, fun hopen hlost t ht htu => ?_, ?_, fun t since i ht hdue => ?_, fun hoff => ?_, fun hauto hready => ?_,
    fun hle => ?_, fun hlt hgate => ?_, fun hlt hgate => ?_⟩
  · exact (execStage_eq hhead hwait hblock hop hn img).trans (congrArg _ (if_pos (by rw [Bool.not_eq_true', ← Bool.not_eq_true, happroved]; exact hno)))
  · refine (execStage_eq hhead hwait hblock hop hn img).trans (congrArg _ ((if_neg ?_).trans (if_pos hopen)))
    rw [happroved.2 hyes]
    exact Bool.false_ne_true
  · refine (execStage_eq hhead hwait hblock hop hn img).trans (congrArg _ ((if_neg ?_).trans (if_neg ?_)))
    · rw [happroved.2 hyes]
      exact Bool.false_ne_true
    · exact Bool.eq_false_iff.1 hshut
  · exact (execSelect_eq hhead hwait hop).trans (congrArg _ (if_pos hst))
  · exact (execSelect_eq hhead hwait hop).trans (congrArg _ ((if_neg (Nat.not_lt.2 hst)).trans (if_neg (Bool.eq_false_iff.1 hshut))))
  · exact (execSelect_eq hhead hwait hop).trans (congrArg _ ((if_neg (Nat.not_lt.2 hst)).trans (if_pos hopen)))
  · exact (execSvcClear_eq hhead hwait hblock hop).trans (congrArg _ (if_pos hout))
  · refine (execSvcClear_eq hhead hwait hblock hop).trans (congrArg _ ((if_neg (by omega)).trans (if_pos ?_)))
    rw [Bool.or_eq_true, State.fusedDeath_iff, Option.isNone_iff_eq_none]
    exact hno
  · refine (execSvcClear_eq hhead hwait hblock hop).trans (congrArg _ ((if_neg (by omega)).trans (if_neg ?_)))
    rw [Bool.or_eq_true, State.fusedDeath_iff, Option.isNone_iff_eq_none, not_or]
    exact ⟨hno, Option.isSome_iff_ne_none.1 hdead⟩
  · exact execDebugAccess_of_closed hhead hwait hblock hop (by omega) (Bool.eq_false_iff.2 fun h => hno ((hdebug hp).1 h)) (some img)
  · exact (execDebugAccess_of_open hhead hwait hblock hop (by omega) ((hdebug hp).2 hyes) hq img).trans (congrArg _ (if_pos (.inl hsize)))
  · exact (haccess hop (by omega) ((hdebug hp).2 hyes) hq hk hsize).trans (congrArg _ ((if_pos hw).trans (if_neg (Nat.ne_of_lt hs))))
  · refine (haccess hop (by omega) ((hdebug hp).2 hyes) hq hk hsize).trans (congrArg _ ((if_neg (Bool.eq_false_iff.1 hw)).trans ?_))
    rw [if_neg (Nat.ne_of_lt hs)]
    rfl
  · refine (haccess hop (by omega) ((hdebug hp).2 hyes) hq hk hsize).trans (congrArg _ ((if_neg (Bool.eq_false_iff.1 hw)).trans ?_))
    rw [if_pos hs]
    rfl
  · exact congrArg _ (if_pos (by rw [hshut]; rfl))
  · refine (execFlashWriteResume_of_open hopen ?_).trans (congrArg _ (if_pos hnone))
    rw [if_pos hnone]
    exact hwait
  · have hif : (if s.mgt.lostPending = 0 then s.logFlushed else s.logFlushed.logEvent 15 s.mgt.lostPending []) = t := (if_neg hlost).trans htu.symm
    exact (execFlashWriteResume_of_open hopen (by rw [hif]; exact ht)).trans (congrArg _ hif)
  · exact execStageFlashGateTimeout_of_none hwait
  · exact execStageFlashGateTimeout_of_due ht hdue
  · refine congrArg _ (if_neg ?_)
    rcases hoff with hoff | hoff <;> rw [hoff]
    · exact Bool.false_ne_true
    · rw [Bool.and_false]
      exact Bool.false_ne_true
  · exact congrArg _ (if_pos (by rw [hauto, hready]; rfl))
  · exact s.advanceCounter_main.trans (if_pos hle)
  · exact s.advanceCounter_main.trans ((if_neg (Nat.not_le.2 hlt)).trans (if_pos (by rw [hgate]; rfl)))
  · rw [State.advanceCounter_main, if_neg (Nat.not_le.2 hlt), if_neg (by rw [hgate]; exact Bool.false_ne_true), State.logEvent_sec]
    rfl


/-! ### Protection changes (O52) -/

section
variable {s : State} {q : Bytes} {seq : Option Nat} {rest : List (Bytes × Option Nat)}

/-- The security core with its queue's head taken. -/
def State.unqueued (s : State) (rest : List (Bytes × Option Nat)) : State := { s with sec := { s.sec with queue := rest } }

/-- The check of a request gives 0 or one of the refusals 33 to 37. -/
theorem State.requestCheck_range (s : State) (q : Bytes) : s.requestCheck q = 0 ∨ (33 ≤ s.requestCheck q ∧ s.requestCheck q ≤ 37) := by
  rw [State.requestCheck]
  dsimp only
  split
  · exact .inr (by decide)
  split
  · exact .inr (by decide)
  split
  · exact .inr (by decide)
  split
  · exact .inr (by decide)
  split
  · split
    · exact .inr (by decide)
    · exact .inr (by decide)
  · exact .inl rfl

/-- The status that the request at the queue's head ends with. -/
def State.requestStatus (s : State) (q : Bytes) (extra : Nat) : Nat :=
  if s.requestCheck q ≠ 0 then s.requestCheck q else if extra ≠ 0 then extra else if (!s.sec.setupOk && !s.firstEnrol q) = true then 44 else 32

/-- The state with its counter of protection changes moved. -/
def State.counted (s : State) : State := { s with sec := { s.sec with ctr := s.sec.ctr + 1 } }

section
variable (hqueue : s.sec.queue = (q, seq) :: rest) (herr : s.sec.error = false) {op : Nat} (hop : reqOp q = op) (extra : State → Nat) (apply : State → State)
include hqueue herr hop

/-- A request at the head of the queue is handled by its own operation. -/
theorem State.handle_eq : s.handle op q extra apply =
    if (s.unqueued rest).requestStatus q (extra (s.unqueued rest)) = 32 then (apply (s.unqueued rest)).counted.requestEnd seq (reqOp q) 32
    else (if (s.unqueued rest).requestStatus q (extra (s.unqueued rest)) = 41 then (s.unqueued rest).fuseRefused else s.unqueued rest).requestEnd seq
      (reqOp q) ((s.unqueued rest).requestStatus q (extra (s.unqueued rest))) := by
  rw [State.handle, hqueue, hop]
  dsimp only
  rw [if_neg (by simp), if_neg (by rw [herr]; exact Bool.false_ne_true)]
  rfl

/-- A request that fails a check names it. -/
theorem State.handle_of_check (hc : (s.unqueued rest).requestCheck q ≠ 0) :
    s.handle op q extra apply = (s.unqueued rest).requestEnd seq (reqOp q) ((s.unqueued rest).requestCheck q) := by
  have hrange := (s.unqueued rest).requestCheck_range q
  have hst : (s.unqueued rest).requestStatus q (extra (s.unqueued rest)) = (s.unqueued rest).requestCheck q := if_pos hc
  rw [State.handle_eq hqueue herr hop, hst, if_neg (by omega), if_neg (by omega)]

/-- A request that passes the checks, and that its operation refuses. -/
theorem State.handle_of_refused {n : Nat} (hc : (s.unqueued rest).requestCheck q = 0) (hn : extra (s.unqueued rest) = n)
    (hreal : n ≠ 0 ∧ n ≠ 32 ∧ n ≠ 41) : s.handle op q extra apply = (s.unqueued rest).requestEnd seq (reqOp q) n := by
  obtain ⟨hpos, hok, hfuse⟩ := hreal
  have hst : (s.unqueued rest).requestStatus q (extra (s.unqueued rest)) = n := by
    rw [hn]
    exact (if_neg (not_not.2 hc)).trans (if_pos hpos)
  rw [State.handle_eq hqueue herr hop, hst, if_neg hok, if_neg hfuse]

/-- A fuse write that the gate refuses. -/
theorem State.handle_of_gate (hc : (s.unqueued rest).requestCheck q = 0) (hn : extra (s.unqueued rest) = 41) :
    s.handle op q extra apply = (s.unqueued rest).fuseRefused.requestEnd seq (reqOp q) 41 := by
  have hst : (s.unqueued rest).requestStatus q (extra (s.unqueued rest)) = 41 := by
    rw [hn]
    exact (if_neg (not_not.2 hc)).trans (if_pos (by decide))
  rw [State.handle_eq hqueue herr hop, hst, if_neg (by decide), if_pos rfl]

/-- Without a set-up no request but the first enrolment is accepted. -/
theorem State.handle_of_noSetup (hc : (s.unqueued rest).requestCheck q = 0) (hn : extra (s.unqueued rest) = 0)
    (hsetup : s.sec.setupOk = false) (hfirst : (s.unqueued rest).firstEnrol q = false) :
    s.handle op q extra apply = (s.unqueued rest).requestEnd seq (reqOp q) 44 := by
  have hno : (!(s.unqueued rest).sec.setupOk && !(s.unqueued rest).firstEnrol q) = true := by
    rw [hfirst, show (s.unqueued rest).sec.setupOk = false from hsetup]
    rfl
  have hst : (s.unqueued rest).requestStatus q (extra (s.unqueued rest)) = 44 :=
    (if_neg (not_not.2 hc)).trans ((if_neg (not_not.2 hn)).trans (if_pos hno))
  rw [State.handle_eq hqueue herr hop, hst, if_neg (by decide), if_neg (by decide)]

/-- An accepted request makes its change, and the counter moves. -/
theorem State.handle_of_ready (hready : (s.unqueued rest).requestCheck q = 0 ∧ (s.sec.setupOk = true ∨ (s.unqueued rest).firstEnrol q = true))
    (hn : extra (s.unqueued rest) = 0) : s.handle op q extra apply = (apply (s.unqueued rest)).counted.requestEnd seq (reqOp q) 32 := by
  have hyes : ¬(!(s.unqueued rest).sec.setupOk && !(s.unqueued rest).firstEnrol q) = true := by
    rw [show (s.unqueued rest).sec.setupOk = s.sec.setupOk from rfl]
    rcases hready.2 with h | h <;> simp [h]
  have hst : (s.unqueued rest).requestStatus q (extra (s.unqueued rest)) = 32 :=
    (if_neg (not_not.2 hready.1)).trans ((if_neg (not_not.2 hn)).trans (if_neg hyes))
  rw [State.handle_eq hqueue herr hop, hst, if_pos rfl]

end

/-- The key request's own refusal. -/
theorem keyTaken_iff {keys : Tab (Nat × Nat)} {p key : Nat} :
    (keys.any fun e => decide (e.1 ≠ p) && decide (e.2.1 = key)) = true ↔ ¬∀ e ∈ keys, e.1 ≠ p → e.2.1 ≠ key := by
  simp

/-- The state with this roster, whose set-up is made. -/
def State.rostered (s : State) (l : Tab Bytes) : State := { s with sec := { s.sec with roster := l, setupOk := true } }

/-- The roster that the enrolment q makes. -/
def State.enrolled (s : State) (q : Bytes) : State :=
  s.rostered (if s.firstEnrol q then tabAdd (tabAdd s.sec.roster (byteAt (reqBody q) 0) (slice (reqBody q) 1 133)) 1 (slice (reqBody q) 135 133)
    else tabAdd s.sec.roster (byteAt (reqBody q) 0) (slice (reqBody q) 1 133))

/-- An enrolment's own refusal. -/
def State.enrolRefusal (s : State) (q : Bytes) : Nat :=
  if s.firstEnrol q then 0 else if reqLen q = 268 ∨ (tabFind s.sec.roster (byteAt (reqBody q) 0)).isSome then 40 else 0

theorem execEnrol_eq (q : Bytes) (s : State) : execEnrol q s = .next (s.handle 5 q (fun t => t.enrolRefusal q) fun t => t.enrolled q) := rfl

/-- What the fuse request q fuses. -/
def State.fused (s : State) (q : Bytes) : State :=
  ({ s with sec :=
      if byteAt (reqBody q) 0 = 1 then { s.sec with cntM := byteAt (reqBody q) 1 }
      else if byteAt (reqBody q) 0 = 2 then { s.sec with cntS := byteAt (reqBody q) 1 }
      else if byteAt (reqBody q) 0 = 3 then { s.sec with debugOff := true, debugMask := 0 }
      else { s.sec with fusedDead :=
        if s.sec.fusedDead.contains (32 * byteAt (reqBody q) 2 + byteAt (reqBody q) 1) then s.sec.fusedDead
        else s.sec.fusedDead ++ [32 * byteAt (reqBody q) 2 + byteAt (reqBody q) 1] } }).showCounters

/-- A fuse request's own refusal. -/
def State.fuseRefusal (s : State) (q : Bytes) : Nat :=
  if (byteAt (reqBody q) 0 = 1 ∧ byteAt (reqBody q) 1 ≤ s.sec.cntM) ∨ (byteAt (reqBody q) 0 = 2 ∧ byteAt (reqBody q) 1 ≤ s.sec.cntS) then 42
  else if !s.fuseGate then 41 else 0

theorem execFuse_eq (q : Bytes) (s : State) : execFuse q s = .next (s.handle 7 q (fun t => t.fuseRefusal q) fun t => t.fused q) := rfl

section
variable {m : MgtCmd} {blk : Bytes} (hhead : s.mgt.cmds.head? = some m) (hwait : s.mgt.gateWait = none) (hblock : m.block = none) (hop : m.op = 5)
include hhead hwait hblock hop

/-- A PCR of a size that no request has. -/
theorem execPcr_of_size (hn : leAt blk 8 4 < 336 ∨ 20816 < leAt blk 8 4) (request : Option Bytes) :
    execPcr (some blk) request s = .next (s.cmdDone 1 0) := by
  rw [execPcr, State.headCmd_of_head hhead hwait hop]
  dsimp only
  rw [blockOf, hblock]
  exact congrArg _ (if_pos hn)

/-- A PCR of a size that a request may have. -/
theorem execPcr_eq (hn : ¬(leAt blk 8 4 < 336 ∨ 20816 < leAt blk 8 4)) (q : Bytes) : execPcr (some blk) (some q) s = .next (
    if (s.sec.error || decide (4 ≤ s.sec.queue.length)) = true then s.dropCmd.requestEnd m.seq (reqOp (slice q 0 (leAt blk 8 4))) 43
    else if reqOp (slice q 0 (leAt blk 8 4)) = 0 ∨ 8 < reqOp (slice q 0 (leAt blk 8 4)) then
      s.dropCmd.requestEnd m.seq (reqOp (slice q 0 (leAt blk 8 4))) 33
    else ({ s.dropCmd with sec := { s.dropCmd.sec with queue := s.dropCmd.sec.queue ++ [(slice q 0 (leAt blk 8 4), m.seq)] } }).showSec) := by
  rw [execPcr, State.headCmd_of_head hhead hwait hop]
  dsimp only
  rw [blockOf, hblock]
  exact congrArg _ (if_neg hn)

end

/-- A failed self-test, or entropy check, of a running security core stops it. -/
theorem State.secFails_of_running (herr : s.sec.error = false) :
    s.secFails = (({ s with sec := { s.sec with error := true, sessions := [] } }).showSec).deviceFatal 44 0 :=
  if_neg (by rw [herr]; exact Bool.false_ne_true)

end

/-- Settles O52: `State.handle` gives the status of the first failed check, then the operation's own, then that of a missing set-up. The statuses 33 and 1 of
malformed requests, and 40 and 42 of REMOVE, ENROL and FUSE, are the model's reading (notes/assumptions/88.md and 89.md). -/
theorem protectionChanges : Obligations.ProtectionChanges := by
  intro s q seq rest hqueue herr b p key u c refuse accept x ready
  have hcheck := @State.handle_of_check s q seq rest hqueue herr
  have hrefused := @State.handle_of_refused s q seq rest hqueue herr
  have hready := @State.handle_of_ready s q seq rest hqueue herr
  refine ⟨fun hc => ⟨fun hop => congrArg Host.Outcome.next (hcheck hop _ _ hc), fun hop => congrArg Host.Outcome.next (hcheck hop _ _ hc),
      fun hop => congrArg Host.Outcome.next (hcheck hop _ _ hc), fun hop => congrArg Host.Outcome.next (hcheck hop _ _ hc),
      fun hop => congrArg Host.Outcome.next (hcheck hop _ _ hc), fun hop => congrArg Host.Outcome.next (hcheck hop _ _ hc),
      fun hop => congrArg Host.Outcome.next (hcheck hop _ _ hc), fun hop => congrArg Host.Outcome.next (hcheck hop _ _ hc)⟩,
    fun hop hc hbusy => ?_, fun hop hc hfree hall => ?_, fun hop hr hfree hall hkey => ?_, fun hop hr => ?_, fun hop hc hoff hmask => ?_, fun hop hr hmask => ?_,
    fun hop hr => ?_, fun hop hc hfirst => ?_, fun hop hr hfirst hlen hslot => ?_, fun hop hc hfirst hslot => ?_, fun hop hc hslot => ?_,
    fun hop hr htwo hslot => ?_, fun hop hc hp hv => ?_, fun hop hc hp hgate => ?_, fun hop hr hp hv hgate => ?_, fun hop hr => ?_,
    fun hc hsetup hfirst hop => ?_, fun m blk hhead hop hwait hblock => ⟨fun hn => ?_, fun hlo hhi hfull => ?_, fun hlo hhi hfree hmin hmax => ?_⟩, ?_, fun hon => ⟨?_, ?_⟩⟩
  · exact congrArg Host.Outcome.next (hrefused hop _ _ hc (if_pos hbusy) (by decide))
  · exact congrArg Host.Outcome.next (hrefused hop _ _ hc ((if_neg (not_not.2 hfree)).trans (if_pos (.inl hall))) (by decide))
  · refine congrArg Host.Outcome.next (hready hop _ _ hr ((if_neg (not_not.2 hfree)).trans (if_neg ?_)))
    rintro (h | ⟨hnz, htaken⟩)
    · exact hall h
    · exact keyTaken_iff.1 htaken (hkey.resolve_left hnz)
  · exact congrArg Host.Outcome.next (hready hop _ _ hr rfl)
  · exact congrArg Host.Outcome.next (hrefused hop _ _ hc (if_pos ⟨hoff, hmask⟩) (by decide))
  · refine congrArg Host.Outcome.next (hready hop _ _ hr (if_neg ?_))
    rintro ⟨hoff, hset⟩
    rcases hmask with h | h
    · exact absurd (hoff.symm.trans h) (by decide)
    · exact hset h
  · exact congrArg Host.Outcome.next (hready hop _ _ hr rfl)
  · refine (execEnrol_eq q s).trans (congrArg Host.Outcome.next ((hready hop _ _ ⟨hc, .inr hfirst⟩ (if_pos hfirst)).trans ?_))
    rw [State.enrolled, if_pos (show (s.unqueued rest).firstEnrol q = true from hfirst)]
    rfl
  · have hother : ¬(s.unqueued rest).firstEnrol q = true := Bool.eq_false_iff.1 hfirst
    refine (execEnrol_eq q s).trans (congrArg Host.Outcome.next ((hready hop _ _ hr ((if_neg hother).trans (if_neg ?_))).trans ?_))
    · rintro (h | h)
      · exact hlen h
      · exact Option.isSome_iff_ne_none.1 h hslot
    · rw [State.enrolled, if_neg hother]
      rfl
  · exact (execEnrol_eq q s).trans (congrArg Host.Outcome.next (hrefused hop _ _ hc ((if_neg (Bool.eq_false_iff.1 hfirst)).trans (if_pos hslot)) (by decide)))
  · exact congrArg Host.Outcome.next (hrefused hop _ _ hc (if_pos (hslot.imp_right Option.isNone_iff_eq_none.2)) (by decide))
  · refine congrArg Host.Outcome.next (hready hop _ _ hr (if_neg ?_))
    rintro (h | h)
    · exact absurd htwo (Nat.not_lt.2 h)
    · exact Option.isSome_iff_ne_none.1 hslot (Option.isNone_iff_eq_none.1 h)
  · exact congrArg Host.Outcome.next (hrefused hop _ _ hc (if_pos (.inl ⟨hp, hv⟩)) (by decide))
  · refine (congrArg Host.Outcome.next (State.handle_of_gate hqueue herr hop _ _ hc ((if_neg ?_).trans (if_pos ?_)))).trans (by rw [hop]; rfl)
    · rintro (⟨h, -⟩ | ⟨h, -⟩)
      · exact absurd (hp.symm.trans h) (by decide)
      · exact absurd (hp.symm.trans h) (by decide)
    · exact (congrArg Bool.not hgate :)
  · refine (execFuse_eq q s).trans (congrArg Host.Outcome.next ((hready hop _ _ hr ((if_neg ?_).trans (if_neg ?_))).trans ?_))
    · rintro (⟨-, h⟩ | ⟨h, -⟩)
      · exact absurd hv (Nat.not_lt.2 h)
      · exact absurd (hp.symm.trans h) (by decide)
    · exact Bool.eq_false_iff.1 (congrArg Bool.not hgate :)
    · rw [State.fused, if_pos hp, hop]
      rfl
  · exact congrArg Host.Outcome.next (hready hop _ _ hr rfl)
  · exact congrArg Host.Outcome.next (State.handle_of_noSetup hqueue herr hop _ _ hc rfl hsetup hfirst)
  · exact execPcr_of_size hhead hwait hblock hop hn (some q)
  · exact (execPcr_eq hhead hwait hblock hop (by omega) q).trans (congrArg _ (if_pos (by rw [herr, decide_eq_true hfull]; rfl)))
  · refine (execPcr_eq hhead hwait hblock hop (by omega) q).trans (congrArg _ ((if_neg ?_).trans (if_neg (by omega))))
    rw [herr, decide_eq_false (Nat.not_le.2 hfree)]
    exact Bool.false_ne_true
  · exact congrArg _ (if_neg (by rw [Bool.not_true, Bool.and_false]; exact Bool.false_ne_true))
  · exact congrArg _ ((if_pos (by rw [hon]; rfl)).trans (s.secFails_of_running herr))
  · exact congrArg _ ((if_pos hon).trans (s.secFails_of_running herr))


/-! ### Secure messages (O53) -/

section
variable {s : State} {req : Bytes}

/-- In the error state every request is answered with it. -/
theorem State.spdm_of_error (hon : s.boot.alwaysOn = true) (herr : s.sec.error = true) (first : Bool) (f : State → State) :
    s.spdm first req f = s.answer .errorState := by
  rw [State.spdm, if_neg (by rw [hon]; decide), if_pos herr]

/-- A request of the version that the core speaks is done. -/
theorem State.spdm_of_version (hon : s.boot.alwaysOn = true) (hok : s.sec.error = false ∧ byteAt req 0 = 0x13) (first : Bool) (f : State → State) :
    s.spdm first req f = f s := by
  rw [State.spdm, if_neg (by rw [hon]; decide), if_neg (by rw [hok.1]; decide), if_pos (.inl hok.2)]

/-- GET_VERSION may carry version 1.0. -/
theorem State.spdm_of_first (hon : s.boot.alwaysOn = true) (herr : s.sec.error = false) (hv : byteAt req 0 = 0x10) (f : State → State) :
    s.spdm true req f = f s := by
  rw [State.spdm, if_neg (by rw [hon]; decide), if_neg (by rw [herr]; decide), if_pos (.inr ⟨rfl, hv⟩)]

/-- A request of another version is answered with the mismatch. -/
theorem State.spdm_of_other (hon : s.boot.alwaysOn = true) (herr : s.sec.error = false) (hne : byteAt req 0 ≠ 0x13) {first : Bool}
    (hold : first = true → byteAt req 0 ≠ 0x10) (f : State → State) : s.spdm first req f = s.answer .versionMismatch := by
  rw [State.spdm, if_neg (by rw [hon]; decide), if_neg (by rw [herr]; decide), if_neg]
  rintro (h | ⟨hf, h⟩)
  · exact hne h
  · exact hold hf h

/-- A request in an open session changes the sessions and is answered. -/
theorem State.inSession_of_open {id : Nat} (hopen : s.sec.sessions.any (fun x => decide (x.id = id)) = true) (f : List Session → List Session) :
    s.inSession id req f = ({ s with sec := { s.sec with sessions := f s.sec.sessions } }).respond [] req := if_pos hopen

theorem State.inSession_of_closed {id : Nat} (hclosed : ¬s.sec.sessions.any (fun x => decide (x.id = id)) = true) (f : List Session → List Session) :
    s.inSession id req f = s.answer .unsupportedRequest := if_neg hclosed

/-- The six requests that only ask. -/
theorem exec_asking {i : Instr} (hi : i = .getVersion req ∨ i = .getCapabilities req ∨ i = .negotiateAlgorithms req ∨ i = .getDigests req ∨
    i = .getCertificate req ∨ i = .challenge req) : ∃ first : Bool, exec i s = .next (s.spdm first req fun t => t.respond [] req) := by
  rcases hi with rfl | rfl | rfl | rfl | rfl | rfl
  · exact ⟨true, rfl⟩
  · exact ⟨false, rfl⟩
  · exact ⟨false, rfl⟩
  · exact ⟨false, rfl⟩
  · exact ⟨false, rfl⟩
  · exact ⟨false, rfl⟩

/-- With four sessions open no number is free. -/
theorem State.freeSession_of_full (hall : ∀ i, i < 4 → ∃ x ∈ s.sec.sessions, x.id = i) : s.freeSession = none := by
  refine List.find?_eq_none.2 fun i hi => ?_
  obtain ⟨x, hx, hid⟩ := hall i (List.mem_range.1 hi)
  rw [Bool.not_eq_true', Bool.not_eq_false]
  exact List.any_eq_true.2 ⟨x, hx, decide_eq_true hid⟩

/-- A KEY_EXCHANGE opens the session of the least free number. -/
theorem State.openSession_of_free {i : Nat} (hfree : s.freeSession = some i) : s.openSession req =
    ({ s with sec := { s.sec with sessions := s.sec.sessions ++ [(⟨i, false, 0⟩ : Session)] } }).respond [] req := by
  rw [State.openSession, hfree]

theorem State.openSession_of_none (hfree : s.freeSession = none) : s.openSession req = s.answer .busy := by
  rw [State.openSession, hfree]

/-- A request code outside the subset. -/
theorem State.spdmMessage_of_zero (hcode : byteAt req 1 = 0) : s.spdmMessage req = s.spdm true req fun t => t.answer .unsupportedRequest := by
  rw [State.spdmMessage, hcode]
  rfl

theorem State.spdmMessage_of_measurements (hcode : byteAt req 1 = 0xE0) :
    s.spdmMessage req = s.spdm false req fun t => t.respond ((askedMeasurements req).flatMap t.measurement) req := by
  rw [State.spdmMessage, hcode]
  rfl

/-- SPDM messages of MCTP. -/
theorem execMctpMessage_spdm (hon : s.boot.alwaysOn = true) : execMctpMessage 5 req s = .next (s.spdmMessage req) := by
  rw [execMctpMessage, if_neg (by rw [hon]; decide), if_pos rfl]

/-- Management commands of MCTP join the queue. -/
theorem execMctpMessage_command (hon : s.boot.alwaysOn = true) (hmin : 1 ≤ byteAt req 0) (hmax : byteAt req 0 ≤ 6) : execMctpMessage 0x7E req s =
    .next { s with mgt := { s.mgt with cmds := s.mgt.cmds ++ [{ op := byteAt req 0, port := 0, seq := none, block := some (req.drop 1) }] } } := by
  rw [execMctpMessage, if_neg (by rw [hon]; decide), if_neg (by decide), if_pos (.inl rfl)]
  exact congrArg _ (if_pos ⟨hmin, hmax⟩)

end

/-- Settles O53: a request meets the error state, then the version, then its own answer. That a management command in an MCTP message has its OP in byte 0, and
that a session takes the lowest free number, are the model's choice (notes/assumptions/27.md and 90.md). -/
theorem secureMessages : Obligations.SecureMessages := by
  intro s id req hon ok answered tells sess isOpen
  have hdo := fun (hok : ok) (f : State → State) => State.spdm_of_version hon hok false f
  refine ⟨fun i hi => ?_, fun herr hv => ⟨?_, ?_⟩, fun hok => ?_, fun hok hfree => ?_, fun i hok hfree => ?_, fun hok hopen => ?_, fun hok hclosed => ?_,
    State.freeSession_of_full, fun i hlo hhi => if_pos ⟨hlo, hhi⟩, fun hcode hok => ?_, fun hcode hok => ?_, execMctpMessage_command hon⟩
  · obtain ⟨first, hexec⟩ := exec_asking (s := s) hi
    exact ⟨fun herr => hexec.trans (congrArg _ (State.spdm_of_error hon herr _ _)), fun hok => hexec.trans (congrArg _ (State.spdm_of_version hon hok _ _)),
      fun herr hne hold => hexec.trans (congrArg _ (State.spdm_of_other hon herr hne (fun _ => hold) _))⟩
  · exact congrArg Host.Outcome.next (State.spdm_of_first hon herr hv _)
  · exact congrArg Host.Outcome.next (State.spdm_of_other hon herr (by omega) (fun h => absurd h (by decide)) _)
  · exact congrArg Host.Outcome.next (hdo hok _)
  · exact congrArg Host.Outcome.next ((hdo hok _).trans (State.openSession_of_none hfree))
  · exact congrArg Host.Outcome.next ((hdo hok _).trans (State.openSession_of_free hfree))
  · exact ⟨congrArg Host.Outcome.next ((hdo hok _).trans (State.inSession_of_open hopen _)),
      congrArg Host.Outcome.next ((hdo hok _).trans (State.inSession_of_open hopen _)),
      congrArg Host.Outcome.next ((hdo hok _).trans (State.inSession_of_open hopen _)),
      congrArg Host.Outcome.next ((hdo hok _).trans (State.inSession_of_open hopen _))⟩
  · exact ⟨congrArg Host.Outcome.next ((hdo hok _).trans (State.inSession_of_closed hclosed _)),
      congrArg Host.Outcome.next ((hdo hok _).trans (State.inSession_of_closed hclosed _)),
      congrArg Host.Outcome.next ((hdo hok _).trans (State.inSession_of_closed hclosed _)),
      congrArg Host.Outcome.next ((hdo hok _).trans (State.inSession_of_closed hclosed _))⟩
  · exact (execMctpMessage_spdm hon).trans (congrArg Host.Outcome.next ((State.spdmMessage_of_measurements hcode).trans (hdo hok _)))
  · exact (execMctpMessage_spdm hon).trans (congrArg Host.Outcome.next ((State.spdmMessage_of_zero hcode).trans (State.spdm_of_version hon hok true _)))

end Sys2Proof.Machine

/-! SUPPORT. The statements of chapter 18's family: configuration registers (O59) and captured reads (O60). -/

namespace Sys2Proof.Machine

/-! ### Configuration registers (O59) -/

/-- Settles O59: each of these commands is one write under the reserved-bit rule, at a register that is not HIF_STAT itself. That a changed reserved bit counts in
RSVD, or sets TESTRSV, is deduced (notes/assumptions/96.md), and so is that writes to the welt's blocks are ignored while its rails are down (25.md). -/
theorem configurationWrites : Obligations.ConfigurationWrites := by
  intro s v p ok hp
  have hpart : Reg.GLB_PRECISION_CFG p ≠ Reg.HIF_STAT ∧ Reg.GLB_PMODE p ≠ Reg.HIF_STAT := by
    simp only [Reg.GLB_PRECISION_CFG, Reg.GLB_PMODE, Reg.HIF_STAT]
    omega
  have hrw : ∀ {c : Instr} {a : Nat} {m ro : Word}, exec c s = .next (s.writeRW a m ro v) → a ≠ Reg.HIF_STAT → Rewrites c s a m ro v :=
    fun hexec ha => State.writeRW_rewrites ok _ _ _ v ha _ hexec
  refine ⟨fun hup => hrw (congrArg _ (if_neg (by rw [hup]; decide))) (by decide), fun hdown => ?_, hrw rfl hpart.1, hrw rfl hpart.2, hrw rfl (by decide),
    hrw rfl (by decide), hrw rfl (by decide), hrw rfl (by decide), hrw rfl (by decide)⟩
  have hor : ∀ b, (s.weltDown || b) = true := fun b => by rw [hdown, Bool.true_or]
  simp only [List.forall_mem_cons]
  exact ⟨congrArg _ (if_pos hdown), congrArg _ (if_pos hdown), congrArg _ (if_pos hdown), congrArg _ (if_pos hdown), congrArg _ (if_pos hdown),
    congrArg _ (if_pos (hor _)), congrArg _ (if_pos (hor _)), congrArg _ (if_pos (hor _)), List.forall_mem_nil _⟩

/-! ### Captured reads (O60) -/

/-- The high halves in a region's window. -/
theorem captured_window {r o : Nat} (hr : r < 896) (ho : o = 0xB18 ∨ o = 0xB2C ∨ o = 0xB34) :
    (winBase r + o) % 4 = 0 ∧ isCaptured (winBase r + o) = true := by
  have hwindow : inWindow (winBase r + o) = true := by
    rw [inWindow, Bool.and_eq_true, decide_eq_true_iff, decide_eq_true_iff, winBase, winBase]
    omega
  have hoffset : winOffset (winBase r + o) = o := by
    rw [winOffset, winBase]
    omega
  refine ⟨by rw [winBase]; omega, ?_⟩
  rw [isCaptured, hwindow, hoffset]
  simp [ho]

/-- The high halves of each partition. -/
theorem captured_partition : ∀ p, p < 64 → (Reg.SRV_PIDLE_HI p % 4 = 0 ∧ isCaptured (Reg.SRV_PIDLE_HI p) = true) ∧
    (Reg.GLB_LOCK_EPOCH_HI p % 4 = 0 ∧ isCaptured (Reg.GLB_LOCK_EPOCH_HI p) = true) := by decide

/-- A capture is its port's next read of that half, and leaves every other capture. -/
theorem State.capture_get {s : State} (ok : Canonical s) (port a b : Nat) (v : Word) :
    tabGet 0 (s.capture port a v).capt b = if b = 2 * a + port % 2 then v else tabGet 0 s.capt b := tabGet_tabSet _ _ _ (tabWf_sorted ok.capt)

theorem Canonical.capture {s : State} (ok : Canonical s) (port a : Nat) (v : Word) : Canonical (s.capture port a v) := (State.capture_kept ok.kept port a v).ok

/-- Words 1 to 3 of a fault record are captured one after another, each at a place of its own (R432). -/
theorem fltLogData0Read_captures {s : State} (ok : Canonical s) (port : Nat) : Completes (.fltLogData0Read port) s fun t => t = { s with capt := t.capt } ∧
    ∀ i, 0 < i → i < 4 → t.hostRead port (Reg.FLT_LOG_DATA i) = BitVec.ofNat 32 (leAt s.fltEntry (4 * i) 4) := by
  let word := fun i => BitVec.ofNat 32 (leAt s.fltEntry (4 * i) 4)
  let u := (s.capture port (Reg.FLT_LOG_DATA 1) (word 1)).capture port (Reg.FLT_LOG_DATA 2) (word 2)
  have hu : Canonical u := (ok.capture _ _ _).capture _ _ _
  refine ⟨u.capture port (Reg.FLT_LOG_DATA 3) (word 3), rfl, rfl, fun i hpos hlt => ?_⟩
  have hcap : Reg.FLT_LOG_DATA i / 4 * 4 = Reg.FLT_LOG_DATA i ∧ isCaptured (Reg.FLT_LOG_DATA i) = true := by interval_cases i <;> decide
  rw [State.hostRead, hcap.1, if_pos hcap.2, State.capture_get hu, State.capture_get (ok.capture _ _ _), State.capture_get ok]
  interval_cases i <;> simp [Reg.FLT_LOG_DATA, word]

/-- Settles O60: each read captures for the register of its partner, which is one of those that return a capture. -/
theorem capturedReads : Obligations.CapturedReads := by
  intro s port p r _ hp hr ok
  have hcap : ∀ {c : Instr} {hi : Nat} {v : Word}, exec c s = .next (s.capture port hi v) → hi % 4 = 0 ∧ isCaptured hi = true → Captures c s port hi v :=
    fun hexec hhi => State.capture_captures ok port _ _ _ hexec hhi.1 hhi.2
  obtain ⟨hidle, hepoch⟩ := captured_partition p hp
  have hhalf : ∀ n : Nat, n / 2 ^ 32 = n >>> 32 := fun n => (Nat.shiftRight_eq_div_pow n 32).symm
  rw [hhalf (tabGet 0 s.srv.idle p), hhalf (s.lockEpoch p)]
  exact ⟨hcap rfl (by decide), hcap rfl (by decide), hcap rfl (by decide), hcap rfl (by decide), hcap rfl (by decide), hcap rfl (by decide),
    hcap rfl (by decide), hcap rfl (captured_window hr (by decide)), hcap rfl (captured_window hr (by decide)), hcap rfl (captured_window hr (by decide)),
    hcap rfl hidle, hcap rfl hepoch, hcap rfl (by decide), hcap rfl (by decide), fltLogData0Read_captures ok port⟩


/-! ### Doorbells, ring set-up and fetches (O54) -/

section
variable {s : State} {p n : Nat}

/-- A doorbell's index rule. -/
theorem indexOk_iff (pi ci v n : Nat) : indexOk pi ci v n = true ↔ indexDiff pi ci ≤ indexDiff v ci ∧ indexDiff v ci ≤ n := by
  rw [indexOk, Bool.and_eq_true, decide_eq_true_iff, decide_eq_true_iff]

/-- The registers of a ring set are apart from each other. -/
theorem ringRegs_apart (p : Nat) (hp : p < 64) : Reg.HIF_RCFG p ≠ Reg.HIF_STAT ∧ Reg.HIF_RCFG p ≠ Reg.HIF_RSTAT p ∧ Reg.HIF_RCFG p ≠ Reg.HIF_CSTAT p ∧
    Reg.HIF_RSTAT p ≠ Reg.HIF_CSTAT p ∧ Reg.HIF_CSTAT p ≠ Reg.HIF_STAT ∧ Reg.HIF_RSTAT p ≠ Reg.HIF_STAT := by
  simp only [Reg.HIF_RCFG, Reg.HIF_STAT, Reg.HIF_RSTAT, Reg.HIF_CSTAT]
  omega

/-- The registers of a transfer ring are apart from each other. -/
theorem xferRegs_apart (n : Nat) : Reg.HIF_XFERn_CFG n ≠ Reg.HIF_STAT ∧ Reg.HIF_XFERn_STAT n ≠ Reg.HIF_XFERn_CFG n := by
  simp only [Reg.HIF_XFERn_CFG, Reg.HIF_XFERn_STAT, Reg.HIF_STAT]
  omega

/-- The indices of a ring set when it is turned on. -/
def Rings.started (x : Rings) : Rings :=
  { x with cmdPi := if x.cmdEarly then x.cmdPi else 0, assPi := if x.assEarly then x.assPi else 0, cplCi := 0, cmdEarly := false, assEarly := false }

theorem State.enableRings_eq (s : State) (p : Nat) : s.enableRings p =
    ((s.wr (Reg.HIF_RSTAT p) 0).wr (Reg.HIF_CSTAT p) (s.rd (Reg.HIF_CSTAT p) &&& 0xFF)).setRings p (s.rings p).started := rfl

/-- A field of a word under a mask of its lowest byte. -/
theorem field_lowByte (x : Word) : field (x &&& 0xFF) 31 16 = 0 ∧ field (x &&& 0xFF) 7 0 = field x 7 0 := by
  have hand : (x &&& 0xFF).toNat = x.toNat % 256 := by
    rw [BitVec.toNat_and]
    exact Nat.and_two_pow_sub_one_eq_mod x.toNat 8
  constructor
  · rw [field, hand, Nat.shiftRight_eq_div_pow]
    omega
  · rw [field, field, hand, Nat.shiftRight_zero, Nat.shiftRight_zero]
    omega

/-- A ring set turned on has its indices clear. -/
theorem State.enableRings_shows (ok : Canonical s) (hp : p < 64) : (s.enableRings p).rd (Reg.HIF_RCFG p) = s.rd (Reg.HIF_RCFG p) ∧
    (s.enableRings p).rd (Reg.HIF_RSTAT p) = 0 ∧ (s.enableRings p).rd (Reg.HIF_CSTAT p) = s.rd (Reg.HIF_CSTAT p) &&& 0xFF ∧
    (s.enableRings p).hif = { s.hif with rings := tabSet Rings.zero s.hif.rings p (s.rings p).started } ∧
    OnlyRegs [Reg.HIF_RSTAT p, Reg.HIF_CSTAT p] { s with hif := (s.enableRings p).hif } (s.enableRings p) := by
  obtain ⟨-, hcr, hcc, hrc, -, -⟩ := ringRegs_apart p hp
  have hone := ok.wr (Reg.HIF_RSTAT p) 0
  have hread : ∀ a, (s.enableRings p).rd a = ((s.wr (Reg.HIF_RSTAT p) 0).wr (Reg.HIF_CSTAT p) (s.rd (Reg.HIF_CSTAT p) &&& 0xFF)).rd a := fun _ => rfl
  refine ⟨?_, ?_, ?_, rfl, rfl, fun a ha => ?_⟩
  · rw [hread, State.rd_wr_ne hone _ hcc, State.rd_wr_ne ok _ hcr]
  · rw [hread, State.rd_wr_ne hone _ hrc, State.rd_wr_same ok]
  · rw [hread, State.rd_wr_same hone]
  · simp only [List.mem_cons, List.not_mem_nil, or_false, not_or] at ha
    rw [hread, State.rd_wr_ne hone _ ha.2, State.rd_wr_ne ok _ ha.1]
    rfl

/-- A doorbell of the command ring. -/
theorem execCmdPi_eq (p : Nat) (v : Word) (s : State) : execCmdPi p v s = .next (
    if indexOk (s.rings p).cmdPi (s.fld (Reg.HIF_RSTAT p) 31 16) (field v 15 0) (s.cmdSize p) then
      s.setRings p { s.rings p with cmdPi := field v 15 0, cmdEarly := (s.rings p).cmdEarly || !(s.ringOn p) }
    else s.badBell p) := rfl

/-- A doorbell of the assist ring. -/
theorem execAssPi_eq (p : Nat) (v : Word) (s : State) : execAssPi p v s = .next (
    if indexOk (s.rings p).assPi (s.fld (Reg.HIF_RSTAT p) 15 0) (field v 15 0) (s.assSize p) then
      s.setRings p { s.rings p with assPi := field v 15 0, assEarly := (s.rings p).assEarly || !(s.ringOn p) }
    else s.badBell p) := rfl

/-- A transfer ring whose producer index was written while it was off. -/
def State.xferNoted (s : State) (n : Nat) : State := { s with hif := { s.hif with xferEarly := s.hif.xferEarly.set n true } }

/-- A doorbell of a transfer ring moves its index, which is kept when the ring is off. -/
theorem execXferPi_eq (ok : Canonical s) (n : Nat) (v : Word) : execXferPi n v s = .next (
    if indexOk (s.fld (Reg.HIF_XFERn_STAT n) 31 16) (s.fld (Reg.HIF_XFERn_STAT n) 15 0) (field v 15 0) (s.xferSize n) then
      if flag (s.rd (Reg.HIF_XFERn_CFG n)) 31 then s.setFld (Reg.HIF_XFERn_STAT n) 31 16 (field v 15 0)
      else (s.setFld (Reg.HIF_XFERn_STAT n) 31 16 (field v 15 0)).xferNoted n
    else s) := by
  have hcfg : (s.setFld (Reg.HIF_XFERn_STAT n) 31 16 (field v 15 0)).rd (Reg.HIF_XFERn_CFG n) = s.rd (Reg.HIF_XFERn_CFG n) :=
    State.rd_wr_ne ok _ (xferRegs_apart n).2.symm
  rw [execXferPi]
  dsimp only
  rw [hcfg]
  rfl

theorem execRingCfgWrite_of_on (hon : s.ringOn p = true) (v : Word) : execRingCfgWrite p v s = .next (s.writeRW (Reg.HIF_RCFG p) 0x80000000 0x40000FFF v) :=
  congrArg _ (if_pos hon)

theorem execRingCfgWrite_of_off (hoff : s.ringOn p = false) (v : Word) : execRingCfgWrite p v s = .next (
    if flag v 31 then (s.writeRW (Reg.HIF_RCFG p) 0xC0000FFF 0 v).enableRings p else s.writeRW (Reg.HIF_RCFG p) 0xC0000FFF 0 v) := by
  rw [execRingCfgWrite, if_neg (Bool.eq_false_iff.1 hoff)]

/-- A ring set turned on. -/
theorem ringCfgWrite_enables (ok : Canonical s) (hp : p < 64) {v : Word} (hoff : s.ringOn p = false) (hv : flag v 31 = true) :
    Completes (.ringCfgWrite p v) s fun t => t.ringOn p = true ∧ t.rd (Reg.HIF_RSTAT p) = 0 ∧ t.fld (Reg.HIF_CSTAT p) 31 16 = 0 ∧
      t.fld (Reg.HIF_CSTAT p) 7 0 = s.fld (Reg.HIF_CSTAT p) 7 0 ∧ t.hif = { s.hif with rings := tabSet Rings.zero s.hif.rings p (s.rings p).started } ∧
      OnlyRegs [Reg.HIF_RCFG p, Reg.HIF_RSTAT p, Reg.HIF_CSTAT p, Reg.HIF_STAT] { s with hif := t.hif } t := by
  obtain ⟨-, -, hcc, -, hcs, -⟩ := ringRegs_apart p hp
  obtain ⟨honly, hrd⟩ := State.writeRW_frame ok (Reg.HIF_RCFG p) 0xC0000FFF 0 v
  have hflag := State.flag_writeRW ok (Reg.HIF_RCFG p) (m := 0xC0000FFF) 0 v (i := 31) (by decide)
  have hok := (State.writeRW_kept ok.kept (Reg.HIF_RCFG p) 0xC0000FFF 0 v).ok
  have hbad : (s.writeRW (Reg.HIF_RCFG p) 0xC0000FFF 0 v).rd (Reg.HIF_CSTAT p) = s.rd (Reg.HIF_CSTAT p) := honly.2 _ (by simp [hcs, hcc.symm])
  have hhif : (s.writeRW (Reg.HIF_RCFG p) 0xC0000FFF 0 v).hif = s.hif := (congrArg State.hif honly.1 :)
  refine ⟨_, (execRingCfgWrite_of_off hoff v).trans (congrArg _ (if_pos hv)), ?_⟩
  generalize s.writeRW (Reg.HIF_RCFG p) 0xC0000FFF 0 v = u at *
  obtain ⟨hcfg, hrstat, hcstat, hrings, hframe⟩ := State.enableRings_shows hok hp
  have hx : u.rings p = s.rings p := by rw [State.rings, hhif, State.rings]
  refine ⟨?_, hrstat, ?_, ?_, ?_, ?_⟩
  · rw [State.ringOn, hcfg, hflag, hv]
  · rw [State.fld, hcstat, (field_lowByte _).1]
  · rw [State.fld, hcstat, (field_lowByte _).2, hbad, State.fld]
  · rw [hrings, hhif, hx]
  · have hsame : OnlyRegs [Reg.HIF_STAT, Reg.HIF_RCFG p] { s with hif := (u.enableRings p).hif } { u with hif := (u.enableRings p).hif } :=
      ⟨by rw [honly.1], honly.2⟩
    exact (hsame.trans hframe).mono (by simp)

theorem execXferCfgWrite_of_on (hon : flag (s.rd (Reg.HIF_XFERn_CFG n)) 31 = true) (v : Word) :
    execXferCfgWrite n v s = .next (s.writeRW (Reg.HIF_XFERn_CFG n) 0x80000000 0x4000000F v) := congrArg _ (if_pos hon)

/-- A transfer ring turned on keeps an index written before. -/
def State.enableXfer (s : State) (n : Nat) : State :=
  let t := (s.setFld (Reg.HIF_XFERn_CFG n) 30 30 0).wr (Reg.HIF_XFERn_STAT n)
    (if s.hif.xferEarly.getD n false then s.rd (Reg.HIF_XFERn_STAT n) &&& 0xFFFF0000 else 0)
  { t with hif := { t.hif with xferEarly := t.hif.xferEarly.set n false } }

theorem execXferCfgWrite_of_off (hoff : flag (s.rd (Reg.HIF_XFERn_CFG n)) 31 = false) (v : Word) : execXferCfgWrite n v s = .next (
    if flag v 31 then (s.writeRW (Reg.HIF_XFERn_CFG n) 0x8000000F 0x40000000 v).enableXfer n
    else s.writeRW (Reg.HIF_XFERn_CFG n) 0x8000000F 0x40000000 v) := by
  rw [execXferCfgWrite]
  dsimp only
  rw [if_neg (Bool.eq_false_iff.1 hoff)]
  rfl

theorem State.enableXfer_rd (s : State) (n a : Nat) : (s.enableXfer n).rd a = ((s.setFld (Reg.HIF_XFERn_CFG n) 30 30 0).wr (Reg.HIF_XFERn_STAT n)
    (if s.hif.xferEarly.getD n false then s.rd (Reg.HIF_XFERn_STAT n) &&& 0xFFFF0000 else 0)).rd a := rfl

/-- A transfer ring turned on. -/
theorem xferCfgWrite_enables (ok : Canonical s) {v : Word} (hoff : flag (s.rd (Reg.HIF_XFERn_CFG n)) 31 = false) (hv : flag v 31 = true)
    (hearly : s.hif.xferEarly.getD n false = false) : Completes (.xferCfgWrite n v) s fun t =>
      flag (t.rd (Reg.HIF_XFERn_CFG n)) 31 = true ∧ flag (t.rd (Reg.HIF_XFERn_CFG n)) 30 = false ∧ t.rd (Reg.HIF_XFERn_STAT n) = 0 := by
  obtain ⟨-, hne⟩ := xferRegs_apart n
  have honly := (State.writeRW_frame ok (Reg.HIF_XFERn_CFG n) 0x8000000F 0x40000000 v).1
  have hflag := State.flag_writeRW ok (Reg.HIF_XFERn_CFG n) (m := 0x8000000F) 0x40000000 v (i := 31) (by decide)
  have hok := (State.writeRW_kept ok.kept (Reg.HIF_XFERn_CFG n) 0x8000000F 0x40000000 v).ok
  have hhif : (s.writeRW (Reg.HIF_XFERn_CFG n) 0x8000000F 0x40000000 v).hif = s.hif := (congrArg State.hif honly.1 :)
  refine ⟨_, (execXferCfgWrite_of_off hoff v).trans (congrArg _ (if_pos hv)), ?_⟩
  generalize s.writeRW (Reg.HIF_XFERn_CFG n) 0x8000000F 0x40000000 v = u at *
  have herr := hok.setFld (Reg.HIF_XFERn_CFG n) 30 30 0
  have hcfg : (u.enableXfer n).rd (Reg.HIF_XFERn_CFG n) = setField (u.rd (Reg.HIF_XFERn_CFG n)) 30 30 0 := by
    rw [State.enableXfer_rd, State.rd_wr_ne herr _ hne.symm, State.rd_setFld hok, if_pos rfl]
  refine ⟨?_, ?_, ?_⟩
  · rw [hcfg, flag_setField_apart _ _ _ _ _ (by decide), hflag, hv]
  · rw [hcfg, flag_setField _ _ _ (by decide)]
    rfl
  · rw [State.enableXfer_rd, State.rd_wr_same herr, hhif, hearly]
    rfl

/-- The ring set with one more completion reserved, after the entry that it has consumed. -/
def State.entryTaken (s : State) (p : Nat) (assist : Bool) : State :=
  (if assist then s.bump (Reg.HIF_RSTAT p) 15 0 else s.bump (Reg.HIF_RSTAT p) 31 16).setRings p { s.rings p with reserved := (s.rings p).reserved + 1 }

/-- An entry that a ring set hands on. -/
def State.entryGiven (s : State) (p : Nat) (assist : Bool) (e : Bytes) : State :=
  s.setRings p { s.rings p with taken := (s.rings p).taken ++ [(assist, e)] }

section
variable {assist : Bool}

theorem execRingEntryFetch_of_idle (hidle : s.mayFetch p assist = false) (e : Option Bytes) : execRingEntryFetch p assist e s = .next s :=
  congrArg _ (if_pos (by rw [hidle]; rfl))

variable (hmay : s.mayFetch p assist = true)
include hmay

/-- A host memory error stops the ring set. -/
theorem execRingEntryFetch_of_error : execRingEntryFetch p assist none s =
    .next ((s.setFld (Reg.HIF_RCFG p) 31 31 0).setFld (Reg.HIF_CSTAT p) 15 15 1) := congrArg _ (if_neg (by rw [hmay]; exact Bool.false_ne_true))

/-- An entry is consumed, and completes at once when its OP is outside the table. -/
theorem execRingEntryFetch_eq (e : Bytes) : execRingEntryFetch p assist (some e) s = .next (
    if (assist && (decide (byteAt e 0 = 0) || decide (3 < byteAt e 0))) = true then (s.entryTaken p assist).complete p (byteAt e 0) 1 1 (slice e 8 4) []
    else if (!assist && (decide (byteAt e 0 = 0) || decide (8 < byteAt e 0))) = true then
      (s.entryTaken p assist).complete p (byteAt e 0) 7 0 (slice e 8 4) []
    else (s.entryTaken p assist).entryGiven p assist e) := by
  rw [execRingEntryFetch, if_neg (by rw [hmay]; exact Bool.false_ne_true)]
  cases assist <;> rfl

end

end

/-- Settles O54: a doorbell, a set-up write and a fetch each take the branch of their rule. That a producer index written early is kept (notes/assumptions/29.md),
that a doorbell has 16 bits and that an ignored XFER_PI is not counted (134.md), and what a ring's error leaves (136.md) is deduced. -/
theorem hostRings : Obligations.HostRings := by
  intro s p n v assist e ok hp hn
  obtain ⟨hrcfg, -⟩ := ringRegs_apart p hp
  have hxcfg := (xferRegs_apart n).1
  refine ⟨fun h => (execCmdPi_eq p v s).trans (congrArg _ (if_pos ((indexOk_iff _ _ _ _).2 h))),
    fun h => (execCmdPi_eq p v s).trans (congrArg _ (if_neg (h ∘ (indexOk_iff _ _ _ _).1))),
    fun h => (execAssPi_eq p v s).trans (congrArg _ (if_pos ((indexOk_iff _ _ _ _).2 h))),
    fun h => (execAssPi_eq p v s).trans (congrArg _ (if_neg (h ∘ (indexOk_iff _ _ _ _).1))),
    fun h => congrArg _ (if_pos h), fun h => congrArg _ (if_neg (Nat.not_le.2 h)), rfl,
    fun h hon => (execXferPi_eq ok n v).trans (congrArg _ ((if_pos ((indexOk_iff _ _ _ _).2 h)).trans (if_pos hon))),
    fun h hoff => (execXferPi_eq ok n v).trans (congrArg _ ((if_pos ((indexOk_iff _ _ _ _).2 h)).trans (if_neg (Bool.eq_false_iff.1 hoff)))),
    fun h => (execXferPi_eq ok n v).trans (congrArg _ (if_neg (h ∘ (indexOk_iff _ _ _ _).1))),
    fun hon => State.writeRW_rewrites ok _ _ _ v hrcfg _ (execRingCfgWrite_of_on hon v),
    fun hoff hv => State.writeRW_rewrites ok _ _ _ v hrcfg _ ((execRingCfgWrite_of_off hoff v).trans (congrArg _ (if_neg (Bool.eq_false_iff.1 hv)))),
    ringCfgWrite_enables ok hp,
    fun hon => State.writeRW_rewrites ok _ _ _ v hxcfg _ (execXferCfgWrite_of_on hon v),
    fun hoff hv => State.writeRW_rewrites ok _ _ _ v hxcfg _ ((execXferCfgWrite_of_off hoff v).trans (congrArg _ (if_neg (Bool.eq_false_iff.1 hv)))),
    xferCfgWrite_enables ok, fun hidle => execRingEntryFetch_of_idle hidle (some e),
    fun hmay => ⟨execRingEntryFetch_of_error hmay, fun hcmd hop => ?_, fun hass hop => ?_, fun hmin hmax => ?_⟩⟩
  · refine (execRingEntryFetch_eq hmay e).trans (congrArg _ ((if_neg ?_).trans (if_pos ?_)))
    · simp [hcmd]
    · simpa [hcmd] using hop
  · refine (execRingEntryFetch_eq hmay e).trans (congrArg _ (if_pos ?_))
    simpa [hass] using hop
  · refine (execRingEntryFetch_eq hmay e).trans (congrArg _ ((if_neg ?_).trans (if_neg ?_)))
    · cases assist with
      | false => simp
      | true => simp at hmax ⊢; omega
    · cases assist with
      | false => simp at hmax ⊢; omega
      | true => simp


/-! ### Assist entries and transfer entries (O55) -/

section
variable {s t : State} {p : Nat} {e : Bytes} (htake : s.takeRing p true e = some t)
include htake

section
variable (hop : byteAt e 0 = 1)
include hop

/-- A KEEPER entry is refused for its mode. -/
theorem execKeeper_of_mode (h2 : s.hostMode p 2 = false) (h3 : s.hostMode p 3 = false) : execKeeper p e s = .next (t.assistDone p e 6) := by
  rw [execKeeper, if_neg (not_not.2 hop), htake]
  exact congrArg _ (if_pos (by rw [h2, h3]; rfl))

variable (hmode : s.hostMode p 2 = true ∨ s.hostMode p 3 = true)
include hmode

/-- A KEEPER entry in its mode is refused for its form, or reaches the owner of its pages. -/
theorem execKeeper_of_open : execKeeper p e s = .next (
    if 16 ≤ byteAt e 2 then t.assistDone p e 1
    else (s.ownerOf p (byteAt e 2) (byteAt e 3)).elim (t.assistDone p e 2) fun r =>
      if 64 ≤ (s.keeper r).queue.length then s
      else ((t.assistBusy p e).setKeeper r { s.keeper r with queue := (s.keeper r).queue ++ [assistOp p e] }).setFld (Reg.RGNW_PK_STAT r) 31 24
        ((s.keeper r).queue.length + 1)) := by
  have hopen : ¬(!s.hostMode p 2 && !s.hostMode p 3) = true := by
    rcases hmode with h | h <;> simp [h]
  rw [execKeeper, if_neg (not_not.2 hop), htake]
  refine congrArg _ ((if_neg hopen).trans ?_)
  cases s.ownerOf p (byteAt e 2) (byteAt e 3) <;> rfl

end

section
variable (hop : byteAt e 0 = 2)
include hop

/-- A WALK entry is refused for its mode. -/
theorem execWalk_of_mode (hmode : s.hostMode p 2 = false) (list : Option Bytes) : execWalk p e list s = .next (t.assistDone p e 6) := by
  rw [execWalk, if_neg (not_not.2 hop), htake]
  exact congrArg _ (if_pos (by rw [hmode]; rfl))

/-- The walk's command to the list engine. -/
def walkCmd (e : Bytes) : Word := BitVec.ofNat 32 (byteAt e 3 * 2 ^ 30 + 2 ^ 29 + leAt e 28 4 / 16)

/-- The start of a walk with the list fetched, at region r. -/
def State.walkStarts (s t : State) (p r : Nat) (e l : Bytes) : State :=
  if (s.region r).le.busy then ((t.bondWrite r (leAt e 28 4) (slice l 0 (leAt e 24 4))).leStart r (walkCmd e) none).assistDone p e 5
  else ((t.bondWrite r (leAt e 28 4) (slice l 0 (leAt e 24 4))).assistBusy p e).leStart r (walkCmd e) (some (p, leAt e 8 4))

/-- A WALK entry in its mode is refused for its form, its region, its model, its place or its list, or starts. -/
theorem execWalk_of_open (hmode : s.hostMode p 2 = true) (list : Option Bytes) : execWalk p e list s = .next (
    if 16 ≤ byteAt e 2 ∨ 3 < byteAt e 3 ∨ leAt e 28 4 % 16 ≠ 0 then t.assistDone p e 1
    else (s.ridx p (leAt e 12 4)).elim (t.assistDone p e 2) fun r =>
      if (s.geometry p (byteAt e 2)).isNone then t.assistDone p e 2
      else if (!s.inTrows r (leAt e 28 4) (leAt e 24 4)) = true then t.assistDone p e 3
      else list.elim (t.assistDone p e 4) (s.walkStarts t p r e)) := by
  have hopen : ¬(!s.hostMode p 2) = true := by
    rw [hmode]
    decide
  rw [execWalk, if_neg (not_not.2 hop), htake]
  refine congrArg _ ((if_neg hopen).trans ?_)
  cases s.ridx p (leAt e 12 4) with
  | none => rfl
  | some r => cases list <;> rfl

/-- A WALK entry whose list lies in the rows of its region. -/
theorem execWalk_of_list (hmode : s.hostMode p 2 = true) (hform : byteAt e 2 < 16 ∧ byteAt e 3 ≤ 3 ∧ leAt e 28 4 % 16 = 0) {r : Nat}
    (hr : s.ridx p (leAt e 12 4) = some r) (hgeo : (s.geometry p (byteAt e 2)).isSome = true) (hrows : s.inTrows r (leAt e 28 4) (leAt e 24 4) = true)
    (list : Option Bytes) : execWalk p e list s = .next (list.elim (t.assistDone p e 4) (s.walkStarts t p r e)) := by
  refine (execWalk_of_open htake hop hmode list).trans (congrArg _ ((if_neg (by omega)).trans ?_))
  rw [hr]
  exact (if_neg (by rw [Option.isNone_iff_eq_none]; exact Option.isSome_iff_ne_none.1 hgeo)).trans (if_neg (by rw [hrows]; decide))

end

section
variable (hop : byteAt e 0 = 3)
include hop

/-- A MOVER entry is refused for its mode. -/
theorem execMover_of_mode (hmode : s.hostMode p 4 = false) : execMover p e s = .next (t.assistDone p e 6) := by
  rw [execMover, if_neg (not_not.2 hop), htake]
  exact congrArg _ (if_pos (by rw [hmode]; rfl))

/-- Does the mover refuse the descriptor of entry e? -/
def State.moveRefused (s : State) (r : Nat) (e : Bytes) : Bool :=
  s.moverBad r (slice e 32 32) || (s.moverRim ((s.owner r).getD 64) (moverDesc (slice e 32 32) none)).isSome

/-- A MOVER entry in its mode is refused for its region, or its descriptor is presented. -/
theorem execMover_of_open (hmode : s.hostMode p 4 = true) : execMover p e s = .next (
    (s.ridx p (leAt e 12 4)).elim (t.assistDone p e 2) fun r =>
      if 16 ≤ (s.region r).moves.length then (t.presentMove r (slice e 32 32) none).assistDone p e 5
      else if s.moveRefused r e = true then (t.presentMove r (slice e 32 32) none).assistDone p e 1
      else (t.assistBusy p e).presentMove r (slice e 32 32) (some (p, leAt e 8 4))) := by
  have hopen : ¬(!s.hostMode p 4) = true := by
    rw [hmode]
    decide
  rw [execMover, if_neg (not_not.2 hop), htake]
  refine congrArg _ ((if_neg hopen).trans ?_)
  cases s.ridx p (leAt e 12 4) <;> rfl

end

end

section
variable {s : State} {n : Nat}

/-- Does the ingest engine take the next entry of transfer ring n? -/
def State.takesXfer (s : State) (n : Nat) : Prop :=
  s.ing.part.isSome = true ∧ s.ing.closed = false ∧ (s.fld Reg.HIF_XFER_CFG 1 0 = n ∨ s.fld Reg.HIF_XFER_CFG 1 0 = 3) ∧
    flag (s.rd (Reg.HIF_XFERn_CFG n)) 31 = true ∧ s.portUp n = true ∧
    s.fld (Reg.HIF_XFERn_STAT n) 31 16 ≠ s.fld (Reg.HIF_XFERn_STAT n) 15 0 ∧ s.hif.xferEnd.getD n false = false

/-- The guard of XFER_ENTRY_FETCH. -/
theorem State.takesXfer_iff (s : State) (n : Nat) : (s.ing.part.isNone || s.ing.closed || decide (s.fld Reg.HIF_XFER_CFG 1 0 ≠ n ∧ s.fld Reg.HIF_XFER_CFG 1 0 ≠ 3)
      || !(flag (s.rd (Reg.HIF_XFERn_CFG n)) 31) || !(s.portUp n) || decide (s.fld (Reg.HIF_XFERn_STAT n) 31 16 = s.fld (Reg.HIF_XFERn_STAT n) 15 0)
      || s.hif.xferEnd.getD n false) = true ↔ ¬s.takesXfer n := by
  rw [State.takesXfer, ← Option.not_isSome]
  simp only [Bool.or_eq_true, Bool.not_eq_true', decide_eq_true_eq, ne_eq]
  grind

theorem execXferEntryFetch_of_idle (h : ¬s.takesXfer n) (e l : Option Bytes) : execXferEntryFetch n e l s = .next s :=
  congrArg _ (if_pos ((s.takesXfer_iff n).2 h))

/-- A host memory error, of the entry or of its buffer. -/
theorem execXferEntryFetch_of_error (h : s.takesXfer n) (e : Option Bytes) : execXferEntryFetch n e none s = .next (s.xferError n) := by
  rw [execXferEntryFetch]
  refine congrArg _ ((if_neg fun hidle => (s.takesXfer_iff n).1 hidle h).trans ?_)
  cases e <;> rfl

/-- The buffer of a transfer entry joins the ring's stream. -/
def State.streamJoined (s : State) (n : Nat) (l : Bytes) : State :=
  (s.bump (Reg.HIF_XFERn_STAT n) 15 0).setSource n ((s.bump (Reg.HIF_XFERn_STAT n) 15 0).ingSource n ++ l)

/-- The stream of the ingest, closed or open. -/
def State.streamSet (s : State) (c : Bool) : State := { s with ing := { s.ing with closed := c } }

/-- The ingest takes what the streams hold. -/
def State.streamPumped (s : State) (n : Nat) (c : Bool) : State := (s.streamSet c).pumpAll (((s.streamSet c).ingSource n).length / 32 + 1)

/-- An entry without END leaves the stream open. -/
theorem execXferEntryFetch_of_data (h : s.takesXfer n) {e l : Bytes} (hlen : l.length = leAt e 8 4) (hend : byteAt e 12 % 2 = 0)
    (hall : s.hif.xferEnd.all id = false) : execXferEntryFetch n (some e) (some l) s =
      .next ((s.streamJoined n l).streamPumped n false) := by
  obtain ⟨-, -, -, -, -, -, hone⟩ := id h
  have hclosed : (if s.fld Reg.HIF_XFER_CFG 1 0 = 3 then s.hif.xferEnd.all id else s.hif.xferEnd.getD n false) = false := by
    rw [hall, hone, ite_self]
  rw [execXferEntryFetch]
  refine congrArg _ ((if_neg fun hidle => (s.takesXfer_iff n).1 hidle h).trans ((if_neg (not_not.2 hlen)).trans ?_))
  dsimp only
  rw [if_neg (show ¬byteAt e 12 % 2 = 1 by omega)]
  exact congrArg ((s.streamJoined n l).streamPumped n) hclosed

end

/-- Settles O55: an entry takes the branch of its first failed check, or starts. The statuses 1, 2, 3 and 5, and a busy engine that takes the list, are deduced
(notes/assumptions/135.md). -/
theorem assistAndTransferEntries : Obligations.AssistAndTransferEntries := by
  intro s t p n e l htake
  have hkeeper := @execKeeper_of_open s t p e htake
  have hwalk := @execWalk_of_open s t p e htake
  have hlisted := @execWalk_of_list s t p e htake
  have hmover := @execMover_of_open s t p e htake
  refine ⟨execKeeper_of_mode htake, fun hop hmode => ⟨fun hform => ?_, fun hform hown => ?_, fun r hform hown hroom => ?_, fun r hform hown hfull => ?_⟩,
    fun hop hmode => execWalk_of_mode htake hop hmode (some l), fun hop hmode hform => ?_, fun hop hmode hform => ⟨fun hr => ?_, fun r hr =>
      ⟨fun hgeo => ?_, fun hgeo hrows => ?_, fun hgeo hrows => ⟨?_, fun hbusy => ?_, fun hidle => ?_⟩⟩⟩,
    execMover_of_mode htake, fun hop hmode hr => ?_, fun r hop hmode hr => ⟨fun hfull => ?_, fun hroom href => ?_, fun hroom hgood => ?_⟩,
    fun hidle => execXferEntryFetch_of_idle hidle (some e) (some l), fun hopen => ⟨execXferEntryFetch_of_error hopen none, execXferEntryFetch_of_error hopen (some e)⟩,
    fun hopen hlen hend hall => execXferEntryFetch_of_data hopen hlen hend hall⟩
  · exact (hkeeper hop hmode).trans (congrArg _ (if_pos hform))
  · refine (hkeeper hop hmode).trans (congrArg _ ((if_neg (Nat.not_le.2 hform)).trans ?_))
    rw [hown]
    rfl
  · refine (hkeeper hop hmode).trans (congrArg _ ((if_neg (Nat.not_le.2 hform)).trans ?_))
    rw [hown]
    exact if_neg (Nat.not_le.2 hroom)
  · refine (hkeeper hop hmode).trans (congrArg _ ((if_neg (Nat.not_le.2 hform)).trans ?_))
    rw [hown]
    exact if_pos hfull
  · exact (hwalk hop hmode (some l)).trans (congrArg _ (if_pos (by omega)))
  · refine (hwalk hop hmode (some l)).trans (congrArg _ ((if_neg (by omega)).trans ?_))
    rw [hr]
    rfl
  · refine (hwalk hop hmode (some l)).trans (congrArg _ ((if_neg (by omega)).trans ?_))
    rw [hr]
    exact if_pos (Option.isNone_iff_eq_none.2 hgeo)
  · refine (hwalk hop hmode (some l)).trans (congrArg _ ((if_neg (by omega)).trans ?_))
    rw [hr]
    exact (if_neg (by rw [Option.isNone_iff_eq_none]; exact Option.isSome_iff_ne_none.1 hgeo)).trans (if_pos (by rw [hrows]; rfl))
  · exact (hlisted hop hmode hform hr hgeo hrows none)
  · exact (hlisted hop hmode hform hr hgeo hrows (some l)).trans (congrArg _ (if_pos hbusy))
  · exact (hlisted hop hmode hform hr hgeo hrows (some l)).trans (congrArg _ (if_neg (Bool.eq_false_iff.1 hidle)))
  · refine (hmover hop hmode).trans (congrArg _ ?_)
    rw [hr]
    rfl
  · refine (hmover hop hmode).trans (congrArg _ ?_)
    rw [hr]
    exact if_pos hfull
  · refine (hmover hop hmode).trans (congrArg _ ?_)
    rw [hr]
    exact (if_neg (Nat.not_le.2 hroom)).trans (if_pos href)
  · refine (hmover hop hmode).trans (congrArg _ ?_)
    rw [hr]
    exact (if_neg (Nat.not_le.2 hroom)).trans (if_neg (Bool.eq_false_iff.1 hgood))


/-! ### Ports, interrupts, modes and plain writes (O56) -/

section
variable {s : State} {port : Nat}

/-- A port that loses its link. -/
def State.linkCut (s : State) (port : Nat) : State :=
  (((s.setFld (Reg.HIF_PORT port) 31 31 0).setFld (Reg.HIF_PORT port) 30 28 0).setFld (Reg.HIF_PORT port) 27 24 0).bump (Reg.HIF_PORT port) 23 16

/-- A port that is reset: its link and its transfer ring. -/
def State.portCut (s : State) (port : Nat) : State := (s.linkCut port).setFld (Reg.HIF_XFERn_CFG port) 31 31 0

/-- The state without the vectors of a port. -/
def State.vectorsCut (s : State) (port : Nat) : State := { s with hif := { s.hif with msix := s.hif.msix.filter fun e => decide (e.1 / 256 ≠ port) } }

/-- A ring set of the port turned off. -/
def State.ringCut (port : Nat) (s : State) (p : Nat) : State := if s.homePort p = port then s.setFld (Reg.HIF_RCFG p) 31 31 0 else s

theorem State.vectorsCut_setFld (s : State) (port a hi lo v : Nat) : (s.vectorsCut port).setFld a hi lo v = (s.setFld a hi lo v).vectorsCut port := rfl

theorem execHostPortReset_eq (port : Nat) (s : State) : execHostPortReset port s =
    .next ((List.range 64).foldl (State.ringCut port) ((s.portCut port).vectorsCut port)) := by
  rw [State.portCut, ← State.vectorsCut_setFld, execHostPortReset]
  generalize List.range 64 = all
  rfl

theorem hostRegs_apart {port : Nat} (hport : port < 2) : Reg.HIF_PORT port ≠ Reg.HIF_XFERn_CFG port ∧
    ∀ p, Reg.HIF_RCFG p ≠ Reg.HIF_PORT port ∧ Reg.HIF_RCFG p ≠ Reg.HIF_XFERn_CFG port := by
  simp only [Reg.HIF_PORT, Reg.HIF_XFERn_CFG, Reg.HIF_RCFG]
  exact ⟨by omega, fun p => by omega⟩

theorem Canonical.vectorsCut (ok : Canonical s) (port : Nat) : Canonical (s.vectorsCut port) := ok.of_tables rfl
theorem State.vectorsCut_rd (s : State) (port a : Nat) : (s.vectorsCut port).rd a = s.rd a := rfl
theorem State.vectorsCut_hif (s : State) (port : Nat) :
    (s.vectorsCut port).hif = { s.hif with msix := s.hif.msix.filter fun e => decide (e.1 / 256 ≠ port) } := rfl

theorem OnlyRegs.vectorsCut {l : List Nat} {t : State} (h : OnlyRegs l s t) (port : Nat) :
    OnlyRegs l { s with hif := (t.vectorsCut port).hif } (t.vectorsCut port) := ⟨by rw [h.1]; rfl, h.2⟩

theorem Canonical.portCut (ok : Canonical s) (port : Nat) : Canonical (s.portCut port) :=
  ((((ok.setFld _ _ _ _).setFld _ _ _ _).setFld _ _ _ _).bump _ _ _).setFld _ _ _ _

/-- A port's reset in the registers of the port. -/
theorem State.portCut_shows (ok : Canonical s) (hport : port < 2) : (s.portCut port).portUp port = false ∧
    (s.portCut port).fld (Reg.HIF_PORT port) 23 16 = (s.fld (Reg.HIF_PORT port) 23 16 + 1) % 256 ∧
    flag ((s.portCut port).rd (Reg.HIF_XFERn_CFG port)) 31 = false ∧ OnlyRegs [Reg.HIF_PORT port, Reg.HIF_XFERn_CFG port] s (s.portCut port) := by
  obtain ⟨hne, -⟩ := hostRegs_apart hport
  have hone := ok.setFld (Reg.HIF_PORT port) 31 31 0
  have htwo := hone.setFld (Reg.HIF_PORT port) 30 28 0
  have hthree := htwo.setFld (Reg.HIF_PORT port) 27 24 0
  have hfour := hthree.bump (Reg.HIF_PORT port) 23 16
  have hrd : (s.portCut port).rd (Reg.HIF_PORT port) =
      bumpField (setField (setField (setField (s.rd (Reg.HIF_PORT port)) 31 31 0) 30 28 0) 27 24 0) 23 16 1 := by
    rw [State.portCut, State.linkCut, State.rd_setFld hfour, if_neg hne, State.rd_bump hthree, if_pos rfl, State.rd_setFld htwo, if_pos rfl, State.rd_setFld hone, if_pos rfl,
      State.rd_setFld ok, if_pos rfl]
  refine ⟨?_, ?_, ?_, ?_⟩
  · rw [State.portUp, hrd, bumpField, flag_setField_apart _ _ _ _ _ (by decide), flag_setField_apart _ _ _ _ _ (by decide),
      flag_setField_apart _ _ _ _ _ (by decide), flag_setField _ _ _ (by decide)]
    rfl
  · rw [State.fld, hrd, field_bumpField _ _ _ _ (by decide), field_setField_apart _ _ _ _ _ _ (by decide), field_setField_apart _ _ _ _ _ _ (by decide),
      field_setField_apart _ _ _ _ _ _ (by decide)]
    rfl
  · rw [State.portCut, State.linkCut, State.rd_setFld hfour, if_pos rfl, flag_setField _ _ _ (by decide)]
    rfl
  · have hmem : Reg.HIF_PORT port ∈ [Reg.HIF_PORT port, Reg.HIF_XFERn_CFG port] := List.mem_cons_self
    exact (((((OnlyRegs.refl _ s).wr ok hmem _).wr hone hmem _).wr htwo hmem _).wr hthree hmem _).wr hfour (by simp) _

theorem Canonical.ringCut (ok : Canonical s) (port p : Nat) : Canonical (s.ringCut port p) := by
  rw [State.ringCut]
  split
  · exact ok.setFld _ _ _ _
  · exact ok

theorem rcfg_inj {p q : Nat} (h : Reg.HIF_RCFG p = Reg.HIF_RCFG q) : p = q := by
  simp only [Reg.HIF_RCFG] at h
  omega

theorem State.ringCut_rd_ne (ok : Canonical s) {p a : Nat} (ha : a ≠ Reg.HIF_RCFG p) : (s.ringCut port p).rd a = s.rd a := by
  rw [State.ringCut]
  split
  · exact State.rd_wr_ne ok _ ha
  · rfl

/-- Every ring set of the port is off, and the others are as they were. -/
theorem State.ringsCut_rcfg (ok : Canonical s) {p : Nat} (hp : p < 64) :
    ((List.range 64).foldl (State.ringCut port) s).rd (Reg.HIF_RCFG p) =
      if s.homePort p = port then setField (s.rd (Reg.HIF_RCFG p)) 31 31 0 else s.rd (Reg.HIF_RCFG p) := by
  obtain ⟨t, hok, hsame, hend⟩ := foldl_at (I := Canonical) (fun t => t.rd (Reg.HIF_RCFG p)) (f := State.ringCut port) List.nodup_range
    (List.mem_range.2 hp) (fun t q ht => ht.ringCut port q) (fun t q ht hq => State.ringCut_rd_ne ht fun h => hq (rcfg_inj h).symm) ok
  have hhome : t.homePort p = s.homePort p := congrArg (field · 30 30) hsame
  rw [hend, State.ringCut, hhome]
  split
  · rw [State.rd_setFld hok, if_pos rfl, hsame]
  · exact hsame

theorem State.ringsCut_frame (ok : Canonical s) :
    OnlyRegs ((List.range 64).map Reg.HIF_RCFG) s ((List.range 64).foldl (State.ringCut port) s) := by
  refine (List.foldlRecOn (motive := fun t : State => Canonical t ∧ OnlyRegs ((List.range 64).map Reg.HIF_RCFG) s t) _ _ ⟨ok, .refl _ s⟩
    fun t ht p hp => ⟨ht.1.ringCut port p, ?_⟩).2
  rw [State.ringCut]
  split
  · exact ht.2.wr ht.1 (List.mem_map_of_mem hp) _
  · exact ht.2

/-- A port's reset. -/
theorem hostPortReset_completes (ok : Canonical s) (hport : port < 2) :
    Completes (.hostPortReset port) s fun t => t.portUp port = false ∧
      t.fld (Reg.HIF_PORT port) 23 16 = (s.fld (Reg.HIF_PORT port) 23 16 + 1) % 256 ∧ flag (t.rd (Reg.HIF_XFERn_CFG port)) 31 = false ∧
      (∀ p, p < 64 → s.homePort p = port → t.ringOn p = false) ∧ (∀ p, p < 64 → s.homePort p ≠ port → t.rd (Reg.HIF_RCFG p) = s.rd (Reg.HIF_RCFG p)) ∧
      t.hif = { s.hif with msix := s.hif.msix.filter fun e => decide (e.1 / 256 ≠ port) } ∧
      OnlyRegs (Reg.HIF_PORT port :: Reg.HIF_XFERn_CFG port :: (List.range 64).map Reg.HIF_RCFG) { s with hif := t.hif } t := by
  obtain ⟨hdown, hcount, hxfer, honly⟩ := State.portCut_shows ok hport
  obtain ⟨-, hapart⟩ := hostRegs_apart hport
  have hcut : Canonical ((s.portCut port).vectorsCut port) := (ok.portCut port).vectorsCut port
  have hframe := State.ringsCut_frame (port := port) hcut
  have hrings := fun p (hp : p < 64) => State.ringsCut_rcfg (port := port) hcut hp
  have hrcfg : ∀ p, ((s.portCut port).vectorsCut port).rd (Reg.HIF_RCFG p) = s.rd (Reg.HIF_RCFG p) := fun p => by
    rw [State.vectorsCut_rd]
    exact honly.2 _ (by simp [(hapart p).1, (hapart p).2])
  have hhome : ∀ p, ((s.portCut port).vectorsCut port).homePort p = s.homePort p := fun p => congrArg (field · 30 30) (hrcfg p)
  have hout : ∀ a, a = Reg.HIF_PORT port ∨ a = Reg.HIF_XFERn_CFG port → a ∉ (List.range 64).map Reg.HIF_RCFG := fun a ha hmem => by
    obtain ⟨p, -, rfl⟩ := List.mem_map.1 hmem
    exact ha.elim (hapart p).1 (hapart p).2
  have hhif : ((s.portCut port).vectorsCut port).hif = { s.hif with msix := s.hif.msix.filter fun e => decide (e.1 / 256 ≠ port) } := by
    rw [State.vectorsCut_hif, show (s.portCut port).hif = s.hif from (congrArg State.hif honly.1 :)]
  have hsame := honly.vectorsCut port
  refine ⟨_, execHostPortReset_eq port s, ?_⟩
  generalize (List.range 64).foldl (State.ringCut port) ((s.portCut port).vectorsCut port) = t at *
  have hthif : t.hif = ((s.portCut port).vectorsCut port).hif := (congrArg State.hif hframe.1 :)
  refine ⟨?_, ?_, ?_, fun p hp hhere => ?_, fun p hp hother => ?_, hthif.trans hhif, ?_⟩
  · rw [State.portUp, hframe.2 _ (hout _ (.inl rfl)), State.vectorsCut_rd]
    exact hdown
  · rw [State.fld, hframe.2 _ (hout _ (.inl rfl)), State.vectorsCut_rd]
    exact hcount
  · rw [hframe.2 _ (hout _ (.inr rfl)), State.vectorsCut_rd]
    exact hxfer
  · rw [State.ringOn, hrings p hp, hhome, if_pos hhere, flag_setField _ _ _ (by decide)]
    rfl
  · rw [hrings p hp, hhome, if_neg hother, hrcfg]
  · rw [hthif]
    exact hsame.trans hframe

/-- A link that comes up shows its speed and its width. -/
def State.linkShown (s : State) (port speed width : Nat) : State :=
  ((s.setFld (Reg.HIF_PORT port) 31 31 1).setFld (Reg.HIF_PORT port) 30 28 speed).setFld (Reg.HIF_PORT port) 27 24 width

theorem State.linkShown_shows (ok : Canonical s) (port : Nat) {speed width : Nat} (hspeed : speed < 8) (hwidth : width < 16) :
    (s.linkShown port speed width).portUp port = true ∧ (s.linkShown port speed width).fld (Reg.HIF_PORT port) 30 28 = speed ∧
    (s.linkShown port speed width).fld (Reg.HIF_PORT port) 27 24 = width := by
  have hone := ok.setFld (Reg.HIF_PORT port) 31 31 1
  have htwo := hone.setFld (Reg.HIF_PORT port) 30 28 speed
  have hrd : (s.linkShown port speed width).rd (Reg.HIF_PORT port) =
      setField (setField (setField (s.rd (Reg.HIF_PORT port)) 31 31 1) 30 28 speed) 27 24 width := by
    rw [State.linkShown, State.rd_setFld htwo, if_pos rfl, State.rd_setFld hone, if_pos rfl, State.rd_setFld ok, if_pos rfl]
  refine ⟨?_, ?_, ?_⟩
  · rw [State.portUp, hrd, flag_setField_apart _ _ _ _ _ (by decide), flag_setField_apart _ _ _ _ _ (by decide), flag_setField _ _ _ (by decide)]
    rfl
  · rw [State.fld, hrd, field_setField_apart _ _ _ _ _ _ (by decide), field_setField _ _ _ _ (by decide)]
    exact Nat.mod_eq_of_lt hspeed
  · rw [State.fld, hrd, field_setField _ _ _ _ (by decide)]
    exact Nat.mod_eq_of_lt hwidth

/-- The held writes of the other ports. -/
def State.heldElse (s : State) (port : Nat) : State := { s with hif := { s.hif with held := s.hif.held.filter fun h => decide (h.port ≠ port) } }

/-- A link that comes up issues what was held for its port. -/
theorem execHostPortLinkUp_of_down (hdown : s.portUp port = false) (speed width : Nat) : execHostPortLinkUp port speed width s =
    .next ((s.hif.held.filter fun h => decide (h.port = port)).foldl State.issueHeld ((s.linkShown port speed width).heldElse port)) :=
  congrArg _ (if_neg (Bool.eq_false_iff.1 hdown))

section
variable {vector : Nat} {u : Long}

/-- The state with this vector of a port. -/
def State.vectorSet (s : State) (key : Nat) (x : Machine.Vector) : State :=
  { s with hif := { s.hif with msix := tabSet Machine.Vector.zero s.hif.msix key x } }

/-- A vector whose hold-off is over sends its message. -/
theorem execMsixHoldoffExpire_of_over (huntil : (tabGet Machine.Vector.zero s.hif.msix (256 * port + vector)).until_ = some u)
    (hwait : (tabGet Machine.Vector.zero s.hif.msix (256 * port + vector)).waiting = true) (hover : u.toNat ≤ s.now) :
    execMsixHoldoffExpire port vector s = .next (s.vectorSet (256 * port + vector)
      ((tabGet Machine.Vector.zero s.hif.msix (256 * port + vector)).message s.now (s.fld Reg.HIF_ICFG 15 0))) := by
  rw [execMsixHoldoffExpire]
  dsimp only
  rw [huntil]
  exact congrArg _ (if_pos (by rw [hwait, decide_eq_true hover]; rfl))

/-- Without a cause that waits the end of a hold-off does nothing. -/
theorem execMsixHoldoffExpire_of_quiet (hquiet : (tabGet Machine.Vector.zero s.hif.msix (256 * port + vector)).until_ = none ∨
    (tabGet Machine.Vector.zero s.hif.msix (256 * port + vector)).waiting = false) : execMsixHoldoffExpire port vector s = .next s := by
  rw [execMsixHoldoffExpire]
  dsimp only
  cases huntil : (tabGet Machine.Vector.zero s.hif.msix (256 * port + vector)).until_ with
  | none => rfl
  | some t =>
    have hwait := hquiet.resolve_left (by rw [huntil]; exact Option.some_ne_none t)
    exact congrArg _ (if_neg (by rw [hwait]; exact Bool.false_ne_true))

end

/-- GLB_MODE's writable bits, taken. -/
theorem field_glbMode (v w : Word) : field ((v &&& 0x1E) ||| (w &&& ~~~0x1E)) 4 1 = field v 4 1 ∧
    field ((v &&& 0x1E) ||| (w &&& ~~~0x1E)) 1 1 = field v 1 1 := by
  have hfour : BitVec.extractLsb' 1 (4 + 1 - 1) (0x1E : Word) = BitVec.allOnes (4 + 1 - 1) ∧ BitVec.extractLsb' 1 (4 + 1 - 1) (~~~(0x1E : Word)) = 0 := by decide
  have hone : BitVec.extractLsb' 1 (1 + 1 - 1) (0x1E : Word) = BitVec.allOnes (1 + 1 - 1) ∧ BitVec.extractLsb' 1 (1 + 1 - 1) (~~~(0x1E : Word)) = 0 := by decide
  constructor
  · rw [field_eq_extract, field_eq_extract, BitVec.extractLsb'_or, BitVec.extractLsb'_and, BitVec.extractLsb'_and, hfour.1, hfour.2, BitVec.and_allOnes]
    exact congrArg BitVec.toNat (congrArg _ BitVec.and_zero |>.trans BitVec.or_zero)
  · rw [field_eq_extract, field_eq_extract, BitVec.extractLsb'_or, BitVec.extractLsb'_and, BitVec.extractLsb'_and, hone.1, hone.2, BitVec.and_allOnes]
    exact congrArg BitVec.toNat (congrArg _ BitVec.and_zero |>.trans BitVec.or_zero)

/-- GLB_MODE takes its writable bits, and its FAULT shows in FLT_STAT. -/
theorem glbModeWrite_completes (ok : Canonical s) (v : Word) :
    Completes (.glbModeWrite v) s fun t => t.fld Reg.GLB_MODE 4 1 = field v 4 1 ∧ t.fld Reg.FLT_STAT 26 26 = field v 1 1 ∧
      OnlyRegs [Reg.GLB_MODE, Reg.FLT_STAT, Reg.HIF_STAT] s t := by
  obtain ⟨honly, hrd⟩ := State.writeRW_frame ok Reg.GLB_MODE 0x1E 0 v
  have hok := (State.writeRW_kept ok.kept Reg.GLB_MODE 0x1E 0 v).ok
  refine ⟨(s.writeRW Reg.GLB_MODE 0x1E 0 v).setFld Reg.FLT_STAT 26 26 ((s.writeRW Reg.GLB_MODE 0x1E 0 v).fld Reg.GLB_MODE 1 1), rfl, ?_⟩
  have hfault : (s.writeRW Reg.GLB_MODE 0x1E 0 v).fld Reg.GLB_MODE 1 1 = field v 1 1 := by rw [State.fld, hrd, (field_glbMode _ _).2]
  have hmode : (s.writeRW Reg.GLB_MODE 0x1E 0 v).fld Reg.GLB_MODE 4 1 = field v 4 1 := by rw [State.fld, hrd, (field_glbMode _ _).1]
  rw [hfault]
  generalize s.writeRW Reg.GLB_MODE 0x1E 0 v = u at *
  refine ⟨?_, ?_, ?_⟩
  · rw [State.fld_setFld_ne hok _ _ _ _ _ (by decide), hmode]
  · rw [State.fld_setFld hok _ _ _ _ (by decide)]
    exact Nat.mod_eq_of_lt (Nat.mod_lt _ (by decide))
  · exact (honly.trans ((OnlyRegs.refl [Reg.FLT_STAT] u).wr hok (List.mem_singleton.2 rfl) _)).mono (by simp)

/-- The plain registers are below BAR4 and aligned, none is HIF_STAT, and each has one entry. -/
theorem plainRegs_found : ∀ r ∈ plainRegs, r.1 % 4 = 0 ∧ r.1 < bar4Base ∧ r.1 ≠ Reg.HIF_STAT ∧ plainRegs.find? (fun x => decide (x.1 = r.1)) = some r := by
  decide

/-- A full write to a register of no block that is down reaches it. -/
theorem execRegisterWrite_of_full {addr : Nat} (halign : addr % 4 = 0) (hup : (s.weltDown && onRail addr) = false) (v : Word) :
    execRegisterWrite port addr 0xF v s = .next (s.hostRegWrite port addr v) := by
  refine congrArg _ ((if_neg ?_).trans (if_neg (Bool.eq_false_iff.1 hup)))
  rintro (h | h)
  · exact h rfl
  · exact h halign

/-- A full write to a register on no rail. -/
theorem execRegisterWrite_of_offRail {addr : Nat} (halign : addr % 4 = 0) (hrail : onRail addr = false) (v : Word) :
    execRegisterWrite port addr 0xF v s = .next (s.hostRegWrite port addr v) :=
  execRegisterWrite_of_full halign (by rw [hrail, Bool.and_false]) v

/-- A plain register takes its writable bits. -/
theorem State.hostRegWrite_plain {r : Nat × Word × Word} (hr : r ∈ plainRegs) (port : Nat) (v : Word) :
    s.hostRegWrite port r.1 v = s.writeRW r.1 r.2.1 r.2.2 v := by
  obtain ⟨-, hbar, -, hfind⟩ := plainRegs_found r hr
  rw [State.hostRegWrite, if_neg (Nat.not_le.2 hbar), hfind]

theorem State.hostRegWrite_rate (s : State) (port : Nat) (v : Word) :
    s.hostRegWrite port Reg.SRV_ACCT_RATE v = s.setAcct s.selAcct { s.acct s.selAcct with rate := v.toNat } := rfl

theorem State.hostRegWrite_cap (s : State) (port : Nat) (v : Word) :
    s.hostRegWrite port Reg.SRV_ACCT_CAP v = s.setAcct s.selAcct { s.acct s.selAcct with cap := v.toNat } := rfl

theorem State.hostRegWrite_mgtCmd {v : Word} (hclear : v &&& 0x0FFF0000 = 0) (port : Nat) : s.hostRegWrite port Reg.MGT_CMD v = s.mgtCmdWrite port v := by
  rw [show s.hostRegWrite port Reg.MGT_CMD v = (s.reservedBits 0 v 0x0FFF0000).mgtCmdWrite port v from rfl, State.reservedBits_of_clear s hclear]

end

/-- Settles O56: a reset turns each of its ring sets off once, and each write takes the branch of its address. An unaligned address counted as PARTIAL (133), writes
ignored while the rails are down (25), the vectors after a reset (28) and the reserved bits (96) are the reading of notes/assumptions under these numbers. -/
theorem hostPortsAndRegisters : Obligations.HostPortsAndRegisters := by
  intro s port vector speed width addr v en ok hport hspeed hwidth
  refine ⟨hostPortReset_completes ok hport, fun hup => congrArg _ (if_pos hup), fun hdown => execHostPortLinkUp_of_down hdown speed width, fun hdown hnone => ?_,
    fun d adv hdown => if_neg (Bool.eq_false_iff.1 hdown), fun d hup => ?_, fun u huntil hwait hover hmask => ?_, fun u huntil hwait hover hmask => ?_,
    execMsixHoldoffExpire_of_quiet, glbModeWrite_completes ok v, fun hbad => congrArg _ (if_pos hbad), fun hup r hr => ?_, fun hdown hrail hen halign => ?_,
    execRegisterWrite_of_offRail (by decide) (by decide) v, execRegisterWrite_of_offRail (by decide) (by decide) v, fun hbusy hclear => ?_,
    fun hfree hclear hmin hmax => ?_⟩
  · obtain ⟨hlink, hsp, hwd⟩ := State.linkShown_shows ok port hspeed hwidth
    refine ⟨_, execHostPortLinkUp_of_down hdown speed width, ?_⟩
    rw [show (s.hif.held.filter fun h => decide (h.port = port)) = [] from hnone]
    exact ⟨hlink, hsp, hwd⟩
  · rw [State.hostWrite, State.hostWriteAdv, if_pos hup, State.issueWrite, if_pos (.inl rfl)]
  · refine (execMsixHoldoffExpire_of_over huntil hwait hover).trans ?_
    rw [Machine.Vector.message, if_neg (Bool.eq_false_iff.1 hmask)]
    rfl
  · refine (execMsixHoldoffExpire_of_over huntil hwait hover).trans ?_
    rw [Machine.Vector.message, if_pos hmask]
    rfl
  · obtain ⟨halign, -, hstat, -⟩ := plainRegs_found r hr
    refine State.writeRW_rewrites ok _ _ _ v hstat _ ?_
    rw [← State.hostRegWrite_plain hr port]
    exact execRegisterWrite_of_full halign (by rw [hup, Bool.false_and]) v
  · refine congrArg _ ((if_neg ?_).trans (if_pos (by rw [hdown, hrail]; rfl)))
    rintro (h | h)
    · exact h hen
    · exact h halign
  · refine (execRegisterWrite_of_offRail (by decide) (by decide) v).trans (congrArg _ ?_)
    rw [State.hostRegWrite_mgtCmd hclear]
    exact if_pos hbusy
  · refine (execRegisterWrite_of_offRail (by decide) (by decide) v).trans (congrArg _ ?_)
    rw [State.hostRegWrite_mgtCmd hclear]
    exact (if_neg (Bool.eq_false_iff.1 hfree)).trans (if_pos ⟨hmin, hmax⟩)

end Sys2Proof.Machine

/-! SUPPORT. The statements of chapter 19's family: edge links (O58). -/

namespace Sys2Proof.Machine

/-! ### Edge links (O58) -/

section
variable {s : State} {k : Nat}

/-- A training that settles writes STATE, the width and the lanes of its port. -/
theorem State.edgeState_settled (ok : Canonical s) (st w lanes : Nat) :
    (((s.setFld (Reg.EDG_PORT k) 31 29 st).setFld (Reg.EDG_PORT k) 28 25 w).setFld (Reg.EDG_PORT k) 24 17 lanes).edgeState k = st % 8 := by
  have hst := ok.setFld (Reg.EDG_PORT k) 31 29 st
  rw [State.edgeState, State.fld_setFld_apart (hst.setFld _ _ _ _) _ _ _ _ _ _ (by decide), State.fld_setFld_apart hst _ _ _ _ _ _ (by decide),
    State.fld_setFld ok _ _ _ _ (by decide)]
  rfl

theorem State.edgeState_trainPort (ok : Canonical s) : (s.trainPort k).edgeState k = 1 := by
  have hst : Canonical (((s.setFld (Reg.EDG_PORT k) 31 29 1).setFld (Reg.EDG_PORT k) 28 25 0).setFld (Reg.EDG_PORT k) 24 17 0) :=
    ((ok.setFld _ _ _ _).setFld _ _ _ _).setFld _ _ _ _
  rw [State.trainPort, State.edgeState, State.bump, State.fld, State.rd_wr_same hst, field_bumpField_apart _ _ _ _ _ _ (by decide)]
  exact State.edgeState_settled ok 1 0 0

end

/-- Settles O58: each command tests the port's state and its own OP, and a training that settles is read back through the three fields of EDG_PORT. What RETRAIN
discards, that DISABLE is no fault, and that source 21 reports once are deduced (notes/assumptions/127.md), as are LSEQ and credits after training (126.md). -/
theorem edgeLinks : Obligations.EdgeLinks := by
  intro s k v lanes width
  have hup : ∀ n, s.weltDown = false → field v 31 28 = n → (s.weltDown || decide (field v 31 28 ≠ n)) ≠ true := fun n hrail hop => by
    simp [hrail, hop]
  refine ⟨fun h => congrArg _ (if_pos h), fun h => congrArg _ (if_neg (by rw [h]; decide)), ?_, ?_, ?_, ?_, ?_, ?_, ?_, ?_, ?_, ?_⟩
  · exact fun hrail hop h1 h3 => congrArg _ ((if_neg (hup 1 hrail hop)).trans (if_pos ⟨h1, h3⟩))
  · exact fun hrail hop hst => congrArg _ ((if_neg (hup 1 hrail hop)).trans (if_neg (by omega)))
  · exact fun hrail hop => congrArg _ (if_neg (hup 2 hrail hop))
  · exact fun hrail hop hst => congrArg _ ((if_neg (hup 3 hrail hop)).trans (if_pos hst))
  · exact fun hrail hop hst => congrArg _ ((if_neg (hup 3 hrail hop)).trans (if_neg hst))
  · intro t hst hretry hdue
    simp only [exec, execEdgeTrainRetry, hst, hretry, if_pos hdue]
    rfl
  · intro h
    simp only [exec, execEdgeTrainRetry]
    split
    case h_1 hst hretry => exact absurd h (by simp [hst, hretry])
    case h_2 => rfl
  · exact fun hst => congrArg _ (if_pos hst)
  · intro hst
    have hnot : ¬s.edgeState k ≠ 1 := not_not.2 hst
    exact ⟨congrArg _ ((if_neg hnot).trans (if_pos rfl)), fun hwidth => congrArg _ ((if_neg hnot).trans (if_neg hwidth))⟩
  · intro ok hk hw hst hwidth
    dsimp only
    rw [if_neg hwidth, if_pos rfl]
    exact ⟨State.edgeState_settled ok 2 _ _, State.edgeState_settled ok 3 _ _, State.edgeState_trainPort ok⟩


/-! ### Edge frames (O57) -/

section
variable {s : State} {k : Nat} {f : Bytes}

/-- Does frame f pass the link of port k? -/
def State.linkPasses (s : State) (k : Nat) (f : Bytes) : Prop :=
  s.edgeUp k = true ∧ linkOk f = true ∧ leAt f 0 2 % 4096 = ((s.edgePort k).lastIn + 1) % 4096

/-- Port k with a frame taken from its link. -/
def State.linkTaken (s : State) (k : Nat) (f : Bytes) : State :=
  ((s.setEdgePort k { s.edgePort k with lastIn := leAt f 0 2 % 4096, owed := (s.edgePort k).owed + 1, ackOwed := true }).bump (Reg.EDG_RX k) 31 0).edgeAck k f

theorem State.edgeTake_of_passes (h : s.linkPasses k f) : s.edgeTake k f = some (s.linkTaken k f) := by
  obtain ⟨hup, hok, hseq⟩ := h
  rw [State.edgeTake]
  exact if_neg (by simp [hup, hok, hseq])

theorem State.edgeTake_of_not (h : ¬s.linkPasses k f) : s.edgeTake k f = none := by
  rw [State.edgeTake]
  refine if_pos ?_
  rw [State.linkPasses, not_and_or, not_and_or] at h
  rcases h with h | h | h <;> simp [h]

/-- Where the violations of edge port k are logged: its hub's region, and its stub. -/
def State.edgePlace (s : State) (k : Nat) : Nat := ((s.lookup (s.weltId (.edge k))).map fun e => (s.last.phys e.x e.y).getD 0).getD 0

/-- A SND that an edge port drops. -/
def State.edgeDropped (s : State) (k key src : Nat) : State := s.noBind.violation 5 key src (s.weltId (.edge k)) 0xFFFF (s.edgePlace k) 9

/-- Where the violations of edge port k are logged, as the model says it. -/
theorem State.edgeDropped_eq (s : State) (k key src : Nat) :
    (match (match s.lookup (s.weltId (.edge k)) with
      | some e => ((s.last.phys e.x e.y).getD 0, 9)
      | none => (0, 9) : Nat × Nat) with
      | (r, q) => s.noBind.violation 5 key src (s.weltId (.edge k)) 0xFFFF r q) = s.edgeDropped k key src := by
  rw [State.edgeDropped, State.edgePlace]
  cases s.lookup (s.weltId (.edge k)) with
  | none => simp only [Option.map_none, Option.getD_none]
  | some e => simp only [Option.map_some, Option.getD_some]

/-- May the SND enter channel g at port k? -/
def State.edgeBound (s : State) (k g : Nat) (d : Bytes) : Prop :=
  16 ≤ d.length ∧ flag (s.chanA g) 31 = true ∧ s.modId ≠ 0 ∧ s.currentPort g = some k

theorem State.edgeSend_of_free {key : Nat} (hfree : s.keyOwner key = none) (src raddr : Nat) (d : Bytes) (isSnd : Bool) :
    s.edgeSend k key src raddr d isSnd = some (s.edgeDropped k key src) := by
  rw [State.edgeSend, hfree]
  exact congrArg some (s.edgeDropped_eq k key src)

/-- A SND of no bound channel, or that is none, is dropped. -/
theorem State.edgeSend_of_unbound {key p raddr : Nat} (hown : s.keyOwner key = some p) {d : Bytes} {isSnd : Bool}
    (hno : isSnd = false ∨ ¬s.edgeBound k (16 * p + raddr % 16) d) (src : Nat) : s.edgeSend k key src raddr d isSnd = some (s.edgeDropped k key src) := by
  have hguard : (!isSnd || decide (d.length < 16) || !(flag (s.chanA (16 * p + raddr % 16)) 31) || decide (s.modId = 0)
      || decide (s.currentPort (16 * p + raddr % 16) ≠ some k)) = true := by
    rcases hno with h | h
    · rw [h]
      rfl
    · rw [State.edgeBound, not_and_or, not_and_or, not_and_or] at h
      rcases h with h | h | h | h
      · simp [Nat.not_le.1 h]
      · simp [h]
      · simp [not_not.1 h]
      · simp [h]
  rw [State.edgeSend, hown]
  exact (if_pos hguard).trans (congrArg some (s.edgeDropped_eq k key src))

/-- The frame that a SND of channel g becomes. -/
def State.edgeBody (s : State) (g : Nat) (d : Bytes) : Bytes :=
  frameBody (field (s.chanB g) 15 0) s.modId (field (s.chanA g) 19 10) g (d.take 16) (d.drop 16)

/-- A SND of a bound channel joins the queue, or waits. -/
theorem State.edgeSend_of_bound {key p raddr : Nat} (hown : s.keyOwner key = some p) {d : Bytes} (hbound : s.edgeBound k (16 * p + raddr % 16) d) (src : Nat) :
    s.edgeSend k key src raddr d true = if 256 ≤ (s.edgePort k).txq.length then none
      else some ((s.setEdgePort k { s.edgePort k with txq := (s.edgePort k).txq ++ [(16 * p + raddr % 16, s.edgeBody (16 * p + raddr % 16) d)] }).settleChannels.edgePump
        k) := by
  obtain ⟨hlen, hon, hmod, hport⟩ := hbound
  have hguard : ¬(!true || decide (d.length < 16) || !(flag (s.chanA (16 * p + raddr % 16)) 31) || decide (s.modId = 0)
      || decide (s.currentPort (16 * p + raddr % 16) ≠ some k)) = true := by
    simp [Nat.not_lt.2 hlen, hon, hmod, hport]
  rw [State.edgeSend, hown]
  dsimp only
  rw [if_neg hguard]
  rfl

/-- Is the channel of the data frame f bound? -/
def State.frameBound (s : State) (f : Bytes) : Prop :=
  leAt f 4 2 = s.modId ∧ flag (s.chanA (leAt f 8 2 % 1024)) 31 = true ∧ field (s.chanB (leAt f 8 2 % 1024)) 15 0 = leAt f 6 2 ∧
    field (s.chanA (leAt f 8 2 % 1024)) 19 10 = leAt f 10 2 % 1024 ∧ s.pstate (leAt f 8 2 % 1024 / 16) = 2

theorem execEdgeFrameRx_of_full (hfull : s.edgeRoom k = false) : execEdgeFrameRx k f s = .next s :=
  congrArg _ (if_pos (.inr (.inr (by rw [hfull]; rfl))))

/-- A frame of type 1, or 3 and above, with room at its hub is looked at. -/
theorem edgeFrame_room (htype : frameType f = 1 ∨ 3 ≤ frameType f) (hroom : s.edgeRoom k = true) :
    ¬(frameType f = 0 ∨ frameType f = 2 ∨ (!s.edgeRoom k) = true) := by
  rw [hroom]
  simp
  omega

section
variable (htype : frameType f = 1 ∨ 3 ≤ frameType f) (hroom : s.edgeRoom k = true)
include htype hroom

theorem execEdgeFrameRx_of_not (hno : ¬s.linkPasses k f) : execEdgeFrameRx k f s = .next s := by
  rw [execEdgeFrameRx, if_neg (edgeFrame_room htype hroom), State.edgeTake_of_not hno]

variable (hpass : s.linkPasses k f)
include hpass

/-- A frame that fails its end-to-end check counts. -/
theorem execEdgeFrameRx_of_damaged (hcrc : endCrcBad f = true) : execEdgeFrameRx k f s = .next ((s.linkTaken k f).bump Reg.EDG_DROP 15 0) := by
  rw [execEdgeFrameRx, if_neg (edgeFrame_room htype hroom), State.edgeTake_of_passes hpass]
  exact congrArg _ (if_pos hcrc)

variable (hcrc : endCrcBad f = false)
include hcrc

/-- A frame of another type than the data frame's does no more. -/
theorem execEdgeFrameRx_of_other (hother : frameType f ≠ 1) : execEdgeFrameRx k f s = .next (s.linkTaken k f) := by
  rw [execEdgeFrameRx, if_neg (edgeFrame_room htype hroom), State.edgeTake_of_passes hpass]
  exact congrArg _ ((if_neg (Bool.eq_false_iff.1 hcrc)).trans (if_pos hother))

/-- A data frame of a bound channel enters the fabric. -/
theorem execEdgeFrameRx_of_bound (hdata : frameType f = 1) (hbound : (s.linkTaken k f).frameBound f) :
    execEdgeFrameRx k f s = .next ((s.linkTaken k f).edgeDeliver k (leAt f 8 2 % 1024 / 16) f) := by
  rw [execEdgeFrameRx, if_neg (edgeFrame_room htype hroom), State.edgeTake_of_passes hpass]
  exact congrArg _ ((if_neg (Bool.eq_false_iff.1 hcrc)).trans ((if_neg (not_not.2 hdata)).trans (if_pos hbound)))

/-- A data frame of no bound channel counts. -/
theorem execEdgeFrameRx_of_unbound (hdata : frameType f = 1) (hno : ¬(s.linkTaken k f).frameBound f) :
    execEdgeFrameRx k f s = .next (s.linkTaken k f).noBind := by
  rw [execEdgeFrameRx, if_neg (edgeFrame_room htype hroom), State.edgeTake_of_passes hpass]
  exact congrArg _ ((if_neg (Bool.eq_false_iff.1 hcrc)).trans ((if_neg (not_not.2 hdata)).trans (if_neg hno)))

end

/-- Is the stream frame f wanted? -/
def State.streamWanted (s : State) (k : Nat) (f : Bytes) : Prop := s.edgeLoad = true ∧ flag (s.rd Reg.EDG_ING) k = true ∧ leAt f 4 2 = s.modId

/-- Has the stream frame of number i come before? -/
def State.streamKnown (s : State) (i : Nat) : Prop := i < (s.rd Reg.EDG_ING_SEQ).toNat ∨ (tabFind s.edg.ingest i).isSome = true

/-- The ingest stream with frame f kept. -/
def State.streamKept (s : State) (f : Bytes) : State :=
  { s with edg := { s.edg with ingest := tabAdd s.edg.ingest (leAt f 16 4) (slice f 32 (leAt f 12 2)),
                               ingestEnd := if byteAt f 20 % 2 = 1 then some (leAt f 16 4) else s.edg.ingestEnd } }

theorem State.streamWanted_iff (s : State) (k : Nat) (f : Bytes) :
    (!(s.edgeLoad) || !(flag (s.rd Reg.EDG_ING) k) || decide (leAt f 4 2 ≠ s.modId)) = true ↔ ¬s.streamWanted k f := by
  rw [State.streamWanted, not_and_or, not_and_or]
  simp [or_assoc]

/-- The ingest takes what has joined its stream. -/
def State.streamJoins (s : State) : State :=
  (s.edgeJoin (s.edg.ingest.length + 1)).pumpAll (((s.edgeJoin (s.edg.ingest.length + 1)).ingSource 2).length / 32 + 1)

section
variable (htype : frameType f = 2)
include htype

theorem execEdgeIngestFrame_of_not (hno : ¬s.linkPasses k f) : execEdgeIngestFrame k f s = .next s := by
  rw [execEdgeIngestFrame, if_neg (not_not.2 htype), State.edgeTake_of_not hno]

variable (hpass : s.linkPasses k f)
include hpass

theorem execEdgeIngestFrame_of_damaged (hcrc : endCrcBad f = true) : execEdgeIngestFrame k f s = .next ((s.linkTaken k f).bump Reg.EDG_DROP 15 0) := by
  rw [execEdgeIngestFrame, if_neg (not_not.2 htype), State.edgeTake_of_passes hpass]
  exact congrArg _ (if_pos hcrc)

variable (hcrc : endCrcBad f = false)
include hcrc

/-- A stream frame that nobody wants counts. -/
theorem execEdgeIngestFrame_of_unwanted (hno : ¬(s.linkTaken k f).streamWanted k f) : execEdgeIngestFrame k f s = .next (s.linkTaken k f).noBind := by
  rw [execEdgeIngestFrame, if_neg (not_not.2 htype), State.edgeTake_of_passes hpass]
  exact congrArg _ ((if_neg (Bool.eq_false_iff.1 hcrc)).trans (if_pos ((State.streamWanted_iff _ k f).2 hno)))

variable (hwanted : (s.linkTaken k f).streamWanted k f)
include hwanted

/-- A stream frame that has come before does no more. -/
theorem execEdgeIngestFrame_of_known (hknown : (s.linkTaken k f).streamKnown (leAt f 16 4)) : execEdgeIngestFrame k f s = .next (s.linkTaken k f) := by
  rw [execEdgeIngestFrame, if_neg (not_not.2 htype), State.edgeTake_of_passes hpass]
  exact congrArg _ ((if_neg (Bool.eq_false_iff.1 hcrc)).trans ((if_neg fun h => (State.streamWanted_iff _ k f).1 h hwanted).trans (if_pos hknown)))

/-- A new stream frame joins the ingest in order. -/
theorem execEdgeIngestFrame_of_new (hnew : ¬(s.linkTaken k f).streamKnown (leAt f 16 4)) :
    execEdgeIngestFrame k f s = .next ((s.linkTaken k f).streamKept f).streamJoins := by
  rw [execEdgeIngestFrame, if_neg (not_not.2 htype), State.edgeTake_of_passes hpass]
  exact congrArg _ ((if_neg (Bool.eq_false_iff.1 hcrc)).trans ((if_neg fun h => (State.streamWanted_iff _ k f).1 h hwanted).trans (if_neg hnew)))

end

/-- Does the control timer of port k send a frame? -/
theorem execEdgeControlTimer_of_due (hup : s.edgeUp k = true)
    (hdue : (s.edgePort k).ackOwed = true ∨ 0 < (s.edgePort k).owed ∨ s.elapsed (s.edgePort k).lastControl 1000 = true) : execEdgeControlTimer k s =
      .next ((s.setEdgePort k { s.edgePort k with ackOwed := false, owed := (s.edgePort k).owed - 15, lastControl := s.time }).bump (Reg.EDG_TX k) 31 0) := by
  refine congrArg _ (if_pos ?_)
  rw [hup]
  rcases hdue with h | h | h <;> simp [h]

theorem execEdgeControlTimer_of_quiet (hquiet : s.edgeUp k = false ∨
    ((s.edgePort k).ackOwed = false ∧ (s.edgePort k).owed = 0 ∧ s.elapsed (s.edgePort k).lastControl 1000 = false)) : execEdgeControlTimer k s = .next s := by
  refine congrArg _ (if_neg ?_)
  rcases hquiet with h | ⟨hack, howed, hrecent⟩
  · simp [h]
  · simp [hack, howed, hrecent]

end

/-- Settles O57: a SND and a frame take the branch of the first condition that they fail. That a frame waits while its hub's buffer is full
(notes/assumptions/127.md), and what EDG_RX counts (126.md), is deduced. -/
theorem edgeFrames : Obligations.EdgeFrames := by
  intro s k key src raddr n d f
  refine ⟨fun p hown => ⟨fun hbound hroom => ?_, fun hbound hfull => ?_, fun hno => ?_, ?_⟩, fun hfree => ?_, fun htype hfull => execEdgeFrameRx_of_full hfull,
    fun htype hroom => ⟨execEdgeFrameRx_of_not (.inl htype) hroom, execEdgeFrameRx_of_damaged (.inl htype) hroom,
      fun hpass hcrc hbound => execEdgeFrameRx_of_bound (.inl htype) hroom hpass hcrc htype hbound,
      fun hpass hcrc hno => execEdgeFrameRx_of_unbound (.inl htype) hroom hpass hcrc htype hno⟩,
    fun htype hroom hpass hcrc => execEdgeFrameRx_of_other (.inr htype) hroom hpass hcrc (by omega),
    execEdgeIngestFrame_of_not, execEdgeIngestFrame_of_damaged,
    fun htype hpass hcrc => ⟨execEdgeIngestFrame_of_unwanted htype hpass hcrc, execEdgeIngestFrame_of_known htype hpass hcrc,
      execEdgeIngestFrame_of_new htype hpass hcrc⟩,
    fun htype hup hok hempty => ?_, fun hbad => ?_, execEdgeControlTimer_of_due, execEdgeControlTimer_of_quiet, fun hup => ?_, fun i hup hfind => ?_, fun hdown => ?_⟩
  · refine (congrArg (fun x : Option State => Host.Outcome.next (x.getD s)) (State.edgeSend_of_bound hown hbound src)).trans ?_
    rw [if_neg (Nat.not_le.2 hroom)]
    rfl
  · refine (congrArg (fun x : Option State => Host.Outcome.next (x.getD s)) (State.edgeSend_of_bound hown hbound src)).trans ?_
    rw [if_pos hfull]
    rfl
  · exact congrArg (fun x : Option State => Host.Outcome.next (x.getD s)) (State.edgeSend_of_unbound hown (.inr hno) src)
  · exact congrArg (fun x : Option State => Host.Outcome.next (x.getD s)) (State.edgeSend_of_unbound hown (.inl rfl) src)
  · exact congrArg (fun x : Option State => Host.Outcome.next (x.getD s)) (State.edgeSend_of_free hfree src raddr d true)
  · exact congrArg _ (if_neg (by simp [htype, hup, hok, hempty]))
  · refine congrArg _ (if_pos ?_)
    rcases hbad with h | h | h <;> simp [h]
  · exact congrArg _ (if_neg (by rw [hup]; decide))
  · rw [show exec (.edgeReplay k (some n)) s = execEdgeReplay k (some n) s from rfl, execEdgeReplay, if_neg (by rw [hup]; decide)]
    rw [hfind]
  · exact congrArg _ (if_pos (by rw [hdown]; rfl))

end Sys2Proof.Machine

/-! SUPPORT. The statements about steps and commands as such: the front command (O1). -/

namespace Sys2Proof.Machine

/-! ### The front command (O1) -/

/-- Settles O1: a step looks at the queue alone. That an idle block lets a nanosecond pass is the model's choice (notes/assumptions/2.md), and that concurrent
parts act in the order of the queue is another (6.md). -/
theorem frontCommandRuns : Obligations.FrontCommandRuns := by
  intro s c rest
  have hidle : s.pending = [] → step s = .next (idleTick s) := fun hq => by simp only [step, hq]
  refine ⟨fun hq => by rw [step, hq], fun hq hon => ?_, fun hq hoff => ?_⟩
  · rw [hidle hq, idleTick, if_pos hon]
  · rw [hidle hq, idleTick, hoff, if_neg Bool.false_ne_true]

end Sys2Proof.Machine

/-! SUPPORT. The queue of waiting commands, which no operation writes: one equation per operation of the model, in the order of its files, and from these that
every command completes (O2). The laws under Laws/ say the same of states in canonical form; O2 speaks of every state.
An equation that holds by `(rfl)` is one that `simp` rewrites with and `dsimp` does not, so that it also serves under `State.pending_foldl`. -/

namespace Sys2Proof.Machine

/-! ### The queue across folds and branches -/

@[simp] theorem State.pending_foldl {α : Type} {f : State → α → State} (hf : ∀ t a, (f t a).pending = t.pending) (l : List α) (s : State) :
    (l.foldl f s).pending = s.pending := foldl_leaves State.pending hf l s

@[simp] theorem State.pending_ite (c : Prop) [Decidable c] (a b : State) : (if c then a else b).pending = if c then a.pending else b.pending :=
  apply_ite State.pending c a b

@[simp] theorem State.fst_pending_ite {β : Type} (c : Prop) [Decidable c] (a b : State × β) :
    (if c then a else b).1.pending = if c then a.1.pending else b.1.pending :=
  apply_ite (fun x : State × β => x.1.pending) c a b

/-! ### Registers and tables: what leaves the queue -/

@[simp] theorem State.setCore_pending (s : State) (c : CoreId) (x : Core) : (s.setCore c x).pending = s.pending := (rfl)
@[simp] theorem State.modCore_pending (s : State) (c : CoreId) (f : Core → Core) : (s.modCore c f).pending = s.pending := (rfl)

/-! ### The last structure: what leaves the queue -/

@[simp] theorem State.publishLast_pending (s : State) : s.publishLast.pending = s.pending := (rfl)

/-! ### Records, faults and stops: what leaves the queue -/

@[simp] theorem State.writeRW_pending (s : State) (a : Nat) (m ro v : Word) : (s.writeRW a m ro v).pending = s.pending := by simp [State.writeRW]
@[simp] theorem State.reservedBits_pending (s : State) (old v reserved : Word) :
    (s.reservedBits old v reserved).pending = s.pending := by simp [State.reservedBits]

@[simp] theorem State.issueWrite_pending (s : State) (addr : Nat) (d : Bytes) (adv : Nat) :
    (s.issueWrite addr d adv).pending = s.pending := by simp [State.issueWrite]

@[simp] theorem State.hostWriteAdv_pending (s : State) (port addr : Nat) (d : Bytes) (adv : Nat) :
    (s.hostWriteAdv port addr d adv).pending = s.pending := by simp [State.hostWriteAdv]

@[simp] theorem State.hostWrite_pending (s : State) (port addr : Nat) (d : Bytes) : (s.hostWrite port addr d).pending = s.pending := by simp [State.hostWrite]
@[simp] theorem State.signalPort_pending (s : State) (port v : Nat) : (s.signalPort port v).pending = s.pending := by simp [State.signalPort]
@[simp] theorem State.signal_pending (s : State) (v : Nat) : (s.signal v).pending = s.pending := by simp [State.signal]
@[simp] theorem State.setPState_pending (s : State) (p v : Nat) : (s.setPState p v).pending = s.pending := (rfl)
@[simp] theorem State.logRaw_pending (s : State) (code : Nat) (arg : Word) (body : Bytes) :
    (s.logRaw code arg body).pending = s.pending := by simp [State.logRaw]

@[simp] theorem State.logEvent_pending (s : State) (code arg : Nat) (data : Bytes) :
    (s.logEvent code arg data).pending = s.pending := by simp [State.logEvent]

@[simp] theorem State.writeRecord_pending (s : State) (inj : Bool) (cls src part detail : Nat) (loc : Word) :
    (s.writeRecord inj cls src part detail loc).pending = s.pending := by simp [State.writeRecord]

@[simp] theorem State.countClass_pending (s : State) (cls : Nat) : (s.countClass cls).pending = s.pending := (rfl)
@[simp] theorem State.corrected_pending (s : State) (src : Nat) (loc : Word) (inj : Bool) :
    (s.corrected src loc inj).pending = s.pending := by simp [State.corrected]

@[simp] theorem State.deferredD_pending (s : State) (src : Nat) (part : Option Nat) (detail : Nat) (loc : Word) (inj : Bool) :
    (s.deferredD src part detail loc inj).pending = s.pending := by simp [State.deferredD]

@[simp] theorem State.deferred_pending (s : State) (src : Nat) (part : Option Nat) (loc : Word) :
    (s.deferred src part loc).pending = s.pending := by simp [State.deferred]

@[simp] theorem State.interruptSpare_pending (s : State) (p reason : Nat) : (s.interruptSpare p reason).pending = s.pending := by
  rw [State.interruptSpare]
  split <;> simp

@[simp] theorem State.stopPart_pending (s : State) (p reason : Nat) : (s.stopPart p reason).pending = s.pending := by
  unfold State.stopPart
  (repeat' split) <;> simp

@[simp] theorem State.jobFatalD_pending (s : State) (part : Option Nat) (src reason : Nat) (loc : Word) (inj : Bool) :
    (s.jobFatalD part src reason loc inj).pending = s.pending := by
  unfold State.jobFatalD
  (repeat' split) <;> simp

@[simp] theorem State.jobFatal_pending (s : State) (part : Option Nat) (src reason : Nat) (loc : Word) :
    (s.jobFatal part src reason loc).pending = s.pending := by simp [State.jobFatal]

@[simp] theorem State.closeRecord_pending (s : State) (n status : Nat) : (s.closeRecord n status).pending = s.pending := (rfl)
@[simp] theorem State.abandonStage_pending (s : State) : s.abandonStage.pending = s.pending := by
  rw [State.abandonStage]
  split <;> simp

@[simp] theorem State.deviceFatalD_pending (s : State) (src : Nat) (loc : Word) (inj : Bool) :
    (s.deviceFatalD src loc inj).pending = s.pending := by simp [State.deviceFatalD]

@[simp] theorem State.deviceFatal_pending (s : State) (src : Nat) (loc : Word) : (s.deviceFatal src loc).pending = s.pending := by simp [State.deviceFatal]
@[simp] theorem State.mapCores_pending (s : State) (r : Nat) (f : Nat → Core → Core) :
    (s.mapCores r f).pending = s.pending := State.pending_foldl (fun _ _ => by simp) _ s

@[simp] theorem State.cutPower_pending (s : State) (r : Nat) : (s.cutPower r).pending = s.pending := by simp [State.cutPower]
@[simp] theorem State.lastPending_pending (s : State) : s.lastPending.pending = s.pending := by simp [State.lastPending]
@[simp] theorem State.regionDies_pending (s : State) (r cause : Nat) (owner : Option Nat) :
    (s.regionDies r cause owner).pending = s.pending := by simp [State.regionDies]

@[simp] theorem State.injCount_pending (s : State) (n : Nat) : (s.injCount n).pending = s.pending := by simp [State.injCount]
@[simp] theorem State.injSend_pending (s : State) (c : Nat) (r : Option Nat) (n : Nat) : (s.injSend c r n).pending = s.pending := by simp [State.injSend]
@[simp] theorem State.injStore_pending (s : State) (c r : Nat) (ws : List Nat) : (s.injStore c r ws).pending = s.pending := by simp [State.injStore]
@[simp] theorem State.memFatalD_pending (s : State) (part : Option Nat) (loc : Word) (inj : Bool) : (s.memFatalD part loc inj).pending = s.pending := by
  unfold State.memFatalD
  (repeat' split) <;> simp

@[simp] theorem State.memFatal_pending (s : State) (part : Option Nat) (loc : Word) : (s.memFatal part loc).pending = s.pending := by simp [State.memFatal]

/-! ### Violations: what leaves the queue -/

@[simp] theorem State.violation_pending (s : State) (reason key src dest ekey r port : Nat) :
    (s.violation reason key src dest ekey r port).pending = s.pending := by
  rw [State.violation]
  split <;> simp

@[simp] theorem State.rimRefused_pending (s : State) (key src x y a : Nat) : (s.rimRefused key src x y a).pending = s.pending := by simp [State.rimRefused]

/-! ### Memory accesses and checks: what leaves the queue -/

@[simp] theorem State.rimWrite_pending (s : State) (a : Nat) (d : Bytes) : (s.rimWrite a d).1.pending = s.pending := by simp [State.rimWrite]
@[simp] theorem State.rimCheck_pending (s : State) (p : Option Nat) (a bad : Nat) (chk : CodeCheck) : (s.rimCheck p a bad chk).pending = s.pending := by
  unfold State.rimCheck
  (repeat' split) <;> simp

@[simp] theorem State.bondWrite1_pending (s : State) (r off : Nat) (d : Bytes) : (s.bondWrite1 r off d).pending = s.pending := by
  rw [State.bondWrite1]
  split <;> simp

@[simp] theorem State.bondWrite_pending (s : State) (r off : Nat) (d : Bytes) : (s.bondWrite r off d).pending = s.pending := by simp [State.bondWrite]
@[simp] theorem State.bondCheck_pending (s : State) (r k row src : Nat) (chk : CodeCheck) : (s.bondCheck r k row src chk).pending = s.pending := by
  simp [State.bondCheck]
  (repeat' split) <;> simp

@[simp] theorem State.complete_pending (s : State) (p op status ring : Nat) (tag result : Bytes) :
    (s.complete p op status ring tag result).pending = s.pending := by simp [State.complete]

@[simp] theorem State.scAdd_pending (s : State) (r n : Nat) : (s.scAdd r n).pending = s.pending := (rfl)
@[simp] theorem State.sramWrite_pending (s : State) (r a : Nat) (d : Bytes) : (s.sramWrite r a d).pending = s.pending := by simp [State.sramWrite]
@[simp] theorem State.seqFault_pending (s : State) (r code : Nat) : (s.seqFault r code).pending = s.pending := by simp [State.seqFault]
@[simp] theorem State.toCore_pending (s : State) (key space addr : Nat) (d : Bytes) (ctr : Option Nat) :
    (s.toCore key space addr d ctr).pending = s.pending := (rfl)

/-! ### The page keeper: what leaves the queue -/

@[simp] theorem State.setKeeper_pending (s : State) (r : Nat) (k : Keeper) : (s.setKeeper r k).pending = s.pending := (rfl)
@[simp] theorem State.mapParts_pending (s : State) (r grp : Nat) (f : State → Nat → Nat → Nat → Mem → Mem) : (s.mapParts r grp f).pending = s.pending := by
  refine State.pending_foldl (fun u t => State.pending_foldl (fun v j => ?_) _ _) _ _
  split <;> simp

@[simp] theorem State.keeperViolation_pending (s : State) (r kind : Nat) (inj : Bool) :
    (s.keeperViolation r kind inj).pending = s.pending := by simp [State.keeperViolation]

@[simp] theorem State.publishKeeper_pending (s : State) (r : Nat) : (s.publishKeeper r).pending = s.pending := by
  simp [State.publishKeeper]
  (repeat' split) <;> simp

@[simp] theorem State.kDeliver_pending (s : State) (r : Nat) (src : KeeperSrc) (query : Bool) (a : KAns) :
    (s.kDeliver r src query a).pending = s.pending := by
  unfold State.kDeliver
  (repeat' split) <;> simp

@[simp] theorem State.kStatus_pending (s : State) (r status : Nat) : (s.kStatus r status).pending = s.pending := by simp [State.kStatus]
@[simp] theorem State.kPerform_pending (s : State) (r : Nat) (op : KeeperOp) : (s.kPerform r op).1.pending = s.pending := by simp [State.kPerform]
@[simp] theorem State.kDrain_pending (s : State) (r : Nat) : (s.kDrain r).pending = s.pending := by simp [State.kDrain]
@[simp] theorem State.kServe_pending (s : State) (r code page grp : Nat) (tent : Bool) :
    (s.kServe r code page grp tent).1.pending = s.pending := by simp [State.kServe]

@[simp] theorem State.pkPresent_pending (s : State) (r : Nat) (v : Word) : (s.pkPresent r v).pending = s.pending := by simp [State.pkPresent]
@[simp] theorem State.keeperCmd_pending (s : State) (r code page grp : Nat) (tent : Bool) : (s.keeperCmd r code page grp tent).pending = s.pending := by
  simp [State.keeperCmd]
  (repeat' split) <;> simp

@[simp] theorem State.copyDone_pending (s : State) (r i : Nat) : (s.copyDone r i).pending = s.pending := by
  simp [State.copyDone]
  (repeat' split) <;> simp

@[simp] theorem State.moveParts_pending (s : State) (r : Nat) (x : PageRec) (toRim : Bool) : (s.moveParts r x toRim).pending = s.pending := by
  unfold State.moveParts
  split
  · refine State.pending_foldl (fun u t => State.pending_foldl (fun v j => ?_) _ _) _ _
    split <;> simp
  · simp

@[simp] theorem State.heldPinsOf_pending (s : State) (r i : Nat) : (s.heldPinsOf r i).pending = s.pending := by simp [State.heldPinsOf]
@[simp] theorem State.moveDone_pending (s : State) (r i : Nat) : (s.moveDone r i).pending = s.pending := by
  simp [State.moveDone]
  (repeat' split) <;> simp

@[simp] theorem State.zeroReported_pending (s : State) (r i : Nat) : (s.zeroReported r i).pending = s.pending := by
  rw [State.zeroReported]
  split <;> simp

/-! ### Stretches and wakes: what leaves the queue -/

@[simp] theorem State.showLimit_pending (s : State) (r : Nat) : (s.showLimit r).pending = s.pending := (rfl)
@[simp] theorem State.announcePart_pending (s : State) (p : Nat) : (s.announcePart p).pending = s.pending := by simp [State.announcePart]
@[simp] theorem State.announce_pending (s : State) (r : Nat) : (s.announce r).pending = s.pending := by
  rw [State.announce]
  split <;> simp

@[simp] theorem State.announceAll_pending (s : State) : s.announceAll.pending = s.pending := by simp [State.announceAll]
@[simp] theorem State.checkConditions_pending (s : State) : s.checkConditions.pending = s.pending := by simp [State.checkConditions]

/-! ### Emissions, moves and the list engine: what leaves the queue -/

@[simp] theorem State.ringConfig_pending (s : State) (r off : Nat) (v : Word) : (s.ringConfig r off v).pending = s.pending := by simp [State.ringConfig]
@[simp] theorem State.presentEmission_pending (s : State) (r i : Nat) (d : Bytes) (fromList : Bool) :
    (s.presentEmission r i d fromList).1.pending = s.pending := by
  simp only [State.presentEmission]
  (repeat' split) <;> simp

@[simp] theorem State.sqEmit_pending (s : State) (r : Nat) (v : Word) : (s.sqEmit r v).pending = s.pending := by simp [State.sqEmit]
@[simp] theorem State.landEmission_pending (s : State) (r : Nat) (e : Emission) :
    (s.landEmission r e).pending = s.pending := State.pending_foldl (fun _ _ => by simp) _ s

@[simp] theorem State.presentMove_pending (s : State) (r : Nat) (b : Bytes) (assist : Option (Nat × Nat)) :
    (s.presentMove r b assist).pending = s.pending := by
  simp [State.presentMove]
  (repeat' split) <;> simp

@[simp] theorem State.sqMov_pending (s : State) (r : Nat) (v : Word) : (s.sqMov r v).pending = s.pending := by simp [State.sqMov]
@[simp] theorem State.moveData_pending (s : State) (r : Nat) (m : Move) (chk : CodeCheck) : (s.moveData r m chk).pending = s.pending := by
  unfold State.moveData
  (repeat' split) <;> simp

@[simp] theorem State.landMove_pending (s : State) (r : Nat) (m : Move) : (s.landMove r m).pending = s.pending := by
  rw [State.landMove]
  split <;> simp

@[simp] theorem State.landFront_pending (s : State) (r n : Nat) : (s.landFront r n).pending = s.pending := by
  fun_induction State.landFront <;> simp_all

@[simp] theorem State.moverDone_pending (s : State) (r : Nat) (chk : CodeCheck) : (s.moverDone r chk).pending = s.pending := by
  simp [State.moverDone]
  (repeat' split) <;> simp

@[simp] theorem State.landDueMove_pending (s : State) (r : Nat) (m : Move) : (s.landDueMove r m).pending = s.pending := by simp [State.landDueMove]
@[simp] theorem State.noteList_pending (s : State) (r : Nat) (bonded : Bool) (base : Nat) : (s.noteList r bonded base).pending = s.pending := by
  rw [State.noteList]
  split <;> simp

@[simp] theorem State.leStart_pending (s : State) (r : Nat) (v : Word) (assist : Option (Nat × Nat)) :
    (s.leStart r v assist).pending = s.pending := by simp [State.leStart]

@[simp] theorem State.walkList_pending (s : State) (r n : Nat) : (s.walkList r n).pending = s.pending := by
  induction n generalizing s with
  | zero => rfl
  | succ n ih =>
    simp only [State.walkList]
    (repeat' split) <;> simp [ih]

@[simp] theorem State.listWalk_pending (s : State) (r : Nat) : (s.listWalk r).pending = s.pending := by simp [State.listWalk]

/-! ### The sequencer: what leaves the queue -/

@[simp] theorem State.seqWindow_pending (s : State) (r off : Nat) (v : Word) : (s.seqWindow r off v).pending = s.pending := by simp [State.seqWindow]
theorem State.seqStore_pending {s t : State} {r a n v : Nat} (h : s.seqStore r a n v = .ok t) : t.pending = s.pending := by
  unfold State.seqStore at h
  split at h
  · obtain ⟨⟩ := h
  split at h
  · rw [← Except.ok.inj h, State.sramWrite_pending]
  split at h
  · rw [← Except.ok.inj h]
    split <;> simp
  split at h
  · split at h
    · rw [← Except.ok.inj h, State.bondWrite_pending]
    · obtain ⟨⟩ := h
  · obtain ⟨⟩ := h

@[simp] theorem State.seqCheck_pending (s : State) (r : Nat) (bonded : Option Nat) (chk : CodeCheck) : (s.seqCheck r bonded chk).pending = s.pending := by
  unfold State.seqCheck
  (repeat' split) <;> simp

@[simp] theorem State.retire_pending (s : State) (r rd : Nat) (v : Word) (pc next : Nat) : (s.retire r rd v pc next).pending = s.pending := (rfl)
@[simp] theorem State.seqExec_pending (s : State) (r : Nat) (w : Word) (pc len : Nat) (chk : CodeCheck) : (s.seqExec r w pc len chk).pending = s.pending := by
  unfold State.seqExec
  extract_lets q op rd f3 a b f7 next rel ans imm1 imm2 addr1 addr2
  have hans (v : Option Word) : (ans v).pending = s.pending := by
    unfold ans
    split <;> simp
  clear_value q op f3 rd a b f7 next rel ans imm1 imm2 addr1 addr2
  split
  case h_7 =>
    split
    · simp
    split
    · simp
    split
    · simp
    split <;> simp [State.seqStore_pending ‹_›]
  all_goals (repeat' split) <;> simp [hans]

@[simp] theorem State.seqStep_pending (s : State) (r : Nat) (chk : CodeCheck) : (s.seqStep r chk).pending = s.pending := by
  simp [State.seqStep]
  (repeat' split) <;> simp

/-! ### Spools: what leaves the queue -/

@[simp] theorem State.startSpool_pending (s : State) (key : Nat) (o : BitVec 46) (write : Bool) : (s.startSpool key o write).pending = s.pending := by
  simp only [State.startSpool]
  (repeat' split) <;> simp

/-! ### Waits and stalls: what leaves the queue -/

@[simp] theorem State.startStl_pending (s : State) (key : Nat) (o : BitVec 46) : (s.startStl key o).pending = s.pending := by
  rw [State.startStl]
  split <;> simp

@[simp] theorem State.startTrc_pending (s : State) (key : Nat) (o : BitVec 46) : (s.startTrc key o).pending = s.pending := by
  rw [State.startTrc]
  split <;> simp

/-! ### Sends: what leaves the queue -/

@[simp] theorem State.inject_pending (s : State) (f : Flit) : (s.inject f).pending = s.pending := (rfl)
@[simp] theorem State.startSnd_pending (s : State) (key : Nat) (o : BitVec 46) : (s.startSnd key o).pending = s.pending := (rfl)
@[simp] theorem State.startMcs_pending (s : State) (key : Nat) (o : BitVec 46) : (s.startMcs key o).pending = s.pending := (rfl)
@[simp] theorem State.startRds_pending (s : State) (key : Nat) (o : BitVec 46) : (s.startRds key o).pending = s.pending := (rfl)
@[simp] theorem State.startSig_pending (s : State) (key : Nat) (o : BitVec 46) : (s.startSig key o).pending = s.pending := (rfl)

/-! ### Bundles: what leaves the queue -/

@[simp] theorem State.startIns_pending (s : State) (key : Nat) (i : SlotIns) : (s.startIns key i).pending = s.pending := by
  unfold State.startIns
  (repeat' split) <;> simp

@[simp] theorem State.detect_pending (s : State) (key slot code pc info : Nat) :
    (s.detect key slot code pc info).pending = s.pending := by simp [State.detect]

@[simp] theorem State.startAll_pending (s : State) (key : Nat) (l : List SlotIns) : (s.startAll key l).pending = s.pending := by
  fun_induction State.startAll <;> simp_all

@[simp] theorem State.holdBundle_pending (s : State) (key slot info limit : Nat) :
    (s.holdBundle key slot info limit).pending = s.pending := by simp [State.holdBundle]

@[simp] theorem State.jobCompletes_pending (s : State) (p : Option Nat) : (s.jobCompletes p).pending = s.pending := by
  unfold State.jobCompletes
  (repeat' split) <;> simp

@[simp] theorem State.issue_pending (s : State) (key : Nat) (ops : List SlotIns) (tb : Bool) : (s.issue key ops tb).pending = s.pending := by
  simp [State.issue]
  (repeat' split) <;> simp

@[simp] theorem State.refuseSealed_pending (s : State) (key : Nat) : (s.refuseSealed key).pending = s.pending := by simp [State.refuseSealed]
@[simp] theorem State.raiseLate_pending (s : State) (key pc : Nat) (l : Late) : (s.raiseLate key pc l).pending = s.pending := by
  fun_induction State.raiseLate <;> simp_all

@[simp] theorem State.injLanding_pending (s : State) (key : Nat) : (s.injLanding key).pending = s.pending := by
  unfold State.injLanding
  split
  · rfl
  · refine State.pending_foldl (fun t e => ?_) _ _
    split <;> simp

@[simp] theorem State.coreCycle_pending (s : State) (key : Nat) (get : Core → Option (List SlotIns × Bool)) : (s.coreCycle key get).pending = s.pending := by
  simp [State.coreCycle]
  (repeat' split) <;> simp

@[simp] theorem State.endWall_pending (s : State) (p : Nat) : (s.endWall p).pending = s.pending := by
  simp [State.endWall]
  (repeat' split) <;> simp

@[simp] theorem State.cycle_pending (s : State) (c : CoreId) (get : Core → Option (List SlotIns × Bool)) : (s.cycle c get).pending = s.pending := by
  simp [State.cycle]
  (repeat' split) <;> simp

@[simp] theorem State.slotCycle_pending (s : State) (c : CoreId) (slot op : Nat) (o : BitVec 46) :
    (s.slotCycle c slot op o).pending = s.pending := by simp [State.slotCycle]

/-! ### Flits, rounds and links: what leaves the queue -/

@[simp] theorem State.countFlit_pending (s : State) (r q : Nat) : (s.countFlit r q).pending = s.pending := by simp [State.countFlit]
@[simp] theorem State.countHold_pending (s : State) (r q : Nat) : (s.countHold r q).pending = s.pending := (rfl)
@[simp] theorem State.setFlits_pending (s : State) (l : List Flit) : (s.setFlits l).pending = s.pending := (rfl)
@[simp] theorem State.dropFlit_pending (s : State) (i : Nat) : (s.dropFlit i).pending = s.pending := (rfl)
@[simp] theorem State.addFlit_pending (s : State) (f : Flit) : (s.addFlit f).pending = s.pending := (rfl)
theorem State.sendRing_pending {s t : State} {f : Flit} {r q need : Nat} (h : s.sendRing f r q need = some t) : t.pending = s.pending := by
  revert h
  simp only [State.sendRing]
  (repeat' split) <;> simp +contextual [Option.some.injEq, eq_comm]

@[simp] theorem State.sendRing_getD_pending {s t : State} (ht : t.pending = s.pending) (f : Flit) (r q need : Nat) :
    ((s.sendRing f r q need).getD t).pending = s.pending := by
  cases h : s.sendRing f r q need with
  | none => exact ht
  | some u => exact State.sendRing_pending h

@[simp] theorem State.waitFlit_pending (s : State) (i r o : Nat) (f : Flit) : (s.waitFlit i r o f).pending = s.pending := (rfl)
@[simp] theorem State.hop_pending (s : State) (i : Nat) (singleBitError : Bool) : (s.hop i singleBitError).pending = s.pending := by
  unfold State.hop
  split
  · rfl
  split
  · rfl
  split
  · rfl
  extract_lets s1 _ s2
  have h2 : s2.pending = s.pending := by
    unfold s2 s1
    dsimp only
    split <;> simp
  clear_value s2
  split
  · simp [h2]
  split
  · exact h2
  extract_lets q
  clear_value q
  (repeat' split) <;> simp [h2]

@[simp] theorem State.linkFaults_pending (s : State) (ps : List Nat) (loc : Word) : (s.linkFaults ps loc).pending = s.pending := by simp [State.linkFaults]
@[simp] theorem State.hubStop_pending (s : State) (r : Nat) : (s.hubStop r).pending = s.pending := by simp [State.hubStop]
@[simp] theorem State.hubDies_pending (s : State) (r : Nat) : (s.hubDies r).pending = s.pending := by simp [State.hubDies]
theorem State.copyLocal_pending {s t : State} {f : Flit} {r dest : Nat} (h : s.copyLocal f r dest = some t) : t.pending = s.pending := by
  revert h
  simp only [State.copyLocal]
  split
  · simp
  · rintro ⟨⟩; simp

theorem State.takeBranch_pending {s t : State} {f : Flit} {r : Nat} {b : Branch} (h : s.takeBranch f r b = some t) : t.pending = s.pending := by
  unfold State.takeBranch at h
  cases b with
  | dir q => exact State.sendRing_pending h
  | stub q =>
    dsimp only at h
    split at h
    · obtain ⟨⟩ := h
      simp
    · obtain ⟨⟩ := h
  | core n =>
    dsimp only at h
    split at h
    · exact State.copyLocal_pending h
    · obtain ⟨⟩ := h
      rfl
  | seq => exact State.copyLocal_pending h

@[simp] theorem State.takeBranches_pending (s : State) (f : Flit) (r : Nat) (l : List Branch) : (s.takeBranches f r l).1.pending = s.pending := by
  induction l generalizing s with
  | nil => rfl
  | cons b t ih =>
    unfold State.takeBranches
    split
    · dsimp only
      rw [ih, State.takeBranch_pending ‹_›]
    · dsimp only
      rw [ih]
      split <;> simp

@[simp] theorem State.replicate_pending (s : State) (i : Nat) : (s.replicate i).pending = s.pending := by
  unfold State.replicate
  (repeat' split) <;> simp

@[simp] theorem State.stallLog_pending (s : State) (kind part index target r : Nat) :
    (s.stallLog kind part index target r).pending = s.pending := by simp [State.stallLog]

@[simp] theorem State.setRounds_pending (s : State) (l : List Round) : (s.setRounds l).pending = s.pending := (rfl)
@[simp] theorem State.contribute_pending (s : State) (i : Nat) : (s.contribute i).pending = s.pending := by
  simp [State.contribute]
  (repeat' split) <;> simp

@[simp] theorem State.forwardRound_pending (s : State) (i : Nat) : (s.forwardRound i).pending = s.pending := by
  unfold State.forwardRound
  split
  · rfl
  split
  · rfl
  split
  · rfl
  extract_lets land f _ gone
  have hg : gone.pending = s.pending := rfl
  clear_value gone
  split
  · extract_lets straight
    split
    · rw [State.sendRing_pending ‹_›, hg]
    · simp
  · split <;> simp [hg]

@[simp] theorem State.buildMap_pending (s : State) (cycles : Nat) : (s.buildMap cycles).pending = s.pending := by simp [State.buildMap]

/-! ### Stall mode: what leaves the queue -/

@[simp] theorem State.landSpool_pending (s : State) (key : Nat) (q : SpoolReq) : (s.landSpool key q).pending = s.pending := (rfl)
@[simp] theorem State.spoolDone_pending (s : State) (key sp : Nat) (chk : CodeCheck) : (s.spoolDone key sp chk).pending = s.pending := by
  unfold State.spoolDone
  extract_lets c p before
  split
  · rfl
  · extract_lets n s1
    have h1 : s1.pending = s.pending := by
      unfold s1
      split
      · dsimp only
        rw [State.rimCheck_pending, State.pending_foldl fun _ _ => by simp]
        exact State.rimWrite_pending ..
      · simp
    split <;> simp [h1]

@[simp] theorem State.deliverCore_pending (s : State) (f : Flit) (r n ekey : Nat) : (s.deliverCore f r n ekey).pending = s.pending := by
  unfold State.deliverCore
  (repeat' split) <;> simp

@[simp] theorem State.lateStall_pending (s : State) (p : Nat) : (s.lateStall p).pending = s.pending := by simp [State.lateStall]
@[simp] theorem State.feedback_pending (s : State) (cores seqs : List Nat) (addr cn : Nat) (data : Bytes) :
    (s.feedback cores seqs addr cn data).pending = s.pending := by
  unfold State.feedback
  extract_lets s1
  rw [State.pending_foldl fun t r => ?_, State.pending_foldl fun _ _ => by simp]
  split <;> simp

@[simp] theorem State.landItem_pending (s : State) (d : DueItem) : (s.landItem d).pending = s.pending := by
  rw [State.landItem]
  split <;> simp

/-! ### Sampling: what leaves the queue -/

@[simp] theorem State.setUnit_pending (s : State) (u : Nat) (x : SampUnit) : (s.setUnit u x).pending = s.pending := (rfl)
@[simp] theorem State.setPass_pending (s : State) (p : Nat) (y : Pass) : (s.setPass p y).pending = s.pending := (rfl)
@[simp] theorem State.sampleRow_pending (s : State) (p u : Nat) (y : Pass) (row : Nat) (r : SampRow) : (s.sampleRow p u y row r).pending = s.pending := by
  simp [State.sampleRow]
  (repeat' split) <;> simp

@[simp] theorem State.armFeedback_pending (s : State) (p pass sent : Nat) : (s.armFeedback p pass sent).pending = s.pending := by
  rw [State.armFeedback]
  split <;> simp

@[simp] theorem State.candidateFlit_pending (s : State) (u key src sent dsp raddr : Nat) (d : Bytes) (ce : Bool) :
    (s.candidateFlit u key src sent dsp raddr d ce).pending = s.pending := by
  simp [State.candidateFlit]
  (repeat' split) <;> simp

/-! ### Output and completion rings: what leaves the queue -/

@[simp] theorem State.putRecord_pending (s : State) (p : Nat) (rec_ : Bytes) : (s.putRecord p rec_).pending = s.pending := by simp [State.putRecord]
@[simp] theorem State.emitRecord_pending (s : State) (p : Nat) (rec_ : Bytes) : (s.emitRecord p rec_).pending = s.pending := by simp [State.emitRecord]
@[simp] theorem State.flushRecords_pending (s : State) (p : Nat) : (s.flushRecords p).pending = s.pending := by simp [State.flushRecords]
@[simp] theorem State.lostRecord_pending (s : State) (k : KeptSeq) : (s.lostRecord k).pending = s.pending := by simp [State.lostRecord]
@[simp] theorem State.lostRecords_pending (s : State) : s.lostRecords.pending = s.pending := by simp [State.lostRecords]

/-! ### Accounts: what leaves the queue -/

@[simp] theorem State.setAcct_pending (s : State) (a : Nat) (x : Acct) : (s.setAcct a x).pending = s.pending := (rfl)
@[simp] theorem State.ledgerViolation_pending (s : State) (kind a : Nat) (inj : Bool) :
    (s.ledgerViolation kind a inj).pending = s.pending := by simp [State.ledgerViolation]

@[simp] theorem State.ledger_pending (s : State) (a : Nat) (f : Ledger → Ledger) : (s.ledger a f).pending = s.pending := by simp [State.ledger]
@[simp] theorem State.mint_pending (s : State) (a n : Nat) : (s.mint a n).pending = s.pending := by simp [State.mint]
@[simp] theorem State.returnAll_pending (s : State) : s.returnAll.pending = s.pending := by simp [State.returnAll]
@[simp] theorem State.refill_pending (s : State) (a : Nat) : (s.refill a).pending = s.pending := by simp [State.refill]
@[simp] theorem State.grant_pending (s : State) (v : Word) : (s.grant v).pending = s.pending := by simp [State.grant]
@[simp] theorem State.meterPart_pending (s : State) (p e : Nat) : (s.meterPart p e).pending = s.pending := by simp [State.meterPart]
@[simp] theorem State.meterTick_pending (s : State) (feedMicroJ : Nat) : (s.meterTick feedMicroJ).pending = s.pending := by simp [State.meterTick]

/-! ### Placement: what leaves the queue -/

@[simp] theorem State.assignEndpoints_pending (s : State) : s.assignEndpoints.pending = s.pending := (rfl)
@[simp] theorem State.giveEndpoints_pending (s : State) (p key : Nat) (rs : List Placed) (tbl : List (Dest × Nat × Nat)) :
    (s.giveEndpoints p key rs tbl).pending = s.pending := (rfl)

theorem State.buildTables_pending {s t : State} {key : Nat} {img : Bytes} {rs : List Placed} (h : s.buildTables key img rs = some t) :
    t.pending = s.pending := by
  revert h
  unfold State.buildTables
  extract_lets
  split
  · rintro ⟨⟩
  · split
    · rintro ⟨⟩
    · rintro ⟨⟩
      rfl

theorem State.withPlacement_pending {s t : State} {p key : Nat} {img : Bytes} {rs : List Placed} (h : s.withPlacement p key img rs = some t) :
    t.pending = s.pending := by
  unfold State.withPlacement at h
  rw [State.buildTables_pending h, State.giveEndpoints_pending, State.modPart_pending]

/-! ### Ends of jobs and of regions: what leaves the queue -/

@[simp] theorem State.clearRows_pending (s : State) (r from_ n : Nat) : (s.clearRows r from_ n).pending = s.pending := by
  refine State.pending_foldl (fun t e => ?_) _ _
  split <;> simp

@[simp] theorem State.releaseHeld_pending (s : State) (r : Nat) : (s.releaseHeld r).pending = s.pending := by simp [State.releaseHeld]
@[simp] theorem State.purgeFabric_pending (s : State) (p : Nat) : (s.purgeFabric p).pending = s.pending := (rfl)
@[simp] theorem State.beginZeroize_pending (s : State) (p : Nat) : (s.beginZeroize p).pending = s.pending := by simp [State.beginZeroize]
@[simp] theorem State.clearRegion_pending (s : State) (r : Nat) : (s.clearRegion r).pending = s.pending := by
  unfold State.clearRegion
  extract_lets keep s1 s2 _ s3 s4 s5
  have h4 : s4.pending = s3.pending := State.pending_foldl (fun _ _ => by simp) _ _
  rw [State.wr_pending, State.setFld_pending, h4, State.modRegion_pending, State.mapCores_pending, State.clearRows_pending]

@[simp] theorem State.endExtents_pending (s : State) (p : Nat) : (s.endExtents p).pending = s.pending := by simp [State.endExtents]
@[simp] theorem State.clearWelt_pending (s : State) (p : Nat) : (s.clearWelt p).pending = s.pending := (rfl)
@[simp] theorem State.freePart_pending (s : State) (p : Nat) : (s.freePart p).pending = s.pending := by
  unfold State.freePart
  extract_lets x s1 s2 _ s3
  have h1 : s1.pending = s.pending := by
    unfold s1
    split
    · exact State.wr64_pending ..
    · rfl
  have h2 : s2.pending = s.pending := by
    rw [State.setPart_pending, State.clearWelt_pending, State.endExtents_pending, h1]
  have h3 : s3.pending = s2.pending := by
    unfold s3
    split
    · split
      · rw [State.setFld_pending]
      · rfl
    · rfl
  rw [State.setFld_pending, State.setFld_pending, State.setPState_pending, h3, h2]

@[simp] theorem State.loadFinished_pending (s : State) : s.loadFinished.pending = s.pending := by simp [State.loadFinished]
@[simp] theorem State.loadStatus_pending (s : State) (p status ingest : Nat) : (s.loadStatus p status ingest).pending = s.pending := (rfl)
@[simp] theorem State.refuseLoad_pending (s : State) (p status ingest : Nat) :
    (s.refuseLoad p status ingest).pending = s.pending := by simp [State.refuseLoad]

@[simp] theorem State.writeRows_pending (s : State) (r n row : Nat) (d : Bytes) : (s.writeRows r n row d).pending = s.pending := by
  rw [State.writeRows]
  split <;> simp

@[simp] theorem State.ingBytes_pending (s : State) (n : Nat) : (s.ingBytes n).pending = s.pending := (rfl)
@[simp] theorem State.openStream_pending (s : State) : s.openStream.pending = s.pending := (rfl)
@[simp] theorem State.ingState_pending (s : State) (st : Nat) : (s.ingState st).pending = s.pending := by simp [State.ingState]
@[simp] theorem State.dropUnsealed_pending (s : State) (p : Nat) : (s.dropUnsealed p).pending = s.pending := by simp [State.dropUnsealed]
@[simp] theorem State.ingFail_pending (s : State) (status tensor : Nat) : (s.ingFail status tensor).pending = s.pending := by
  rw [State.ingFail]
  split <;> simp

@[simp] theorem State.sealReady_pending (s : State) (p : Nat) : (s.sealReady p).pending = s.pending := by simp [State.sealReady]
@[simp] theorem State.shareExtents_pending (s : State) (p : Nat) : (s.shareExtents p).pending = s.pending := by
  unfold State.shareExtents
  extract_lets img
  split
  · rfl
  · extract_lets rims exts fresh
    change (s.modPart p fun x => { x with extents := exts }).pending = s.pending
    rw [State.modPart_pending]

@[simp] theorem State.ingFinish_pending (s : State) (p : Nat) : (s.ingFinish p).pending = s.pending := by simp [State.ingFinish]
theorem State.fromShadow_pending {s u : State} {p : Nat} {img : Bytes} {t : Tensor} (h : s.fromShadow p img t = .ok u) : u.pending = s.pending := by
  unfold State.fromShadow at h
  revert u
  refine List.foldlRecOn (motive := fun r : Except Nat State => ∀ {u : State}, r = .ok u → u.pending = s.pending) _ _ ?_ fun r hr e _ u hu => ?_
  · rintro u ⟨⟩
    rfl
  · simp only at hu
    (repeat' split at hu) <;> cases hu
    · exact hr rfl
    · rw [State.ingBytes_pending, State.writeRows_pending]
      exact hr rfl

@[simp] theorem State.startIngest_pending (s : State) (p : Nat) (img : Bytes) : (s.startIngest p img).pending = s.pending := by
  unfold State.startIngest
  split
  · rfl
  extract_lets s1 todo prog s2 s3 r
  have h1 : s1.pending = s.pending := by
    unfold s1
    rw [State.wr64_pending, State.wr_pending, State.openStream_pending]
  clear_value s1
  have h2 : s2.pending = s1.pending := State.ingState_pending s1 1
  clear_value s2
  have h3 : s3.pending = s.pending := h2.trans h1
  clear_value s3 todo prog
  split
  · rw [State.ingFail_pending, h3]
  have hr : ∀ u, r = .ok u → u.pending = s.pending := by
    refine List.foldlRecOn (motive := fun r : Except (Nat × Nat) State => ∀ u, r = .ok u → u.pending = s.pending) _ _ ?_ fun r hr t _ u hu => ?_
    · rintro u ⟨⟩
      exact h3
    · simp only at hu
      (repeat' split at hu) <;> cases hu
      dsimp only
      exact (State.fromShadow_pending ‹_›).trans (hr _ rfl)
  clear_value r
  split
  · rw [State.ingFail_pending, h3]
  · rw [State.ingFinish_pending, hr _ rfl]

/-! ### Ingest: what leaves the queue -/

@[simp] theorem State.ingRim_pending (s : State) (p a : Nat) (d : Bytes) : (s.ingRim p a d).1.pending = s.pending := by simp [State.ingRim]
@[simp] theorem State.ingSlice_pending (s : State) (p : Nat) (pl : Place) (d : Bytes) : (s.ingSlice p pl d).1.pending = s.pending := by
  unfold State.ingSlice
  split <;> simp

@[simp] theorem State.putGroup_pending (s : State) (p : Nat) (t : Tensor) (e : Nat) (d : Bytes) : (s.putGroup p t e d).1.pending = s.pending := by
  unfold State.putGroup
  dsimp only
  (repeat' split) <;> simp

@[simp] theorem State.putGroups_pending (s : State) (p : Nat) (t : Tensor) (rows : List (List Bytes)) (raw : List Bytes) (l : List Nat) :
    (s.putGroups p t rows raw l).1.pending = s.pending := by
  induction l generalizing s with
  | nil => rfl
  | cons d t ih =>
    simp only [State.putGroups]
    (repeat' split) <;> simp [ih]

@[simp] theorem State.tensorDone_pending (s : State) (t : Tensor) (acc : Bytes) : (s.tensorDone t acc).1.pending = s.pending := by
  rw [State.tensorDone]
  split <;> simp

@[simp] theorem State.takeRows_pending (s : State) (p : Nat) (t : Tensor) (b d : Bytes) : (s.takeRows p t b d).1.pending = s.pending := by
  simp [State.takeRows]
  (repeat' split) <;> simp

@[simp] theorem State.ingEnd_pending (s : State) (p : Nat) : (s.ingEnd p).pending = s.pending := by simp [State.ingEnd]
@[simp] theorem State.takeSegment_pending (s : State) (p : Nat) (b : Bytes) : (s.takeSegment p b).pending = s.pending := by
  simp [State.takeSegment]
  (repeat' split) <;> simp

@[simp] theorem State.setSource_pending (s : State) (k : Nat) (b : Bytes) : (s.setSource k b).pending = s.pending := (rfl)
@[simp] theorem State.ingPump_pending (s : State) : s.ingPump.pending = s.pending := by
  simp [State.ingPump]
  (repeat' split) <;> simp

/-! ### Serving: what leaves the queue -/

@[simp] theorem State.setRings_pending (s : State) (p : Nat) (x : Rings) : (s.setRings p x).pending = s.pending := (rfl)
theorem State.takeRing_pending {s t : State} {p : Nat} {assist : Bool} {e : Bytes} (h : s.takeRing p assist e = some t) : t.pending = s.pending := by
  obtain ⟨_, _, rfl⟩ := Option.map_eq_some_iff.mp h
  simp

@[simp] theorem State.cmdAnswer_pending (s : State) (p : Nat) (e : Bytes) (status : Nat) (result : Bytes) :
    (s.cmdAnswer p e status result).pending = s.pending := by simp [State.cmdAnswer]

@[simp] theorem State.finish_pending (s : State) (p : Nat) (e : Bytes) (status : Nat) : (s.finish p e status).pending = s.pending := by simp [State.finish]
@[simp] theorem State.setSeq_pending (s : State) (i : Nat) (x : Option Seq) : (s.setSeq i x).pending = s.pending := (rfl)
@[simp] theorem State.wakeWaiting_pending (s : State) (p : Nat) : (s.wakeWaiting p).pending = s.pending := by
  unfold State.wakeWaiting
  split
  · rfl
  · refine State.pending_foldl (fun t i => ?_) _ _
    (repeat' split) <;> simp

@[simp] theorem State.wakeAll_pending (s : State) : s.wakeAll.pending = s.pending := by simp [State.wakeAll]
@[simp] theorem State.forPages_pending (s : State) (t code : Nat) (l : List ListEntry) : (s.forPages t code l).pending = s.pending := by simp [State.forPages]
@[simp] theorem State.refPages_pending (s : State) (t : Nat) (l done : List ListEntry) : (s.refPages t l done).2.pending = s.pending := by
  induction l generalizing s done with
  | nil => rfl
  | cons e r ih =>
    simp only [State.refPages]
    split <;> simp [ih]

theorem State.refPages_some_pending {s t : State} {r : Nat} {l done : List ListEntry} (h : (s.refPages r l done).1 = some t) : t.pending = s.pending := by
  induction l generalizing s done with
  | nil => obtain ⟨⟩ := h; rfl
  | cons e l ih =>
    simp only [State.refPages] at h
    split at h
    · rw [ih h, State.kServe_pending]
    · obtain ⟨⟩ := h

@[simp] theorem State.setAdapter_pending (s : State) (i : Nat) (x : Adapter) : (s.setAdapter i x).pending = s.pending := (rfl)
@[simp] theorem State.settleAdapter_pending (s : State) (i : Nat) : (s.settleAdapter i).pending = s.pending := by simp [State.settleAdapter]
@[simp] theorem State.dropAdapter_pending (s : State) (a : Option (Nat × Nat)) : (s.dropAdapter a).pending = s.pending := by
  unfold State.dropAdapter
  (repeat' split) <;> simp

@[simp] theorem State.dropDraft_pending (s : State) (d : Draft) : (s.dropDraft d).pending = s.pending := by
  rw [State.dropDraft]
  split <;> simp

@[simp] theorem State.dropSeq_pending (s : State) (i : Nat) : (s.dropSeq i).pending = s.pending := by
  simp [State.dropSeq]
  (repeat' split) <;> simp

@[simp] theorem State.endSeq_pending (s : State) (i status : Nat) : (s.endSeq i status).pending = s.pending := by
  rw [State.endSeq]
  split <;> simp

@[simp] theorem State.publishPrefix_pending (s : State) (p probes : Nat) : (s.publishPrefix p probes).pending = s.pending := by simp [State.publishPrefix]
theorem State.admitPages_pending {s t : State} {p : Nat} {sv : ServingRec} {i : Nat} {e : Bytes} {x : Seq} (h : s.admitPages p sv i e x = .ok t) :
    t.pending = s.pending := by
  simp only [State.admitPages] at h
  (repeat' split at h) <;> obtain ⟨⟩ := h
  · rw [State.publishPrefix_pending, State.setSeq_pending]
    exact State.refPages_some_pending (congrArg Prod.fst ‹_›)
  · rw [State.setSeq_pending, State.kServe_pending]

theorem State.admitEntry_pending {s : State} {p : Nat} {e : Bytes} {x : Nat × State} (h : s.admitEntry p e = .ok x) : x.2.pending = s.pending := by
  unfold State.admitEntry at h
  split at h
  · cases h
  split at h
  · cases h
  extract_lets ac hw plen ad slot room y t at h
  have ht : t.pending = s.pending := by
    unfold t
    split <;> simp
  clear_value ac hw plen ad slot room y t
  (repeat' split at h) <;> try cases h
  all_goals simp [State.admitPages_pending ‹_›, ht]

@[simp] theorem State.adapterStart_pending (s : State) : s.adapterStart.pending = s.pending := by
  simp [State.adapterStart]
  (repeat' split) <;> simp

@[simp] theorem State.loadSlot_pending (s : State) (p i : Nat) (e manifest : Bytes) :
    (s.loadSlot p i e manifest).pending = s.pending := by simp [State.loadSlot]

@[simp] theorem State.shareBy_pending (s : State) (t : Nat) (l : List ListEntry) (f : Nat → Nat) : (s.shareBy t l f).pending = s.pending := by
  refine State.pending_foldl (fun t e => ?_) _ _
  dsimp only
  split <;> simp

@[simp] theorem State.createHandle_pending (s : State) (p : Nat) (hd : Long) (i lh token : Nat) : (s.createHandle p hd i lh token).1.pending = s.pending := by
  unfold State.createHandle
  split
  · rfl
  split
  · simp
  split
  · simp
  split
  · rfl
  split
  · rfl
  extract_lets l
  split
  case h_1 u h =>
    rw [← State.refPages_pending s _ l [], h]
  case h_2 u v h =>
    simp [State.refPages_some_pending (congrArg Prod.fst h)]

@[simp] theorem State.deleteHandle_pending (s : State) (p : Nat) (h : Long) : (s.deleteHandle p h).1.pending = s.pending := by
  simp [State.deleteHandle]
  (repeat' split) <;> simp

@[simp] theorem State.readyCreates_pending (s : State) (p i : Nat) : (s.readyCreates p i).pending = s.pending := by
  rw [State.readyCreates]
  split <;> simp

/-! ### Passes: what leaves the queue -/

@[simp] theorem State.reply_pending (s : State) (p : Nat) (aw : Long) (cn : Nat) (d : Bytes) : (s.reply p aw cn d).pending = s.pending := by
  simp [State.reply]
  (repeat' split) <;> simp

theorem Batch.consider_pending (b : Batch) (p : Nat) (sv : ServingRec) (model want pass i : Nat) :
    (b.consider p sv model want pass i).st.pending = b.st.pending := by
  unfold Batch.consider
  extract_lets s
  split
  · rfl
  extract_lets x s1 pl buf rows n s2 depth ver cyc len' y s3 ac s4 s5
  have h1 : s1.pending = b.st.pending := State.setSeq_pending ..
  split
  · exact h1
  have h2 : s2.pending = b.st.pending := by
    unfold s2
    split
    · exact h1
    · rw [State.ledger_pending, h1]
  have h5 : s5.pending = b.st.pending := by
    rw [State.modPart_pending, State.setAcct_pending, State.setSeq_pending, h2]
  clear_value s1 s2 s3 s4 s5 buf rows
  (repeat' split) <;> simp [h1, h5]

theorem Batch.pending_foldl_consider (p : Nat) (sv : ServingRec) (model want pass : Nat) (l : List Nat) (b : Batch) :
    (l.foldl (fun b i => b.consider p sv model want pass i) b).st.pending = b.st.pending := by
  induction l generalizing b with
  | nil => rfl
  | cons i l ih => rw [List.foldl_cons, ih, Batch.consider_pending]

@[simp] theorem State.batchRequest_pending (s : State) (p : Nat) (g : Bytes) : (s.batchRequest p g).pending = s.pending := by
  unfold State.batchRequest
  split
  · rfl
  split
  · rfl
  extract_lets model want x pass from_ ids order ok b s1 n sampled s2 rows s3 hdr
  have h1 : s1.pending = s.pending := Batch.pending_foldl_consider ..
  clear_value s1
  have h2 : s2.pending = s.pending := by
    unfold s2
    split <;> simp [h1]
  clear_value s2
  have h3 : s3.pending = s.pending := by
    unfold s3
    split <;> simp [h2]
  rw [State.reply_pending, h3]

@[simp] theorem State.fallback_pending (s : State) (p : Nat) (g : Bytes) : (s.fallback p g).pending = s.pending := by
  rw [State.fallback]
  split <;> simp

@[simp] theorem State.pressure_pending (s : State) (i pos count : Nat) : (s.pressure i pos count).pending = s.pending := by
  rw [State.pressure]
  split <;> simp

@[simp] theorem State.recordToken_pending (s : State) (i : Nat) (y : Pass) (d : Decided) (pos status : Nat) :
    (s.recordToken i y d pos status).1.pending = s.pending := by
  rw [State.recordToken]
  split <;> simp

@[simp] theorem State.commitTokens_pending (s : State) (i : Nat) (sv : ServingRec) (y : Pass) (pos : Nat) (recs : List Rec) (l : List Decided) :
    (s.commitTokens i sv y pos recs l).1.pending = s.pending := by
  induction l generalizing s pos recs with
  | nil => rfl
  | cons d t ih =>
    simp only [State.commitTokens]
    (repeat' split) <;> simp [ih]

@[simp] theorem State.stopTokens_pending (s : State) (i : Nat) (y : Pass) (pos : Nat) (recs : List Rec) (l : List Decided) :
    (s.stopTokens i y pos recs l).1.pending = s.pending := by
  induction l generalizing s pos recs with
  | nil => rfl
  | cons d t ih => simp [State.stopTokens, ih]

@[simp] theorem State.meterPrompt_pending (s : State) (i : Nat) (y : Pass) : (s.meterPrompt i y).pending = s.pending := by
  rw [State.meterPrompt]
  split <;> simp

@[simp] theorem State.trimList_pending (s : State) (t len : Nat) (l : List ListEntry) : (s.trimList t len l).1.pending = s.pending := by simp [State.trimList]
@[simp] theorem State.notice_pending (s : State) (p : Nat) (sv : ServingRec) (i model len tlen : Nat) :
    (s.notice p sv i model len tlen).pending = s.pending := by
  rw [State.notice]
  split <;> simp

@[simp] theorem State.fixLength_pending (s : State) (p : Nat) (sv : ServingRec) (i len : Nat) (verified : Bool) :
    (s.fixLength p sv i len verified).pending = s.pending := by
  simp [State.fixLength]
  (repeat' split) <;> simp

@[simp] theorem State.release_pending (s : State) (i : Nat) : (s.release i).pending = s.pending := by
  rw [State.release]
  split <;> simp

@[simp] theorem State.writeRecs_pending (s : State) (p i : Nat) (tag : Word) (l : List Rec) :
    (s.writeRecs p i tag l).pending = s.pending := by simp [State.writeRecs]

@[simp] theorem State.commitDraft_pending (s : State) (i : Nat) (y : Pass) : (s.commitDraft i y).pending = s.pending := by
  unfold State.commitDraft
  split
  · rfl
  · extract_lets t rows s1
    have h1 : s1.pending = s.pending := by
      refine State.pending_foldl (fun u e => ?_) _ _
      split
      · dsimp only
        rw [State.setSeq_pending]
        split <;> simp
      · rfl
    split
    · simp
    · split
      · rw [State.setSeq_pending, h1]
      · exact h1

@[simp] theorem State.sendFeedback_pending (s : State) (p : Nat) (sv : ServingRec) (y : Pass) (row i : Nat) (d : Bytes) :
    (s.sendFeedback p sv y row i d).pending = s.pending := by simp [State.sendFeedback]

@[simp] theorem State.commitSeq_pending (s : State) (p : Nat) (sv : ServingRec) (y : Pass) (i : Nat) : (s.commitSeq p sv y i).pending = s.pending := by
  simp [State.commitSeq]
  (repeat' split) <;> simp

/-! ### The loader: what leaves the queue -/

@[simp] theorem State.setRegionUp_pending (s : State) (p key ridx : Nat) (img : Bytes) (shape g : Placed) (gs : List Geometry) (all : List Placed) :
    (s.setRegionUp p key ridx img shape g gs all).pending = s.pending := by
  rw [State.setRegionUp]
  split <;> simp

@[simp] theorem State.writeCore_pending (s : State) (p : Nat) (rs : List Placed) (o : Nat × Nat) (img : Bytes) (cs : Contents) (i n role key : Nat) :
    (s.writeCore p rs o img cs i n role key).pending = s.pending := (rfl)

@[simp] theorem State.writeRegion_pending (s : State) (p : Nat) (rs : List Placed) (o : Nat × Nat) (img : Bytes) (cs : Contents) (i : Nat) (g : Placed) :
    (s.writeRegion p rs o img cs i g).pending = s.pending := by
  simp only [State.writeRegion, State.modRegion_pending]
  refine State.pending_foldl (fun t e => ?_) _ _
  (repeat' split) <;> simp

@[simp] theorem State.askWake_pending (s : State) (r : Nat) (m : BitVec 18) : (s.askWake r m).pending = s.pending := by simp [State.askWake]
theorem State.step5_pending {s t : State} {p : Nat} (h : s.step5 p = some t) : t.pending = s.pending := by
  revert h
  unfold State.step5
  extract_lets
  split
  · rintro ⟨⟩
  · rintro ⟨⟩
    rw [State.pending_foldl fun _ _ => by simp, State.pending_foldl fun _ _ => by simp]

@[simp] theorem State.applyPending_pending (s : State) : s.applyPending.pending = s.pending := by
  unfold State.applyPending
  split
  · rfl
  · extract_lets busy old gen s1 s2 s3 s4
    have h4 : s4.pending = s3.pending := by
      refine State.pending_foldl (fun t e => ?_) _ _
      (repeat' split) <;> simp
    split
    · rfl
    · rw [State.assignEndpoints_pending, h4, State.signal_pending, State.logEvent_pending, State.setFld_pending, State.publishLast_pending]

@[simp] theorem State.loadStep_pending (s : State) (n : Nat) : (s.loadStep n).pending = s.pending := (rfl)
@[simp] theorem State.bind_pending (s : State) (p key : Nat) (img : Bytes) (rs : List Placed) (exts : List Extent) :
    (s.bind p key img rs exts).pending = s.pending := by
  unfold State.bind
  extract_lets s1 o shape gs s2 fresh _ s3 s4 s5
  have h3 : s3.pending = s.pending := by
    unfold s3
    rw [State.modPart_pending, State.loadStep_pending]
  have h5 : s5.pending = s.pending := by
    rw [State.setFld_pending, State.wr_pending, h3]
  split
  · rw [State.refuseLoad_pending, h5]
  · extract_lets s6 s7
    have h7 : s7.pending = s.pending := by
      rw [State.loadStep_pending, State.pending_foldl fun _ _ => by simp, State.buildTables_pending ‹_›, State.giveEndpoints_pending, h5]
    split
    · rw [State.refuseLoad_pending, h7]
    · rw [State.startIngest_pending, State.loadStep_pending, State.step5_pending ‹_›, h7]

@[simp] theorem State.placeLoad_pending (s : State) (p : Nat) (img : Bytes) (cmd : Option (Nat × Nat)) : (s.placeLoad p img cmd).pending = s.pending := by
  simp [State.placeLoad]
  (repeat' split) <;> simp

@[simp] theorem State.doLoad_pending (s : State) (v : Word) (image : Option Bytes) : (s.doLoad v image).pending = s.pending := by
  unfold State.doLoad
  extract_lets p s1 s2 s3 s4
  have h4 : s4.pending = s.pending := by
    rw [State.loadStep_pending, State.setFld_pending, State.wr_pending, State.wr_pending, State.wr_pending, State.setPState_pending,
      State.setFld_pending, State.setFld_pending]
  split
  · simp
  · split
    · simp
    · split
      · rw [State.refuseLoad_pending, h4]
      · extract_lets img f cmd s5 s6
        (repeat' split)
        · rw [State.refuseLoad_pending, h4]
        · rw [State.refuseLoad_pending, State.setPart_pending]; exact h4
        · rw [State.placeLoad_pending, State.setPart_pending]; exact h4

@[simp] theorem State.startPart_pending (s : State) (p : Nat) : (s.startPart p).pending = s.pending := by
  unfold State.startPart
  extract_lets rs keys s1 s2
  have h1 : s1.pending = s.pending := State.pending_foldl (fun _ _ => by simp) _ _
  have h2 : s2.pending = s1.pending := State.pending_foldl (fun _ _ => by simp) _ _
  rw [State.modPart_pending, h2, h1]

@[simp] theorem State.clearJobRegs_pending (s : State) (p : Nat) : (s.clearJobRegs p).pending = s.pending := by simp [State.clearJobRegs]
@[simp] theorem State.releaseFree_pending (s : State) (r : Nat) : (s.releaseFree r).pending = s.pending := by simp [State.releaseFree]

/-! ### The spare procedure: what leaves the queue -/

@[simp] theorem State.takeSpare_pending (s : State) (r k : Nat) (p : Option Nat) : (s.takeSpare r k p).pending = s.pending := (rfl)
@[simp] theorem State.repairState_pending (s : State) (n : Nat) : (s.repairState n).pending = s.pending := (rfl)
@[simp] theorem State.spareBegin_pending (s : State) (p r k : Nat) : (s.spareBegin p r k).pending = s.pending := by simp [State.spareBegin]
@[simp] theorem State.spareNext_pending (s : State) (l : List (Nat × Nat)) : (s.spareNext l).pending = s.pending := by
  induction l generalizing s with
  | nil => simp [State.spareNext]
  | cons e t ih =>
    simp only [State.spareNext]
    (repeat' split) <;> simp [ih]

@[simp] theorem State.spareOver_pending (s : State) : s.spareOver.pending = s.pending := by simp [State.spareOver]
@[simp] theorem State.spareSeq_pending (s : State) (p r n : Nat) (sv : ServingRec) (i : Nat) : (s.spareSeq p r n sv i).pending = s.pending := by
  simp [State.spareSeq]
  (repeat' split) <;> simp

@[simp] theorem State.spareServing_pending (s : State) (p r n : Nat) : (s.spareServing p r n).pending = s.pending := by
  rw [State.spareServing]
  split <;> simp

@[simp] theorem State.clearPins_pending (s : State) (p : Nat) : (s.clearPins p).pending = s.pending := by simp [State.clearPins]
theorem State.coreFromShadow_pending {s u : State} {r n : Nat} {img : Bytes} {t : Tensor} {l : List Nat} (h : s.coreFromShadow r n img t l = some u) :
    u.pending = s.pending := by
  induction l generalizing s with
  | nil => obtain ⟨⟩ := h; rfl
  | cons e es ih =>
    simp only [State.coreFromShadow] at h
    split at h
    · obtain ⟨⟩ := h
    · rw [ih h, State.writeRows_pending]

@[simp] theorem State.spareWeights_pending (s : State) (p r n : Nat) : (s.spareWeights p r n).1.pending = s.pending := by
  unfold State.spareWeights
  extract_lets img s1
  have h1 : s1.pending = s.pending := State.modCoreAt_pending ..
  split
  · exact h1
  · refine List.foldlRecOn (motive := fun a : State × List Nat => a.1.pending = s.pending) _ _ h1 fun a ha t _ => ?_
    extract_lets es
    split
    · exact ha
    · split
      case h_1 u hu =>
        split at hu
        · rw [State.coreFromShadow_pending hu, ha]
        · cases hu
      case h_2 => exact ha

@[simp] theorem State.spareShip_pending (s : State) (p r n : Nat) (todo : List Nat) : (s.spareShip p r n todo).pending = s.pending := by
  rw [State.spareShip]
  split <;> simp

@[simp] theorem State.spareHold_pending (s : State) : s.spareHold.pending = s.pending := (rfl)
@[simp] theorem State.spareSteps_pending (s : State) (p key : Nat) : (s.spareSteps p key).pending = s.pending := by simp [State.spareSteps]
@[simp] theorem State.spareStep_pending (s : State) (shipped : Bool) : (s.spareStep shipped).pending = s.pending := by
  unfold State.spareStep
  (repeat' split) <;> simp

@[simp] theorem State.spareResume_pending (s : State) : s.spareResume.pending = s.pending := by
  unfold State.spareResume
  split
  · split
    · rfl
    · split
      · rfl
      · extract_lets t _
        have ht : t.pending = s.pending := (State.pending_foldl (fun _ _ => by simp) _ _).trans (State.step5_pending ‹_›)
        rw [State.spareOver_pending, State.setPState_pending, State.modPart_pending, State.startPart_pending, ht]
  · rfl

/-! ### Job ends: what leaves the queue -/

@[simp] theorem State.endServed_pending (s : State) (p i : Nat) : (s.endServed p i).pending = s.pending := by
  unfold State.endServed
  (repeat' split) <;> simp

@[simp] theorem State.endServing_pending (s : State) (p : Nat) : (s.endServing p).pending = s.pending := by simp [State.endServing]
@[simp] theorem State.endAssists_pending (s : State) (p : Nat) : (s.endAssists p).pending = s.pending := by simp [State.endAssists]
@[simp] theorem State.endJob_pending (s : State) (p : Nat) : (s.endJob p).pending = s.pending := by
  rw [State.endJob]
  split <;> simp

@[simp] theorem State.restRegion_pending (s : State) (r : Nat) : (s.restRegion r).pending = s.pending := by simp [State.restRegion]

/-! ### Edge ports: what leaves the queue -/

@[simp] theorem State.setEdgePort_pending (s : State) (k : Nat) (x : EdgePort) : (s.setEdgePort k x).pending = s.pending := (rfl)
@[simp] theorem State.noBind_pending (s : State) : s.noBind.pending = s.pending := (rfl)
@[simp] theorem State.settleChannels_pending (s : State) : s.settleChannels.pending = s.pending := (rfl)
@[simp] theorem State.edgePump_pending (s : State) (k : Nat) : (s.edgePump k).pending = s.pending := by simp [State.edgePump]
@[simp] theorem State.edgeAck_pending (s : State) (k : Nat) (h : Bytes) : (s.edgeAck k h).pending = s.pending := by simp [State.edgeAck]
theorem State.edgeTake_pending {s t : State} {k : Nat} {b : Bytes} (h : s.edgeTake k b = some t) : t.pending = s.pending := by
  simp only [State.edgeTake] at h
  split at h <;> obtain ⟨⟩ := h
  simp

theorem State.edgeSend_pending {s t : State} {k key src raddr : Nat} {data : Bytes} {isSnd : Bool} (h : s.edgeSend k key src raddr data isSnd = some t) :
    t.pending = s.pending := by
  simp only [State.edgeSend] at h
  (repeat' split at h) <;> obtain ⟨⟩ := h <;> simp

@[simp] theorem State.edgeDeliver_pending (s : State) (k p : Nat) (b : Bytes) : (s.edgeDeliver k p b).pending = s.pending := by
  unfold State.edgeDeliver
  (repeat' split) <;> simp

@[simp] theorem State.edgeJoin_pending (s : State) (n : Nat) : (s.edgeJoin n).pending = s.pending := by
  induction n generalizing s with
  | zero => rfl
  | succ n ih =>
    simp only [State.edgeJoin]
    (repeat' split) <;> simp [ih]

@[simp] theorem State.pumpAll_pending (s : State) (n : Nat) : (s.pumpAll n).pending = s.pending := by
  fun_induction State.pumpAll <;> simp_all

@[simp] theorem State.edgeDown_pending (s : State) (k : Nat) : (s.edgeDown k).pending = s.pending := by simp [State.edgeDown]
@[simp] theorem State.trainPort_pending (s : State) (k : Nat) : (s.trainPort k).pending = s.pending := (rfl)

/-! ### Deliveries: what leaves the queue -/

@[simp] theorem State.weltRefuse_pending (s : State) (f : Flit) (r q : Nat) : (s.weltRefuse f r q).pending = s.pending := by simp [State.weltRefuse]
theorem State.weltDeliver_pending {s t : State} {f : Flit} {r q : Nat} {w : WeltEp} (h : s.weltDeliver f r q w = some t) : t.pending = s.pending := by
  unfold State.weltDeliver at h
  split at h
  · (repeat' split at h) <;> obtain ⟨⟩ := h <;> simp
  · split at h <;> obtain ⟨⟩ := h <;> simp
  · exact State.edgeSend_pending h
  · obtain ⟨⟩ := h; simp

@[simp] theorem State.weltDeliver_getD_pending {s t : State} (ht : t.pending = s.pending) (f : Flit) (r q : Nat) (w : WeltEp) :
    ((s.weltDeliver f r q w).getD t).pending = s.pending := by
  cases h : s.weltDeliver f r q w with
  | none => exact ht
  | some u => exact State.weltDeliver_pending h

@[simp] theorem State.deliverFlit_pending (s : State) (i : Nat) : (s.deliverFlit i).pending = s.pending := by
  unfold State.deliverFlit
  split
  · rfl
  · split
    · split <;> simp
    · simp
    · split <;> simp
    · simp
    · rfl

@[simp] theorem State.outConsume_pending (s : State) (p : Nat) (v : Word) : (s.outConsume p v).pending = s.pending := by simp [State.outConsume]

/-! ### The security core's records: what leaves the queue -/

@[simp] theorem State.showSec_pending (s : State) : s.showSec.pending = s.pending := by
  unfold State.showSec
  extract_lets x bit w s1 s2 s3 s4
  refine (State.pending_foldl (fun _ _ => by simp) _ _).trans ?_
  rw [State.wr_pending, State.wr64_pending, State.wr64_pending, State.wr_pending]

@[simp] theorem State.showCounters_pending (s : State) : s.showCounters.pending = s.pending := (rfl)
@[simp] theorem State.fuseRefused_pending (s : State) : s.fuseRefused.pending = s.pending := (rfl)
@[simp] theorem State.secFails_pending (s : State) : s.secFails.pending = s.pending := by simp [State.secFails]

/-! ### Management: what leaves the queue -/

@[simp] theorem State.mailDone_pending (s : State) (seq : Option Nat) (status data : Nat) : (s.mailDone seq status data).pending = s.pending := by
  unfold State.mailDone
  (repeat' split) <;> simp

@[simp] theorem State.dropCmd_pending (s : State) : s.dropCmd.pending = s.pending := (rfl)
@[simp] theorem State.cmdDone_pending (s : State) (status data : Nat) : (s.cmdDone status data).pending = s.pending := by
  rw [State.cmdDone]
  split <;> simp

@[simp] theorem State.acceptCmd_pending (s : State) (c : MgtCmd) : (s.acceptCmd c).pending = s.pending := by simp [State.acceptCmd]
@[simp] theorem State.mgtCmdWrite_pending (s : State) (port : Nat) (v : Word) : (s.mgtCmdWrite port v).pending = s.pending := by simp [State.mgtCmdWrite]
@[simp] theorem State.setBank_pending (s : State) (b : Nat) (x : Bank) : (s.setBank b x).pending = s.pending := (rfl)
@[simp] theorem State.stageImage_pending (s : State) (img : Bytes) : (s.stageImage img).1.pending = s.pending := by
  simp only [State.stageImage]
  (repeat' split) <;> simp

@[simp] theorem State.finishStage_pending (s : State) (img : Bytes) : (s.finishStage img).pending = s.pending := by simp [State.finishStage]
@[simp] theorem State.waitGate_pending (s : State) (op : Nat) (img : Bytes) : (s.waitGate op img).pending = s.pending := (rfl)
@[simp] theorem State.finishSelect_pending (s : State) : s.finishSelect.pending = s.pending := by simp [State.finishSelect]
@[simp] theorem State.advanceCounter_pending (s : State) (sub : Bool) : (s.advanceCounter sub).pending = s.pending := by simp [State.advanceCounter]

/-! ### Power: what leaves the queue -/

@[simp] theorem State.showFeeds_pending (s : State) : s.showFeeds.pending = s.pending := (rfl)
@[simp] theorem State.feedLost_pending (s : State) (f : Nat) : (s.feedLost f).pending = s.pending := by simp [State.feedLost]
@[simp] theorem State.ungovern_pending (s : State) : s.ungovern.pending = s.pending := (rfl)
@[simp] theorem State.showField_pending (s : State) (f : Nat) : (s.showField f).pending = s.pending := by simp [State.showField]
@[simp] theorem State.converterOff_pending (s : State) (i : Nat) : (s.converterOff i).pending = s.pending := by
  simp [State.converterOff]
  (repeat' split) <;> simp

@[simp] theorem State.setFcap_pending (s : State) (f k : Nat) : (s.setFcap f k).pending = s.pending := by simp [State.setFcap]
@[simp] theorem State.showWakes_pending (s : State) (f : Nat) : (s.showWakes f).pending = s.pending := (rfl)
@[simp] theorem State.wakeGrant_pending (s : State) (f : Nat) : (s.wakeGrant f).pending = s.pending := by
  simp [State.wakeGrant]
  (repeat' split) <;> simp

@[simp] theorem State.powerCores_pending (s : State) (r : Nat) (m : BitVec 18) : (s.powerCores r m).pending = s.pending := by simp [State.powerCores]
@[simp] theorem State.showRail_pending (s : State) (r : Nat) : (s.showRail r).pending = s.pending := (rfl)
@[simp] theorem State.overrun_pending (s : State) (r p : Nat) : (s.overrun r p).pending = s.pending := by simp [State.overrun]
@[simp] theorem State.post_pending (s : State) (r : Nat) (w : Posted) : (s.post r w).pending = s.pending := by simp [State.post]
@[simp] theorem State.clearVmin_pending (s : State) (r : Nat) (memRail : Bool) : (s.clearVmin r memRail).pending = s.pending := (rfl)

/-! ### Thermal: what leaves the queue -/

@[simp] theorem State.powerDownAll_pending (s : State) : s.powerDownAll.pending = s.pending := by simp [State.powerDownAll]
@[simp] theorem State.shutdown_pending (s : State) (cause : Nat) : (s.shutdown cause).pending = s.pending := by simp [State.shutdown]
@[simp] theorem State.showCounts_pending (s : State) : s.showCounts.pending = s.pending := (rfl)
@[simp] theorem State.enforce_pending (s : State) (r : Nat) : (s.enforce r).pending = s.pending := by simp [State.enforce]
@[simp] theorem State.showKt_pending (s : State) (r : Nat) : (s.showKt r).pending = s.pending := (rfl)
@[simp] theorem State.levelEvent_pending (s : State) (r level : Nat) (left : Bool) :
    (s.levelEvent r level left).pending = s.pending := by simp [State.levelEvent]

@[simp] theorem State.thermUpdate_pending (s : State) (r : Nat) : (s.thermUpdate r).pending = s.pending := by simp [State.thermUpdate]
@[simp] theorem State.showThermal_pending (s : State) : s.showThermal.pending = s.pending := by simp [State.showThermal]
@[simp] theorem State.suspectCap_pending (s : State) (r : Nat) : (s.suspectCap r).pending = s.pending := (rfl)
@[simp] theorem State.comparePair_pending (s : State) (key : Nat) : (s.comparePair key).pending = s.pending := by
  simp [State.comparePair]
  (repeat' split) <;> simp

@[simp] theorem State.coreSample_pending (s : State) (key : Nat) (diode : Bool) (code : Option Nat) :
    (s.coreSample key diode code).pending = s.pending := by simp [State.coreSample]

@[simp] theorem State.regulatorSample_pending (s : State) (r i : Nat) (code : Option Nat) : (s.regulatorSample r i code).pending = s.pending := by
  simp [State.regulatorSample]
  (repeat' split) <;> simp

@[simp] theorem State.watchHot_pending (s : State) (sn : Sensor) (code : Option Nat) : (s.watchHot sn code).pending = s.pending := by simp [State.watchHot]
@[simp] theorem State.weltSample_pending (s : State) (i : Nat) (code : Option Nat) : (s.weltSample i code).pending = s.pending := by simp [State.weltSample]
@[simp] theorem State.pollFailed_pending (s : State) (sn : CoolantSensor) : (s.pollFailed sn).pending = s.pending := by simp [State.pollFailed]
@[simp] theorem State.coolEvent_pending (s : State) (row : Nat) (cleared : Bool) : (s.coolEvent row cleared).pending = s.pending := by simp [State.coolEvent]
@[simp] theorem State.coolCond_pending (s : State) (key row need : Nat) (since : Option Long) {raise_ : State → State}
    (hr : ∀ t, (raise_ t).pending = t.pending) : (s.coolCond key row need since raise_).pending = s.pending := by
  unfold State.coolCond
  (repeat' split) <;> simp [hr]

@[simp] theorem State.flowClamp_pending (s : State) : s.flowClamp.pending = s.pending := by simp [State.flowClamp]
@[simp] theorem State.coolChecks_pending (s : State) : s.coolChecks.pending = s.pending := by
  unfold State.coolChecks
  extract_lets valid tin flow inBad flBad _ s1 s2 s3 s4 s5
  have h2 : s2.pending = s1.pending := State.coolCond_pending _ _ _ _ _ fun _ => by simp
  have h3 : s3.pending = s2.pending := State.coolCond_pending _ _ _ _ _ fun _ => by simp
  have h4 : s4.pending = s3.pending := State.coolCond_pending _ _ _ _ _ fun _ => by simp
  have h5 : s5.pending = s4.pending := State.coolCond_pending _ _ _ _ _ fun _ => by simp
  exact h5.trans (h4.trans (h3.trans h2))

@[simp] theorem State.pollOk_pending (s : State) (sn : CoolantSensor) (v : Nat) : (s.pollOk sn v).pending = s.pending := by
  unfold State.pollOk
  (repeat' split) <;> simp

@[simp] theorem State.demandWake_pending (s : State) : s.demandWake.pending = s.pending := by simp [State.demandWake]
@[simp] theorem State.demandRest_pending (s : State) : s.demandRest.pending = s.pending := by
  rw [State.demandRest]
  split <;> simp

/-! ### Scrubs and repairs: what leaves the queue -/

@[simp] theorem State.showSpares_pending (s : State) (r : Nat) : (s.showSpares r).pending = s.pending := (rfl)

/-! ### Bring-up and restarts: what leaves the queue -/

@[simp] theorem State.blankRecord_pending (s : State) (n status : Nat) : (s.blankRecord n status).pending = s.pending := (rfl)
@[simp] theorem State.beginStage_pending (s : State) (n : Nat) : (s.beginStage n).pending = s.pending := (rfl)
@[simp] theorem State.addLocus_pending (s : State) (n : Nat) (w : Word) : (s.addLocus n w).pending = s.pending := by simp [State.addLocus]
@[simp] theorem State.addLoci_pending (s : State) (n : Nat) (ws : List Word) : (s.addLoci n ws).pending = s.pending := by simp [State.addLoci]
@[simp] theorem State.endStage_pending (s : State) (n : Nat) : (s.endStage n).pending = s.pending := (rfl)
@[simp] theorem State.passStage_pending (s : State) (n : Nat) (ws : List Word) : (s.passStage n ws).pending = s.pending := by simp [State.passStage]
@[simp] theorem State.haltStage_pending (s : State) (n : Nat) (ws : List Word) : (s.haltStage n ws).pending = s.pending := by simp [State.haltStage]
@[simp] theorem State.unpowered_pending (s : State) : s.unpowered.pending = s.pending := (rfl)
@[simp] theorem State.showRefs_pending (s : State) (ref : Nat) : (s.showRefs ref).pending = s.pending := (rfl)
@[simp] theorem State.bootBank_pending (s : State) (b : Nat) (h : Bytes) : (s.bootBank b h).pending = s.pending := (rfl)
@[simp] theorem State.failCore_pending (s : State) (r k : Nat) : (s.failCore r k).pending = s.pending := (rfl)
@[simp] theorem State.deadAtStart_pending (s : State) (r cause : Nat) : (s.deadAtStart r cause).pending = s.pending := by simp [State.deadAtStart]
@[simp] theorem State.mapSpare_pending (s : State) (r : Nat) : (s.mapSpare r).pending = s.pending := by simp [State.mapSpare]
@[simp] theorem State.selfTestRegion_pending (s : State) (f : Fuses) (t : SelfTest) :
    (s.selfTestRegion f t).pending = s.pending := by simp [State.selfTestRegion]

@[simp] theorem State.memTest_pending (s : State) (t : MemTest) : (s.memTest t).pending = s.pending := by
  unfold State.memTest
  (repeat' split) <;> simp

@[simp] theorem State.clearSlices_pending (s : State) : s.clearSlices.pending = s.pending := (rfl)
@[simp] theorem State.trainStack_pending (s : State) (i : Nat) (m : BitVec 32) : (s.trainStack i m).pending = s.pending := by simp [State.trainStack]
@[simp] theorem State.rdrop_pending (s : State) : s.rdrop.pending = s.pending := (rfl)
@[simp] theorem State.acceptRestart_pending (s : State) (k : Nat) : (s.acceptRestart k).pending = s.pending := by
  unfold State.acceptRestart
  extract_lets old s1 s2 _ _ s3 s4 s5 s6
  have h1 : s1.pending = s.pending := by
    unfold s1
    rw [State.bump_pending, State.setFld_pending, State.setFld_pending]
  clear_value s1
  have h2 : s2.pending = s.pending := (State.pending_foldl (fun _ _ => by simp) _ _).trans h1
  clear_value s2
  have h3 : s3.pending = s.pending := h2
  clear_value s3
  have h5 : s5.pending = s.pending := by
    unfold s5 s4
    rw [State.lostRecords_pending, State.setFld_pending, State.showSec_pending, h3]
  clear_value s5
  have h6 : s6.pending = s.pending := by
    unfold s6
    split
    · exact (State.pending_foldl (fun _ _ => by simp) _ _).trans h5
    · exact h5
  clear_value s6
  split
  · exact (State.pending_foldl (fun _ _ => by simp) _ _).trans h6
  · exact h6

@[simp] theorem State.restartReset_pending (s : State) : s.restartReset.pending = s.pending := by simp [State.restartReset]
@[simp] theorem State.leaveRestart_pending (s : State) : s.leaveRestart.pending = s.pending := by simp [State.leaveRestart]

/-! ### Fault recovery and tests: what leaves the queue -/

@[simp] theorem State.showRecent_pending (s : State) : s.showRecent.pending = s.pending := (rfl)
@[simp] theorem State.recover_pending (s : State) : s.recover.pending = s.pending := by simp [State.recover]
@[simp] theorem State.cmdDrop_pending (s : State) : s.cmdDrop.pending = s.pending := (rfl)
@[simp] theorem State.coreFails_pending (s : State) (key : Nat) : (s.coreFails key).pending = s.pending := by
  unfold State.coreFails
  extract_lets r k inj s1 used owner s2
  have h2 : s2.pending = s.pending := by
    unfold s2 s1
    rw [State.failCore_pending]
    split <;> simp
  clear_value s2 owner used
  (repeat' split) <;> simp [h2]

@[simp] theorem State.istWafer_pending (s : State) : s.istWafer.pending = s.pending := by simp [State.istWafer]
@[simp] theorem State.istAdvance_pending (s : State) (r : Nat) : (s.istAdvance r).pending = s.pending := by
  unfold State.istAdvance
  extract_lets a s1
  have h1 : s1.pending = s.pending := State.setFld_pending ..
  clear_value s1
  (repeat' split) <;> simp [h1]

@[simp] theorem State.istSensors_pending (s : State) (key : Nat) (agree : Bool) : (s.istSensors key agree).pending = s.pending := by simp [State.istSensors]
@[simp] theorem State.istStall_pending (s : State) (p : Nat) : (s.istStall p).pending = s.pending := by simp [State.istStall]
@[simp] theorem State.istOutcome_pending (s : State) (r key : Nat) (pass : Bool) (kind : Nat) :
    (s.istOutcome r key pass kind).pending = s.pending := by simp [State.istOutcome]

@[simp] theorem State.injCompare_pending (s : State) : s.injCompare.pending = s.pending := by simp [State.injCompare]

/-! ### The host interface: what leaves the queue -/

@[simp] theorem State.issueHeld_pending (s : State) (h : HostWrite) : (s.issueHeld h).pending = s.pending := by simp [State.issueHeld]
@[simp] theorem State.badBell_pending (s : State) (p : Nat) : (s.badBell p).pending = s.pending := (rfl)
@[simp] theorem State.enableRings_pending (s : State) (p : Nat) : (s.enableRings p).pending = s.pending := (rfl)
@[simp] theorem State.assistDone_pending (s : State) (p : Nat) (e : Bytes) (status : Nat) :
    (s.assistDone p e status).pending = s.pending := by simp [State.assistDone]

@[simp] theorem State.assistBusy_pending (s : State) (p : Nat) (e : Bytes) : (s.assistBusy p e).pending = s.pending := (rfl)
@[simp] theorem State.xferError_pending (s : State) (n : Nat) : (s.xferError n).pending = s.pending := by simp [State.xferError]
@[simp] theorem State.msixWrite_pending (s : State) (port off : Nat) (v : Word) : (s.msixWrite port off v).pending = s.pending := by simp [State.msixWrite]
@[simp] theorem State.ringBaseWrite_pending (s : State) (addr : Nat) (v : Word) :
    (s.ringBaseWrite addr v).pending = s.pending := by simp [State.ringBaseWrite]

@[simp] theorem State.xferBaseWrite_pending (s : State) (n off : Nat) (v : Word) :
    (s.xferBaseWrite n off v).pending = s.pending := by simp [State.xferBaseWrite]

@[simp] theorem State.acctWrite_pending (s : State) (which : Nat) (v : Word) : (s.acctWrite which v).pending = s.pending := by simp [State.acctWrite]
@[simp] theorem State.channelWrite_pending (s : State) (b : Bool) (v : Word) : (s.channelWrite b v).pending = s.pending := by simp [State.channelWrite]
@[simp] theorem State.hostRegWrite_pending (s : State) (port addr : Nat) (v : Word) : (s.hostRegWrite port addr v).pending = s.pending := by
  unfold State.hostRegWrite
  by_cases hm : bar4Base ≤ addr
  · rw [if_pos hm, State.msixWrite_pending]
  · rw [if_neg hm]
    cases plainRegs.find? fun x => decide (x.1 = addr) with
    | some x => exact State.writeRW_pending ..
    | none =>
      simp only [State.pending_ite, State.acctWrite_pending, State.mgtCmdWrite_pending, State.reservedBits_pending, State.cmdDrop_pending,
        State.channelWrite_pending, State.xferBaseWrite_pending, State.ringBaseWrite_pending, ite_self]

/-! ### The idle tick: what leaves the queue -/

@[simp] theorem idleTick_pending (s : State) : ((idleTick s)).pending = s.pending := by simp [idleTick]

/-! ### Security messages: what leaves the queue -/

@[simp] theorem State.requestEnd_pending (s : State) (seq : Option Nat) (op status : Nat) :
    (s.requestEnd seq op status).pending = s.pending := by simp [State.requestEnd]

@[simp] theorem State.handle_pending (s : State) (op : Nat) (q : Bytes) (extra : State → Nat) {f : State → State}
    (hf : ∀ t, (f t).pending = t.pending) : (s.handle op q extra f).pending = s.pending := by
  unfold State.handle
  (repeat' split) <;> simp [hf]

@[simp] theorem State.answer_pending (s : State) (a : Answer) : (s.answer a).pending = s.pending := (rfl)
@[simp] theorem State.respond_pending (s : State) (known req : Bytes) : (s.respond known req).pending = s.pending := (rfl)
@[simp] theorem State.spdm_pending (s : State) (versionReq : Bool) (req : Bytes) {f : State → State}
    (hf : ∀ t, (f t).pending = t.pending) : (s.spdm versionReq req f).pending = s.pending := by
  unfold State.spdm
  (repeat' split) <;> simp [hf]

@[simp] theorem State.inSession_pending (s : State) (id : Nat) (req : Bytes) (f : List Session → List Session) :
    (s.inSession id req f).pending = s.pending := by simp [State.inSession]

@[simp] theorem State.openSession_pending (s : State) (req : Bytes) : (s.openSession req).pending = s.pending := by
  unfold State.openSession
  split <;> simp

@[simp] theorem State.spdmMessage_pending (s : State) (req : Bytes) : (s.spdmMessage req).pending = s.pending := by
  unfold State.spdmMessage
  extract_lets id
  split <;> exact State.spdm_pending _ _ _ fun _ => by simp

/-! ### What keeping the queue means for a command -/

/-- The outcome is a next state, with the queue that s had. -/
abbrev KeepsQueue (s : State) (o : Host.Outcome State Fault Refusal) : Prop := ∃ t, o = .next t ∧ t.pending = s.pending

/-! ### Flits, rounds and links: the commands -/

theorem execFlitHop_keepsQueue (i : Nat) (singleBitError : Bool) (s : State) : KeepsQueue s (execFlitHop i singleBitError s) := ⟨_, rfl, by simp⟩
theorem execLinkReplay_keepsQueue (r q : Nat) (s : State) : KeepsQueue s (execLinkReplay r q s) := ⟨_, rfl, by simp⟩
theorem execLinkFailure_keepsQueue (r q : Nat) (s : State) : KeepsQueue s (execLinkFailure r q s) := ⟨_, rfl, by
  dsimp only
  (repeat' split) <;> simp⟩

theorem execHubLinkTest_keepsQueue (r q : Nat) (receiverFails senderFails : Bool) (s : State) : KeepsQueue s (execHubLinkTest r q receiverFails senderFails s) :=
  ⟨_, rfl, by
  dsimp only
  (repeat' split) <;> simp⟩

theorem execMulticastReplicate_keepsQueue (i : Nat) (s : State) : KeepsQueue s (execMulticastReplicate i s) := ⟨_, rfl, by simp⟩
theorem execMulticastStallTimeout_keepsQueue (i branch : Nat) (s : State) : KeepsQueue s (execMulticastStallTimeout i branch s) :=
  ⟨_, rfl, by (repeat' split) <;> simp⟩

theorem execReduceContribution_keepsQueue (i : Nat) (s : State) : KeepsQueue s (execReduceContribution i s) := ⟨_, rfl, by simp⟩
theorem execReductionRoundForward_keepsQueue (i : Nat) (s : State) : KeepsQueue s (execReductionRoundForward i s) := ⟨_, rfl, by simp⟩
theorem execReductionStallTimeout_keepsQueue (i : Nat) (s : State) : KeepsQueue s (execReductionStallTimeout i s) := ⟨_, rfl, by (repeat' split) <;> simp⟩
theorem execCmapPeriodTick_keepsQueue (cycles : Nat) (s : State) : KeepsQueue s (execCmapPeriodTick cycles s) := ⟨_, rfl, by simp⟩
theorem execFabCfgWrite_keepsQueue (v : Word) (s : State) : KeepsQueue s (execFabCfgWrite v s) := ⟨_, rfl, by simp⟩
theorem execFabViolLogClear_keepsQueue (v : Word) (s : State) : KeepsQueue s (execFabViolLogClear v s) := ⟨_, rfl, by simp⟩
theorem execFabStallLogClear_keepsQueue (v : Word) (s : State) : KeepsQueue s (execFabStallLogClear v s) := ⟨_, rfl, by simp⟩
theorem execFabCmapData0Read_keepsQueue (port : Nat) (s : State) : KeepsQueue s (execFabCmapData0Read port s) := ⟨_, rfl, by simp⟩

/-! ### Sequencer and keeper: the commands -/

theorem execSeqInstruction_keepsQueue (r : Nat) (chk : CodeCheck) (s : State) : KeepsQueue s (execSeqInstruction r chk s) := ⟨_, rfl, by simp⟩
theorem execSeqArrival_keepsQueue (i : Nat) (s : State) : KeepsQueue s (execSeqArrival i s) := ⟨_, rfl, by (repeat' split) <;> simp⟩
theorem execSqRingConfig_keepsQueue (r off : Nat) (v : Word) (s : State) : KeepsQueue s (execSqRingConfig r off v s) := ⟨_, rfl, by simp⟩
theorem execSqEmit_keepsQueue (r : Nat) (v : Word) (s : State) : KeepsQueue s (execSqEmit r v s) := ⟨_, rfl, by simp⟩
theorem execEmissionDelivery_keepsQueue (r : Nat) (s : State) : KeepsQueue s (execEmissionDelivery r s) := ⟨_, rfl, by (repeat' split) <;> simp⟩
theorem execSqMov_keepsQueue (r : Nat) (v : Word) (s : State) : KeepsQueue s (execSqMov r v s) := ⟨_, rfl, by simp⟩
theorem execMoverCompletion_keepsQueue (r : Nat) (chk : CodeCheck) (s : State) : KeepsQueue s (execMoverCompletion r chk s) := ⟨_, rfl, by simp⟩
theorem execAlloc_keepsQueue (r grp : Nat) (tent : Bool) (s : State) : KeepsQueue s (execAlloc r grp tent s) := ⟨_, rfl, by simp⟩
theorem execRef_keepsQueue (r page : Nat) (s : State) : KeepsQueue s (execRef r page s) := ⟨_, rfl, by simp⟩
theorem execDeref_keepsQueue (r page : Nat) (s : State) : KeepsQueue s (execDeref r page s) := ⟨_, rfl, by simp⟩
theorem execPin_keepsQueue (r page : Nat) (s : State) : KeepsQueue s (execPin r page s) := ⟨_, rfl, by simp⟩
theorem execUnpin_keepsQueue (r page : Nat) (s : State) : KeepsQueue s (execUnpin r page s) := ⟨_, rfl, by simp⟩
theorem execCopy_keepsQueue (r page : Nat) (s : State) : KeepsQueue s (execCopy r page s) := ⟨_, rfl, by simp⟩
theorem execCommit_keepsQueue (r page : Nat) (s : State) : KeepsQueue s (execCommit r page s) := ⟨_, rfl, by simp⟩
theorem execEvict_keepsQueue (r page : Nat) (s : State) : KeepsQueue s (execEvict r page s) := ⟨_, rfl, by simp⟩
theorem execWarm_keepsQueue (r page : Nat) (s : State) : KeepsQueue s (execWarm r page s) := ⟨_, rfl, by simp⟩
theorem execQuery_keepsQueue (r page : Nat) (s : State) : KeepsQueue s (execQuery r page s) := ⟨_, rfl, by simp⟩
theorem execCopyCompletion_keepsQueue (r page : Nat) (s : State) : KeepsQueue s (execCopyCompletion r page s) := ⟨_, rfl, by simp⟩
theorem execMoveCompletion_keepsQueue (r page : Nat) (s : State) : KeepsQueue s (execMoveCompletion r page s) := ⟨_, rfl, by simp⟩
theorem execPageZeroReported_keepsQueue (r i : Nat) (s : State) : KeepsQueue s (execPageZeroReported r i s) := ⟨_, rfl, by simp⟩
theorem execPkCmdPresent_keepsQueue (r : Nat) (v : Word) (s : State) : KeepsQueue s (execPkCmdPresent r v s) := ⟨_, rfl, by simp⟩
theorem execLeCmdStart_keepsQueue (r : Nat) (v : Word) (s : State) : KeepsQueue s (execLeCmdStart r v s) := ⟨_, rfl, by simp⟩
theorem execListWalkDone_keepsQueue (r : Nat) (s : State) : KeepsQueue s (execListWalkDone r s) := ⟨_, rfl, by simp⟩

/-! ### Stall mode: the commands -/

theorem execSpoolCompletion_keepsQueue (c : CoreId) (sp : Nat) (chk : CodeCheck) (s : State) : KeepsQueue s (execSpoolCompletion c sp chk s) :=
  ⟨_, rfl, by simp⟩

theorem execDueItemLateStall_keepsQueue (p i : Nat) (s : State) : KeepsQueue s (execDueItemLateStall p i s) := ⟨_, rfl, by (repeat' split) <;> simp⟩
theorem execDueItemLand_keepsQueue (p i : Nat) (s : State) : KeepsQueue s (execDueItemLand p i s) := ⟨_, rfl, by (repeat' split) <;> simp⟩
theorem execDetourStart_keepsQueue (p : Nat) (s : State) : KeepsQueue s (execDetourStart p s) := ⟨_, rfl, by
  dsimp only
  (repeat' split) <;> simp⟩

theorem execStopEpochReached_keepsQueue (p : Nat) (s : State) : KeepsQueue s (execStopEpochReached p s) :=
  ⟨_, rfl, by
  dsimp only
  (repeat' split) <;> simp⟩

theorem execGlbLockEpochLoRead_keepsQueue (port p : Nat) (s : State) : KeepsQueue s (execGlbLockEpochLoRead port p s) := ⟨_, rfl, by simp⟩

/-! ### Sampling: the commands -/

theorem execSampleCandidateFlit_keepsQueue (u key src dsp raddr : Nat) (data : Bytes) (ce : Bool) (s : State) : KeepsQueue s (execSampleCandidateFlit u key src dsp raddr data ce s) :=
  ⟨_, rfl, by simp⟩

theorem execSampledRowTimeout_keepsQueue (u b : Nat) (s : State) : KeepsQueue s (execSampledRowTimeout u b s) :=
  ⟨_, rfl, by
  dsimp only
  (repeat' split) <;> simp⟩

/-! ### Accounts: the commands -/

theorem execAcctIdxWrite_keepsQueue (v : Word) (s : State) : KeepsQueue s (execAcctIdxWrite v s) := ⟨_, rfl, State.writeRW_pending s _ _ _ v⟩
theorem execSnapshotLand_keepsQueue (s : State) : KeepsQueue s (execSnapshotLand s) := by
  refine ⟨_, rfl, ?_⟩
  split
  · rfl
  · extract_lets ws t u
    have ht : t.pending = s.pending := State.pending_foldl (fun _ _ => by simp) _ _
    have hu : u.pending = t.pending := (State.setFld_pending ..).trans (State.bump_pending ..)
    exact hu.trans ht

theorem execEnergyMeterTick_keepsQueue (feedMicroJ : Nat) (s : State) : KeepsQueue s (execEnergyMeterTick feedMicroJ s) := ⟨_, rfl, by simp⟩
theorem execSrvInexactClear_keepsQueue (v : Word) (s : State) : KeepsQueue s (execSrvInexactClear v s) := by
  refine ⟨_, rfl, ?_⟩
  extract_lets t
  have ht : t.pending = s.pending := State.reservedBits_pending ..
  split
  · rw [State.setFld_pending, ht]
  · exact ht

theorem execSrvPidleLoRead_keepsQueue (port p : Nat) (s : State) : KeepsQueue s (execSrvPidleLoRead port p s) := ⟨_, rfl, by simp⟩

/-! ### Ends of jobs and of regions: the commands -/

theorem execHeldWeightReleaseDone_keepsQueue (r : Nat) (s : State) : KeepsQueue s (execHeldWeightReleaseDone r s) :=
  ⟨_, rfl, by
  dsimp only
  (repeat' split) <;> simp⟩

/-! ### Ingest: the commands -/

theorem execIngestSegment_keepsQueue (seg : Option Bytes) (last : Bool) (s : State) : KeepsQueue s (execIngestSegment seg last s) :=
  ⟨_, rfl, by (repeat' split) <;> simp⟩

theorem execIngestHoldTimeout_keepsQueue (s : State) : KeepsQueue s (execIngestHoldTimeout s) := ⟨_, rfl, by (repeat' split) <;> simp⟩
theorem execLdrIngCfgWrite_keepsQueue (v : Word) (s : State) : KeepsQueue s (execLdrIngCfgWrite v s) := ⟨_, rfl, by simp⟩
theorem execLdrIngBytesLoRead_keepsQueue (port : Nat) (s : State) : KeepsQueue s (execLdrIngBytesLoRead port s) := ⟨_, rfl, by simp⟩

/-! ### Serving: the commands -/

theorem execAccountRefill_keepsQueue (s : State) : KeepsQueue s (execAccountRefill s) := ⟨_, rfl, by simp⟩
theorem execAcctGrant_keepsQueue (v : Word) (s : State) : KeepsQueue s (execAcctGrant v s) := ⟨_, rfl, by simp⟩
theorem execAdmit_keepsQueue (p : Nat) (e : Bytes) (s : State) : KeepsQueue s (execAdmit p e s) := by
  refine ⟨_, rfl, ?_⟩
  split
  · rfl
  split
  · rfl
  next t ht =>
  rw [← State.takeRing_pending ht]
  split
  · dsimp only
    split <;> simp
  next ha =>
  have hu := State.admitEntry_pending ha
  dsimp only at hu
  (repeat' split) <;> simp [hu]

theorem execPromptFetched_keepsQueue (seq : Nat) (toks : Option (List Nat)) (s : State) : KeepsQueue s (execPromptFetched seq toks s) :=
  ⟨_, rfl, by (repeat' split) <;> simp⟩

theorem execAbort_keepsQueue (p : Nat) (e : Bytes) (s : State) : KeepsQueue s (execAbort p e s) := by
  refine ⟨_, rfl, ?_⟩
  split
  · rfl
  split
  · rfl
  next t ht =>
  rw [← State.takeRing_pending ht]
  dsimp only
  (repeat' split) <;> simp

theorem execMask_keepsQueue (p : Nat) (e : Bytes) (bitmap : Option Bytes) (s : State) : KeepsQueue s (execMask p e bitmap s) := by
  refine ⟨_, rfl, ?_⟩
  split
  · rfl
  split
  · rfl
  next t ht =>
  rw [← State.takeRing_pending ht]
  dsimp only
  (repeat' split) <;> simp

theorem execChoose_keepsQueue (p : Nat) (e : Bytes) (s : State) : KeepsQueue s (execChoose p e s) := by
  refine ⟨_, rfl, ?_⟩
  split
  · rfl
  split
  · rfl
  next t ht =>
  rw [← State.takeRing_pending ht]
  dsimp only
  (repeat' split) <;> simp

theorem execAdapterLoad_keepsQueue (p : Nat) (e : Bytes) (manifest : Option Bytes) (s : State) : KeepsQueue s (execAdapterLoad p e manifest s) := by
  refine ⟨_, rfl, ?_⟩
  split
  · rfl
  split
  · rfl
  next t ht =>
  rw [← State.takeRing_pending ht]
  (repeat' split) <;> simp [State.pending_foldl]

theorem execAdapterLoadDequeue_keepsQueue (p : Nat) (s : State) : KeepsQueue s (execAdapterLoadDequeue p s) := ⟨_, rfl, by (repeat' split) <;> simp⟩
theorem execAdapterIngestDone_keepsQueue (slot status : Nat) (s : State) : KeepsQueue s (execAdapterIngestDone slot status s) :=
  ⟨_, rfl, by
  dsimp only
  (repeat' split) <;> simp⟩

theorem execAdapterDrop_keepsQueue (p : Nat) (e : Bytes) (s : State) : KeepsQueue s (execAdapterDrop p e s) := by
  refine ⟨_, rfl, ?_⟩
  split
  · rfl
  split
  · rfl
  next t ht =>
  rw [← State.takeRing_pending ht]
  dsimp only
  (repeat' split) <;> simp

theorem execHcreate_keepsQueue (p : Nat) (e : Bytes) (s : State) : KeepsQueue s (execHcreate p e s) := by
  refine ⟨_, rfl, ?_⟩
  split
  · rfl
  split
  · rfl
  next t ht =>
  rw [← State.takeRing_pending ht]
  dsimp only
  (repeat' split) <;> simp

theorem execHdelete_keepsQueue (p : Nat) (e : Bytes) (s : State) : KeepsQueue s (execHdelete p e s) := by
  refine ⟨_, rfl, ?_⟩
  split
  · rfl
  split
  · rfl
  next t ht =>
  rw [← State.takeRing_pending ht]
  dsimp only
  (repeat' split) <;> simp

theorem execPrefixCreate_keepsQueue (p : Nat) (handle : Long) (seq lh token : Nat) (s : State) : KeepsQueue s (execPrefixCreate p handle seq lh token s) :=
  ⟨_, rfl, by (repeat' split) <;> simp⟩

/-! ### Passes: the commands -/

theorem execBatchRequest_keepsQueue (p : Nat) (g : Bytes) (s : State) : KeepsQueue s (execBatchRequest p g s) := ⟨_, rfl, by simp⟩
theorem execFallbackReport_keepsQueue (p : Nat) (g : Bytes) (s : State) : KeepsQueue s (execFallbackReport p g s) := ⟨_, rfl, by simp⟩
theorem execPassCommit_keepsQueue (p pass : Nat) (s : State) : KeepsQueue s (execPassCommit p pass s) := ⟨_, rfl, by (repeat' split) <;> simp⟩

/-! ### The loader: the commands -/

theorem execLoad_keepsQueue (v : Word) (image : Option Bytes) (s : State) : KeepsQueue s (execLoad v image s) := ⟨_, rfl, by simp⟩
theorem execJobStart_keepsQueue (s : State) : KeepsQueue s (execJobStart s) := ⟨_, rfl, by
  dsimp only
  (repeat' split) <;> simp⟩

theorem execKill_keepsQueue (v : Word) (s : State) : KeepsQueue s (execKill v s) := ⟨_, rfl, by simp⟩
theorem execRelease_keepsQueue (v : Word) (s : State) : KeepsQueue s (execRelease v s) := ⟨_, rfl, by
  dsimp only
  (repeat' split) <;> simp⟩

theorem execLdrPwrLimitWrite_keepsQueue (v : Word) (s : State) : KeepsQueue s (execLdrPwrLimitWrite v s) := ⟨_, rfl, by simp⟩

/-! ### Job ends: the commands -/

theorem execStopTimeout_keepsQueue (p : Nat) (s : State) : KeepsQueue s (execStopTimeout p s) := by
  refine ⟨_, rfl, ?_⟩
  dsimp only
  split
  · split
    · rfl
    · rw [State.setFld_pending, State.pending_foldl fun _ _ => by simp]
  · rfl

theorem execAllCoresHalted_keepsQueue (p : Nat) (s : State) : KeepsQueue s (execAllCoresHalted p s) := ⟨_, rfl, by simp⟩
theorem execZeroizeDone_keepsQueue (p : Nat) (verifyFailed : List Nat) (s : State) : KeepsQueue s (execZeroizeDone p verifyFailed s) := ⟨_, rfl, by simp⟩
theorem execRimClearDone_keepsQueue (s : State) : KeepsQueue s (execRimClearDone s) := ⟨_, rfl, by (repeat' split) <;> simp⟩

/-! ### Edge ports: the commands -/

theorem execEdgeControlFrame_keepsQueue (k : Nat) (frame : Bytes) (s : State) : KeepsQueue s (execEdgeControlFrame k frame s) := ⟨_, rfl, by simp⟩
theorem execEdgeControlTimer_keepsQueue (k : Nat) (s : State) : KeepsQueue s (execEdgeControlTimer k s) := ⟨_, rfl, by simp⟩
theorem execEdgeReplay_keepsQueue (k : Nat) (fromLseq : Option Nat) (s : State) : KeepsQueue s (execEdgeReplay k fromLseq s) :=
  ⟨_, rfl, by (repeat' split) <;> simp⟩

theorem execEdgeSend_keepsQueue (k key src raddr : Nat) (data : Bytes) (isSnd : Bool) (s : State) : KeepsQueue s (execEdgeSend k key src raddr data isSnd s) := by
  refine ⟨_, rfl, ?_⟩
  cases h : s.edgeSend k key src raddr data isSnd with
  | none => rfl
  | some t => exact State.edgeSend_pending h

theorem execEdgeFrameRx_keepsQueue (k : Nat) (frame : Bytes) (s : State) : KeepsQueue s (execEdgeFrameRx k frame s) := by
  refine ⟨_, rfl, ?_⟩
  split
  · rfl
  split
  · rfl
  next t ht =>
  rw [← State.edgeTake_pending ht]
  dsimp only
  (repeat' split) <;> simp

theorem execEdgeIngestFrame_keepsQueue (k : Nat) (frame : Bytes) (s : State) : KeepsQueue s (execEdgeIngestFrame k frame s) := by
  refine ⟨_, rfl, ?_⟩
  split
  · rfl
  split
  · rfl
  next t ht =>
  rw [← State.edgeTake_pending ht]
  dsimp only
  (repeat' split) <;> simp

theorem execEdgeLinkLoss_keepsQueue (k : Nat) (s : State) : KeepsQueue s (execEdgeLinkLoss k s) := ⟨_, rfl, by simp⟩
theorem execEdgeTrainRetry_keepsQueue (k : Nat) (s : State) : KeepsQueue s (execEdgeTrainRetry k s) := ⟨_, rfl, by (repeat' split) <;> simp⟩
theorem execEdgeTrainingSettled_keepsQueue (k : Nat) (result : TrainResult) (s : State) : KeepsQueue s (execEdgeTrainingSettled k result s) :=
  ⟨_, rfl, by simp⟩

theorem execRetrain_keepsQueue (v : Word) (s : State) : KeepsQueue s (execRetrain v s) := ⟨_, rfl, by simp⟩
theorem execDisable_keepsQueue (v : Word) (s : State) : KeepsQueue s (execDisable v s) := ⟨_, rfl, by simp⟩
theorem execEnable_keepsQueue (v : Word) (s : State) : KeepsQueue s (execEnable v s) := ⟨_, rfl, by simp⟩

/-! ### Deliveries: the commands -/

theorem execFlitDelivery_keepsQueue (i : Nat) (s : State) : KeepsQueue s (execFlitDelivery i s) := ⟨_, rfl, by simp⟩
theorem execOutCiWrite_keepsQueue (p : Nat) (v : Word) (s : State) : KeepsQueue s (execOutCiWrite p v s) := ⟨_, rfl, by simp⟩
theorem execOutCfgWrite_keepsQueue (p off : Nat) (v : Word) (s : State) : KeepsQueue s (execOutCfgWrite p off v s) := ⟨_, rfl, by simp⟩
theorem execPrecisionCfgWrite_keepsQueue (p : Nat) (v : Word) (s : State) : KeepsQueue s (execPrecisionCfgWrite p v s) := ⟨_, rfl, by simp⟩

/-! ### Management: the commands -/

theorem execLogCopy_keepsQueue (block : Option Bytes) (s : State) : KeepsQueue s (execLogCopy block s) := ⟨_, rfl, by (repeat' split) <;> simp⟩
theorem execStage_keepsQueue (block image : Option Bytes) (s : State) : KeepsQueue s (execStage block image s) := ⟨_, rfl, by (repeat' split) <;> simp⟩
theorem execSelect_keepsQueue (s : State) : KeepsQueue s (execSelect s) := ⟨_, rfl, by (repeat' split) <;> simp⟩
theorem execFlashWriteResume_keepsQueue (s : State) : KeepsQueue s (execFlashWriteResume s) := ⟨_, rfl, by
  dsimp only
  (repeat' split) <;> simp⟩

theorem execStageFlashGateTimeout_keepsQueue (s : State) : KeepsQueue s (execStageFlashGateTimeout s) := ⟨_, rfl, by (repeat' split) <;> simp⟩
theorem execRollbackCounterAdvance_keepsQueue (s : State) : KeepsQueue s (execRollbackCounterAdvance s) := ⟨_, rfl, by simp⟩
theorem execSvcClear_keepsQueue (block : Option Bytes) (s : State) : KeepsQueue s (execSvcClear block s) := ⟨_, rfl, by (repeat' split) <;> simp⟩
theorem execDebugAccess_keepsQueue (block buffer : Option Bytes) (s : State) : KeepsQueue s (execDebugAccess block buffer s) :=
  ⟨_, rfl, by
  dsimp only
  (repeat' split) <;> simp⟩

/-! ### Power: the commands -/

theorem execFeedValid_keepsQueue (f centivolt : Nat) (s : State) : KeepsQueue s (execFeedValid f centivolt s) := ⟨_, rfl, by simp⟩
theorem execFeedInvalid_keepsQueue (f centivolt : Nat) (s : State) : KeepsQueue s (execFeedInvalid f centivolt s) := ⟨_, rfl, by simp⟩
theorem execFeedPresentOpen_keepsQueue (f : Nat) (s : State) : KeepsQueue s (execFeedPresentOpen f s) := ⟨_, rfl, by simp⟩
theorem execHoldupStart_keepsQueue (s : State) : KeepsQueue s (execHoldupStart s) := ⟨_, rfl, by simp⟩
theorem execConverterFail_keepsQueue (i : Nat) (s : State) : KeepsQueue s (execConverterFail i s) := ⟨_, rfl, by simp⟩
theorem execFieldCapAdjust_keepsQueue (f amps : Nat) (s : State) : KeepsQueue s (execFieldCapAdjust f amps s) :=
  ⟨_, rfl, by
  dsimp only
  (repeat' split) <;> simp⟩

theorem execPhaseFail_keepsQueue (r : Nat) (memRail : Bool) (i : Nat) (s : State) : KeepsQueue s (execPhaseFail r memRail i s) := ⟨_, rfl, by simp⟩
theorem execRegionPowerDown_keepsQueue (r : Nat) (s : State) : KeepsQueue s (execRegionPowerDown r s) :=
  ⟨_, rfl, by
  dsimp only
  (repeat' split) <;> simp⟩

theorem execPowerDownProceed_keepsQueue (r : Nat) (s : State) : KeepsQueue s (execPowerDownProceed r s) := ⟨_, rfl, by simp⟩
theorem execCurrentLimiterTrip_keepsQueue (r : Nat) (s : State) : KeepsQueue s (execCurrentLimiterTrip r s) := ⟨_, rfl, by simp⟩
theorem execWakeStageRequest_keepsQueue (r : Nat) (s : State) : KeepsQueue s (execWakeStageRequest r s) := ⟨_, rfl, by (repeat' split) <;> simp⟩
theorem execWakeStageGrant_keepsQueue (f : Nat) (s : State) : KeepsQueue s (execWakeStageGrant f s) := ⟨_, rfl, by simp⟩
theorem execWakeComplete_keepsQueue (r : Nat) (s : State) : KeepsQueue s (execWakeComplete r s) := ⟨_, rfl, by (repeat' split) <;> simp⟩
theorem execRushPriorityRaise_keepsQueue (f : Nat) (s : State) : KeepsQueue s (execRushPriorityRaise f s) :=
  ⟨_, rfl, by
  dsimp only
  (repeat' split) <;> simp⟩

theorem execRushPriorityLift_keepsQueue (f : Nat) (s : State) : KeepsQueue s (execRushPriorityLift f s) := ⟨_, rfl, by simp⟩
theorem execBallastWindow_keepsQueue (r activity : Nat) (s : State) : KeepsQueue s (execBallastWindow r activity s) := ⟨_, rfl, by simp⟩
theorem execClockStepChange_keepsQueue (v : Word) (s : State) : KeepsQueue s (execClockStepChange v s) := ⟨_, rfl, by simp⟩
theorem execGlideDone_keepsQueue (s : State) : KeepsQueue s (execGlideDone s) := ⟨_, rfl, by simp⟩
theorem execPwrBallastWrite_keepsQueue (v : Word) (s : State) : KeepsQueue s (execPwrBallastWrite v s) := ⟨_, rfl, by simp⟩
theorem execActivityWindowEnd_keepsQueue (r sum : Nat) (s : State) : KeepsQueue s (execActivityWindowEnd r sum s) := ⟨_, rfl, by (repeat' split) <;> simp⟩
theorem execPowerOverrunCheck_keepsQueue (r milliwatt coreMilliamp : Nat) (s : State) : KeepsQueue s (execPowerOverrunCheck r milliwatt coreMilliamp s) :=
  ⟨_, rfl, by
  dsimp only
  (repeat' split) <;> simp⟩

theorem execPwrEnergyLoRead_keepsQueue (port : Nat) (s : State) : KeepsQueue s (execPwrEnergyLoRead port s) := ⟨_, rfl, by simp⟩
theorem execRgnwPwrELoRead_keepsQueue (port r : Nat) (s : State) : KeepsQueue s (execRgnwPwrELoRead port r s) := ⟨_, rfl, by simp⟩
theorem execRgnwVminTcLoRead_keepsQueue (port r : Nat) (s : State) : KeepsQueue s (execRgnwVminTcLoRead port r s) := ⟨_, rfl, by simp⟩
theorem execRgnwVminTmLoRead_keepsQueue (port r : Nat) (s : State) : KeepsQueue s (execRgnwVminTmLoRead port r s) := ⟨_, rfl, by simp⟩
theorem execRailVoltageSample_keepsQueue (r : Nat) (memRail : Bool) (mv : Nat) (s : State) : KeepsQueue s (execRailVoltageSample r memRail mv s) :=
  ⟨_, rfl, by simp⟩

theorem execVminValidClear_keepsQueue (r : Nat) (memRail : Bool) (v : Word) (s : State) : KeepsQueue s (execVminValidClear r memRail v s) :=
  ⟨_, rfl, by simp⟩

theorem execRgnwTrcIdxWrite_keepsQueue (r : Nat) (v : Word) (s : State) : KeepsQueue s (execRgnwTrcIdxWrite r v s) := ⟨_, rfl, by simp⟩
theorem execPostedWriteApply_keepsQueue (r : Nat) (s : State) : KeepsQueue s (execPostedWriteApply r s) := ⟨_, rfl, by (repeat' split) <;> simp⟩
theorem execDistIdxWrite_keepsQueue (v : Word) (s : State) : KeepsQueue s (execDistIdxWrite v s) := ⟨_, rfl, by simp⟩

/-! ### Thermal: the commands -/

theorem execSensorSample_keepsQueue (sn : Sensor) (code : Option Nat) (s : State) : KeepsQueue s (execSensorSample sn code s) :=
  ⟨_, rfl, by (repeat' split) <;> simp⟩

theorem execSensorPairSuspect_keepsQueue (c : CoreId) (s : State) : KeepsQueue s (execSensorPairSuspect c s) := ⟨_, rfl, by simp⟩
theorem execThrottleGraceExpire_keepsQueue (r : Nat) (s : State) : KeepsQueue s (execThrottleGraceExpire r s) := ⟨_, rfl, by (repeat' split) <;> simp⟩
theorem execThermalStretchAdjust_keepsQueue (r : Nat) (s : State) : KeepsQueue s (execThermalStretchAdjust r s) := ⟨_, rfl, by simp⟩
theorem execConverterOvertemp_keepsQueue (i : Nat) (s : State) : KeepsQueue s (execConverterOvertemp i s) := ⟨_, rfl, by (repeat' split) <;> simp⟩
theorem execCoolantPoll_keepsQueue (sn : CoolantSensor) (raw : Option (BitVec 16)) (s : State) : KeepsQueue s (execCoolantPoll sn raw s) :=
  ⟨_, rfl, by (repeat' split) <;> simp⟩

theorem execFlowClampTimeout_keepsQueue (s : State) : KeepsQueue s (execFlowClampTimeout s) := ⟨_, rfl, by (repeat' split) <;> simp⟩
theorem execCoolantSensorReaddress_keepsQueue (sn : CoolantSensor) (s : State) : KeepsQueue s (execCoolantSensorReaddress sn s) := ⟨_, rfl, by simp⟩
theorem execGovernorLimitUpdate_keepsQueue (meanWatts : Nat) (s : State) : KeepsQueue s (execGovernorLimitUpdate meanWatts s) := ⟨_, rfl, by simp⟩
theorem execGovernorHoldAdjust_keepsQueue (watts : Nat) (s : State) : KeepsQueue s (execGovernorHoldAdjust watts s) := ⟨_, rfl, by simp⟩
theorem execThmCfgWrite_keepsQueue (v : Word) (s : State) : KeepsQueue s (execThmCfgWrite v s) := ⟨_, rfl, by simp⟩

/-! ### Scrubs and repairs: the commands -/

theorem execScrubRow_keepsQueue (r : Nat) (chk : CodeCheck) (s : State) : KeepsQueue s (execScrubRow r chk s) := ⟨_, rfl, by simp⟩
theorem execCorrectionWriteback_keepsQueue (r k row : Nat) (s : State) : KeepsQueue s (execCorrectionWriteback r k row s) := ⟨_, rfl, by simp⟩
theorem execRowRepairSwitch_keepsQueue (r k row : Nat) (s : State) : KeepsQueue s (execRowRepairSwitch r k row s) := ⟨_, rfl, by simp⟩
theorem execRimScrub_keepsQueue (stack granule : Nat) (chk : CodeCheck) (s : State) : KeepsQueue s (execRimScrub stack granule chk s) := ⟨_, rfl, by simp⟩
theorem execRimChannelFail_keepsQueue (stack channel : Nat) (s : State) : KeepsQueue s (execRimChannelFail stack channel s) := ⟨_, rfl, by simp⟩

/-! ### Bring-up and restarts: the commands -/

theorem execHoldupEnd_keepsQueue (s : State) : KeepsQueue s (execHoldupEnd s) := ⟨_, rfl, by simp⟩
theorem execColdStart_keepsQueue (s : State) : KeepsQueue s (execColdStart s) := ⟨_, rfl, by simp⟩
theorem execSt0FeedsPresent_keepsQueue (s : State) : KeepsQueue s (execSt0FeedsPresent s) := ⟨_, rfl, by simp⟩
theorem execSt1ManagementBoot_keepsQueue (ref0 ref1 selfTest : Bool) (bankA bankB : BankRead) (portsUp : BitVec 2) (s : State) : KeepsQueue s (execSt1ManagementBoot ref0 ref1 selfTest bankA bankB portsUp s) :=
  ⟨_, rfl, by simp⟩

theorem execSt2FuseRead_keepsQueue (fuses : Option Fuses) (s : State) : KeepsQueue s (execSt2FuseRead fuses s) := ⟨_, rfl, by (repeat' split) <;> simp⟩
theorem execSt3StackRailRamp_keepsQueue (failedConverters : List Nat) (s : State) : KeepsQueue s (execSt3StackRailRamp failedConverters s) :=
  ⟨_, rfl, by simp⟩

theorem execCoolantWaitTimeout_keepsQueue (s : State) : KeepsQueue s (execCoolantWaitTimeout s) := ⟨_, rfl, by simp⟩
theorem execSt4MeshLock_keepsQueue (decoupled : List Nat) (s : State) : KeepsQueue s (execSt4MeshLock decoupled s) := by
  refine ⟨_, rfl, ?_⟩
  split
  · rfl
  · extract_lets nodes out t u _ v
    have hu : u.pending = s.pending := by
      unfold u t
      rw [State.setFld_pending, State.setFld_pending, State.pending_foldl fun _ _ => by simp]
    clear_value u t
    exact (State.passStage_pending ..).trans hu

theorem execMeshLockTimeout_keepsQueue (s : State) : KeepsQueue s (execMeshLockTimeout s) := ⟨_, rfl, by simp⟩
theorem execSt5RegionSelfTest_keepsQueue (results : List SelfTest) (skipFailed : List Nat) (s : State) : KeepsQueue s (execSt5RegionSelfTest results skipFailed s) := by
  unfold execSt5RegionSelfTest
  (repeat' split) <;> exact ⟨_, rfl, by simp⟩

theorem execSt6BuildLast_keepsQueue (s : State) : KeepsQueue s (execSt6BuildLast s) := ⟨_, rfl, by simp⟩
theorem execSt7MemoryTest_keepsQueue (results : List MemTest) (s : State) : KeepsQueue s (execSt7MemoryTest results s) := ⟨_, rfl, by simp⟩
theorem execSt8RimTraining_keepsQueue (live : List (BitVec 32)) (s : State) : KeepsQueue s (execSt8RimTraining live s) := ⟨_, rfl, by simp⟩
theorem execSt9MeshRoutes_keepsQueue (failedLinks : List (Nat × Nat)) (s : State) : KeepsQueue s (execSt9MeshRoutes failedLinks s) := by
  refine ⟨_, rfl, ?_⟩
  split
  · rfl
  extract_lets s1 s2 _ s3 bad s4 s5
  have h2 : s2.pending = s.pending := by
    refine (State.pending_foldl (fun t a => State.pending_foldl (fun t e => ?_) _ _) _ _).trans (State.assignEndpoints_pending s)
    rw [State.wr_pending, State.wr_pending, State.setFld_pending]
  have h3 : s3.pending = s.pending := h2
  have h4 : s4.pending = s.pending := by
    refine (State.pending_foldl (fun t e => ?_) _ _).trans h3
    rw [State.addLocus_pending]
    split <;> simp
  clear_value s4
  have h5 : s5.pending = s.pending := (State.pending_foldl (fun t e => State.hubDies_pending ..) _ _).trans h4
  clear_value s5
  rw [State.passStage_pending, h5]

theorem execSt10EdgeTraining_keepsQueue (s : State) : KeepsQueue s (execSt10EdgeTraining s) := ⟨_, rfl, by simp⟩
theorem execSt10Record_keepsQueue (s : State) : KeepsQueue s (execSt10Record s) := ⟨_, rfl, by simp⟩
theorem execSt11Readiness_keepsQueue (s : State) : KeepsQueue s (execSt11Readiness s) := ⟨_, rfl, by simp⟩
theorem execRestartByHost_keepsQueue (v : Word) (s : State) : KeepsQueue s (execRestartByHost v s) := ⟨_, rfl, by simp⟩
theorem execRestartByContact_keepsQueue (s : State) : KeepsQueue s (execRestartByContact s) := by
  refine ⟨_, rfl, ?_⟩
  split
  · rfl
  split
  · simp
  extract_lets old t u
  have ht : t.pending = s.pending := (State.acceptRestart_pending ..).trans (State.abandonStage_pending s)
  clear_value t old
  have hu : u.pending = s.pending := by
    unfold u
    split
    · split
      · rw [State.setFld_pending, ht]
      · exact ht
    · exact ht
  exact hu

theorem execRestartPowerDown_keepsQueue (selfTest : Bool) (s : State) : KeepsQueue s (execRestartPowerDown selfTest s) := ⟨_, rfl, by simp⟩
theorem execModResetNRelease_keepsQueue (s : State) : KeepsQueue s (execModResetNRelease s) := ⟨_, rfl, by simp⟩
theorem execNodeDecouple_keepsQueue (r : Nat) (s : State) : KeepsQueue s (execNodeDecouple r s) := by
  refine ⟨_, rfl, ?_⟩
  split
  · rfl
  · dsimp only
    split <;> simp

theorem execRefSwitchover_keepsQueue (s : State) : KeepsQueue s (execRefSwitchover s) := by
  refine ⟨_, rfl, ?_⟩
  extract_lets ref _ t other u
  have hu : u.pending = s.pending := by
    unfold u
    rw [State.pending_ite, State.bump_pending, State.showRefs_pending, State.showRefs_pending, ite_self]
  clear_value u t ref
  split
  · rfl
  · exact (State.deferred_pending u ..).trans hu

theorem execRefReturn_keepsQueue (ref : Nat) (s : State) : KeepsQueue s (execRefReturn ref s) := ⟨_, rfl, by simp⟩
theorem execClkTimeLoRead_keepsQueue (port : Nat) (s : State) : KeepsQueue s (execClkTimeLoRead port s) := ⟨_, rfl, by simp⟩
theorem execStgLocData0Read_keepsQueue (port : Nat) (s : State) : KeepsQueue s (execStgLocData0Read port s) := ⟨_, rfl, by simp⟩
theorem execAliveOutToggle_keepsQueue (s : State) : KeepsQueue s (execAliveOutToggle s) := ⟨_, rfl, by simp⟩

/-! ### Fault recovery and tests: the commands -/

theorem execMgmtWatchdogExpire_keepsQueue (s : State) : KeepsQueue s (execMgmtWatchdogExpire s) := ⟨_, rfl, by simp⟩
theorem execRecoveryQuietExpire_keepsQueue (s : State) : KeepsQueue s (execRecoveryQuietExpire s) := ⟨_, rfl, by simp⟩
theorem execRecentRecoveryExpire_keepsQueue (s : State) : KeepsQueue s (execRecentRecoveryExpire s) := ⟨_, rfl, by simp⟩
theorem execRearm_keepsQueue (v : Word) (s : State) : KeepsQueue s (execRearm v s) := by
  refine ⟨_, rfl, ?_⟩
  split
  · rfl
  · extract_lets t
    rw [State.setFld_pending, State.showRecent_pending]
    exact State.reservedBits_pending ..

theorem execRecover_keepsQueue (v : Word) (s : State) : KeepsQueue s (execRecover v s) := ⟨_, rfl, by simp⟩
theorem execResumeRepair_keepsQueue (v : Word) (s : State) : KeepsQueue s (execResumeRepair v s) := ⟨_, rfl, by simp⟩
theorem execEndRepair_keepsQueue (v : Word) (s : State) : KeepsQueue s (execEndRepair v s) := ⟨_, rfl, by simp⟩
theorem execSpareProcedureStep_keepsQueue (shipped : Bool) (s : State) : KeepsQueue s (execSpareProcedureStep shipped s) := ⟨_, rfl, by simp⟩
theorem execSpareShipmentTimeout_keepsQueue (s : State) : KeepsQueue s (execSpareShipmentTimeout s) := by
  refine ⟨_, rfl, ?_⟩
  split
  · split
    · exact State.endJob_pending ..
    · rfl
  · rfl

theorem execJobResume_keepsQueue (s : State) : KeepsQueue s (execJobResume s) := ⟨_, rfl, by simp⟩
theorem execCoreFailure_keepsQueue (c : CoreId) (s : State) : KeepsQueue s (execCoreFailure c s) := ⟨_, rfl, by simp⟩
theorem execIstWindow_keepsQueue (r : Nat) (pass uncore sensorsAgree : Bool) (s : State) : KeepsQueue s (execIstWindow r pass uncore sensorsAgree s) := by
  refine ⟨_, rfl, ?_⟩
  extract_lets runs
  split
  · rfl
  split
  · rfl
  rw [State.istOutcome_pending, State.istSensors_pending]
  split <;> simp

theorem execFltCfgWrite_keepsQueue (v : Word) (s : State) : KeepsQueue s (execFltCfgWrite v s) := ⟨_, rfl, by simp⟩
theorem execFltLogData0Read_keepsQueue (port : Nat) (s : State) : KeepsQueue s (execFltLogData0Read port s) :=
  ⟨_, rfl, State.pending_foldl (fun _ _ => by simp) _ s⟩

theorem execFaultInjectArm_keepsQueue (v : Word) (s : State) : KeepsQueue s (execFaultInjectArm v s) := ⟨_, rfl, by simp⟩
theorem execScratchpadScrub_keepsQueue (c : CoreId) (st : Store) (addr : Nat) (chk : CodeCheck) (s : State) : KeepsQueue s (execScratchpadScrub c st addr chk s) := by
  refine ⟨_, rfl, ?_⟩
  extract_lets core x
  dsimp only
  (repeat' split) <;> simp

/-! ### The host interface: the commands -/

theorem execHostPortReset_keepsQueue (port : Nat) (s : State) : KeepsQueue s (execHostPortReset port s) := ⟨_, rfl, by simp⟩
theorem execHostPortLinkUp_keepsQueue (port speed width : Nat) (s : State) : KeepsQueue s (execHostPortLinkUp port speed width s) := ⟨_, rfl, by simp⟩
theorem execCmdPi_keepsQueue (p : Nat) (v : Word) (s : State) : KeepsQueue s (execCmdPi p v s) := ⟨_, rfl, by simp⟩
theorem execAssPi_keepsQueue (p : Nat) (v : Word) (s : State) : KeepsQueue s (execAssPi p v s) := ⟨_, rfl, by simp⟩
theorem execCplCi_keepsQueue (p : Nat) (v : Word) (s : State) : KeepsQueue s (execCplCi p v s) := ⟨_, rfl, by simp⟩
theorem execOutCi_keepsQueue (p : Nat) (v : Word) (s : State) : KeepsQueue s (execOutCi p v s) := ⟨_, rfl, by simp⟩
theorem execXferPi_keepsQueue (n : Nat) (v : Word) (s : State) : KeepsQueue s (execXferPi n v s) := ⟨_, rfl, by simp⟩
theorem execRingCfgWrite_keepsQueue (p : Nat) (v : Word) (s : State) : KeepsQueue s (execRingCfgWrite p v s) := ⟨_, rfl, by simp⟩
theorem execXferCfgWrite_keepsQueue (n : Nat) (v : Word) (s : State) : KeepsQueue s (execXferCfgWrite n v s) := ⟨_, rfl, by simp⟩
theorem execRingEntryFetch_keepsQueue (p : Nat) (assist : Bool) (e : Option Bytes) (s : State) : KeepsQueue s (execRingEntryFetch p assist e s) :=
  ⟨_, rfl, by (repeat' split) <;> simp⟩

theorem execKeeper_keepsQueue (p : Nat) (e : Bytes) (s : State) : KeepsQueue s (execKeeper p e s) := by
  refine ⟨_, rfl, ?_⟩
  split
  · rfl
  split
  · rfl
  next t ht =>
  have ht := State.takeRing_pending ht
  dsimp only
  (repeat' split) <;> simp [ht]

theorem execWalk_keepsQueue (p : Nat) (e : Bytes) (list : Option Bytes) (s : State) : KeepsQueue s (execWalk p e list s) := by
  refine ⟨_, rfl, ?_⟩
  split
  · rfl
  split
  · rfl
  next t ht =>
  have ht := State.takeRing_pending ht
  dsimp only
  (repeat' split) <;> simp [ht]

theorem execMover_keepsQueue (p : Nat) (e : Bytes) (s : State) : KeepsQueue s (execMover p e s) := by
  refine ⟨_, rfl, ?_⟩
  split
  · rfl
  split
  · rfl
  next t ht =>
  have ht := State.takeRing_pending ht
  dsimp only
  (repeat' split) <;> simp [ht]

theorem execXferEntryFetch_keepsQueue (n : Nat) (e data : Option Bytes) (s : State) : KeepsQueue s (execXferEntryFetch n e data s) :=
  ⟨_, rfl, by (repeat' split) <;> simp⟩

theorem execMsixHoldoffExpire_keepsQueue (port vector : Nat) (s : State) : KeepsQueue s (execMsixHoldoffExpire port vector s) :=
  ⟨_, rfl, by
  dsimp only
  (repeat' split) <;> simp⟩

theorem execPmodeWrite_keepsQueue (p : Nat) (v : Word) (s : State) : KeepsQueue s (execPmodeWrite p v s) := ⟨_, rfl, by simp⟩
theorem execGlbModeWrite_keepsQueue (v : Word) (s : State) : KeepsQueue s (execGlbModeWrite v s) := ⟨_, rfl, by simp⟩
theorem execRegisterWrite_keepsQueue (port addr : Nat) (enables : BitVec 4) (v : Word) (s : State) : KeepsQueue s (execRegisterWrite port addr enables v s) :=
  ⟨_, rfl, by simp⟩

/-! ### A core's slots: the commands -/

theorem execBundleIssue_keepsQueue (c : CoreId) (s : State) : KeepsQueue s (execBundleIssue c s) := ⟨_, rfl, by simp⟩
theorem execWaitTimeout_keepsQueue (c : CoreId) (s : State) : KeepsQueue s (execWaitTimeout c s) := ⟨_, rfl, by simp⟩
theorem execDmm_keepsQueue (c : CoreId) (o : BitVec 46) (s : State) : KeepsQueue s (execDmm c o s) := ⟨_, rfl, by simp⟩
theorem execDmmt_keepsQueue (c : CoreId) (o : BitVec 46) (s : State) : KeepsQueue s (execDmmt c o s) := ⟨_, rfl, by simp⟩
theorem execDout_keepsQueue (c : CoreId) (o : BitVec 46) (s : State) : KeepsQueue s (execDout c o s) := ⟨_, rfl, by simp⟩
theorem execDadn_keepsQueue (c : CoreId) (o : BitVec 46) (s : State) : KeepsQueue s (execDadn c o s) := ⟨_, rfl, by simp⟩
theorem execDaup_keepsQueue (c : CoreId) (o : BitVec 46) (s : State) : KeepsQueue s (execDaup c o s) := ⟨_, rfl, by simp⟩
theorem execDrsc_keepsQueue (c : CoreId) (o : BitVec 46) (s : State) : KeepsQueue s (execDrsc c o s) := ⟨_, rfl, by simp⟩
theorem execVfma_keepsQueue (c : CoreId) (o : BitVec 46) (s : State) : KeepsQueue s (execVfma c o s) := ⟨_, rfl, by simp⟩
theorem execVadd_keepsQueue (c : CoreId) (o : BitVec 46) (s : State) : KeepsQueue s (execVadd c o s) := ⟨_, rfl, by simp⟩
theorem execVmul_keepsQueue (c : CoreId) (o : BitVec 46) (s : State) : KeepsQueue s (execVmul c o s) := ⟨_, rfl, by simp⟩
theorem execVmin_keepsQueue (c : CoreId) (o : BitVec 46) (s : State) : KeepsQueue s (execVmin c o s) := ⟨_, rfl, by simp⟩
theorem execVmax_keepsQueue (c : CoreId) (o : BitVec 46) (s : State) : KeepsQueue s (execVmax c o s) := ⟨_, rfl, by simp⟩
theorem execVcmp_keepsQueue (c : CoreId) (o : BitVec 46) (s : State) : KeepsQueue s (execVcmp c o s) := ⟨_, rfl, by simp⟩
theorem execVsel_keepsQueue (c : CoreId) (o : BitVec 46) (s : State) : KeepsQueue s (execVsel c o s) := ⟨_, rfl, by simp⟩
theorem execVbrl_keepsQueue (c : CoreId) (o : BitVec 46) (s : State) : KeepsQueue s (execVbrl c o s) := ⟨_, rfl, by simp⟩
theorem execVcvt_keepsQueue (c : CoreId) (o : BitVec 46) (s : State) : KeepsQueue s (execVcvt c o s) := ⟨_, rfl, by simp⟩
theorem execVacc_keepsQueue (c : CoreId) (o : BitVec 46) (s : State) : KeepsQueue s (execVacc c o s) := ⟨_, rfl, by simp⟩
theorem execVrot_keepsQueue (c : CoreId) (o : BitVec 46) (s : State) : KeepsQueue s (execVrot c o s) := ⟨_, rfl, by simp⟩
theorem execVrmax_keepsQueue (c : CoreId) (o : BitVec 46) (s : State) : KeepsQueue s (execVrmax c o s) := ⟨_, rfl, by simp⟩
theorem execVrsum_keepsQueue (c : CoreId) (o : BitVec 46) (s : State) : KeepsQueue s (execVrsum c o s) := ⟨_, rfl, by simp⟩
theorem execVexp_keepsQueue (c : CoreId) (o : BitVec 46) (s : State) : KeepsQueue s (execVexp c o s) := ⟨_, rfl, by simp⟩
theorem execVrcp_keepsQueue (c : CoreId) (o : BitVec 46) (s : State) : KeepsQueue s (execVrcp c o s) := ⟨_, rfl, by simp⟩
theorem execVrsq_keepsQueue (c : CoreId) (o : BitVec 46) (s : State) : KeepsQueue s (execVrsq c o s) := ⟨_, rfl, by simp⟩
theorem execVact_keepsQueue (c : CoreId) (o : BitVec 46) (s : State) : KeepsQueue s (execVact c o s) := ⟨_, rfl, by simp⟩
theorem execVqnt_keepsQueue (c : CoreId) (o : BitVec 46) (s : State) : KeepsQueue s (execVqnt c o s) := ⟨_, rfl, by simp⟩
theorem execAsmx_keepsQueue (c : CoreId) (o : BitVec 46) (s : State) : KeepsQueue s (execAsmx c o s) := ⟨_, rfl, by simp⟩
theorem execAend_keepsQueue (c : CoreId) (o : BitVec 46) (s : State) : KeepsQueue s (execAend c o s) := ⟨_, rfl, by simp⟩
theorem execArec_keepsQueue (c : CoreId) (o : BitVec 46) (s : State) : KeepsQueue s (execArec c o s) := ⟨_, rfl, by simp⟩

/-! ### A core's movements: the commands -/

theorem execAop_keepsQueue (c : CoreId) (o : BitVec 30) (s : State) : KeepsQueue s (execAop c o s) := ⟨_, rfl, by simp⟩
theorem execAopi_keepsQueue (c : CoreId) (o : BitVec 30) (s : State) : KeepsQueue s (execAopi c o s) := ⟨_, rfl, by simp⟩
theorem execCmp_keepsQueue (c : CoreId) (o : BitVec 30) (s : State) : KeepsQueue s (execCmp c o s) := ⟨_, rfl, by simp⟩
theorem execPlg_keepsQueue (c : CoreId) (o : BitVec 30) (s : State) : KeepsQueue s (execPlg c o s) := ⟨_, rfl, by simp⟩
theorem execCsr_keepsQueue (c : CoreId) (o : BitVec 30) (s : State) : KeepsQueue s (execCsr c o s) := ⟨_, rfl, by simp⟩
theorem execCctl_keepsQueue (c : CoreId) (o : BitVec 30) (s : State) : KeepsQueue s (execCctl c o s) := ⟨_, rfl, by simp⟩
theorem execWait_keepsQueue (c : CoreId) (o : BitVec 30) (s : State) : KeepsQueue s (execWait c o s) := ⟨_, rfl, by simp⟩
theorem execBr_keepsQueue (c : CoreId) (o : BitVec 30) (s : State) : KeepsQueue s (execBr c o s) := ⟨_, rfl, by simp⟩
theorem execLoop_keepsQueue (c : CoreId) (o : BitVec 30) (s : State) : KeepsQueue s (execLoop c o s) := ⟨_, rfl, by simp⟩
theorem execTset_keepsQueue (c : CoreId) (o : BitVec 30) (s : State) : KeepsQueue s (execTset c o s) := ⟨_, rfl, by simp⟩
theorem execTadj_keepsQueue (c : CoreId) (o : BitVec 30) (s : State) : KeepsQueue s (execTadj c o s) := ⟨_, rfl, by simp⟩
theorem execStl_keepsQueue (c : CoreId) (o : BitVec 30) (s : State) : KeepsQueue s (execStl c o s) := ⟨_, rfl, by simp⟩
theorem execHalt_keepsQueue (c : CoreId) (s : State) : KeepsQueue s (execHalt c s) := ⟨_, rfl, by simp⟩
theorem execTrc_keepsQueue (c : CoreId) (o : BitVec 30) (s : State) : KeepsQueue s (execTrc c o s) := ⟨_, rfl, by simp⟩
theorem execLda_keepsQueue (c : CoreId) (o : BitVec 38) (s : State) : KeepsQueue s (execLda c o s) := ⟨_, rfl, by simp⟩
theorem execSta_keepsQueue (c : CoreId) (o : BitVec 38) (s : State) : KeepsQueue s (execSta c o s) := ⟨_, rfl, by simp⟩
theorem execLdv_keepsQueue (c : CoreId) (o : BitVec 38) (s : State) : KeepsQueue s (execLdv c o s) := ⟨_, rfl, by simp⟩
theorem execStv_keepsQueue (c : CoreId) (o : BitVec 38) (s : State) : KeepsQueue s (execStv c o s) := ⟨_, rfl, by simp⟩
theorem execTld_keepsQueue (c : CoreId) (o : BitVec 38) (s : State) : KeepsQueue s (execTld c o s) := ⟨_, rfl, by simp⟩
theorem execMcp_keepsQueue (c : CoreId) (o : BitVec 38) (s : State) : KeepsQueue s (execMcp c o s) := ⟨_, rfl, by simp⟩
theorem execVrd_keepsQueue (c : CoreId) (o : BitVec 38) (s : State) : KeepsQueue s (execVrd c o s) := ⟨_, rfl, by simp⟩
theorem execVwr_keepsQueue (c : CoreId) (o : BitVec 38) (s : State) : KeepsQueue s (execVwr c o s) := ⟨_, rfl, by simp⟩
theorem execSpr_keepsQueue (c : CoreId) (o : BitVec 38) (s : State) : KeepsQueue s (execSpr c o s) := ⟨_, rfl, by simp⟩
theorem execSpw_keepsQueue (c : CoreId) (o : BitVec 38) (s : State) : KeepsQueue s (execSpw c o s) := ⟨_, rfl, by simp⟩
theorem execSnd_keepsQueue (c : CoreId) (o : BitVec 38) (s : State) : KeepsQueue s (execSnd c o s) := ⟨_, rfl, by simp⟩
theorem execMcs_keepsQueue (c : CoreId) (o : BitVec 38) (s : State) : KeepsQueue s (execMcs c o s) := ⟨_, rfl, by simp⟩
theorem execRds_keepsQueue (c : CoreId) (o : BitVec 38) (s : State) : KeepsQueue s (execRds c o s) := ⟨_, rfl, by simp⟩
theorem execSig_keepsQueue (c : CoreId) (o : BitVec 38) (s : State) : KeepsQueue s (execSig c o s) := ⟨_, rfl, by simp⟩

/-! ### Security messages: the commands -/

theorem execPcr_keepsQueue (block request : Option Bytes) (s : State) : KeepsQueue s (execPcr block request s) := ⟨_, rfl, by (repeat' split) <;> simp⟩
theorem execSetKey_keepsQueue (req : Bytes) (s : State) : KeepsQueue s (execSetKey req s) := ⟨_, rfl, by simp⟩
theorem execSetPolicy_keepsQueue (req : Bytes) (s : State) : KeepsQueue s (execSetPolicy req s) := ⟨_, rfl, by simp⟩
theorem execDebug_keepsQueue (req : Bytes) (s : State) : KeepsQueue s (execDebug req s) := ⟨_, rfl, by simp⟩
theorem execUpdatePolicy_keepsQueue (req : Bytes) (s : State) : KeepsQueue s (execUpdatePolicy req s) := ⟨_, rfl, by simp⟩
theorem execEnrol_keepsQueue (req : Bytes) (s : State) : KeepsQueue s (execEnrol req s) := ⟨_, rfl, by simp⟩
theorem execRemove_keepsQueue (req : Bytes) (s : State) : KeepsQueue s (execRemove req s) := ⟨_, rfl, by simp⟩
theorem execFuse_keepsQueue (req : Bytes) (s : State) : KeepsQueue s (execFuse req s) := ⟨_, rfl, by simp⟩
theorem execApprove_keepsQueue (req : Bytes) (s : State) : KeepsQueue s (execApprove req s) := ⟨_, rfl, by simp⟩
theorem execSecSelfTestPeriodic_keepsQueue (pass : Bool) (s : State) : KeepsQueue s (execSecSelfTestPeriodic pass s) := ⟨_, rfl, by simp⟩
theorem execEntropyHealthFail_keepsQueue (s : State) : KeepsQueue s (execEntropyHealthFail s) := ⟨_, rfl, by simp⟩
theorem execGetVersion_keepsQueue (req : Bytes) (s : State) : KeepsQueue s (execGetVersion req s) := ⟨_, rfl, by simp⟩
theorem execGetCapabilities_keepsQueue (req : Bytes) (s : State) : KeepsQueue s (execGetCapabilities req s) := ⟨_, rfl, by simp⟩
theorem execNegotiateAlgorithms_keepsQueue (req : Bytes) (s : State) : KeepsQueue s (execNegotiateAlgorithms req s) := ⟨_, rfl, by simp⟩
theorem execGetDigests_keepsQueue (req : Bytes) (s : State) : KeepsQueue s (execGetDigests req s) := ⟨_, rfl, by simp⟩
theorem execGetCertificate_keepsQueue (req : Bytes) (s : State) : KeepsQueue s (execGetCertificate req s) := ⟨_, rfl, by simp⟩
theorem execChallenge_keepsQueue (req : Bytes) (s : State) : KeepsQueue s (execChallenge req s) := ⟨_, rfl, by simp⟩
theorem execGetMeasurements_keepsQueue (req : Bytes) (s : State) : KeepsQueue s (execGetMeasurements req s) := ⟨_, rfl, by simp⟩
theorem execKeyExchange_keepsQueue (req : Bytes) (s : State) : KeepsQueue s (execKeyExchange req s) := ⟨_, rfl, by simp⟩
theorem execFinish_keepsQueue (session : Nat) (req : Bytes) (s : State) : KeepsQueue s (execFinish session req s) := ⟨_, rfl, by simp⟩
theorem execHeartbeat_keepsQueue (session : Nat) (req : Bytes) (s : State) : KeepsQueue s (execHeartbeat session req s) := ⟨_, rfl, by simp⟩
theorem execKeyUpdate_keepsQueue (session : Nat) (req : Bytes) (s : State) : KeepsQueue s (execKeyUpdate session req s) := ⟨_, rfl, by simp⟩
theorem execEndSession_keepsQueue (session : Nat) (req : Bytes) (s : State) : KeepsQueue s (execEndSession session req s) := ⟨_, rfl, by simp⟩
theorem execMctpMessage_keepsQueue (msgType : Nat) (body : Bytes) (s : State) : KeepsQueue s (execMctpMessage msgType body s) := ⟨_, rfl, by simp⟩
theorem execMgtLogLoRead_keepsQueue (port : Nat) (s : State) : KeepsQueue s (execMgtLogLoRead port s) := ⟨_, rfl, by simp⟩
theorem execSecCtrLoRead_keepsQueue (port : Nat) (s : State) : KeepsQueue s (execSecCtrLoRead port s) := ⟨_, rfl, by simp⟩
theorem execSecDbgLoRead_keepsQueue (port : Nat) (s : State) : KeepsQueue s (execSecDbgLoRead port s) := ⟨_, rfl, by simp⟩
theorem execGlbSerialLoRead_keepsQueue (port : Nat) (s : State) : KeepsQueue s (execGlbSerialLoRead port s) := ⟨_, rfl, by simp⟩

/-! ### Every command (O2) -/

/-- Every command keeps the queue, by its own lemma above. -/
theorem exec_keepsQueue (s : State) : ∀ c : Instr, KeepsQueue s (exec c s)
  | .distIdxWrite _ => execDistIdxWrite_keepsQueue _ s
  | .bundleIssue _ => execBundleIssue_keepsQueue _ s
  | .waitTimeout _ => execWaitTimeout_keepsQueue _ s
  | .sensorSample _ _ => execSensorSample_keepsQueue _ _ s
  | .sensorPairSuspect _ => execSensorPairSuspect_keepsQueue _ s
  | .dmm _ _ => execDmm_keepsQueue _ _ s
  | .dmmt _ _ => execDmmt_keepsQueue _ _ s
  | .dout _ _ => execDout_keepsQueue _ _ s
  | .dadn _ _ => execDadn_keepsQueue _ _ s
  | .daup _ _ => execDaup_keepsQueue _ _ s
  | .drsc _ _ => execDrsc_keepsQueue _ _ s
  | .vfma _ _ => execVfma_keepsQueue _ _ s
  | .vadd _ _ => execVadd_keepsQueue _ _ s
  | .vmul _ _ => execVmul_keepsQueue _ _ s
  | .vmin _ _ => execVmin_keepsQueue _ _ s
  | .vmax _ _ => execVmax_keepsQueue _ _ s
  | .vcmp _ _ => execVcmp_keepsQueue _ _ s
  | .vsel _ _ => execVsel_keepsQueue _ _ s
  | .vbrl _ _ => execVbrl_keepsQueue _ _ s
  | .vcvt _ _ => execVcvt_keepsQueue _ _ s
  | .vacc _ _ => execVacc_keepsQueue _ _ s
  | .vrot _ _ => execVrot_keepsQueue _ _ s
  | .vrmax _ _ => execVrmax_keepsQueue _ _ s
  | .vrsum _ _ => execVrsum_keepsQueue _ _ s
  | .vexp _ _ => execVexp_keepsQueue _ _ s
  | .vrcp _ _ => execVrcp_keepsQueue _ _ s
  | .vrsq _ _ => execVrsq_keepsQueue _ _ s
  | .vact _ _ => execVact_keepsQueue _ _ s
  | .vqnt _ _ => execVqnt_keepsQueue _ _ s
  | .asmx _ _ => execAsmx_keepsQueue _ _ s
  | .aend _ _ => execAend_keepsQueue _ _ s
  | .arec _ _ => execArec_keepsQueue _ _ s
  | .aop _ _ => execAop_keepsQueue _ _ s
  | .aopi _ _ => execAopi_keepsQueue _ _ s
  | .cmp _ _ => execCmp_keepsQueue _ _ s
  | .plg _ _ => execPlg_keepsQueue _ _ s
  | .csr _ _ => execCsr_keepsQueue _ _ s
  | .cctl _ _ => execCctl_keepsQueue _ _ s
  | .wait _ _ => execWait_keepsQueue _ _ s
  | .br _ _ => execBr_keepsQueue _ _ s
  | .loop _ _ => execLoop_keepsQueue _ _ s
  | .tset _ _ => execTset_keepsQueue _ _ s
  | .tadj _ _ => execTadj_keepsQueue _ _ s
  | .stl _ _ => execStl_keepsQueue _ _ s
  | .halt _ => execHalt_keepsQueue _ s
  | .trc _ _ => execTrc_keepsQueue _ _ s
  | .lda _ _ => execLda_keepsQueue _ _ s
  | .sta _ _ => execSta_keepsQueue _ _ s
  | .ldv _ _ => execLdv_keepsQueue _ _ s
  | .stv _ _ => execStv_keepsQueue _ _ s
  | .tld _ _ => execTld_keepsQueue _ _ s
  | .mcp _ _ => execMcp_keepsQueue _ _ s
  | .vrd _ _ => execVrd_keepsQueue _ _ s
  | .vwr _ _ => execVwr_keepsQueue _ _ s
  | .spr _ _ => execSpr_keepsQueue _ _ s
  | .spw _ _ => execSpw_keepsQueue _ _ s
  | .snd _ _ => execSnd_keepsQueue _ _ s
  | .mcs _ _ => execMcs_keepsQueue _ _ s
  | .rds _ _ => execRds_keepsQueue _ _ s
  | .sig _ _ => execSig_keepsQueue _ _ s
  | .spoolCompletion _ _ _ => execSpoolCompletion_keepsQueue _ _ _ s
  | .flitDelivery _ => execFlitDelivery_keepsQueue _ s
  | .flitHop _ _ => execFlitHop_keepsQueue _ _ s
  | .linkReplay _ _ => execLinkReplay_keepsQueue _ _ s
  | .linkFailure _ _ => execLinkFailure_keepsQueue _ _ s
  | .hubLinkTest _ _ _ _ => execHubLinkTest_keepsQueue _ _ _ _ s
  | .multicastReplicate _ => execMulticastReplicate_keepsQueue _ s
  | .multicastStallTimeout _ _ => execMulticastStallTimeout_keepsQueue _ _ s
  | .reduceContribution _ => execReduceContribution_keepsQueue _ s
  | .reductionRoundForward _ => execReductionRoundForward_keepsQueue _ s
  | .reductionStallTimeout _ => execReductionStallTimeout_keepsQueue _ s
  | .cmapPeriodTick _ => execCmapPeriodTick_keepsQueue _ s
  | .fabCfgWrite _ => execFabCfgWrite_keepsQueue _ s
  | .fabViolLogClear _ => execFabViolLogClear_keepsQueue _ s
  | .fabStallLogClear _ => execFabStallLogClear_keepsQueue _ s
  | .fabCmapData0Read _ => execFabCmapData0Read_keepsQueue _ s
  | .seqInstruction _ _ => execSeqInstruction_keepsQueue _ _ s
  | .seqArrival _ => execSeqArrival_keepsQueue _ s
  | .sqRingConfig _ _ _ => execSqRingConfig_keepsQueue _ _ _ s
  | .sqEmit _ _ => execSqEmit_keepsQueue _ _ s
  | .emissionDelivery _ => execEmissionDelivery_keepsQueue _ s
  | .sqMov _ _ => execSqMov_keepsQueue _ _ s
  | .moverCompletion _ _ => execMoverCompletion_keepsQueue _ _ s
  | .dueItemLateStall _ _ => execDueItemLateStall_keepsQueue _ _ s
  | .dueItemLand _ _ => execDueItemLand_keepsQueue _ _ s
  | .detourStart _ => execDetourStart_keepsQueue _ s
  | .stopEpochReached _ => execStopEpochReached_keepsQueue _ s
  | .ingestSegment _ _ => execIngestSegment_keepsQueue _ _ s
  | .ingestHoldTimeout => execIngestHoldTimeout_keepsQueue s
  | .ldrIngCfgWrite _ => execLdrIngCfgWrite_keepsQueue _ s
  | .ldrIngBytesLoRead _ => execLdrIngBytesLoRead_keepsQueue _ s
  | .heldWeightReleaseDone _ => execHeldWeightReleaseDone_keepsQueue _ s
  | .scrubRow _ _ => execScrubRow_keepsQueue _ _ s
  | .correctionWriteback _ _ _ => execCorrectionWriteback_keepsQueue _ _ _ s
  | .rowRepairSwitch _ _ _ => execRowRepairSwitch_keepsQueue _ _ _ s
  | .rimScrub _ _ _ => execRimScrub_keepsQueue _ _ _ s
  | .rimChannelFail _ _ => execRimChannelFail_keepsQueue _ _ s
  | .alloc _ _ _ => execAlloc_keepsQueue _ _ _ s
  | .ref _ _ => execRef_keepsQueue _ _ s
  | .deref _ _ => execDeref_keepsQueue _ _ s
  | .pin _ _ => execPin_keepsQueue _ _ s
  | .unpin _ _ => execUnpin_keepsQueue _ _ s
  | .copy _ _ => execCopy_keepsQueue _ _ s
  | .commit _ _ => execCommit_keepsQueue _ _ s
  | .evict _ _ => execEvict_keepsQueue _ _ s
  | .warm _ _ => execWarm_keepsQueue _ _ s
  | .query _ _ => execQuery_keepsQueue _ _ s
  | .copyCompletion _ _ => execCopyCompletion_keepsQueue _ _ s
  | .moveCompletion _ _ => execMoveCompletion_keepsQueue _ _ s
  | .pageZeroReported _ _ => execPageZeroReported_keepsQueue _ _ s
  | .pkCmdPresent _ _ => execPkCmdPresent_keepsQueue _ _ s
  | .leCmdStart _ _ => execLeCmdStart_keepsQueue _ _ s
  | .listWalkDone _ => execListWalkDone_keepsQueue _ s
  | .prefixCreate _ _ _ _ _ => execPrefixCreate_keepsQueue _ _ _ _ _ s
  | .admitSeq _ _ => execAdmit_keepsQueue _ _ s
  | .promptFetched _ _ => execPromptFetched_keepsQueue _ _ s
  | .abort _ _ => execAbort_keepsQueue _ _ s
  | .mask _ _ _ => execMask_keepsQueue _ _ _ s
  | .adapterLoad _ _ _ => execAdapterLoad_keepsQueue _ _ _ s
  | .adapterLoadDequeue _ => execAdapterLoadDequeue_keepsQueue _ s
  | .adapterIngestDone _ _ => execAdapterIngestDone_keepsQueue _ _ s
  | .adapterDrop _ _ => execAdapterDrop_keepsQueue _ _ s
  | .hcreate _ _ => execHcreate_keepsQueue _ _ s
  | .hdelete _ _ => execHdelete_keepsQueue _ _ s
  | .choose _ _ => execChoose_keepsQueue _ _ s
  | .batchRequest _ _ => execBatchRequest_keepsQueue _ _ s
  | .fallbackReport _ _ => execFallbackReport_keepsQueue _ _ s
  | .sampleCandidateFlit _ _ _ _ _ _ _ => execSampleCandidateFlit_keepsQueue _ _ _ _ _ _ _ s
  | .sampledRowTimeout _ _ => execSampledRowTimeout_keepsQueue _ _ s
  | .passCommit _ _ => execPassCommit_keepsQueue _ _ s
  | .accountRefill => execAccountRefill_keepsQueue s
  | .acctGrant _ => execAcctGrant_keepsQueue _ s
  | .acctIdxWrite _ => execAcctIdxWrite_keepsQueue _ s
  | .snapshotLand => execSnapshotLand_keepsQueue s
  | .energyMeterTick _ => execEnergyMeterTick_keepsQueue _ s
  | .srvInexactClear _ => execSrvInexactClear_keepsQueue _ s
  | .outCiWrite _ _ => execOutCiWrite_keepsQueue _ _ s
  | .outCfgWrite _ _ _ => execOutCfgWrite_keepsQueue _ _ _ s
  | .srvPidleLoRead _ _ => execSrvPidleLoRead_keepsQueue _ _ s
  | .precisionCfgWrite _ _ => execPrecisionCfgWrite_keepsQueue _ _ s
  | .glbLockEpochLoRead _ _ => execGlbLockEpochLoRead_keepsQueue _ _ s
  | .load _ _ => execLoad_keepsQueue _ _ s
  | .jobStart => execJobStart_keepsQueue s
  | .kill _ => execKill_keepsQueue _ s
  | .release _ => execRelease_keepsQueue _ s
  | .ldrPwrLimitWrite _ => execLdrPwrLimitWrite_keepsQueue _ s
  | .stopTimeout _ => execStopTimeout_keepsQueue _ s
  | .allCoresHalted _ => execAllCoresHalted_keepsQueue _ s
  | .zeroizeDone _ _ => execZeroizeDone_keepsQueue _ _ s
  | .rimClearDone => execRimClearDone_keepsQueue s
  | .activityWindowEnd _ _ => execActivityWindowEnd_keepsQueue _ _ s
  | .powerOverrunCheck _ _ _ => execPowerOverrunCheck_keepsQueue _ _ _ s
  | .feedValid _ _ => execFeedValid_keepsQueue _ _ s
  | .feedInvalid _ _ => execFeedInvalid_keepsQueue _ _ s
  | .feedPresentOpen _ => execFeedPresentOpen_keepsQueue _ s
  | .holdupStart => execHoldupStart_keepsQueue s
  | .holdupEnd => execHoldupEnd_keepsQueue s
  | .converterFail _ => execConverterFail_keepsQueue _ s
  | .fieldCapAdjust _ _ => execFieldCapAdjust_keepsQueue _ _ s
  | .phaseFail _ _ _ => execPhaseFail_keepsQueue _ _ _ s
  | .regionPowerDown _ => execRegionPowerDown_keepsQueue _ s
  | .powerDownProceed _ => execPowerDownProceed_keepsQueue _ s
  | .currentLimiterTrip _ => execCurrentLimiterTrip_keepsQueue _ s
  | .wakeStageRequest _ => execWakeStageRequest_keepsQueue _ s
  | .wakeStageGrant _ => execWakeStageGrant_keepsQueue _ s
  | .wakeComplete _ => execWakeComplete_keepsQueue _ s
  | .rushPriorityRaise _ => execRushPriorityRaise_keepsQueue _ s
  | .rushPriorityLift _ => execRushPriorityLift_keepsQueue _ s
  | .ballastWindow _ _ => execBallastWindow_keepsQueue _ _ s
  | .clockStepChange _ => execClockStepChange_keepsQueue _ s
  | .glideDone => execGlideDone_keepsQueue s
  | .pwrBallastWrite _ => execPwrBallastWrite_keepsQueue _ s
  | .pwrEnergyLoRead _ => execPwrEnergyLoRead_keepsQueue _ s
  | .rgnwPwrELoRead _ _ => execRgnwPwrELoRead_keepsQueue _ _ s
  | .rgnwVminTcLoRead _ _ => execRgnwVminTcLoRead_keepsQueue _ _ s
  | .rgnwVminTmLoRead _ _ => execRgnwVminTmLoRead_keepsQueue _ _ s
  | .vminValidClear _ _ _ => execVminValidClear_keepsQueue _ _ _ s
  | .rgnwTrcIdxWrite _ _ => execRgnwTrcIdxWrite_keepsQueue _ _ s
  | .postedWriteApply _ => execPostedWriteApply_keepsQueue _ s
  | .coldStart => execColdStart_keepsQueue s
  | .st0FeedsPresent => execSt0FeedsPresent_keepsQueue s
  | .st1ManagementBoot _ _ _ _ _ _ => execSt1ManagementBoot_keepsQueue _ _ _ _ _ _ s
  | .st2FuseRead _ => execSt2FuseRead_keepsQueue _ s
  | .st3StackRailRamp _ => execSt3StackRailRamp_keepsQueue _ s
  | .coolantWaitTimeout => execCoolantWaitTimeout_keepsQueue s
  | .st4MeshLock _ => execSt4MeshLock_keepsQueue _ s
  | .meshLockTimeout => execMeshLockTimeout_keepsQueue s
  | .st5RegionSelfTest _ _ => execSt5RegionSelfTest_keepsQueue _ _ s
  | .st6BuildLast => execSt6BuildLast_keepsQueue s
  | .st7MemoryTest _ => execSt7MemoryTest_keepsQueue _ s
  | .st8RimTraining _ => execSt8RimTraining_keepsQueue _ s
  | .st9MeshRoutes _ => execSt9MeshRoutes_keepsQueue _ s
  | .st10EdgeTraining => execSt10EdgeTraining_keepsQueue s
  | .st10Record => execSt10Record_keepsQueue s
  | .st11Readiness => execSt11Readiness_keepsQueue s
  | .edgeTrainRetry _ => execEdgeTrainRetry_keepsQueue _ s
  | .restartByHost _ => execRestartByHost_keepsQueue _ s
  | .restartByContact => execRestartByContact_keepsQueue s
  | .restartPowerDown _ => execRestartPowerDown_keepsQueue _ s
  | .hostPortReset _ => execHostPortReset_keepsQueue _ s
  | .nodeDecouple _ => execNodeDecouple_keepsQueue _ s
  | .refSwitchover => execRefSwitchover_keepsQueue s
  | .refReturn _ => execRefReturn_keepsQueue _ s
  | .clkTimeLoRead _ => execClkTimeLoRead_keepsQueue _ s
  | .stgLocData0Read _ => execStgLocData0Read_keepsQueue _ s
  | .aliveOutToggle => execAliveOutToggle_keepsQueue s
  | .throttleGraceExpire _ => execThrottleGraceExpire_keepsQueue _ s
  | .thermalStretchAdjust _ => execThermalStretchAdjust_keepsQueue _ s
  | .converterOvertemp _ => execConverterOvertemp_keepsQueue _ s
  | .coolantPoll _ _ => execCoolantPoll_keepsQueue _ _ s
  | .flowClampTimeout => execFlowClampTimeout_keepsQueue s
  | .coolantSensorReaddress _ => execCoolantSensorReaddress_keepsQueue _ s
  | .governorLimitUpdate _ => execGovernorLimitUpdate_keepsQueue _ s
  | .governorHoldAdjust _ => execGovernorHoldAdjust_keepsQueue _ s
  | .thmCfgWrite _ => execThmCfgWrite_keepsQueue _ s
  | .flashWriteResume => execFlashWriteResume_keepsQueue s
  | .mgmtWatchdogExpire => execMgmtWatchdogExpire_keepsQueue s
  | .recoveryQuietExpire => execRecoveryQuietExpire_keepsQueue s
  | .rearm _ => execRearm_keepsQueue _ s
  | .recover _ => execRecover_keepsQueue _ s
  | .resumeRepair _ => execResumeRepair_keepsQueue _ s
  | .endRepair _ => execEndRepair_keepsQueue _ s
  | .fltCfgWrite _ => execFltCfgWrite_keepsQueue _ s
  | .fltLogData0Read _ => execFltLogData0Read_keepsQueue _ s
  | .coreFailure _ => execCoreFailure_keepsQueue _ s
  | .spareProcedureStep _ => execSpareProcedureStep_keepsQueue _ s
  | .spareShipmentTimeout => execSpareShipmentTimeout_keepsQueue s
  | .jobResume => execJobResume_keepsQueue s
  | .istWindow _ _ _ _ => execIstWindow_keepsQueue _ _ _ _ s
  | .faultInjectArm _ => execFaultInjectArm_keepsQueue _ s
  | .logCopy _ => execLogCopy_keepsQueue _ s
  | .stage _ _ => execStage_keepsQueue _ _ s
  | .select => execSelect_keepsQueue s
  | .svcClear _ => execSvcClear_keepsQueue _ s
  | .pcr _ _ => execPcr_keepsQueue _ _ s
  | .debugAccess _ _ => execDebugAccess_keepsQueue _ _ s
  | .mctpMessage _ _ => execMctpMessage_keepsQueue _ _ s
  | .getVersion _ => execGetVersion_keepsQueue _ s
  | .getCapabilities _ => execGetCapabilities_keepsQueue _ s
  | .negotiateAlgorithms _ => execNegotiateAlgorithms_keepsQueue _ s
  | .getDigests _ => execGetDigests_keepsQueue _ s
  | .getCertificate _ => execGetCertificate_keepsQueue _ s
  | .challenge _ => execChallenge_keepsQueue _ s
  | .getMeasurements _ => execGetMeasurements_keepsQueue _ s
  | .keyExchange _ => execKeyExchange_keepsQueue _ s
  | .finish _ _ => execFinish_keepsQueue _ _ s
  | .heartbeat _ _ => execHeartbeat_keepsQueue _ _ s
  | .keyUpdate _ _ => execKeyUpdate_keepsQueue _ _ s
  | .endSession _ _ => execEndSession_keepsQueue _ _ s
  | .setKey _ => execSetKey_keepsQueue _ s
  | .setPolicy _ => execSetPolicy_keepsQueue _ s
  | .debug _ => execDebug_keepsQueue _ s
  | .updatePolicy _ => execUpdatePolicy_keepsQueue _ s
  | .enrol _ => execEnrol_keepsQueue _ s
  | .remove _ => execRemove_keepsQueue _ s
  | .fuse _ => execFuse_keepsQueue _ s
  | .approve _ => execApprove_keepsQueue _ s
  | .rollbackCounterAdvance => execRollbackCounterAdvance_keepsQueue s
  | .secSelfTestPeriodic _ => execSecSelfTestPeriodic_keepsQueue _ s
  | .entropyHealthFail => execEntropyHealthFail_keepsQueue s
  | .mgtLogLoRead _ => execMgtLogLoRead_keepsQueue _ s
  | .secCtrLoRead _ => execSecCtrLoRead_keepsQueue _ s
  | .secDbgLoRead _ => execSecDbgLoRead_keepsQueue _ s
  | .glbSerialLoRead _ => execGlbSerialLoRead_keepsQueue _ s
  | .cmdPi _ _ => execCmdPi_keepsQueue _ _ s
  | .assPi _ _ => execAssPi_keepsQueue _ _ s
  | .cplCi _ _ => execCplCi_keepsQueue _ _ s
  | .outCi _ _ => execOutCi_keepsQueue _ _ s
  | .xferPi _ _ => execXferPi_keepsQueue _ _ s
  | .ringCfgWrite _ _ => execRingCfgWrite_keepsQueue _ _ s
  | .xferCfgWrite _ _ => execXferCfgWrite_keepsQueue _ _ s
  | .ringEntryFetch _ _ _ => execRingEntryFetch_keepsQueue _ _ _ s
  | .keeper _ _ => execKeeper_keepsQueue _ _ s
  | .walk _ _ _ => execWalk_keepsQueue _ _ _ s
  | .mover _ _ => execMover_keepsQueue _ _ s
  | .xferEntryFetch _ _ _ => execXferEntryFetch_keepsQueue _ _ _ s
  | .msixHoldoffExpire _ _ => execMsixHoldoffExpire_keepsQueue _ _ s
  | .pmodeWrite _ _ => execPmodeWrite_keepsQueue _ _ s
  | .glbModeWrite _ => execGlbModeWrite_keepsQueue _ s
  | .registerWrite _ _ _ _ => execRegisterWrite_keepsQueue _ _ _ _ s
  | .edgeSend _ _ _ _ _ _ => execEdgeSend_keepsQueue _ _ _ _ _ _ s
  | .edgeFrameRx _ _ => execEdgeFrameRx_keepsQueue _ _ s
  | .edgeControlFrame _ _ => execEdgeControlFrame_keepsQueue _ _ s
  | .edgeControlTimer _ => execEdgeControlTimer_keepsQueue _ s
  | .edgeReplay _ _ => execEdgeReplay_keepsQueue _ _ s
  | .edgeLinkLoss _ => execEdgeLinkLoss_keepsQueue _ s
  | .edgeIngestFrame _ _ => execEdgeIngestFrame_keepsQueue _ _ s
  | .retrain _ => execRetrain_keepsQueue _ s
  | .disable _ => execDisable_keepsQueue _ s
  | .enable _ => execEnable_keepsQueue _ s
  | .modResetNRelease => execModResetNRelease_keepsQueue s
  | .hostPortLinkUp _ _ _ => execHostPortLinkUp_keepsQueue _ _ _ s
  | .edgeTrainingSettled _ _ => execEdgeTrainingSettled_keepsQueue _ _ s
  | .stageFlashGateTimeout => execStageFlashGateTimeout_keepsQueue s
  | .recentRecoveryExpire => execRecentRecoveryExpire_keepsQueue s
  | .scratchpadScrub _ _ _ _ => execScratchpadScrub_keepsQueue _ _ _ _ s
  | .railVoltageSample _ _ _ => execRailVoltageSample_keepsQueue _ _ _ s

/-- Settles O2: `exec` sends each command to its own operation, and none of these writes the queue. That a command whose condition does not hold still
completes, changing nothing, is the model's choice (notes/assumptions/9.md and 4.md), as is the queue left as it is (notes/assumptions/6.md). -/
theorem everyCommandCompletes : Obligations.EveryCommandCompletes := by
  unfold Obligations.EveryCommandCompletes
  exact fun c s => exec_keepsQueue s c

end Sys2Proof.Machine
